-- ==== Sys2Proof/Word.lean ====
section
/-! DEFINITION. The word types of the FJZ-9640 and the names their widths have in this model (R7, R37, R99, R314). -/

namespace Sys2Proof

/-- One byte of memory. -/
abbrev Byte := BitVec 8

/-- A 512-bit data register or token payload (R99). -/
abbrev V512 := BitVec 512

/-- One bit per 32-bit lane: a predicate register or a lane mask (R43, R44). -/
abbrev Mask := BitVec 16

/-- A 64-bit word: a witness, an address, a device register (R109, R222, R225). -/
abbrev W64 := BitVec 64

/-- A 128-bit slot word (R37). -/
abbrev SlotWord := BitVec 128

end Sys2Proof
end

