-- ==== Sys2Proof/EventData.lean ====
section
/-! DEFINITION. What an event of the hardware carries when it comes from outside the module: who issues a register store, a message
of a peer engine, a request of the host. -/

namespace Sys2Proof

/-- Who performs a store to a device register: a slot of an element context, or the host over the host link. -/
inductive Issuer where
  | element (tile ctx : Nat)
  | host
  deriving DecidableEq, Repr

/-- A beat that comes in on a ring port from a neighbouring module (R388), with the ring channel that it travels on. -/
structure RingBeat where
  payload : V512
  mask : Mask
  tag : BitVec 3
  channel : Fin 32
  deriving DecidableEq, Repr

/-- The end of a link at which a beat moves: a port of a router to its neighbour, or a ring port at which a beat comes in from a neighbouring module. -/
inductive LinkEnd where
  | link (port : Nat)
  | ring (port : Nat) (beat : RingBeat)
  deriving DecidableEq, Repr

/-- What a lath supplies as it closes a save image: where it writes the image (R379), the key slot of the page through which it does so (R455), and the witness of
the QFEN after which it copies the vaults (R311). -/
structure SaveAt where
  address : Nat
  slot : Nat
  fence : BitVec 64
  deriving DecidableEq, Repr

/-- A place where data rest under a check (R479): a granule in its tier or in its cache slice, read by the scrubber or by another reader; beat k of a router port's
channel, of an input or of an output endpoint; a skim slot; an element's register files (struck 0), slot words (1) and context words (2); and a tile's copy of a
doubled pipeline, judged by its comparator (R484). -/
inductive CheckPlace where
  | granule (g : Nat) (scrub : Bool)
  | slice (g : Nat) (scrub : Bool)
  | router (site port vc k : Nat)
  | input (tile ctx ep k : Nat)
  | output (tile ctx ep k : Nat)
  | skim (tile slot : Nat)
  | element (tile struck : Nat)
  | copy (tile : Nat)
  deriving DecidableEq, Repr

/-- What one hawk engine sends another (R306, R307): a count, a block, that a block has been written, that a receive has been reached, a chunk. -/
inductive PeerBody where
  | count (n : Nat)
  | block (data : Nat)
  | written
  | ready (tag : Nat)
  | chunk (tag len data : Nat)
  deriving DecidableEq, Repr

/-- A message between hawk engines: the sender's module (its system index) and engine, and the GEN that it is matched by (R306, R307). -/
structure PeerMsg where
  module' : Nat
  engine : Nat
  gen : Nat
  body : PeerBody
  deriving DecidableEq, Repr

/-- What the boot sequencer finds while a phase runs (R33, R34): a power fault, a sensor above 100 °C, a PUF response that cannot be corrected; and, in the
first phase, whether it finds it only once the flash is being read. -/
structure BootFindings where
  power : Bool
  thermal : Bool
  puf : Bool
  reading : Bool := false
  deriving DecidableEq, Repr, Inhabited

/-- A host access over the host link after the device is ready (R21, R36): reads and writes of device memory, and beats of an ingress window (R351). -/
inductive HostAccess where
  | read (pa len : Nat)
  | write (pa : Nat) (data : List Byte)
  deriving DecidableEq, Repr

end Sys2Proof
end

