-- ==== Sys2Proof/Fields.lean ====
section
/-! DEFINITION. The fields of a slot word as constructors (R37, R38, R39, R47, R48): element types, operands, queue
conditions, predicate updates, and the record `Slot` that every slot instruction carries. -/

namespace Sys2Proof

/-- The element types of R38; code 15 is never legal and has no constructor. -/
inductive Ty where
  | none | f32 | bf16 | f16 | e4m3 | e5m2 | cb4
  | s8 | s16 | s32 | s64 | z8 | z16 | z32 | z64
  deriving DecidableEq, Repr

/-- Predicate updates of R48; code 7 is never legal. -/
inductive PredOp where
  | none | set | setn | and | or | xor | andn
  deriving DecidableEq, Repr

/-- A queue condition of a guard (R37, R47). -/
inductive QCond where
  | none
  /-- Kind 1, `iN>=k`. -/
  | beats (ep : Fin 8) (k : BitVec 6)
  /-- Kind 2, `oN free>=k`. -/
  | free (ep : Fin 8) (k : BitVec 6)
  /-- Kind 3, `iN tag=t`. -/
  | tag (ep : Fin 8) (t : BitVec 3)
  deriving DecidableEq, Repr

/-- The operands of R39. -/
inductive Opnd where
  /-- 0x00, field unused. -/
  | none
  | zr | imm | lix | htag | nul
  | d (n : Fin 8)
  | p (n : Fin 8)
  | i (n : Fin 8)
  | o (n : Fin 8)
  | ci (n : Fin 4)
  | co (n : Fin 4)
  deriving DecidableEq, Repr

/-- What a slot word holds beside its opcode (R37): guard, queue conditions, type, operands, predicate update, consumed
endpoints and immediate. -/
structure Slot where
  pmask : BitVec 8
  pval : BitVec 8
  /-- QUANT: true is `all`, false is `any` (R43). -/
  quant : Bool
  q0 : QCond
  q1 : QCond
  ty : Ty
  /-- PK: the packed 16-bit form (R46). -/
  pk : Bool
  dst : Opnd
  sa : Opnd
  sb : Opnd
  sc : Opnd
  predReg : Fin 8
  predOp : PredOp
  adv : BitVec 8
  imm : BitVec 32
  deriving DecidableEq, Repr

/-- Statuses with which the loader refuses an image (R74), in ascending code order. -/
inductive LoadStatus where
  | ok | badHeader | badDigest | badSignature | unitAbsent | reservedBit | undefOpcode | privilege
  | badType | badForm | badOperand | badGuard | slots | context | bind | route | badStage | noRegion
  deriving DecidableEq, Repr


end Sys2Proof
end

