-- ==== Sys2Proof/Syntax.lean ====
section
/-! DEFINITION. The abstract syntax: one constructor for each row of the operation table. A slot instruction carries the
fields of its slot word (R37). An event of the hardware around the elements names the unit it happens at, and carries the
data that come from outside the module. -/

namespace Sys2Proof

/-- One row of the operation table each: first the rows that a slot word encodes, under their opcode of R69, and between them, in the
table's order, the events. -/
inductive Instr where
  /-- ADD (R141): Adds two integer lanes modulo 2^w. -/
  | add (f : Slot)
  /-- SUB (R141): Subtracts two integer lanes modulo 2^w. -/
  | sub (f : Slot)
  /-- ADDS (R141): Adds two integer lanes with saturation to the type's range. -/
  | adds (f : Slot)
  /-- SUBS (R141): Subtracts two integer lanes with saturation to the type's range. -/
  | subs (f : Slot)
  /-- NEG (R141): Negates an integer lane modulo 2^w. -/
  | neg (f : Slot)
  /-- ABS (R141): Takes the absolute value of a signed lane modulo 2^w. -/
  | abs (f : Slot)
  /-- MUL (R142): Multiplies integer lanes and keeps the low w bits. -/
  | mul (f : Slot)
  /-- MULH (R142): Multiplies signed lanes and keeps the high w bits. -/
  | mulh (f : Slot)
  /-- MULHZ (R142): Multiplies unsigned lanes and keeps the high w bits. -/
  | mulhz (f : Slot)
  /-- MAD (R142): Multiplies and adds integer lanes modulo 2^w. -/
  | mad (f : Slot)
  /-- DIVS (R143): Divides signed lanes with truncation and defined exceptional cases. -/
  | divs (f : Slot)
  /-- DIVZ (R143): Divides unsigned lanes with defined division by zero. -/
  | divz (f : Slot)
  /-- REMS (R143): Gives the signed truncated remainder. -/
  | rems (f : Slot)
  /-- REMZ (R143): Gives the unsigned remainder. -/
  | remz (f : Slot)
  /-- MIN (R144): Delivers the signed minimum of two lanes. -/
  | min (f : Slot)
  /-- MAX (R144): Delivers the signed maximum of two lanes. -/
  | max (f : Slot)
  /-- MINZ (R144): Delivers the unsigned minimum of two lanes. -/
  | minz (f : Slot)
  /-- MAXZ (R144): Delivers the unsigned maximum of two lanes. -/
  | maxz (f : Slot)
  /-- AND (R145): Bitwise AND of two lanes. -/
  | and (f : Slot)
  /-- OR (R145): Bitwise OR of two lanes. -/
  | or (f : Slot)
  /-- XOR (R145): Bitwise XOR of two lanes. -/
  | xor (f : Slot)
  /-- NOT (R145): Bitwise NOT of a lane. -/
  | not (f : Slot)
  /-- ANDN (R145): Bitwise a AND NOT b. -/
  | andn (f : Slot)
  /-- SHL (R146): Shifts a lane left by a count from B. -/
  | shl (f : Slot)
  /-- SHR (R146): Shifts a lane right logically. -/
  | shr (f : Slot)
  /-- SRA (R146): Shifts a lane right arithmetically. -/
  | sra (f : Slot)
  /-- ROL (R146): Rotates a lane left by k mod w. -/
  | rol (f : Slot)
  /-- CLZ (R147): Counts leading zero bits of a lane. -/
  | clz (f : Slot)
  /-- POPC (R147): Counts one bits of a lane. -/
  | popc (f : Slot)
  /-- BREV (R147): Reverses the bits of a lane. -/
  | brev (f : Slot)
  /-- BFX (R148): Extracts a bit field with sign or zero extension. -/
  | bfx (f : Slot)
  /-- BFI (R148): Inserts a bit field from B into A. -/
  | bfi (f : Slot)
  /-- CMPEQ (R149): Writes a predicate where lanes are bitwise equal. -/
  | cmpeq (f : Slot)
  /-- CMPNE (R149): Writes a predicate where lanes differ. -/
  | cmpne (f : Slot)
  /-- CMPLT (R149): Writes a predicate where a < b signed. -/
  | cmplt (f : Slot)
  /-- CMPLE (R149): Writes a predicate where a <= b signed. -/
  | cmple (f : Slot)
  /-- CMPLTZ (R149): Writes a predicate where a < b unsigned. -/
  | cmpltz (f : Slot)
  /-- CMPLEZ (R149): Writes a predicate where a <= b unsigned. -/
  | cmplez (f : Slot)
  /-- MOV (R150): Copies 32-bit lanes unchanged. -/
  | mov (f : Slot)
  /-- MOVI (R151): Writes the immediate to every lane of E. -/
  | movi (f : Slot)
  /-- SEL (R152): Selects A or B per lane by a predicate. -/
  | sel (f : Slot)
  /-- LEA (R153): Computes a scaled address with displacement modulo 2^64. -/
  | lea (f : Slot)
  /-- SHUF (R155): Permutes lanes of A by indices in B. -/
  | shuf (f : Slot)
  /-- BCST (R156): Broadcasts one lane of A to every lane of E. -/
  | bcst (f : Slot)
  /-- IDX (R157): Compresses selected lanes into the low lanes. -/
  | idx (f : Slot)
  /-- SCAN (R158): Forms an inclusive or exclusive prefix over lanes of E. -/
  | scan (f : Slot)
  /-- REDADD (R159): Sums lanes of E modulo 2^w into every lane. -/
  | redadd (f : Slot)
  /-- REDMIN (R159): Reduces lanes of E to their minimum. -/
  | redmin (f : Slot)
  /-- REDMAX (R159): Reduces lanes of E to their maximum. -/
  | redmax (f : Slot)
  /-- REDAND (R159): Reduces lanes of E by bitwise AND. -/
  | redand (f : Slot)
  /-- REDOR (R159): Reduces lanes of E by bitwise OR. -/
  | redor (f : Slot)
  /-- FADD (R163): Floating add with one RNE rounding. -/
  | fadd (f : Slot)
  /-- FSUB (R163): Floating subtract with one RNE rounding. -/
  | fsub (f : Slot)
  /-- FMUL (R163): Floating multiply with one RNE rounding. -/
  | fmul (f : Slot)
  /-- FFMA (R163): Fused multiply-add with one rounding. -/
  | ffma (f : Slot)
  /-- FMIN (R163): Floating minimum with -0 below +0. -/
  | fmin (f : Slot)
  /-- FMAX (R163): Floating maximum with -0 below +0. -/
  | fmax (f : Slot)
  /-- FABS (R163): Clears the sign bit of a floating value. -/
  | fabs (f : Slot)
  /-- FNEG (R163): Inverts the sign bit of a floating value. -/
  | fneg (f : Slot)
  /-- FSCL (R164): Scales a floating value by 2^n with one rounding. -/
  | fscl (f : Slot)
  /-- FRND (R165): Rounds to an integral value by the selected function. -/
  | frnd (f : Slot)
  /-- FDIV (R166): Floating divide rounded once. -/
  | fdiv (f : Slot)
  /-- FSQRT (R166): Square root rounded once. -/
  | fsqrt (f : Slot)
  /-- FRSQ (R166): Reciprocal square root rounded once. -/
  | frsq (f : Slot)
  /-- FRCP (R166): Reciprocal rounded once. -/
  | frcp (f : Slot)
  /-- FCMPEQ (R167): Writes a predicate where a = b and neither is NaN. -/
  | fcmpeq (f : Slot)
  /-- FCMPLT (R167): Writes a predicate where a < b. -/
  | fcmplt (f : Slot)
  /-- FCMPLE (R167): Writes a predicate where a <= b. -/
  | fcmple (f : Slot)
  /-- FCMPUN (R167): Writes a predicate where either operand is NaN. -/
  | fcmpun (f : Slot)
  /-- FEX2 (R168): Computes 2^a rounded once by RNE. -/
  | fex2 (f : Slot)
  /-- FLG2 (R168): Computes log2 a rounded once by RNE. -/
  | flg2 (f : Slot)
  /-- FTNH (R168): Computes tanh a rounded once by RNE. -/
  | ftnh (f : Slot)
  /-- FSIG (R168): Computes the logistic sigmoid rounded once by RNE. -/
  | fsig (f : Slot)
  /-- CVT (R170): Converts lanes between types with the context's RMODE and SAT. -/
  | cvt (src : Ty) (f : Slot)
  /-- CBENC (R175): Encodes values to the nearest codebook code. -/
  | cbenc (f : Slot)
  /-- CBDEC (R175): Decodes codebook codes to values. -/
  | cbdec (f : Slot)
  /-- PACK (R172): Converts and packs two sources into narrow elements. -/
  | pack (f : Slot)
  /-- UNPK (R173): Widens one part of each lane exactly. -/
  | unpk (f : Slot)
  /-- FFLG (R176): Reads FP_FLAGS and clears the masked flags in one firing. -/
  | fflg (f : Slot)
  /-- FNOI (R177): Produces counter-based noise from a key and token index. -/
  | fnoi (f : Slot)
  /-- FGUM (R178): Computes the base-2 Gumbel value of a uniform operand. -/
  | fgum (f : Slot)
  /-- CHN (R179): Queues a streaming chain over memory and returns its witness. -/
  | chn (f : Slot)
  /-- CHNW (R186): Waits for the context's chains, merges their flags and returns the count. -/
  | chnw (f : Slot)
  /-- MSET (R197): Sets the row-engine mode, KACT and NACT. -/
  | mset (f : Slot)
  /-- MLDB (R198): Loads one 64-byte chunk of the shadow B panel. -/
  | mldb (f : Slot)
  /-- MCBT (R198): Replaces the codebook table. -/
  | mcbt (f : Slot)
  /-- MPRD (R198): Loads one chunk of the shadow product table. -/
  | mprd (f : Slot)
  /-- MROW (R199): Starts a fused row step into an accumulator row. -/
  | mrow (f : Slot)
  /-- MOUT (R200): Reads an accumulator row out, optionally clearing it. -/
  | mout (f : Slot)
  /-- MCLR (R201): Clears accumulator rows and their poison bits. -/
  | mclr (f : Slot)
  /-- MSPL (R201): Stores accumulator rows to memory. -/
  | mspl (f : Slot)
  /-- MFIL (R201): Loads accumulator rows from memory. -/
  | mfil (f : Slot)
  /-- ROW_STEP_COMPLETE (R203): A row step finishes at the end of the third cycle after its MROW. -/
  | rowStepComplete (tile : Nat)
  /-- SKQ (R212): Takes a query token into a skim slot. -/
  | skq (f : Slot)
  /-- SKIM (R213): Queues a skim pass over one page or page pair. -/
  | skim (f : Slot)
  /-- SKFW (R214): Forwards the earliest-arrived occupied slot's token. -/
  | skfw (f : Slot)
  /-- SKFN (R215): Emits a result or partial token from a skim slot. -/
  | skfn (f : Slot)
  /-- SKMG (R216): Merges a partial state into a skim slot in shard order. -/
  | skmg (f : Slot)
  /-- SKIM_BEAT_DRAIN (R212): The skim unit drains one arriving beat of a taken token into its slot. -/
  | skimBeatDrain (tile slot : Nat)
  /-- SKIM_PASS (R207): A queued skim pass runs over its page and commits M, L and O at its end. -/
  | skimPass (tile : Nat)
  /-- SKIM_MERGE (R216): A drained partial token is checked and merged into the slot's working state. -/
  | skimMerge (tile slot : Nat)
  /-- SKIM_BEAT_EMIT (R214): The skim unit sends the next beat of a forwarded or finished token as credits allow. -/
  | skimBeatEmit (tile slot : Nat)
  /-- NOP (R331): Fires with no effect beyond its ADV consumption. -/
  | nop (f : Slot)
  /-- RETIRE (R332): Consumes ADV beats and retires the context, retiring the instance with its last context. -/
  | retire (f : Slot)
  /-- TIME (R372): Writes device time, cycle count and divider. -/
  | time (f : Slot)
  /-- SREAD (R374): Reads a status selection, optionally clearing CTX_STATUS fields. -/
  | sread (f : Slot)
  /-- TRAP (R477): Fires, consumes ADV beats and halts its context with class trap. -/
  | trap (f : Slot)
  /-- BRKP (R477): Halts its context with class breakpoint when enabled, else acts as NOP. -/
  | brkp (f : Slot)
  /-- PSET (R333): Sets a predicate in lanes of E. -/
  | pset (f : Slot)
  /-- PCLR (R333): Clears a predicate in lanes of E. -/
  | pclr (f : Slot)
  /-- PAND (R333): ANDs two predicates. -/
  | pand (f : Slot)
  /-- POR (R333): ORs two predicates. -/
  | por (f : Slot)
  /-- PXOR (R333): XORs two predicates. -/
  | pxor (f : Slot)
  /-- PNOT (R333): Inverts a predicate. -/
  | pnot (f : Slot)
  /-- PMOV (R333): Copies a predicate. -/
  | pmov (f : Slot)
  /-- PANY (R333): Writes the OR of a predicate over lanes of E. -/
  | pany (f : Slot)
  /-- PALL (R333): Writes the AND of a predicate over lanes of E. -/
  | pall (f : Slot)
  /-- STEER (R334): Sends lanes to one of two destinations by predicate. -/
  | steer (f : Slot)
  /-- MERGE (R335): Joins two sides by predicate, consuming only the selected side. -/
  | merge (f : Slot)
  /-- CSND (R336): Sends one condition token on a co endpoint. -/
  | csnd (f : Slot)
  /-- CRCV (R336): Takes a condition token into a predicate. -/
  | crcv (f : Slot)
  /-- ADVC (R337): Advances a circular buffer's consumer pointer. -/
  | advc (f : Slot)
  /-- ADVP (R337): Advances a circular buffer's producer pointer. -/
  | advp (f : Slot)
  /-- QSTAT (R338): Reads the state of an input endpoint. -/
  | qstat (f : Slot)
  /-- QPEEK (R339): Delivers a held beat without consuming it. -/
  | qpeek (f : Slot)
  /-- DROP (R340): Discards every beat an input endpoint holds. -/
  | drop (f : Slot)
  /-- TAGSET (R341): Sets the current tag of an output endpoint. -/
  | tagset (f : Slot)
  /-- CCFG (R343): Configures a free counter chain. -/
  | ccfg (f : Slot)
  /-- CNXT (R344): Emits the current tuple of a counter chain and advances it. -/
  | cnxt (f : Slot)
  /-- CRST (R345): Restarts or releases a counter chain. -/
  | crst (f : Slot)
  /-- LD (R269): Loads contiguous lanes from an address plus offset. -/
  | ld (f : Slot)
  /-- ST (R272): Stores contiguous lanes and returns a witness. -/
  | st (f : Slot)
  /-- LDW (R270): Loads contiguous lanes given a witness. -/
  | ldw (f : Slot)
  /-- LDX (R271): Gathers elements by index given a witness. -/
  | ldx (f : Slot)
  /-- STX (R273): Scatters elements by index given a witness. -/
  | stx (f : Slot)
  /-- PFT (R274): Asks cache slices to prefetch lines. -/
  | pft (f : Slot)
  /-- LDFE_CLR (R275): Loads when granules are full and empties them. -/
  | ldfeClr (f : Slot)
  /-- LDFE_KEEP (R275): Loads when granules are full and leaves them full. -/
  | ldfeKeep (f : Slot)
  /-- STFE (R276): Stores and sets covered granules full. -/
  | stfe (f : Slot)
  /-- AADD (R277): Atomically adds to memory lanes. -/
  | aadd (f : Slot)
  /-- AMIN (R277): Atomically takes the minimum in memory. -/
  | amin (f : Slot)
  /-- AMAX (R277): Atomically takes the maximum in memory. -/
  | amax (f : Slot)
  /-- AAND (R277): Atomically ANDs into memory. -/
  | aand (f : Slot)
  /-- AOR (R277): Atomically ORs into memory. -/
  | aor (f : Slot)
  /-- AXOR (R277): Atomically XORs into memory. -/
  | axor (f : Slot)
  /-- ASWP (R277): Atomically swaps memory lanes. -/
  | aswp (f : Slot)
  /-- ACAS (R277): Atomically compares and swaps memory lanes. -/
  | acas (f : Slot)
  /-- AFADD (R277): Atomically adds floating values rounded by RNE. -/
  | afadd (f : Slot)
  /-- ACCESS_PERFORM (R227): An access is performed at the home of its granules at one instant. -/
  | accessPerform (access granule : Nat)
  /-- ATOMIC_RETURN_WRITE (R278): The old values of an atomic are written to its return address and made full. -/
  | atomicReturnWrite (access granule : Nat)
  /-- LOAD_DATA_RETURN (R262): Returning load data writes the destination and predicate and releases pending registers. -/
  | loadDataReturn (access : Nat)
  /-- WMRG (R281): Merges two witnesses. -/
  | wmrg (f : Slot)
  /-- WLFT (R281): Lifts a witness to a target level. -/
  | wlft (f : Slot)
  /-- WLFT_H (R281): Lifts a witness and sends a hasten request. -/
  | wlftH (f : Slot)
  /-- WRDY (R281): Tests whether a witness is satisfied. -/
  | wrdy (f : Slot)
  /-- WWT (R281): Waits until a witness is satisfied. -/
  | wwt (f : Slot)
  /-- WNUL (R281): Writes the null witness. -/
  | wnul (f : Slot)
  /-- FENCE_D (R283): Returns the last store witness and orders device accesses. -/
  | fenceD (f : Slot)
  /-- HCPY (R296): Appends an inline copy command to a hawk queue. -/
  | hcpy (f : Slot)
  /-- HRED (R296): Appends an inline reduce command to a hawk queue. -/
  | hred (f : Slot)
  /-- HA2A (R296): Appends an inline all-to-all command to a hawk queue. -/
  | ha2a (f : Slot)
  /-- HCOL (R296): Appends an inline collective replay to a hawk queue. -/
  | hcol (f : Slot)
  /-- HFNG (R296): Appends an inline fingerprint command to a hawk queue. -/
  | hfng (f : Slot)
  /-- NZER (R296): Appends an inline zero command to the sector's near-DRAM queue. -/
  | nzer (f : Slot)
  /-- NCPY (R296): Appends an inline near-DRAM copy command. -/
  | ncpy (f : Slot)
  /-- NCMP (R296): Appends an inline near-DRAM compare command. -/
  | ncmp (f : Slot)
  /-- NFEN (R296): Appends an inline near-DRAM fence command. -/
  | nfen (f : Slot)
  /-- QAPP (R295): Appends a chain of command records to an owned queue. -/
  | qapp (f : Slot)
  /-- QFEN (R299): Collects queue tails into a witness, optionally placing join markers. -/
  | qfen (f : Slot)
  /-- QSEQ (R298): Reads a queue's completion and appended witnesses and status. -/
  | qseq (f : Slot)
  /-- QUEUE_REPLY (R297): An engine's reply to QSEQ or QFEN reaches the issuer and writes its destination. -/
  | queueReply (request queue : Nat)
  /-- DTAB (R300): Writes a column dependency-table entry. -/
  | dtab (f : Slot)
  /-- SQIT (R301): Starts an iteration program on a sequencer-owned queue. -/
  | sqit (f : Slot)
  /-- DEPENDENCY_ENTRY_APPEND (R300): A ready dependency entry is appended to its queue once permits allow. -/
  | dependencyEntryAppend (column entry : Nat)
  /-- SEQUENCER_ITERATION_APPEND (R301): The sequencer generates and appends the next iteration command when a permit is free. -/
  | sequencerIterationAppend (column queue : Nat)
  /-- ENGINE_RECORD_READ (R66): An engine reads a command record once the tail passes it and its witness is satisfied. -/
  | engineRecordRead (queue : Nat)
  /-- HAWK_COPY (R304): A hawk engine performs a copy command in 256-byte blocks. -/
  | hawkCopy (queue : Nat)
  /-- HAWK_REDUCE (R304): A hawk engine performs an elementwise reduce command. -/
  | hawkReduce (queue : Nat)
  /-- HAWK_ALL_TO_ALL (R306): A hawk engine performs its rank's part of an all-to-all. -/
  | hawkAllToAll (queue : Nat)
  /-- HAWK_COLLECTIVE_REPLAY (R307): A hawk engine replays a collective chunk graph step by step. -/
  | hawkCollectiveReplay (queue : Nat)
  /-- HAWK_FINGERPRINT (R305): A hawk engine computes SHAKE256 over a range. -/
  | hawkFingerprint (queue : Nat)
  /-- NEAR_DRAM_ZERO (R308): A near-DRAM unit zeroes a range of its sector. -/
  | nearDramZero (queue : Nat)
  /-- NEAR_DRAM_COPY (R308): A near-DRAM unit copies within its sector. -/
  | nearDramCopy (queue : Nat)
  /-- NEAR_DRAM_COMPARE (R308): A near-DRAM unit compares two ranges and writes the result word. -/
  | nearDramCompare (queue : Nat)
  /-- NEAR_DRAM_FENCE (R309): A near-DRAM unit waits for earlier accesses to be performed. -/
  | nearDramFence (queue : Nat)
  /-- ENGINE_PEER_MESSAGE (R307): A count, block or chunk from a peer engine arrives and is matched or held. -/
  | enginePeerMessage (queue : Nat) (msg : Option PeerMsg)
  /-- ENGINE_COMMAND_COMPLETION (R289): An engine command completes with its STATUS written, advancing PF or stopping the queue. -/
  | engineCommandCompletion (queue : Nat)
  /-- PERMIT_RETURN (R288): A completion returns one permit to the owner's queue mirror. -/
  | permitReturn (queue : Nat)
  /-- QUEUE_CTL_ATTACH (R287): Attaches an owner and ASID to a queue. -/
  | queueCtlAttach (src : Issuer) (queue : Nat) (value : BitVec 64)
  /-- QUEUE_CTL_DETACH (R287): Detaches a queue's owner and discards its mirror. -/
  | queueCtlDetach (src : Issuer) (queue : Nat) (value : BitVec 64)
  /-- QUEUE_CTL_RETRY (R294): Performs a stopped command again from its start. -/
  | queueCtlRetry (src : Issuer) (queue : Nat) (value : BitVec 64)
  /-- QUEUE_CTL_SKIP (R294): Completes a stopped command without further accesses. -/
  | queueCtlSkip (src : Issuer) (queue : Nat) (value : BitVec 64)
  /-- GINI (R430): Initialises a grammar context from a verified image. -/
  | gini (f : Slot)
  /-- GADV (R431): Advances a node configuration by one token. -/
  | gadv (f : Slot)
  /-- GMSK (R432): Computes and writes a node's 32 KiB mask. -/
  | gmsk (f : Slot)
  /-- GFRK (R433): Forks a node from another node or COMMIT. -/
  | gfrk (f : Slot)
  /-- GCMT (R434): Commits an accepted path of nodes. -/
  | gcmt (f : Slot)
  /-- GRBK (R435): Releases nodes or rewinds COMMIT to a history position. -/
  | grbk (f : Slot)
  /-- GSAV (R436): Writes COMMIT to a save area. -/
  | gsav (f : Slot)
  /-- GRST (R436): Restores a grammar context from a save area. -/
  | grst (f : Slot)
  /-- GSTA (R437): Reports a grammar context's state. -/
  | gsta (f : Slot)
  /-- STENCIL_COMMAND_COMPLETION (R428): A stencil command completes and writes its witness and status to D. -/
  | stencilCommandCompletion (column command : Nat)
  /-- CREQ (R365): Requests placement of a child configuration. -/
  | creq (f : Slot)
  /-- CREQ_REPLACE (R387): Requests replacement of the own instance with new RMODE and SAT. -/
  | creqReplace (f : Slot)
  /-- CREQ_RESOLVE (R365): A request resolves and writes its status and child details to D. -/
  | creqResolve (request : Nat)
  /-- CREL (R369): Retires an instance and its descendants. -/
  | crel (f : Slot)
  /-- ETRG (R371): Sets the instance's trigger witness and releases AFTER dependants. -/
  | etrg (f : Slot)
  /-- TLBIR (R451): Sends a translation invalidation to the domain's caches. -/
  | tlbir (f : Slot)
  /-- TLB_INVALIDATE_APPLY (R451): A translation cache drops matching entries at its instant r_c. -/
  | tlbInvalidateApply (invalidation cache : Nat)
  /-- TLBSY (R453): Waits until earlier invalidations of the context have drained. -/
  | tlbsy (f : Slot)
  /-- TLBSY_DRAINED (R453): Every access with an old translation is performed and TLBSY's destination is written. -/
  | tlbsyDrained (request : Nat)
  /-- KSLT_ASSIGN (R456): Assigns a key slot to a domain. -/
  | ksltAssign (f : Slot)
  /-- KSLT_LOAD (R456): Loads a key pair into an empty slot. -/
  | ksltLoad (f : Slot)
  /-- KSLT_GENERATE (R456): The verifier derives a key into an empty slot. -/
  | ksltGenerate (f : Slot)
  /-- KSLT_CLEAR (R456): Starts clearing a key slot. -/
  | ksltClear (f : Slot)
  /-- KEY_CLEAR_END (R457): A key clear completes and the slot becomes EMPTY or UNASSIGNED. -/
  | keyClearEnd (key : Nat)
  /-- DCTL_DEFINE (R458): Sets a domain's target shape. -/
  | dctlDefine (f : Slot)
  /-- DCTL_QUIESCE (R458): Halts or kills instances in leaving sectors. -/
  | dctlQuiesce (f : Slot)
  /-- DCTL_SCRUB (R458): Scrubs leaving sectors to clean state. -/
  | dctlScrub (f : Slot)
  /-- DCTL_SWITCH (R458): Moves sector ownership at one instant. -/
  | dctlSwitch (f : Slot)
  /-- DCTL_RELOAD (R458): Loads the domain's lath into joining sectors. -/
  | dctlReload (f : Slot)
  /-- ECNT (R466): Reads energy counters. -/
  | ecnt (f : Slot)
  /-- FREC (R474): Reads a beat of the head fault record, optionally popping it. -/
  | frec (f : Slot)
  /-- FRSM_RETRY (R475): Re-arms a halted context once the re-arm witness is satisfied. -/
  | frsmRetry (f : Slot)
  /-- FRSM_RETIRE (R475): Retires a halted context. -/
  | frsmRetire (f : Slot)
  /-- FRSM_KILL (R475): Kills a halted context's instance and its descendants. -/
  | frsmKill (f : Slot)
  /-- CHAIN_GROUP (R181): A streaming chain issues one group in a cycle with no firing. -/
  | chainGroup (tile : Nat)
  /-- OUTPUT_BEAT_DEPART (R318): A beat leaves an output endpoint when credit allows, freeing its place. -/
  | outputBeatDepart (tile ctx ep : Nat)
  /-- LINK_BEAT_SEND (R320): A link sends one beat on a virtual channel chosen round-robin. -/
  | linkBeatSend (site : Nat) (port : LinkEnd)
  /-- ROUTER_ROUTE (R316): A router matches a beat to a routing word and forwards its copies. -/
  | routerRoute (site port vc : Nat)
  /-- CONDITION_TOKEN_HOP (R330): A condition token crosses a control link or reaches its ci endpoint. -/
  | conditionTokenHop (site port channel : Nat)
  /-- LINK_RETRY (R480): A beat fails its check and the link resends from it in order. -/
  | linkRetry (site port : Nat)
  /-- LINK_DEGRADED (R480): After 16 failed attempts the link retrains at half width. -/
  | linkDegraded (site port : Nat)
  /-- LINK_DOWN (R480): Retraining fails and the link is declared down. -/
  | linkDown (site port : Nat)
  /-- POISON_NOTICE (R480): A store lost to a down link is performed at its home as poison. -/
  | poisonNotice (access granule : Nat)
  /-- RING_DOWN (R479): A ring port fails uncorrectably and a check record is sent. -/
  | ringDown (port : Nat)
  /-- LOGIC_ERROR (R479): An uncorrectable error in element logic halts every context of the element. -/
  | logicError (tile struck : Nat)
  /-- EPOCH_OPEN (R243): A scope group opens its next epoch after its period or a hasten. -/
  | epochOpen (level group : Nat)
  /-- EPOCH_ACKNOWLEDGE (R240): A member acknowledges the open epoch and sends its TAGGED value. -/
  | epochAcknowledge (level group writer : Nat)
  /-- EPOCH_CLOSE (R241): An epoch closes once its tagged stores are performed and a pulse is sent. -/
  | epochClose (level group : Nat)
  /-- CLOSURE_PULSE_RECEIPT (R241): A member receives a closure pulse and sets CLOSED. -/
  | closurePulseReceipt (level group writer : Nat)
  /-- EPOCH_PERIOD_WRITE (R243): The root lath sets an epoch period before its first DCTL. -/
  | epochPeriodWrite (src : Issuer) (level : Nat) (value : BitVec 64)
  /-- MSCF_FLUSH (R234): Starts flushing named cache slices. -/
  | mscfFlush (src : Issuer) (value : BitVec 64)
  /-- MSC_FLUSH_COMPLETE (R234): Every dirty line of the flush is written back and BUSY returns to 0. -/
  | mscFlushComplete
  /-- LAUNCH_PACKET (R352): A launch packet on an ingress stream is accepted or refused. -/
  | launchPacket (port : Nat)
  /-- LAUNCH_DATA_BEAT (R352): A data beat of a launch is buffered and delivered to the instance's port. -/
  | launchDataBeat (port : Nat)
  /-- RESYNCHRONISATION_BEAT (R353): A resynchronisation beat is discarded and ends discarding. -/
  | resynchronisationBeat (port : Nat)
  /-- UNDELIMITABLE_BEAT (R353): A beat of unknown KIND starts discarding up to the next resynchronisation beat. -/
  | undelimitableBeat (port : Nat)
  /-- PENDING_POOL_SCAN (R361): The lath scans the pending pool and places every placeable entry. -/
  | pendingPoolScan (domain asid : Nat)
  /-- FALLBACK_ENTER (R358): Once other instances retire, the lath places the resident instance and sets FALLBACK. -/
  | fallbackEnter (domain asid : Nat)
  /-- ENERGY_WINDOW (R465): An energy window expires and deferred entries are reconsidered. -/
  | energyWindow (domain : Nat)
  /-- ENERGY_CTL_WRITE (R465): Sets a domain's energy budget and restarts its window. -/
  | energyCtlWrite (src : Issuer) (domain : Nat) (value : BitVec 64)
  /-- PREEMPTION (R377): A HALT_CTL store halts an instance's region within 240 cycles. -/
  | preemption (domain : Nat)
  /-- REGION_QUIESCED (R377): Every in-flight activity of a halted region finishes and the save image closes. -/
  | regionQuiesced (domain : Nat) (evict : Bool) (address : SaveAt)
  /-- SAVE_IMAGE_RESTORE (R385): The lath restores a save image into a region and releases its contexts. -/
  | saveImageRestore (domain number : Nat) (move : Bool) (fence : BitVec 64)
  /-- MATRIX_OWNER_SPILL (R191): The lath spills a foreign owner's row-engine state and cleans the engine. -/
  | matrixOwnerSpill (tile : Nat)
  /-- REFILL_REQUEST (R403): A tile asks its sector lath to refill an evicted page. -/
  | refillRequest (tile entry : Nat)
  /-- FAULT_RECORD_ENQUEUE (R472): A fault record enters its domain's fault queue, or is lost when full. -/
  | faultRecordEnqueue (domain : Nat)
  /-- THERMAL_CLAMP (R29): A sensor at 105 °C forces the domain to D = 8. -/
  | thermalClamp (sector sensor tenths : Nat)
  /-- THERMAL_CLAMP_RELEASE (R29): Sensors stay below 100 °C for 1 ms and the clamp lifts. -/
  | thermalClampRelease (domain : Nat)
  /-- THERMAL_HALT (R29): A sensor at 115 °C halts every element at a firing boundary. -/
  | thermalHalt (sensor tenths : Nat)
  /-- THERMAL_RESUME (R31): Sensors stay below 100 °C for 10 ms and elements fire again. -/
  | thermalResume (sensor tenths : Nat)
  /-- POWER_REMOVE (R31): Regulators remove stack power at 125 °C or after a 1 s halt. -/
  | powerRemove
  /-- BOOT_SEQUENCE (R32): After power-good the sequencer runs the boot phases in order. -/
  | bootSequence (found : BootFindings)
  /-- MANAGEMENT_PORT_RESET (R33): A management-port reset leaves a halted boot or power-off state. -/
  | managementPortReset
  /-- HOST_REQUEST_REFUSED (R36): A host access before ready completes with Unsupported Request. -/
  | hostRequestRefused (access : HostAccess)
  /-- INGRESS_CTL_WRITE (R350): The root lath sets an ingress port's domain, enable and entry tile. -/
  | ingressCtlWrite (src : Issuer) (port : Nat) (value : BitVec 64)
  /-- DOM_CTL_WRITE (R443): Sets a domain's ASID table, divider and reserve level. -/
  | domCtlWrite (src : Issuer) (domain : Nat) (value : BitVec 64)
  /-- DOM_SHARE_WRITE (R444): Sets a domain's bandwidth shares and far-memory range. -/
  | domShareWrite (src : Issuer) (domain : Nat) (value : BitVec 64)
  /-- DOM_TRUST_WRITE (R460): Sets a domain's publisher key table. -/
  | domTrustWrite (src : Issuer) (domain : Nat) (value : BitVec 64)
  /-- STENCIL_CTL_WRITE (R418): Sets a column's stencil stack pool. -/
  | stencilCtlWrite (src : Issuer) (column : Nat) (value : BitVec 64)
  /-- ATTEST_REPORT (R463): The verifier writes a signed attestation report. -/
  | attestReport (src : Issuer) (domain : Nat) (value : BitVec 64)
  /-- ATTEST_PUBLIC_KEY (R463): The verifier writes the device identity public key. -/
  | attestPublicKey (src : Issuer) (domain : Nat) (value : BitVec 64)
  /-- TILE_RETIRE (R486): The root lath retires a tile, substituting a spare when one is left. -/
  | tileRetire (tile reason : Nat)
  /-- SCRUB_PASS (R483): The scrubber reads and corrects granules on its interval. -/
  | scrubPass (place : CheckPlace) (corrected uncorrectable : Bool)
  /-- DEVICE_TIME_SLEW (R373): A module slews DEVICE_NS towards the system time source. -/
  | deviceTimeSlew (forward : Bool) (ns : Nat)
  /-- PRECISION_TIME_MEASUREMENT (R373): The host link answers a PTM request with DEVICE_NS. -/
  | precisionTimeMeasurement
  /-- REGISTER_WRITE (R508): A store to any other register is performed by its rule or discarded. -/
  | registerWrite (src : Issuer) (address : Nat) (value : BitVec 64)
  /-- HOST_LINK_ACCESS (R357): A host read or write arriving on the host link after the device is ready is performed on device memory or a window, in link order, a poisoned read completing with a poisoned TLP. -/
  | hostLinkAccess (access : HostAccess)
  /-- HOST_LINK_ENUMERATION (R36): The host link enumerates as soon as the PCIe link trains. -/
  | hostLinkEnumeration
  deriving DecidableEq, Repr

end Sys2Proof
end

