-- ==== Sys2Proof/Turn.lean ====
section
/-! DEFINITION. A turn: what moves next (assumption log 1). -/

namespace Sys2Proof

/-- Which unit moves next: the arbiter of an element, or an event of the hardware around the elements. -/
inductive Turn where
  | element (tile : Nat)
  | event (i : Instr)
  deriving DecidableEq, Repr, Inhabited

end Sys2Proof
end

