-- ==== Sys2Proof/Config.lean ====
section
/-! DEFINITION. Free values: what the spec leaves open, as constants without a body, so that a statement holds whatever they are
(assumption logs 1, 2, 5, 8, 17, 22). None can be evaluated. -/

namespace Sys2Proof.Config

open Sys2Proof

/-- The unit that moves at the n-th step when the agenda is empty: which of the units that can move does so first is not fixed
by the spec (log 1). -/
opaque nextTurn : Nat → Turn

/-- Reference-clock ticks (4.8 GHz) that pass with the n-th step (log 5). -/
opaque elapsed : Nat → Nat

/-- The bytes of a granule that the spec leaves open, by the free counter: those of a poisoned granule (R481) and those of a window or an
unbacked address that no rule gives contents (log 2). -/
opaque openGranule : Nat → BitVec 128

/-- Key bits that the verifier derives for GENERATE (R456, log 8). -/
opaque derivedKey : Nat → BitVec 512

/-- A byte of a signature or a public key that the verifier forms with the device identity key (R463, log 8). -/
opaque signatureByte : Nat → Byte

/-- A byte of the device identity public key (R34, R463, log 8). -/
opaque identityByte : Nat → Byte

/-- Whether a signature of 3,309 bytes over signed bytes verifies under a public key, all as little-endian numbers (R93, R460, log 8). -/
opaque signatureValid : Nat → Nat → Nat → Bool

/-- Residual tokens that a stencil engine walks before its deadline passes (R432, log 2). -/
opaque walked : Nat → Nat

/-- Energy in microjoules that the hardware measures (R465, log 17). -/
opaque energy : Nat → Nat

/-- How many of some lookups in a memory-side cache slice hit (R235, log 22). -/
opaque mscHits : Nat → Nat

/-- How many lookups the reads of a stencil command make in a slice (R235, log 22). -/
opaque mscReads : Nat → Nat

end Sys2Proof.Config
end

