-- ==== Sys2Proof/Machine/Codes.lean ====
section
/-! DEFINITION. The codes of the slot fields (R38, R39, R48, R74), the widths and kinds of the element types (R8, R99, R136), and the
bit-field helpers that every decoder of this model uses (R7). -/

namespace Sys2Proof

/-- The type code of R38. -/
def Ty.code : Ty → Nat
  | .none => 0 | .f32 => 1 | .bf16 => 2 | .f16 => 3 | .e4m3 => 4 | .e5m2 => 5 | .cb4 => 6
  | .s8 => 7 | .s16 => 8 | .s32 => 9 | .s64 => 10 | .z8 => 11 | .z16 => 12 | .z32 => 13 | .z64 => 14

/-- The type of a code (R38); none for 15. -/
def Ty.ofCode : Nat → Option Ty
  | 0 => some .none | 1 => some .f32 | 2 => some .bf16 | 3 => some .f16 | 4 => some .e4m3 | 5 => some .e5m2
  | 6 => some .cb4 | 7 => some .s8 | 8 => some .s16 | 9 => some .s32 | 10 => some .s64 | 11 => some .z8
  | 12 => some .z16 | 13 => some .z32 | 14 => some .z64 | _ => Option.none

/-- Width in bits of an element of a type in memory and of its value (R8, R101, R108). TYPE 0 moves 32-bit lanes (R136). -/
def Ty.width : Ty → Nat
  | .none => 32 | .f32 => 32 | .bf16 => 16 | .f16 => 16 | .e4m3 => 8 | .e5m2 => 8 | .cb4 => 4
  | .s8 => 8 | .s16 => 16 | .s32 => 32 | .s64 => 64 | .z8 => 8 | .z16 => 16 | .z32 => 32 | .z64 => 64

/-- The two types whose forms work on eight 64-bit lanes (R46, R136). -/
def Ty.is64 : Ty → Bool
  | .s64 => true | .z64 => true | _ => false

/-- Lane width of a form of this type: 64 or 32 bits (R99, R100). -/
def Ty.laneWidth (t : Ty) : Nat := if t.is64 then 64 else 32

/-- Number of lanes of a form of this type: 8 or 16 (R136). -/
def Ty.lanes (t : Ty) : Nat := if t.is64 then 8 else 16

/-- The signed integer types (R108). -/
def Ty.signed : Ty → Bool
  | .s8 => true | .s16 => true | .s32 => true | .s64 => true | _ => false

/-- The integer types (R108). -/
def Ty.isInt : Ty → Bool
  | .s8 => true | .s16 => true | .s32 => true | .s64 => true
  | .z8 => true | .z16 => true | .z32 => true | .z64 => true | _ => false

/-- The floating-point types (R102). -/
def Ty.isFloat : Ty → Bool
  | .f32 => true | .bf16 => true | .f16 => true | .e4m3 => true | .e5m2 => true | _ => false

/-- The PRED_OP code of R48. -/
def PredOp.code : PredOp → Nat
  | .none => 0 | .set => 1 | .setn => 2 | .and => 3 | .or => 4 | .xor => 5 | .andn => 6

/-- The predicate update of a code (R48). -/
def PredOp.ofCode : Nat → Option PredOp
  | 0 => some .none | 1 => some .set | 2 => some .setn | 3 => some .and | 4 => some .or | 5 => some .xor
  | 6 => some .andn | _ => Option.none

/-- The operand code of R39. -/
def Opnd.code : Opnd → Nat
  | .none => 0 | .zr => 1 | .imm => 2 | .lix => 3 | .htag => 4 | .nul => 5
  | .d n => 8 + n.val
  | .p n => 16 + n.val
  | .i n => 24 + n.val
  | .o n => 32 + n.val
  | .ci n => 40 + n.val
  | .co n => 44 + n.val

/-- The operand of a code (R39); none for the reserved codes 0x06, 0x07 and 0x30 upwards. -/
def Opnd.ofCode (c : Nat) : Option Opnd :=
  match c / 8 with
  | 0 => match c % 8 with
    | 0 => some .none | 1 => some .zr | 2 => some .imm | 3 => some .lix | 4 => some .htag | 5 => some .nul
    | _ => Option.none
  | 1 => some (.d ⟨c % 8, Nat.mod_lt _ (by decide)⟩)
  | 2 => some (.p ⟨c % 8, Nat.mod_lt _ (by decide)⟩)
  | 3 => some (.i ⟨c % 8, Nat.mod_lt _ (by decide)⟩)
  | 4 => some (.o ⟨c % 8, Nat.mod_lt _ (by decide)⟩)
  | 5 => if c % 8 < 4 then some (.ci ⟨c % 4, Nat.mod_lt _ (by decide)⟩)
         else some (.co ⟨c % 4, Nat.mod_lt _ (by decide)⟩)
  | _ => Option.none

/-- A slot with every field unused: the word of a NOP without guard, from which tests build their slots. -/
def Slot.blank : Slot :=
  { pmask := 0, pval := 0, quant := false, q0 := .none, q1 := .none, ty := .none, pk := false,
    dst := .none, sa := .none, sb := .none, sc := .none, predReg := 0, predOp := .none, adv := 0, imm := 0 }

/-- The code of a load status (R74). -/
def LoadStatus.code : LoadStatus → Nat
  | .ok => 0 | .badHeader => 1 | .badDigest => 2 | .badSignature => 3 | .unitAbsent => 4 | .reservedBit => 5
  | .undefOpcode => 6 | .privilege => 7 | .badType => 8 | .badForm => 9 | .badOperand => 10 | .badGuard => 11
  | .slots => 12 | .context => 13 | .bind => 14 | .route => 15 | .badStage => 16 | .noRegion => 17

/-- Bits [hi:lo] of a natural number, as the slices of R7 are written with lo and a width. -/
def bits (x lo n : Nat) : Nat := x / 2 ^ lo % 2 ^ n

/-- Bit k of a natural number. -/
def bitAt (x k : Nat) : Bool := x / 2 ^ k % 2 == 1


end Sys2Proof
end

