-- ==== Sys2Proof/Machine/OpcodeMap.lean ====
section
/-! DEFINITION. The opcode map of R69 as data: the instruction of an (OPC, SUB) pair, the pair of an instruction, and for each
pair its type class, packed form, privilege, operand positions and immediate parameter. -/

namespace Sys2Proof.Machine

open Sys2Proof

/-- The instruction of an (OPC, SUB) pair (R69), carrying its slot; the four pairs that several rows of the operation table share
are told apart by IMM (R365, R456, R458), and FRSM by its operand at the firing (R475). -/
def ofCode (opc sub imm : Nat) : Option (Slot → Instr) :=
  match opc with
  | 0 => match sub with
    | 0 => some .nop
    | 1 => some .retire
    | 2 => some .time
    | 3 => some .sread
    | 4 => some .trap
    | 5 => some .brkp
    | _ => none
  | 16 => match sub with
    | 0 => some .add
    | 1 => some .sub
    | 2 => some .adds
    | 3 => some .subs
    | 4 => some .neg
    | 5 => some .abs
    | _ => none
  | 17 => match sub with
    | 0 => some .mul
    | 1 => some .mulh
    | 2 => some .mulhz
    | 3 => some .mad
    | _ => none
  | 18 => match sub with
    | 0 => some .divs
    | 2 => some .rems
    | 1 => some .divz
    | 3 => some .remz
    | _ => none
  | 19 => match sub with
    | 0 => some .min
    | 1 => some .max
    | 2 => some .minz
    | 3 => some .maxz
    | _ => none
  | 20 => match sub with
    | 0 => some .and
    | 1 => some .or
    | 2 => some .xor
    | 4 => some .andn
    | 3 => some .not
    | _ => none
  | 21 => match sub with
    | 0 => some .shl
    | 1 => some .shr
    | 2 => some .sra
    | 3 => some .rol
    | _ => none
  | 22 => match sub with
    | 0 => some .clz
    | 1 => some .popc
    | 2 => some .brev
    | _ => none
  | 23 => match sub with
    | 0 => some .bfx
    | 1 => some .bfi
    | _ => none
  | 24 => match sub with
    | 0 => some .cmpeq
    | 1 => some .cmpne
    | 2 => some .cmplt
    | 3 => some .cmple
    | 4 => some .cmpltz
    | 5 => some .cmplez
    | _ => none
  | 25 => match sub with
    | 0 => some .mov
    | 1 => some .movi
    | 2 => some .sel
    | 3 => some .lea
    | _ => none
  | 26 => match sub with
    | 0 => some .shuf
    | 2 => some .idx
    | 1 => some .bcst
    | 3 => some .scan
    | _ => none
  | 27 => match sub with
    | 0 => some .redadd
    | 1 => some .redmin
    | 2 => some .redmax
    | 3 => some .redand
    | 4 => some .redor
    | _ => none
  | 32 => match sub with
    | 0 => some .fadd
    | 1 => some .fsub
    | 2 => some .fmul
    | 4 => some .fmin
    | 5 => some .fmax
    | 3 => some .ffma
    | 6 => some .fabs
    | 7 => some .fneg
    | 8 => some .fscl
    | 9 => some .frnd
    | _ => none
  | 33 => match sub with
    | 0 => some .fdiv
    | 1 => some .fsqrt
    | 2 => some .frsq
    | 3 => some .frcp
    | _ => none
  | 34 => match sub with
    | 0 => some .fcmpeq
    | 1 => some .fcmplt
    | 2 => some .fcmple
    | 3 => some .fcmpun
    | _ => none
  | 35 => match sub with
    | 0 => some .fex2
    | 1 => some .flg2
    | 2 => some .ftnh
    | 3 => some .fsig
    | _ => none
  | 36 => match sub with
    | 1 => some (.cvt .f32)
    | 2 => some (.cvt .bf16)
    | 3 => some (.cvt .f16)
    | 4 => some (.cvt .e4m3)
    | 5 => some (.cvt .e5m2)
    | 6 => some (.cvt .cb4)
    | 7 => some (.cvt .s8)
    | 8 => some (.cvt .s16)
    | 9 => some (.cvt .s32)
    | 10 => some (.cvt .s64)
    | 11 => some (.cvt .z8)
    | 12 => some (.cvt .z16)
    | 13 => some (.cvt .z32)
    | 14 => some (.cvt .z64)
    | _ => none
  | 37 => match sub with
    | 0 => some .cbenc
    | 1 => some .cbdec
    | 2 => some .pack
    | 3 => some .unpk
    | _ => none
  | 38 => match sub with
    | 0 => some .fflg
    | 1 => some .fnoi
    | 2 => some .fgum
    | _ => none
  | 39 => match sub with
    | 0 => some .chn
    | 1 => some .chnw
    | _ => none
  | 48 => match sub with
    | 0 => some .mset
    | 1 => some .mldb
    | 2 => some .mcbt
    | 3 => some .mprd
    | 4 => some .mrow
    | 5 => some .mout
    | 6 => some .mclr
    | 7 => some .mspl
    | 8 => some .mfil
    | _ => none
  | 49 => match sub with
    | 0 => some .skq
    | 1 => some .skim
    | 2 => some .skfw
    | 3 => some .skfn
    | 4 => some .skmg
    | _ => none
  | 64 => match sub with
    | 0 => some .pset
    | 1 => some .pclr
    | 2 => some .pand
    | 3 => some .por
    | 4 => some .pxor
    | 5 => some .pnot
    | 6 => some .pmov
    | 7 => some .pany
    | 8 => some .pall
    | _ => none
  | 65 => match sub with
    | 0 => some .steer
    | 1 => some .merge
    | _ => none
  | 66 => match sub with
    | 0 => some .csnd
    | 1 => some .crcv
    | _ => none
  | 67 => match sub with
    | 0 => some .advc
    | 1 => some .advp
    | 5 => some .tagset
    | 2 => some .qstat
    | 3 => some .qpeek
    | 4 => some .drop
    | _ => none
  | 68 => match sub with
    | 0 => some .ccfg
    | 1 => some .cnxt
    | 2 => some .crst
    | _ => none
  | 80 => match sub with
    | 0 => some .ld
    | 1 => some .st
    | 2 => some .ldw
    | 3 => some .ldx
    | 4 => some .stx
    | 5 => some .pft
    | _ => none
  | 81 => match sub with
    | 0 => some .ldfeClr
    | 1 => some .ldfeKeep
    | 2 => some .stfe
    | _ => none
  | 82 => match sub with
    | 0 => some .aadd
    | 1 => some .amin
    | 2 => some .amax
    | 3 => some .aand
    | 4 => some .aor
    | 5 => some .axor
    | 6 => some .aswp
    | 7 => some .acas
    | 8 => some .afadd
    | _ => none
  | 83 => match sub with
    | 0 => some .wmrg
    | 1 => some .wlft
    | 2 => some .wlftH
    | 3 => some .wrdy
    | 4 => some .wwt
    | 5 => some .wnul
    | _ => none
  | 84 => match sub with
    | 0 => some .fenceD
    | _ => none
  | 96 => match sub with
    | 0 => some .hcpy
    | 1 => some .hred
    | 2 => some .ha2a
    | 3 => some .hcol
    | 4 => some .hfng
    | _ => none
  | 97 => match sub with
    | 0 => some .nzer
    | 1 => some .ncpy
    | 2 => some .ncmp
    | 3 => some .nfen
    | _ => none
  | 98 => match sub with
    | 0 => some .qapp
    | 1 => some .qfen
    | 2 => some .qseq
    | 3 => some .dtab
    | 4 => some .sqit
    | _ => none
  | 112 => match sub with
    | 0 => some .gini
    | 1 => some .gadv
    | 2 => some .gmsk
    | 3 => some .gfrk
    | 6 => some .gsav
    | 7 => some .grst
    | 4 => some .gcmt
    | 5 => some .grbk
    | 8 => some .gsta
    | _ => none
  | 128 => match sub with
    | 0 => some (if bitAt imm 3 then .creqReplace else .creq)
    | 1 => some .crel
    | 2 => some .etrg
    | _ => none
  | 129 => match sub with
    | 0 => some .tlbir
    | 1 => some .tlbsy
    | 2 => match imm % 4 with
      | 0 => some .ksltAssign
      | 1 => some .ksltLoad
      | 2 => some .ksltGenerate
      | _ => some .ksltClear
    | 3 => match imm % 8 with
      | 0 => some .dctlDefine
      | 1 => some .dctlQuiesce
      | 2 => some .dctlScrub
      | 3 => some .dctlSwitch
      | _ => some .dctlReload
    | _ => none
  | 130 => match sub with
    | 0 => some .ecnt
    | _ => none
  | 131 => match sub with
    | 0 => some .frec
    | 1 => some .frsmRetry
    | _ => none
  | _ => none

/-- The (OPC, SUB) pair and the slot of a slot instruction (R69); none for an event. -/
def toCode : Instr → Option (Nat × Nat × Slot)
  | .add f => some (16, 0, f)
  | .sub f => some (16, 1, f)
  | .adds f => some (16, 2, f)
  | .subs f => some (16, 3, f)
  | .neg f => some (16, 4, f)
  | .abs f => some (16, 5, f)
  | .mul f => some (17, 0, f)
  | .mulh f => some (17, 1, f)
  | .mulhz f => some (17, 2, f)
  | .mad f => some (17, 3, f)
  | .divs f => some (18, 0, f)
  | .divz f => some (18, 1, f)
  | .rems f => some (18, 2, f)
  | .remz f => some (18, 3, f)
  | .min f => some (19, 0, f)
  | .max f => some (19, 1, f)
  | .minz f => some (19, 2, f)
  | .maxz f => some (19, 3, f)
  | .and f => some (20, 0, f)
  | .or f => some (20, 1, f)
  | .xor f => some (20, 2, f)
  | .not f => some (20, 3, f)
  | .andn f => some (20, 4, f)
  | .shl f => some (21, 0, f)
  | .shr f => some (21, 1, f)
  | .sra f => some (21, 2, f)
  | .rol f => some (21, 3, f)
  | .clz f => some (22, 0, f)
  | .popc f => some (22, 1, f)
  | .brev f => some (22, 2, f)
  | .bfx f => some (23, 0, f)
  | .bfi f => some (23, 1, f)
  | .cmpeq f => some (24, 0, f)
  | .cmpne f => some (24, 1, f)
  | .cmplt f => some (24, 2, f)
  | .cmple f => some (24, 3, f)
  | .cmpltz f => some (24, 4, f)
  | .cmplez f => some (24, 5, f)
  | .mov f => some (25, 0, f)
  | .movi f => some (25, 1, f)
  | .sel f => some (25, 2, f)
  | .lea f => some (25, 3, f)
  | .shuf f => some (26, 0, f)
  | .bcst f => some (26, 1, f)
  | .idx f => some (26, 2, f)
  | .scan f => some (26, 3, f)
  | .redadd f => some (27, 0, f)
  | .redmin f => some (27, 1, f)
  | .redmax f => some (27, 2, f)
  | .redand f => some (27, 3, f)
  | .redor f => some (27, 4, f)
  | .fadd f => some (32, 0, f)
  | .fsub f => some (32, 1, f)
  | .fmul f => some (32, 2, f)
  | .ffma f => some (32, 3, f)
  | .fmin f => some (32, 4, f)
  | .fmax f => some (32, 5, f)
  | .fabs f => some (32, 6, f)
  | .fneg f => some (32, 7, f)
  | .fscl f => some (32, 8, f)
  | .frnd f => some (32, 9, f)
  | .fdiv f => some (33, 0, f)
  | .fsqrt f => some (33, 1, f)
  | .frsq f => some (33, 2, f)
  | .frcp f => some (33, 3, f)
  | .fcmpeq f => some (34, 0, f)
  | .fcmplt f => some (34, 1, f)
  | .fcmple f => some (34, 2, f)
  | .fcmpun f => some (34, 3, f)
  | .fex2 f => some (35, 0, f)
  | .flg2 f => some (35, 1, f)
  | .ftnh f => some (35, 2, f)
  | .fsig f => some (35, 3, f)
  | .cvt src f => some (36, src.code, f)
  | .cbenc f => some (37, 0, f)
  | .cbdec f => some (37, 1, f)
  | .pack f => some (37, 2, f)
  | .unpk f => some (37, 3, f)
  | .fflg f => some (38, 0, f)
  | .fnoi f => some (38, 1, f)
  | .fgum f => some (38, 2, f)
  | .chn f => some (39, 0, f)
  | .chnw f => some (39, 1, f)
  | .mset f => some (48, 0, f)
  | .mldb f => some (48, 1, f)
  | .mcbt f => some (48, 2, f)
  | .mprd f => some (48, 3, f)
  | .mrow f => some (48, 4, f)
  | .mout f => some (48, 5, f)
  | .mclr f => some (48, 6, f)
  | .mspl f => some (48, 7, f)
  | .mfil f => some (48, 8, f)
  | .rowStepComplete _ => none
  | .skq f => some (49, 0, f)
  | .skim f => some (49, 1, f)
  | .skfw f => some (49, 2, f)
  | .skfn f => some (49, 3, f)
  | .skmg f => some (49, 4, f)
  | .skimBeatDrain _ _ => none
  | .skimPass _ => none
  | .skimMerge _ _ => none
  | .skimBeatEmit _ _ => none
  | .nop f => some (0, 0, f)
  | .retire f => some (0, 1, f)
  | .time f => some (0, 2, f)
  | .sread f => some (0, 3, f)
  | .trap f => some (0, 4, f)
  | .brkp f => some (0, 5, f)
  | .pset f => some (64, 0, f)
  | .pclr f => some (64, 1, f)
  | .pand f => some (64, 2, f)
  | .por f => some (64, 3, f)
  | .pxor f => some (64, 4, f)
  | .pnot f => some (64, 5, f)
  | .pmov f => some (64, 6, f)
  | .pany f => some (64, 7, f)
  | .pall f => some (64, 8, f)
  | .steer f => some (65, 0, f)
  | .merge f => some (65, 1, f)
  | .csnd f => some (66, 0, f)
  | .crcv f => some (66, 1, f)
  | .advc f => some (67, 0, f)
  | .advp f => some (67, 1, f)
  | .qstat f => some (67, 2, f)
  | .qpeek f => some (67, 3, f)
  | .drop f => some (67, 4, f)
  | .tagset f => some (67, 5, f)
  | .ccfg f => some (68, 0, f)
  | .cnxt f => some (68, 1, f)
  | .crst f => some (68, 2, f)
  | .ld f => some (80, 0, f)
  | .st f => some (80, 1, f)
  | .ldw f => some (80, 2, f)
  | .ldx f => some (80, 3, f)
  | .stx f => some (80, 4, f)
  | .pft f => some (80, 5, f)
  | .ldfeClr f => some (81, 0, f)
  | .ldfeKeep f => some (81, 1, f)
  | .stfe f => some (81, 2, f)
  | .aadd f => some (82, 0, f)
  | .amin f => some (82, 1, f)
  | .amax f => some (82, 2, f)
  | .aand f => some (82, 3, f)
  | .aor f => some (82, 4, f)
  | .axor f => some (82, 5, f)
  | .aswp f => some (82, 6, f)
  | .acas f => some (82, 7, f)
  | .afadd f => some (82, 8, f)
  | .accessPerform _ _ => none
  | .atomicReturnWrite _ _ => none
  | .loadDataReturn _ => none
  | .wmrg f => some (83, 0, f)
  | .wlft f => some (83, 1, f)
  | .wlftH f => some (83, 2, f)
  | .wrdy f => some (83, 3, f)
  | .wwt f => some (83, 4, f)
  | .wnul f => some (83, 5, f)
  | .fenceD f => some (84, 0, f)
  | .hcpy f => some (96, 0, f)
  | .hred f => some (96, 1, f)
  | .ha2a f => some (96, 2, f)
  | .hcol f => some (96, 3, f)
  | .hfng f => some (96, 4, f)
  | .nzer f => some (97, 0, f)
  | .ncpy f => some (97, 1, f)
  | .ncmp f => some (97, 2, f)
  | .nfen f => some (97, 3, f)
  | .qapp f => some (98, 0, f)
  | .qfen f => some (98, 1, f)
  | .qseq f => some (98, 2, f)
  | .queueReply _ _ => none
  | .dtab f => some (98, 3, f)
  | .sqit f => some (98, 4, f)
  | .dependencyEntryAppend _ _ => none
  | .sequencerIterationAppend _ _ => none
  | .engineRecordRead _ => none
  | .hawkCopy _ => none
  | .hawkReduce _ => none
  | .hawkAllToAll _ => none
  | .hawkCollectiveReplay _ => none
  | .hawkFingerprint _ => none
  | .nearDramZero _ => none
  | .nearDramCopy _ => none
  | .nearDramCompare _ => none
  | .nearDramFence _ => none
  | .enginePeerMessage _ _ => none
  | .engineCommandCompletion _ => none
  | .permitReturn _ => none
  | .queueCtlAttach _ _ _ => none
  | .queueCtlDetach _ _ _ => none
  | .queueCtlRetry _ _ _ => none
  | .queueCtlSkip _ _ _ => none
  | .gini f => some (112, 0, f)
  | .gadv f => some (112, 1, f)
  | .gmsk f => some (112, 2, f)
  | .gfrk f => some (112, 3, f)
  | .gcmt f => some (112, 4, f)
  | .grbk f => some (112, 5, f)
  | .gsav f => some (112, 6, f)
  | .grst f => some (112, 7, f)
  | .gsta f => some (112, 8, f)
  | .stencilCommandCompletion _ _ => none
  | .creq f => some (128, 0, f)
  | .creqReplace f => some (128, 0, f)
  | .creqResolve _ => none
  | .crel f => some (128, 1, f)
  | .etrg f => some (128, 2, f)
  | .tlbir f => some (129, 0, f)
  | .tlbInvalidateApply _ _ => none
  | .tlbsy f => some (129, 1, f)
  | .tlbsyDrained _ => none
  | .ksltAssign f => some (129, 2, f)
  | .ksltLoad f => some (129, 2, f)
  | .ksltGenerate f => some (129, 2, f)
  | .ksltClear f => some (129, 2, f)
  | .keyClearEnd _ => none
  | .dctlDefine f => some (129, 3, f)
  | .dctlQuiesce f => some (129, 3, f)
  | .dctlScrub f => some (129, 3, f)
  | .dctlSwitch f => some (129, 3, f)
  | .dctlReload f => some (129, 3, f)
  | .ecnt f => some (130, 0, f)
  | .frec f => some (131, 0, f)
  | .frsmRetry f => some (131, 1, f)
  | .frsmRetire f => some (131, 1, f)
  | .frsmKill f => some (131, 1, f)
  | .chainGroup _ => none
  | .outputBeatDepart _ _ _ => none
  | .linkBeatSend _ _ => none
  | .routerRoute _ _ _ => none
  | .conditionTokenHop _ _ _ => none
  | .linkRetry _ _ => none
  | .linkDegraded _ _ => none
  | .linkDown _ _ => none
  | .poisonNotice _ _ => none
  | .ringDown _ => none
  | .logicError _ _ => none
  | .epochOpen _ _ => none
  | .epochAcknowledge _ _ _ => none
  | .epochClose _ _ => none
  | .closurePulseReceipt _ _ _ => none
  | .epochPeriodWrite _ _ _ => none
  | .mscfFlush _ _ => none
  | .mscFlushComplete => none
  | .launchPacket _ => none
  | .launchDataBeat _ => none
  | .resynchronisationBeat _ => none
  | .undelimitableBeat _ => none
  | .pendingPoolScan _ _ => none
  | .fallbackEnter _ _ => none
  | .energyWindow _ => none
  | .energyCtlWrite _ _ _ => none
  | .preemption _ => none
  | .regionQuiesced _ _ _ => none
  | .saveImageRestore _ _ _ _ => none
  | .matrixOwnerSpill _ => none
  | .refillRequest _ _ => none
  | .faultRecordEnqueue _ => none
  | .thermalClamp _ _ _ => none
  | .thermalClampRelease _ => none
  | .thermalHalt _ _ => none
  | .thermalResume _ _ => none
  | .powerRemove => none
  | .bootSequence _ => none
  | .managementPortReset => none
  | .hostRequestRefused _ => none
  | .ingressCtlWrite _ _ _ => none
  | .domCtlWrite _ _ _ => none
  | .domShareWrite _ _ _ => none
  | .domTrustWrite _ _ _ => none
  | .stencilCtlWrite _ _ _ => none
  | .attestReport _ _ _ => none
  | .attestPublicKey _ _ _ => none
  | .tileRetire _ _ => none
  | .scrubPass _ _ _ => none
  | .deviceTimeSlew _ _ => none
  | .precisionTimeMeasurement => none
  | .registerWrite _ _ _ => none
  | .hostLinkAccess _ => none
  | .hostLinkEnumeration => none

/-- The type classes of R68, and the single types that R69 names for an instruction. -/
inductive TyClass where
  | n | w | s | z | wf | f | m | p | a | z64 | f32 | fb | noi
  deriving DecidableEq, Repr

/-- Membership in a type class (R68). -/
def TyClass.has : TyClass → Ty → Bool
  | .n, t => t == .none
  | .w, t => t == .s32 || t == .z32 || t == .s64 || t == .z64
  | .s, t => t == .s32 || t == .s64
  | .z, t => t == .z32 || t == .z64
  | .wf, t => t == .s32 || t == .z32 || t == .s64 || t == .z64 || t == .f32
  | .f, t => t == .f32 || t == .bf16 || t == .f16
  | .m, t => t == .bf16 || t == .f16 || t == .e4m3 || t == .e5m2 || t == .cb4
  | .p, t => t == .s8 || t == .s16 || t == .z8 || t == .z16 || t == .bf16 || t == .f16 || t == .e4m3 || t == .e5m2
  | .a, t => t != .none
  | .z64, t => t == .z64
  | .f32, t => t == .f32
  | .fb, t => t == .f32 || t == .bf16
  | .noi, t => t == .f32 || t == .z32

/-- What may stand in an operand position (R39, R135, R256 and the instructions' own descriptions). -/
inductive Pos where
  /-- The field is unused (R40). -/
  | unused
  /-- A data source: d, i, zr, imm, lix, htag (R135). -/
  | source
  /-- An address, base or witness: d, i, zr (R256). -/
  | address
  /-- The offset of LD: an address operand or imm (R269). -/
  | offset
  /-- A predicate source (R135). -/
  | pred
  /-- An input endpoint, named (R337). -/
  | inEp
  /-- An input endpoint whose head beat is read whole (R211, R212, R216). -/
  | token
  /-- A condition input (R336). -/
  | condIn
  /-- A destination: d, o, nul (R135). -/
  | dest
  /-- A predicate destination: p, nul (R149). -/
  | predDest
  /-- A register destination: d, nul (R179, R365). -/
  | regDest
  /-- An output endpoint (R337, R214). -/
  | outEp
  /-- An output endpoint or nul (R334). -/
  | outNul
  /-- A condition output (R336). -/
  | condOut
  deriving DecidableEq, Repr

/-- The operand codes that a position takes. -/
def Pos.takes : Pos → Opnd → Bool
  | .unused, .none => true
  | .source, .d _ => true | .source, .i _ => true | .source, .zr => true
  | .source, .imm => true | .source, .lix => true | .source, .htag => true
  | .address, .d _ => true | .address, .i _ => true | .address, .zr => true
  | .offset, .d _ => true | .offset, .i _ => true | .offset, .zr => true | .offset, .imm => true
  | .pred, .p _ => true
  | .inEp, .i _ => true
  | .token, .i _ => true
  | .condIn, .ci _ => true
  | .dest, .d _ => true | .dest, .o _ => true | .dest, .nul => true
  | .predDest, .p _ => true | .predDest, .nul => true
  | .regDest, .d _ => true | .regDest, .nul => true
  | .outEp, .o _ => true
  | .outNul, .o _ => true | .outNul, .nul => true
  | .condOut, .co _ => true
  | _, _ => false

/-- One line of the opcode map (R69) with the operand positions of the instruction's description. -/
structure OpRow where
  types : TyClass
  /-- PK = 1 is legal, with .bf16 or .f16. -/
  pk : Bool
  priv : Bool
  d : Pos
  a : Pos
  b : Pos
  c : Pos
  /-- IMM is a parameter. -/
  imm : Bool
  /-- A predicate update is never legal, whatever DST (R211, R337, R340, R341). -/
  noUpdate : Bool := false
  deriving DecidableEq, Repr

/-- The line of the opcode map for an (OPC, SUB) pair (R69, R71). -/
def opRow (opc sub : Nat) : Option OpRow :=
  match opc with
  | 0 => match sub with
    | 0 | 1 => some ⟨.n, false, false, .unused, .unused, .unused, .unused, false, false⟩
    | 2 => some ⟨.n, false, false, .dest, .unused, .unused, .unused, false, false⟩
    | 3 => some ⟨.n, false, false, .dest, .unused, .unused, .unused, true, false⟩
    | 4 | 5 => some ⟨.n, false, false, .unused, .unused, .unused, .unused, true, false⟩
    | _ => none
  | 16 => match sub with
    | 0 | 1 | 2 | 3 => some ⟨.w, false, false, .dest, .source, .source, .unused, false, false⟩
    | 4 => some ⟨.w, false, false, .dest, .source, .unused, .unused, false, false⟩
    | 5 => some ⟨.s, false, false, .dest, .source, .unused, .unused, false, false⟩
    | _ => none
  | 17 => match sub with
    | 0 => some ⟨.w, false, false, .dest, .source, .source, .unused, false, false⟩
    | 1 => some ⟨.s, false, false, .dest, .source, .source, .unused, false, false⟩
    | 2 => some ⟨.z, false, false, .dest, .source, .source, .unused, false, false⟩
    | 3 => some ⟨.w, false, false, .dest, .source, .source, .source, false, false⟩
    | _ => none
  | 18 => match sub with
    | 0 | 2 => some ⟨.s, false, false, .dest, .source, .source, .unused, false, false⟩
    | 1 | 3 => some ⟨.z, false, false, .dest, .source, .source, .unused, false, false⟩
    | _ => none
  | 19 => match sub with
    | 0 | 1 => some ⟨.s, false, false, .dest, .source, .source, .unused, false, false⟩
    | 2 | 3 => some ⟨.z, false, false, .dest, .source, .source, .unused, false, false⟩
    | _ => none
  | 20 => match sub with
    | 0 | 1 | 2 | 4 => some ⟨.w, false, false, .dest, .source, .source, .unused, false, false⟩
    | 3 => some ⟨.w, false, false, .dest, .source, .unused, .unused, false, false⟩
    | _ => none
  | 21 => match sub with
    | 0 | 1 | 2 | 3 => some ⟨.w, false, false, .dest, .source, .source, .unused, false, false⟩
    | _ => none
  | 22 => match sub with
    | 0 | 1 | 2 => some ⟨.w, false, false, .dest, .source, .unused, .unused, false, false⟩
    | _ => none
  | 23 => match sub with
    | 0 => some ⟨.w, false, false, .dest, .source, .unused, .unused, true, false⟩
    | 1 => some ⟨.w, false, false, .dest, .source, .source, .unused, true, false⟩
    | _ => none
  | 24 => match sub with
    | 0 | 1 => some ⟨.w, false, false, .predDest, .source, .source, .unused, false, false⟩
    | 2 | 3 => some ⟨.s, false, false, .predDest, .source, .source, .unused, false, false⟩
    | 4 | 5 => some ⟨.z, false, false, .predDest, .source, .source, .unused, false, false⟩
    | _ => none
  | 25 => match sub with
    | 0 => some ⟨.n, false, false, .dest, .source, .unused, .unused, false, false⟩
    | 1 => some ⟨.wf, false, false, .dest, .unused, .unused, .unused, true, false⟩
    | 2 => some ⟨.w, false, false, .dest, .source, .source, .pred, false, false⟩
    | 3 => some ⟨.z64, false, false, .dest, .source, .source, .unused, true, false⟩
    | _ => none
  | 26 => match sub with
    | 0 | 2 => some ⟨.w, false, false, .dest, .source, .source, .unused, false, false⟩
    | 1 | 3 => some ⟨.w, false, false, .dest, .source, .unused, .unused, true, false⟩
    | _ => none
  | 27 => match sub with
    | 0 | 1 | 2 | 3 | 4 => some ⟨.w, false, false, .dest, .source, .unused, .unused, false, false⟩
    | _ => none
  | 32 => match sub with
    | 0 | 1 | 2 | 4 | 5 | 8 => some ⟨.f, true, false, .dest, .source, .source, .unused, false, false⟩
    | 3 => some ⟨.f, true, false, .dest, .source, .source, .source, false, false⟩
    | 6 | 7 => some ⟨.f, true, false, .dest, .source, .unused, .unused, false, false⟩
    | 9 => some ⟨.f, true, false, .dest, .source, .unused, .unused, true, false⟩
    | _ => none
  | 33 => match sub with
    | 0 => some ⟨.f, false, false, .dest, .source, .source, .unused, false, false⟩
    | 1 | 2 | 3 => some ⟨.f, false, false, .dest, .source, .unused, .unused, false, false⟩
    | _ => none
  | 34 => match sub with
    | 0 | 1 | 2 | 3 => some ⟨.f, false, false, .predDest, .source, .source, .unused, false, false⟩
    | _ => none
  | 35 => match sub with
    | 0 | 1 | 2 | 3 => some ⟨.f, true, false, .dest, .source, .unused, .unused, false, false⟩
    | _ => none
  | 36 => match sub with
    | 1 => some ⟨.a, false, false, .dest, .source, .unused, .unused, false, false⟩
    | 2 => some ⟨.a, false, false, .dest, .source, .unused, .unused, false, false⟩
    | 3 => some ⟨.a, false, false, .dest, .source, .unused, .unused, false, false⟩
    | 4 => some ⟨.a, false, false, .dest, .source, .unused, .unused, false, false⟩
    | 5 => some ⟨.a, false, false, .dest, .source, .unused, .unused, false, false⟩
    | 6 => some ⟨.a, false, false, .dest, .source, .unused, .unused, false, false⟩
    | 7 => some ⟨.a, false, false, .dest, .source, .unused, .unused, false, false⟩
    | 8 => some ⟨.a, false, false, .dest, .source, .unused, .unused, false, false⟩
    | 9 => some ⟨.a, false, false, .dest, .source, .unused, .unused, false, false⟩
    | 10 => some ⟨.a, false, false, .dest, .source, .unused, .unused, false, false⟩
    | 11 => some ⟨.a, false, false, .dest, .source, .unused, .unused, false, false⟩
    | 12 => some ⟨.a, false, false, .dest, .source, .unused, .unused, false, false⟩
    | 13 => some ⟨.a, false, false, .dest, .source, .unused, .unused, false, false⟩
    | 14 => some ⟨.a, false, false, .dest, .source, .unused, .unused, false, false⟩
    | _ => none
  | 37 => match sub with
    | 0 | 1 => some ⟨.fb, false, false, .dest, .source, .source, .unused, false, false⟩
    | 2 => some ⟨.p, false, false, .dest, .source, .source, .unused, false, false⟩
    | 3 => some ⟨.p, false, false, .dest, .source, .unused, .unused, true, false⟩
    | _ => none
  | 38 => match sub with
    | 0 => some ⟨.n, false, false, .dest, .unused, .unused, .unused, true, false⟩
    | 1 => some ⟨.noi, false, false, .dest, .source, .source, .unused, false, false⟩
    | 2 => some ⟨.f32, false, false, .dest, .source, .unused, .unused, false, false⟩
    | _ => none
  | 39 => match sub with
    | 0 => some ⟨.n, false, false, .regDest, .source, .source, .source, true, false⟩
    | 1 => some ⟨.n, false, false, .dest, .unused, .unused, .unused, false, false⟩
    | _ => none
  | 48 => match sub with
    | 0 => some ⟨.m, false, false, .unused, .source, .unused, .unused, true, false⟩
    | 1 | 2 | 3 => some ⟨.n, false, false, .unused, .source, .unused, .unused, false, false⟩
    | 4 | 7 | 8 => some ⟨.n, false, false, .unused, .source, .unused, .unused, true, false⟩
    | 5 => some ⟨.n, false, false, .dest, .unused, .unused, .unused, true, false⟩
    | 6 => some ⟨.n, false, false, .unused, .unused, .unused, .unused, true, false⟩
    | _ => none
  | 49 => match sub with
    | 0 => some ⟨.n, false, false, .unused, .token, .unused, .unused, true, false⟩
    | 1 => some ⟨.n, false, false, .unused, .source, .source, .unused, true, false⟩
    | 2 => some ⟨.n, false, false, .outEp, .unused, .unused, .unused, false, true⟩
    | 3 => some ⟨.n, false, false, .outEp, .unused, .unused, .unused, true, true⟩
    | 4 => some ⟨.n, false, false, .dest, .token, .source, .unused, true, false⟩
    | _ => none
  | 64 => match sub with
    | 0 | 1 => some ⟨.n, false, false, .predDest, .unused, .unused, .unused, false, false⟩
    | 2 | 3 | 4 => some ⟨.n, false, false, .predDest, .pred, .pred, .unused, false, false⟩
    | 5 | 6 | 7 | 8 => some ⟨.n, false, false, .predDest, .pred, .unused, .unused, false, false⟩
    | _ => none
  | 65 => match sub with
    | 0 => some ⟨.n, false, false, .dest, .source, .pred, .outNul, false, false⟩
    | 1 => some ⟨.n, false, false, .dest, .source, .source, .pred, false, false⟩
    | _ => none
  | 66 => match sub with
    | 0 => some ⟨.n, false, false, .condOut, .pred, .unused, .unused, false, false⟩
    | 1 => some ⟨.n, false, false, .predDest, .condIn, .unused, .unused, false, false⟩
    | _ => none
  | 67 => match sub with
    | 0 => some ⟨.n, false, false, .unused, .inEp, .unused, .unused, true, false⟩
    | 1 | 5 => some ⟨.n, false, false, .outEp, .unused, .unused, .unused, true, true⟩
    | 2 => some ⟨.n, false, false, .dest, .inEp, .unused, .unused, false, false⟩
    | 3 => some ⟨.n, false, false, .dest, .inEp, .unused, .unused, true, false⟩
    | 4 => some ⟨.n, false, false, .unused, .inEp, .unused, .unused, false, false⟩
    | _ => none
  | 68 => match sub with
    | 0 => some ⟨.n, false, false, .unused, .source, .unused, .unused, true, false⟩
    | 1 => some ⟨.n, false, false, .dest, .unused, .unused, .unused, true, false⟩
    | 2 => some ⟨.n, false, false, .unused, .unused, .unused, .unused, true, false⟩
    | _ => none
  | 80 => match sub with
    | 0 => some ⟨.a, false, false, .dest, .address, .offset, .unused, false, false⟩
    | 1 | 3 => some ⟨.a, false, false, .dest, .address, .source, .unused, false, false⟩
    | 2 => some ⟨.a, false, false, .dest, .address, .address, .unused, false, false⟩
    | 4 => some ⟨.a, false, false, .dest, .address, .source, .source, false, false⟩
    | 5 => some ⟨.n, false, false, .unused, .address, .unused, .unused, false, false⟩
    | _ => none
  | 81 => match sub with
    | 0 | 1 => some ⟨.a, false, false, .dest, .address, .unused, .unused, false, false⟩
    | 2 => some ⟨.a, false, false, .dest, .address, .source, .unused, false, false⟩
    | _ => none
  | 82 => match sub with
    | 0 | 1 | 2 | 3 | 4 | 5 | 6 => some ⟨.w, false, false, .dest, .address, .source, .unused, false, false⟩
    | 7 => some ⟨.w, false, false, .dest, .address, .source, .source, false, false⟩
    | 8 => some ⟨.fb, false, false, .dest, .address, .source, .unused, false, false⟩
    | _ => none
  | 83 => match sub with
    | 0 => some ⟨.n, false, false, .dest, .address, .address, .unused, false, false⟩
    | 1 | 2 | 3 => some ⟨.n, false, false, .dest, .address, .unused, .unused, false, false⟩
    | 4 => some ⟨.n, false, false, .unused, .address, .unused, .unused, false, false⟩
    | 5 => some ⟨.n, false, false, .dest, .unused, .unused, .unused, false, false⟩
    | _ => none
  | 84 => match sub with
    | 0 => some ⟨.n, false, false, .dest, .unused, .unused, .unused, false, false⟩
    | _ => none
  | 96 => match sub with
    | 0 | 1 | 2 | 3 | 4 => some ⟨.n, false, false, .dest, .source, .unused, .unused, true, false⟩
    | _ => none
  | 97 => match sub with
    | 0 | 1 | 2 => some ⟨.n, false, false, .dest, .source, .unused, .unused, false, false⟩
    | 3 => some ⟨.n, false, false, .dest, .unused, .unused, .unused, false, false⟩
    | _ => none
  | 98 => match sub with
    | 0 => some ⟨.n, false, false, .dest, .source, .source, .unused, false, false⟩
    | 1 => some ⟨.n, false, false, .dest, .source, .unused, .unused, true, false⟩
    | 2 => some ⟨.n, false, false, .dest, .source, .unused, .unused, false, false⟩
    | 3 => some ⟨.n, false, false, .unused, .source, .source, .unused, true, false⟩
    | 4 => some ⟨.n, false, false, .unused, .source, .unused, .unused, true, false⟩
    | _ => none
  | 112 => match sub with
    | 0 => some ⟨.n, false, false, .unused, .address, .address, .unused, false, false⟩
    | 1 | 2 | 3 | 6 | 7 => some ⟨.n, false, false, .dest, .address, .address, .unused, false, false⟩
    | 4 | 5 | 8 => some ⟨.n, false, false, .dest, .address, .unused, .unused, false, false⟩
    | _ => none
  | 128 => match sub with
    | 0 => some ⟨.n, false, false, .regDest, .source, .unused, .unused, true, false⟩
    | 1 | 2 => some ⟨.n, false, false, .unused, .address, .unused, .unused, false, false⟩
    | _ => none
  | 129 => match sub with
    | 0 => some ⟨.n, false, true, .regDest, .source, .source, .unused, false, false⟩
    | 1 => some ⟨.n, false, true, .regDest, .unused, .unused, .unused, false, false⟩
    | 2 => some ⟨.n, false, true, .unused, .source, .source, .unused, true, false⟩
    | 3 => some ⟨.n, false, true, .unused, .source, .unused, .unused, true, false⟩
    | _ => none
  | 130 => match sub with
    | 0 => some ⟨.n, false, false, .dest, .unused, .unused, .unused, true, false⟩
    | _ => none
  | 131 => match sub with
    | 0 => some ⟨.n, false, true, .dest, .source, .unused, .unused, false, false⟩
    | 1 => some ⟨.n, false, true, .unused, .source, .unused, .unused, false, false⟩
    | _ => none
  | _ => none

end Sys2Proof.Machine
end

