-- ==== Sys2Proof/Machine/SlotCheck.lean ====
section
/-! DEFINITION. The loader's checks of one slot word that depend on nothing but the word (R9, R39, R40, R42, R48, R49, R68-R72,
R138), each with the status of R74. The word's opcode, type, form, operands and guard are judged in the order of their status
codes, so that the lowest failing status is the one answered (R75). -/

namespace Sys2Proof.Machine

open Sys2Proof

/-- Limits of the parameter fields of IMM (R138), for the instructions that use IMM as a parameter. -/
def immLimits (opc sub : Nat) (ty : Ty) (imm : Nat) : Bool :=
  match opc with
  | 0x00 => match sub with
    | 3 => imm / 2 ^ 9 == 0 && decide (imm % 256 ≤ 7) && !(bitAt imm 8 && imm % 256 != 0)       -- SREAD, R374
    | _ => decide (imm < 2 ^ 16)                                                               -- TRAP, BRKP, R477
  | 0x17 =>                                                                                    -- BFX, BFI, R148
    imm / 2 ^ 13 == 0 && decide (bits imm 0 6 < ty.laneWidth) && decide (1 ≤ bits imm 6 7)
      && decide (bits imm 0 6 + bits imm 6 7 ≤ ty.laneWidth)
  | 0x19 => match sub with
    | 3 => bits imm 3 5 == 0                                                                   -- LEA, R153
    | _ => true                                                                                -- MOVI, R151
  | 0x1A => match sub with
    | 1 => decide (imm < ty.lanes)                                                             -- BCST, R156
    | _ => decide (imm < 8)                                                                    -- SCAN, R158
  | 0x20 => decide (imm < 16) && decide (imm % 8 ≤ 4)                                          -- FRND, R165
  | 0x25 => decide (imm < (if ty.width = 16 then 2 else 4))                                    -- UNPK, R173
  | 0x26 => decide (imm < 64)                                                                  -- FFLG, R176
  | 0x27 => bits imm 2 2 == 0 && decide (1 ≤ imm / 16)                                         -- CHN, R179
  | 0x30 => match sub with
    | 0 => decide (imm < 8) && (match ty with                                                  -- MSET, R192, R197
        | .e4m3 => decide (imm ≤ 2)
        | .e5m2 => decide (imm ≤ 2)
        | .cb4 => imm == 0 || imm == 3 || imm == 4
        | _ => imm == 0)
    | 4 => decide (imm < 256)                                                                  -- MROW, R199
    | 5 => decide (imm < 2 ^ 11) && bits imm 8 2 != 3 && (bits imm 8 2 == 0 || !bitAt imm 7)   -- MOUT, R200
    | _ => decide (imm < 2 ^ 15) && decide (1 ≤ bits imm 7 8)                                  -- MCLR MSPL MFIL, R201
        && decide (bits imm 0 7 + bits imm 7 8 ≤ 128)
  | 0x31 => match sub with
    | 0 => decide (imm < 4)                                                                    -- SKQ, R211
    | 1 => decide (imm < 2)                                                                    -- SKIM
    | 4 => imm == 0                                                                            -- SKMG, R211
    | _ => bits imm 4 12 == 0 && bits imm 1 2 != 3 && !(bitAt imm 3 && bits imm 1 2 != 0)      -- SKFN, R211, R215
  | 0x43 => match sub with
    | 0 => decide (1 ≤ imm) && decide (imm < 2 ^ 11)                                           -- ADVC, R337
    | 1 => decide (1 ≤ imm) && decide (imm < 2 ^ 11)                                           -- ADVP, R337
    | 3 => decide (imm < 2 ^ 16)                                                               -- QPEEK, R339
    | _ => decide (imm < 8)                                                                    -- TAGSET, R341
  | 0x44 => match sub with
    | 0 => decide (imm < 64) && decide (1 ≤ bits imm 2 3) && decide (bits imm 2 3 ≤ 4)         -- CCFG, R343
    | 1 => decide (imm < 32) && decide (bits imm 2 3 ≤ 4)                                      -- CNXT, R344
    | _ => decide (imm < 8)                                                                    -- CRST, R345
  | 0x60 => decide (imm < 256)                                                                 -- HCPY .. HFNG, R296
  | 0x62 => match sub with
    | 1 => decide (imm < 2)                                                                    -- QFEN, R299
    | 3 => decide (imm < 2 ^ 12) && decide (bits imm 8 3 ≤ 4)                                  -- DTAB, R300
    | _ => decide (imm % 8 ≤ 4) && decide (1 ≤ imm / 8)                                        -- SQIT, R301
  | 0x80 => decide (imm < 16)                                                                  -- CREQ, R365
  | 0x81 => match sub with
    | 2 => decide (imm < 4)                                                                    -- KSLT, R456
    | _ => decide (imm < 16) && decide (imm % 8 ≤ 4)                                           -- DCTL, R458
  | 0x82 => decide (imm < 3)                                                                   -- ECNT, R466
  | _ => true

/-- TYPE and SUB of a CVT (R70): distinct, and .cb4 on neither side. -/
def cvtTypesOk (opc sub : Nat) (ty : Ty) : Bool :=
  opc != 0x24 || (sub != ty.code && sub != 6 && ty != .cb4)

/-- The form checks of R48, R49, R69 and R211: PK only where the map allows it and with a 16-bit float type; PRED_REG 0 without an
update; no update without a destination or where the instruction takes none; SKQ and SKMG leave the ADV bit of A clear. -/
def formOk (opc : Nat) (row : OpRow) (f : Slot) : Bool :=
  (!f.pk || (row.pk && (f.ty == .bf16 || f.ty == .f16)))
  && (f.predOp != .none || f.predReg == 0)
  && (f.predOp == .none || (row.d != .unused && !row.noUpdate))
  && (match f.sa with
      | .i n => !(opc == 0x31 && row.a == .token && f.adv.getLsbD n.val)
      | _ => true)

/-- The slot reads this operand, in this position, as a source (R39): an endpoint that is only named is not read (R337). -/
def Pos.reads : Pos → Bool
  | .source => true | .address => true | .offset => true | .pred => true | .token => true | _ => false

/-- Some source operand is an input endpoint (R42). -/
def readsEndpoint (row : OpRow) (f : Slot) : Bool :=
  (match f.sa with | .i _ => row.a.reads | _ => false)
  || (match f.sb with | .i _ => row.b.reads | _ => false)
  || (match f.sc with | .i _ => row.c.reads | _ => false)

/-- The operand checks of R39, R40, R42, R49, R135, R138, R256, R334, R335 and R456: every OP of KSLT but LOAD is written with A = zr (DEDUCED, log 29). -/
def operandsOk (opc sub : Nat) (row : OpRow) (f : Slot) : Bool :=
  row.d.takes f.dst && row.a.takes f.sa && row.b.takes f.sb && row.c.takes f.sc
  && (f.predOp == .none || f.dst != .p f.predReg)
  && (!(f.sa == .htag || f.sb == .htag || f.sc == .htag) || readsEndpoint row f)
  && (opc != 0x41 || sub != 0 || f.dst == .nul || f.dst != f.sc)
  && (opc != 0x41 || sub != 1 || f.sa != f.sb || (match f.sa with | .i _ => false | _ => true))
  && (opc != 0x81 || sub != 2 || f.imm.toNat % 4 == 1 || f.sa == .zr)
  && (if row.imm then immLimits opc sub f.ty f.imm.toNat
      else f.imm == 0 || f.sa == .imm || f.sb == .imm || f.sc == .imm)

/-- The guard checks of R72 on a decoded condition: k of kinds 1 and 2 is at least 1. -/
def QCond.ok : QCond → Bool
  | .none => true
  | .beats _ k => k != 0
  | .free _ k => k != 0
  | .tag _ _ => true

/-- The guard checks of R72. -/
def guardOk (f : Slot) : Bool :=
  (f.pval &&& ~~~f.pmask) == 0 && QCond.ok f.q0 && QCond.ok f.q1

/-- The status of a slot's fields under a pair of the map, with the lowest code first (R74, R75). -/
def slotStatus (opc sub : Nat) (row : OpRow) (f : Slot) : LoadStatus :=
  if !(row.types.has f.ty && cvtTypesOk opc sub f.ty) then .badType
  else if !formOk opc row f then .badForm
  else if !operandsOk opc sub row f then .badOperand
  else if !guardOk f then .badGuard
  else .ok

end Sys2Proof.Machine
end

