-- ==== Sys2Proof/WellFormed.lean ====
section
/-! DEFINITION. Well-formed instructions: a slot instruction whose slot passes every check of its word (R9, R39-R42, R48, R49, R68-R72,
R138), and whose constructor is the one its immediate selects; every event. The checks themselves are in Machine/SlotCheck.lean. -/

namespace Sys2Proof

/-- An instruction that the loader accepts in a context of sufficient privilege; an event carries no word and is always
well formed. -/
abbrev Instr.wf (i : Instr) : Bool :=
  match Machine.toCode i with
  | none => true
  | some (opc, opSub, f) =>
    match Machine.opRow opc opSub with
    | none => false
    | some row =>
      Machine.slotStatus opc opSub row f == .ok
      && ((Machine.ofCode opc opSub f.imm.toNat).any fun mk => mk f == i || opc == 0x83)

end Sys2Proof
end

