-- ==== Sys2Proof/Decode.lean ====
section
/-! DEFINITION. Decoding of a 128-bit slot word (R37) into an instruction or the status with which the loader refuses it (R74), and
the encoder back to the word. -/

namespace Sys2Proof

open Machine

/-- A queue condition of the guard from its three fields (R37, R47); none for a field that R72 refuses whatever the rest holds. -/
def qcondOfFields (kind ep val : Nat) : Option QCond :=
  match kind with
  | 0 => if ep = 0 ∧ val = 0 then some .none else Option.none
  | 1 => some (.beats ⟨ep % 8, Nat.mod_lt _ (by decide)⟩ (BitVec.ofNat 6 val))
  | 2 => some (.free ⟨ep % 8, Nat.mod_lt _ (by decide)⟩ (BitVec.ofNat 6 val))
  | _ => if val < 8 then some (.tag ⟨ep % 8, Nat.mod_lt _ (by decide)⟩ (BitVec.ofNat 3 val)) else Option.none

/-- The three fields of a queue condition (R37). -/
def qcondFields : QCond → Nat × Nat × Nat
  | .none => (0, 0, 0)
  | .beats ep k => (1, ep.val, k.toNat)
  | .free ep k => (2, ep.val, k.toNat)
  | .tag ep t => (3, ep.val, t.toNat)

/-- The slot that the fields of a word name, with the absent operand or condition where a field names none (R37). -/
def slotOfWord (w : Nat) (ty : Ty) (predOp : PredOp) : Slot :=
  { pmask := BitVec.ofNat 8 w, pval := BitVec.ofNat 8 (w / 2 ^ 8), quant := bitAt w 16,
    q0 := (qcondOfFields (bits w 17 2) (bits w 19 3) (bits w 22 6)).getD .none,
    q1 := (qcondOfFields (bits w 28 2) (bits w 30 3) (bits w 33 6)).getD .none,
    ty := ty, pk := bitAt w 55,
    dst := (Opnd.ofCode (bits w 56 6)).getD .none, sa := (Opnd.ofCode (bits w 62 6)).getD .none,
    sb := (Opnd.ofCode (bits w 68 6)).getD .none, sc := (Opnd.ofCode (bits w 74 6)).getD .none,
    predReg := ⟨bits w 80 3, Nat.mod_lt _ (by decide)⟩, predOp := predOp,
    adv := BitVec.ofNat 8 (w / 2 ^ 86), imm := BitVec.ofNat 32 (w / 2 ^ 96) }

/-- The instruction that a word's opcode and operands name whatever else is wrong with the word: what the checks of a slot in its place are made of, so that they
rank beside those of the word (R75). -/
def looseDecode (word : SlotWord) : Option Instr :=
  let w := word.toNat
  let opc := bits w 39 8
  let sub := bits w 47 4
  match ofCode opc sub (bits w 96 32), opRow opc sub with
  | some mk, some _ => some (mk (slotOfWord w ((Ty.ofCode (bits w 51 4)).getD .none) ((PredOp.ofCode (bits w 83 3)).getD .none)))
  | _, _ => none

/-- Decoding of a slot word: fields out, then the checks, lowest status first (R37, R74, R75). A word whose operand, predicate
operation or condition has no constructor still reports the lowest status that it breaks. -/
def decode (word : SlotWord) : Except LoadStatus Instr :=
  let w := word.toNat
  let opc := bits w 39 8
  let sub := bits w 47 4
  let imm := bits w 96 32
  if bits w 94 2 ≠ 0 then .error .reservedBit
  else match ofCode opc sub imm, opRow opc sub with
  | some mk, some row =>
    match Ty.ofCode (bits w 51 4) with
    | none => .error .badType
    | some ty =>
      if !(row.types.has ty && cvtTypesOk opc sub ty) then .error .badType
      else match PredOp.ofCode (bits w 83 3) with
      | none => .error .badForm
      | some predOp =>
        let f := slotOfWord w ty predOp
        if !formOk opc row f then .error .badForm
        else if (Opnd.ofCode (bits w 56 6)).isNone || (Opnd.ofCode (bits w 62 6)).isNone
             || (Opnd.ofCode (bits w 68 6)).isNone || (Opnd.ofCode (bits w 74 6)).isNone then .error .badOperand
        else if !operandsOk opc sub row f then .error .badOperand
        else if (qcondOfFields (bits w 17 2) (bits w 19 3) (bits w 22 6)).isNone
             || (qcondOfFields (bits w 28 2) (bits w 30 3) (bits w 33 6)).isNone then .error .badGuard
        else if !guardOk f then .error .badGuard
        else .ok (mk f)
  | _, _ => .error .undefOpcode

/-- The word of a slot under an (OPC, SUB) pair, field by field (R37). -/
def encodeSlot (opc sub : Nat) (f : Slot) : SlotWord :=
  let q0 := qcondFields f.q0
  let q1 := qcondFields f.q1
  BitVec.ofNat 128
    (f.pmask.toNat + f.pval.toNat * 2 ^ 8 + f.quant.toNat * 2 ^ 16
      + q0.1 * 2 ^ 17 + q0.2.1 * 2 ^ 19 + q0.2.2 * 2 ^ 22
      + q1.1 * 2 ^ 28 + q1.2.1 * 2 ^ 30 + q1.2.2 * 2 ^ 33
      + opc * 2 ^ 39 + sub * 2 ^ 47 + f.ty.code * 2 ^ 51 + f.pk.toNat * 2 ^ 55
      + f.dst.code * 2 ^ 56 + f.sa.code * 2 ^ 62 + f.sb.code * 2 ^ 68 + f.sc.code * 2 ^ 74
      + f.predReg.val * 2 ^ 80 + f.predOp.code * 2 ^ 83 + f.adv.toNat * 2 ^ 86 + f.imm.toNat * 2 ^ 96)

/-- The slot word of an instruction (R37); an event has none. -/
def encode (i : Instr) : Option SlotWord :=
  match toCode i with
  | none => none
  | some (opc, sub, f) => some (encodeSlot opc sub f)

/-- The instruction the decoder reads from a word of the operation table, bit 0 the least significant bit of the first word. A slot word is
one 128-bit word, so every bit above `nbits` is 0. -/
def decodeTableWord (nbits w : Nat) : Option Instr :=
  match decode (BitVec.ofNat 128 (w % 2 ^ nbits)) with
  | .ok i => some i
  | .error _ => none

end Sys2Proof
end

