-- ==== Sys2Proof/Machine/SMap.lean ====
section
/-! DEFINITION. Sparse maps: lists of (key, value) pairs with strictly rising keys, the plain data in which the state holds everything
that exists many times over (tiles, memory granules, scope groups). A key that is not listed stands for a default that the
reader names. -/

namespace Sys2Proof.Machine

/-- A sparse map from natural numbers. -/
abbrev SMap (α : Type) := List (Nat × α)

/-- The value of a key, or the default. -/
def SMap.get {α : Type} (m : SMap α) (k : Nat) (dflt : α) : α :=
  match m with
  | [] => dflt
  | (j, a) :: rest => if j = k then a else SMap.get rest k dflt

/-- The map with one key set. -/
def SMap.set {α : Type} (m : SMap α) (k : Nat) (a : α) : SMap α :=
  match m with
  | [] => [(k, a)]
  | (j, b) :: rest =>
    if k < j then (k, a) :: (j, b) :: rest
    else if k = j then (k, a) :: rest
    else (j, b) :: SMap.set rest k a

/-- The map with one key returned to its default. -/
def SMap.erase {α : Type} (m : SMap α) (k : Nat) : SMap α :=
  m.filter fun e => e.1 != k

/-- A set of natural numbers as a strictly rising list. -/
abbrev NSet := List Nat

/-- Insertion into a set. -/
def NSet.insert (s : NSet) (k : Nat) : NSet :=
  match s with
  | [] => [k]
  | j :: rest => if k < j then k :: j :: rest else if k = j then j :: rest else j :: NSet.insert rest k

/-- Removal from a set. -/
def NSet.remove (s : NSet) (k : Nat) : NSet := s.filter (· != k)

/-- Strictly rising from a lower bound. -/
def NSet.from (lo : Nat) : NSet → Bool
  | [] => true
  | k :: rest => decide (lo ≤ k) && NSet.from (k + 1) rest

/-- An element put before the first of a list that has no smaller key. -/
def insertByKey {α : Type} (key : α → Nat) (a : α) : List α → List α
  | [] => [a]
  | b :: rest => if key a ≤ key b then a :: b :: rest else b :: insertByKey key a rest

/-- A list in ascending order of a key; elements of one key keep their order. -/
def sortByKey {α : Type} (key : α → Nat) (xs : List α) : List α := xs.foldr (insertByKey key) []

end Sys2Proof.Machine
end

