-- ==== Sys2Proof/Machine/ElementState.lean ====
section
/-! DEFINITION. The state of one tile as plain data: contexts and endpoints (R52-R56, R314-R318), circular buffers (R327, R328), counter
chains (R342), streaming chains (R60, R179-R187), the row engine (R189) and the skim unit (R204). -/

namespace Sys2Proof.Machine

open Sys2Proof

/-- The conversion rounding modes of R52 and R112. -/
inductive RMode where
  | rne | rtz | rup | rdn | rna
  deriving DecidableEq, Repr

/-- A data-endpoint binding (R53). -/
inductive Bind where
  | unbound
  | link (port : Fin 6) (vc : Fin 32)
  | buffer (desc : Fin 16)
  | sequencer
  | ring (level : Fin 6) (channel : Fin 32)
  deriving DecidableEq, Repr

/-- One beat of data (R314). `poison` is what its check bits say when they fail beyond correction (R482). On its way it has a ring level when it left by a ring
binding (R388), and at the local port of its router the DIR of its binding, whose implicit word it takes (R316). -/
structure Beat where
  payload : V512
  mask : Mask
  tag : BitVec 3
  vc : Fin 32
  poison : Bool
  ring : Option (Fin 6) := none
  dir : Option (Fin 6) := none
  deriving DecidableEq, Repr

/-- One place of an output endpoint (R263, R318). -/
inductive Place where
  /-- A beat that waits to leave. -/
  | full (b : Beat)
  /-- Reserved by an outstanding load, with the tag that was current at its firing (R263, R341). -/
  | held (access : Nat) (tag : BitVec 3)
  deriving DecidableEq, Repr

/-- What a context does (R382): runnable, halted by a fault, retired. -/
inductive RunState where
  | runnable | halted | retired
  deriving DecidableEq, Repr

/-- A context word (R52-R55), decoded; bindings are held per endpoint. -/
structure CtxWord where
  valid : Bool
  priv : Bool
  slots : Nat
  rmode : RMode
  sat : Bool
  vctBase : Nat
  ibind : Vector Bind 8
  obind : Vector Bind 8
  cibind : Vector (Option (Fin 16)) 4
  cobind : Vector (Option (Fin 16)) 4
  deriving DecidableEq, Repr

/-- An access that is issued again from its held operands when the context is re-armed (R265, R476). -/
structure Reissue where
  slot : Nat
  e : Mask
  a : V512
  b : V512
  /-- The tag that a place of an output endpoint was reserved with, and the firing whose place it still is (R263). -/
  tag : BitVec 3
  place : Option Nat := none
  deriving DecidableEq, Repr

/-- What a re-arm needs to know of a halt (R475, R476). -/
structure HaltInfo where
  /-- SERIAL of the context's latest record; 0 while the record is still on its way to the queue. -/
  serial : Nat
  /-- The record number of the halt, which names it until its SERIAL is known. -/
  record : Nat
  slot : Nat
  cls : Nat
  cause : Nat
  /-- What the context's records since it last ran ask of a re-arm: a chain is discarded, a BRKP slot acts as NOP, the skim slots named in DETAIL are freed. -/
  chain : Bool
  brkp : Option Nat
  skimSlots : List Nat
  /-- The loads that were performed with poison, to be issued again. -/
  reissue : List Reissue
  /-- A re-arm witness that FRSM RETRY left pending (R475). -/
  rearm : Option W64
  deriving DecidableEq, Repr

/-- A context of an element. -/
structure Ctx where
  word : CtxWord
  slots : List SlotWord
  d : Vector V512 8
  p : Vector Mask 8
  /-- FP_FLAGS [5:0] (R120). -/
  flags : BitVec 6
  /-- CTX_STATUS.WSCOPE (R250, R375). -/
  wscope : Bool
  /-- CTX_STATUS.RESTORED (R375). -/
  restored : Bool
  /-- CTX_STATUS.NUL_FAULTS (R264). -/
  nulFaults : Nat
  run : RunState
  ins : Vector (List Beat) 8
  outs : Vector (List Place) 8
  /-- Input endpoints whose beats the skim unit is draining: they are invisible to slots (R212, R216). -/
  taken : BitVec 8
  tags : Vector (BitVec 3) 8
  cins : Vector (List Bool) 4
  couts : Vector (List Bool) 4
  /-- Chains completed since the last CHNW, saturating at 255 (R186). -/
  chainsDone : Nat
  /-- Flags gathered by the finished chains that the next CHNW collects (R123). -/
  chainFlags : BitVec 6
  /-- Class, cause, descriptor, group and address of a faulted chain that the next CHNW reports (R185). -/
  chainFault : Option (Nat × Nat × Nat × Nat × Nat)
  /-- TLBIRs that the context has fired (R451). -/
  tlbirs : Nat
  halt : Option HaltInfo
  /-- A BRKP slot whose next firing acts as NOP after a re-arm (R476). -/
  brkpPass : Option Nat
  /-- The instance waits for its release after a restore (R385 step 7), or its region is halted (R377). -/
  held : Bool
  /-- Loads that a pre-emption cancelled, to be issued afresh on restore (R266). -/
  cancelled : List Reissue
  deriving DecidableEq, Repr

/-- Operand selects of a chain stage (R60). -/
inductive Sel where
  | unused | previous | x | y | const
  deriving DecidableEq, Repr

/-- A valid stage configuration word (R60). -/
structure Stage where
  opc : Nat
  sub : Nat
  ty : Ty
  pk : Bool
  a : Sel
  b : Sel
  c : Sel
  const : BitVec 32
  deriving DecidableEq, Repr

/-- A circular-buffer descriptor (R327) with its state (R328). -/
structure Buffer where
  base : Nat
  slots : Nat
  /-- Slot size in bytes, 64·2^SIZE. -/
  size : Nat
  fe : Bool
  cp : Nat
  pp : Nat
  wc : Nat
  deriving DecidableEq, Repr

inductive CounterState where
  | free | active | exhausted
  deriving DecidableEq, Repr

/-- A counter chain (R342). -/
structure Counter where
  state : CounterState
  levels : Nat
  wrap : Bool
  start : Vector (BitVec 32) 4
  count : Vector (BitVec 32) 4
  stride : Vector (BitVec 32) 4
  pos : Vector (BitVec 32) 4
  n : BitVec 32
  deriving DecidableEq, Repr

/-- A queued streaming chain (R182, R183, R381). -/
structure ChainRun where
  desc : Nat
  ctx : Nat
  slot : Nat
  flags : BitVec 6
  next : Nat
  groups : Nat
  x : Nat
  y : Nat
  z : Nat
  /-- Store number of group 0; group k has the number that many later (R236). -/
  number : Nat
  /-- It reads or writes a strongly ordered page: its context stalls until it has ended (R183, R268). -/
  stalls : Bool := false
  /-- Firing order and FENCE.D count of the CHN, which its accesses carry (R228, R283). -/
  order : Nat
  fence : Nat
  /-- The accesses of the group being read, of X and of Y, with the stream that each reads (2 X, 3 Y), and the one being written. -/
  reads : List (Nat × Nat)
  write : Option Nat
  deriving DecidableEq, Repr

/-- MODE of the row engine (R192). -/
structure MMode where
  ty : Ty
  prod : Bool
  afmt : Nat
  deriving DecidableEq, Repr

/-- The row engine (R189). -/
structure RowEngine where
  mode : Option MMode
  kact : Nat
  nact : Nat
  panel : BitVec 16384
  panelValid : Bool
  shadow : BitVec 16384
  cursor : Nat
  codebook : BitVec 256
  prod : BitVec 8192
  shadowProd : BitVec 8192
  prodCursor : Nat
  /-- Accumulator rows: column n of row r at bits [32n+31:32n]; an unlisted row is +0. -/
  acc : SMap (BitVec 1024)
  rowPoison : BitVec 128
  owner : Nat
  dirty : Bool
  deriving DecidableEq, Repr

/-- A row step that has fired and is not complete (R203): its row, the context it raises its flags in, and the flags. -/
structure RowStep where
  row : Nat
  ctx : Nat
  flags : BitVec 6
  deriving DecidableEq, Repr

/-- An MSPL or MFIL in progress (R203): the access of each row, with the row it stores or fills. -/
structure RowXfer where
  fill : Bool
  rows : List (Nat × Nat)
  deriving DecidableEq, Repr

/-- The attention state of a token (R204): M and L per row, O row-major. -/
structure Attn where
  m : List (BitVec 32)
  l : List (BitVec 32)
  o : List (BitVec 32)
  deriving DecidableEq, Repr

/-- What streams out of a skim slot (R214, R215): the beats still to leave, the context and endpoint, and whether the slot
becomes empty at the end. -/
structure Emit where
  beats : List V512
  /-- The tag of the endpoint at the firing, which a TAGSET that fires before the run has ended does not change (R341). -/
  tag : BitVec 3
  ctx : Nat
  ep : Nat
  free : Bool
  deriving DecidableEq, Repr

/-- A merge of R216: the endpoint it drains, the beats drained so far and still due, and the context of the SKMG. -/
structure MergeRun where
  ctx : Nat
  ep : Nat
  slotNo : Nat
  beats : List V512
  due : Nat
  poison : Bool
  deriving DecidableEq, Repr

/-- A query slot (R204). -/
structure SkimSlot where
  occupied : Bool
  hdr : V512
  q : List (BitVec 16)
  carried : Attn
  work : Attn
  fresh : Bool
  nextShard : BitVec 32
  arrival : Nat
  poison : Bool
  /-- The endpoint being drained, with the beats drained so far (header included) and the number still due (R212). -/
  drainCtx : Nat
  drainEp : Nat
  drained : List V512
  due : Nat
  merge : Option MergeRun
  emit : Option Emit
  /-- The token waits for the refill of a page of its sequence (R403). -/
  parked : Bool
  deriving DecidableEq, Repr

/-- A queued pass (R213): its slot, operands, context and slot number, the E of its firing, and the access that reads its pages. -/
structure Pass where
  slot : Nat
  a : V512
  b : V512
  ctx : Nat
  slotNo : Nat
  e : Mask
  /-- The reads of the pass; none when it must be translated afresh after a restore (R208). -/
  access : Option Nat
  deriving DecidableEq, Repr

/-- A queue mirror held by an element (R288). -/
structure Mirror where
  queue : Nat
  tail : Nat
  permits : Nat
  ctx : Nat
  deriving DecidableEq, Repr

/-- TILE_HEALTH (R486). -/
structure Health where
  retired : Bool
  spare : Bool
  bootRetired : Bool
  ceCount : Nat
  compareFails : Nat
  reason : Nat
  deriving DecidableEq, Repr

/-- One tile: element, pad port, row engine and skim unit. -/
structure Tile where
  ctxs : Vector Ctx 8
  /-- The valid leading stages of each chain descriptor (R62). -/
  chains : Vector (List Stage) 4
  buffers : Vector (Option Buffer) 16
  counters : Vector Counter 4
  /-- L of the arbiter (R326). -/
  last : Nat
  queue : List ChainRun
  row : RowEngine
  steps : List RowStep
  xfer : Option RowXfer
  skim : Vector SkimSlot 2
  passes : List Pass
  /-- Number of SKQ firings, from which ARRIVAL is taken (R204). -/
  arrivals : Nat
  mirrors : List Mirror
  /-- Instance of the configuration that the tile holds; 0 when none (R346). -/
  inst : Nat
  /-- The address space that its accesses are translated under (R445). -/
  asid : Nat
  /-- FENCE.D firings so far (R283). -/
  fences : Nat
  /-- Its queued chains run to completion while its contexts are held: a replacement changes its context words (R387). -/
  draining : Bool
  health : Health
  deriving DecidableEq, Repr

end Sys2Proof.Machine
end

