-- ==== Sys2Proof/Machine/Lanes.lean ====
section
/-! DEFINITION. Lanes of a 512-bit value (R99-R101): a lane is a natural number below 2^w, a whole value a list of lanes. Integer views of a
lane (R108), and the merge of a result into the lanes of an execution mask (R44, R46, R136). -/

namespace Sys2Proof.Machine

open Sys2Proof

/-- Lane l of width w (R99). -/
def lane (w : Nat) (v : V512) (l : Nat) : Nat := v.toNat / 2 ^ (w * l) % 2 ^ w

/-- A number whose lanes of width w are those of the list, the first lowest (R99). -/
def packNat (w : Nat) (xs : List Nat) : Nat := xs.foldr (fun x acc => x % 2 ^ w + 2 ^ w * acc) 0

/-- The 512-bit value with the given lanes of width w. -/
def packLanes (w : Nat) (xs : List Nat) : V512 := BitVec.ofNat 512 (packNat w xs)

/-- The lanes of a form: n lanes of width w. -/
def lanesOf (w n : Nat) (v : V512) : List Nat := (List.range n).map (lane w v)

/-- Bit of E or of a predicate that governs lane l of width w: bit l, or bit 2l for 64-bit lanes (R46). -/
def laneOn (w : Nat) (e : Mask) (l : Nat) : Bool := e.getLsbD (w / 32 * l)

/-- A new value in the lanes of E, and the old one elsewhere (R136). -/
def mergeLanes (w n : Nat) (e : Mask) (old : V512) (new : List Nat) : V512 :=
  packLanes w ((List.range n).map fun l => if laneOn w e l then new.getD l 0 else lane w old l)

/-- The payload of a token: the result in the lanes of E and zero elsewhere (R51). -/
def tokenLanes (w n : Nat) (e : Mask) (new : List Nat) : V512 :=
  packLanes w ((List.range n).map fun l => if laneOn w e l then new.getD l 0 else 0)

/-- A 16-bit mask from one bit per 32-bit lane. -/
def maskOf (f : Nat → Bool) : Mask :=
  BitVec.ofNat 16 (packNat 1 ((List.range 16).map fun l => (f l).toNat))

/-- A mask whose bits of lane l (both of them in a 64-bit form, R46) are the l-th of the list. -/
def maskOfLanes (w : Nat) (c : List Bool) : Mask := maskOf fun l => c.getD (l / (w / 32)) false

/-- The mask of E in a 64-bit form: lane j is governed by bit 2j, for both of its bits (R46). -/
def widenMask (w : Nat) (e : Mask) : Mask := maskOf fun l => laneOn w e (l / (w / 32))

/-- A lane read as signed (R108). -/
def sgn (w x : Nat) : Int := if x < 2 ^ (w - 1) then (x : Int) else (x : Int) - 2 ^ w

/-- A lane read as its type says (R108). -/
def intOf (signed : Bool) (w x : Nat) : Int := if signed then sgn w x else (x : Int)

/-- An integer reduced modulo 2^w (R108). -/
def wrap (w : Nat) (i : Int) : Nat := (i % (2 ^ w : Int)).toNat

/-- Smallest value of an integer type (R108). -/
def intMin (signed : Bool) (w : Nat) : Int := if signed then -(2 ^ (w - 1) : Int) else 0

/-- Largest value of an integer type (R108). -/
def intMax (signed : Bool) (w : Nat) : Int := if signed then (2 ^ (w - 1) : Int) - 1 else (2 ^ w : Int) - 1

/-- Clamping to the range of an integer type (R141). -/
def clampInt (signed : Bool) (w : Nat) (i : Int) : Int := max (intMin signed w) (min (intMax signed w) i)

/-- The n low bits of x, sign-extended to w bits (R41, R148, R301). -/
def signExtend (n w x : Nat) : Nat := wrap w (sgn n (x % 2 ^ n))

end Sys2Proof.Machine
end

