-- ==== Sys2Proof/Machine/Flags.lean ====
section
/-! DEFINITION. FP_FLAGS (R120, R121) and the predicate update with its condition C (R48). -/

namespace Sys2Proof.Machine

open Sys2Proof

/-- The sticky flags of FP_FLAGS [5:0] (R120). -/
abbrev FpFlags := BitVec 6

/-- NX, a result was inexact. -/
def flagNX : FpFlags := 1
/-- UF, underflow (R119). -/
def flagUF : FpFlags := 2
/-- OF, overflow (R111, R114). -/
def flagOF : FpFlags := 4
/-- DZ, division of a finite non-zero value by zero, or FLG2 of a zero. -/
def flagDZ : FpFlags := 8
/-- IV, invalid operation or a signalling NaN. -/
def flagIV : FpFlags := 16
/-- SAT, a conversion was clamped. -/
def flagSAT : FpFlags := 32

/-- A flag raised under a condition. -/
def flagIf (b : Bool) (f : FpFlags) : FpFlags := if b then f else 0

/-- The OR of the flags of the lanes of E (R121). -/
def flagsOver (w : Nat) (e : Mask) (fs : List FpFlags) : FpFlags :=
  ((List.range fs.length).filter fun l => laneOn w e l).foldl (fun acc l => acc ||| fs.getD l 0) 0

/-- One predicate bit after an update by condition bit c (R48). -/
def PredOp.bit (op : PredOp) (p c : Bool) : Bool :=
  match op with
  | .none => p
  | .set => c
  | .setn => !c
  | .and => p && c
  | .or => p || c
  | .xor => p ^^ c
  | .andn => p && !c

/-- A predicate register after an update in the lanes of E (R48). E and C are given per 32-bit lane. -/
def PredOp.apply (op : PredOp) (e : Mask) (c p : Mask) : Mask :=
  maskOf fun l => if e.getLsbD l then PredOp.bit op (p.getLsbD l) (c.getLsbD l) else p.getLsbD l

/-- A predicate destination: C in the lanes of E (R149, R333). -/
def predWrite (e c p : Mask) : Mask := PredOp.apply .set e c p

/-- Every lane or none. -/
def splat (b : Bool) : Mask := if b then 0xFFFF else 0

end Sys2Proof.Machine
end

