-- ==== Sys2Proof/Machine/Fp.lean ====
section
/-! DEFINITION. Floating point (R102-R119, R132, R162-R167): values of the formats as exact dyadic numbers, one rounding from the exact result,
flags, and the conversions between types under RMODE and SAT. -/

namespace Sys2Proof.Machine

open Sys2Proof

/-- A floating-point format (R102): exponent and mantissa widths, bias, and whether its all-ones exponent carries infinities
(all but e4m3). -/
structure Fmt where
  ebits : Nat
  mbits : Nat
  bias : Nat
  hasInf : Bool
  deriving DecidableEq, Repr

def Fmt.f32 : Fmt := ⟨8, 23, 127, true⟩
def Fmt.bf16 : Fmt := ⟨8, 7, 127, true⟩
def Fmt.f16 : Fmt := ⟨5, 10, 15, true⟩
def Fmt.e5m2 : Fmt := ⟨5, 2, 15, true⟩
def Fmt.e4m3 : Fmt := ⟨4, 3, 7, false⟩

/-- The format of a floating-point type (R8); f32 for the others, which no caller asks. -/
def Fmt.ofTy : Ty → Fmt
  | .bf16 => .bf16 | .f16 => .f16 | .e5m2 => .e5m2 | .e4m3 => .e4m3 | _ => .f32

/-- Width in bits. -/
def Fmt.width (f : Fmt) : Nat := 1 + f.ebits + f.mbits

/-- Exponent of the smallest normal value. -/
def Fmt.emin (f : Fmt) : Int := 1 - (f.bias : Int)

/-- The canonical NaN (R104). -/
def Fmt.nan (f : Fmt) : Nat :=
  if f.hasInf then (2 ^ f.ebits - 1) * 2 ^ f.mbits + 2 ^ (f.mbits - 1) else 2 ^ (f.ebits + f.mbits) - 1

/-- The sign bit. -/
def Fmt.sign (f : Fmt) (neg : Bool) : Nat := if neg then 2 ^ (f.ebits + f.mbits) else 0

/-- The largest finite value of a sign (R102). -/
def Fmt.maxFin (f : Fmt) (neg : Bool) : Nat :=
  f.sign neg + (if f.hasInf then (2 ^ f.ebits - 1) * 2 ^ f.mbits - 1 else 2 ^ (f.ebits + f.mbits) - 2)

/-- Infinity of a sign; e4m3 delivers its canonical NaN wherever a result would be infinite (R114). -/
def Fmt.inf (f : Fmt) (neg : Bool) : Nat :=
  if f.hasInf then f.sign neg + (2 ^ f.ebits - 1) * 2 ^ f.mbits else f.nan

/-- A floating-point operand at its exact value (R102, R105): a finite value is (-1)^neg · m · 2^e. -/
inductive FVal where
  | nan (signalling : Bool)
  | inf (neg : Bool)
  | fin (neg : Bool) (m : Nat) (e : Int)
  deriving DecidableEq, Repr

/-- The value of an encoding (R102, R103). -/
def Fmt.decode (f : Fmt) (x : Nat) : FVal :=
  let neg := bitAt x (f.ebits + f.mbits)
  let e := bits x f.mbits f.ebits
  let m := bits x 0 f.mbits
  if f.hasInf && e == 2 ^ f.ebits - 1 then
    if m = 0 then .inf neg else .nan (!bitAt m (f.mbits - 1))
  else if !f.hasInf && e == 2 ^ f.ebits - 1 && m == 2 ^ f.mbits - 1 then .nan false
  else if e = 0 then .fin neg m (f.emin - f.mbits)
  else .fin neg (2 ^ f.mbits + m) ((e : Int) - f.bias - f.mbits)

def FVal.isNan : FVal → Bool
  | .nan _ => true | _ => false
def FVal.isSnan : FVal → Bool
  | .nan s => s | _ => false
def FVal.isZero : FVal → Bool
  | .fin _ m _ => m == 0 | _ => false
def FVal.isNeg : FVal → Bool
  | .nan _ => false | .inf n => n | .fin n _ _ => n
/-- IV for a signalling NaN among the operands read (R162). -/
def ivOf (xs : List FVal) : FpFlags := flagIf (xs.any FVal.isSnan) flagIV

/-- A result in a lane with the flags it raises. -/
structure FRes where
  bits : Nat
  flags : FpFlags
  deriving DecidableEq, Repr

/-- A magnitude m · 2^e rounded to an integral multiple of 2^qe by a mode of R112: the multiple, and whether it is inexact. -/
def roundAt (rm : RMode) (neg : Bool) (m : Nat) (e qe : Int) : Nat × Bool :=
  let sh := (qe - e).toNat
  if qe ≤ e then (m * 2 ^ (e - qe).toNat, false)
  else
    let q := m / 2 ^ sh
    let r := m % 2 ^ sh
    let half := 2 ^ (sh - 1)
    let up := match rm with
      | .rne => decide (half < r) || (r == half && q % 2 == 1)
      | .rtz => false
      | .rup => !neg && r != 0
      | .rdn => neg && r != 0
      | .rna => decide (half ≤ r)
    (if up then q + 1 else q, r != 0)

/-- What a rounding delivers before overflow is judged (R112): the multiple q of 2^qe on the extended grid, inexactness, and
tininess judged before rounding (R119). -/
structure Rounded where
  q : Nat
  qe : Int
  inexact : Bool
  tiny : Bool
  deriving DecidableEq, Repr

/-- Rounding of an exact magnitude m · 2^e to the extended grid of a format (R112). -/
def Fmt.grid (f : Fmt) (rm : RMode) (neg : Bool) (m : Nat) (e : Int) : Rounded :=
  let top : Int := e + (m.log2 : Int)                       -- exponent of the leading bit
  let qe := max (top - f.mbits) (f.emin - f.mbits)
  let r := roundAt rm neg m e qe
  if r.1 = 2 ^ (f.mbits + 1) then ⟨2 ^ f.mbits, qe + 1, r.2, m != 0 && decide (top < f.emin)⟩
  else ⟨r.1, qe, r.2, m != 0 && decide (top < f.emin)⟩

/-- The encoding of a grid value, none when its magnitude exceeds the largest finite value. -/
def Fmt.encode (f : Fmt) (neg : Bool) (r : Rounded) : Option Nat :=
  if r.q < 2 ^ f.mbits then some (f.sign neg + r.q)
  else
    let e := (r.qe + f.mbits + f.bias).toNat
    let x := e * 2 ^ f.mbits + (r.q - 2 ^ f.mbits)
    if x ≤ f.maxFin false then some (f.sign neg + x) else none

/-- Flags of an inexact or tiny result (R119, R120). -/
def Rounded.flags (r : Rounded) : FpFlags := flagIf r.inexact flagNX ||| flagIf (r.inexact && r.tiny) flagUF

/-- One RNE rounding of an exact result, as every arithmetic instruction makes it (R111). -/
def Fmt.round (f : Fmt) (neg : Bool) (m : Nat) (e : Int) : FRes :=
  let r := f.grid .rne neg m e
  match f.encode neg r with
  | some x => ⟨x, r.flags⟩
  | none => ⟨f.inf neg, flagOF ||| flagNX⟩

/-- A conversion's rounding with RMODE and SAT (R112, R114). -/
def Fmt.convert (f : Fmt) (rm : RMode) (sat neg : Bool) (m : Nat) (e : Int) : FRes :=
  let r := f.grid rm neg m e
  match f.encode neg r with
  | some x => ⟨x, r.flags⟩
  | none =>
    if sat then ⟨f.maxFin neg, flagOF ||| flagNX ||| flagSAT⟩
    else
      let toInf := match rm with
        | .rne => true | .rna => true | .rtz => false | .rup => !neg | .rdn => neg
      ⟨if toInf then f.inf neg else f.maxFin neg, flagOF ||| flagNX⟩

/-- The canonical NaN with IV. -/
def Fmt.invalid (f : Fmt) : FRes := ⟨f.nan, flagIV⟩

/-- The exact sum of finite terms as a signed mantissa at the least exponent among them. -/
def exactSum (xs : List (Bool × Nat × Int)) : Int × Int :=
  let emin := xs.foldl (fun acc x => min acc x.2.2) (xs.headD (false, 0, 0)).2.2
  (xs.foldl (fun acc x =>
    let v : Int := ((x.2.1 * 2 ^ (x.2.2 - emin).toNat : Nat) : Int)
    if x.1 then acc - v else acc + v) 0, emin)

/-- The fused sum of R132: terms at their exact values with the flags raised in forming them, one RNE rounding. Infinities of both signs raise IV beside a NaN
term too (DEDUCED, log 69). -/
def Fmt.fusedSum (f : Fmt) (terms : List (FVal × FpFlags)) : FRes :=
  let raised := terms.foldl (fun acc t => acc ||| t.2) 0
  let vals := terms.map (·.1)
  let pos := vals.any (· == .inf false)
  let neg := vals.any (· == .inf true)
  if pos && neg then ⟨f.nan, raised ||| flagIV⟩
  else if vals.any FVal.isNan then ⟨f.nan, raised⟩
  else
    if pos || neg then ⟨f.inf neg, raised⟩
    else
      let fins := vals.filterMap fun v => match v with
        | .fin n m e => some (n, m, e)
        | _ => none
      let s := exactSum fins
      if s.1 = 0 then ⟨f.sign (!fins.isEmpty && fins.all fun x => x.1 && x.2.1 == 0), raised⟩
      else
        let r := f.round (decide (s.1 < 0)) s.1.natAbs s.2
        ⟨r.bits, raised ||| r.flags⟩

/-- The exact product of two values as a term (R132, R163): 0 times infinity is an invalid NaN term. A signalling NaN raises IV. -/
def mulTerm (a b : FVal) : FVal × FpFlags :=
  match a, b with
  | .fin na ma ea, .fin nb mb eb => (.fin (na ^^ nb) (ma * mb) (ea + eb), 0)
  | .inf na, .fin nb m _ => if m = 0 then (.nan false, flagIV) else (.inf (na ^^ nb), 0)
  | .fin na m _, .inf nb => if m = 0 then (.nan false, flagIV) else (.inf (na ^^ nb), 0)
  | .inf na, .inf nb => (.inf (na ^^ nb), 0)
  | a, b => (.nan false, ivOf [a, b])

/-- A value as a term of a sum: IV for a signalling NaN. -/
def valTerm (a : FVal) : FVal × FpFlags := (a, ivOf [a])

/-- The value with its sign inverted. -/
def FVal.neg : FVal → FVal
  | .nan s => .nan s
  | .inf n => .inf (!n)
  | .fin n m e => .fin (!n) m e

/-- FADD (R163). -/
def Fmt.add (f : Fmt) (a b : Nat) : FRes := f.fusedSum [valTerm (f.decode a), valTerm (f.decode b)]
/-- FSUB (R163). -/
def Fmt.sub (f : Fmt) (a b : Nat) : FRes := f.fusedSum [valTerm (f.decode a), valTerm (f.decode b).neg]
/-- FFMA (R163). -/
def Fmt.fma (f : Fmt) (a b c : Nat) : FRes := f.fusedSum [mulTerm (f.decode a) (f.decode b), valTerm (f.decode c)]

/-- FMUL (R163). -/
def Fmt.mul (f : Fmt) (a b : Nat) : FRes :=
  let t := mulTerm (f.decode a) (f.decode b)
  match t.1 with
  | .nan _ => ⟨f.nan, t.2⟩
  | .inf n => ⟨f.inf n, t.2⟩
  | .fin n m e => if m = 0 then ⟨f.sign n, t.2⟩ else f.round n m e

/-- A value times an f32 scale, rounded once to f32 (R126). -/
def scaleF32 (x : FVal) (sc : Nat) : FRes :=
  let t := mulTerm x (Fmt.f32.decode sc)
  match t.1 with
  | .nan _ => ⟨Fmt.f32.nan, t.2⟩
  | .inf n => ⟨Fmt.f32.inf n, t.2⟩
  | .fin n m e => if m = 0 then ⟨Fmt.f32.sign n, t.2⟩ else Fmt.f32.round n m e

/-- The order of two values that are not NaN: a < b, with -0 and +0 equal (R167). -/
def FVal.lt (a b : FVal) : Bool :=
  match a, b with
  | .nan _, _ => false
  | _, .nan _ => false
  | .inf na, .inf nb => na && !nb
  | .inf na, .fin _ _ _ => na
  | .fin _ _ _, .inf nb => !nb
  | .fin na ma ea, .fin nb mb eb => decide ((exactSum [(na, ma, ea), (!nb, mb, eb)]).1 < 0)

/-- FMIN and FMAX (R163): -0 lies below +0, any NaN gives the canonical NaN. -/
def Fmt.minmax (f : Fmt) (wantMax : Bool) (a b : Nat) : FRes :=
  let va := f.decode a
  let vb := f.decode b
  if va.isNan || vb.isNan then ⟨f.nan, ivOf [va, vb]⟩
  else
    let below := va.lt vb || (!vb.lt va && va.isNeg && !vb.isNeg)
    ⟨bits (if below != wantMax then a else b) 0 f.width, 0⟩

/-- FABS and FNEG (R163). -/
def Fmt.signOp (f : Fmt) (negate : Bool) (a : Nat) : FRes :=
  let v := f.decode a
  if v.isNan then ⟨f.nan, ivOf [v]⟩
  else ⟨f.sign (negate && !v.isNeg) + bits a 0 (f.ebits + f.mbits), 0⟩

/-- FSCL (R164): a × 2^n; beyond ±1000 every n gives what ±1000 gives, in every format. -/
def Fmt.scale (f : Fmt) (a : Nat) (n : Int) : FRes :=
  match f.decode a with
  | .nan s => ⟨f.nan, flagIf s flagIV⟩
  | .inf neg => ⟨f.inf neg, 0⟩
  | .fin neg m e => if m = 0 then ⟨f.sign neg, 0⟩ else f.round neg m (e + max (-1000) (min 1000 n))

/-- The rounding modes by the code of FRND's FN (R165) and of RMODE (R112). -/
def RMode.ofCode : Nat → Option RMode
  | 0 => some .rne | 1 => some .rtz | 2 => some .rup | 3 => some .rdn | 4 => some .rna | _ => none

/-- FN of FRND (R165) shares the choices of R112: even, trunc, ceil, floor, away. -/
def Fmt.integral (f : Fmt) (rm : RMode) (nxe : Bool) (a : Nat) : FRes :=
  match f.decode a with
  | .nan s => ⟨f.nan, flagIf s flagIV⟩
  | .inf neg => ⟨f.inf neg, 0⟩
  | .fin neg m e =>
    let r := roundAt rm neg m e 0
    if !r.2 then ⟨bits a 0 f.width, 0⟩
    else if r.1 = 0 then ⟨f.sign neg, flagIf nxe flagNX⟩
    else ⟨(f.round neg r.1 0).bits, flagIf nxe flagNX⟩

/-- The integer square root by bits, from the top bit given by the fuel down. -/
def isqrtAux (n : Nat) : Nat → Nat → Nat
  | 0, r => r
  | k + 1, r =>
    let r' := r + 2 ^ k
    isqrtAux n k (if r' * r' ≤ n then r' else r)

/-- The integer square root of n < 2^512. -/
def isqrt (n : Nat) : Nat := isqrtAux n 256 0

/-- A quotient of two values of a source format, rounded once to the destination's (R166, R215). The quotient keeps more bits than any format
and a last bit that says whether anything was left. -/
def Fmt.divInto (f src : Fmt) (a b : Nat) : FRes :=
  let va := src.decode a
  let vb := src.decode b
  let neg := va.isNeg ^^ vb.isNeg
  match va, vb with
  | .fin _ ma ea, .fin _ mb eb =>
    if mb = 0 then if ma = 0 then f.invalid else ⟨f.inf neg, flagDZ⟩
    else if ma = 0 then ⟨f.sign neg, 0⟩
    else
      let q := ma * 2 ^ 80 / mb
      let sticky := if ma * 2 ^ 80 % mb = 0 then 0 else 1
      f.round neg (2 * q + sticky) (ea - eb - 81)
  | .inf _, .inf _ => f.invalid
  | .inf _, .fin _ _ _ => ⟨f.inf neg, 0⟩
  | .fin _ _ _, .inf _ => ⟨f.sign neg, 0⟩
  | va, vb => ⟨f.nan, ivOf [va, vb]⟩

/-- FDIV (R166). -/
def Fmt.div (f : Fmt) (a b : Nat) : FRes := f.divInto f a b

/-- FRCP (R166): one divided by a. -/
def Fmt.rcp (f : Fmt) (a : Nat) : FRes :=
  match f.decode a with
  | .nan s => ⟨f.nan, flagIf s flagIV⟩
  | .inf neg => ⟨f.sign neg, 0⟩
  | .fin neg m e =>
    if m = 0 then ⟨f.inf neg, flagDZ⟩
    else
      let q := 2 ^ 80 / m
      f.round neg (2 * q + (if 2 ^ 80 % m = 0 then 0 else 1)) (-e - 81)

/-- FSQRT (R166). -/
def Fmt.sqrt (f : Fmt) (a : Nat) : FRes :=
  match f.decode a with
  | .nan s => ⟨f.nan, flagIf s flagIV⟩
  | .inf neg => if neg then f.invalid else ⟨f.inf false, 0⟩
  | .fin neg m e =>
    if m = 0 then ⟨f.sign neg, 0⟩
    else if neg then f.invalid
    else
      let e2 := e - e % 2 - 100
      let m2 := m * 2 ^ (e - e2).toNat
      let r := isqrt m2
      f.round false (2 * r + (if r * r = m2 then 0 else 1)) (e2 / 2 - 1)

/-- FRSQ (R166): one divided by the root, rounded once. -/
def Fmt.rsqrt (f : Fmt) (a : Nat) : FRes :=
  match f.decode a with
  | .nan s => ⟨f.nan, flagIf s flagIV⟩
  | .inf neg => if neg then f.invalid else ⟨f.sign false, 0⟩
  | .fin neg m e =>
    if m = 0 then ⟨f.inf neg, flagDZ⟩
    else if neg then f.invalid
    else
      let m2 := m * 2 ^ (e % 2).toNat
      let r := isqrt (2 ^ 200 / m2)
      f.round false (2 * r + (if r * r * m2 = 2 ^ 200 then 0 else 1)) (-(e - e % 2) / 2 - 101)

/-- The comparisons of R167: the condition and the flags. -/
def Fmt.compare (f : Fmt) (sub a b : Nat) : Bool × FpFlags :=
  let va := f.decode a
  let vb := f.decode b
  let nan := va.isNan || vb.isNan
  match sub with
  | 0 => (!nan && !va.lt vb && !vb.lt va, ivOf [va, vb])
  | 1 => (va.lt vb, flagIf nan flagIV)
  | 2 => (!nan && !vb.lt va, flagIf nan flagIV)
  | _ => (nan, ivOf [va, vb])

/-- Every value of the first format is a value of the second (R171). -/
def widens (st dt : Ty) : Bool :=
  match st, dt with
  | .bf16, .f32 => true | .f16, .f32 => true
  | .e5m2, .f16 => true | .e5m2, .bf16 => true | .e5m2, .f32 => true
  | .e4m3, .f16 => true | .e4m3, .bf16 => true | .e4m3, .f32 => true
  | _, _ => false

/-- A conversion between floating-point types (R112-R115, R171). -/
def cvtFF (st dt : Ty) (rm : RMode) (sat : Bool) (x : Nat) : FRes :=
  let f := Fmt.ofTy dt
  match (Fmt.ofTy st).decode x with
  | .nan s => ⟨f.nan, flagIf s flagIV⟩
  | .inf neg =>
    if widens st dt then ⟨f.inf neg, 0⟩
    else if sat then ⟨f.maxFin neg, flagSAT⟩
    else ⟨f.inf neg, flagIf (!f.hasInf) flagIV⟩
  | .fin neg m e => if m = 0 then ⟨f.sign neg, 0⟩ else f.convert rm sat neg m e

/-- A conversion from a floating-point type to an integer type (R116). -/
def cvtFI (st dt : Ty) (rm : RMode) (x : Nat) : FRes :=
  let w := dt.width
  match (Fmt.ofTy st).decode x with
  | .nan _ => ⟨0, flagIV⟩
  | .inf neg => ⟨wrap w (if neg then intMin dt.signed w else intMax dt.signed w), flagIV⟩
  | .fin neg m e =>
    let r := roundAt rm neg m e 0
    let v : Int := if neg then -(r.1 : Int) else (r.1 : Int)
    if clampInt dt.signed w v = v then ⟨wrap w v, flagIf r.2 flagNX⟩
    else ⟨wrap w (clampInt dt.signed w v), flagIV⟩

/-- A conversion between integer types (R117). -/
def cvtII (st dt : Ty) (sat : Bool) (x : Nat) : FRes :=
  let v := intOf st.signed st.width x
  let c := clampInt dt.signed dt.width v
  if sat then ⟨wrap dt.width c, flagIf (c != v) flagSAT⟩ else ⟨wrap dt.width v, 0⟩

/-- A conversion from an integer type to a floating-point type (R118). -/
def cvtIF (st dt : Ty) (rm : RMode) (sat : Bool) (x : Nat) : FRes :=
  let v := intOf st.signed st.width x
  if v = 0 then ⟨0, 0⟩ else (Fmt.ofTy dt).convert rm sat (decide (v < 0)) v.natAbs 0

/-- The conversion of one value between any two types (R112-R118). -/
def cvtVal (st dt : Ty) (rm : RMode) (sat : Bool) (x : Nat) : FRes :=
  let x := x % 2 ^ st.width
  if st.isFloat then if dt.isFloat then cvtFF st dt rm sat x else cvtFI st dt rm x
  else if dt.isFloat then cvtIF st dt rm sat x else cvtII st dt sat x

/-- The exact f32 of a narrow value, as channel decoding and UNPK widen it (R126, R173). -/
def widenF32 (ty : Ty) (x : Nat) : FRes :=
  if ty.isFloat then cvtFF ty .f32 .rne false (x % 2 ^ ty.width) else cvtIF ty .f32 .rne false (x % 2 ^ ty.width)

/-- The value of a type's encoding at its exact value, integers included (R126). -/
def valueOf (ty : Ty) (x : Nat) : FVal :=
  if ty.isFloat then (Fmt.ofTy ty).decode (x % 2 ^ ty.width)
  else
    let v := intOf ty.signed ty.width (x % 2 ^ ty.width)
    .fin (decide (v < 0)) v.natAbs 0

/-- C of a floating-point result (R161): 0 only for +0 and -0. -/
def Fmt.isNonzero (f : Fmt) (x : Nat) : Bool := bits x 0 (f.ebits + f.mbits) != 0

/-- C of a value of a type: a floating-point or an integer result (R161). -/
def typedNonzero (ty : Ty) (x : Nat) : Bool :=
  if ty.isFloat then (Fmt.ofTy ty).isNonzero x else x % 2 ^ ty.width != 0

/-- Entry j of a codebook table (R106). -/
def codebookEntry (table : Nat) (j : Nat) : Nat := bits table (16 * j) 16

/-- |x - y| as an exact dyadic (mantissa, exponent). -/
def distance (x y : FVal) : Option (Nat × Int) :=
  match x, y with
  | .fin na ma ea, .fin nb mb eb =>
    let s := exactSum [(na, ma, ea), (!nb, mb, eb)]
    some (s.1.natAbs, s.2)
  | _, _ => none

/-- Comparison of distances; none is infinitely far. -/
def distLt (a b : Option (Nat × Int)) : Bool :=
  match a, b with
  | none, _ => false
  | some _, none => true
  | some (ma, ea), some (mb, eb) => decide ((exactSum [(false, ma, ea), (true, mb, eb)]).1 < 0)

/-- The lowest index that is best under a strict order, among those that pass a filter. -/
def lowestBest {α : Type} (xs : List α) (ok : α → Bool) (better : α → α → Bool) : Option Nat :=
  ((List.range xs.length).foldl (fun (acc : Option (Nat × α)) j =>
    match xs[j]? with
    | none => acc
    | some x =>
      if !ok x then acc
      else match acc with
        | none => some (j, x)
        | some (k, y) => if better x y then some (j, x) else some (k, y)) none).map (·.1)

/-- CBENC of one value (R175). -/
def cbEncode (f : Fmt) (table : Nat) (a : Nat) : FRes :=
  let x := f.decode a
  let vs := (List.range 16).map fun j => Fmt.bf16.decode (codebookEntry table j)
  let code : Option Nat :=
    match x with
    | .nan _ => vs.findIdx? FVal.isNan
    | .inf neg =>
      if vs.all FVal.isNan then none
      else match vs.findIdx? (· == .inf neg) with
        | some j => some j
        | none => lowestBest vs (fun v => !v.isNan) (fun v best => if neg then v.lt best else best.lt v)
    | .fin _ _ _ => lowestBest vs (fun v => !v.isNan) (fun v best => distLt (distance x v) (distance x best))
  let c := code.getD 0
  let v := vs.getD c (.nan false)
  let iv := if x.isNan then x.isSnan || code.isNone else code.isNone
  let nx := !x.isNan && !v.isNan && (x.lt v || v.lt x)
  ⟨c, flagIf iv flagIV ||| flagIf nx flagNX⟩

/-- CBDEC of one code (R175). -/
def cbDecode (ty : Ty) (table : Nat) (a : Nat) : FRes :=
  let v := codebookEntry table (a % 16)
  match Fmt.bf16.decode v with
  | .nan s => ⟨(Fmt.ofTy ty).nan, flagIf s flagIV⟩
  | _ => ⟨if ty = .f32 then v * 2 ^ 16 else v, 0⟩

end Sys2Proof.Machine
end

