-- ==== Sys2Proof/Machine/DeviceState.lean ====
section
/-! DEFINITION. The state of the device around the fabric as plain data: variant and boot (R2, R3, R32-R36), clocks and thermal control
(R27-R31), fault records on their way and in their queues (R470-R473). -/

namespace Sys2Proof.Machine

open Sys2Proof

/-- What DEV_FEATURE says of the variant (R2, R3). -/
structure Variant where
  /-- Four fabric layers (FJZ-9640) or two (FJZ-9620). -/
  layers4 : Bool
  stencil : Bool
  /-- Eight near-DRAM dies, or four on -H. -/
  dies8 : Bool
  cxl : Bool
  deriving DecidableEq, Repr

/-- Where the data beats of a launch go (R352-R354). -/
inductive FeedTarget where
  | discard
  /-- The launch of a pool entry that is not placed yet: the beats wait. -/
  | entry (domain entry : Nat)
  /-- Port PORT of an instance. -/
  | port (domain inst port : Nat)
  deriving DecidableEq, Repr

/-- An ingress port (R350-R353): INGRESS_CTL, the buffered beats, and the data beats still to come of the launch in progress. -/
structure IngressPort where
  domain : Nat
  enable : Bool
  entryTile : Nat
  discarding : Bool
  bad : Nat
  buffer : List V512
  due : Nat
  target : FeedTarget
  /-- Where the beats of the launch in progress enter the fabric, router and port, once its path is laid (R507). -/
  way : Option (Nat × Nat)
  deriving DecidableEq, Repr

def IngressPort.clean : IngressPort :=
  { domain := 0, enable := false, entryTile := 0, discarding := false, bad := 0, buffer := [], due := 0, target := .discard, way := none }

/-- A fault record before it has a SERIAL (R470). Fields as the record's own; `operands` says whether A and B were read. -/
structure FaultRecord where
  /-- A number the model gives each record, by which a halted context knows its own. -/
  number : Nat
  source : Nat
  ctx : Nat
  slot : Nat
  cls : Nat
  cause : Nat
  halted : Bool
  performed : Bool
  chain : Bool
  lost : Bool
  serial : Nat
  inst : Nat
  address : Nat
  witness : W64
  haltWit : W64
  ns : Nat
  headTags : BitVec 24
  headValid : BitVec 8
  lane : Nat
  detail : BitVec 128
  operands : Option (V512 × V512)
  deriving DecidableEq, Repr

/-- The fault queue of a domain (R472) with FAULT_CTL (R473). -/
structure FaultQueue where
  records : List FaultRecord
  lastSerial : Nat
  lost : Nat
  /-- The next record that enters carries LOST. -/
  markLost : Bool
  brkpEn : Bool
  deriving DecidableEq, Repr

end Sys2Proof.Machine
end

