-- ==== Sys2Proof/Machine/MemoryState.lean ====
section
/-! DEFINITION. Memory, accesses in flight and the witness hardware as plain data (R223-R250, R262-R283). -/

namespace Sys2Proof.Machine

open Sys2Proof

/-- All tiers' bytes by physical address (R223), with the marks that a 16-byte granule carries: full (R229), poisoned (R481), and the
key it was encrypted with (R455). A granule is named by its physical address divided by 16. -/
structure Memory where
  cells : List Host.Cell
  full : NSet
  poison : NSet
  keys : SMap Nat
  deriving DecidableEq, Repr

/-- The memory types of R224. -/
inductive MemType where
  | normal | writeCombining | device | strong
  deriving DecidableEq, Repr

/-- The atomic operations of R277. -/
inductive AtomicOp where
  | add | min | max | and | or | xor | swap | cas | fadd
  deriving DecidableEq, Repr

/-- A lane within a granule: lane number, bit offset in the granule and width in bits (R101, R257). -/
structure LaneAt where
  lane : Nat
  off : Nat
  width : Nat
  deriving DecidableEq, Repr

/-- One lane of an atomic: its place and its operands (R277). -/
structure AtomicLane where
  at' : LaneAt
  b : Nat
  c : Nat
  deriving DecidableEq, Repr

/-- What an access does to one granule at its performing instant (R226, R227). -/
inductive PieceOp where
  /-- Reads lanes. -/
  | load (lanes : List LaneAt)
  /-- Waits until the granule is full, reads lanes, and with `clear` empties it (R231). -/
  | loadFull (clear : Bool) (lanes : List LaneAt)
  /-- Writes the bits of the mask; `setFull` also fills the granule (R230), `poison` writes it as poison (R201, R480). -/
  | store (data mask : BitVec 128) (setFull poison : Bool)
  /-- Reads, combines and writes lanes at one instant (R277). -/
  | atomic (op : AtomicOp) (ty : Ty) (lanes : List AtomicLane)
  deriving DecidableEq, Repr

/-- One granule of an access with the translation it took (R259). -/
structure Piece where
  /-- Physical address divided by 16. -/
  gran : Nat
  /-- Virtual address of the granule. -/
  va : Nat
  /-- Identity of the key of the page, 0 when its tier is not encrypted. -/
  key : Nat
  mt : MemType
  op : PieceOp
  deriving DecidableEq, Repr

/-- On whose behalf an access is made: a slot's own access, a streaming chain, an MSPL or MFIL, a skim pass, an engine queue's command, a stencil
command, or the host. -/
inductive Origin where
  | slot | chain | rowXfer | skim
  | queue (q : Nat)
  | stencil (column command : Nat)
  | host
  deriving DecidableEq, Repr

/-- Where the old value of an atomic's lane goes (R278): the bits of a return granule. -/
structure Back where
  lane : Nat
  /-- The target granule that it waits for. -/
  target : Nat
  gran : Nat
  off : Nat
  width : Nat
  va : Nat
  key : Nat
  mt : MemType
  deriving DecidableEq, Repr

/-- An access in flight: fired, with granules still to be performed or data still to return (R225-R228). -/
structure Access where
  id : Nat
  /-- Firing order: a larger number fired later. It is the access's own id, or for a streaming chain that of its CHN. -/
  order : Nat
  /-- Writer identifier of R20. -/
  writer : Nat
  tile : Nat
  ctx : Nat
  slot : Nat
  origin : Origin
  /-- Store number, 0 for a load (R236). -/
  number : Nat
  /-- Tags of a store: level and epoch of each group of the writer (R241). -/
  tags : List (Nat × Nat)
  /-- FENCE.D firings of the element before it (R283). -/
  fence : Nat
  asid : Nat
  /-- Translation cache that translated it (R452). -/
  cache : Nat
  pieces : List Piece
  /-- Lanes read so far with their values. -/
  results : List (Nat × Nat)
  /-- Virtual address of the first poisoned granule read (R265). -/
  poisonAt : Option Nat
  /-- Old values of an atomic that wait for their target granule, and the return writes that are due (R278). -/
  backs : List Back
  returns : List Piece
  /-- Operand values read at the firing (R265, R382). -/
  e : Mask
  a : V512
  b : V512
  /-- A strongly ordered access stalls its context until it is performed (R268). -/
  stalls : Bool
  /-- The witness that must be satisfied before it is performed (R209, R228); null when that was so at its firing. -/
  given : W64
  deriving DecidableEq, Repr

/-- What waits for the destination that an outstanding firing will write (R262): a load, a store on a strongly ordered page, QSEQ, QFEN, CREQ,
TLBSY or a stencil command. -/
structure Outstanding where
  id : Nat
  tile : Nat
  ctx : Nat
  slot : Nat
  dst : Opnd
  e : Mask
  /-- Lane width and number of lanes of the result. -/
  w : Nat
  n : Nat
  /-- The type of the loaded values, by which C of the predicate update is taken (R161, R262). -/
  ty : Ty := .z64
  predReg : Fin 8
  predOp : PredOp
  /-- The witness that a store on a strongly ordered page writes when it is performed (R237). -/
  witness : Option W64
  /-- A load whose destination is nul (R264). -/
  quiet : Bool
  /-- The operands of a CREQ that awaits its resolution (R382). -/
  a : V512 := 0
  b : V512 := 0
  deriving DecidableEq, Repr

/-- A writer of R20: its store sequence, TAGGED as last sent (R244), and for each level its view V, its CLOSED, and the record of its last 16
views with the lowest number tagged in each (R240, R244); and the lifts of foreign writer-local witnesses that the unit has made on use (R246, log 57). -/
structure Writer where
  issued : Nat
  sent : Nat
  views : Vector Nat 9
  closed : Vector Nat 9
  log : Vector (List (Nat × Option Nat)) 9
  lifts : List (W64 × W64)
  deriving DecidableEq, Repr

/-- A scope group (R240, R241, R243): its open epoch, the highest epoch closed, a hasten request, the time of its last
opening in reference ticks, and the period in ns that its register held then; none before its first opening. -/
structure Group where
  opened : Nat
  closed : Nat
  hasten : Bool
  lastOpen : Nat
  period : Option Nat
  deriving DecidableEq, Repr

end Sys2Proof.Machine
end

