-- ==== Sys2Proof/Machine/Clean.lean ====
section
/-! DEFINITION. Clean values: what each unit holds before anything is loaded into it (R83, R189, R204, R240, R328, R342), and the granule
operations' empty memory. Values that the spec does not state are named in assumption log 3. -/

namespace Sys2Proof.Machine

open Sys2Proof

/-- The word of an absent context: every field zero (R55). -/
def CtxWord.clean : CtxWord :=
  { valid := false, priv := false, slots := 0, rmode := .rne, sat := false, vctBase := 0,
    ibind := Vector.replicate 8 .unbound, obind := Vector.replicate 8 .unbound,
    cibind := Vector.replicate 4 none, cobind := Vector.replicate 4 none }

/-- A context as a load leaves it before any slot fires, with the given word and slots (R83, R120, R375, R341). -/
def Ctx.loaded (word : CtxWord) (slots : List SlotWord) : Ctx :=
  { word := word, slots := slots, d := Vector.replicate 8 0, p := Vector.replicate 8 0, flags := 0,
    wscope := false, restored := false, nulFaults := 0, run := .runnable,
    ins := Vector.replicate 8 [], outs := Vector.replicate 8 [], taken := 0, tags := Vector.replicate 8 0,
    cins := Vector.replicate 4 [], couts := Vector.replicate 4 [],
    chainsDone := 0, chainFlags := 0, chainFault := none, tlbirs := 0, halt := none, brkpPass := none, held := false, cancelled := [] }

/-- An absent context. -/
def Ctx.clean : Ctx := Ctx.loaded CtxWord.clean []

/-- A free counter chain (R342). -/
def Counter.clean : Counter :=
  { state := .free, levels := 1, wrap := false, start := Vector.replicate 4 0, count := Vector.replicate 4 0,
    stride := Vector.replicate 4 0, pos := Vector.replicate 4 0, n := 0 }

/-- A clean row engine owned by an instance (R189). -/
def RowEngine.clean (owner : Nat) : RowEngine :=
  { mode := none, kact := 0, nact := 0, panel := 0, panelValid := false, shadow := 0, cursor := 0, codebook := 0,
    prod := 0, shadowProd := 0, prodCursor := 0, acc := [], rowPoison := 0, owner := owner, dirty := false }

/-- No rows. -/
def Attn.empty : Attn := { m := [], l := [], o := [] }

/-- An empty skim slot (R204). -/
def SkimSlot.clean : SkimSlot :=
  { occupied := false, hdr := 0, q := [], carried := .empty, work := .empty, fresh := false, nextShard := 0, arrival := 0,
    poison := false, drainCtx := 0, drainEp := 0, drained := [], due := 0, merge := none, emit := none, parked := false }

/-- A healthy tile (R486). -/
def Health.clean : Health :=
  { retired := false, spare := false, bootRetired := false, ceCount := 0, compareFails := 0, reason := 0 }

/-- A tile with nothing loaded; L is 7 (R326). -/
def Tile.clean : Tile :=
  { ctxs := Vector.replicate 8 Ctx.clean, chains := Vector.replicate 4 [], buffers := Vector.replicate 16 none,
    counters := Vector.replicate 4 Counter.clean, last := 7, queue := [], row := RowEngine.clean 0, steps := [], xfer := none,
    skim := Vector.replicate 2 SkimSlot.clean, passes := [], arrivals := 0, mirrors := [], inst := 0, asid := 0, fences := 0, draining := false,
    health := Health.clean }

/-- A writer that has stored nothing (R236, R240). Its first view, epoch 1, is the first of its record of views. -/
def Writer.clean : Writer :=
  { issued := 0, sent := 0, views := Vector.replicate 9 1, closed := Vector.replicate 9 0,
    log := Vector.replicate 9 [(1, none)], lifts := [] }

/-- A scope group at boot (R240). -/
def Group.clean : Group := { opened := 1, closed := 0, hasten := false, lastOpen := 0, period := none }

/-- An empty fault queue (R472). -/
def FaultQueue.clean : FaultQueue := { records := [], lastSerial := 0, lost := 0, markLost := false, brkpEn := false }

/-- Memory with nothing listed: every byte reads as `Memory.blank`, no granule is full or poisoned. -/
def Memory.empty : Memory := { cells := [], full := [], poison := [], keys := [] }

end Sys2Proof.Machine
end

