-- ==== Sys2Proof/Machine/Mem.lean ====
section
/-! DEFINITION. Memory: one byte, one granule, the canonical form, and the marks of a granule (R7, R223-R231, R481). -/

namespace Sys2Proof.Machine

open Sys2Proof

/-- What a byte that nothing has written reads as: pad and vault are zeroed at boot (R32); for the other tiles log 4. -/
def Memory.blank : Byte := 0

/-- The byte of a cell list at an address. -/
def cellRead (cs : List Host.Cell) (a : Nat) : Byte :=
  match cs with
  | [] => Memory.blank
  | (k, b) :: rest => if k = a then b else cellRead rest a

/-- The cell list with one byte that is not blank put at its place. -/
def cellPut (cs : List Host.Cell) (a : Nat) (b : Byte) : List Host.Cell :=
  match cs with
  | [] => [(a, b)]
  | (k, x) :: rest =>
    if a < k then (a, b) :: (k, x) :: rest
    else if a = k then (a, b) :: rest
    else (k, x) :: cellPut rest a b

/-- The cell list with one byte written: a blank byte is not listed. -/
def cellWrite (cs : List Host.Cell) (a : Nat) (b : Byte) : List Host.Cell :=
  if b = Memory.blank then cs.filter fun c => c.1 != a else cellPut cs a b

/-- Canonical form of a cell list: addresses strictly rising from a lower bound, no entry equal to the blank byte. -/
def cellsFrom (lo : Nat) (cs : List Host.Cell) : Bool :=
  match cs with
  | [] => true
  | (k, b) :: rest => decide (lo ≤ k) && b != Memory.blank && cellsFrom (k + 1) rest

/-- Canonical form of the keys of granules: granules strictly rising, no entry for key 0. -/
def keysFrom (lo : Nat) (ks : SMap Nat) : Bool :=
  match ks with
  | [] => true
  | (g, k) :: rest => decide (lo ≤ g) && k != 0 && keysFrom (g + 1) rest

/-- Memory in canonical form: its bytes and the marks of its granules. -/
abbrev Memory.wf (m : Memory) : Bool := cellsFrom 0 m.cells && NSet.from 0 m.full && NSet.from 0 m.poison && keysFrom 0 m.keys

/-- One byte of memory. -/
def Memory.byte (m : Memory) (a : Nat) : Byte := cellRead m.cells a

/-- Memory with one byte written. -/
def Memory.setByte (m : Memory) (a : Nat) (b : Byte) : Memory := { m with cells := cellWrite m.cells a b }

/-- n bytes from an address as a little-endian number (R7). -/
def Memory.read (m : Memory) (a n : Nat) : Nat :=
  (List.range n).foldr (fun k acc => (m.byte (a + k)).toNat + 256 * acc) 0

/-- n bytes of a number written from an address, little-endian (R7). -/
def Memory.write (m : Memory) (a n x : Nat) : Memory :=
  (List.range n).foldl (fun acc k => acc.setByte (a + k) (BitVec.ofNat 8 (x / 256 ^ k))) m

/-- A granule's 128 bits (R226). -/
def Memory.granule (m : Memory) (g : Nat) : BitVec 128 := BitVec.ofNat 128 (m.read (16 * g) 16)

/-- A granule with the bits of a mask replaced (R226, R272). -/
def Memory.setGranule (m : Memory) (g : Nat) (data mask : BitVec 128) : Memory :=
  m.write (16 * g) 16 ((m.granule g &&& ~~~mask) ||| (data &&& mask)).toNat

/-- The full/empty bit of a granule (R229). -/
def Memory.isFull (m : Memory) (g : Nat) : Bool := m.full.contains g

/-- A granule made full or empty (R230, R231). -/
def Memory.setFull (m : Memory) (g : Nat) (b : Bool) : Memory :=
  { m with full := if b then NSet.insert m.full g else NSet.remove m.full g }

/-- The poison mark of a granule (R481). -/
def Memory.isPoison (m : Memory) (g : Nat) : Bool := m.poison.contains g

/-- A granule marked poisoned or clean. -/
def Memory.setPoison (m : Memory) (g : Nat) (b : Bool) : Memory :=
  { m with poison := if b then NSet.insert m.poison g else NSet.remove m.poison g }

/-- n granules written whole lose their poison marks (R481). -/
def Memory.clearPoison (m : Memory) (g n : Nat) : Memory := (List.range n).foldl (fun m k => m.setPoison (g + k) false) m

/-- The key a granule was written with; 0 for none (R455). -/
def Memory.keyOf (m : Memory) (g : Nat) : Nat := SMap.get m.keys g 0

/-- A granule written under a key. -/
def Memory.setKey (m : Memory) (g k : Nat) : Memory :=
  { m with keys := if k = 0 then SMap.erase m.keys g else SMap.set m.keys g k }

/-- The tier of a physical address (R223). -/
def tierOf (pa : Nat) : Nat := pa / 2 ^ 48

/-- Physical address of a byte of a tile's pad (R223). -/
def padPA (tile off : Nat) : Nat := tile * 2 ^ 18 + off

/-- Physical address of a byte of a column's vault (R223). -/
def vaultPA (column off : Nat) : Nat := 2 ^ 48 + column * 2 ^ 25 + off

end Sys2Proof.Machine
end

