-- ==== Sys2Proof/Machine/DomainState.lean ====
section
/-! DEFINITION. Domains, translation and keys as plain data (R442-R458, R463-R466). -/

namespace Sys2Proof.Machine

open Sys2Proof

/-- A rectangle of sectors; W = 0 means none (R443). -/
structure Shape where
  x0 : Nat
  y0 : Nat
  w : Nat
  h : Nat
  deriving DecidableEq, Repr

/-- A domain's registers (R443) and what the lath and the verifier keep for it (R346, R464). -/
structure Domain where
  shape : Shape
  target : Shape
  step : Nat
  busy : Bool
  fallback : Bool
  /-- The define step carried RESET (R458). -/
  resetting : Bool
  /-- The sectors that joined at SWITCH and whose lath RELOAD loads (R458). -/
  joined : List Nat
  asidTable : Nat
  /-- The divider that the lath requested (R30). -/
  div : Nat
  reserveLevel : Nat
  shareHost : Nat
  shareLpddr : Nat
  shareCxl : Nat
  farBase : Nat
  farSize : Nat
  trustTable : Nat
  trustCount : Nat
  /-- Thermal clamp in force (R29). -/
  clamp : Bool
  /-- Number of the instance assigned last (R346). -/
  lastInst : Nat
  /-- MEAS (R464), 32 bytes. -/
  measure : BitVec 256
  deriving DecidableEq, Repr

/-- A domain that does not exist, with the values of boot and DEFINE (R443). -/
def Domain.clean : Domain :=
  { shape := ⟨0, 0, 0, 0⟩, target := ⟨0, 0, 0, 0⟩, step := 0, busy := false, fallback := false, resetting := false, joined := [],
    asidTable := 0, div := 2, reserveLevel := 1, shareHost := 0, shareLpddr := 0, shareCxl := 0, farBase := 0,
    farSize := 0, trustTable := 0, trustCount := 0, clamp := false, lastInst := 0, measure := 0 }

/-- State of a key slot (R455). -/
inductive KeyState where
  | unassigned | empty | loaded | clearing
  deriving DecidableEq, Repr

/-- A key slot (R455, R456). `ident` is the key held plus one, and 0 for none: memory notes under which key a granule was written; `byRoot` says who
asked for the clear in progress (R457). -/
structure KeySlot where
  domain : Nat
  state : KeyState
  key : BitVec 512
  ident : Nat
  byRoot : Bool
  deriving DecidableEq, Repr

def KeySlot.clean : KeySlot := { domain := 0, state := .unassigned, key := 0, ident := 0, byRoot := false }

/-- A leaf of the page tables as a translation uses it (R447). -/
structure Leaf where
  r : Bool
  w : Bool
  a : Bool
  e : Bool
  mt : MemType
  key : Nat
  frame : Nat
  deriving DecidableEq, Repr

/-- An entry of a translation cache (R445, R450): cache, domain, ASID and virtual page. -/
structure TlbEntry where
  cache : Nat
  domain : Nat
  asid : Nat
  page : Nat
  leaf : Leaf
  deriving DecidableEq, Repr

/-- An invalidation in progress (R451-R453): who issued it, its count in that context, what it names, the caches that have applied it, and
the accesses with an old translation that are still to be performed. -/
structure Invalidation where
  id : Nat
  tile : Nat
  ctx : Nat
  count : Nat
  domain : Nat
  /-- none: every ASID of the domain. -/
  asid : Option Nat
  /-- First page and number of pages; 0 pages names the whole address space. -/
  page : Nat
  pages : Nat
  applied : List Nat
  old : List Nat
  deriving DecidableEq, Repr

end Sys2Proof.Machine
end

