-- ==== Sys2Proof/Machine/FabricState.lean ====
section
/-! DEFINITION. The state of the router of a site (R57-R59, R316-R322, R330, R480) as plain data. -/

namespace Sys2Proof.Machine

open Sys2Proof

/-- A valid routing word (R57). `inst` is the instance that it serves, 0 for words the loader wrote for a link of its own. -/
structure RWord where
  inPort : Nat
  inVc : Nat
  outSet : BitVec 7
  /-- OUT_VC when VC_REWRITE is 1. -/
  outVc : Option Nat
  inst : Nat
  deriving DecidableEq, Repr

/-- A link's health (R480). -/
inductive LinkState where
  | full | degraded | down
  deriving DecidableEq, Repr

/-- The router of a site. Ports 0 to 5 are N, E, S, W, up and down, 6 the local port. -/
structure Router where
  words : List RWord
  ctl : List RWord
  /-- Buffered beats by 32·port + vc, at most four each (R320). -/
  ins : SMap (List Beat)
  /-- Copies on their way over a link, by 32·port + vc of the port they leave by; each holds a place of the next router. -/
  staged : SMap (List Beat)
  /-- Condition tokens by 16·port + channel, at most four each (R330), and the channel that each control link served last. -/
  cins : SMap (List Bool)
  clast : SMap Nat
  /-- The virtual channel that each link served last (R320). -/
  last : SMap Nat
  /-- Failed attempts at the beat at the head of each link (R480), and the link's health. -/
  attempts : SMap Nat
  link : SMap LinkState
  /-- Boundary (port, vc) pairs of declared port records that are linked to nothing (R321). -/
  unlinked : List (Nat × Nat)
  /-- Of those, the pairs that a child's link takes for now, with the child's number (R367). -/
  lent : List (Nat × Nat × Nat)
  /-- ROUTE_MISS (R59). -/
  miss : Nat
  deriving DecidableEq, Repr

def Router.clean : Router :=
  { words := [], ctl := [], ins := [], staged := [], cins := [], clast := [], last := [], attempts := [], link := [], unlinked := [], lent := [], miss := 0 }

end Sys2Proof.Machine
end

