-- ==== Sys2Proof/Machine/SchedState.lean ====
section
/-! DEFINITION. Instances, the pending pool, launches, pre-emption and save images as plain data (R346-R387). -/

namespace Sys2Proof.Machine

open Sys2Proof

/-- A configuration image as stored under an identifier (R93, R349): its length in bytes, and the bytes as a little-endian number. -/
structure StoredImage where
  id : BitVec 128
  len : Nat
  val : Nat
  deriving DecidableEq, Repr

/-- An entry of a pending pool (R352, R360, R365). -/
structure PoolEntry where
  id : Nat
  domain : Nat
  config : BitVec 128
  deadline : Nat
  energy : Nat
  drop : Bool
  attach : Bool
  preemptible : Bool
  /-- A resident launch (R358). -/
  resident : Bool
  user : Nat
  completion : Nat
  /-- The ingress port of a host launch, its PORT and DATA_BEATS; none for a CREQ. -/
  feed : Option (Nat × Nat × Nat)
  /-- The outstanding firing of a CREQ with its requester (R365, R367). -/
  request : Option Nat
  tile : Nat
  ctx : Nat
  depth : Nat
  parent : Nat
  /-- A replacement of the requester's own instance (R387). -/
  replaces : Bool
  /-- ... whose modes its saved instance has taken, and which is answered once that instance is restored. -/
  taken : Bool := false
  /-- The launch that AFTER names (R355). -/
  pred : Option Nat
  /-- It has been deferred in the current energy window (R363). -/
  deferred : Bool
  deriving DecidableEq, Repr

/-- What became of a launch, for those that follow it (R355). -/
inductive Fate where
  | pending
  | running (inst : Nat)
  /-- Retired or triggered, with the witness that releases its dependants. -/
  | released (w : W64)
  | failed
  deriving DecidableEq, Repr

/-- A launch of a domain, by arrival. -/
structure LaunchRec where
  id : Nat
  domain : Nat
  user : Nat
  fate : Fate
  deriving DecidableEq, Repr

/-- What a pre-empted instance is restored from (R379-R384): the tiles by relative site as they stood when the region was quiesced, with the beats and
load records that the model keeps with them, the pads and vaults when it was evicted, and what the header says. -/
structure SavedTile where
  x : Nat
  y : Nat
  z : Nat
  from' : Nat
  tile : Tile
  haltWit : W64
  /-- The row engine's section, once it has been spilled (R191, R384). -/
  matrix : Option RowEngine
  /-- Written bytes of the pad by offset, with the full and the poisoned granules, when it was evicted. -/
  pad : List Host.Cell
  padFull : NSet
  padPoison : NSet
  /-- The CREQs of its contexts that await their resolution, with their pool entries (R382). -/
  creqs : List (Outstanding × Nat)
  deriving DecidableEq, Repr

structure SaveImage where
  evicted : Bool
  origin : Nat
  tiles : List SavedTile
  /-- Vaults by column of the region, in ascending order, with their written bytes and full and poisoned granules. -/
  vaults : List (List Host.Cell × NSet × NSet)
  /-- The beats and condition tokens left in the region's routers once its endpoints were full, by relative site: the records of R381 have no place for
  them, and no beat is ever lost (R378, log 59). -/
  routers : List (Nat × Nat × Nat × Router)
  /-- Where the lath wrote the image and under which key, 0 for none (R379, R455), and the witness of the QFEN that it took before it copied the vaults, null for none
  (R311, R386). -/
  address : Nat
  key : Nat
  fence : W64
  deriving DecidableEq, Repr

/-- Where an instance stands: it runs, it is being halted or is quiesced, it is restored and waits for its HALT_WITs, or it has retired and its region is
not free yet. -/
inductive Phase where
  | running | halting | saved | restoring | retired
  deriving DecidableEq, Repr

/-- An instance (R346-R348). -/
structure Inst where
  domain : Nat
  number : Nat
  config : BitVec 128
  level : Nat
  /-- Lowest corner of its region (R84), and the tiles that it configures. -/
  ox : Nat
  oy : Nat
  oz : Nat
  tiles : List Nat
  /-- All tiles of its region. -/
  region : List Nat
  /-- The depth reserve that it took (R368). -/
  reserve : Option Nat
  depth : Nat
  parent : Nat
  asid : Nat
  entryWit : W64
  trigger : Option W64
  /-- Its pool entry, and the launches attached to it since (R354). -/
  entry : PoolEntry
  /-- ... each with whether its predecessor failed to run (R355). -/
  attached : List (PoolEntry × Bool)
  late : Bool
  released : Bool
  killed : Bool
  predFailed : Bool
  placedNs : Nat
  /-- Last store witnesses of its elements when their last contexts retired (R370). -/
  lastWits : List W64
  phase : Phase
  save : Option SaveImage
  /-- Its retire witness is formed and its completion written. -/
  closed : Bool
  /-- Microjoules since its placement (R466). -/
  energy : Nat
  deriving DecidableEq, Repr

/-- SCHED_STATUS (R364), with the energy window (R363, R465). -/
structure Sched where
  late : Nat
  defer : Nat
  reason : Nat
  budget : Nat
  window : Nat
  windowStart : Nat
  reserved : Nat
  /-- Microjoules since the domain was defined and in the current window, and windows completed (R466). -/
  total : Nat
  used : Nat
  windows : Nat
  deriving DecidableEq, Repr

def Sched.clean : Sched :=
  { late := 0, defer := 0, reason := 0, budget := 0, window := 0, windowStart := 0, reserved := 0, total := 0, used := 0, windows := 0 }

end Sys2Proof.Machine
end

