-- ==== Sys2Proof/Machine/BootState.lean ====
section
/-! DEFINITION. What the boot sequencer reads (R16, R26, R32, R460, R506), and what leaves the module by the management port and the host link, as plain
data. -/

namespace Sys2Proof.Machine

open Sys2Proof

/-- The on-module flash (R32): the signed repair map, the signed module configuration record and the root lath image, with whether it can be read and
whether the two signatures verify. The spec gives the records' fields but not their bytes (log 23). -/
structure Flash where
  readable : Bool
  repairSigned : Bool
  configSigned : Bool
  /-- The repair map (R16): the failed tiles, in its order. -/
  failed : List Nat
  /-- The module configuration record: memory sizes in GiB (R506), provider keys (R460), the module's system index (R306), the periods of levels 6 to 8
  in ns (R243). -/
  lpddrGib : Nat
  cxlGib : Nat
  providerKeys : List Nat
  moduleIndex : Nat
  podPeriod : Nat
  spanPeriod : Nat
  systemPeriod : Nat
  /-- The level of each ring port where the record assigns them otherwise than R26 does. -/
  ringLevels : Option (Vector (Fin 6) 32)
  rootLath : Option StoredImage
  deriving DecidableEq, Repr

/-- The levels that the ring ports serve unless the module configuration record says otherwise (R26): 0 to 15 the pod (3), 16 to 27 the span (4), 28 to 31
the system (5). -/
def ringDefault : Vector (Fin 6) 32 := Vector.ofFn fun p => if p.val < 16 then 3 else if p.val < 28 then 4 else 5

/-- What is posted on the management port: the status of a boot that stopped (R33), a record of a root-lath context (R472), a replacement request
(R487). -/
inductive Posted where
  | boot (phase code : Nat)
  | record (r : FaultRecord)
  | replacement (message : V512)
  deriving DecidableEq, Repr

/-- A completion on the host link: Unsupported Request (R36), data, a poisoned TLP (R482), or the time that answers a measurement request (R373). -/
inductive HostReply where
  | unsupported
  | data (bytes : List Byte)
  | poisoned
  | time (ns : Nat)
  deriving DecidableEq, Repr

end Sys2Proof.Machine
end

