-- ==== Sys2Proof/Machine/EngineState.lean ====
section
/-! DEFINITION. Engine queues, their commands and mirrors, the dependency tables and the column sequencers as plain data (R286-R312). -/

namespace Sys2Proof.Machine

open Sys2Proof

/-- Where a command's record comes from (R295, R296): given whole at the append, or read at an address that is known once the record before it has been
read. `head` is the number of the first command of its chain. -/
inductive RecSource where
  | inline (record : V512)
  | chain (addr : Option Nat) (wit : W64) (head : Nat)
  deriving DecidableEq, Repr

/-- The context that a program's tokens go to: a tile of an instance by its place among the tiles configured, or a tile of no instance. -/
structure TokenDest where
  inst : Nat
  place : Nat
  tile : Nat
  ctx : Nat
  deriving DecidableEq, Repr

/-- The iteration of a program that a command is (R301, R302): its index, where its token goes, the column whose sequencer runs the program, and the attachment
under which it was appended. -/
structure Iteration where
  index : Nat
  dest : TokenDest
  col : Nat := 0
  gen : Nat := 0
  deriving DecidableEq, Repr

/-- An operand of a block-wise job: bytes at a virtual address, or bytes at hand as a little-endian number. -/
inductive Bytes' where
  | mem (va : Nat)
  | val (n : Nat)
  deriving DecidableEq, Repr

/-- Block-wise work of an engine (R304): DST := A, or DST := op(A, B) by elements of a type. -/
structure Job where
  op : Option (Nat × Ty)
  a : Bytes'
  b : Bytes'
  dst : Nat
  len : Nat
  pos : Nat
  /-- The phase of its command that follows it. -/
  next : Nat
  deriving DecidableEq, Repr

/-- A command being performed. -/
structure EngineRun where
  record : V512
  /-- IN_WIT has been found satisfied (R292). -/
  started : Bool
  /-- Which part of the command is next, and the step or rank within it. -/
  phase : Nat
  step : Nat
  job : Option Job
  /-- The access whose data the next move takes. -/
  reading : Option Nat
  /-- Bytes gathered so far, and how many. -/
  data : Nat
  pos : Nat
  /-- The table of an all-to-all or the header of a chunk graph; the step of a graph; the counts received; the rank being served; what a fence waits
  for. -/
  table : Nat
  item : Nat
  counts : List Nat
  peer : Nat
  fence : List Nat
  /-- The status that the command ends with, once decided, and whether its STATUS write has been issued (R67). -/
  status : Option Nat
  stored : Bool
  /-- Virtual address at which an access failed; 0 for none. -/
  bad : Nat
  deriving DecidableEq, Repr

/-- A command of a queue, from its append to its completion. -/
structure Command where
  number : Nat
  source : RecSource
  iter : Option Iteration
  /-- The record, once read. -/
  record : Option V512
  run : Option EngineRun
  /-- Its sequencer token has been sent (R302). -/
  told : Bool
  deriving DecidableEq, Repr

/-- A queue with QUEUE_CTL (R286, R287). TAIL is the number of commands that its engine has been given. -/
structure Queue where
  owner : Nat
  ctx : Nat
  seq : Bool
  attached : Bool
  stopped : Bool
  asid : Nat
  /-- Number of the last command completed: PF (R289). -/
  done : Nat
  /-- STATUS of the last command completed or stopped (R298). -/
  status : Nat
  commands : List Command
  /-- Completed commands whose permits have not been returned (R288). -/
  owed : Nat
  /-- Messages of peers that no command has taken yet (R306). -/
  inbox : List PeerMsg
  /-- Attachments so far, by which a permit knows the mirror that it was taken from (R288). -/
  gen : Nat := 0
  deriving DecidableEq, Repr

def Queue.clean : Queue :=
  { owner := 0, ctx := 0, seq := false, attached := false, stopped := false, asid := 0, done := 0, status := 0, commands := [], owed := 0,
    inbox := [] }

/-- A QFEN with JOIN that a lath has fired (R299, R311): its domain, its witness, and the witnesses that carry the TAILs of the queues that it reached. -/
structure Fence where
  domain : Nat
  wit : W64
  covers : List W64
  deriving DecidableEq, Repr

/-- A join of QFEN (R299): the queues that its request has not reached, and for each queue reached the number behind which its marker stands. -/
structure Join where
  request : Nat
  waiting : List Nat
  marks : List (Nat × Nat)
  deriving DecidableEq, Repr

/-- What an entry of a dependency table waits for (R300): granules, as runs (first, count), or a witness. -/
inductive EntryCond where
  | full (runs : List (Nat × Nat))
  | witness (w : W64)
  deriving DecidableEq, Repr

/-- An entry of a dependency table (R300). -/
structure TableEntry where
  entry : Nat
  queue : Nat
  first : Nat
  count : Nat
  wit : W64
  cond : EntryCond
  /-- Its condition has held (R300). -/
  ready : Bool := false
  deriving DecidableEq, Repr

/-- An iteration program (R301). -/
structure Program where
  queue : Nat
  template : V512
  iters : Nat
  next : Nat
  dest : TokenDest
  deriving DecidableEq, Repr

/-- A token that the sequencer still has to deliver (R302, R310), whether a permit returns with it, and the attachment that the permit belongs to. -/
structure SeqToken where
  queue : Nat
  dest : TokenDest
  number : Nat
  index : Nat
  status : Nat
  permit : Bool
  gen : Nat := 0
  deriving DecidableEq, Repr

/-- A column's sequencer: its dependency table, its mirrors as (queue, tail, permits), its programs and its undelivered tokens. -/
structure Sequencer where
  table : List TableEntry
  mirrors : List (Nat × Nat × Nat)
  programs : List Program
  tokens : List SeqToken
  deriving DecidableEq, Repr

def Sequencer.clean : Sequencer := { table := [], mirrors := [], programs := [], tokens := [] }

/-- A request whose destination is written when its replies have come (R297, R453): QSEQ of a queue; QFEN with the queues that it has not reached and
the witnesses gathered; TLBSY with the
count of its context's last TLBIR and the invalidations that it waits for; the scrub of a domain's resize over its invalidation (R458). -/
inductive RequestKind where
  | qseq (queue : Nat)
  | qfen (join : Bool) (waiting : List Nat) (wits : List W64)
  | tlbsy (count : Nat) (invals : List Nat)
  | scrub (domain inval : Nat)
  deriving DecidableEq, Repr

/-- A request, by the outstanding firing that it answers, with the operands read at the firing (R266). -/
structure Request where
  id : Nat
  kind : RequestKind
  e : Mask
  a : V512
  b : V512
  deriving DecidableEq, Repr

end Sys2Proof.Machine
end

