-- ==== Sys2Proof/Machine/StencilState.lean ====
section
/-! DEFINITION. The stencil engines as plain data (R417-R437): grammar contexts, configurations, the stack pools and the commands on their way. -/

namespace Sys2Proof.Machine

open Sys2Proof

/-- CSTATE of a grammar context (R425). -/
inductive GState where
  | free | ready | faulted
  deriving DecidableEq, Repr

/-- A configuration (R423, R426): its stack lies in the pool pages named, bottom first, by their number in the column's vault. -/
structure GConf where
  state : Nat
  ended : Bool
  dead : Bool
  depth : Nat
  pages : List Nat
  deriving DecidableEq, Repr

/-- A grammar context (R425). HIST stands for the positions from BASE_POS up; POLICY is true for partial. -/
structure Grammar where
  cstate : GState
  imageVa : Nat
  ident : BitVec 128
  policy : Bool
  commit : Option GConf
  commitPos : Nat
  basePos : Nat
  hist : List GConf
  nodes : Vector (Option GConf) 16
  lastStatus : Nat
  deriving DecidableEq, Repr

def Grammar.clean : Grammar :=
  { cstate := .free, imageVa := 0, ident := 0, policy := false, commit := none, commitPos := 0, basePos := 0, hist := [],
    nodes := Vector.replicate 16 none, lastStatus := 0 }

/-- A stencil engine: STENCIL_CTL (R418) and its 64 contexts. -/
structure Stencil where
  poolBase : Nat
  poolPages : Nat
  contexts : SMap Grammar
  deriving DecidableEq, Repr

def Stencil.clean : Stencil := { poolBase := 0, poolPages := 0, contexts := [] }

/-- A command sent to an engine (R427, R428): `number` is none until it has arrived. -/
structure StencilCmd where
  id : Nat
  column : Nat
  sub : Nat
  a : V512
  b : V512
  e : Mask
  tile : Nat
  ctx : Nat
  slot : Nat
  asid : Nat
  number : Option Nat
  /-- DEVICE_NS when the engine began to perform it, none before that (R428, R432). -/
  startedNs : Option Nat := none
  /-- Status, address and lanes of a command that has been performed but for its writes (R428). -/
  result : Option (Nat × Nat × List Nat) := none
  deriving DecidableEq, Repr

/-- The grammar context that a command names (R427). -/
def StencilCmd.context (c : StencilCmd) : Nat := c.a.toNat % 64

end Sys2Proof.Machine
end

