-- ==== Sys2Proof/Machine/State.lean ====
section
/-! DEFINITION. The machine's state as plain data, the reasons a step can stop, and the state after reset. INVENTORY.md lists every
piece with the rule that names it; what many units hold alike is in the sparse maps, whose unlisted keys stand for the
clean value. -/

namespace Sys2Proof.Machine

open Sys2Proof

/-- Why a step stops with a fault of the model. -/
inductive Fault where
  /-- Raised by an event that names a unit the module does not have (a tile, queue or column number out of range). No hardware does
  this, so the stop is safe. -/
  | absentUnit
  deriving DecidableEq, Repr

/-- Why a step is refused. -/
inductive Refusal where
  /-- Raised by an arm of `exec` that has no meaning yet; safe. -/
  | notModelled (mnemonic : String)
  /-- Raised by a step that fetches a slot word which the loader refuses (R71: no tile ever holds one); safe. -/
  | undefinedSlotWord (status : LoadStatus)
  deriving DecidableEq, Repr

/-- The slot whose word is being fired. -/
structure Cursor where
  tile : Nat
  ctx : Nat
  slot : Nat
  deriving DecidableEq, Repr

/-- The state of the machine. -/
structure State where
  /-- The variant of the module (R2). -/
  variant : Variant
  /-- BOOT_STATUS.PHASE (R35). -/
  phase : Nat
  /-- BOOT_STATUS.CODE (R35). -/
  bootCode : Nat
  /-- BOOT_STATUS.BOOT_COUNT (R35). -/
  bootCount : Nat
  mem : Memory
  tiles : SMap Tile
  accesses : List Access
  nextAccess : Nat
  outstanding : List Outstanding
  writers : SMap Writer
  groups : SMap Group
  domains : SMap Domain
  keySlots : SMap KeySlot
  tlb : List TlbEntry
  invals : List Invalidation
  nextInval : Nat
  /-- FAR_MEM (R506), in GiB. -/
  lpddrGib : Nat
  cxlGib : Nat
  /-- EPOCH_PERIOD of levels 2 to 8 in ns (R243), and whether the root lath has fired its first DCTL. -/
  periods : Vector Nat 9
  firstDctl : Bool
  /-- Thermal halt of R29 in force. -/
  thermalHalt : Bool
  /-- Fault records on their way to their queues, oldest first. -/
  records : List FaultRecord
  nextRecord : Nat
  faultQueues : SMap FaultQueue
  /-- The 32 ingress ports (R350). -/
  ports : SMap IngressPort
  /-- The routers of the sites, by z·2304 + 48·y + x (R12, R57). -/
  routers : SMap Router
  /-- The level that each ring port serves (R26), and the beats that have left on ring ports of levels 3 to 5 (R388), by port, for the modules beyond. -/
  ringLevels : Vector (Fin 6) 32
  ringOut : List (Nat × Beat)
  /-- The images that a domain can name: those in the cache of a domain in near DRAM, by domain, and the model library (R349). -/
  imageCache : List (Nat × StoredImage)
  library : List StoredImage
  /-- The provider's public keys of the module configuration record (R460). -/
  providerKeys : List Nat
  /-- Pending pools, launches and instances (R346-R387), and HALT_CTL (R376). -/
  pool : List PoolEntry
  nextEntry : Nat
  launches : List LaunchRec
  insts : List Inst
  /-- Requests that have been resolved and whose results have not been written yet: the outstanding firing and its 64-bit lanes (R365). -/
  resolved : List (Nat × List Nat)
  sched : SMap Sched
  halts : SMap Nat
  /-- Unused spares by column, two at most (R16, R487); corrected and uncorrectable errors by sector, and the sectors that have raised a replacement
  request (R488). -/
  spares : SMap Nat
  sectorCe : SMap Nat
  sectorUe : SMap Nat
  replaceReq : NSet
  /-- Messages posted on the management port (R33, R472, R487), and replacement messages that wait for domain 0's mailbox (R359). -/
  management : List Posted
  heldMessages : List V512
  /-- Engine queues and column sequencers (R286-R302); requests that wait for replies (R297, R453); joins (R299); messages between engines of
  this module on their way, by the receiving engine, and those sent to other modules, by module and engine (R306, R307). -/
  queues : SMap Queue
  seqs : SMap Sequencer
  requests : List Request
  joins : List Join
  messages : List (Nat × PeerMsg)
  peerOut : List (Nat × Nat × PeerMsg)
  /-- The QFENs with JOIN that laths have fired and that have their witness: the fences that a move may name (R311, R386). -/
  fences : List Fence
  /-- The system index that the module configuration record assigns to the module (R306). -/
  moduleIndex : Nat
  /-- Stencil engines by column and the commands sent to them (R417-R428). -/
  stencils : SMap Stencil
  stencilCmds : List StencilCmd
  /-- The flash (R32); power on the stack (R31); the host link trained (R36); completions sent on it, oldest first. -/
  flash : Flash
  powered : Bool
  linkUp : Bool
  hostOut : List HostReply
  /-- The lath images of domains by number (R458), and the loader status that the root lath has received for a domain's step (R74, R458). -/
  lathImages : List (Nat × StoredImage)
  loaderStatus : SMap Nat
  /-- Domains whose ATTEST_CTL reads ERROR (R463). -/
  attestError : NSet
  /-- MSCF: the mask and INVALIDATE of the flush in progress (R234); MSC_HITS and MSC_MISSES of each sector (R235). -/
  flush : Option (Nat × Bool)
  mscHits : SMap Nat
  mscMisses : SMap Nat
  /-- Energy of each sector since boot in microjoules (R466). -/
  sectorEnergy : SMap Nat
  /-- Refill requests that wait for a lath: the tile and the shard-table entry (R403). -/
  refills : List (Nat × Nat)
  /-- For each sector the tick and the cycle count at its last change of divider (R27, R372). -/
  cycleBase : SMap (Nat × Nat)
  /-- Nanoseconds by which DEVICE_NS has been slewed or stepped, a value that it does not fall below, the tick of the last slew, and whether the module
  has joined its system (R373). -/
  nsAdded : Int
  nsFloor : Nat
  lastSlew : Nat
  timeJoined : Bool
  /-- Reference ticks at 4.8 GHz since power-good (R27, R373). -/
  ticks : Nat
  /-- Which unit moves next; the model's own (log 1). -/
  agenda : List Turn
  /-- Free values used so far; the model's own (log 2). -/
  free : Nat
  /-- Steps taken; the model's own (logs 1 and 5). -/
  steps : Nat
  /-- The slot being fired; the model's own (log 1). -/
  cur : Cursor
  deriving DecidableEq, Repr

/-- The machine right after power-good (R32-R35). The values that the spec does not state are named in assumption log 3. -/
def State.reset : State :=
  { variant := { layers4 := true, stencil := true, dies8 := true, cxl := true },
    phase := 0, bootCode := 0, bootCount := 1, mem := Memory.empty, tiles := [], accesses := [], nextAccess := 1, outstanding := [],
    writers := [], groups := [], domains := [], keySlots := [], tlb := [], invals := [], nextInval := 1,
    lpddrGib := 1024, cxlGib := 15360, periods := #v[0, 0, 64, 128, 256, 512, 2000, 4000, 8000], firstDctl := false,
    thermalHalt := false, records := [], nextRecord := 1, faultQueues := [], ports := [], routers := [], ringLevels := ringDefault, ringOut := [],
    imageCache := [], library := [], providerKeys := [], pool := [], nextEntry := 1, launches := [], insts := [], resolved := [], sched := [], halts := [],
    spares := [], sectorCe := [], sectorUe := [], replaceReq := [], management := [], heldMessages := [], queues := [], seqs := [], requests := [],
    joins := [], messages := [], peerOut := [], fences := [], moduleIndex := 0, stencils := [], stencilCmds := [],
    flash := { readable := true, repairSigned := true, configSigned := true, failed := [], lpddrGib := 1024, cxlGib := 15360,
               providerKeys := [], moduleIndex := 0, podPeriod := 2000, spanPeriod := 4000, systemPeriod := 8000, ringLevels := none, rootLath := none },
    powered := true, linkUp := false, hostOut := [], lathImages := [], loaderStatus := [], attestError := [], flush := none, mscHits := [], mscMisses := [],
    sectorEnergy := [], refills := [], cycleBase := [], nsAdded := 0, nsFloor := 0, lastSlew := 0, timeJoined := false,
    ticks := 0, agenda := [],
    free := 0, steps := 0, cur := { tile := 0, ctx := 0, slot := 0 } }

end Sys2Proof.Machine
end

