-- ==== Sys2Proof/Machine/Ops.lean ====
section
/-! DEFINITION. The named operations over the state: units and their indices (R12-R20), registers and endpoints of a context, and taking a
fault: the halt of a context with its record (R467-R472). -/

namespace Sys2Proof.Machine

open Sys2Proof

/-! ### Units and indices -/

/-- Tiles of the variant (R2, R12). -/
def State.tileCount (s : State) : Nat := if s.variant.layers4 then 4608 else 2304

/-- The element site of a tile (R14). -/
def siteZ (t : Nat) : Nat := t / 1152
def siteY (t : Nat) : Nat := t % 1152 / 24
def siteX (t : Nat) : Nat := 2 * (t % 24) + siteY t % 2

/-- The tile of an element site (R14). -/
def tileAt (x y z : Nat) : Nat := z * 1152 + y * 24 + x / 2

/-- Column and sector of a tile (R15). -/
def columnOf (t : Nat) : Nat := siteY t / 6 * 8 + siteX t / 6
def sectorOf (t : Nat) : Nat := siteY t / 12 * 4 + siteX t / 12

/-- Sector of a column (R15). -/
def sectorOfColumn (c : Nat) : Nat := c / 8 / 2 * 4 + c % 8 / 2

/-- The two lath tiles of a sector (R19). -/
def lathTiles (sec : Nat) : List Nat :=
  [tileAt (12 * (sec % 4)) (12 * (sec / 4)) 0, tileAt (12 * (sec % 4) + 2) (12 * (sec / 4)) 0]

/-! ### Tiles, contexts, endpoints -/

/-- A tile of the state. -/
def State.tile (s : State) (t : Nat) : Tile := SMap.get s.tiles t Tile.clean

/-- The state with a tile replaced. -/
def State.setTile (s : State) (t : Nat) (tl : Tile) : State := { s with tiles := SMap.set s.tiles t tl }

/-- Element n of a vector of eight, counting modulo 8. -/
def at8 {α : Type} (v : Vector α 8) (n : Nat) : α := v[n % 8]'(Nat.mod_lt _ (by decide))

/-- A vector of eight with element n replaced. -/
def set8 {α : Type} (v : Vector α 8) (n : Nat) (a : α) : Vector α 8 := v.set (n % 8) a (Nat.mod_lt _ (by decide))

/-- Element n of a vector of four, counting modulo 4. -/
def at4 {α : Type} (v : Vector α 4) (n : Nat) : α := v[n % 4]'(Nat.mod_lt _ (by decide))

/-- A vector of four with element n replaced. -/
def set4 {α : Type} (v : Vector α 4) (n : Nat) (a : α) : Vector α 4 := v.set (n % 4) a (Nat.mod_lt _ (by decide))

/-- Element n of a vector of sixteen. -/
def at16 {α : Type} (v : Vector α 16) (n : Nat) : α := v[n % 16]'(Nat.mod_lt _ (by decide))

/-- A vector of sixteen with element n replaced. -/
def set16 {α : Type} (v : Vector α 16) (n : Nat) (a : α) : Vector α 16 := v.set (n % 16) a (Nat.mod_lt _ (by decide))

/-- A context of a tile. -/
def Tile.ctx (tl : Tile) (c : Nat) : Ctx := at8 tl.ctxs c

/-- A tile with a context replaced. -/
def Tile.setCtx (tl : Tile) (c : Nat) (cx : Ctx) : Tile := { tl with ctxs := set8 tl.ctxs c cx }

/-- A context of the state. -/
def State.ctx (s : State) (t c : Nat) : Ctx := (s.tile t).ctx c

/-- The state with a context replaced. -/
def State.setCtx (s : State) (t c : Nat) (cx : Ctx) : State := s.setTile t ((s.tile t).setCtx c cx)

/-- A context with data register n written. -/
def Ctx.setD (cx : Ctx) (n : Nat) (v : V512) : Ctx := { cx with d := set8 cx.d n v }

/-- A context with predicate register n written. -/
def Ctx.setP (cx : Ctx) (n : Nat) (v : Mask) : Ctx := { cx with p := set8 cx.p n v }

/-- The beats of an input endpoint that slots see: none while the skim unit drains it (R212, R318). -/
def Ctx.beats (cx : Ctx) (n : Nat) : List Beat := if cx.taken.getLsbD (n % 8) then [] else at8 cx.ins n

/-- The head beat of an input endpoint. -/
def Ctx.head (cx : Ctx) (n : Nat) : Option Beat := (cx.beats n).head?

/-- The head beats of the endpoints named in a mask, consumed (R50); an empty endpoint stays empty. -/
def Ctx.consume (cx : Ctx) (adv : BitVec 8) : Ctx :=
  { cx with ins := Vector.ofFn fun k => if adv.getLsbD k.val then cx.ins[k].tail else cx.ins[k] }

/-- The descriptor number of a circular-buffer binding. -/
def Bind.buf? : Bind → Option Nat
  | .buffer k => some k.val
  | _ => none

/-- A binding to a link or a ring channel, whose tokens are decoded (R126). -/
def Bind.decoded : Bind → Bool
  | .link _ _ => true
  | .ring _ _ => true
  | _ => false

/-- The virtual channel that a token sent on a binding carries (R51): for a ring channel, the channel number. -/
def Bind.vc : Bind → Fin 32
  | .link _ v => v
  | .ring _ v => v
  | _ => 0

/-- Filled slots of a circular buffer in pointer mode (R328). -/
def Buffer.spanned (b : Buffer) : Nat := (b.pp + 2 * b.slots - b.cp) % (2 * b.slots)

/-- FREE of a circular buffer (R328): exact, so it is negative where CP has passed PP. -/
def Buffer.freeSlots (b : Buffer) : Int := (b.slots : Int) - b.spanned

/-- Pad offset of a slot of the buffer, counted from slot index k modulo SLOTS. -/
def Buffer.slotOff (b : Buffer) (k : Nat) : Nat := b.base + k % b.slots * b.size

/-- All granules of slot k of a buffer in a tile's pad are full (R328). -/
def slotFull (s : State) (t : Nat) (b : Buffer) (k : Nat) : Bool :=
  (List.range (b.size / 16)).all fun g => s.mem.isFull (padPA t (b.slotOff k) / 16 + g)

/-- The number of consecutive full slots from the head, at most SLOTS (R328). -/
def fullRun (s : State) (t : Nat) (b : Buffer) : Nat → Nat → Nat
  | 0, _ => 0
  | fuel + 1, k => if slotFull s t b k then 1 + fullRun s t b fuel (k + 1) else 0

/-- FILLED of a circular buffer (R328). -/
def filledSlots (s : State) (t : Nat) (b : Buffer) : Nat :=
  if b.fe then fullRun s t b b.slots b.cp else b.spanned

/-! ### Time -/

/-- DEVICE_NS: 4.8 GHz reference ticks to nanoseconds (R27, R373). -/
def State.ns (s : State) : Nat := max s.nsFloor ((s.ticks * 5 / 24 : Nat) + s.nsAdded).toNat

/-! ### Writers -/

/-- A writer of R20. -/
def State.writer (s : State) (w : Nat) : Writer := SMap.get s.writers w Writer.clean

/-- The state with a writer replaced. -/
def State.setWriter (s : State) (w : Nat) (x : Writer) : State := { s with writers := SMap.set s.writers w x }

/-- Writer-local witness of a writer's number (R109, R237). -/
def localWitness (w n : Nat) : W64 :=
  BitVec.ofNat 64 (bits n 0 40 + w % 2 ^ 16 * 2 ^ 40 + bits n 40 4 * 2 ^ 56)

/-- The null witness as WNUL gives it (R110). -/
def nullWitness : W64 := 0xF000000000000000

/-- The witness of a writer's last issued store number, null when it has issued none (FENCE.D, R283). -/
def State.lastWitness (s : State) (w : Nat) : W64 :=
  let n := (s.writer w).issued
  if n = 0 then nullWitness else localWitness w n

/-! ### Faults -/

/-- The fault queue of a domain with FAULT_CTL (R472, R473). -/
def State.faultQueue (s : State) (d : Nat) : FaultQueue := SMap.get s.faultQueues d FaultQueue.clean

/-- Beat-by-beat tags and presence of the heads of a context's input endpoints (R470). -/
def headTags (cx : Ctx) : BitVec 24 :=
  BitVec.ofNat 24 (packNat 3 ((List.range 8).map fun n => ((cx.head n).map fun b => b.tag.toNat).getD 0))
def headValid (cx : Ctx) : BitVec 8 :=
  BitVec.ofNat 8 (packNat 1 ((List.range 8).map fun n => (cx.head n).isSome.toNat))

/-- What a fault at a firing says besides where it happened. -/
structure FaultInfo where
  cls : Nat
  cause : Nat
  address : Nat := 0
  witness : W64 := nullWitness
  lane : Nat := 0xFFFF
  detail : BitVec 128 := 0
  operands : Option (V512 × V512) := none
  performed : Bool := false
  chain : Bool := false
  skimSlot : Option Nat := none
  reissue : Option Reissue := none
  deriving DecidableEq, Repr

/-- A record of a fault of a context's firing (R470), numbered by the model until it has its SERIAL. -/
def State.contextRecord (s : State) (t c slot : Nat) (halted : Bool) (fi : FaultInfo) : FaultRecord :=
  let cx := s.ctx t c
  { number := s.nextRecord, source := t, ctx := c, slot := slot, cls := fi.cls, cause := fi.cause, halted := halted,
    performed := fi.performed, chain := fi.chain, lost := false, serial := 0, inst := (s.tile t).inst,
    address := fi.address, witness := fi.witness, haltWit := s.lastWitness t, ns := s.ns,
    headTags := headTags cx, headValid := headValid cx, lane := fi.lane, detail := fi.detail, operands := fi.operands }

/-- A record of a fault outside any context: an engine, a router, a link or a sensor (R470). -/
def State.unitRecord (s : State) (source cls cause address : Nat) (detail : BitVec 128) : FaultRecord :=
  { number := s.nextRecord, source := source, ctx := 0xFF, slot := 0xFF, cls := cls, cause := cause, halted := false,
    performed := false, chain := false, lost := false, serial := 0, inst := 0, address := address,
    witness := nullWitness, haltWit := s.lastWitness source, ns := s.ns, headTags := 0, headValid := 0, lane := 0xFFFF,
    detail := detail, operands := none }

/-- A record sent on its way to its queue (R472). -/
def State.send (s : State) (r : FaultRecord) : State :=
  { s with records := s.records ++ [r], nextRecord := s.nextRecord + 1 }

/-- A halt about which nothing is known yet. -/
def HaltInfo.first : HaltInfo :=
  { serial := 0, record := 0, slot := 0, cls := 0, cause := 0, chain := false, brkp := none, skimSlots := [], reissue := [], rearm := none }

/-- A halt with one record more (R475, R476): the record is the latest one, and what the earlier ones ask of a re-arm stays. -/
def HaltInfo.add (h : HaltInfo) (record slot : Nat) (fi : FaultInfo) : HaltInfo :=
  { serial := 0, record := record, slot := slot, cls := fi.cls, cause := fi.cause, chain := h.chain || fi.chain,
    brkp := if fi.cls = 16 then some slot else h.brkp, skimSlots := h.skimSlots ++ fi.skimSlot.toList, reissue := h.reissue ++ fi.reissue.toList,
    rearm := none }

/-- TAKING A FAULT (R469, R470): the context enters the state halted by a fault in the same cycle, nothing else of it changes, and a
record that says where and why goes to the domain lath. -/
def State.haltCtx (s : State) (t c slot : Nat) (fi : FaultInfo) : State :=
  let r := s.contextRecord t c slot true fi
  let cx := s.ctx t c
  (s.setCtx t c
    { cx with run := .halted, halt := some ((cx.halt.getD HaltInfo.first).add r.number slot fi) }).send r

/-- A fault record of a context that goes on running (R185, R213, R366). -/
def State.report (s : State) (t c slot : Nat) (fi : FaultInfo) : State :=
  s.send (s.contextRecord t c slot false fi)

end Sys2Proof.Machine
end

