-- ==== Sys2Proof/Machine/Operands.lean ====
section
/-! DEFINITION. Every operand form (R39, R41, R42, R126, R329): what a source field supplies to a firing, with the flags that channel
decoding raises, and the faults that a source token can be (R127, R139, R191, R339). -/

namespace Sys2Proof.Machine

open Sys2Proof

/-! ### Pad reads of the element -/

/-- The stores of an access on a granule, in order, over the granule's bits (R228: one writer's accesses to one granule are performed
in firing order, so its own later reads see them). -/
def overlayAccess (g : Nat) (x : BitVec 128) (a : Access) : BitVec 128 :=
  a.pieces.foldl (fun acc p =>
    if p.gran = g then
      match p.op with
      | .store data mask _ _ => (acc &&& ~~~mask) ||| (data &&& mask)
      | _ => acc
    else acc) x

/-- A granule of its own pad as an element reads it at a firing (R128, R329): memory with the element's own fired stores. -/
def padGranule (s : State) (t g : Nat) : BitVec 128 :=
  (s.accesses.filter fun a => a.writer = t).foldl (overlayAccess g) (s.mem.granule g)

/-- Whether that granule is poison as the element reads it (R329, R481): its own fired stores that write it whole, as poison or not, are seen. -/
def padPoison (s : State) (t g : Nat) : Bool :=
  (s.accesses.filter fun a => a.writer = t).foldl (fun bad a => a.pieces.foldl (fun bad p =>
    if p.gran = g then
      match p.op with
      | .store _ mask _ poison => poison || (bad && mask != BitVec.allOnes 128)
      | _ => bad
    else bad) bad) (s.mem.isPoison g)

/-- n bytes of the tile's pad as the element reads them; the bytes lie in consecutive granules. -/
def padRead (s : State) (t off n : Nat) : Nat :=
  let a := padPA t off
  let g := a / 16
  let whole := (List.range ((a % 16 + n + 15) / 16)).foldr (fun k acc => (padGranule s t (g + k)).toNat + 2 ^ 128 * acc) 0
  bits whole (8 * (a % 16)) (8 * n)

/-- An atomic of the element that will still write a granule has fired: a read of the granule waits for it (R228, R278). -/
def atomicPending (s : State) (t g : Nat) : Bool :=
  s.accesses.any fun a => a.writer = t &&
    ((a.pieces.any fun p => p.gran = g && match p.op with | .atomic _ _ _ => true | _ => false)
      || (a.backs.any fun k => k.gran = g) || (a.returns.any fun p => p.gran = g))

/-! ### Channel decoding -/

/-- Why a source token cannot be read at a firing. -/
inductive SrcFault where
  /-- R126 decode fault: channel and entry (R127). -/
  | decode (channel entry : Nat)
  /-- A poisoned token or poisoned head slot (R139, R339). -/
  | poison
  deriving DecidableEq, Repr

/-- A decoded operand: its bits, and per lane the flags that a scale multiplication or a signalling NaN raises. -/
structure Decoded where
  val : V512
  flags : List FpFlags
  deriving DecidableEq, Repr

/-- Bits unchanged, no flags. -/
def Decoded.raw (v : V512) : Decoded := { val := v, flags := [] }

/-- f32 lanes from results. -/
def Decoded.ofRes (rs : List FRes) : Decoded :=
  { val := packLanes 32 (rs.map (·.bits)), flags := rs.map (·.flags) }

/-- The decoding of R126 of a payload by a table entry, given the scale registers of the table and the codebook of the element. FORMAT 15, which R125 leaves out of
its range and R126 gives no width, is a decode fault (DESIGN CHOICE, log 62). -/
def decodePayload (entry : Nat) (scale : Nat → Nat) (codebook : Nat) (pay : V512) : Option Decoded :=
  let part := bits entry 4 3
  let scaled := bitAt entry 7
  let sel := bits entry 8 4
  if bits entry 12 20 ≠ 0 ∨ (scaled = false ∧ sel ≠ 0) then none
  else match Ty.ofCode (bits entry 0 4) with
  | none => none
  | some ty =>
    match ty with
    | .none | .s32 | .z32 | .s64 | .z64 =>
      if part ≠ 0 ∨ scaled then none else some (Decoded.raw pay)
    | .f32 =>
      if part ≠ 0 then none
      else if !scaled then some (Decoded.raw pay)
      else some (Decoded.ofRes ((lanesOf 32 16 pay).map fun x => scaleF32 (Fmt.f32.decode x) (scale sel)))
    | ty =>
      let w := ty.width
      if part ≥ 512 / (16 * w) then none
      else
        let elems := (List.range 16).map fun l => lane w pay (16 * part + l)
        let elemTy := if ty = .cb4 then Ty.bf16 else ty
        let vals := if ty = .cb4 then elems.map (codebookEntry codebook) else elems
        some (Decoded.ofRes (vals.map fun x =>
          if scaled then scaleF32 (valueOf elemTy x) (scale sel) else widenF32 elemTy x))

/-- The entry of a channel in the element's virtual-channel table (R124). -/
def vctEntry (s : State) (t : Nat) (cx : Ctx) (ch : Nat) : Nat := padRead s t (cx.word.vctBase * 256 + 4 * ch) 4

/-- Some word of the virtual-channel table lies in a poisoned granule. -/
def vctPoison (s : State) (t : Nat) (cx : Ctx) (off : Nat) : Bool := padPoison s t (padPA t (cx.word.vctBase * 256 + off) / 16)

/-- The table entry of a token, or the scale register that it names, is poison: then so is the operand (R481, R482, log 62). -/
def tablePoison (s : State) (t : Nat) (cx : Ctx) (b : Beat) : Bool :=
  let entry := vctEntry s t cx b.vc.val
  vctPoison s t cx (4 * b.vc.val) || (bitAt entry 7 && vctPoison s t cx (128 + 4 * bits entry 8 4))

/-- A head token read through its table entry (R126). A poisoned entry or scale register makes the operand poison before the entry is tested (log 62). -/
def decodeToken (s : State) (t : Nat) (cx : Ctx) (b : Beat) : Except SrcFault Decoded :=
  let entry := vctEntry s t cx b.vc.val
  if tablePoison s t cx b then .error .poison
  else match decodePayload entry (fun k => padRead s t (cx.word.vctBase * 256 + 128 + 4 * k) 4)
      (s.tile t).row.codebook.toNat b.payload with
  | some d => .ok d
  | none => .error (.decode b.vc.val entry)

/-- The channel's entry names cb4: the decode reads the row engine's codebook (R126, R191). -/
def readsCodebook (s : State) (t : Nat) (cx : Ctx) (b : Beat) : Bool :=
  !vctPoison s t cx (4 * b.vc.val) && bits (vctEntry s t cx b.vc.val) 0 4 == 6

/-! ### Operands -/

/-- The imm operand (R41) under the lane type and PK. -/
def immOperand (ty : Ty) (pk : Bool) (imm : BitVec 32) : V512 :=
  let x := imm.toNat
  if pk then packLanes 16 (List.replicate 32 (x % 2 ^ 16))
  else match ty with
  | .s64 => packLanes 64 (List.replicate 8 (signExtend 32 64 x))
  | .z64 => packLanes 64 (List.replicate 8 x)
  | .bf16 | .f16 | .s16 | .z16 => packLanes 32 (List.replicate 16 (x % 2 ^ 16))
  | .e4m3 | .e5m2 | .s8 | .z8 => packLanes 32 (List.replicate 16 (x % 2 ^ 8))
  | .cb4 => packLanes 32 (List.replicate 16 (x % 16))
  | .none | .f32 | .s32 | .z32 => packLanes 32 (List.replicate 16 x)

/-- The lane index operand: 0-15, or 0-7 in 64-bit forms (R39). -/
def lixOperand (w : Nat) : V512 := packLanes w (List.range (512 / w))

/-- The head beat of an input endpoint as a source sees it: a circular buffer's head slot has mask 0xFFFF and tag 0 (R329). -/
def headBeat (s : State) (t : Nat) (cx : Ctx) (n : Nat) : Option Beat :=
  match (at8 cx.word.ibind n).buf? with
  | some k =>
    match at16 (s.tile t).buffers k with
    | some b =>
      if filledSlots s t b = 0 then none
      else
        let off := b.slotOff b.cp
        some { payload := BitVec.ofNat 512 (padRead s t off 64), mask := 0xFFFF, tag := 0, vc := 0,
               poison := (List.range 4).any fun g => padPoison s t (padPA t off / 16 + g) }
    | none => none
  | none => cx.head n

/-- One source operand (R39). `rawTok` takes a token's bits undecoded (R211). A token's own poison is met before its table entry is read, and of several operands
that fail the first of A, B and C is recorded: the spec gives no order (DESIGN CHOICE, log 62). -/
def sourceOperand (s : State) (t : Nat) (cx : Ctx) (immTy : Ty) (w : Nat) (pk rawTok : Bool) (imm : BitVec 32)
    (htag : BitVec 3) (o : Opnd) : Except SrcFault Decoded :=
  match o with
  | .imm => .ok (Decoded.raw (immOperand immTy pk imm))
  | .lix => .ok (Decoded.raw (lixOperand w))
  | .htag => .ok (Decoded.raw (packLanes w (List.replicate (512 / w) htag.toNat)))
  | .d n => .ok (Decoded.raw (at8 cx.d n.val))
  | .i n =>
    match headBeat s t cx n.val with
    | none => .ok (Decoded.raw 0)
    | some b =>
      if b.poison then .error .poison
      else if rawTok || !(at8 cx.word.ibind n.val).decoded then .ok (Decoded.raw b.payload)
      else decodeToken s t cx b
  | .p n => .ok (Decoded.raw ((at8 cx.p n.val).setWidth 512))
  | .none | .zr | .nul | .o _ | .ci _ | .co _ => .ok (Decoded.raw 0)

/-- The input endpoints that a slot reads as sources, lowest first (R42, R44). -/
def readEndpoints (row : OpRow) (f : Slot) : List Nat :=
  (List.range 8).filter fun k =>
    (row.a.reads && (match f.sa with | .i n => n.val == k | _ => false))
    || (row.b.reads && (match f.sb with | .i n => n.val == k | _ => false))
    || (row.c.reads && (match f.sc with | .i n => n.val == k | _ => false))

/-- The lane guard G of R43. -/
def guardMask (cx : Ctx) (f : Slot) : Mask :=
  maskOf fun l => (List.range 8).all fun k => !f.pmask.getLsbD k || (at8 cx.p k).getLsbD l == f.pval.getLsbD k

/-- The AND of the masks of the head tokens read (R44). -/
def headMask (s : State) (t : Nat) (cx : Ctx) (eps : List Nat) : Mask :=
  eps.foldl (fun acc k => match headBeat s t cx k with | some b => acc &&& b.mask | none => acc) 0xFFFF

/-- Lane width of a form: that of TYPE, and for CVT 64 bits when either type has 64 (R136, R170). -/
def formWidth (i : Instr) (f : Slot) : Nat :=
  match i with
  | .cvt src _ => if src.is64 || f.ty.is64 then 64 else 32
  | _ => f.ty.laneWidth

end Sys2Proof.Machine
end

