-- ==== Sys2Proof/Machine/Firing.lean ====
section
/-! DEFINITION. The record of one firing: where, the slot, the lane width of its form, E, and the operands read (R44, R49). -/

namespace Sys2Proof.Machine

open Sys2Proof

/-- A firing's place, execution lanes and operands. -/
structure Firing where
  t : Nat
  c : Nat
  slot : Nat
  f : Slot
  /-- Lane width of the form. -/
  w : Nat
  /-- Execution lanes, one bit per 32-bit lane (R44). -/
  e : Mask
  a : Decoded
  b : Decoded
  cc : Decoded

/-- Number of lanes of the form. -/
def Firing.n (fr : Firing) : Nat := 512 / fr.w

/-- Lane l of the form lies in E (R46). -/
def Firing.on (fr : Firing) (l : Nat) : Bool := laneOn fr.w fr.e l

/-- Lanes of the operands in the form's width. -/
def Firing.la (fr : Firing) : List Nat := lanesOf fr.w fr.n fr.a.val
def Firing.lb (fr : Firing) : List Nat := lanesOf fr.w fr.n fr.b.val
def Firing.lc (fr : Firing) : List Nat := lanesOf fr.w fr.n fr.cc.val

/-- 64-bit lane j of the A operand read whole (R255). -/
def Firing.a64 (fr : Firing) (j : Nat) : Nat := lane 64 fr.a.val j
/-- 64-bit lane j of the B operand read whole. -/
def Firing.b64 (fr : Firing) (j : Nat) : Nat := lane 64 fr.b.val j

/-- E has at least one lane. -/
def Firing.any (fr : Firing) : Bool := (List.range fr.n).any fr.on

end Sys2Proof.Machine
end

