-- ==== Sys2Proof/Machine/Aes.lean ====
section
/-! DEFINITION. AES-256-XTS over one granule (R455): FIPS 197's block cipher with a 256-bit key, and IEEE 1619's XEX form whose data unit is one block
(assumption log 6). Bytes are numbers below 256, the first of a granule its lowest. -/

namespace Sys2Proof.Machine

open Sys2Proof

/-- A byte times x modulo x⁸ + x⁴ + x³ + x + 1. -/
def gfDouble (a : Nat) : Nat := if a < 128 then 2 * a else (2 * a) ^^^ 0x11B

/-- The product of two bytes of the field. -/
def gfMul (a b : Nat) : Nat :=
  ((List.range 8).foldl (fun p k => (if b.testBit k then p.1 ^^^ p.2 else p.1, gfDouble p.2)) ((0, a) : Nat × Nat)).1

/-- The inverse of a byte: its power 254, the product of its powers 2, 4, up to 128. -/
def gfInv (a : Nat) : Nat :=
  ((List.range 7).foldl (fun p _ => (gfMul p.1 (gfMul p.2 p.2), gfMul p.2 p.2)) ((1, a) : Nat × Nat)).1

/-- A byte rotated left. -/
def rotByte (a k : Nat) : Nat := (a * 2 ^ k + a / 2 ^ (8 - k)) % 256

/-- The substitution of a byte, and its inverse. -/
def aesSub (a : Nat) : Nat :=
  let i := gfInv a
  i ^^^ rotByte i 1 ^^^ rotByte i 2 ^^^ rotByte i 3 ^^^ rotByte i 4 ^^^ 0x63
def aesUnsub (a : Nat) : Nat := gfInv (rotByte a 1 ^^^ rotByte a 3 ^^^ rotByte a 6 ^^^ 0x05)

/-- Bytes combined one by one. -/
def xorBytes (a b : List Nat) : List Nat := List.zipWith (· ^^^ ·) a b

/-- Round keys are made of 60 words of four bytes: the next word from those before it, the latest first. -/
def aesNextWord (ws : List (List Nat)) (i : Nat) : List Nat :=
  let last := ws.headD []
  let t := if i % 8 = 0 then xorBytes ((last.drop 1 ++ last.take 1).map aesSub) [2 ^ (i / 8 - 1), 0, 0, 0]
    else if i % 8 = 4 then last.map aesSub
    else last
  xorBytes (ws.getD 7 []) t

/-- The 15 round keys of a key of 32 bytes, each of 16 bytes. -/
def aesRoundKeys (key : List Nat) : List (List Nat) :=
  let first := ((List.range 8).map fun k => (key.drop (4 * k)).take 4).reverse
  let ws := ((List.range 52).foldl (fun ws k => aesNextWord ws (k + 8) :: ws) first).reverse
  (List.range 15).map fun r => ((ws.drop (4 * r)).take 4).flatten

/-- Rows shifted by `n` columns for each row number: 1 to encrypt, 3 to decrypt. -/
def aesShift (n : Nat) (xs : List Nat) : List Nat := (List.range 16).map fun i => xs.getD (i % 4 + 4 * ((i / 4 + n * (i % 4)) % 4)) 0

/-- Columns mixed with the coefficients of a matrix row. -/
def aesMix (row xs : List Nat) : List Nat :=
  (List.range 16).map fun i => (List.range 4).foldl (fun acc k => acc ^^^ gfMul (row.getD ((k + 4 - i % 4) % 4) 0) (xs.getD (i / 4 * 4 + k) 0)) 0

/-- A block encrypted. -/
def aesEncrypt (key block : List Nat) : List Nat :=
  let ks := aesRoundKeys key
  let s := (List.range 13).foldl (fun s r => xorBytes (aesMix [2, 3, 1, 1] (aesShift 1 (s.map aesSub))) (ks.getD (r + 1) []))
    (xorBytes block (ks.getD 0 []))
  xorBytes (aesShift 1 (s.map aesSub)) (ks.getD 14 [])

/-- A block decrypted. -/
def aesDecrypt (key block : List Nat) : List Nat :=
  let ks := aesRoundKeys key
  let s := (List.range 13).foldl (fun s r => aesMix [14, 11, 13, 9] (xorBytes ((aesShift 3 s).map aesUnsub) (ks.getD (13 - r) [])))
    (xorBytes block (ks.getD 14 []))
  xorBytes ((aesShift 3 s).map aesUnsub) (ks.getD 0 [])

/-- The bytes of a number, the lowest first, and back. -/
def bytesLE (n x : Nat) : List Nat := (List.range n).map fun k => x / 256 ^ k % 256
def ofBytesLE (bs : List Nat) : Nat := bs.foldr (fun b acc => b + 256 * acc) 0

/-- A granule run through a cipher under a key pair (the data key below the tweak key) with its number PA[51:4] as the tweak (R455). -/
def xts (cipher : List Nat → List Nat → List Nat) (key : Nat) (g : Nat) (data : BitVec 128) : BitVec 128 :=
  let t := aesEncrypt (bytesLE 32 (key / 2 ^ 256)) (bytesLE 16 (g % 2 ^ 48))
  BitVec.ofNat 128 (ofBytesLE (xorBytes (cipher (bytesLE 32 key) (xorBytes (bytesLE 16 data.toNat) t)) t))

end Sys2Proof.Machine
end

