-- ==== Sys2Proof/Machine/Translate.lean ====
section
/-! DEFINITION. Who owns what (R442, R443, R223), and the translation of addresses (R222, R445-R450). -/

namespace Sys2Proof.Machine

open Sys2Proof

/-! ### Ownership -/

/-- An ingress port (R350). -/
def State.port (s : State) (n : Nat) : IngressPort := SMap.get s.ports n IngressPort.clean

/-- The state with an ingress port replaced. -/
def State.setPort (s : State) (n : Nat) (x : IngressPort) : State := { s with ports := SMap.set s.ports n x }

/-- A domain's state. -/
def State.domain (s : State) (d : Nat) : Domain := SMap.get s.domains d Domain.clean

/-- The state with a domain replaced. -/
def State.setDomain (s : State) (d : Nat) (x : Domain) : State := { s with domains := SMap.set s.domains d x }

/-- Sector s lies in the shape (R443). -/
def Shape.has (sh : Shape) (sec : Nat) : Bool :=
  decide (sh.x0 ≤ sec % 4) && decide (sec % 4 < sh.x0 + sh.w) && decide (sh.y0 ≤ sec / 4) && decide (sec / 4 < sh.y0 + sh.h)

/-- The domain that owns a sector (R442). -/
def State.domainOf (s : State) (sec : Nat) : Option Nat :=
  (List.range 16).find? fun d => (s.domain d).shape.has sec

/-- The domain of a tile. -/
def State.tileDomain (s : State) (t : Nat) : Option Nat := s.domainOf (sectorOf t)

/-- An instance by its domain and number (R346). -/
def State.inst? (s : State) (d n : Nat) : Option Inst := s.insts.find? fun i => i.domain == d && i.number == n

/-- The instance that a tile belongs to. -/
def State.tileInst (s : State) (t : Nat) : Option Inst :=
  match s.tileDomain t with
  | none => none
  | some d => if (s.tile t).inst = 0 then none else s.inst? d (s.tile t).inst

/-- The divider D of a sector (R27, R29, R30): that of its domain, forced to 8 while the clamp is in force. -/
def State.divider (s : State) (sec : Nat) : Nat :=
  match s.domainOf sec with
  | none => 2
  | some d => let dm := s.domain d
              if dm.clamp then max 8 dm.div else dm.div

/-- A sector's cycles since boot (R372): counted from a clock edge that is noted with its count. -/
def State.cycles (s : State) (sec : Nat) : Nat :=
  let base := SMap.get s.cycleBase sec (0, 0)
  if s.ticks < base.1 then base.2 - 1 else base.2 + (s.ticks - base.1) / s.divider sec

/-- A sector's next clock edge, with the count at it, noted before its divider changes there (R27): no count of a cycle is lost. -/
def State.noteEdge (s : State) (sec : Nat) : State :=
  let base := SMap.get s.cycleBase sec (0, 0)
  let n := (s.ticks - base.1 + s.divider sec - 1) / s.divider sec
  { s with cycleBase := SMap.set s.cycleBase sec (base.1 + n * s.divider sec, base.2 + n) }

/-- The clock edges of some sectors noted before their divider changes. -/
def State.noteCycles (s : State) (secs : List Nat) : State := secs.foldl State.noteEdge s

/-- Size of near DRAM per sector in bytes (R2, R223). -/
def State.nearDramSize (s : State) : Nat := (if s.variant.dies8 then 6 else 3) * 2 ^ 30

/-- A physical address is backed (R6, R223, R487, R506). -/
def State.backed (s : State) (pa : Nat) : Bool :=
  let off := bits pa 0 48
  match tierOf pa with
  | 0x0 => bits off 31 17 == 0 && decide (bits off 18 13 < s.tileCount) && !(s.tile (bits off 18 13)).health.retired
  | 0x1 => bits off 31 17 == 0
  | 0x2 => bits off 37 11 == 0 && decide (bits off 0 33 < s.nearDramSize)
  | 0x3 => bits off 39 9 == 0
  | 0x4 => bits off 40 8 == 0 && decide (off < s.lpddrGib * 2 ^ 30)
  | 0x5 => bits off 44 4 == 0 && s.variant.cxl && decide (off < s.cxlGib * 2 ^ 30)
  | 0x8 => decide (off < 2 ^ 32)
  | 0x9 => true
  | _ => false

/-- The far offset of a tier 0x4 or 0x5 address (R443). -/
def farOffset (pa : Nat) : Nat := if tierOf pa = 4 then bits pa 0 48 else 2 ^ 40 + bits pa 0 48

/-- The domain that owns a window of tier 0x9: that of an ingress port (R350, R442), or of a mailbox page (R357). -/
def windowOwner (s : State) (off : Nat) : Option Nat :=
  if off < 32 * 0x10000 then some (s.port (off / 0x10000)).domain
  else if 0x100000000 ≤ off ∧ off < 0x100000000 + 16 * 0x10000 then some ((off - 0x100000000) / 0x10000)
  else none

/-- A physical address belongs to a domain (R442, R443, R508). -/
def State.ownsPA (s : State) (d pa : Nat) : Bool :=
  let off := bits pa 0 48
  match tierOf pa with
  | 0x0 => s.tileDomain (bits off 18 13) == some d
  | 0x1 => s.domainOf (sectorOfColumn (bits off 25 6)) == some d
  | 0x2 => s.domainOf (bits off 33 4) == some d
  | 0x3 => s.domainOf (bits off 35 4) == some d
  | 0x4 | 0x5 =>
    let dm := s.domain d
    decide (dm.farBase * 2 ^ 30 ≤ farOffset pa) && decide (farOffset pa < (dm.farBase + dm.farSize) * 2 ^ 30)
  | 0x8 => true
  | 0x9 => windowOwner s off == some d
  | _ => false

/-- The sector whose cache slice stands in front of a granule (R233): the sector of an HBM granule; for far memory the one that the interleave of the owning
domain's range assigns its 256-byte line to. -/
def State.sliceOf (s : State) (g : Nat) : Option Nat :=
  let pa := 16 * g
  match tierOf pa with
  | 0x3 => some (bits pa 35 4)
  | 0x4 | 0x5 =>
    match (List.range 16).find? fun d => s.ownsPA d pa with
    | none => none
    | some d =>
      let secs := (List.range 16).filter (s.domain d).shape.has
      secs[(farOffset pa - (s.domain d).farBase * 2 ^ 30) / 256 % secs.length]?
  | _ => none

/-- n lookups counted by a sector's slice (R235): how many of them hit is left open (log 22). -/
def State.countLookups (s : State) (sec n : Nat) : State :=
  let hits := SMap.get s.mscHits sec 0
  let misses := SMap.get s.mscMisses sec 0
  let h := (Config.mscHits (sec + 16 * (hits + misses))) % (n + 1)
  { s with mscHits := SMap.set s.mscHits sec ((hits + h) % 2 ^ 64), mscMisses := SMap.set s.mscMisses sec ((misses + (n - h)) % 2 ^ 64) }

/-- One lookup for each granule that is read or written through a slice (R233, R235). -/
def State.lookUp (s : State) (gs : List Nat) : State :=
  gs.foldl (fun s g => match s.sliceOf g with
    | some sec => s.countLookups sec 1
    | none => s) s

/-- Tiers whose contents are encrypted (R22). -/
def encryptedTier (t : Nat) : Bool := t == 2 || t == 3 || t == 4 || t == 5

/-! ### The walk -/

/-- What a walk ends in: a leaf, or a translation fault's cause (R449), or a poisoned entry met at a physical address (R468, cause WALK). -/
inductive Walk where
  | leaf (l : Leaf)
  | fault (cause : Nat)
  | poison (pa : Nat)
  deriving DecidableEq, Repr

/-- The memory type of an entry (R224, R447). -/
def MemType.ofCode : Nat → MemType
  | 0 => .normal | 1 => .writeCombining | 2 => .device | _ => .strong

/-- A key slot. -/
def State.keySlot (s : State) (k : Nat) : KeySlot := SMap.get s.keySlots k KeySlot.clean

/-- The 128 bits that stand in memory for a granule: encrypted where it was written under a key (R455). -/
def Memory.stored (m : Memory) (g : Nat) : BitVec 128 :=
  if m.keyOf g = 0 then m.granule g else xts aesEncrypt (m.keyOf g - 1) g (m.granule g)

/-- Data under a key are in the clear for what reads on behalf of a domain without a page: written under no key, or under one that a slot of the domain holds
(R441, log 6). -/
def State.opens (s : State) (d k : Nat) : Bool := k == 0 || s.keySlots.any fun x => x.2.state == .loaded && x.2.domain == d && x.2.ident == k

/-- n bytes that a walker or the verifier reads on behalf of a domain by their physical address. -/
def State.readFor (s : State) (d pa n : Nat) : Nat :=
  if (List.range ((pa % 16 + n + 15) / 16)).all fun k => s.opens d (s.mem.keyOf (pa / 16 + k)) then s.mem.read pa n
  else ofBytesLE ((List.range n).map fun k =>
    let g := (pa + k) / 16
    bits (if s.opens d (s.mem.keyOf g) then s.mem.granule g else s.mem.stored g).toNat (8 * ((pa + k) % 16)) 8)

/-- An entry of a table of a domain and the poison of its granule. -/
def readEntry (s : State) (d pa : Nat) : Nat × Bool := (s.readFor d pa 8, s.mem.isPoison (pa / 16))

/-- A table of the domain lies in tiers 0x1 to 0x3 of it (R449). -/
def tableOk (s : State) (d frame : Nat) : Bool :=
  let pa := frame * 2 ^ 16
  decide (1 ≤ tierOf pa) && decide (tierOf pa ≤ 3) && s.backed pa && s.ownsPA d pa

/-- The fault of a table entry (levels 3 to 1), if any, in the order of R449. -/
def tableFault (s : State) (d e : Nat) : Option Nat :=
  if !bitAt e 0 then some 1
  else if !bitAt e 1 || bits e 2 18 != 0 || bits e 56 8 != 0 then some 2
  else if !tableOk s d (bits e 20 36) then some 3
  else none

/-- The leaf of an entry; a register or window page is device when its entry says normal or write-combining (R225). -/
def leafOf (e : Nat) : Leaf :=
  let mt := MemType.ofCode (bits e 6 2)
  let tier := tierOf (bits e 20 36 * 2 ^ 16)
  { r := bitAt e 2, w := bitAt e 3, a := bitAt e 4, e := bitAt e 5,
    mt := if (tier = 8 ∨ tier = 9) ∧ (mt = .normal ∨ mt = .writeCombining) then .device else mt,
    key := bits e 8 8, frame := bits e 20 36 }

/-- The key slot of a leaf is not usable by the domain (R449, cause KEY). -/
def keyFault (s : State) (d : Nat) (l : Leaf) : Bool :=
  if encryptedTier (tierOf (l.frame * 2 ^ 16)) then
    let k := s.keySlot l.key
    k.state != .loaded || k.domain != d
  else l.key != 0

/-- The first poisoned entry of the run of a leaf, which the walk reads whole (R448, R482). -/
def runPoison (s : State) (table page : Nat) : Option Nat :=
  ((List.range 32).map fun i => table * 2 ^ 16 + 8 * (page / 32 * 32 + i)).find? fun pa => s.mem.isPoison (pa / 16)

/-- The run of a leaf entry breaks R448. -/
def runFault (s : State) (d table page e : Nat) : Bool :=
  let base := page / 32 * 32
  let first := (readEntry s d (table * 2 ^ 16 + 8 * base)).1
  let strip (x : Nat) : Nat := x - bits x 20 36 * 2 ^ 20
  bits first 20 36 % 32 != 0 || !(List.range 32).all fun i =>
    let x := (readEntry s d (table * 2 ^ 16 + 8 * (base + i))).1
    bitAt x 16 && bits x 20 36 == bits first 20 36 + i && strip x == strip e

/-- What a leaf entry ends the walk in: a fault, in the order of R449, a poisoned neighbour of its run, met where cause 4 is tested (log 62), or its leaf. -/
def leafWalk (s : State) (d table page e : Nat) : Walk :=
  let l := leafOf e
  if !bitAt e 0 then .fault 1
  else if bitAt e 1 || bitAt e 19 || bits e 56 8 != 0 then .fault 2
  else if !(s.backed (l.frame * 2 ^ 16) && s.ownsPA d (l.frame * 2 ^ 16)) then .fault 3
  else match (if bitAt e 16 then runPoison s table page else none) with
    | some pa => .poison pa
    | none =>
      if bitAt e 16 && runFault s d table page e then .fault 4
      else if keyFault s d l then .fault 5
      else .leaf l

/-- The levels of the walk from a table down (R446): indices of the remaining levels, highest first. -/
def walkLevels (s : State) (d : Nat) : List Nat → Nat → Walk
  | [], _ => .fault 1
  | [page], table =>
    let r := readEntry s d (table * 2 ^ 16 + 8 * page)
    if r.2 then .poison (table * 2 ^ 16 + 8 * page) else leafWalk s d table page r.1
  | ix :: rest, table =>
    let r := readEntry s d (table * 2 ^ 16 + 8 * ix)
    if r.2 then .poison (table * 2 ^ 16 + 8 * ix)
    else match tableFault s d r.1 with
      | some c => .fault c
      | none => walkLevels s d rest (bits r.1 20 36)

/-- A walk of the page tables of an address space (R446, R449); the ASID table takes eight frames. -/
def walk (s : State) (d asid va : Nat) : Walk :=
  let base := (s.domain d).asidTable
  if bits va 57 7 ≠ 0 ∨ base = 0 then .fault 1
  else if !(List.range 8).all (fun k => tableOk s d (base + k)) then .fault 3
  else
    let ae := readEntry s d (base * 2 ^ 16 + 8 * asid)
    if ae.2 then .poison (base * 2 ^ 16 + 8 * asid)
    else if !bitAt ae.1 0 then .fault 1
    else if bits ae.1 1 19 != 0 || bits ae.1 56 8 != 0 then .fault 2
    else if !tableOk s d (bits ae.1 20 36) then .fault 3
    else walkLevels s d [bits va 55 2, bits va 42 13, bits va 29 13, bits va 16 13] (bits ae.1 20 36)

/-- Identity of the key of a leaf's slot, 0 for an unencrypted tier. -/
def State.keyIdent (s : State) (l : Leaf) : Nat :=
  if encryptedTier (tierOf (l.frame * 2 ^ 16)) then (s.keySlot l.key).ident else 0

/-- The 128 bits that a granule reads as under a key: what was written under that key, else what stands in memory decrypted with it (R455, log 6). -/
def Memory.readAs (m : Memory) (key g : Nat) : BitVec 128 :=
  if m.keyOf g = key then m.granule g
  else if key = 0 then m.stored g
  else xts aesDecrypt (key - 1) g (m.stored g)

def State.granuleAs (s : State) (key g : Nat) : BitVec 128 := s.mem.readAs key g

/-- n granules whose keys are named without a change of their bytes. -/
def Memory.setKeys (m : Memory) (g n k : Nat) : Memory :=
  if k = 0 then { m with keys := m.keys.filter fun e => !(decide (g ≤ e.1) && decide (e.1 < g + n)) }
  else (List.range n).foldr (fun i m => m.setKey (g + i) k) m

/-- A range of n bytes made ready to be written under a key: the granules at its ends, of which a part may stay, keep what they read as under it (R455). -/
def Memory.underKey (m : Memory) (key lo n : Nat) : Memory :=
  let hi := (lo + n - 1) / 16
  if n = 0 then m
  else ([lo / 16, hi].foldl (fun m g => if m.keyOf g = key then m else (m.write (16 * g) 16 (m.readAs key g).toNat).setKey g key) m).setKeys (lo / 16) (hi + 1 - lo / 16) key

/-- The granules of the entries that a walk reads below a table, in its order; those of a run at its end (R446, R448). -/
def walkReads (s : State) (d : Nat) : List Nat → Nat → List Nat
  | [], _ => []
  | ix :: rest, table =>
    let pa := table * 2 ^ 16 + 8 * ix
    let r := readEntry s d pa
    if r.2 then [pa / 16]
    else if rest.isEmpty then
      pa / 16 :: (if bitAt r.1 0 && bitAt r.1 16 then (List.range 16).map fun k => table * 4096 + ix / 32 * 16 + k else [])
    else if (tableFault s d r.1).isSome then [pa / 16]
    else pa / 16 :: walkReads s d rest (bits r.1 20 36)

/-- The lookups of a walk counted (R235). -/
def State.countWalk (s : State) (d asid va : Nat) : State :=
  let base := (s.domain d).asidTable
  if base = 0 then s
  else
    let pa := base * 2 ^ 16 + 8 * asid
    let ae := readEntry s d pa
    s.lookUp (pa / 16 :: if ae.2 || !bitAt ae.1 0 || !tableOk s d (bits ae.1 20 36) then []
      else walkReads s d [bits va 55 2, bits va 42 13, bits va 29 13, bits va 16 13] (bits ae.1 20 36))

/-! ### Translation caches (R450) -/

/-- The translation caches: elements by tile number, then engines, sequencers and stencil engines. -/
def cacheOfElement (t : Nat) : Nat := t
def cacheOfQueue (q : Nat) : Nat := 5000 + q
def cacheOfSequencer (c : Nat) : Nat := 5300 + c
def cacheOfStencil (c : Nat) : Nat := 5400 + c

/-- The tile, column or sector position of a cache decides its domain. -/
def State.cacheDomain (s : State) (cache : Nat) : Option Nat :=
  if cache < 5000 then s.tileDomain cache
  else if cache < 5256 then s.domainOf (sectorOfColumn ((cache - 5000) / 4))
  else if cache < 5272 then s.domainOf (cache - 5256)
  else if cache < 5400 then s.domainOf (sectorOfColumn (cache - 5300))
  else s.domainOf (sectorOfColumn (cache - 5400))

/-- An address translated through a cache: a hit, or a walk whose result the cache then holds (R450, log 7). -/
def translate (s : State) (cache d asid va : Nat) : Walk × State :=
  if bits va 57 7 ≠ 0 then (.fault 1, s)
  else
    let page := va / 2 ^ 16
    match s.tlb.find? fun e => e.cache = cache ∧ e.domain = d ∧ e.asid = asid ∧ e.page = page with
    | some e => (.leaf e.leaf, s)
    | none =>
      let s1 := s.countWalk d asid va
      match walk s d asid va with
      | .leaf l => (.leaf l, { s1 with tlb := s1.tlb ++ [{ cache := cache, domain := d, asid := asid, page := page, leaf := l }] })
      | r => (r, s1)

/-- The physical address of an address on a leaf's page. -/
def Leaf.pa (l : Leaf) (va : Nat) : Nat := l.frame * 2 ^ 16 + va % 2 ^ 16

/-! ### Invalidations in progress (R451-R453) -/

/-- A page lies in the range of an invalidation (R451). -/
def Invalidation.covers (v : Invalidation) (page : Nat) : Bool :=
  v.pages == 0 || (decide (v.page ≤ page) && decide (page < v.page + v.pages))

/-- An address space is named by an invalidation. -/
def Invalidation.names (v : Invalidation) (asid : Nat) : Bool :=
  match v.asid with
  | none => true
  | some a => a == asid

/-- The translation caches of a domain (R450): elements, engines, sequencers and stencil engines. -/
def State.cachesOf (s : State) (d : Nat) : List Nat := (List.range 5464).filter fun c => s.cacheDomain c == some d

/-- The virtual addresses that an access has still to perform. -/
def Access.owedVas (a : Access) : List Nat := a.pieces.map (·.va) ++ a.backs.map (·.va) ++ a.returns.map (·.va)

/-- An access that was put in flight under a translation that an invalidation drops, and is not performed (R452). -/
def Invalidation.old? (v : Invalidation) (a : Access) : Bool :=
  v.names a.asid && a.owedVas.any fun va => v.covers (va / 2 ^ 16)

/-- An invalidation has drained: every cache of its domain has applied it, and every access with an old translation is performed (R452). -/
def State.drained (s : State) (v : Invalidation) : Bool :=
  (s.cachesOf v.domain).all v.applied.contains && s.accesses.all fun a => !(v.old.contains a.id && v.old? a)

/-- Invalidations of a context that have not drained. -/
def State.undrained (s : State) (t c : Nat) : List Invalidation := s.invals.filter fun v => v.tile == t && v.ctx == c && !s.drained v

end Sys2Proof.Machine
end

