-- ==== Sys2Proof/Machine/Witness.lean ====
section
/-! DEFINITION. Witnesses (R109, R110, R236-R250): fields, scope groups, tags, the lift, the merge, and what a reader finds a witness to be. -/

namespace Sys2Proof.Machine

open Sys2Proof

/-! ### Fields -/

def witLvl (w : W64) : Nat := bits w.toNat 60 4
def witInst (w : W64) : Nat := bits w.toNat 40 16
/-- ERA:SEQ as a 44-bit value (R109). -/
def witSeq (w : W64) : Nat := bits w.toNat 56 4 * 2 ^ 40 + bits w.toNat 0 40

/-- A witness from level, group or writer, and 44-bit value (R109). -/
def mkWitness (lvl inst seq : Nat) : W64 :=
  BitVec.ofNat 64 (bits seq 0 40 + inst % 2 ^ 16 * 2 ^ 40 + bits seq 40 4 * 2 ^ 56 + lvl % 16 * 2 ^ 60)

/-- LVL 15: null whatever its other bits hold (R110). -/
def witNull (w : W64) : Bool := witLvl w == 15

/-- x is later than y as 44-bit values (R245, R247). -/
def later (x y : Nat) : Bool :=
  let d := (x + 2 ^ 44 - y % 2 ^ 44) % 2 ^ 44
  decide (1 ≤ d) && decide (d < 2 ^ 43)

/-! ### Writers and their groups -/

/-- The writer identifiers of R20 that this variant issues (R21, R110). -/
def State.isWriter (s : State) (w : Nat) : Bool :=
  decide (w < s.tileCount) || (decide (4608 ≤ w) && decide (w < 4864)) || (decide (4864 ≤ w) && decide (w < 4928) && s.variant.stencil)
    || (decide (4928 ≤ w) && decide (w < 4952))

/-- The column of a writer that has one, and its sector (R239). -/
def writerColumn (w : Nat) : Option Nat :=
  if w < 4608 then some (columnOf w)
  else if w < 4864 then some ((w - 4608) / 4)
  else if w < 4928 then some (w - 4864)
  else none

def writerSector (w : Nat) : Option Nat :=
  if w < 4608 then some (sectorOf w)
  else if w < 4928 then (writerColumn w).map sectorOfColumn
  else if w < 4944 then some (w - 4928)
  else none

/-- The group of a level to which a writer belongs, if any (R239), by its index of R17: the pod in its span and the span in the system follow from the module's
index, 64 modules to a pod and 64 pods to a span (log 11). -/
def State.groupOf (s : State) (w lvl : Nat) : Option Nat :=
  match lvl with
  | 1 => if w < 4608 then some w else none
  | 2 => writerColumn w
  | 3 => writerSector w
  | 4 => (writerSector w).bind s.domainOf
  | 5 => some 0
  | 6 => some (s.moduleIndex / 64 % 64)
  | 7 => some (s.moduleIndex / 4096)
  | 8 => some 0
  | _ => none

/-- A writer's smallest scope (R239). -/
def smallestScope (w : Nat) : Nat :=
  if w < 4608 then 1 else if w < 4928 then 2 else if w < 4944 then 3 else 5

/-- The key of a scope group. -/
def groupKey (lvl g : Nat) : Nat := lvl * 65536 + g

def State.group (s : State) (lvl g : Nat) : Group := SMap.get s.groups (groupKey lvl g) Group.clean
def State.setGroup (s : State) (lvl g : Nat) (x : Group) : State := { s with groups := SMap.set s.groups (groupKey lvl g) x }

/-- Element n of a vector of nine levels. -/
def at9 {α : Type} (v : Vector α 9) (n : Nat) : α := v[n % 9]'(Nat.mod_lt _ (by decide))
def set9 {α : Type} (v : Vector α 9) (n : Nat) (a : α) : Vector α 9 := v.set (n % 9) a (Nat.mod_lt _ (by decide))

/-- The writers of the variant. -/
def State.writerList (s : State) : List Nat := (List.range 4952).filter s.isWriter

/-- The members of a scope group (R239). -/
def State.members (s : State) (lvl g : Nat) : List Nat := s.writerList.filter fun w => s.groupOf w lvl == some g

/-! ### Frontiers -/

/-- Store numbers of a writer that are taken and not performed: accesses in flight with a granule or a return write still owed. -/
def Access.owes (a : Access) : Bool := a.number != 0 && (!a.pieces.isEmpty || !a.backs.isEmpty || !a.returns.isEmpty)

/-- Numbers of the element's chain groups and rows whose write is not issued yet (R236, R241). -/
def ChainRun.firstUnissued (r : ChainRun) : Nat := r.number + r.next

/-- The chains of an element that still have groups to write: those queued, and those kept in the record of an instance that has given up its region, which issues
them under the same numbers if it is restored onto the tile (R236, R385). -/
def State.openChains (s : State) (t : Nat) : List ChainRun :=
  (((s.tile t).queue ++ s.insts.flatMap fun x => match x.save with
    | some im => if im.evicted && x.phase == .saved then (im.tiles.filter (·.from' == t)).flatMap (·.tile.queue) else []
    | none => []).filter fun r => decide (r.next < r.groups))

/-- The store numbers of a writer that are taken but whose writes are not issued: those of an element's chain groups, and those of a stencil engine's
commands that are not performed (R236, R428). -/
def unissuedNumbers (s : State) (w : Nat) : List Nat :=
  if w < 4608 then (s.openChains w).map fun r => r.firstUnissued
  else s.stencilCmds.filterMap fun c => if w = 4864 + c.column then c.number else none

/-- Least of a list of numbers, none when empty. -/
def least : List Nat → Option Nat
  | [] => none
  | x :: xs => some (xs.foldl min x)

/-- The queue of an engine's writer identifier (R20, R286). -/
def queueOfWriter (w : Nat) : Option Nat :=
  if 4608 ≤ w ∧ w < 4864 then some (w - 4608) else if 4928 ≤ w ∧ w < 4944 then some (w - 4672) else none

/-- The writer identifier of a queue's engine (R286). -/
def writerOfQueue (q : Nat) : Nat := if q < 256 then 4608 + q else 4672 + q

/-- A command queue (R286). -/
def State.cmdQueue (s : State) (q : Nat) : Queue := SMap.get s.queues q Queue.clean

/-- Some command of a queue has issued its last write and is to complete: it ends with DONE and its STATUS has been written where it has one (R67,
R241). -/
def Queue.headTagged (x : Queue) : Bool :=
  match x.commands with
  | c :: _ => (match c.run with
    | some r => r.status == some 0 && (r.stored || (match c.source with | .inline _ => true | .chain _ _ _ => false))
    | none => false)
  | [] => false

/-- PF of a writer: the highest number up to which every store is performed (R248); of an engine, the last command completed (R289). -/
def State.pf (s : State) (w : Nat) : Nat :=
  match queueOfWriter w with
  | some q => (s.cmdQueue q).done
  | none =>
  let open' := (s.accesses.filter fun a => a.writer = w ∧ a.owes).map (·.number) ++ unissuedNumbers s w
  match least open' with
  | some n => n - 1
  | none => (s.writer w).issued

/-- TAGGED of a writer: the highest number up to which none is untagged (R241, R244). -/
def State.tagged (s : State) (w : Nat) : Nat :=
  match queueOfWriter w with
  | some q => (s.cmdQueue q).done + (s.cmdQueue q).headTagged.toNat
  | none =>
  match least (unissuedNumbers s w) with
  | some n => n - 1
  | none => (s.writer w).issued

/-- TAGGED of a writer as a unit knows it: its own, or the latest that the writer has sent (R244). -/
def State.taggedKnown (s : State) (u x : Nat) : Nat := if u = x then s.tagged x else (s.writer x).sent

/-! ### Lifting -/

/-- The lowest level at or above a start whose group contains both writers (R244). -/
def commonLevel (s : State) (a b start : Nat) : Nat :=
  ((List.range 9).find? fun l => decide (start ≤ l) && decide (1 ≤ l) &&
    (match s.groupOf a l, s.groupOf b l with
     | some x, some y => x == y
     | _, _ => false)).getD 8

/-- The latest tag, for a level, of a writer's stores numbered n or less (the exact lift of R244), by its record of views. -/
def exactTag (wr : Writer) (lvl n : Nat) : Nat :=
  let log := at9 wr.log lvl
  let hits := (log.filter fun e => match e.2 with | some m => decide (m ≤ n) | none => false).map (·.1)
  match hits with
  | [] => (log.map (·.1)).foldl min ((log.headD (1, none)).1)
  | x :: xs => xs.foldl max x

/-- What a lift gives: the witness, or that it waits (R244). -/
inductive Lift where
  | done (w : W64)
  | waiting
  deriving DecidableEq, Repr

/-- The number of a writer that a 44-bit value stands for: the latest one issued that agrees with it (R236, R250). -/
def fullNumber (issued n : Nat) : Nat := issued - (issued % 2 ^ 44 + 2 ^ 44 - n) % 2 ^ 44

/-- The group of a level contains the writer of a writer-local witness, or the group of a scope witness (R245). -/
def inGroup (s : State) (w : W64) (lvl g : Nat) : Bool :=
  if witLvl w = 0 then s.groupOf (witInst w) lvl == some g
  else if witLvl w > lvl then false
  else if 5 ≤ lvl then witLvl w != lvl || witInst w == g
  else match witLvl w with
    | 1 => s.groupOf (witInst w) lvl == some g
    | 2 => s.groupOf (4608 + 4 * witInst w) lvl == some g
    | 3 => (if lvl = 3 then some (witInst w) else s.domainOf (witInst w)) == some g
    | _ => witInst w == g

/-- The level to which a scope witness is lifted: the one asked for, raised until the unit's group contains the witness's group (R244). -/
def scopeLevel (s : State) (u : Nat) (w : W64) (lvl : Nat) : Nat :=
  ((List.range 9).find? fun l => decide (lvl ≤ l) && decide (1 ≤ l) &&
    (match s.groupOf u l with
     | some g => inGroup s w l g
     | none => false)).getD 8

/-- View of a unit for a level. -/
def State.view (s : State) (u lvl : Nat) : Nat := at9 (s.writer u).views lvl

/-- The lift of a witness to a level by a unit U (R244, R246): a witness at or above the level, or null, is unchanged. -/
def lift (s : State) (u : Nat) (w : W64) (lvl : Nat) : Lift :=
  if witNull w then .done w
  else if witLvl w = 0 then
    let x := witInst w
    let n := witSeq w
    let l := commonLevel s x u (max lvl (max (smallestScope x) (smallestScope u)))
    let g := (s.groupOf x l).getD 0
    if later n (s.taggedKnown u x) then .waiting
    else if x = u then .done (mkWitness l g (exactTag (s.writer x) l (fullNumber (s.writer x).issued n)))
    else .done (mkWitness l g (s.view u l + 1))
  else if lvl ≤ witLvl w then .done w
  else
    let l := scopeLevel s u w lvl
    .done (mkWitness l ((s.groupOf u l).getD 0) (s.view u l + 1))

/-! ### What a reader finds -/

/-- The standing of a witness for a reader (R247-R250). -/
inductive Standing where
  | satisfied | pending | malformed
  /-- Its group does not contain the reader (R250). -/
  | dropped
  deriving DecidableEq, Repr

/-- A scope witness against CLOSED and V of a member (R247). -/
def scopeStanding (closed view w : Nat) : Standing :=
  let m := 2 ^ 44
  if (closed + m - w) % m < 2 ^ 43 then .satisfied
  else if (w + m - view % m) % m ≤ 2 ∨ (view + m - w) % m < 2 ^ 43 then .pending
  else .malformed

/-- A writer's own witness against PF and ISSUED (R248). -/
def ownStanding (pf issued n : Nat) : Standing :=
  let m := 2 ^ 44
  if (pf + m - n) % m < 2 ^ 43 then .satisfied
  else if (issued + m - n) % m < 2 ^ 43 then .pending
  else .malformed

/-- The lift that a unit has made of a foreign writer-local witness on use (R246, log 57). -/
def State.heldLift (s : State) (u : Nat) (w : W64) : Option W64 := ((s.writer u).lifts.find? fun e => e.1 == w).map (·.2)

/-- A use of a witness by a unit: a foreign writer-local witness is lifted, once its lift does not wait, and the unit keeps the lift (R244, R246, log 57). -/
def State.noteLift (s : State) (u : Nat) (w : W64) : State :=
  if witLvl w != 0 || witInst w == u || !s.isWriter (witInst w) || (s.heldLift u w).isSome then s
  else match lift s u w 1 with
    | .waiting => s
    | .done l =>
      let wr := s.writer u
      s.setWriter u { wr with lifts := (w, l) :: wr.lifts }

/-- What a witness given to an access of a unit is (R246-R250); a foreign writer-local witness is read through the lift that the unit has made on use, and
is pending until then. -/
def State.standing (s : State) (u : Nat) (w : W64) : Standing :=
  let lvl := witLvl w
  if lvl = 15 then .satisfied
  else if lvl = 0 then
    let x := witInst w
    if !s.isWriter x then .malformed
    else if x = u then ownStanding (s.pf u) ((s.writer u).issued % 2 ^ 44) (witSeq w)
    else match s.heldLift u w with
      | none => .pending
      | some l =>
        if scopeStanding (at9 (s.writer u).closed (witLvl l)) (s.view u (witLvl l)) (witSeq l) = .satisfied then .satisfied else .pending
  else if lvl ≤ 8 then
    if s.groupOf u lvl == some (witInst w) then
      scopeStanding (at9 (s.writer u).closed lvl) (s.view u lvl) (witSeq w)
    else .dropped
  else .malformed

/-- The later of two liftings at one level (R245). -/
def laterOf (a b : W64) : W64 := if later (witSeq b) (witSeq a) then b else a

/-- The lowest level whose group of U contains the writers or groups of both witnesses (R245). -/
def mergeLevel (s : State) (u : Nat) (a b : W64) : Nat :=
  ((List.range 9).find? fun l => decide (1 ≤ l) &&
    (match s.groupOf u l with
     | some g => inGroup s a l g && inGroup s b l g
     | none => false)).getD 8

/-- WMRG of two witnesses by a unit (R245). -/
def merge (s : State) (u : Nat) (a b : W64) : Lift :=
  if witNull a then .done b
  else if witNull b then .done a
  else if witLvl a = 0 ∧ witLvl b = 0 ∧ witInst a = witInst b then .done (laterOf a b)
  else if witLvl a ≠ 0 ∧ witLvl a = witLvl b ∧ witInst a = witInst b then .done (laterOf a b)
  else
    let l := mergeLevel s u a b
    match lift s u a l, lift s u b l with
    | .done x, .done y => .done (laterOf x y)
    | _, _ => .waiting

/-- A witness that is malformed whatever the state of epochs: LVL 9-14, or writer-local with no such writer (R110). -/
def State.witMalformed (s : State) (w : W64) : Bool :=
  (decide (9 ≤ witLvl w) && decide (witLvl w ≤ 14)) || (witLvl w == 0 && !s.isWriter (witInst w))

end Sys2Proof.Machine
end

