-- ==== Sys2Proof/Machine/Issue.lean ====
section
/-! DEFINITION. Issuing: store numbers and tags (R236, R241, R244), accesses put in flight, what a firing writes to its destination (R44, R46, R48, R51),
and the beats it sends (R263, R318, R329). -/

namespace Sys2Proof.Machine

open Sys2Proof

/-! ### Numbers and tags -/

/-- A writer's next store number taken (R236). -/
def State.takeNumber (s : State) (w : Nat) : Nat × State :=
  let wr := s.writer w
  (wr.issued + 1, s.setWriter w { wr with issued := wr.issued + 1 })

/-- `count` consecutive store numbers taken; the first is answered (R236). -/
def State.takeNumbers (s : State) (w count : Nat) : Nat × State :=
  let wr := s.writer w
  (wr.issued + 1, s.setWriter w { wr with issued := wr.issued + count })

/-- The tags of a store that a writer issues now: its view of every group it belongs to (R241). -/
def State.tagsNow (s : State) (w : Nat) : List (Nat × Nat) :=
  ((List.range 9).filter fun l => (s.groupOf w l).isSome).map fun l => (l, s.view w l)

/-- The record of views with a number tagged in an epoch (R244). -/
def noteTag (log : List (Nat × Option Nat)) (epoch n : Nat) : List (Nat × Option Nat) :=
  log.map fun e =>
    if e.1 = epoch then (e.1, some (match e.2 with | some m => min m n | none => n)) else e

/-- A writer's record of views with a number tagged at every level (R244). -/
def State.recordTag (s : State) (w n : Nat) : State :=
  let wr := s.writer w
  s.setWriter w { wr with log := Vector.ofFn fun l : Fin 9 => noteTag wr.log[l] wr.views[l] n }

/-- A device or strongly ordered page. -/
def MemType.ordered : MemType → Bool
  | .device => true | .strong => true | _ => false

/-- Granules that an access has still to read or write. -/
def Access.remaining (a : Access) : Bool := !a.pieces.isEmpty || !a.backs.isEmpty || !a.returns.isEmpty

/-- An access has still to touch a page of a kind, with a return write too (R278). -/
def Access.owesOn (a : Access) (kind : MemType → Bool) : Bool :=
  (a.pieces.any fun p => kind p.mt) || (a.backs.any fun k => kind k.mt) || a.returns.any fun p => kind p.mt

/-- An access without pieces, from a context of an element. -/
def Access.blank (s : State) (t c slot : Nat) : Access :=
  { id := s.nextAccess, order := s.nextAccess, writer := t, tile := t, ctx := c, slot := slot, origin := .slot, number := 0, tags := [],
    fence := (s.tile t).fences, asid := (s.tile t).asid, cache := cacheOfElement t, pieces := [], results := [], poisonAt := none,
    backs := [], returns := [], e := 0, a := 0, b := 0, stalls := false, given := nullWitness }

/-- An access put in flight. A store is tagged at this instant (R241). -/
def State.issue (s : State) (a : Access) : State :=
  let tagged := if a.number = 0 then a else { a with tags := s.tagsNow a.writer }
  let s1 := if a.number = 0 then s else s.recordTag a.writer a.number
  { s1 with accesses := s1.accesses ++ [tagged], nextAccess := s1.nextAccess + 1 }

/-! ### Beats sent -/

/-- The four granules of a 64-byte block of the pad, written whole. -/
def blockPieces (pa : Nat) (v : V512) : List Piece :=
  (List.range 4).map fun k =>
    { gran := pa / 16 + k, va := 0, key := 0, mt := .normal,
      op := .store (v.extractLsb' (128 * k) 128) (BitVec.allOnes 128) false false }

/-- A beat written into a circular buffer (R329): 64 bytes at beat WC from the start of slot PP, under a store number of the element. -/
def writeBuffer (s : State) (t c slot k : Nat) (v : V512) : State :=
  match at16 (s.tile t).buffers k with
  | none => s
  | some b =>
    -- beats beyond the slot at PP lie in the following slots of the ring
    let off := b.base + (b.pp % b.slots * b.size + 64 * b.wc) % (b.slots * b.size)
    let (n, s1) := s.takeNumber t
    let a := { Access.blank s1 t c slot with number := n, pieces := blockPieces (padPA t off) v }
    let s2 := s1.issue a
    let tl := s2.tile t
    s2.setTile t { tl with buffers := set16 tl.buffers k (some { b with wc := b.wc + 1 }) }

/-- The beats at the front of an output endpoint bound to a circular buffer are written to it (R329); a place held by a load keeps those
behind it waiting (R263). -/
def drainBuffer (t c slot n k : Nat) : List Place → State → State
  | .full b :: rest, s => drainBuffer t c slot n k rest (writeBuffer s t c slot k b.payload)
  | rest, s =>
    let cx := s.ctx t c
    s.setCtx t c { cx with outs := set8 cx.outs n rest }

/-- The places of an output endpoint replaced; those of a buffer binding drain at once. -/
def State.setOuts (s : State) (t c slot n : Nat) (ps : List Place) : State :=
  match (at8 (s.ctx t c).word.obind n).buf? with
  | some k => drainBuffer t c slot n k ps s
  | none =>
    let cx := s.ctx t c
    s.setCtx t c { cx with outs := set8 cx.outs n ps }

/-- A beat sent on oN (R51): the binding's virtual channel and the endpoint's current tag. -/
def State.sendBeat (s : State) (t c slot n : Nat) (payload : V512) (mask : Mask) : State :=
  let cx := s.ctx t c
  s.setOuts t c slot n (at8 cx.outs n ++
    [.full { payload := payload, mask := mask, tag := at8 cx.tags n, vc := (at8 cx.word.obind n).vc, poison := false }])

/-- A beat sent on oN with a tag fixed earlier (R341). -/
def State.sendTagged (s : State) (t c slot n : Nat) (payload : V512) (mask : Mask) (tag : BitVec 3) : State :=
  let cx := s.ctx t c
  s.setOuts t c slot n (at8 cx.outs n ++
    [.full { payload := payload, mask := mask, tag := tag, vc := (at8 cx.word.obind n).vc, poison := false }])

/-- A place of oN reserved by a load (R263). -/
def State.holdPlace (s : State) (t c slot n id : Nat) : State :=
  let cx := s.ctx t c
  s.setOuts t c slot n (at8 cx.outs n ++ [.held id (at8 cx.tags n)])

/-! ### Destinations -/

/-- A result written to its destination in the lanes of E (R44, R46, R51, R136): a register keeps its other lanes, a token carries zero in
them. -/
def State.writeDest (s : State) (t c slot : Nat) (dst : Opnd) (w : Nat) (e : Mask) (vals : List Nat) : State :=
  match dst with
  | .d k =>
    let cx := s.ctx t c
    s.setCtx t c (cx.setD k.val (mergeLanes w (512 / w) e (at8 cx.d k.val) vals))
  | .o k => s.sendBeat t c slot k.val (tokenLanes w (512 / w) e vals) (widenMask w e)
  | _ => s

/-- A condition written to a predicate destination in the lanes of E (R149, R333). -/
def State.writePred (s : State) (t c : Nat) (dst : Opnd) (e cond : Mask) : State :=
  match dst with
  | .p k =>
    let cx := s.ctx t c
    s.setCtx t c (cx.setP k.val (predWrite e cond (at8 cx.p k.val)))
  | _ => s

/-- The predicate update of a slot (R48) from C in the lanes of E. -/
def State.updatePred (s : State) (t c : Nat) (op : PredOp) (reg : Fin 8) (e cond : Mask) : State :=
  let cx := s.ctx t c
  match op with
  | .none => s
  | op => s.setCtx t c (cx.setP reg.val (PredOp.apply op e cond (at8 cx.p reg.val)))

/-- Flags raised in a context (R121). -/
def State.raise (s : State) (t c : Nat) (fl : FpFlags) : State :=
  let cx := s.ctx t c
  s.setCtx t c { cx with flags := cx.flags ||| fl }

end Sys2Proof.Machine
end

