-- ==== Sys2Proof/Machine/Ready.lean ====
section
/-! DEFINITION. Eligibility (R323): the conditions that every slot meets before it fires, whatever its instruction. The conditions that an
instruction's own description adds are in Machine/Eligible.lean. -/

namespace Sys2Proof.Machine

open Sys2Proof

/-- An element fires slots at all: the device is ready (R32, R36), no thermal halt is in force (R29), the tile is in service (R486) and some
domain owns its sector (R442). -/
def State.elementRuns (s : State) (t : Nat) : Bool :=
  decide (t < s.tileCount) && s.phase == 8 && !s.thermalHalt && !(s.tile t).health.retired && (s.tileDomain t).isSome

/-- A context may fire: valid, runnable, and not held by a pre-emption or restore (R323, R377, R385). -/
def Ctx.live (cx : Ctx) : Bool := cx.word.valid && cx.run == .runnable && !cx.held

/-- The predicate part of a guard (R43). -/
def predGuard (cx : Ctx) (f : Slot) : Bool :=
  let g := guardMask cx f
  if f.quant then g == 0xFFFF else g != 0

/-- Beats held by an input endpoint, or filled slots of its buffer (R47, R318). -/
def beatsHeld (s : State) (t : Nat) (cx : Ctx) (n : Nat) : Nat :=
  match (at8 cx.word.ibind n).buf? with
  | some k => match at16 (s.tile t).buffers k with
    | some b => filledSlots s t b
    | none => 0
  | none => (cx.beats n).length

/-- An SKFW or SKFN of the tile is streaming on the endpoint (R214, R215): no other slot finds a place in it. -/
def streaming (tl : Tile) (c n : Nat) : Bool :=
  (List.range 2).any fun k => match (if k = 0 then tl.skim[0] else tl.skim[1]).emit with
    | some em => em.ctx == c && em.ep == n
    | none => false

/-- Free places of an output endpoint: of four on a link or ring (R318). -/
def linkPlaces (cx : Ctx) (n : Nat) : Nat :=
  match at8 cx.word.obind n with
  | .link _ _ | .ring _ _ => 4 - (at8 cx.outs n).length
  | _ => 0

/-- What a queue condition of kind 2 counts: free places, or the free slots of a buffer (R47, R318). -/
def freeCount (s : State) (t c : Nat) (cx : Ctx) (n : Nat) : Int :=
  match (at8 cx.word.obind n).buf? with
  | some k => match at16 (s.tile t).buffers k with
    | some b => b.freeSlots
    | none => 0
  | none => if streaming (s.tile t) c n then 0 else linkPlaces cx n

/-- An output endpoint has a free place for one more beat (R318, R329). -/
def hasPlace (s : State) (t c : Nat) (cx : Ctx) (n : Nat) : Bool :=
  match (at8 cx.word.obind n).buf? with
  | some k => match at16 (s.tile t).buffers k with
    | some b => !streaming (s.tile t) c n && decide (((b.wc + (at8 cx.outs n).length : Nat) : Int) < b.freeSlots * b.size / 64)
    | none => false
  | none => !streaming (s.tile t) c n && decide (1 ≤ linkPlaces cx n)

/-- A queue condition holds (R47). -/
def qcondHolds (s : State) (t c : Nat) (cx : Ctx) (q : QCond) : Bool :=
  match q with
  | .none => true
  | .beats n k => decide (k.toNat ≤ beatsHeld s t cx n.val)
  | .free n k => decide ((k.toNat : Int) ≤ freeCount s t c cx n.val)
  | .tag n tg => match headBeat s t cx n.val with
    | some b => b.tag == tg
    | none => false

/-- The outstanding firings of a context (R262). -/
def State.outstandingOf (s : State) (t c : Nat) : List Outstanding :=
  s.outstanding.filter fun o => o.tile = t ∧ o.ctx = c

/-- An operand names a data register or predicate register that an outstanding firing will write (R262). -/
def pendingOpnd (os : List Outstanding) (o : Opnd) : Bool :=
  match o with
  | .d n => os.any fun x => x.dst == .d n
  | .p n => os.any fun x => x.predOp != .none && x.predReg == n
  | _ => false

/-- A slot reads or writes a pending register or predicate (R262, R323). -/
def slotPending (os : List Outstanding) (f : Slot) : Bool :=
  pendingOpnd os f.dst || pendingOpnd os f.sa || pendingOpnd os f.sb || pendingOpnd os f.sc
  || (f.predOp != .none && pendingOpnd os (.p f.predReg))
  || (List.range 8).any fun k => f.pmask.getLsbD k && pendingOpnd os (.p ⟨k % 8, Nat.mod_lt _ (by decide)⟩)

/-- A strongly ordered access of the context is not performed (R268), or a chain of it that makes such accesses has not ended (R183). -/
def State.stalled (s : State) (t c : Nat) : Bool :=
  (s.accesses.any fun a => a.writer = t ∧ a.tile = t ∧ a.ctx = c ∧ a.stalls ∧ a.remaining)
  || (s.tile t).queue.any fun r => r.ctx == c && r.stalls

/-- The sides of a MERGE that its predicate selects (R335): A when pC is 1 in some lane of G, B when it is 0 in some lane. -/
def mergeSides (cx : Ctx) (f : Slot) : Bool × Bool :=
  let g := guardMask cx f
  let p := match f.sc with | .p n => at8 cx.p n.val | _ => 0
  ((g &&& p) != 0, (g &&& ~~~p) != 0)

/-- The endpoint of an operand as a mask of ADV. -/
def epBit (o : Opnd) : BitVec 8 :=
  match o with
  | .i n => BitVec.ofNat 8 (2 ^ n.val)
  | _ => 0

/-- The ADV bits that a firing honours: a MERGE ignores those of a side that is not selected (R335). -/
def advMask (i : Instr) (cx : Ctx) (f : Slot) : BitVec 8 :=
  match i with
  | .merge _ =>
    let sides := mergeSides cx f
    f.adv &&& ~~~((if sides.1 then 0 else epBit f.sa) ||| (if sides.2 then 0 else epBit f.sb))
  | _ => f.adv

/-- The endpoints that must hold a head beat: those read as sources and those named in ADV (R50, R323, R335). -/
def neededEndpoints (i : Instr) (row : OpRow) (cx : Ctx) (f : Slot) : List Nat :=
  let adv := advMask i cx f
  let dropped := f.adv &&& ~~~adv
  let unselected : BitVec 8 := match i with
    | .merge _ =>
      let sides := mergeSides cx f
      (if sides.1 then 0 else epBit f.sa) ||| (if sides.2 then 0 else epBit f.sb)
    | _ => 0
  (List.range 8).filter fun k =>
    adv.getLsbD k || ((readEndpoints row f).contains k && !(unselected ||| dropped).getLsbD k)

/-- The output endpoints that a slot sends on (R323): DST, and SC of STEER; ADVP and TAGSET only name one. -/
def sentEndpoints (row : OpRow) (f : Slot) : List Nat :=
  (match row.d, f.dst with
   | .dest, .o n => [n.val]
   | _, _ => [])
  ++ (match row.c, f.sc with
      | .outNul, .o n => [n.val]
      | _, _ => [])

/-- A granule of the pad that the firing reads waits for an atomic of the element itself (R228): the head slots of buffers read. -/
def headAtomic (s : State) (t : Nat) (cx : Ctx) (n : Nat) : Bool :=
  match (at8 cx.word.ibind n).buf? with
  | some k => match at16 (s.tile t).buffers k with
    | some b => (List.range 4).any fun g => atomicPending s t (padPA t (b.slotOff b.cp) / 16 + g)
    | none => false
  | none => false

/-- The conditions of R323 that do not depend on the instruction's own description. -/
def readyCommon (i : Instr) (row : OpRow) (f : Slot) (s : State) (t c slot : Nat) : Bool :=
  let cx := s.ctx t c
  s.elementRuns t && cx.live && decide (slot < cx.word.slots)
  && predGuard cx f
  && qcondHolds s t c cx f.q0 && qcondHolds s t c cx f.q1
  && (neededEndpoints i row cx f).all (fun n => (headBeat s t cx n).isSome && !headAtomic s t cx n)
  && (sentEndpoints row f).all (fun n => hasPlace s t c cx n)
  && (match f.dst with | .co n => decide ((at4 cx.couts n.val).length < 4) | _ => true)
  && !slotPending (s.outstandingOf t c) f
  && !s.stalled t c

end Sys2Proof.Machine
end

