-- ==== Sys2Proof/Machine/MemLanes.lean ====
section
/-! DEFINITION. The lanes of an access with their addresses (R101, R257, R271, R273), and their translation (R259, R450). -/

namespace Sys2Proof.Machine

open Sys2Proof

/-! ### Lanes and addresses -/

/-- A lane of an access: its number, the virtual address of its byte or bytes, and for .cb4 the bit offset of its nibble (R101, R257). -/
structure LaneReq where
  lane : Nat
  va : Nat
  nib : Nat
  deriving DecidableEq, Repr

/-- Size in bytes of the aligned unit that holds an element (R258). -/
def unitBytes (ty : Ty) : Nat := if ty = .cb4 then 1 else ty.width / 8

/-- The place of element k of an array at a base (R101). -/
def elementAt (ty : Ty) (base : Nat) (k : Int) (lane : Nat) : LaneReq :=
  if ty = .cb4 then { lane := lane, va := wrap 64 (base + k / 2), nib := 4 * (k % 2).toNat }
  else { lane := lane, va := wrap 64 (base + k * unitBytes ty), nib := 0 }

/-- The lanes of E of a form. -/
def Firing.lanes (fr : Firing) : List Nat := (List.range fr.n).filter fr.on

/-- The lanes of a contiguous access (R257). -/
def Firing.contiguous (fr : Firing) (base : Nat) : List LaneReq := fr.lanes.map fun l => elementAt fr.f.ty base (l : Nat) l

/-- The lanes of a gather or scatter by the index lanes of B (R271, R273). -/
def Firing.indexed (fr : Firing) (base : Nat) : List LaneReq :=
  fr.lanes.map fun l => elementAt fr.f.ty base (sgn fr.w (lane fr.w fr.b.val l)) l

/-! ### Translation -/

/-- A lane with what its translation came to. -/
structure Planned where
  req : LaneReq
  walk : Walk
  deriving DecidableEq, Repr

/-- Translation of every lane of an access through the element's cache (R259, R450). -/
def planLanes (s : State) (t : Nat) : List LaneReq → List Planned × State
  | [] => ([], s)
  | r :: rest =>
    let x := translate s (cacheOfElement t) ((s.tileDomain t).getD 0) (s.tile t).asid r.va
    let y := planLanes x.2 t rest
    ({ req := r, walk := x.1 } :: y.1, y.2)

/-- The leaf that a lane was translated by. -/
def Planned.leaf? (p : Planned) : Option Leaf :=
  match p.walk with
  | .leaf l => some l
  | _ => none

/-- Some lane of an access lies on a strongly ordered page. -/
def Planned.strong (p : Planned) : Bool := p.leaf?.any fun l => l.mt == .strong

end Sys2Proof.Machine
end

