-- ==== Sys2Proof/Machine/FpTrans.lean ====
section
/-! DEFINITION. FEX2, FLG2, FTNH, FSIG and FGUM (R129-R131, R168, R169, R178). An inexact result is computed in fixed point with 384
fractional bits and rounded once (assumption log 9: no operand's exact result lies nearer to a rounding boundary than
that). -/

namespace Sys2Proof.Machine

open Sys2Proof

/-- Fractional bits of the fixed-point work. -/
def fxBits : Nat := 384

/-- ln 2 in fixed point. -/
def fxLn2 : Nat :=
  0xb17217f7d1cf79abc9e3b39803f2f6af40f343267298b62d8a0d175b8baafa2be7b876206debac98559552fb4afa1b10

/-- The terms t^k / k! of the exponential series from k on, added up. -/
def expTerms (t : Nat) : Nat → Nat → Nat → Nat
  | 0, _, _ => 0
  | fuel + 1, k, term => term + expTerms t fuel (k + 1) (term * t / 2 ^ fxBits / (k + 1))

/-- e^t for 0 ≤ t < 1 in fixed point. -/
def fxExp (t : Nat) : Nat := expTerms t 90 0 (2 ^ fxBits)

/-- e^t for any t ≥ 0 in fixed point, as (mantissa, binary exponent): t = n·ln 2 + r. -/
def fxExpBig (t : Nat) : Nat × Int :=
  (fxExp (t % fxLn2), ((t / fxLn2 : Nat) : Int) - fxBits)

/-- The fractional bits of log2 y for 1 ≤ y < 2 in fixed point, by repeated squaring. -/
def log2Frac : Nat → Nat → Nat → Nat
  | 0, _, acc => acc
  | fuel + 1, y, acc =>
    let y2 := y * y / 2 ^ fxBits
    if y2 ≥ 2 ^ (fxBits + 1) then log2Frac fuel (y2 / 2) (2 * acc + 1) else log2Frac fuel y2 (2 * acc)

/-- m · 2^e as a non-negative fixed-point number, cut off below. -/
def fxOf (m : Nat) (e : Int) : Nat :=
  if 0 ≤ e + fxBits then m * 2 ^ (e + fxBits).toNat else m / 2 ^ (-(e + fxBits)).toNat

/-- A positive inexact result m · 2^e that lies strictly above its mantissa's value: rounded once with the last bit set. -/
def Fmt.roundUpTail (f : Fmt) (neg : Bool) (m : Nat) (e : Int) : FRes := f.round neg (2 * m + 1) (e - 1)

/-- FEX2 (R129-R131, R168). -/
def Fmt.exp2 (f : Fmt) (a : Nat) : FRes :=
  match f.decode a with
  | .nan s => ⟨f.nan, flagIf s flagIV⟩
  | .inf neg => ⟨if neg then f.sign false else f.inf false, 0⟩
  | .fin neg m e =>
    let whole := roundAt .rdn neg m e 0
    let n : Int := if neg then -(whole.1 : Int) else (whole.1 : Int)
    if !whole.2 then f.round false 1 (max (-1000) (min 1000 n))
    else if n < -1000 then f.round false 1 (-1000)
    else if n > 1000 then f.round false 1 1000
    else
      -- the fraction a - n, in (0, 1)
      let fr : Nat := ((if neg then -(fxOf m e : Int) else (fxOf m e : Int)) - n * 2 ^ fxBits).toNat
      f.roundUpTail false (fxExp (fr * fxLn2 / 2 ^ fxBits)) (n - fxBits)

/-- FLG2 (R129-R131, R168). -/
def Fmt.log2 (f : Fmt) (a : Nat) : FRes :=
  match f.decode a with
  | .nan s => ⟨f.nan, flagIf s flagIV⟩
  | .inf neg => if neg then f.invalid else ⟨f.inf false, 0⟩
  | .fin neg m e =>
    if m = 0 then ⟨f.inf true, flagDZ⟩
    else if neg then f.invalid
    else
      let k : Int := e + (m.log2 : Int)
      if m = 2 ^ m.log2 then
        if k = 0 then ⟨0, 0⟩ else f.round (decide (k < 0)) k.natAbs 0
      else
        let fr := log2Frac 180 (m * 2 ^ (fxBits - m.log2)) 0
        let v : Int := k * 2 ^ 180 + (fr : Int)
        -- the exact value lies strictly above v
        f.round (decide (v < 0)) (2 * v + 1).natAbs (-181)

/-- FTNH (R168, R169). Below 2^-30 the result lies within a 2^-60th part below |a|. -/
def Fmt.tanh (f : Fmt) (a : Nat) : FRes :=
  match f.decode a with
  | .nan s => ⟨f.nan, flagIf s flagIV⟩
  | .inf neg => f.round neg 1 0
  | .fin neg m e =>
    if m = 0 then ⟨f.sign neg, 0⟩
    else if e + (m.log2 : Int) < -30 then f.round neg (m * 2 ^ 40 - 1) (e - 40)
    else if e + (m.log2 : Int) > 7 then f.round neg (2 ^ 100 - 1) (-100)
    else
      let x := fxExpBig (2 * fxOf m e)
      let num := fxOf x.1 x.2
      let one := 2 ^ fxBits
      f.roundUpTail neg ((num - one) * one / (num + one)) (-(fxBits : Int))

/-- FSIG (R168, R169). -/
def Fmt.sigmoid (f : Fmt) (a : Nat) : FRes :=
  match f.decode a with
  | .nan s => ⟨f.nan, flagIf s flagIV⟩
  | .inf neg => if neg then ⟨0, 0⟩ else f.round false 1 0
  | .fin neg m e =>
    let one := 2 ^ fxBits
    if m = 0 then f.round false 1 (-1)
    else if e + (m.log2 : Int) > 7 then
      if neg then f.round false 1 (-1000) else f.round false (2 ^ 100 - 1) (-100)
    else if e + (m.log2 : Int) < -300 then f.round false (if neg then 2 ^ 300 - 1 else 2 ^ 300 + 1) (-301)
    else
      let x := fxExpBig (fxOf m e)
      let ex := fxOf x.1 x.2
      -- e^|a| / (1 + e^|a|), or 1 / (1 + e^|a|) for a negative operand
      f.roundUpTail false ((if neg then one else ex) * (one * 2 ^ 200) / (one + ex)) (-(fxBits + 200 : Int))

/-- FGUM (R178). -/
def fgum (a : Nat) : FRes :=
  let t1 := Fmt.f32.log2 a
  let n1 := if (Fmt.f32.decode t1.bits).isNan then t1.bits else t1.bits ^^^ 0x80000000
  let t2 := Fmt.f32.log2 n1
  ⟨if (Fmt.f32.decode t2.bits).isNan then Fmt.f32.nan else t2.bits ^^^ 0x80000000, t1.flags ||| t2.flags⟩

end Sys2Proof.Machine
end

