-- ==== Sys2Proof/Machine/SkimMath.lean ====
section
/-! DEFINITION. The arithmetic and the formats of the skim unit: query tokens and their check (R390-R393), which positions a row sees (R391, R206), one
pass over a page (R207), the merge of a partial state (R216) and the finished values (R215). -/

namespace Sys2Proof.Machine

open Sys2Proof

/-! ### Beats and the check -/

/-- The bytes of a beat, the first lowest (R314). -/
def beatBytes (v : V512) : List Nat := (List.range 64).map fun k => bits v.toNat (8 * k) 8

/-- A beat with the field of n bits at an offset replaced. -/
def setField (v : V512) (off n x : Nat) : V512 :=
  BitVec.ofNat 512 (v.toNat - bits v.toNat off n * 2 ^ off + x % 2 ^ n * 2 ^ off)

/-- n bytes of a beat from byte k as a number. -/
def beatField (v : V512) (k n : Nat) : Nat := bits v.toNat (8 * k) (8 * n)

/-- One bit of the bitwise CRC-32C, least significant bit first (R392). -/
def crcBit (c : Nat) : Nat := if c % 2 = 1 then (c / 2) ^^^ 0x82F63B78 else c / 2

/-- One byte of CRC-32C. -/
def crcByte (c b : Nat) : Nat := (List.range 8).foldl (fun c _ => crcBit c) (c ^^^ b)

/-- CRC-32C of a list of bytes (R392). -/
def crc32c (bs : List Nat) : Nat := (bs.foldl crcByte 0xFFFFFFFF) ^^^ 0xFFFFFFFF

/-- The check of a token: the CRC-32C of its beats with the CHECK bytes of the header taken as zero (R392). -/
def tokenCheck (beats : List V512) : Nat :=
  match beats with
  | [] => crc32c []
  | h :: rest => crc32c ((setField h 416 32 0 :: rest).flatMap beatBytes)

/-- A token whose header carries the check of the whole (R392). -/
def sealToken (beats : List V512) : List V512 :=
  match beats with
  | [] => []
  | h :: rest => setField h 416 32 (tokenCheck (h :: rest)) :: rest

/-- The check of a token that arrived holds. -/
def checkHolds (beats : List V512) : Bool :=
  match beats with
  | [] => false
  | h :: _ => beatField h 52 4 == tokenCheck beats

/-! ### The header (R390) -/

def hdrRows (h : V512) : Nat := beatField h 2 1
def hdrDim (h : V512) : Nat := beatField h 4 2
def hdrPos0 (h : V512) : Nat := beatField h 16 4
def hdrCpos (h : V512) : Nat := beatField h 20 4
def hdrScale (h : V512) : Nat := beatField h 24 4
def hdrParent (h : V512) (i : Nat) : Nat := bits h.toNat (224 + 4 * i) 4
def hdrSizeN (h : V512) (l : Nat) : Nat := beatField h (36 + l) 1
def hdrHops (h : V512) (l : Nat) : Nat := beatField h (42 + l) 1
def hdrWitness (h : V512) : W64 := BitVec.ofNat 64 (beatField h 56 8)

/-- ROWS and HEAD_DIM that SKQ accepts (R212). -/
def headerOk (h : V512) : Bool :=
  decide (1 ≤ hdrRows h) && decide (hdrRows h ≤ 16) && (hdrDim h == 64 || hdrDim h == 128 || hdrDim h == 256)

/-- Beats of a query token (R392). -/
def queryBeats (rows dim : Nat) : Nat := 3 + rows * dim / 32 + rows * dim / 16

/-- Beats of a partial token (R215). -/
def partialBeats (rows dim : Nat) : Nat := 4 + rows * dim / 16

/-- The ancestor mask ANC_i (R391); a parent above i counts as i. -/
def ancestors (h : V512) : Nat → Nat → Nat
  | 0, i => 2 ^ i
  | fuel + 1, i => 2 ^ i ||| (if hdrParent h i < i then ancestors h fuel (hdrParent h i) else 0)

/-- The hops of a header sent on (R393). -/
def hopHeader (h : V512) : V512 :=
  let next := beatField h 1 1
  if next = 7 then h
  else
    let h1 := if next < 6 then setField h (8 * (42 + next)) 8 (hdrHops h next + 255) else h
    let h2 := (List.range (min next 6)).foldl (fun acc k => setField acc (8 * (42 + k)) 8 (hdrSizeN h k + 255)) h1
    setField h2 8 8 (((List.range 6).find? fun k => decide (0 < hdrHops h2 k)).getD 7)

/-! ### Attention state -/

/-- Values as 32-bit words. -/
def words32 (xs : List Nat) : List (BitVec 32) := xs.map (BitVec.ofNat 32)

/-- The beats of 32-bit words, padded with zero (R392). -/
def beatsOf (xs : List Nat) (count : Nat) : List V512 :=
  (List.range count).map fun k => packLanes 32 ((xs.drop (16 * k)).take 16)

/-- The words of beats. -/
def wordsOf (bs : List V512) : List Nat := bs.flatMap (lanesOf 32 16)

/-- The state of a fresh shard (R212). -/
def Attn.fresh (rows dim : Nat) : Attn :=
  { m := List.replicate rows 0xFF800000, l := List.replicate rows 0, o := List.replicate (rows * dim) 0 }

/-- Row i of an attention state. -/
structure AttnRow where
  m : Nat
  l : Nat
  o : List Nat
  deriving DecidableEq, Repr

def Attn.row (a : Attn) (dim i : Nat) : AttnRow :=
  { m := (a.m.getD i 0).toNat, l := (a.l.getD i 0).toNat, o := ((a.o.drop (dim * i)).take dim).map BitVec.toNat }

/-- The state of rows. -/
def Attn.ofRows (rs : List AttnRow) : Attn :=
  { m := words32 (rs.map (·.m)), l := words32 (rs.map (·.l)), o := words32 (rs.flatMap (·.o)) }

/-- The state that beats of M, L and O carry (R392). -/
def Attn.ofBeats (rows dim : Nat) (bs : List V512) : Attn :=
  { m := words32 ((wordsOf (bs.take 1)).take rows), l := words32 ((wordsOf ((bs.drop 1).take 1)).take rows),
    o := words32 ((wordsOf (bs.drop 2)).take (rows * dim)) }

/-- The beats of M, L and O of a state (R392). -/
def Attn.beats (a : Attn) (rows dim : Nat) : List V512 :=
  beatsOf (a.m.map BitVec.toNat) 1 ++ beatsOf (a.l.map BitVec.toNat) 1
    ++ beatsOf (a.o.map BitVec.toNat) (rows * dim / 16)

/-! ### Arithmetic -/

/-- A result whose flags add to those raised before it. -/
def FRes.after (r : FRes) (fl : FpFlags) : FRes := { r with flags := r.flags ||| fl }

/-- −∞ in f32. -/
def negInf : Nat := 0xFF800000

/-- round_rne_f32 of a product, a sum and a difference, and FEX2.f32, with the flags of the operands kept. -/
def mulR (a b : FRes) : FRes := (Fmt.f32.mul a.bits b.bits).after (a.flags ||| b.flags)
def addR (a b : FRes) : FRes := (Fmt.f32.add a.bits b.bits).after (a.flags ||| b.flags)
def subR (a b : FRes) : FRes := (Fmt.f32.sub a.bits b.bits).after (a.flags ||| b.flags)
def ex2R (a : FRes) : FRes := (Fmt.f32.exp2 a.bits).after a.flags
def maxR (a b : FRes) : FRes := (Fmt.f32.minmax true a.bits b.bits).after (a.flags ||| b.flags)

/-- A value without flags. -/
def FRes.plain (x : Nat) : FRes := ⟨x, 0⟩

/-- fused over chunks of 32 terms, ascending (R132, R207). -/
def fusedChunks (start : FRes) (terms : List (FVal × FpFlags)) : FRes :=
  (List.range ((terms.length + 31) / 32)).foldl
    (fun acc c => (Fmt.f32.fusedSum (valTerm (Fmt.f32.decode acc.bits) :: (terms.drop (32 * c)).take 32)).after acc.flags) start

/-- What a pass reads of its pages: the values of K and V, the two scales, BASE and COUNT (R205, R213). -/
structure PassData where
  k : Nat → Nat → FVal
  v : Nat → Nat → FVal
  kScale : Nat
  vScale : Nat
  base : Nat
  count : Nat

/-- Position j is unmasked for row i (R206). -/
def unmasked (h : V512) (base count i j : Nat) : Bool :=
  let p := base + j
  let cpos := hdrCpos h
  decide (j < count) && decide (p < 2 ^ 32) && decide (p ≤ hdrPos0 h + i)
    && (decide (p ≤ cpos) || (decide (p - cpos - 1 < 16) && bitAt (ancestors h 16 i) (p - cpos - 1)))

/-- The score of an unmasked position (R207). -/
def passScore (pd : PassData) (scale dim : Nat) (q : List Nat) (j : Nat) : FRes :=
  let terms := (List.range dim).map fun d => mulTerm (Fmt.bf16.decode (q.getD d 0)) (pd.k j d)
  mulR (mulR (fusedChunks (.plain 0) terms) (.plain pd.kScale)) (.plain scale)

/-- A pass over one row (R207): the row's new state with the flags raised. -/
def passRow (pd : PassData) (h : V512) (dim i : Nat) (q : List Nat) (r : AttnRow) : AttnRow × FpFlags :=
  let scores := (List.range 256).map fun j =>
    if unmasked h pd.base pd.count i j then passScore pd (hdrScale h) dim q j else .plain negInf
  let mnew := scores.foldl maxR (.plain r.m)
  if mnew.bits = negInf then (r, mnew.flags)
  else
    let top : FRes := .plain mnew.bits
    let alpha := ex2R (subR (.plain r.m) top)
    let p := scores.map fun s =>
      let x := ex2R (subR (.plain s.bits) top)
      (cvtFF .f32 .bf16 .rne false x.bits).after x.flags
    let pv := p.map fun x => Fmt.bf16.decode x.bits
    let al : FRes := .plain alpha.bits
    let l := fusedChunks (mulR (.plain r.l) al) (pv.map valTerm)
    let o := (List.range dim).map fun d =>
      let t := fusedChunks (.plain 0) ((List.range 256).map fun j => mulTerm (pv.getD j (.fin false 0 0)) (pd.v j d))
      addR (mulR (.plain (r.o.getD d 0)) al) (mulR t (.plain pd.vScale))
    let fl := (o ++ p).foldl (fun acc x => acc ||| x.flags) (mnew.flags ||| alpha.flags ||| l.flags)
    ({ m := mnew.bits, l := l.bits, o := o.map (·.bits) }, fl)

/-- The merge of one row of a partial state (R216). -/
def mergeRow (r p : AttnRow) : AttnRow × FpFlags :=
  let mnew := maxR (.plain r.m) (.plain p.m)
  if mnew.bits = negInf then (r, mnew.flags)
  else
    let top : FRes := .plain mnew.bits
    let a1 := ex2R (subR (.plain r.m) top)
    let a2 := ex2R (subR (.plain p.m) top)
    let f1 : FRes := .plain a1.bits
    let f2 : FRes := .plain a2.bits
    let l := addR (mulR (.plain r.l) f1) (mulR (.plain p.l) f2)
    let o := (List.range r.o.length).map fun d =>
      addR (mulR (.plain (r.o.getD d 0)) f1) (mulR (.plain (p.o.getD d 0)) f2)
    let fl := o.foldl (fun acc x => acc ||| x.flags) (mnew.flags ||| a1.flags ||| a2.flags ||| l.flags)
    ({ m := mnew.bits, l := l.bits, o := o.map (·.bits) }, fl)

/-- The finished values of a row in a format (R215). -/
def finishRow (ty : Ty) (r : AttnRow) : List FRes :=
  r.o.map fun x => if r.m = negInf then .plain 0 else (Fmt.ofTy ty).divInto .f32 x r.l

/-- Q and the carried state of a token's beats (R392). -/
def drainedState (hdr : V512) (beats : List V512) : List (BitVec 16) × Attn :=
  let rows := hdrRows hdr
  let dim := hdrDim hdr
  let qb := rows * dim / 32
  let body := beats.drop 1
  (((body.take qb).flatMap (lanesOf 16 32)).map (BitVec.ofNat 16), Attn.ofBeats rows dim (body.drop qb))

/-- What a slot holds of its token: Q and the carried state, of the whole token once it has arrived, of the beats drained so far, with zeros for the rest,
before (R212, R383). -/
def arrived (q : SkimSlot) : List (BitVec 16) × Attn :=
  if q.due = 0 then (q.q, q.carried) else drainedState q.hdr (q.drained ++ List.replicate q.due 0)

end Sys2Proof.Machine
end

