-- ==== Sys2Proof/Machine/Sources.lean ====
section
/-! DEFINITION. The sources of a firing (R44, R49, R335): the execution lanes and the operands of a slot as it would read them in this cycle. -/

namespace Sys2Proof.Machine

open Sys2Proof

/-- A skim instruction: it takes beats whole and raw, and ignores their lane masks (R211). -/
def isSkim : Instr → Bool
  | .skq _ => true | .skim _ => true | .skfw _ => true | .skfn _ => true | .skmg _ => true | _ => false

/-- The lane type that governs an imm operand (R41): the source type for CVT. -/
def immType (i : Instr) (f : Slot) : Ty :=
  match i with
  | .cvt src _ => src
  | _ => f.ty

/-- The execution lanes of a firing (R44, R335). -/
def lanesE (i : Instr) (row : OpRow) (f : Slot) (s : State) (t : Nat) (cx : Ctx) : Mask :=
  let g := guardMask cx f
  match i with
  | .merge _ =>
    let p := match f.sc with | .p n => at8 cx.p n.val | _ => 0
    let m (o : Opnd) : Mask := match o with
      | .i n => ((headBeat s t cx n.val).map (·.mask)).getD 0
      | _ => 0xFFFF
    g &&& ((p &&& m f.sa) ||| (~~~p &&& m f.sb))
  | i => if isSkim i then g else g &&& headMask s t cx (readEndpoints row f)

/-- The fault of a source token as a halt (R127, R139). -/
def SrcFault.info : SrcFault → FaultInfo
  | .decode ch entry => { cls := 2, cause := 1, detail := BitVec.ofNat 128 (entry + ch * 2 ^ 32) }
  | .poison => { cls := 6, cause := 2 }

/-- The operands of a MERGE side that is not selected are not read (R335). -/
def sourceFor (i : Instr) (cx : Ctx) (f : Slot) (o : Opnd) (isA : Bool) : Opnd :=
  match i with
  | .merge _ => if (if isA then (mergeSides cx f).1 else (mergeSides cx f).2) then o else .zr
  | _ => o

/-- The tag that `htag` reads: of the head at the lowest input endpoint read (R42). -/
def headTag (row : OpRow) (f : Slot) (s : State) (t : Nat) (cx : Ctx) : BitVec 3 :=
  match (readEndpoints row f).head? with
  | some n => ((headBeat s t cx n).map (·.tag)).getD 0
  | none => 0

/-- The operands of a firing, all read before any result is written (R49), or the fault of the first source that cannot be read. -/
def readOperands (i : Instr) (row : OpRow) (f : Slot) (s : State) (t c slot : Nat) : Except SrcFault Firing :=
  let cx := s.ctx t c
  let w := formWidth i f
  let tag := headTag row f s t cx
  let src (p : Pos) (o : Opnd) : Except SrcFault Decoded :=
    if p.reads then sourceOperand s t cx (immType i f) w f.pk (isSkim i) f.imm tag o else .ok (Decoded.raw 0)
  match src row.a (sourceFor i cx f f.sa true) with
  | .error e => .error e
  | .ok a => match src row.b (sourceFor i cx f f.sb false) with
    | .error e => .error e
    | .ok b => match src row.c f.sc with
      | .error e => .error e
      | .ok cc =>
        .ok { t := t, c := c, slot := slot, f := f, w := w, e := lanesE i row f s t cx, a := a, b := b, cc := cc }

/-- The operands that an instruction of a slot would read in this cycle; none for an event. -/
def State.peekOperands (s : State) (i : Instr) (t c slot : Nat) : Option (Except SrcFault Firing) :=
  match toCode i with
  | none => none
  | some (opc, opSub, f) => (opRow opc opSub).map fun row => readOperands i row f s t c slot

/-- A condition on the operands of a firing; a source that cannot be read holds nothing back, since the firing itself faults (R127, R139). -/
def operandsMeet (s : State) (i : Instr) (t c slot : Nat) (p : Firing → Bool) : Bool :=
  match s.peekOperands i t c slot with
  | some (.ok fr) => p fr
  | _ => true

/-- The query slot that B of an SKMG names, whatever its other operands hold: none where B itself cannot be read,
which is a fault of the firing (R139, R216). -/
def mergeSlot (f : Slot) (s : State) (t c : Nat) : Option Nat :=
  let i := Instr.skmg f
  let cx := s.ctx t c
  (opRow 49 4).bind fun row =>
    match sourceOperand s t cx (immType i f) (formWidth i f) f.pk (isSkim i) f.imm (headTag row f s t cx) f.sb with
    | .ok d => some (lane 32 d.val 0 % 2)
    | .error _ => none

end Sys2Proof.Machine
end

