-- ==== Sys2Proof/Machine/Eligible.lean ====
section
/-! DEFINITION. The conditions that an instruction's own description adds to eligibility (R323). -/

namespace Sys2Proof.Machine

open Sys2Proof

/-- The circular buffer that an input or output endpoint is bound to (R327). -/
def boundBuffer (s : State) (t : Nat) (b : Bind) : Option Buffer :=
  match b.buf? with
  | some k => at16 (s.tile t).buffers k
  | none => none

/-- ADVC is eligible only when FILLED ≥ N (R337). -/
def readyAdvc (f : Slot) (s : State) (t c : Nat) : Bool :=
  match f.sa with
  | .i n => match boundBuffer s t (at8 (s.ctx t c).word.ibind n.val) with
    | some b => decide (bits f.imm.toNat 0 11 ≤ filledSlots s t b)
    | none => false
  | _ => false

/-- ADVP is eligible only when FREE ≥ N (R337). -/
def readyAdvp (f : Slot) (s : State) (t c : Nat) : Bool :=
  match f.dst with
  | .o n => match boundBuffer s t (at8 (s.ctx t c).word.obind n.val) with
    | some b => decide ((bits f.imm.toNat 0 11 : Int) ≤ b.freeSlots)
    | none => false
  | _ => false

/-- QPEEK is eligible when the beat it names is there (R339). -/
def readyQpeek (f : Slot) (s : State) (t c : Nat) : Bool :=
  match f.sa with
  | .i n =>
    let cx := s.ctx t c
    match boundBuffer s t (at8 cx.word.ibind n.val) with
    | some b => decide (f.imm.toNat % 2 ^ 16 < filledSlots s t b * b.size / 64)
    | none => decide (f.imm.toNat % 64 < (cx.beats n.val).length)
  | _ => false

/-- DROP needs a head beat or one filled slot (R340). -/
def readyDrop (f : Slot) (s : State) (t c : Nat) : Bool :=
  match f.sa with
  | .i n => decide (1 ≤ beatsHeld s t (s.ctx t c) n.val)
  | _ => false

/-- CRCV needs a head condition token (R336). -/
def readyCrcv (f : Slot) (s : State) (t c : Nat) : Bool :=
  match f.sa with
  | .ci n => !(at4 (s.ctx t c).cins n.val).isEmpty
  | _ => false

/-- The state of the counter chain that IMM names (R342). -/
def chainState (f : Slot) (s : State) (t : Nat) : CounterState := (at4 (s.tile t).counters (f.imm.toNat % 4)).state

/-! ### Memory and witnesses -/

/-- A context has at most eight outstanding loads (R262). -/
def loadFree (s : State) (t c : Nat) : Bool := decide ((s.outstandingOf t c).length < 8)

/-- Where an instruction that uses a witness reads it (R249, R281, R451). -/
def givenWitness : Instr → Option (Firing → Nat)
  | .ldw _ => some fun fr => fr.b64 0
  | .ldx _ => some fun fr => fr.a64 1
  | .stx _ => some fun fr => fr.a64 1
  | .wwt _ => some fun fr => fr.a64 0
  | .wrdy _ => some fun fr => fr.a64 0
  | .tlbir _ => some fun fr => fr.a64 2
  | _ => none

/-- The witness that an access is given is not pending (R249). -/
def givenReady (s : State) (i : Instr) (t c slot : Nat) : Bool :=
  match givenWitness i with
  | none => true
  | some wit => operandsMeet s i t c slot fun fr => s.standing t (BitVec.ofNat 64 (wit fr)) != .pending

/-- The lift that WLFT makes is not waiting (R249). -/
def liftReady (s : State) (i : Instr) (t c slot : Nat) : Bool :=
  operandsMeet s i t c slot fun fr =>
    let w : W64 := BitVec.ofNat 64 (fr.a64 0)
    s.standing t w == .malformed || lift s t w (bits (fr.a64 1) 0 4) != .waiting

/-- The lift that ETRG makes to the domain scope is not waiting (R249, R371). -/
def triggerReady (s : State) (i : Instr) (t c slot : Nat) : Bool :=
  operandsMeet s i t c slot fun fr =>
    let w : W64 := BitVec.ofNat 64 (fr.a64 0)
    s.standing t w == .malformed || lift s t w 4 != .waiting

/-- The tiles of an instance as they stand, or as its save image holds them when it has given up its region. -/
def State.tilesOf (s : State) (x : Inst) : List Tile :=
  match x.save with
  | some im => if im.evicted && x.phase == .saved then im.tiles.map (·.tile) else x.tiles.map s.tile
  | none => x.tiles.map s.tile

/-- An instance to which a launch with ATTACH is delivered (R354): one that was launched with ATTACH and has not begun to retire, be it halted or saved. -/
def State.attachTo (s : State) (d : Nat) (id : BitVec 128) : Option Inst :=
  s.insts.find? fun x => x.domain == d && x.config == id && x.entry.attach && x.phase != .retired
    && (s.tilesOf x).all fun tl => tl.ctxs.toList.all fun cx => cx.run != .retired

/-- A host launch that is to be delivered to a resident instance: it takes no entry of the pool, even while it waits for its predecessor (R354, R355, R360). -/
def State.attaches (s : State) (e : PoolEntry) : Bool := e.request.isNone && e.attach && (s.attachTo e.domain e.config).isSome

/-- Free entries of a domain's pool of 4,096 (R360). -/
def State.freeEntries (s : State) (d : Nat) : Nat := 4096 - (s.pool.filter fun e => e.domain == d && !s.attaches e).length

/-- No lift that WMRG makes is waiting (R249). -/
def mergeReady (s : State) (i : Instr) (t c slot : Nat) : Bool :=
  operandsMeet s i t c slot fun fr =>
    let x : W64 := BitVec.ofNat 64 (fr.a64 0)
    let y : W64 := BitVec.ofNat 64 (fr.b64 0)
    s.standing t x == .malformed || s.standing t y == .malformed || merge s t x y != .waiting

/-! ### Row engine and skim unit -/

/-- No MSPL or MFIL of the element is in progress (R203). -/
def engineFree (s : State) (t : Nat) : Bool := (s.tile t).xfer.isNone

/-- No row step into a row of the range is incomplete (R203). -/
def rowsSettled (s : State) (t first count : Nat) : Bool :=
  (s.tile t).steps.all fun st => !(decide (first ≤ st.row) && decide (st.row < first + count))

/-- No row step, pass or merge that the context started is incomplete (R203). -/
def flagsSettled (s : State) (t c : Nat) : Bool :=
  let tl := s.tile t
  tl.steps.all (fun st => st.ctx != c) && tl.passes.all (fun p => p.ctx != c)
    && (List.range 2).all fun k => match (if k = 0 then tl.skim[0] else tl.skim[1]).merge with
      | some m => m.ctx != c
      | none => true

/-- A query slot of a tile. -/
def Tile.query (tl : Tile) (k : Nat) : SkimSlot := if k % 2 = 0 then tl.skim[0] else tl.skim[1]

/-- A query slot is drained, with no pass or merge queued or running (R213, R216). -/
def queryReady (tl : Tile) (k : Nat) : Bool :=
  let q := tl.query k
  q.occupied && q.due == 0 && q.merge.isNone && tl.passes.all fun p => p.slot != k % 2

/-- The same for a slot that is to send its token: it is not already leaving (R214, R215). -/
def sendReady (tl : Tile) (k : Nat) : Bool := queryReady tl k && (tl.query k).emit.isNone

/-- The KV witness of a slot's token, which its passes are given, is not pending (R209, R249, R323). -/
def kvReady (s : State) (t k : Nat) : Bool := s.standing t (hdrWitness ((s.tile t).query k).hdr) != .pending

/-- The query slot that SKFW forwards: the occupied slot with the earliest ARRIVAL whose token is not leaving (R214). A slot that parks its token is passed
over, since the other slot keeps serving tokens meanwhile (DEDUCED from R403 and R498 SLOT-BLOCK, log 65). -/
def forwardSlot (tl : Tile) : Option Nat :=
  let free (k : Nat) : Bool := (tl.query k).occupied && !(tl.query k).parked && (tl.query k).emit.isNone
  match free 0, free 1 with
  | true, true => some (if (tl.query 0).arrival < (tl.query 1).arrival then 0 else 1)
  | true, false => some 0
  | false, true => some 1
  | false, false => none

/-- The endpoint on which a token would stream out has a free place (R214, R215). -/
def runReady (s : State) (t c : Nat) (f : Slot) : Bool :=
  match f.dst with
  | .o n => hasPlace s t c (s.ctx t c) n.val
  | _ => true

/-- The number of beats on a link, ring or sequencer endpoint that the skim unit can take (R212, R216). -/
def skimBeats (s : State) (t c : Nat) (o : Opnd) : Nat :=
  match o with
  | .i n => ((s.ctx t c).beats n.val).length
  | _ => 0

/-! ### Engine queues -/

def State.sequencer (s : State) (c : Nat) : Sequencer := SMap.get s.seqs c Sequencer.clean

/-- The mirror of a queue that an element's context holds (R288). -/
def State.mirror? (s : State) (t c q : Nat) : Option Mirror := (s.tile t).mirrors.find? fun m => m.queue == q && m.ctx == c

/-- The permits that a column's sequencer holds for a queue; none when it does not own it. -/
def State.seqPermits (s : State) (col q : Nat) : Option Nat :=
  ((s.sequencer col).mirrors.find? fun m => m.1 == q).map (·.2.2)

/-- The queue that QSEL names from a column (R300). -/
def queueOfSel (col sel : Nat) : Nat := if sel < 4 then 4 * col + sel else 256 + sectorOfColumn col

/-- The origin column of the configuration that a tile holds (R296): a lath context's own column (log 19). -/
def State.originColumn (s : State) (t : Nat) : Nat :=
  match s.tileInst t with
  | some x => columnOf (tileAt x.ox x.oy x.oz)
  | none => columnOf t

/-- The queue that an inline command names (R296): none when its column lies outside the device or the domain. -/
def inlineQueue (s : State) (t imm : Nat) (near : Bool) : Option Nat :=
  if near then some (256 + sectorOf t)
  else
    let o := s.originColumn t
    let x := o % 8 + bits imm 2 3
    let y := o / 8 + bits imm 5 3
    let col := 8 * y + x
    if 8 ≤ x ∨ 8 ≤ y ∨ s.domainOf (sectorOfColumn col) ≠ s.tileDomain t then none else some (4 * col + bits imm 0 2)

/-- An inline command waits only for a permit of a queue that its context owns (R295, R296). -/
def readyInline (s : State) (t c : Nat) (f : Slot) (near : Bool) : Bool :=
  match inlineQueue s t f.imm.toNat near with
  | none => true
  | some q => match s.mirror? t c q with
    | none => true
    | some m => decide (1 ≤ m.permits)

/-- QUEUE and COUNT of QAPP, none when a field is out of range (R295). -/
def appendFields (b : Nat) : Option (Nat × Nat) :=
  let q := bits b 0 9
  let n := bits b 16 7
  if 272 ≤ q ∨ n < 1 ∨ 64 < n ∨ bits b 9 7 ≠ 0 ∨ bits b 23 41 ≠ 0 then none else some (q, n)

/-- QAPP waits for permits only when its operand is in range and its context owns the queue (R295). -/
def readyQapp (s : State) (i : Instr) (t c slot : Nat) : Bool :=
  operandsMeet s i t c slot fun fr => match appendFields (fr.b64 0) with
    | none => true
    | some (q, n) => match s.mirror? t c q with
      | none => true
      | some m => decide (n ≤ m.permits)

/-- DTAB is eligible when its entry is free (R300). -/
def readyDtab (f : Slot) (s : State) (t : Nat) : Bool :=
  (s.sequencer (columnOf t)).table.all fun e => e.entry != bits f.imm.toNat 0 8

/-- SQIT is not eligible while a program runs on its queue (R301). -/
def readySqit (f : Slot) (s : State) (t : Nat) : Bool :=
  (s.sequencer (columnOf t)).programs.all fun p => p.queue != queueOfSel (columnOf t) (bits f.imm.toNat 0 3)

/-- TLBIR waits while its witness is pending and while its context has 16 invalidations that have not drained (R451). -/
def readyTlbir (s : State) (i : Instr) (t c slot : Nat) : Bool :=
  givenReady s i t c slot && decide ((s.undrained t c).length < 16)

/-- KSLT waits while the slot that it names is being cleared (R456). -/
def readyKslt (s : State) (i : Instr) (t c slot : Nat) : Bool :=
  operandsMeet s i t c slot fun fr => (s.keySlot (bits (fr.b64 0) 0 8)).state != .clearing

/-- DCTL waits while a step of its target is in progress (R458). -/
def readyDctl (s : State) (i : Instr) (t c slot : Nat) : Bool :=
  operandsMeet s i t c slot fun fr => !(s.domain (bits (fr.a64 0) 0 4)).busy

/-- FREC waits for a record in its domain's fault queue (R474). -/
def readyFrec (s : State) (t : Nat) : Bool := !(s.faultQueue ((s.tileDomain t).getD 0)).records.isEmpty

/-- The lanes that a store or an atomic would touch, with the return array of an atomic (R257, R273, R278). -/
def storeLanes (i : Instr) (fr : Firing) : List LaneReq :=
  match i with
  | .stx _ => fr.indexed (fr.a64 0)
  | .st _ | .stfe _ => fr.contiguous (fr.a64 0)
  | _ => fr.contiguous (fr.a64 0) ++ if fr.a64 1 = 0 then [] else fr.contiguous (fr.a64 1)

/-- A store or atomic on a strongly ordered page counts as an outstanding load: there must be a place for it (R262). -/
def storeFree (s : State) (i : Instr) (t c slot : Nat) : Bool :=
  loadFree s t c || operandsMeet s i t c slot fun fr => !(planLanes s t (storeLanes i fr)).1.any Planned.strong

/-- An LDFE of the slot waits on an empty granule (R232). -/
def waitsEmpty (s : State) (t c slot : Nat) : Bool :=
  s.accesses.any fun a => a.tile == t && a.ctx == c && a.slot == slot && a.origin == .slot && a.pieces.any fun p => match p.op with
    | .loadFull _ _ => !s.mem.isFull p.gran
    | _ => false

/-- The condition of an instruction's own description. -/
def readyOwn (i : Instr) (s : State) (t c slot : Nat) : Bool :=
  match i with
  | .advc f => readyAdvc f s t c
  | .advp f => readyAdvp f s t c
  | .qpeek f => readyQpeek f s t c
  | .drop f => readyDrop f s t c
  | .crcv f => readyCrcv f s t c
  | .ccfg f => chainState f s t == .free
  | .cnxt f => chainState f s t == .active
  | .chn _ => decide ((s.tile t).queue.length < 4)
  | .chnw _ => (s.tile t).queue.all fun r => r.ctx != c
  | .fflg _ => flagsSettled s t c
  | .mset _ => engineFree s t
  | .mldb _ => engineFree s t
  | .mcbt _ => engineFree s t
  | .mprd _ => engineFree s t
  | .mrow _ => engineFree s t
  | .mclr _ => engineFree s t
  | .mfil _ => engineFree s t
  | .mout f => engineFree s t && rowsSettled s t (bits f.imm.toNat 0 7) 1
  | .mspl f => engineFree s t && rowsSettled s t (bits f.imm.toNat 0 7) (bits f.imm.toNat 7 8)
  | .skq f => !((s.tile t).query (bits f.imm.toNat 0 1)).occupied && decide (1 ≤ skimBeats s t c f.sa)
  | .skim f => queryReady (s.tile t) (bits f.imm.toNat 0 1) && decide ((s.tile t).passes.length < 2)
      && kvReady s t (bits f.imm.toNat 0 1)
  | .skfw f => runReady s t c f && (match forwardSlot (s.tile t) with | some k => sendReady (s.tile t) k | none => false)
  | .skfn f => runReady s t c f && sendReady (s.tile t) (bits f.imm.toNat 0 1)
  | .skmg f => decide (2 ≤ skimBeats s t c f.sa)
      && (mergeSlot f s t c).all (queryReady (s.tile t))
  | .ld _ => loadFree s t c
  | .ldw _ => loadFree s t c && givenReady s i t c slot
  | .ldx _ => loadFree s t c && givenReady s i t c slot
  | .ldfeClr _ => loadFree s t c && !waitsEmpty s t c slot
  | .ldfeKeep _ => loadFree s t c && !waitsEmpty s t c slot
  | .stx _ => givenReady s i t c slot && storeFree s i t c slot
  | .st _ => storeFree s i t c slot
  | .stfe _ => storeFree s i t c slot
  | .aadd _ => storeFree s i t c slot
  | .amin _ => storeFree s i t c slot
  | .amax _ => storeFree s i t c slot
  | .aand _ => storeFree s i t c slot
  | .aor _ => storeFree s i t c slot
  | .axor _ => storeFree s i t c slot
  | .aswp _ => storeFree s i t c slot
  | .acas _ => storeFree s i t c slot
  | .afadd _ => storeFree s i t c slot
  | .wwt _ => givenReady s i t c slot
  | .wlft _ => liftReady s i t c slot
  | .wlftH _ => liftReady s i t c slot
  | .wmrg _ => mergeReady s i t c slot
  | .creq _ => loadFree s t c && decide (1 ≤ s.freeEntries ((s.tileDomain t).getD 0))
  | .creqReplace _ => loadFree s t c && decide (1 ≤ s.freeEntries ((s.tileDomain t).getD 0))
  | .etrg _ => triggerReady s i t c slot
  | .hcpy f => readyInline s t c f false
  | .hred f => readyInline s t c f false
  | .ha2a f => readyInline s t c f false
  | .hcol f => readyInline s t c f false
  | .hfng f => readyInline s t c f false
  | .nzer f => readyInline s t c f true
  | .ncpy f => readyInline s t c f true
  | .ncmp f => readyInline s t c f true
  | .nfen f => readyInline s t c f true
  | .qapp _ => readyQapp s i t c slot
  | .qseq _ => loadFree s t c
  | .qfen _ => loadFree s t c
  | .dtab f => readyDtab f s t
  | .sqit f => readySqit f s t
  | .gadv _ => loadFree s t c
  | .gmsk _ => loadFree s t c
  | .gfrk _ => loadFree s t c
  | .gcmt _ => loadFree s t c
  | .grbk _ => loadFree s t c
  | .gsav _ => loadFree s t c
  | .grst _ => loadFree s t c
  | .gsta _ => loadFree s t c
  | .tlbir _ => readyTlbir s i t c slot
  | .tlbsy _ => loadFree s t c
  | .ksltAssign _ => readyKslt s i t c slot
  | .ksltLoad _ => readyKslt s i t c slot
  | .ksltGenerate _ => readyKslt s i t c slot
  | .ksltClear _ => readyKslt s i t c slot
  | .dctlDefine _ => readyDctl s i t c slot
  | .dctlQuiesce _ => readyDctl s i t c slot
  | .dctlScrub _ => readyDctl s i t c slot
  | .dctlSwitch _ => readyDctl s i t c slot
  | .dctlReload _ => readyDctl s i t c slot
  | .frec _ => readyFrec s t
  | _ => true

end Sys2Proof.Machine
end

