-- ==== Sys2Proof/Machine/Fire.lean ====
section
/-! DEFINITION. The firing of a slot (R44, R45, R49, R50, R324, R326, R469): one shared operation reads the operands before any result is written,
stops the slot with a fault record when a source cannot be read or the instruction's own checks fail, and otherwise applies the instruction's
effect, consumes the beats of ADV and records the arbiter's L. -/

namespace Sys2Proof.Machine

open Sys2Proof

/-- What happens to a firing. -/
inductive Fired where
  /-- The slot fires with these effects. -/
  | done (s : State)
  /-- The slot fires, consumes its beats, and its context then halts (TRAP, R477). -/
  | doneThen (s : State) (fi : FaultInfo)
  /-- The slot does not fire and its context halts (R469). -/
  | stop (fi : FaultInfo)
  /-- The slot does not fire and nothing changes. -/
  | idle

/-- The firing would read the row engine's codebook while another configuration owns its dirty state (R191). -/
def ownerFault (tl : Tile) : Bool := tl.row.dirty && tl.row.owner != tl.inst

/-- Some source token of the firing is decoded through a cb4 entry (R126, R191). -/
def decodesCb4 (i : Instr) (row : OpRow) (f : Slot) (s : State) (t c : Nat) : Bool :=
  let cx := s.ctx t c
  !isSkim i && (readEndpoints row f).any fun n =>
    (neededEndpoints i row cx f).contains n && (at8 cx.word.ibind n).decoded &&
    match headBeat s t cx n with
    | some b => !b.poison && readsCodebook s t cx b
    | none => false

/-- Flags that channel decoding raises in the lanes of E (R121, R126). -/
def Firing.decodeFlags (fr : Firing) : FpFlags :=
  flagsOver 32 fr.e fr.a.flags ||| flagsOver 32 fr.e fr.b.flags ||| flagsOver 32 fr.e fr.cc.flags

/-- After the effects of a firing: the beats of ADV are consumed and L names the context (R50, R326). -/
def State.afterFiring (s : State) (t c : Nat) (adv : BitVec 8) : State :=
  let tl := s.tile t
  s.setTile t { tl.setCtx c ((tl.ctx c).consume adv) with last := c }

/-- One firing of a slot instruction at the cursor. A slot that is not eligible does nothing (R323). -/
def fire (i : Instr) (body : State → Firing → Fired) (s : State) : Host.Outcome State Fault Refusal :=
  match toCode i with
  | none => .next s
  | some (opc, opSub, f) =>
    match opRow opc opSub with
    | none => .next s
    | some row =>
      let t := s.cur.tile
      let c := s.cur.ctx
      let slot := s.cur.slot
      if !(readyCommon i row f s t c slot && readyOwn i s t c slot) then .next s
      else match readOperands i row f s t c slot with
      | .error e => .next (s.haltCtx t c slot e.info)
      | .ok fr =>
        if decodesCb4 i row f s t c && ownerFault (s.tile t) && fr.e != 0 then
          .next (s.haltCtx t c slot { cls := 8, cause := 4 })
        else
          let adv := advMask i (s.ctx t c) f
          match body s fr with
          | .done s1 => .next ((s1.raise t c fr.decodeFlags).afterFiring t c adv)
          | .doneThen s1 fi =>
            .next (((s1.raise t c fr.decodeFlags).afterFiring t c adv).haltCtx t c slot fi)
          | .stop fi =>
            let read := row.a.reads || row.b.reads
            .next (s.haltCtx t c slot { fi with operands := if read then some (fr.a.val, fr.b.val) else none })
          | .idle => .next s

/-- The result of an instruction that computes lane by lane: values and conditions per lane of the form, and the flags raised per lane. -/
structure LaneResult where
  vals : List Nat
  cond : List Bool
  flags : List FpFlags
  deriving DecidableEq, Repr

/-- Results that are given lane by lane as (value, C). -/
def LaneResult.of (rs : List (Nat × Bool)) : LaneResult :=
  { vals := rs.map (·.1), cond := rs.map (·.2), flags := [] }

/-- The effects of a lane result in the lanes of E (R44-R49, R121): destination, predicate destination, predicate update, flags. -/
def applyLanes (s : State) (fr : Firing) (r : LaneResult) : State :=
  let cond := maskOfLanes fr.w r.cond
  let e := widenMask fr.w fr.e
  ((((s.writeDest fr.t fr.c fr.slot fr.f.dst fr.w fr.e r.vals).writePred fr.t fr.c fr.f.dst e cond).updatePred
    fr.t fr.c fr.f.predOp fr.f.predReg e cond).raise fr.t fr.c (flagsOver fr.w fr.e r.flags))

/-- A firing whose effect is a lane result. -/
def fireLanes (i : Instr) (compute : State → Firing → LaneResult) (s : State) : Host.Outcome State Fault Refusal :=
  fire i (fun s fr => .done (applyLanes s fr (compute s fr))) s

end Sys2Proof.Machine
end

