-- ==== Sys2Proof/Machine/Arbiter.lean ====
section
/-! DEFINITION. The arbiter of an element (R326) and the fetch of a slot word: which slot of which context fires in a cycle. -/

namespace Sys2Proof.Machine

open Sys2Proof

/-- The slot word of a slot, decoded (R37). -/
def State.slotInstr (s : State) (t c slot : Nat) : Except LoadStatus Instr :=
  decode ((s.ctx t c).slots.getD slot 0)

/-- A slot is eligible in this cycle (R323). A word that the loader refuses is brought to the fetch, which stops on it. -/
def State.eligible (s : State) (t c slot : Nat) : Bool :=
  match s.slotInstr t c slot with
  | .error _ => (s.ctx t c).live && s.elementRuns t
  | .ok i => match toCode i with
    | none => false
    | some (opc, opSub, f) => match opRow opc opSub with
      | none => false
      | some row => readyCommon i row f s t c slot && readyOwn i s t c slot

/-- A slot whose operands can be read uses its witness: a foreign writer-local one is lifted (R246, R249, log 57). That of SKIM is its token's (R209). -/
def State.useGiven (s : State) (t c slot : Nat) : State :=
  match s.slotInstr t c slot with
  | .error _ => s
  | .ok (.skim f) => s.noteLift t (hdrWitness ((s.tile t).query (bits f.imm.toNat 0 1)).hdr)
  | .ok i => match givenWitness i, toCode i with
    | some wit, some (opc, opSub, f) => (match opRow opc opSub with
      | none => s
      | some row =>
        if readyCommon i row f s t c slot then
          match readOperands i row f s t c slot with
          | .ok fr => s.noteLift t (BitVec.ofNat 64 (wit fr))
          | .error _ => s
        else s)
    | _, _ => s

/-- The oldest pass of an element uses its token's witness (R208, R246). -/
def State.usePass (s : State) (t : Nat) : State :=
  match (s.tile t).passes.head?.bind (·.access) with
  | none => s
  | some id => match s.accesses.find? fun a => a.id == id with
    | none => s
    | some a => s.noteLift t a.given

/-- An element uses the witnesses of its live contexts' slots and of its oldest pass (R246). -/
def State.useWitnesses (s : State) (t : Nat) : State :=
  (List.range 8).foldl (fun s c => if (s.ctx t c).live then (List.range (s.ctx t c).word.slots).foldl (fun s k => s.useGiven t c k) s else s) (s.usePass t)

/-- The contexts in the order of the arbiter: L + 1, L + 2, .. L + 8 modulo 8 (R326). -/
def arbOrder (last : Nat) : List Nat := (List.range 8).map fun k => (last + 1 + k) % 8

/-- The lowest-indexed eligible slot of the first context, in the arbiter's order, that has one (R326). -/
def State.arbitrate (s : State) (t : Nat) : Option (Nat × Nat) :=
  (arbOrder (s.tile t).last).findSome? fun c =>
    ((List.range (s.ctx t c).word.slots).find? fun k => s.eligible t c k).map fun k => (c, k)

end Sys2Proof.Machine
end

