-- ==== Sys2Proof/Machine/IntOps.lean ====
section
/-! DEFINITION. The integer lane functions of the tables of R141-R159, on exact integers, each narrowed at its end (R10, R108). A lane
function gives the result and the condition C of its table (R140). -/

namespace Sys2Proof.Machine

open Sys2Proof

/-- A result whose condition is `result ≠ 0` (R140). -/
def withC (r : Nat) : Nat × Bool := (r, r != 0)

/-- ADD (R141). -/
def iAdd (w : Nat) (a b : Int) : Nat × Bool := withC (wrap w (a + b))
/-- SUB (R141). -/
def iSub (w : Nat) (a b : Int) : Nat × Bool := withC (wrap w (a - b))
/-- A saturated sum or difference with the condition that the clamp changed it (ADDS, SUBS, R141). -/
def iSat (sg : Bool) (w : Nat) (x : Int) : Nat × Bool := (wrap w (clampInt sg w x), clampInt sg w x != x)
/-- NEG (R141). -/
def iNeg (w : Nat) (a : Int) : Nat × Bool := withC (wrap w (-a))
/-- ABS (R141). -/
def iAbs (w : Nat) (a : Int) : Nat × Bool := withC (wrap w a.natAbs)
/-- MUL (R142). -/
def iMul (w : Nat) (a b : Int) : Nat × Bool := withC (wrap w (a * b))
/-- MULH and MULHZ: the floor of the product over 2^w (R142). -/
def iMulh (w : Nat) (a b : Int) : Nat × Bool := withC (wrap w ((a * b) / (2 ^ w : Int)))
/-- MAD (R142). -/
def iMad (w : Nat) (a b c : Int) : Nat × Bool := withC (wrap w (a * b + c))

/-- Whether R143 marks a division exceptional: b = 0, or the minimum divided by -1. -/
def divCorner (sg : Bool) (w : Nat) (a b : Int) : Bool :=
  b == 0 || (sg && a == intMin sg w && b == -1)

/-- DIVS and DIVZ (R143). -/
def iDiv (sg : Bool) (w : Nat) (a b : Int) : Nat × Bool :=
  (if b = 0 then 2 ^ w - 1 else wrap w (a.tdiv b), divCorner sg w a b)
/-- REMS and REMZ (R143). -/
def iRem (sg : Bool) (w : Nat) (a b : Int) : Nat × Bool :=
  (if b = 0 then wrap w a else wrap w (a.tmod b), divCorner sg w a b)
/-- MIN and MINZ (R144). -/
def iMin (w : Nat) (a b : Int) : Nat × Bool := withC (wrap w (min a b))
/-- MAX and MAXZ (R144). -/
def iMax (w : Nat) (a b : Int) : Nat × Bool := withC (wrap w (max a b))

/-- NOT within w bits (R145). -/
def iNot (w a : Nat) : Nat := 2 ^ w - 1 - a % 2 ^ w
/-- SHL (R146). -/
def iShl (w a k : Nat) : Nat := if k < w then a * 2 ^ k % 2 ^ w else 0
/-- SHR (R146). -/
def iShr (w a k : Nat) : Nat := if k < w then a / 2 ^ k else 0
/-- SRA (R146). -/
def iSra (w a k : Nat) : Nat := wrap w (sgn w a / (2 ^ min k w : Int))
/-- ROL (R146). -/
def iRol (w a k : Nat) : Nat := a * 2 ^ (k % w) % 2 ^ w + a / 2 ^ (w - k % w)
/-- CLZ (R147). -/
def iClz (w a : Nat) : Nat := if a = 0 then w else w - 1 - a.log2
/-- POPC (R147). -/
def iPopc (w a : Nat) : Nat := ((List.range w).filter (bitAt a)).length
/-- BREV (R147). -/
def iBrev (w a : Nat) : Nat := packNat 1 ((List.range w).map fun i => (bitAt a (w - 1 - i)).toNat)
/-- BFX (R148). -/
def iBfx (sg : Bool) (w a pos len : Nat) : Nat :=
  if sg then signExtend len w (bits a pos len) else bits a pos len
/-- BFI (R148). -/
def iBfi (a b pos len : Nat) : Nat :=
  a - bits a pos len * 2 ^ pos + bits b 0 len * 2 ^ pos

/-- SHUF on whole lane lists (R155). -/
def shufLanes (n : Nat) (a b : List Nat) : List Nat :=
  b.map fun j => if j < n then a.getD j 0 else 0

/-- The values that IDX selects, in ascending lane order (R157). -/
def idxList (e : Nat → Bool) (a b : List Nat) : List Nat :=
  ((List.range a.length).filter fun l => e l && b.getD l 0 != 0).map fun l => a.getD l 0

/-- The operations of SCAN (R158) and of the lane reductions (R159). -/
inductive Fold where
  | add | min | max | or | and
  deriving DecidableEq, Repr

/-- The value that an empty combination has (R158, R159). -/
def Fold.identity (f : Fold) (sg : Bool) (w : Nat) : Nat :=
  match f with
  | .add => 0
  | .or => 0
  | .and => 2 ^ w - 1
  | .min => wrap w (intMax sg w)
  | .max => wrap w (intMin sg w)

/-- The combination of two lanes (R158, R159). -/
def Fold.apply (f : Fold) (sg : Bool) (w a b : Nat) : Nat :=
  match f with
  | .add => (a + b) % 2 ^ w
  | .or => a ||| b
  | .and => a &&& b
  | .min => wrap w (Min.min (intOf sg w a) (intOf sg w b))
  | .max => wrap w (Max.max (intOf sg w a) (intOf sg w b))

/-- The prefix of SCAN at lane l: over the lanes of E up to l, or below l in the exclusive form (R158). -/
def scanAt (f : Fold) (sg : Bool) (w : Nat) (excl : Bool) (e : Nat → Bool) (a : List Nat) (l : Nat) : Nat :=
  ((List.range (if excl then l else l + 1)).filter e).foldl (fun acc m => f.apply sg w acc (a.getD m 0)) (f.identity sg w)

/-- The reduction over the lanes of E (R159). -/
def reduceLanes (f : Fold) (sg : Bool) (w : Nat) (e : Nat → Bool) (a : List Nat) : Nat :=
  ((List.range a.length).filter e).foldl (fun acc m => f.apply sg w acc (a.getD m 0)) (f.identity sg w)

/-- noise32 of R220. -/
def noise32 (seed sequence step index : Nat) : Nat :=
  let key := seed ^^^ (step % 2 ^ 32 * 2 ^ 32 + (step % 2 ^ 32 ^^^ 0xFFFFFFFF))
  let round (x : Nat) (c : Nat × Nat) : Nat :=
    let x := (x + key + c.1) % 2 ^ 64
    let x := x ^^^ (x / 2 ^ 29)
    let x := x * c.2 % 2 ^ 64
    x ^^^ (x / 2 ^ 32)
  [(0x1C6F0D35A94E72B8, 0xA3B195C52E7D4F69), (0x5E83B1F724C96D0A, 0xC2D41F8B6A359E17),
   (0x7A29C4E18F365B92, 0x8F1BE6A3D52947C5), (0x3D17E86BC052A9F4, 0xB7E53C914D8AF62B)].foldl round
    (sequence % 2 ^ 32 * 2 ^ 32 + index % 2 ^ 32) % 2 ^ 32

end Sys2Proof.Machine
end

