-- ==== Sys2Proof/Machine/MemAccess.lean ====
section
/-! DEFINITION. The accesses of an element (R255-R268): the lanes of an access and their addresses, their translation with the checks of a firing in
the order of R285, the pieces by granule, and putting loads and stores in flight. -/

namespace Sys2Proof.Machine

open Sys2Proof

/-! ### Translation and checks -/

/-- What an access needs of a page (R259). -/
structure Need where
  r : Bool := false
  w : Bool := false
  a : Bool := false
  deriving DecidableEq, Repr

/-- The tier that a leaf maps. -/
def Leaf.tier (l : Leaf) : Nat := tierOf (l.frame * 2 ^ 16)

/-- Alignment breach of a lane (R258): to its element size, and on tier 0x8 to whole words of a 64-bit type. -/
def misaligned (ty : Ty) (p : Planned) : Bool :=
  p.req.va % unitBytes ty != 0 ||
  match p.leaf? with
  | some l => l.tier == 8 && !(ty.is64 && p.req.va % 8 == 0)
  | none => false

/-- Permission cause of a leaf: 1 READ, 2 WRITE, 3 ATOMIC (R259, R468). -/
def Need.missing (n : Need) (l : Leaf) : Option Nat :=
  if n.r && !l.r then some 1 else if n.w && !l.w then some 2 else if n.a && !l.a then some 3 else none

/-- Translation cause of a lane (R449). -/
def Planned.cause? (p : Planned) : Option Nat :=
  match p.walk with
  | .fault c => some c
  | _ => none

/-- The first lane at which a check fails, with the cause. -/
def firstFailing (ps : List Planned) (check : Planned → Option Nat) : Option (Planned × Nat) :=
  ps.findSome? fun p => (check p).map fun c => (p, c)

/-- A fault at a lane. -/
def Planned.fault (p : Planned) (cls cause : Nat) (wit : W64) : FaultInfo :=
  { cls := cls, cause := cause, address := p.req.va, lane := p.req.lane, witness := wit }

/-- A walk met a poisoned table entry (R468, R482); the record carries its physical address. -/
def walkPoison (ps : List Planned) (wit : W64) : Option FaultInfo :=
  ps.findSome? fun p => match p.walk with
    | .poison pa => some { cls := 6, cause := 7, address := pa, lane := p.req.lane, witness := wit }
    | _ => none

/-- The fault of a firing's lanes, the classes in the order of R285: alignment, translation, permission, memory tier, witness, and poison
last. `tier` gives the cause of a tier that the instruction refuses. -/
def accessFault (ty : Ty) (need : Need) (tier : Nat → Option Nat) (bad : Bool) (wit : W64) (ps : List Planned) : Option FaultInfo :=
  match firstFailing ps fun p => if misaligned ty p then some 1 else none with
  | some (p, c) => some (p.fault 3 c wit)
  | none =>
  match firstFailing ps Planned.cause? with
  | some (p, c) => some (p.fault 4 c wit)
  | none =>
  match firstFailing ps fun p => p.leaf?.bind need.missing with
  | some (p, c) => some (p.fault 5 c wit)
  | none =>
  match firstFailing ps fun p => p.leaf?.bind fun l => tier l.tier with
  | some (p, c) => some (p.fault 3 c wit)
  | none =>
  if bad then some { cls := 7, cause := 1, witness := wit }
  else walkPoison ps wit

/-- Full/empty accesses stay in pad and vault (R232). -/
def feTier (tier : Nat) : Option Nat := if tier = 0 ∨ tier = 1 then none else some 2

/-- Atomics keep off registers and windows (R279). -/
def atomicTier (tier : Nat) : Option Nat := if tier = 8 ∨ tier = 9 then some 3 else none

/-- No tier is refused. -/
def anyTier (_ : Nat) : Option Nat := none

/-! ### Pieces -/

/-- Where a lane stands in its granule. -/
structure Spot where
  lane : LaneAt
  gran : Nat
  va : Nat
  leaf : Leaf
  deriving DecidableEq, Repr

/-- The place of a translated lane: its granule, and its bits within the granule. -/
def Planned.spot (ty : Ty) (p : Planned) : Option Spot :=
  p.leaf?.map fun l =>
    let pa := l.pa p.req.va
    { lane := { lane := p.req.lane, off := 8 * (pa % 16) + p.req.nib, width := ty.width }, gran := pa / 16,
      va := p.req.va / 16 * 16, leaf := l }

/-- The granules of a list of spots, each once, in the order of their first lane. -/
def granules (sp : List Spot) : List Spot :=
  sp.foldl (fun acc x => if acc.any fun y => y.gran == x.gran then acc else acc ++ [x]) []

/-- One piece per granule, in the order of the first lane of each: an access performs what it does to a granule at one instant (R226). -/
def piecesOf (s : State) (sp : List Spot) (op : List Spot → PieceOp) : List Piece :=
  (granules sp).map fun x =>
    { gran := x.gran, va := x.va, key := s.keyIdent x.leaf, mt := x.leaf.mt, op := op (sp.filter fun y => y.gran == x.gran) }

/-- One piece per lane (R271): each lane of a gather is a separate read. -/
def lanePieces (s : State) (sp : List Spot) (op : List Spot → PieceOp) : List Piece :=
  sp.map fun x => { gran := x.gran, va := x.va, key := s.keyIdent x.leaf, mt := x.leaf.mt, op := op [x] }

/-- The pieces of a scatter in lane order: one per granule, but on tier 0x8 one per lane, since each of its words is stored in its turn (R267, R273). -/
def scatterPieces (s : State) (sp : List Spot) (op : List Spot → PieceOp) : List Piece :=
  (granules sp).flatMap fun x =>
    let ys := sp.filter fun y => y.gran == x.gran
    (if tierOf (16 * x.gran) = 8 then ys.map fun y => [y] else [ys]).map fun zs =>
      { gran := x.gran, va := x.va, key := s.keyIdent x.leaf, mt := x.leaf.mt, op := op zs }

/-- The pieces in ascending address order, as device and strongly ordered pages are accessed (R225, R267). -/
def ascending (ps : List Piece) : List Piece := sortByKey (·.va) ps

/-- Data and mask of the lanes of a granule, in lane order, so that a later lane of one element replaces an earlier one (R272, R273). -/
def storeBits (val : Nat → Nat) (sp : List Spot) : BitVec 128 × BitVec 128 :=
  sp.foldl (fun acc x =>
    let m : BitVec 128 := BitVec.ofNat 128 ((2 ^ x.lane.width - 1) * 2 ^ x.lane.off)
    let d : BitVec 128 := BitVec.ofNat 128 (val x.lane.lane % 2 ^ x.lane.width * 2 ^ x.lane.off)
    ((acc.1 &&& ~~~m) ||| d, acc.2 ||| m)) (0, 0)

/-- Some piece lies on a strongly ordered page. -/
def anyStrong (ps : List Piece) : Bool := ps.any fun p => p.mt == .strong

/-! ### Witnesses given to an access -/

/-- Eligibility by a given witness: not while it is pending (R249). -/
def witnessReady (s : State) (t : Nat) (w : Nat) : Bool := s.standing t (BitVec.ofNat 64 w) != .pending

/-- A witness whose group does not contain the reader sets WSCOPE (R250). -/
def State.noteScope (s : State) (t c : Nat) (w : W64) : State :=
  if s.standing t w == .dropped then
    let cx := s.ctx t c
    s.setCtx t c { cx with wscope := true }
  else s

/-! ### Loads -/

/-- A place of the destination reserved for a result that comes later (R262, R263), and the entry that waits for it. -/
def State.expect (s : State) (t c slot : Nat) (o : Outstanding) : State :=
  let s1 := match o.dst with
    | .o n => s.holdPlace t c slot n.val o.id
    | _ => s
  { s1 with outstanding := s1.outstanding ++ [o] }

/-- A load put in flight with the destination of its firing. -/
def startLoad (s : State) (fr : Firing) (wit : W64) (pieces : List Piece) : State :=
  let a := { Access.blank s fr.t fr.c fr.slot with
    pieces := pieces, e := fr.e, a := fr.a.val, b := fr.b.val, stalls := anyStrong pieces, given := wit }
  let o : Outstanding :=
    { id := a.id, tile := fr.t, ctx := fr.c, slot := fr.slot, dst := fr.f.dst, e := fr.e, w := fr.w, n := fr.n, ty := fr.f.ty,
      predReg := fr.f.predReg, predOp := fr.f.predOp, witness := none, quiet := fr.f.dst == .nul }
  (s.issue a).expect fr.t fr.c fr.slot o

/-- The form of a load: what it needs, the tiers it refuses, its lanes, the witness it is given, and the pieces it makes. -/
structure LoadForm where
  need : Need
  tier : Nat → Option Nat
  lanes : List LaneReq
  wit : W64
  gather : Bool
  op : List LaneAt → PieceOp

/-- A load of E at a firing (R259, R260, R264). DESIGN CHOICE (log 26): a load into nul that fails translation, permission or a poisoned walk applies no predicate
update, since it has no data to compute C from. -/
def loadBody (s : State) (fr : Firing) (lf : LoadForm) : Fired :=
  if !fr.any then .done (s.writeDest fr.t fr.c fr.slot fr.f.dst fr.w fr.e [])
  else
    let plan := planLanes s fr.t lf.lanes
    match accessFault fr.f.ty lf.need lf.tier (s.standing fr.t lf.wit == .malformed) lf.wit plan.1 with
    | some fi =>
      if fr.f.dst == .nul && (fi.cls == 4 || fi.cls == 5 || fi.cls == 6) then
        let cx := s.ctx fr.t fr.c
        .done (s.setCtx fr.t fr.c { cx with nulFaults := min (cx.nulFaults + 1) 0xFFFF })
      else .stop fi
    | none =>
      let s1 := plan.2.noteScope fr.t fr.c lf.wit
      let sp := plan.1.filterMap (Planned.spot fr.f.ty)
      let op (xs : List Spot) : PieceOp := lf.op (xs.map (·.lane))
      let ps := if lf.gather then lanePieces s1 sp op else ascending (piecesOf s1 sp op)
      .done (startLoad s1 fr lf.wit ps)

/-! ### Stores -/

/-- A store put in flight under a number of the element: its witness goes to the destination at once, or when the store is performed if a
page is strongly ordered (R236, R237, R261). -/
def startStore (s : State) (fr : Firing) (mk : Access → Access) : State :=
  let num := s.takeNumber fr.t
  let a := mk { Access.blank num.2 fr.t fr.c fr.slot with number := num.1, e := fr.e, a := fr.a.val, b := fr.b.val }
  let strong := a.owesOn fun m => m == .strong
  let w := localWitness fr.t num.1
  let all := widenMask fr.w fr.e
  let s1 := num.2.issue { a with stalls := strong }
  if strong then
    s1.expect fr.t fr.c fr.slot
      { id := a.id, tile := fr.t, ctx := fr.c, slot := fr.slot, dst := fr.f.dst, e := fr.e, w := fr.w, n := fr.n,
        predReg := fr.f.predReg, predOp := fr.f.predOp, witness := some w, quiet := false }
  else
    (s1.writeDest fr.t fr.c fr.slot fr.f.dst 64 fr.e (List.replicate 8 w.toNat)).updatePred fr.t fr.c fr.f.predOp fr.f.predReg all all

/-- The form of a store: its lanes, the values per lane, whether it fills its granules, its tiers and its witness. -/
structure StoreForm where
  lanes : List LaneReq
  val : Nat → Nat
  /-- The lanes come in lane order, not in address order (R267, R273). -/
  scatter : Bool := false
  setFull : Bool
  tier : Nat → Option Nat
  wit : W64

/-- A store of E at a firing (R259, R260, R272, R273, R276). -/
def storeBody (s : State) (fr : Firing) (sf : StoreForm) : Fired :=
  if !fr.any then .done (s.writeDest fr.t fr.c fr.slot fr.f.dst 64 0 [])
  else
    let plan := planLanes s fr.t sf.lanes
    match accessFault fr.f.ty { w := true } sf.tier (s.standing fr.t sf.wit == .malformed) sf.wit plan.1 with
    | some fi => .stop fi
    | none =>
      let s1 := plan.2.noteScope fr.t fr.c sf.wit
      let sp := plan.1.filterMap (Planned.spot fr.f.ty)
      let op (xs : List Spot) : PieceOp :=
        let d := storeBits sf.val xs
        .store d.1 d.2 sf.setFull false
      .done (startStore s1 fr fun a => { a with pieces := if sf.scatter then scatterPieces s1 sp op else ascending (piecesOf s1 sp op) })

end Sys2Proof.Machine
end

