-- ==== Sys2Proof/Machine/Shake.lean ====
section
/-! DEFINITION. SHAKE256, which configuration identifiers, measurements and fingerprints are made with (R93, R308, R464): FIPS 202's sponge over
Keccak-f[1600] with a rate of 136 bytes (assumption log 8). -/

namespace Sys2Proof.Machine

open Sys2Proof

/-- The 25 lanes of a Keccak state, lane (x, y) at x + 5y. -/
abbrev KState := List W64

def kLane (a : KState) (i : Nat) : W64 := a.getD i 0

/-- Rotation offsets of rho, lane by lane. -/
def kRho : List Nat :=
  [0, 1, 62, 28, 27, 36, 44, 6, 55, 20, 3, 10, 43, 25, 39, 41, 45, 15, 21, 8, 18, 2, 61, 56, 14]

/-- Round constants of iota. -/
def kRounds : List W64 :=
  [0x0000000000000001, 0x0000000000008082, 0x800000000000808A, 0x8000000080008000, 0x000000000000808B, 0x0000000080000001,
   0x8000000080008081, 0x8000000000008009, 0x000000000000008A, 0x0000000000000088, 0x0000000080008009, 0x000000008000000A]
  ++ [0x000000008000808B, 0x800000000000008B, 0x8000000000008089, 0x8000000000008003, 0x8000000000008002, 0x8000000000000080,
      0x000000000000800A, 0x800000008000000A, 0x8000000080008081, 0x8000000000008080, 0x0000000080000001, 0x8000000080008008]

/-- theta. -/
def kTheta (a : KState) : KState :=
  let c := (List.range 5).map fun x => (List.range 5).foldl (fun acc y => acc ^^^ kLane a (x + 5 * y)) 0
  let d := (List.range 5).map fun x => kLane c ((x + 4) % 5) ^^^ (kLane c ((x + 1) % 5)).rotateLeft 1
  (List.range 25).map fun i => kLane a i ^^^ kLane d (i % 5)

/-- rho and pi: lane (x, y) takes lane (x + 3y, x). -/
def kRhoPi (a : KState) : KState :=
  (List.range 25).map fun i =>
    let src := (i % 5 + 3 * (i / 5)) % 5 + 5 * (i % 5)
    (kLane a src).rotateLeft (kRho.getD src 0)

/-- chi. -/
def kChi (a : KState) : KState :=
  (List.range 25).map fun i =>
    let row := i / 5 * 5
    kLane a i ^^^ (~~~(kLane a (row + (i + 1) % 5)) &&& kLane a (row + (i + 2) % 5))

/-- One round. -/
def kRound (a : KState) (rc : W64) : KState :=
  match kChi (kRhoPi (kTheta a)) with
  | [] => []
  | l :: rest => (l ^^^ rc) :: rest

/-- Keccak-f[1600]. -/
def keccakF (a : KState) : KState := kRounds.foldl kRound a

/-- A block of 136 bytes taken into the state; bytes beyond the list are zero. -/
def kAbsorb (a : KState) (block : List Nat) : KState :=
  keccakF ((List.range 25).map fun i =>
    if i < 17 then
      kLane a i ^^^ BitVec.ofNat 64 ((List.range 8).foldr (fun k acc => block.getD (8 * i + k) 0 + 256 * acc) 0)
    else kLane a i)

/-- The message with its padding: 0x1F after the last byte and 0x80 in the last byte of the last block. -/
def kPad (bs : List Nat) : List Nat :=
  let n := 136 - bs.length % 136
  if n = 1 then bs ++ [0x9F] else bs ++ [0x1F] ++ List.replicate (n - 2) 0 ++ [0x80]

/-- Absorption of the blocks of a padded message. -/
def kBlocks : Nat → KState → List Nat → KState
  | 0, a, _ => a
  | n + 1, a, bs => kBlocks n (kAbsorb a (bs.take 136)) (bs.drop 136)

/-- The first 136 bytes of SHAKE256 of a message as a little-endian number. -/
def shake256 (bs : List Nat) : Nat :=
  let padded := kPad bs
  let a := kBlocks (padded.length / 136) (List.replicate 25 0) padded
  (List.range 17).foldr (fun i acc => (kLane a i).toNat + 2 ^ 64 * acc) 0

/-- The first n bytes of SHAKE256 as a little-endian number. -/
def shakeBytes (bs : List Nat) (n : Nat) : Nat := shake256 bs % 2 ^ (8 * n)

end Sys2Proof.Machine
end

