-- ==== Sys2Proof/Machine/Skim.lean ====
section
/-! DEFINITION. The skim unit (R204-R217, R390-R394), opcode 0x31: the five skim instructions, and what the unit does between them: it drains a token beat
by beat, runs the queued passes, merges partial states, and sends tokens. -/

namespace Sys2Proof.Machine

open Sys2Proof

/-! ### Slots -/

/-- A query slot of a tile replaced. -/
def Tile.setQuery (tl : Tile) (k : Nat) (q : SkimSlot) : Tile := { tl with skim := tl.skim.set (k % 2) q (Nat.mod_lt _ (by decide)) }

def State.query (s : State) (t k : Nat) : SkimSlot := (s.tile t).query k

def State.setQuery (s : State) (t k : Nat) (q : SkimSlot) : State := s.setTile t ((s.tile t).setQuery k q)

/-- The working state written; in circulating mode it is the carried state as well (R204). -/
def SkimSlot.setWork (q : SkimSlot) (a : Attn) : SkimSlot :=
  if q.fresh then { q with work := a } else { q with work := a, carried := a }

/-- The state that SKFW sends (R204). -/
def SkimSlot.sent (q : SkimSlot) : Attn := if q.fresh then q.carried else q.work

/-- The fault of a poisoned slot (R217). -/
def skimPoison (k : Nat) : FaultInfo := { cls := 6, cause := 4, detail := BitVec.ofNat 128 k, skimSlot := some k }

/-- A skim fault (R217). -/
def skimFault (cause k : Nat) : FaultInfo := { cls := 9, cause := cause, detail := BitVec.ofNat 128 k, skimSlot := some k }

/-- A skim or poison fault found after the firing: the slot becomes unusable and the context of the firing halts (R213, R468). -/
def State.spoil (s : State) (t k c slotNo : Nat) (fi : FaultInfo) : State :=
  (s.setQuery t k { s.query t k with poison := true }).haltCtx t c slotNo
    { fi with detail := BitVec.ofNat 128 k, skimSlot := some k }

/-- An input endpoint taken by the skim unit or given back (R212). -/
def State.setTaken (s : State) (t c n : Nat) (b : Bool) : State :=
  let cx := s.ctx t c
  let bit : BitVec 8 := BitVec.ofNat 8 (2 ^ n)
  s.setCtx t c { cx with taken := if b then cx.taken ||| bit else cx.taken &&& ~~~bit }

/-- The endpoint of an operand. -/
def epOf (o : Opnd) : Nat :=
  match o with
  | .i n => n.val
  | .o n => n.val
  | _ => 0

/-! ### SKQ and the drain -/

/-- SKQ (R212). -/
def execSkq (f : Slot) (s : State) : Host.Outcome State Fault Refusal :=
  fire (.skq f) (fun s fr =>
    let k := bits fr.f.imm.toNat 0 1
    let h := fr.a.val
    if !headerOk h then .stop (skimFault 1 k)
    else
      let tl := s.tile fr.t
      let fresh := bitAt fr.f.imm.toNat 1
      let q : SkimSlot :=
        { SkimSlot.clean with
          occupied := true, hdr := h, fresh := fresh, arrival := tl.arrivals, drainCtx := fr.c, drainEp := epOf fr.f.sa,
          work := if fresh then Attn.fresh (hdrRows h) (hdrDim h) else .empty, due := queryBeats (hdrRows h) (hdrDim h) }
      .done ((s.setTile fr.t { tl.setQuery k q with arrivals := tl.arrivals + 1 }).setTaken fr.t fr.c (epOf fr.f.sa) true)) s

/-- A slot whose token has arrived whole (R212, R392). -/
def SkimSlot.arrived (q : SkimSlot) : SkimSlot :=
  let h := drainedState q.hdr q.drained
  { q with
    q := h.1, carried := h.2, work := if q.fresh then q.work else h.2, poison := q.poison || !checkHolds q.drained, drained := [] }

/-- The head beat of an endpoint that the skim unit drains, and the context without it. -/
def takeBeat (s : State) (t c n : Nat) : Option (Beat × State) :=
  let cx := s.ctx t c
  match at8 cx.ins n with
  | [] => none
  | b :: rest => some (b, s.setCtx t c { cx with ins := set8 cx.ins n rest })

/-- SKIM_BEAT_DRAIN (R212, R216): the skim unit takes one beat of the token that a slot is draining, or of the partial token that it merges. -/
def execSkimBeatDrain (t k : Nat) (s : State) : Host.Outcome State Fault Refusal :=
  let q := s.query t k
  match q.merge with
  | some m =>
    if m.due = 0 then .next s
    else match takeBeat s t m.ctx m.ep with
      | none => .next s
      | some (b, s1) =>
        let m1 := { m with beats := m.beats ++ [b.payload], due := m.due - 1, poison := m.poison || b.poison }
        let s2 := s1.setQuery t k { s1.query t k with merge := some m1 }
        .next (if m.due = 1 then s2.setTaken t m.ctx m.ep false else s2)
  | none =>
    if q.due = 0 then .next s
    else match takeBeat s t q.drainCtx q.drainEp with
      | none => .next s
      | some (b, s1) =>
        let q1 := { q with drained := q.drained ++ [b.payload], due := q.due - 1, poison := q.poison || b.poison }
        let s2 := s1.setQuery t k (if q.due = 1 then q1.arrived else q1)
        .next (if q.due = 1 then s2.setTaken t q.drainCtx q.drainEp false else s2)

/-! ### Passes -/

/-- The operand addresses of a pass: pages and headers, one pair or two (R213). -/
def passAddresses (dim : Nat) (a : V512) : List Nat :=
  (List.range (if dim = 256 then 4 else 2)).map (lane 64 a)

/-- The misaligned addresses and counts that SKIM refuses (R213). -/
def passMisformed (dim : Nat) (a b : V512) : Bool :=
  (passAddresses dim a).zipIdx.any (fun x => x.1 % (if x.2 % 2 = 0 then 2 ^ 16 else 128) != 0)
  || decide (256 < bits (lane 64 b 0) 32 9)

/-- The granules of a page that a pass reads, and so waits on or meets poison in (R205-R207, R209): K of the positions below COUNT, masked for every row or not,
and V of all 256 positions, each with the dimensions that the head has. Whether masked positions are read, the spec does not say (DESIGN CHOICE, log 67). -/
def pageGranules (dim count : Nat) : List Nat :=
  let per := min dim 128 / 16
  (List.range count).flatMap (fun j => (List.range per).map fun g => 8 * j + g)
  ++ (List.range 256).flatMap (fun j => (List.range per).map fun g => 2048 + 8 * j + g)

/-- The piece that reads granule g of a page or header: from pad or vault it waits until the granule is full (R209). `base` numbers it
among the results. -/
def passPiece (s : State) (l : Leaf) (va base g : Nat) : Piece :=
  let at' : List LaneAt := [{ lane := base + g, off := 0, width := 128 }]
  { gran := l.pa va / 16 + g, va := va + 16 * g, key := s.keyIdent l, mt := l.mt,
    op := if l.tier = 0 ∨ l.tier = 1 then .loadFull false at' else .load at' }

/-- Number of the results of page i and of header i. -/
def pageBase (i : Nat) : Nat := 4096 * i
def headerBase (i : Nat) : Nat := 8192 + 8 * i

/-- The access that reads a pass's pages and headers, or the fault of its addresses (R208, R209, R213). -/
def planPass (s : State) (t c slotNo : Nat) (h a b : V512) (e : Mask) : Except FaultInfo Access × State :=
  let dim := hdrDim h
  let vas := passAddresses dim a
  let plan := planLanes s t (vas.zipIdx.map fun x => { lane := x.2, va := x.1, nib := 0 })
  let wit := hdrWitness h
  match accessFault .z64 { r := true } anyTier (s.standing t wit == .malformed) wit plan.1 with
  | some fi => (.error { fi with lane := 0xFFFF }, plan.2)
  | none =>
    let pieces := (plan.1.zipIdx).flatMap fun x => match x.1.leaf? with
      | none => []
      | some l =>
        if x.2 % 2 = 0 then
          (pageGranules dim (bits (lane 64 b 0) 32 9)).map (passPiece s l x.1.req.va (pageBase (x.2 / 2)))
        else (List.range 2).map (passPiece s l x.1.req.va (headerBase (x.2 / 2)))
    let s1 := plan.2.noteScope t c wit
    (.ok { Access.blank s1 t c slotNo with origin := .skim, pieces := pieces, e := e, a := a, b := b, given := wit }, s1)

/-- A slot whose token no longer waits for a refill (R403). -/
def State.unpark (s : State) (t k : Nat) : State := s.setQuery t k { s.query t k with parked := false }

/-- SKIM (R213). A pass over the slot ends the wait of a parked token (R403, log 65). -/
def execSkim (f : Slot) (s : State) : Host.Outcome State Fault Refusal :=
  fire (.skim f) (fun s fr =>
    let k := bits fr.f.imm.toNat 0 1
    let q := s.query fr.t k
    if q.poison then .stop (skimPoison k)
    else if passMisformed (hdrDim q.hdr) fr.a.val fr.b.val then .stop (skimFault 1 k)
    else match planPass s fr.t fr.c fr.slot q.hdr fr.a.val fr.b.val fr.e with
      | (.error fi, _) => .stop fi
      | (.ok a, s1) =>
        let s2 := s1.issue a
        let tl := s2.tile fr.t
        .done ((s2.setTile fr.t { tl with passes := tl.passes ++
          [{ slot := k, a := fr.a.val, b := fr.b.val, ctx := fr.c, slotNo := fr.slot, e := fr.e, access := some a.id }] }).unpark fr.t k)) s

/-- What a pass read, as one number in which result n stands at bit 128n. -/
def passImage (a : Access) : Nat := a.results.foldl (fun acc x => acc ||| x.2 * 2 ^ (128 * x.1)) 0

/-- A byte of the image of a pass. -/
def imageByte (image result byte : Nat) : Nat := bits image (128 * result + 8 * byte) 8

/-- A field of n bytes of header i (R205). -/
def pageHeader (image i byte n : Nat) : Nat := bits image (128 * headerBase i + 8 * byte) (8 * n)

/-- The K or V value of a position and dimension (R205). -/
def pageValue (image half j d : Nat) : FVal :=
  let i := d / 128
  let fmt := if pageHeader image i 16 1 = 0 then Fmt.e4m3 else Fmt.e5m2
  fmt.decode (imageByte image (pageBase i) (32768 * half + 128 * j + d % 128))

/-- The cause of the skim fault of a pass's headers (R213): GENERATION or OPERAND. -/
def headerFault (image dim gen : Nat) : Option Nat :=
  let n := if dim = 256 then 2 else 1
  if (List.range n).any fun i => pageHeader image i 8 8 != gen then some 2
  else if (List.range n).any (fun i => decide (1 < pageHeader image i 16 1) || pageHeader image i 17 1 != i)
      || (n == 2 && (pageHeader image 0 0 4 != pageHeader image 1 0 4 || pageHeader image 0 4 4 != pageHeader image 1 4 4))
  then some 1
  else none

/-- What a pass computes with (R207, R213). -/
def passData (image : Nat) (b : V512) : PassData :=
  { k := pageValue image 0, v := pageValue image 1, kScale := pageHeader image 0 0 4, vScale := pageHeader image 0 4 4,
    base := bits (lane 64 b 0) 0 32, count := bits (lane 64 b 0) 32 9 }

/-- A pass over every row of a slot: the new working state with the flags raised (R207). -/
def runPass (q : SkimSlot) (pd : PassData) : Attn × FpFlags :=
  let dim := hdrDim q.hdr
  let qs := q.q.map BitVec.toNat
  let rs := (List.range (hdrRows q.hdr)).map fun i => passRow pd q.hdr dim i ((qs.drop (dim * i)).take dim) (q.work.row dim i)
  (Attn.ofRows (rs.map (·.1)), rs.foldl (fun acc x => acc ||| x.2) 0)

/-- The pass queue of a tile without its head, and the head's access gone. -/
def State.endPass (s : State) (t : Nat) (p : Pass) : State :=
  let s1 := { s with accesses := s.accesses.filter fun a => some a.id != p.access }
  let tl := s1.tile t
  s1.setTile t { tl with passes := tl.passes.tail }

/-- SKIM_PASS (R207-R209, R213, R405): the oldest queued pass of a tile ends, once everything it reads has been read. One that a pre-emption abandoned waits for the
restore, and then first takes its addresses from the recorded operands afresh. -/
def execSkimPass (t : Nat) (s : State) : Host.Outcome State Fault Refusal :=
  match (s.tile t).passes with
  | [] => .next s
  | p :: rest =>
    let q := s.query t p.slot
    match p.access with
    | none =>
      if (s.ctx t p.ctx).held then .next s
      else match planPass s t p.ctx p.slotNo q.hdr p.a p.b p.e with
      | (.error fi, s1) => .next ((s1.endPass t p).spoil t p.slot p.ctx p.slotNo fi)
      | (.ok a, s1) =>
        let s2 := s1.issue a
        .next (s2.setTile t { s2.tile t with passes := { p with access := some a.id } :: rest })
    | some id =>
      match s.accesses.find? fun a => a.id = id with
      | none => .next s
      | some a =>
        if !a.pieces.isEmpty then .next s
        else
          let s1 := s.endPass t p
          let image := passImage a
          match a.poisonAt with
          | some va =>
            .next (s1.spoil t p.slot p.ctx p.slotNo
              { cls := 6, cause := 4, address := va, performed := true, witness := a.given, operands := some (p.a, p.b) })
          | none =>
            match headerFault image (hdrDim q.hdr) (lane 64 p.b 1) with
            | some cause => .next (s1.spoil t p.slot p.ctx p.slotNo
                { cls := 9, cause := cause, witness := a.given, operands := some (p.a, p.b) })
            | none =>
              let r := runPass q (passData image p.b)
              .next ((s1.setQuery t p.slot (q.setWork r.1)).raise t p.ctx r.2)

/-! ### Tokens sent -/

/-- A slot that streams out on an endpoint. Every beat of the token is fixed at the firing of the SKFW or SKFN: whether a SKIM or SKMG that fires on the
slot afterwards changes beats not yet sent, R214 does not say (DESIGN CHOICE, log 67). So is its tag, the endpoint's at the firing (R341). -/
def State.startEmit (s : State) (t k c n : Nat) (beats : List V512) (free : Bool) : State :=
  s.setQuery t k { s.query t k with emit := some { beats := beats, tag := at8 (s.ctx t c).tags n, ctx := c, ep := n, free := free } }

/-- The query token that SKFW sends (R214, R393). -/
def SkimSlot.forward (q : SkimSlot) : List V512 :=
  let rows := hdrRows q.hdr
  let dim := hdrDim q.hdr
  let qb := (List.range (rows * dim / 32)).map fun k => packLanes 16 (((q.q.map BitVec.toNat).drop (32 * k)).take 32)
  sealToken (hopHeader q.hdr :: qb ++ q.sent.beats rows dim)

/-- SKFW (R214). -/
def execSkfw (f : Slot) (s : State) : Host.Outcome State Fault Refusal :=
  fire (.skfw f) (fun s fr =>
    match forwardSlot (s.tile fr.t) with
    | none => .idle
    | some k =>
      let q := s.query fr.t k
      if q.poison then .stop (skimPoison k)
      else .done (s.startEmit fr.t k fr.c (epOf fr.f.dst) q.forward true)) s

/-- The format of SKFN's values (R211). -/
def skfnFmt (imm : Nat) : Ty := match bits imm 1 2 with
  | 1 => .bf16 | 2 => .f16 | _ => .f32

/-- The result token of SKFN with the flags that its divisions raise (R215). -/
def SkimSlot.result (q : SkimSlot) (ty : Ty) : List V512 × FpFlags :=
  let rows := hdrRows q.hdr
  let dim := hdrDim q.hdr
  let vals := (List.range rows).flatMap fun i => finishRow ty (q.work.row dim i)
  let w := ty.width
  let per := 512 / w
  let body := (List.range ((rows * dim + per - 1) / per)).map fun k => packLanes w (((vals.map (·.bits)).drop (per * k)).take per)
  (sealToken (setField q.hdr 0 8 2 :: body), vals.foldl (fun acc x => acc ||| x.flags) 0)

/-- The partial token of SKFN (R215). -/
def SkimSlot.partialToken (q : SkimSlot) (shard : Nat) : List V512 :=
  let rows := hdrRows q.hdr
  let dim := hdrDim q.hdr
  sealToken (setField q.hdr 0 8 3 :: BitVec.ofNat 512 (shard + rows * 2 ^ 32 + dim * 2 ^ 40) :: q.work.beats rows dim)

/-- SKFN (R215). -/
def execSkfn (f : Slot) (s : State) : Host.Outcome State Fault Refusal :=
  fire (.skfn f) (fun s fr =>
    let imm := fr.f.imm.toNat
    let k := bits imm 0 1
    let q := s.query fr.t k
    if q.poison then .stop (skimPoison k)
    else if bitAt imm 3 then .done (s.startEmit fr.t k fr.c (epOf fr.f.dst) (q.partialToken (bits imm 16 16)) false)
    else
      let r := q.result (skfnFmt imm)
      .done ((s.startEmit fr.t k fr.c (epOf fr.f.dst) r.1 true).raise fr.t fr.c r.2)) s

/-- A slot made empty, its token lost or sent: passes and a merge that are still queued on it go, and no endpoint is drained for it any more (R214, R476,
log 64). -/
def State.emptyQuery (s : State) (t k : Nat) : State :=
  let q := s.query t k
  let gone := (((s.tile t).passes.filter fun p => p.slot == k % 2).filterMap (·.access))
  let s1 := { s with accesses := s.accesses.filter fun a => !gone.contains a.id }
  let s2 := s1.setTile t { ((s1.tile t).setQuery k SkimSlot.clean) with passes := (s1.tile t).passes.filter fun p => p.slot != k % 2 }
  match q.merge with
  | some m => if m.due = 0 then s2 else s2.setTaken t m.ctx m.ep false
  | none => if q.due = 0 then s2 else s2.setTaken t q.drainCtx q.drainEp false

/-- A slot whose last beat has left is done sending: it becomes empty, unless a partial state was sent (R214, R215). -/
def State.settleEmit (s : State) (t k : Nat) : State :=
  let q := s.query t k
  match q.emit with
  | none => s
  | some em =>
    if em.beats.isEmpty && (at8 (s.ctx t em.ctx).outs em.ep).isEmpty then
      if em.free then s.emptyQuery t k else s.setQuery t k { q with emit := none }
    else s

/-- An output endpoint can take one more beat of a run: a place of four, or a beat of a buffer's free slots (R318, R329). -/
def runPlace (s : State) (t c n : Nat) : Bool :=
  let cx := s.ctx t c
  match (at8 cx.word.obind n).buf? with
  | some k => match at16 (s.tile t).buffers k with
    | some b => decide (((b.wc + (at8 cx.outs n).length : Nat) : Int) < b.freeSlots * b.size / 64)
    | none => false
  | none => decide (1 ≤ linkPlaces cx n)

/-- SKIM_BEAT_EMIT (R214, R215): the next beat of a token that a slot streams out finds a place of its endpoint. -/
def execSkimBeatEmit (t k : Nat) (s : State) : Host.Outcome State Fault Refusal :=
  match (s.query t k).emit with
  | none => .next s
  | some em =>
    match em.beats with
    | [] => .next (s.settleEmit t k)
    | b :: rest =>
      if !runPlace s t em.ctx em.ep then .next s
      else
        let s1 := s.setQuery t k { s.query t k with emit := some { em with beats := rest } }
        .next ((s1.sendTagged t em.ctx 0xFF em.ep b 0xFFFF em.tag).settleEmit t k)

/-! ### Merges -/

/-- SKMG (R216). -/
def execSkmg (f : Slot) (s : State) : Host.Outcome State Fault Refusal :=
  fire (.skmg f) (fun s fr =>
    let k := lane 32 fr.b.val 0 % 2
    let q := s.query fr.t k
    let n := epOf fr.f.sa
    match ((s.ctx fr.t fr.c).beats n)[1]? with
    | none => .idle
    | some b1 =>
      if b1.poison then .stop { cls := 6, cause := 2 }
      else if q.poison then .stop (skimPoison k)
      else if beatField b1.payload 0 4 ≠ q.nextShard.toNat then .stop (skimFault 3 k)
      else if beatField b1.payload 4 1 ≠ hdrRows q.hdr ∨ beatField b1.payload 5 2 ≠ hdrDim q.hdr then .stop (skimFault 1 k)
      else
        let next := (q.nextShard.toNat + 1) % 2 ^ 32
        let m : MergeRun :=
          { ctx := fr.c, ep := n, slotNo := fr.slot, beats := [], due := partialBeats (hdrRows q.hdr) (hdrDim q.hdr), poison := false }
        let s1 := (s.setQuery fr.t k { q with merge := some m }).setTaken fr.t fr.c n true
        .done (applyLanes s1 fr (LaneResult.of (List.replicate 16 (next, next != 0))))) s

/-- SKIM_MERGE (R216): a partial token that has been drained whole is merged into the working state of its slot. -/
def execSkimMerge (t k : Nat) (s : State) : Host.Outcome State Fault Refusal :=
  let q := s.query t k
  match q.merge with
  | none => .next s
  | some m =>
    if m.due ≠ 0 then .next s
    else if m.poison || !checkHolds m.beats then .next (s.setQuery t k { q with merge := none, poison := true })
    else
      let dim := hdrDim q.hdr
      let p := Attn.ofBeats (hdrRows q.hdr) dim (m.beats.drop 2)
      let rs := (List.range (hdrRows q.hdr)).map fun i => mergeRow (q.work.row dim i) (p.row dim i)
      let q1 := (q.setWork (Attn.ofRows (rs.map (·.1))))
      .next ((s.setQuery t k { q1 with merge := none, nextShard := q.nextShard + 1 }).raise t m.ctx
        (rs.foldl (fun acc x => acc ||| x.2) 0))

end Sys2Proof.Machine
end

