-- ==== Sys2Proof/Machine/EngineOps.lean ====
section
/-! DEFINITION. Shared operations of the engines (R286-R311): queues and mirrors, appends, the record's checks, accesses of an engine, the combination of
two elements, and block-wise jobs. -/

namespace Sys2Proof.Machine

open Sys2Proof

/-! ### Queues -/

def State.setCmdQueue (s : State) (q : Nat) (x : Queue) : State := { s with queues := SMap.set s.queues q x }

/-- The domain that a queue belongs to (R286). -/
def State.queueDomain (s : State) (q : Nat) : Option Nat := s.cacheDomain (cacheOfQueue q)

/-- TAIL of a queue: the number of the last command appended (R288, R289). -/
def State.tail (s : State) (q : Nat) : Nat := (s.writer (writerOfQueue q)).issued

/-- A queue of a near-DRAM unit (R286). -/
def isNear (q : Nat) : Bool := decide (256 ≤ q)

def State.setSequencer (s : State) (c : Nat) (x : Sequencer) : State := { s with seqs := SMap.set s.seqs c x }

/-- PERMITS of a queue as it stands: 64 minus the commands appended and not completed (R288). -/
def State.permits (s : State) (q : Nat) : Nat := 64 - (s.tail q - (s.cmdQueue q).done)

/-! ### Appending (R288, R289, R295) -/

/-- The sources of the records of a chain: only the first address is known (R295). -/
def chainSources (first : Nat) (wit : W64) (head count : Nat) : List RecSource :=
  (List.range count).map fun k => .chain (if k = 0 then some first else none) wit head

/-- Commands appended to a queue under consecutive numbers. -/
def State.append (s : State) (q : Nat) (cs : List (RecSource × Option Iteration)) : State :=
  let num := s.takeNumbers (writerOfQueue q) cs.length
  let x := num.2.cmdQueue q
  let new : List Command := cs.zipIdx.map fun c =>
    { number := num.1 + c.2, source := c.1.1, iter := c.1.2, record := none, run := none, told := false }
  num.2.setCmdQueue q { x with commands := x.commands ++ new }

/-- A mirror of an element after an append. -/
def State.chargeMirror (s : State) (t q count : Nat) : State :=
  let tl := s.tile t
  s.setTile t { tl with mirrors := tl.mirrors.map fun m =>
    if m.queue == q then { m with tail := m.tail + count, permits := m.permits - count } else m }

/-- A sequencer's mirror after an append. -/
def State.chargeSeq (s : State) (col q count : Nat) : State :=
  let sq := s.sequencer col
  s.setSequencer col { sq with mirrors := sq.mirrors.map fun m => if m.1 == q then (q, m.2.1 + count, m.2.2 - count) else m }

/-- One permit returned to the mirror of a queue's owner (R288). -/
def State.returnPermit (s : State) (q : Nat) : State :=
  let x := s.cmdQueue q
  if !x.attached then s
  else if x.seq then
    let sq := s.sequencer x.owner
    s.setSequencer x.owner { sq with mirrors := sq.mirrors.map fun m => if m.1 == q then (q, m.2.1, min 64 (m.2.2 + 1)) else m }
  else
    let tl := s.tile x.owner
    s.setTile x.owner { tl with mirrors := tl.mirrors.map fun m => if m.queue == q then { m with permits := min 64 (m.permits + 1) } else m }

/-! ### Joins (R299) -/

/-- Every command ahead of the markers of a join has completed, and its request has reached every queue it names. -/
def State.joinDone (s : State) (j : Join) : Bool := j.waiting.isEmpty && j.marks.all fun m => decide (m.2 ≤ (s.cmdQueue m.1).done)

/-- A command stands behind a marker whose join is not done. -/
def State.joinBlocks (s : State) (q number : Nat) : Bool :=
  s.joins.any fun j => !s.joinDone j && j.marks.any fun m => m.1 == q && decide (m.2 < number)

/-- The joins that are done forgotten. -/
def State.dropJoins (s : State) : State := { s with joins := s.joins.filter fun j => !s.joinDone j }

/-! ### The command at the head -/

/-- The command at the head of a queue that may move: its engine belongs to a domain, the queue is not stopped and no marker holds it. -/
def State.headCommand (s : State) (q : Nat) : Option Command :=
  let x := s.cmdQueue q
  match x.commands with
  | [] => none
  | c :: _ => if s.phase != 8 || x.stopped || (s.queueDomain q).isNone || s.joinBlocks q c.number then none else some c

/-- The head command replaced. -/
def State.setHead (s : State) (q : Nat) (c : Command) : State :=
  let x := s.cmdQueue q
  s.setCmdQueue q { x with commands := c :: x.commands.tail }

/-- What the head command's performance stands at, replaced. -/
def State.setRun (s : State) (q : Nat) (r : EngineRun) : State :=
  match (s.cmdQueue q).commands with
  | [] => s
  | c :: _ => s.setHead q { c with run := some r }

/-- The command ends with a status (R65). -/
def State.endWith (s : State) (q : Nat) (r : EngineRun) (st : Nat) : State := s.setRun q { r with status := some st, reading := none, job := none }

/-- The command ends with a status met at an address. -/
def State.endAt (s : State) (q : Nat) (r : EngineRun) (x : Nat × Nat) : State := s.endWith q { r with bad := x.2 } x.1

/-- A command about to be performed. -/
def EngineRun.start (rec : V512) : EngineRun :=
  { record := rec, started := false, phase := 0, step := 0, job := none, reading := none, data := 0, pos := 0, table := 0, item := 0, counts := [],
    peer := 0, fence := [], status := none, stored := false, bad := 0 }

/-- Words of a record (R63). -/
def recWord (rec : V512) (j : Nat) : Nat := lane 64 rec j
def recCmd (rec : V512) : Nat := bits (recWord rec 0) 0 8
def recSrc (rec : V512) : Nat := recWord rec 1
def recDst (rec : V512) : Nat := recWord rec 2
def recLen (rec : V512) : Nat := bits (recWord rec 3) 0 40
def recAux (rec : V512) : Nat := recWord rec 4
def recWit (rec : V512) : W64 := BitVec.ofNat 64 (recWord rec 5)
def recNext (rec : V512) : Nat := recWord rec 6

/-! ### Two elements combined (R218, R304) -/

/-- A VALUE of a sampling pair canonicalised (R218). -/
def pairValue (x : Nat) : Nat :=
  let v := Fmt.f32.decode (x % 2 ^ 32)
  if v.isNan then Fmt.f32.nan else if v.isZero then 0 else x % 2 ^ 32

/-- One VALUE ranks below another; a NaN ranks below −∞ (R218). -/
def pairBelow (a b : Nat) : Bool :=
  let x := Fmt.f32.decode a
  let y := Fmt.f32.decode b
  if y.isNan then false else if x.isNan then true else x.lt y

/-- The pair combination of R218. -/
def gumbelPair (x y : Nat) : Nat :=
  let vx := pairValue x
  let vy := pairValue y
  let px := vx + bits x 32 32 * 2 ^ 32
  let py := vy + bits y 32 32 * 2 ^ 32
  if pairBelow vy vx then px
  else if pairBelow vx vy then py
  else if bits y 32 32 < bits x 32 32 then py else px

/-- A REDOP and RTYPE pair of the table of R304. -/
def reducePair (op : Nat) (ty : Ty) : Bool :=
  let word := ty == .s32 || ty == .z32 || ty == .s64 || ty == .z64
  if op = 7 then ty == .z64
  else if op = 0 then false
  else if op ≤ 3 then word || ty == .f32 || ty == .bf16 || ty == .f16
  else if op ≤ 6 then word
  else false

/-- op(a, b) of two elements of a type (R304). -/
def reduceElement (op : Nat) (ty : Ty) (a b : Nat) : Nat :=
  let fm := Fmt.ofTy ty
  match op with
  | 1 => if ty.isFloat then (fm.add a b).bits else (iAdd ty.width a b).1
  | 2 => if ty.isFloat then (fm.minmax false a b).bits else (iMin ty.width (intOf ty.signed ty.width a) (intOf ty.signed ty.width b)).1
  | 3 => if ty.isFloat then (fm.minmax true a b).bits else (iMax ty.width (intOf ty.signed ty.width a) (intOf ty.signed ty.width b)).1
  | 4 => a &&& b
  | 5 => a ||| b
  | 6 => a ^^^ b
  | _ => gumbelPair a b

/-- op over n bytes of elements. -/
def reduceBytes (op : Nat) (ty : Ty) (n a b : Nat) : Nat :=
  packNat ty.width ((List.range (8 * n / ty.width)).map fun k =>
    reduceElement op ty (bits a (ty.width * k) ty.width) (bits b (ty.width * k) ty.width))

/-! ### The record's checks (R63-R65, R296, R303, R308) -/

/-- The commands of a queue's kind of engine (R64). -/
def cmdListed (q cmd : Nat) : Bool := if isNear q then decide (0x11 ≤ cmd) && decide (cmd ≤ 0x14) else decide (1 ≤ cmd) && decide (cmd ≤ 5)

/-- The fields that a command uses: SRC, DST, PARAM, AUX (R64). -/
def usesFields (cmd : Nat) : Bool × Bool × Bool × Bool :=
  match cmd with
  | 1 => (true, true, true, false)
  | 2 => (true, true, true, true)
  | 3 => (true, true, true, true)
  | 4 => (true, true, true, true)
  | 5 => (true, false, true, true)
  | 0x11 => (false, true, true, false)
  | 0x12 => (true, true, true, false)
  | 0x13 => (true, true, true, true)
  | _ => (false, false, false, false)

/-- The command is unknown to the engine, or its reduction or peers are outside the tables (R64, R304, R306). -/
def badCmd (q : Nat) (rec : V512) : Bool :=
  let cmd := recCmd rec
  let peers := bits (recWord rec 3) 0 16
  !cmdListed q cmd
  || (cmd == 2 && !(match Ty.ofCode (bits (recWord rec 0) 20 4) with
      | some ty => reducePair (bits (recWord rec 0) 16 4) ty
      | none => false))
  || (cmd == 3 && (decide (peers < 2) || decide (256 < peers) || decide (peers ≤ bits (recWord rec 3) 16 16)))

/-- A reserved or unused field is not zero (R63, R64, R296, R307). -/
def reservedSet (inline : Bool) (rec : V512) : Bool :=
  let cmd := recCmd rec
  let w0 := recWord rec 0
  let u := usesFields cmd
  bits w0 9 7 != 0 || bits w0 24 40 != 0 || (cmd != 2 && bits w0 16 8 != 0)
  || (!u.1 && recSrc rec != 0) || (!u.2.1 && recDst rec != 0) || (!u.2.2.1 && recWord rec 3 != 0) || (!u.2.2.2 && recAux rec != 0)
  || (u.2.2.1 && cmd != 3 && cmd != 4 && bits (recWord rec 3) 40 24 != 0) || (cmd == 4 && bits (recWord rec 3) 32 32 != 0)
  || (!bitAt w0 8 && recWord rec 5 != 0) || bits (recWord rec 7) 48 16 != 0
  || (inline && (recWord rec 6 != 0 || bits (recWord rec 7) 32 16 != 0))

/-- An operand, a length or NEXT breaks its rule (R65, R303, R308). -/
def unaligned (inline : Bool) (rec : V512) : Bool :=
  let cmd := recCmd rec
  let len := cmd == 1 || cmd == 2 || cmd == 5 || decide (0x11 ≤ cmd)
  let aux := if cmd = 2 then 16 else if cmd = 3 ∨ cmd = 4 then 64 else if cmd = 5 then 32 else if cmd = 0x13 then 8 else 1
  recSrc rec % 16 != 0 || recDst rec % 16 != 0 || recAux rec % aux != 0 || (len && recLen rec % 16 != 0)
  || (!inline && recNext rec % 64 != 0)

/-- The status that a record's own fields give it, in ascending order of STATUS; none when it may be performed. -/
def recordStatus (q : Nat) (inline : Bool) (rec : V512) : Option Nat :=
  if badCmd q rec then some 1 else if reservedSet inline rec then some 2 else if unaligned inline rec then some 3 else none

/-! ### Accesses of an engine (R291-R293) -/

/-- A tile near a queue's engine: the first of its column, or of its sector. -/
def tileOfQueue (q : Nat) : Nat :=
  if q < 256 then tileAt (6 * (q / 4 % 8)) (6 * (q / 4 / 8)) 0 else (lathTiles (q - 256)).headD 0

/-- An access of a queue's engine. -/
def engineAccess (s : State) (q number : Nat) (pieces : List Piece) : Access :=
  { Access.blank s (tileOfQueue q) 0xFF 0xFF with
    writer := writerOfQueue q, origin := .queue q, number := number, fence := 0, asid := (s.cmdQueue q).asid, cache := cacheOfQueue q,
    pieces := pieces }

/-- A page translated for an engine, or the status that the command ends with (R292, R308). -/
def enginePage (s : State) (q va : Nat) (write near : Bool) : Except (Nat × Nat) Leaf × State :=
  let x := translate s (cacheOfQueue q) ((s.queueDomain q).getD 0) (s.cmdQueue q).asid va
  match x.1 with
  | .fault _ => (.error (4, va), x.2)
  | .poison _ => (.error (6, va), x.2)
  | .leaf l =>
    let pa := l.pa va
    if near && !(l.tier == 2 && bits pa 33 4 == q - 256) then (.error (4, va), x.2)
    else if !l.e || (if write then !l.w else !l.r) || l.tier == 8 || l.tier == 9 then (.error (5, va), x.2)
    else (.ok l, x.2)

/-- The granules of a range of bytes, by virtual address. -/
def granulesOf (va len : Nat) : List Nat := if len = 0 then [] else (List.range ((va % 16 + len + 15) / 16)).map fun k => va / 16 * 16 + 16 * k

/-- Pieces that read whole granules, each under a result number. -/
def readPieces (q : Nat) (near : Bool) : List (Nat × Nat) → State → Except (Nat × Nat) (List Piece) × State
  | [], s => (.ok [], s)
  | (k, va) :: rest, s =>
    match enginePage s q va false near with
    | (.error e, s1) => (.error e, s1)
    | (.ok l, s1) =>
      match readPieces q near rest s1 with
      | (.error e, s2) => (.error e, s2)
      | (.ok ps, s2) =>
        (.ok ({ gran := l.pa va / 16, va := va, key := s.keyIdent l, mt := l.mt, op := .load [{ lane := k, off := 0, width := 128 }] } :: ps), s2)

/-- Pieces that write len bytes of data from va, each granule set full (R293). -/
def writePieces (q : Nat) (near : Bool) (va len data : Nat) : List Nat → State → Except (Nat × Nat) (List Piece) × State
  | [], s => (.ok [], s)
  | g :: rest, s =>
    match enginePage s q g true near with
    | (.error e, s1) => (.error e, s1)
    | (.ok l, s1) =>
      match writePieces q near va len data rest s1 with
      | (.error e, s2) => (.error e, s2)
      | (.ok ps, s2) =>
        let lo := max va g
        let hi := min (va + len) (g + 16)
        let m := (2 ^ (8 * (hi - lo)) - 1) * 2 ^ (8 * (lo - g))
        let d := bits data (8 * (lo - va)) (8 * (hi - lo)) * 2 ^ (8 * (lo - g))
        (.ok ({ gran := l.pa g / 16, va := g, key := s.keyIdent l, mt := l.mt,
                op := .store (BitVec.ofNat 128 d) (BitVec.ofNat 128 m) true false } :: ps), s2)

/-- Ranges read by the head command: granule k of range r under result number 16r + k; or the command ends with a status. -/
def State.engineRead (s : State) (q : Nat) (near : Bool) (r : EngineRun) (ranges : List (Nat × Nat)) : State :=
  let ks := ranges.zipIdx.flatMap fun x => (granulesOf x.1.1 x.1.2).zipIdx.map fun g => (16 * x.2 + g.2, g.1)
  match readPieces q near ks s with
  | (.error st, s1) => s1.endAt q r st
  | (.ok ps, s1) =>
    let a := engineAccess s1 q 0 ps
    (s1.issue a).setRun q { r with reading := some a.id }

/-- Bytes written by the head command under its number (R289, R291); or the command ends with a status. -/
def State.engineWrite (s : State) (q number : Nat) (near : Bool) (r : EngineRun) (va len data : Nat) : State :=
  match writePieces q near va len data (granulesOf va len) s with
  | (.error st, s1) => s1.endAt q r st
  | (.ok ps, s1) => (s1.issue (engineAccess s1 q number ps)).setRun q r

/-- What a finished read brought, and the state without it. -/
def State.takeRead (s : State) (id : Nat) : Except (Nat × Nat) Nat × State :=
  let s1 := { s with accesses := s.accesses.filter fun a => a.id != id }
  match s.accesses.find? fun a => a.id = id with
  | none => (.ok 0, s1)
  | some a => match a.poisonAt with
    | some va => (.error (6, va), s1)
    | none => (.ok (passImage a), s1)

/-- An access of the queue's engine is not performed. -/
def State.engineBusy (s : State) (q : Nat) : Bool := s.accesses.any fun a => a.origin == .queue q && !a.pieces.isEmpty

/-! ### Block-wise work (R304) -/

/-- The bytes of an operand that are at hand for a block. -/
def Bytes'.block (b : Bytes') (read : Nat) (pos n : Nat) : Nat :=
  match b with
  | .mem _ => read
  | .val x => bits x (8 * pos) (8 * n)

/-- The range of a block of an operand that lies in memory; the empty range otherwise. -/
def Bytes'.range (b : Bytes') (pos n : Nat) : Nat × Nat :=
  match b with
  | .mem va => (wrap 64 ((va : Int) + pos), n)
  | .val _ => (0, 0)

/-- What a block's write stores. -/
def Job.out (j : Job) (n read : Nat) : Nat :=
  let a := j.a.block (bits read 0 2048) j.pos n
  match j.op with
  | none => bits a 0 (8 * n)
  | some (op, ty) => reduceBytes op ty n a (j.b.block (read / 2 ^ 2048) j.pos n)

/-- One move of a job: the next block is read whole, or what was read is written (R304). -/
def State.jobMove (s : State) (q number : Nat) (near : Bool) (r : EngineRun) (j : Job) : State :=
  if j.len ≤ j.pos then s.setRun q { r with job := none, phase := j.next }
  else
    let n := min 256 (j.len - j.pos)
    let write (s1 : State) (read : Nat) : State :=
      s1.engineWrite q number near { r with reading := none, job := some { j with pos := j.pos + n } } (wrap 64 ((j.dst : Int) + j.pos)) n (j.out n read)
    match r.reading with
    | some id => match s.takeRead id with
      | (.error st, s1) => s1.endAt q r st
      | (.ok x, s1) => write s1 x
    | none =>
      let ranges := [j.a.range j.pos n, j.b.range j.pos n]
      if ranges.all fun x => x.2 == 0 then write s 0 else s.engineRead q near r ranges

/-- One move of a gathering read: `len` bytes from va come to hand in blocks of at most n bytes, in ascending order; then the command goes on at a
phase. -/
def State.gather (s : State) (q : Nat) (r : EngineRun) (va len n next : Nat) : State :=
  let k := min n (len - r.pos)
  match r.reading with
  | some id => match s.takeRead id with
    | (.error st, s1) => s1.endAt q r st
    | (.ok x, s1) => s1.setRun q { r with reading := none, data := r.data + bits x 0 (8 * k) * 2 ^ (8 * r.pos), pos := r.pos + k }
  | none =>
    if k = 0 then s.setRun q { r with phase := next }
    else s.engineRead q false r [(wrap 64 ((va : Int) + r.pos), k)]

end Sys2Proof.Machine
end

