-- ==== Sys2Proof/Machine/Image.lean ====
section
/-! DEFINITION. The configuration image (R83-R94): its records, and every check of the loader with the status and location of R74 and R75. -/

namespace Sys2Proof.Machine

open Sys2Proof

/-! ### Bytes and records -/

/-- n bytes from byte k. -/
def StoredImage.at (im : StoredImage) (k n : Nat) : Nat := bits im.val (8 * k) (8 * n)

/-- A port record (R89). -/
structure PortRec where
  port : Nat
  role : Nat
  x : Nat
  y : Nat
  z : Nat
  dir : Nat
  vc : Nat
  rsv : Nat
  deriving DecidableEq, Repr

/-- A tile record (R90): the raw context words, slot words by context, chain and buffer descriptors. -/
structure TileRec where
  off : Nat
  x : Nat
  y : Nat
  z : Nat
  chainMask : Nat
  bufMask : Nat
  rsv : Nat
  bytes : Nat
  ctxs : List Nat
  slots : List (List SlotWord)
  chains : List (Nat × List Nat)
  bufs : List (Nat × Nat)
  deriving DecidableEq, Repr

/-- A router record (R91). -/
structure RouterRec where
  x : Nat
  y : Nat
  z : Nat
  net : Nat
  count : Nat
  rsv : Nat
  words : List Nat
  deriving DecidableEq, Repr

/-- A data record (R92). -/
structure DataRec where
  tier : Nat
  x : Nat
  y : Nat
  z : Nat
  flags : Nat
  rsv : Nat
  offset : Nat
  length : Nat
  val : Nat
  deriving DecidableEq, Repr

/-- An image with its header's fields (R88). -/
structure Image where
  lath : Bool
  signed : Bool
  level : Nat
  w : Nat
  h : Nat
  layers : Nat
  body : Nat
  ports : List PortRec
  tiles : List TileRec
  routers : List RouterRec
  data : List DataRec
  deriving DecidableEq, Repr

/-- ⌈SLOTS/4⌉ × 4 (R56). -/
def slotWords (word : Nat) : Nat := (bits word 2 5 + 3) / 4 * 4

/-- A tile record at an offset. -/
def tileRecAt (im : StoredImage) (off : Nat) : TileRec :=
  let ctxs := (List.range 8).map fun k => im.at (off + 16 + 32 * k) 32
  let sizes := ctxs.map fun w => if bitAt w 0 then slotWords w else 0
  let base (c : Nat) : Nat := off + 272 + 16 * (sizes.take c).foldl (· + ·) 0
  let cm := im.at (off + 3) 1
  let bm := im.at (off + 4) 2
  let ks := (List.range 4).filter (bitAt cm)
  let bs := (List.range 16).filter (bitAt bm)
  let coff := base 8
  let boff := coff + 48 * ks.length
  { off := off, x := im.at off 1, y := im.at (off + 1) 1, z := im.at (off + 2) 1, chainMask := cm, bufMask := bm,
    rsv := im.at (off + 6) 2 + im.at (off + 12) 4, bytes := im.at (off + 8) 4, ctxs := ctxs,
    slots := (List.range 8).map fun c => (List.range (sizes.getD c 0)).map fun k => BitVec.ofNat 128 (im.at (base c + 16 * k) 16),
    chains := ks.zipIdx.map fun x => (x.1, (List.range 6).map fun j => im.at (coff + 48 * x.2 + 8 * j) 8),
    bufs := bs.zipIdx.map fun x => (x.1, im.at (boff + 16 * x.2) 16) }

/-- Length that a tile record's contents take. -/
def TileRec.size (t : TileRec) : Nat :=
  272 + 16 * (t.slots.map List.length).foldl (· + ·) 0 + 48 * t.chains.length + 16 * t.bufs.length

def routerRecAt (im : StoredImage) (off : Nat) : RouterRec :=
  let n := im.at (off + 4) 1
  { x := im.at off 1, y := im.at (off + 1) 1, z := im.at (off + 2) 1, net := im.at (off + 3) 1, count := n, rsv := im.at (off + 5) 3,
    words := (List.range n).map fun k => im.at (off + 8 + 8 * k) 8 }

def dataRecAt (im : StoredImage) (off : Nat) : DataRec :=
  let n := im.at (off + 12) 4
  { tier := im.at off 1, x := im.at (off + 1) 1, y := im.at (off + 2) 1, z := im.at (off + 3) 1, flags := im.at (off + 4) 1,
    rsv := im.at (off + 5) 3, offset := im.at (off + 8) 4, length := n, val := im.at (off + 16) n }

/-- A list of records of one kind, each of the length that `next` gives, from an offset; the offset after them. -/
def recordsAt {α : Type} (get : Nat → α) (size : α → Nat) : Nat → Nat → List α × Nat
  | 0, off => ([], off)
  | n + 1, off =>
    let r := get off
    let y := recordsAt get size n (off + size r)
    (r :: y.1, y.2)

/-- The header's counts: tiles, routers, data records, ports. -/
def StoredImage.counts (im : StoredImage) : Nat × Nat × Nat × Nat := (im.at 12 2, im.at 14 2, im.at 16 2, im.at 18 1)

/-- The counts lie in the ranges of R88, so that the records can be read. -/
def StoredImage.countsOk (im : StoredImage) : Bool :=
  let c := im.counts
  decide (1 ≤ c.1) && decide (c.1 ≤ 4608) && decide (c.2.1 ≤ 18432) && decide (c.2.2.2 ≤ 16)

/-- The image's records, and the offset at which the last one ends. -/
def StoredImage.parse (im : StoredImage) : Image × Nat :=
  let c := im.counts
  let ports := (List.range c.2.2.2).map fun k =>
    let o := 128 + 8 * k
    { port := im.at o 1, role := im.at (o + 1) 1, x := im.at (o + 2) 1, y := im.at (o + 3) 1, z := im.at (o + 4) 1,
      dir := im.at (o + 5) 1, vc := im.at (o + 6) 1, rsv := im.at (o + 7) 1 : PortRec }
  let t := recordsAt (tileRecAt im) TileRec.size c.1 (128 + 8 * c.2.2.2)
  let r := recordsAt (routerRecAt im) (fun r => 8 + 8 * r.words.length) c.2.1 t.2
  let d := recordsAt (dataRecAt im) (fun d => 16 + d.length) c.2.2.1 r.2
  ({ lath := bitAt (im.at 6 1) 1, signed := bitAt (im.at 6 1) 0, level := im.at 8 1, w := im.at 9 1, h := im.at 10 1,
     layers := im.at 11 1, body := im.at 20 4, ports := ports, tiles := t.1, routers := r.1, data := d.1 }, d.2)

/-- The 3,309 bytes of the signature (R93). -/
def StoredImage.signature (im : StoredImage) : Nat := im.at (128 + im.at 20 4 + 16) 3309

/-- The bytes that the identifier and the signature cover (R93). -/
def StoredImage.signedBytes (im : StoredImage) : List Nat := (List.range (128 + im.at 20 4)).map fun k => im.at k 1

/-! ### Failures -/

/-- A failed check with its location (R75): 0xFFFF, 0xFF and 0xFF for what has none. -/
structure LoadFail where
  status : LoadStatus
  tile : Nat
  ctx : Nat
  slot : Nat
  deriving DecidableEq, Repr

/-- Rank of a failure: the lowest code, then the whole image, then the lowest tile, context and slot (R75). -/
def LoadFail.rank (f : LoadFail) : Nat :=
  ((f.status.code * 2 ^ 16 + (f.tile + 1) % 2 ^ 16) * 256 + f.ctx) * 256 + f.slot

/-- The failure that is reported. -/
def firstFail (fs : List LoadFail) : Option LoadFail :=
  fs.foldl (fun acc f => match acc with
    | none => some f
    | some g => if f.rank < g.rank then some f else some g) none

/-- A failure of the image as a whole. -/
def wholeFail (st : LoadStatus) : LoadFail := ⟨st, 0xFFFF, 0xFF, 0xFF⟩

/-- Failures where a check fails. -/
def failIf (b : Bool) (f : LoadFail) : List LoadFail := if b then [f] else []

/-- Relative tile index of an element site, or of the tile whose pad stands at a pad site (R13, R14, R75). -/
def relTile (x y z : Nat) : Nat :=
  if (x + y) % 2 = 0 then z * 1152 + y * 24 + x / 2 else z * 1152 + y * 24 + (x + 47) % 48 / 2

/-! ### Header and records (LOAD_BAD_HEADER, LOAD_UNIT_ABSENT) -/

/-- Sites of the image's region (R84): its extent in x and y. -/
def Image.extent (g : Image) : Nat × Nat :=
  match g.level with
  | 2 => (6, 6)
  | 3 => (12, 12)
  | 4 => (12 * g.w, 12 * g.h)
  | 5 => (48, 48)
  | _ => (1, 1)

/-- A site lies in the image's region. -/
def Image.inRegion (g : Image) (x y z : Nat) : Bool :=
  decide (x < g.extent.1) && decide (y < g.extent.2) && decide (z < if g.level ≤ 1 then 1 else 4)

/-- A site is one that a record may name. -/
def Image.siteOk (g : Image) (x y z : Nat) : Bool := g.inRegion x y z && decide (z < g.layers)

/-- A lath site and its neighbours (R85). -/
def lathSite (x y z : Nat) : Bool := z == 0 && y % 12 == 0 && decide (x % 12 ≤ 3)

/-- Limits of the number of tile records (R84). -/
def Image.tilesOk (g : Image) : Bool :=
  match g.level with
  | 2 => decide (g.tiles.length ≤ 72)
  | 3 => decide (g.tiles.length ≤ 288)
  | 4 => true
  | 5 => true
  | _ => g.tiles.length == 1

/-- Keys of records in image order strictly rise. -/
def rising (ks : List Nat) : Bool := (ks.zip ks.tail).all fun p => decide (p.1 < p.2)

def siteKey (x y z : Nat) : Nat := (z * 256 + y) * 256 + x
def DataRec.key (d : DataRec) : Nat := (d.tier * 2 ^ 24 + siteKey d.x d.y d.z) * 2 ^ 32 + d.offset

/-- Two data records overlap (R92): pads by tile, vaults by column. -/
def DataRec.overlaps (a b : DataRec) : Bool :=
  a.tier == b.tier
  && (if a.tier = 0 then siteKey a.x a.y a.z == siteKey b.x b.y b.z else a.x / 6 == b.x / 6 && a.y / 6 == b.y / 6)
  && decide (a.offset < b.offset + b.length) && decide (b.offset < a.offset + a.length)

/-- A data record obeys R92, whose reserved bytes are zero, and its level. DESIGN CHOICE (log 58): FLAGS bits [7:1], to which R92 gives no meaning, are refused as a
breach of R92. -/
def Image.dataOk (g : Image) (d : DataRec) : Bool :=
  decide (d.tier ≤ 1) && (d.x + d.y) % 2 == 0 && g.siteOk d.x d.y d.z && decide (d.flags ≤ 1) && d.rsv == 0
  && d.offset % 16 == 0 && d.length % 16 == 0 && d.length != 0
  && decide (d.offset + d.length ≤ if d.tier = 0 then 2 ^ 18 else 2 ^ 25) && (d.tier == 0 || decide (2 ≤ g.level))
  && (g.lath || g.level < 3 || d.tier == 1 || !lathSite d.x d.y d.z)

/-- The checks of R88 on the header alone. -/
def headerFails (im : StoredImage) : List LoadFail :=
  let level := im.at 8 1
  let dims (v : Nat) : Bool := if level = 4 then decide (1 ≤ v) && decide (v ≤ 4) else v == 0
  failIf (decide (im.len < 128) || im.at 0 4 != 0x49434A46 || im.at 4 2 != 1 || decide (5 < level) || !dims (im.at 9 1)
      || !dims (im.at 10 1) || decide (im.at 11 1 < 1) || decide (4 < im.at 11 1) || !im.countsOk
      || im.at 20 4 % 8 != 0 || im.at 24 4 != (if bitAt (im.at 6 1) 0 then 3328 else 0)
      || im.len != 128 + im.at 20 4 + im.at 24 4) (wholeFail .badHeader)

/-- The checks of the records' order, lengths and places (R84, R85, R87-R92, R94). DESIGN CHOICE (log 58): records out of order or duplicated, and router records that
the level forbids, are reported as failures of the image as a whole; a port record with ROLE above 1, DIR above 5 or VC above 31 and a CHAIN_MASK above 0xF have
a bad header; LAYERS counts the z of tile, router and data records, and no port record's. -/
def recordFails (im : StoredImage) (g : Image) (stop : Nat) : List LoadFail :=
  let bad (x y z : Nat) : LoadFail := ⟨.badHeader, relTile x y z, 0xFF, 0xFF⟩
  let lathBlock := !g.lath && decide (3 ≤ g.level)
  failIf (stop != 128 + g.body || !g.tilesOk
      || !rising (g.tiles.map fun t => siteKey t.x t.y t.z)
      || !rising (g.routers.map fun r => siteKey r.x r.y r.z * 256 + r.net)
      || !rising (g.data.map DataRec.key)
      || (decide (g.level ≤ 1) && !g.routers.isEmpty)
      || g.layers != ((g.tiles.map (·.z) ++ g.routers.map (·.z) ++ g.data.map (·.z)).foldl max 0) + 1
      || !(g.ports.map (·.port)).Nodup
      || g.ports.any fun p => decide (15 < p.port) || decide (1 < p.role) || !g.siteOk p.x p.y p.z || decide (5 < p.dir)
           || decide (31 < p.vc)) (wholeFail .badHeader)
  ++ g.tiles.flatMap (fun t => failIf ((t.x + t.y) % 2 != 0 || !g.siteOk t.x t.y t.z || t.bytes != t.size
       || decide (15 < t.chainMask) || (lathBlock && lathSite t.x t.y t.z)) (bad t.x t.y t.z))
  ++ g.routers.flatMap (fun r => failIf (!g.siteOk r.x r.y r.z || decide (1 < r.net) || decide (r.count < 1)
       || decide (16 < r.count) || (lathBlock && lathSite r.x r.y r.z)) (bad r.x r.y r.z))
  ++ g.data.flatMap (fun d => failIf (!g.dataOk d || (g.data.filter fun e => d.overlaps e).length != 1) (bad d.x d.y d.z))
  ++ failIf (decide (im.len < stop)) (wholeFail .badHeader)

/-! ### Context words and bindings (R52-R56, R86) -/

/-- A data binding of a context word (R53). -/
def bindField (word base n : Nat) : Nat := bits word (base + 11 * n) 11

/-- A binding that is none of R53's. -/
def bindMalformed (b : Nat) : Bool :=
  let dir := bits b 5 3
  let vc := bits b 0 5
  match bits b 8 3 with
  | 0 => b != 0
  | 1 => decide (5 < dir)
  | 2 => dir != 0 || decide (15 < vc)
  | 3 => dir != 0 || vc != 0
  | 4 => decide (5 < dir)
  | _ => true

/-- A well-formed binding. -/
def bindOf (b : Nat) : Bind :=
  let vc : Fin 32 := ⟨bits b 0 5 % 32, Nat.mod_lt _ (by decide)⟩
  match bits b 8 3 with
  | 1 => .link ⟨bits b 5 3 % 6, Nat.mod_lt _ (by decide)⟩ vc
  | 2 => .buffer ⟨bits b 0 4 % 16, Nat.mod_lt _ (by decide)⟩
  | 3 => .sequencer
  | 4 => .ring ⟨bits b 5 3 % 6, Nat.mod_lt _ (by decide)⟩ vc
  | _ => .unbound

/-- A condition binding (R54). -/
def condOf (b : Nat) : Option (Fin 16) := if bitAt b 4 then some ⟨bits b 0 4 % 16, Nat.mod_lt _ (by decide)⟩ else none

/-- A context word, decoded (R52). -/
def ctxWordOf (w : Nat) : CtxWord :=
  { valid := bitAt w 0, priv := bitAt w 1, slots := bits w 2 5,
    rmode := match bits w 7 3 with | 1 => .rtz | 2 => .rup | 3 => .rdn | 4 => .rna | _ => .rne,
    sat := bitAt w 10, vctBase := bits w 11 10,
    ibind := Vector.ofFn fun k : Fin 8 => bindOf (bindField w 32 k.val), obind := Vector.ofFn fun k : Fin 8 => bindOf (bindField w 120 k.val),
    cibind := Vector.ofFn fun k : Fin 4 => condOf (bits w (208 + 5 * k.val) 5), cobind := Vector.ofFn fun k : Fin 4 => condOf (bits w (228 + 5 * k.val) 5) }

/-- The site that a port of a site leads to; none out of the layer stack or the plane. -/
def neighbour (x y z dir : Nat) : Option (Nat × Nat × Nat) :=
  match dir with
  | 0 => if y < 47 then some (x, y + 1, z) else none
  | 1 => if x < 47 then some (x + 1, y, z) else none
  | 2 => if 0 < y then some (x, y - 1, z) else none
  | 3 => if 0 < x then some (x - 1, y, z) else none
  | 4 => if z < 3 then some (x, y, z + 1) else none
  | _ => if 0 < z then some (x, y, z - 1) else none

/-- Where an image is loaded: the layers of the fabric, and the width and height in sites of the domain that it is for (R2, R84). -/
structure Place' where
  fab : Nat
  w : Nat
  h : Nat
  deriving DecidableEq, Repr

/-- A port of a site leads out of the group in which the image is placed, which at level 4 is the domain (R56, R58, R84). -/
def Image.leaves (g : Image) (pl : Place') (x y z dir : Nat) : Bool :=
  if g.level ≤ 1 then true
  else match neighbour x y z dir with
    | none => true
    | some (a, b, c) =>
      let ext := if g.level = 4 then (max pl.w g.extent.1, max pl.h g.extent.2) else g.extent
      !(decide (a < ext.1) && decide (b < ext.2) && decide (c < pl.fab))

/-- A declared port record at a site, direction, channel and role (R86). -/
def Image.declared (g : Image) (x y z dir vc role : Nat) : Bool :=
  g.ports.any fun p => p.x == x && p.y == y && p.z == z && p.dir == dir && p.vc == vc && p.role == role

/-- A link binding leaves the region without a declared port. -/
def Image.bindEscapes (g : Image) (pl : Place') (t : TileRec) (role : Nat) (b : Bind) : Bool :=
  match b with
  | .link dir vc => g.leaves pl t.x t.y t.z dir.val && !g.declared t.x t.y t.z dir.val vc.val role
  | _ => false

/-- Two input endpoints of one context bind the same link and channel or ring and channel (R56). -/
def inputClash (cw : CtxWord) : Bool :=
  (List.range 8).any fun i => (List.range 8).any fun j =>
    i != j && (match (cw.ibind[i % 8]'(Nat.mod_lt _ (by decide))), (cw.ibind[j % 8]'(Nat.mod_lt _ (by decide))) with
      | .link p v, .link q w => p == q && v == w
      | .ring p v, .ring q w => p == q && v == w
      | _, _ => false)

/-- The endpoints that a slot word names: inputs, outputs, condition inputs, condition outputs (R56). -/
def slotEndpoints (f : Slot) : List Opnd :=
  let q (c : QCond) : List Opnd := match c with
    | .beats n _ => [.i n] | .tag n _ => [.i n] | .free n _ => [.o n] | .none => []
  [f.dst, f.sa, f.sb, f.sc] ++ q f.q0 ++ q f.q1
    ++ ((List.range 8).filter fun k => f.adv.getLsbD k).map fun k => .i ⟨k % 8, Nat.mod_lt _ (by decide)⟩

/-- A named endpoint is unbound (R56). -/
def unboundOpnd (cw : CtxWord) (o : Opnd) : Bool :=
  match o with
  | .i n => (cw.ibind[n.val % 8]'(Nat.mod_lt _ (by decide))) == .unbound
  | .o n => (cw.obind[n.val % 8]'(Nat.mod_lt _ (by decide))) == .unbound
  | .ci n => (cw.cibind[n.val % 4]'(Nat.mod_lt _ (by decide))).isNone
  | .co n => (cw.cobind[n.val % 4]'(Nat.mod_lt _ (by decide))).isNone
  | _ => false

/-- The descriptor numbers of the buffer bindings of a list. -/
def bufBindings (bs : List Bind) : List Nat := bs.filterMap Bind.buf?

/-- The control channels that a context's condition inputs bind, or its condition outputs (R54). -/
def CtxWord.condsIn (cw : CtxWord) : List Nat := cw.cibind.toList.filterMap fun o => o.map Fin.val
def CtxWord.condsOut (cw : CtxWord) : List Nat := cw.cobind.toList.filterMap fun o => o.map Fin.val

/-- Values of a list that occur more than once. -/
def hasRepeats (xs : List Nat) : Bool := !decide xs.Nodup

/-- A list repeats a value of its own or of the lists before it. -/
def repeatsIn (before : List (List Nat)) (own : List Nat) : Bool := hasRepeats own || own.any fun k => before.any fun b => b.contains k

/-- The checks of one context of a tile record that concern its word, and the words of the lower contexts (R52-R56, R94, R302, R327, R330; log 58). -/
def ctxFails (g : Image) (pl : Place') (t : TileRec) (tile c w : Nat) : List LoadFail :=
  let f (st : LoadStatus) : LoadFail := ⟨st, tile, c, 0xFF⟩
  let cw := ctxWordOf w
  let lower := ((t.ctxs.take c).filter fun x => bitAt x 0).map ctxWordOf
  let n := bits w 2 5
  let malformed := (List.range 8).any fun k => bindMalformed (bindField w 32 k) || bindMalformed (bindField w 120 k)
  let cmal := (List.range 4).any fun k =>
    let a := bits w (208 + 5 * k) 5
    let b := bits w (228 + 5 * k) 5
    (!bitAt a 4 && a != 0) || (!bitAt b 4 && b != 0)
  failIf (bits w 21 11 != 0 || bits w 248 8 != 0) (f .reservedBit)
  ++ failIf (cw.priv && !g.lath) (f .privilege)
  ++ failIf (decide (16 < n)) (f .slots)
  ++ if !bitAt w 0 then failIf (w != 0) (f .context)
  else
    failIf (n == 0 || decide (4 < bits w 7 3) || lower.head?.any fun x => x.vctBase != cw.vctBase) (f .context)
    ++ failIf (malformed || cmal || inputClash cw || cw.obind.toList.contains .sequencer
        || (bufBindings (cw.ibind.toList ++ cw.obind.toList)).any (fun k => !bitAt t.bufMask k)
        || repeatsIn (lower.map CtxWord.condsIn) cw.condsIn || repeatsIn (lower.map CtxWord.condsOut) cw.condsOut
        || (List.range 8).any fun k =>
             g.bindEscapes pl t 0 (cw.ibind[k % 8]'(Nat.mod_lt _ (by decide)))
             || g.bindEscapes pl t 1 (cw.obind[k % 8]'(Nat.mod_lt _ (by decide)))) (f .bind)

/-- A privileged encoding (R69). -/
def privileged (i : Instr) : Bool :=
  match toCode i with
  | some (opc, opSub, _) => match opRow opc opSub with
    | some row => row.priv
    | none => false
  | none => false

/-- A stencil instruction (R73). -/
def stencilInstr (i : Instr) : Bool :=
  match toCode i with
  | some (opc, _, _) => opc == 0x70
  | none => false

/-- A CHN names a descriptor with no valid stage (R62). -/
def chnWithoutStage (t : TileRec) (i : Instr) : Bool :=
  match i with
  | .chn f => match t.chains.find? fun k => k.1 == f.imm.toNat % 4 with
    | some k => !bitAt (k.2.getD 0 0) 0
    | none => true
  | _ => false

/-- The binding of an input or output endpoint that an operand names. -/
def inBindOf (cw : CtxWord) (o : Opnd) : Bind :=
  match o with
  | .i n => cw.ibind[n.val % 8]'(Nat.mod_lt _ (by decide))
  | _ => .unbound
def outBindOf (cw : CtxWord) (o : Opnd) : Bind :=
  match o with
  | .o n => cw.obind[n.val % 8]'(Nat.mod_lt _ (by decide))
  | _ => .unbound

/-- An ADV bit names an endpoint that is bound to a circular buffer (R50). -/
def advOfBuffer (cw : CtxWord) (f : Slot) : Bool :=
  (List.range 8).any fun k => f.adv.getLsbD k && (cw.ibind[k % 8]'(Nat.mod_lt _ (by decide))).buf?.isSome

/-- An endpoint bound to a kind that its instruction does not take (R337, R341). -/
def kindRefused (cw : CtxWord) (i : Instr) : Bool :=
  match i with
  | .advc f => (inBindOf cw f.sa).buf?.isNone
  | .advp f => (outBindOf cw f.dst).buf?.isNone
  | .tagset f => (match outBindOf cw f.dst with | .link _ _ => false | .ring _ _ => false | _ => true)
  | _ => false

/-- SLOTS of a descriptor of a tile record (R327); none where it has no such descriptor. -/
def TileRec.slotsOf (t : TileRec) (k : Nat) : Option Nat := (t.bufs.find? fun b => b.1 == k).map fun b => bits b.2 18 11

/-- A parameter above the limit that the endpoint's binding sets (R337, R339). -/
def limitPassed (t : TileRec) (cw : CtxWord) (i : Instr) : Bool :=
  let above (b : Bind) (n : Nat) : Bool := (b.buf?.bind t.slotsOf).any fun k => decide (k < n)
  match i with
  | .advc f => above (inBindOf cw f.sa) (bits f.imm.toNat 0 11)
  | .advp f => above (outBindOf cw f.dst) (bits f.imm.toNat 0 11)
  | .qpeek f => (inBindOf cw f.sa).buf?.isNone && decide (64 ≤ f.imm.toNat)
  | _ => false

/-- The checks of one slot word in its place (R37-R72, R50, R56, R62, R73, R337, R339, R341). -/
def slotFails (v : Variant) (t : TileRec) (tile c k : Nat) (cw : CtxWord) (word : SlotWord) : List LoadFail :=
  let f (st : LoadStatus) : LoadFail := ⟨st, tile, c, k⟩
  if cw.slots ≤ k then failIf (bits word.toNat 94 2 != 0) (f .reservedBit) ++ failIf (word != 0) (f .slots)
  else
    (match decode word with
     | .error st => [f st]
     | .ok _ => [])
    ++ match looseDecode word with
    | none => []
    | some i =>
      failIf (stencilInstr i && !v.stencil) (f .unitAbsent)
      ++ failIf (privileged i && !cw.priv) (f .privilege)
      ++ failIf (limitPassed t cw i) (f .badOperand)
      ++ failIf (kindRefused cw i || match toCode i with
          | some (_, _, sl) => (slotEndpoints sl).any (unboundOpnd cw) || advOfBuffer cw sl
          | none => false) (f .bind)
      ++ failIf (chnWithoutStage t i) (f .badStage)

/-! ### Element-wide checks: buffers, chains, clashes between contexts -/

/-- A circular-buffer descriptor that R327 refuses. -/
def bufMalformed (d : Nat) : Bool :=
  let base := bits d 0 18
  let n := bits d 18 11
  let sz := bits d 29 3
  base % 64 != 0 || n == 0 || decide (1024 < n) || sz == 7 || decide (2 ^ 18 < base + n * (64 * 2 ^ sz))

/-- The operations a stage may use (R61). -/
def stageOps : List (Nat × List Nat) :=
  [(0x10, [0, 1, 2, 3, 4, 5]), (0x11, [0, 3]), (0x13, [0, 1, 2, 3]), (0x14, [0, 1, 2, 3, 4]), (0x15, [0, 1, 2, 3]),
   (0x20, [0, 1, 2, 3, 4, 5, 6, 7]), (0x21, [0, 1, 2, 3]), (0x23, [0, 1, 2, 3])]

/-- A stage's operation is allowed (R61). -/
def stageOpOk (opc opSub : Nat) : Bool :=
  if opc = 0x24 then decide (1 ≤ opSub) && decide (opSub ≤ 14)
  else stageOps.any fun r => r.1 == opc && r.2.contains opSub

/-- Which of A, B and C an operation of a stage uses (R61). -/
def stageUses (opc opSub : Nat) : Bool × Bool × Bool :=
  match opRow opc opSub with
  | some row => (row.a != .unused, row.b != .unused, row.c != .unused)
  | none => (false, false, false)

/-- A select is used and legal, or unused and zero. -/
def selOk (used first : Bool) (s : Nat) : Bool :=
  if used then decide (1 ≤ s) && decide (s ≤ 4) && !(first && s == 1) else s == 0

/-- The statuses that a valid stage word breaks (R60-R62, R68-R70). DESIGN CHOICE (log 58): a TYPE or PK that its operation does not take gives LOAD_BAD_STAGE, as every
other fault of a stage word does. -/
def stageFails (first : Bool) (w : Nat) : List LoadStatus :=
  let opc := bits w 1 8
  let opSub := bits w 9 4
  let u := stageUses opc opSub
  let ty := Ty.ofCode (bits w 13 4)
  let tyOk := match ty, opRow opc opSub with
    | some t, some row => row.types.has t && cvtTypesOk opc opSub t
    | _, _ => false
  let pkOk := !bitAt w 17 || (match opRow opc opSub with
    | some row => row.pk && (ty == some .bf16 || ty == some .f16)
    | none => false)
  (if bits w 27 5 != 0 then [.reservedBit] else [])
  ++ (if !(stageOpOk opc opSub && tyOk && pkOk && selOk u.1 first (bits w 18 3) && selOk u.2.1 first (bits w 21 3)
        && selOk u.2.2 first (bits w 24 3)) then [.badStage] else [])

/-- The type code that a stage reads its operands as (R180). -/
def stageReads (w : Nat) : Nat := if bits w 1 8 = 0x24 then bits w 9 4 else bits w 13 4

/-- The types as which the stages of a list read a stream (2 X, 3 Y). -/
def streamTypes (ws : List Nat) (sel : Nat) : List Nat :=
  (ws.filter fun w => bits w 18 3 == sel || bits w 21 3 == sel || bits w 24 3 == sel).map stageReads

/-- All entries of a list are equal. -/
def allEqual (xs : List Nat) : Bool := xs.all fun x => xs.head? == some x

/-- The checks of R180 over the valid stages of a descriptor. -/
def stagesClash (ws : List Nat) : Bool :=
  let wide (c : Nat) : Bool := c == 10 || c == 14
  let prev (w : Nat) : Bool := bits w 18 3 == 1 || bits w 21 3 == 1 || bits w 24 3 == 1
  ws.any (fun w => wide (bits w 13 4) || (bits w 1 8 == 0x24 && wide (bits w 9 4)))
  || !allEqual (ws.map fun w => bits w 17 1)
  || ws.any (fun w => bitAt w 17 && bits w 1 8 == 0x24) || (ws.any (fun w => bitAt w 17) && ws.any fun w => bits w 1 8 == 0x24)
  || (ws.zip ws.tail).any (fun p => prev p.2 && stageReads p.2 != bits p.1 13 4)
  || !allEqual (streamTypes ws 2) || !allEqual (streamTypes ws 3)

/-- The checks of a chain descriptor (R9, R62): reserved bits of every word, and the leading valid stages. -/
def chainFails (tile : Nat) (words : List Nat) : List LoadFail :=
  let valid (w : Nat) : Bool := bitAt w 0
  let lead := words.takeWhile valid
  let rest := words.dropWhile valid
  failIf (words.any fun w => bits w 27 5 != 0) ⟨.reservedBit, tile, 0xFF, 0xFF⟩
  ++ (lead.zipIdx.flatMap fun x => (stageFails (x.2 == 0) x.1).map fun st => ⟨st, tile, 0xFF, 0xFF⟩)
  ++ failIf (rest.any (fun w => w != 0) || stagesClash lead) ⟨.badStage, tile, 0xFF, 0xFF⟩

/-- A stage word, decoded (R60). -/
def stageOf (w : Nat) : Stage :=
  let sel (k : Nat) : Sel := match k with | 1 => .previous | 2 => .x | 3 => .y | 4 => .const | _ => .unused
  { opc := bits w 1 8, sub := bits w 9 4, ty := (Ty.ofCode (bits w 13 4)).getD .none, pk := bitAt w 17,
    a := sel (bits w 18 3), b := sel (bits w 21 3), c := sel (bits w 24 3), const := BitVec.ofNat 32 (w / 2 ^ 32) }

/-- The checks of a tile record that belong to no context: its buffers and its chains (R327, R62, R73). -/
def tileFails (v : Variant) (t : TileRec) (tile : Nat) : List LoadFail :=
  let f (st : LoadStatus) : LoadFail := ⟨st, tile, 0xFF, 0xFF⟩
  let cws := ((t.ctxs.filter fun w => bitAt w 0).map ctxWordOf)
  let ibs := cws.flatMap fun cw => bufBindings cw.ibind.toList
  let obs := cws.flatMap fun cw => bufBindings cw.obind.toList
  failIf (t.rsv != 0 || t.bufs.any fun b => b.2 / 2 ^ 33 != 0) (f .reservedBit)
  ++ failIf (decide (2 ≤ t.z) && !v.layers4) (f .unitAbsent)
  ++ failIf (t.bufs.any (fun b => bufMalformed b.2) || hasRepeats ibs || hasRepeats obs) (f .bind)
  ++ t.chains.flatMap fun k => chainFails tile k.2

/-- Every check of a tile record beyond its place. -/
def TileRec.fails (g : Image) (pl : Place') (v : Variant) (t : TileRec) : List LoadFail :=
  let tile := relTile t.x t.y t.z
  tileFails v t tile
  ++ t.ctxs.zipIdx.flatMap fun x =>
      ctxFails g pl t tile x.2 x.1
      ++ (if bitAt x.1 0 then
            (t.slots.getD x.2 []).zipIdx.flatMap fun y => slotFails v t tile x.2 y.2 (ctxWordOf x.1) y.1
          else [])

/-! ### Routing words (R57, R58) -/

/-- A valid routing word, decoded. -/
def rwordOf (w : Nat) : RWord :=
  { inPort := bits w 1 3, inVc := bits w 4 5, outSet := BitVec.ofNat 7 (bits w 9 7),
    outVc := if bitAt w 16 then some (bits w 17 5) else none, inst := 0 }

/-- A valid routing word that R57, R58 or R330 refuses. -/
def Image.wordMalformed (g : Image) (pl : Place') (r : RouterRec) (w : Nat) : Bool :=
  let rw := rwordOf w
  let pad := (r.x + r.y) % 2 != 0
  let escapes (dir vc role : Nat) : Bool := g.leaves pl r.x r.y r.z dir && !g.declared r.x r.y r.z dir vc role
  let unstacked (dir : Nat) : Bool := (dir == 5 && r.z == 0) || (dir == 4 && decide (pl.fab ≤ r.z + 1))
  (decide (rw.inPort < 6) && unstacked rw.inPort) || (List.range 6).any (fun d => rw.outSet.getLsbD d && unstacked d)
  || rw.inPort == 7 || rw.outSet == 0 || rw.outSet.getLsbD rw.inPort || (!bitAt w 16 && bits w 17 5 != 0)
  || (pad && (rw.inPort == 6 || rw.outSet.getLsbD 6))
  || (r.net == 1 && (bitAt rw.inVc 4 || bitAt (rw.outVc.getD 0) 4))
  || (decide (rw.inPort < 6) && escapes rw.inPort rw.inVc 0)
  || (List.range 6).any fun d => rw.outSet.getLsbD d && escapes d (rw.outVc.getD rw.inVc) 1

/-- The checks of a router record (R58, R73). DESIGN CHOICE (log 58): bytes [7:5] of its head that are not zero count as a reserved field. -/
def RouterRec.fails (g : Image) (pl : Place') (v : Variant) (r : RouterRec) : List LoadFail :=
  let f (st : LoadStatus) : LoadFail := ⟨st, relTile r.x r.y r.z, 0xFF, 0xFF⟩
  let valid := r.words.filter fun w => bitAt w 0
  failIf (r.rsv != 0 || r.words.any fun w => bits w 22 42 != 0) (f .reservedBit)
  ++ failIf (decide (2 ≤ r.z) && !v.layers4) (f .unitAbsent)
  ++ failIf ((r.words.any fun w => !bitAt w 0 && bits w 0 22 != 0)
      || valid.any (g.wordMalformed pl r) || hasRepeats (valid.map fun w => bits w 1 8)) (f .route)

/-! ### The image -/

/-- Fabric layers of the variant (R2). -/
def Variant.layers (v : Variant) : Nat := if v.layers4 then 4 else 2

/-- The failure that the loader reports for an image, if any, before it looks for a region (R74, R75, R94). `sig` says whether its signature
verifies under the keys in force (R463), `dims` the width and height in sites of the domain that it is for. -/
def loadCheck (v : Variant) (dims : Nat × Nat) (sig : Bool) (im : StoredImage) : Option LoadFail :=
  let hf := headerFails im
  if !hf.isEmpty then firstFail hf
  else
    let p := im.parse
    let g := p.1
    let rf := recordFails im g p.2
    if !rf.isEmpty then firstFail rf
    else
      let pl : Place' := ⟨v.layers, dims.1, dims.2⟩
      firstFail
        (failIf (BitVec.ofNat 128 (shakeBytes im.signedBytes 16) != im.id) (wholeFail .badDigest)
        ++ failIf ((g.lath && !g.signed) || (g.signed && !sig)) (wholeFail .badSignature)
        ++ failIf (decide (pl.fab < g.layers)) (wholeFail .unitAbsent)
        ++ failIf (decide (4 ≤ im.at 6 1) || im.at 7 1 != 0 || im.at 19 1 != 0 || im.at 28 4 != 0 || im.at 64 64 != 0
            || (g.signed && im.at (128 + g.body + 3325) 3 != 0) || g.ports.any fun p => p.rsv != 0) (wholeFail .reservedBit)
        ++ g.tiles.flatMap (TileRec.fails g pl v)
        ++ g.routers.flatMap (RouterRec.fails g pl v))

end Sys2Proof.Machine
end

