-- ==== Sys2Proof/Machine/Sched.lean ====
section
/-! DEFINITION. Shared operations of the lath: instances and their retirement (R332, R346, R369, R370), completions (R356), dependants (R355), regions and
the loader (R83-R92, R347, R368), links of ports (R367, R507). -/

namespace Sys2Proof.Machine

open Sys2Proof

/-! ### Lookups -/

/-- Sectors of a domain, ascending. -/
def State.sectorsOf (s : State) (d : Nat) : List Nat := (List.range 16).filter fun sec => (s.domain d).shape.has sec

/-- The tile whose element stands for the domain's lath: that of its lowest sector (R19). -/
def State.lathTile (s : State) (d : Nat) : Nat :=
  match s.sectorsOf d with
  | [] => 0
  | sec :: _ => (lathTiles sec).headD 0

/-- A tile belongs to a lath (R19). -/
def isLathTile (t : Nat) : Bool := (lathTiles (sectorOf t)).contains t

/-- The instances with one replaced. -/
def State.setInst (s : State) (x : Inst) : State :=
  { s with insts := s.insts.map fun i => if i.domain == x.domain && i.number == x.number then x else i }

def State.schedOf (s : State) (d : Nat) : Sched := SMap.get s.sched d Sched.clean

def State.setSched (s : State) (d : Nat) (x : Sched) : State := { s with sched := SMap.set s.sched d x }

/-- Entries of a domain's pool (R360). -/
def State.poolOf (s : State) (d : Nat) : List PoolEntry := s.pool.filter fun e => e.domain == d

/-- Free entries of a pool (R360). -/
def State.poolFree (s : State) (d : Nat) : Nat := s.freeEntries d

/-- A router of a site, and the state with it replaced. -/
def siteKeyAbs (x y z : Nat) : Nat := z * 2304 + 48 * y + x
def State.router (s : State) (site : Nat) : Router := SMap.get s.routers site Router.clean
def State.setRouter (s : State) (site : Nat) (r : Router) : State := { s with routers := SMap.set s.routers site r }

/-- The resident instance of a domain that has not ended (R358). -/
def State.residentInst (s : State) (d : Nat) : Option Inst := s.insts.find? fun x => x.domain == d && x.entry.resident && !x.closed

/-- A domain is in fall-back mode, from the acceptance of the resident launch to the end of its instance (R358). -/
def State.inFallback (s : State) (d : Nat) : Bool := ((s.poolOf d).any (·.resident)) || (s.residentInst d).isSome

/-! ### The mailbox of domain 0 (R357, R359) -/

/-- Physical address of the mailbox page of a domain (R357). -/
def mailboxPA (d : Nat) : Nat := 9 * 2 ^ 48 + 0x100000000 + 0x10000 * d

/-- A message written into the device-to-host slots of domain 0's mailbox page when there is room (R357, R359); with poisoned counts there is no room to be seen
(R482, log 68). -/
def State.postMail (s : State) (msg : V512) : Option State :=
  let pa := mailboxPA 0
  let tail := s.mem.read (pa + 16) 8
  let head := s.mem.read (pa + 24) 8
  if s.mem.isPoison (pa / 16 + 1) ∨ 512 ≤ (tail + 2 ^ 64 - head) % 2 ^ 64 then none
  else
    let slot := pa + 32768 + 64 * (tail % 512)
    let m := (s.mem.write slot 64 msg.toNat).clearPoison (slot / 16) 4
    some { s with mem := m.write (pa + 16) 8 ((tail + 1) % 2 ^ 64) }

/-- Replacement messages that wait are written while domain 0 is not in fall-back mode (R359). -/
def State.flushMail (s : State) : State :=
  if s.inFallback 0 then s
  else s.heldMessages.foldl (fun s m => match s.postMail m with
    | some s1 => { s1 with heldMessages := s1.heldMessages.tail }
    | none => s) s

/-- The root lath, at work on domain 0, writes the messages that wait for the end of the fall-back mode or for room (R359). -/
def State.tidyMail (s : State) (d : Nat) : State := if d = 0 then s.flushMail else s

/-! ### Stores of the lath and completions -/

/-- A store of bytes by a writer at an element's tile through the domain's page tables, whose granules are whole; none when the address does not
translate or may not be written. -/
def storeThrough (s : State) (t d asid va : Nat) (beats : List V512) : Option State :=
  let x := translate s (cacheOfElement t) d asid va
  match x.1 with
  | .leaf l =>
    if !l.w || va % 64 != 0 then none
    else
      let num := x.2.takeNumber t
      let pieces := beats.zipIdx.flatMap fun b => (List.range 4).map fun k =>
        { gran := l.pa va / 16 + 4 * b.2 + k, va := va + 64 * b.2 + 16 * k, key := s.keyIdent l, mt := l.mt,
          op := .store (b.1.extractLsb' (128 * k) 128) (BitVec.allOnes 128) false false : Piece }
      some (num.2.issue { Access.blank num.2 t 0xFF 0xFF with asid := asid, number := num.1, pieces := pieces })
  | _ => none

/-- What a completion says of an outcome (R356). -/
structure Outcome' where
  inst : Nat
  status : Nat
  flags : Nat
  energy : Nat
  retireWit : W64
  placedNs : Nat
  fail : LoadFail
  deriving DecidableEq, Repr

/-- No location (R75). -/
def noFail : LoadFail := wholeFail .ok

/-- The completion record (R356). -/
def completionBeat (s : State) (e : PoolEntry) (o : Outcome') : V512 :=
  BitVec.ofNat 512 (packNat 64
    [e.user, o.inst, o.status + o.flags * 2 ^ 8 + min o.energy (2 ^ 32 - 1) * 2 ^ 32, o.retireWit.toNat, o.placedNs, s.ns,
     o.fail.tile + o.fail.ctx * 2 ^ 16 + o.fail.slot * 2 ^ 24, 0])

/-- The completion of a host launch is written by the domain's lath, or a non-halting placement record says that it could not be (R356). -/
def State.complete (s : State) (e : PoolEntry) (o : Outcome') : State :=
  if e.request.isSome || e.completion == 0 then s
  else
    let t := s.lathTile e.domain
    match storeThrough s t e.domain (s.tile t).asid e.completion [completionBeat s e o] with
    | some s1 => s1
    | none => s.send { s.unitRecord t 12 3 e.completion (BitVec.ofNat 128 e.user) with serial := 0 }

/-! ### Dependants (R355) -/

/-- The fate of a launch changes. -/
def State.setFate (s : State) (id : Nat) (f : Fate) : State :=
  { s with launches := s.launches.map fun r => if r.id = id then { r with fate := f } else r }

def State.fate (s : State) (id : Nat) : Fate := ((s.launches.find? fun r => r.id = id).map (·.fate)).getD .failed

/-! ### Retirement -/

/-- A context retired (R332): it never fires again, and what it holds is discarded; beats of earlier firings still leave. -/
def Ctx.retire (cx : Ctx) : Ctx :=
  { cx with run := .retired, ins := Vector.replicate 8 [], cins := Vector.replicate 4 [], halt := none }

/-- Every valid context of a tile has retired. -/
def Tile.allRetired (tl : Tile) : Bool := tl.ctxs.toList.all fun cx => !cx.word.valid || cx.run == .retired

/-- Witnesses merged one after another by a unit (R245, R299). -/
def mergeAll (s : State) (u : Nat) : List W64 → W64 → Lift
  | [], acc => .done acc
  | w :: rest, acc => match merge s u acc w with
    | .waiting => .waiting
    | .done x => mergeAll s u rest x

/-- The witness of an instance: the merge of its elements' last stores, lifted to the domain (R370). -/
def retireWitness (s : State) (u : Nat) (ws : List W64) (acc : W64) : Lift :=
  match mergeAll s u ws acc with
  | .waiting => .waiting
  | .done w => lift s u w 4

/-- The merge as WMRG made it, raised to the domain scope; a null merge stays null. -/
def State.instWitness (s : State) (x : Inst) : Lift := retireWitness s (s.lathTile x.domain) x.lastWits nullWitness

/-- The launches of an instance, its own first, each with the FLAGS of its completion (R354, R356): an attached launch commits no region, so it is never late (R362). -/
def Inst.launches (x : Inst) : List (PoolEntry × Nat) :=
  let common := 2 * x.released.toNat + 4 * x.killed.toNat
  (x.entry, x.late.toNat + common + 8 * x.predFailed.toNat) :: x.attached.map fun a => (a.1, common + 8 * a.2.toNat)

/-- The meters of R465 as they stand when they are read: an instance, a sector and a domain have each drawn some energy more, which is a free value
(log 17); what an instance or a sector draws its domain draws. -/
def State.meter (s : State) (d sec n : Nat) : State :=
  let x := Config.energy s.free
  let y := Config.energy (s.free + 1)
  let z := max x y + Config.energy (s.free + 2)
  let sc := s.schedOf d
  { s.setSched d { sc with total := sc.total + z, used := sc.used + z } with
    insts := s.insts.map fun i => if i.domain == d && i.number == n then { i with energy := i.energy + x } else i,
    sectorEnergy := SMap.set s.sectorEnergy sec (SMap.get s.sectorEnergy sec 0 + y), free := s.free + 3 }

/-- A retired instance is closed once its retire witness can be formed: its completion is written and its dependants are released (R355, R356, R358,
R370). -/
def State.closeInst (s : State) (x : Inst) : State :=
  if x.phase != .retired || x.closed then s
  else match s.instWitness x with
    | .waiting => s
    | .done w =>
      let s0 := s.meter x.domain (sectorOf (x.region.headD 0)) x.number
      let s1 := s0.setInst { x with closed := true }
      let o : Outcome' :=
        { inst := x.number, status := 0, flags := 0, energy := ((s0.inst? x.domain x.number).map (·.energy)).getD 0,
          retireWit := w, placedNs := x.placedNs, fail := noFail }
      let s2 := x.launches.foldl (fun s e => s.complete e.1 { o with flags := e.2 }) s1
      let s3 := if x.trigger.isSome then s2 else x.launches.foldl (fun s e => s.setFate e.1.id (.released w)) s2
      if x.entry.resident then (s3.setDomain x.domain { s3.domain x.domain with fallback := false }).flushMail else s3

/-- After a context of a tile has retired: its element's last store is noted once all its contexts have retired, and the instance retires with its last
element (R370). -/
def State.noteRetired (s : State) (t : Nat) : State :=
  match s.tileInst t with
  | none => s
  | some x =>
    if !(s.tile t).allRetired then s
    else
      let x1 := { x with lastWits := x.lastWits ++ [s.lastWitness t] }
      if x1.tiles.all fun u => (s.tile u).allRetired then
        let x2 := { x1 with phase := .retired }
        (s.setInst x2).closeInst x2
      else s.setInst x1

/-- A context fires RETIRE, or is retired by others (R332, R369, R475). -/
def State.retireCtx (s : State) (t c : Nat) : State :=
  let cx := s.ctx t c
  if !cx.word.valid || cx.run == .retired then s else (s.setCtx t c cx.retire).noteRetired t

/-- What a saved instance left in the engine of a tile that it gave up: a clean engine (R191). -/
def State.abandonEngine (s : State) (n t : Nat) : State :=
  let tl := s.tile t
  if tl.row.owner = n ∧ tl.inst ≠ n then s.setTile t { tl with row := RowEngine.clean tl.inst } else s

/-- Every context of an instance retires (R369). -/
def State.retireAll (s : State) (x : Inst) : State :=
  if x.phase == .saved || x.phase == .restoring then
    let saved := (x.save.map (·.tiles)).getD []
    let lasts := (saved.filter fun st => x.phase == .restoring || x.tiles.contains st.from').map (·.haltWit)
    let x1 := { x with phase := .retired, lastWits := lasts }
    let s0 := saved.foldl (fun s st => s.abandonEngine x.number st.from') s
    let s1 := x.tiles.foldl (fun s t => if (s.tile t).inst = x.number then
        (List.range 8).foldl (fun s c => if (s.ctx t c).word.valid then s.setCtx t c (s.ctx t c).retire else s) s else s) s0
    (s1.setInst x1).closeInst x1
  else x.tiles.foldl (fun s t => (List.range 8).foldl (fun s c => s.retireCtx t c) s) s

/-- An instance lies at or below another: it is that one, or was requested by it or its descendants. -/
def State.below (s : State) (d top : Nat) : Nat → Nat → Bool
  | 0, _ => false
  | fuel + 1, n =>
    if n = top then true
    else match s.inst? d n with
      | some x => x.parent != 0 && s.below d top fuel x.parent
      | none => false

/-- An instance was requested by a lath, or by a descendant of such an instance. -/
def State.belowLath (s : State) (d : Nat) : Nat → Nat → Bool
  | 0, _ => false
  | fuel + 1, n => match s.inst? d n with
    | some x => if x.parent = 0 then x.entry.request.isSome else s.belowLath d fuel x.parent
    | none => false

/-- CREL and KILL (R369, R475): the instance and every instance below it are retired, with a flag set in their completions. -/
def State.releaseInst (s : State) (d n : Nat) (killed : Bool) : State :=
  let hit := s.insts.filter fun x => x.domain == d && x.phase != .retired && s.below d n 9 x.number
  let s1 := hit.foldl (fun s x => s.setInst (if killed then { x with killed := true } else { x with released := true })) s
  hit.foldl (fun s x => match s.inst? d x.number with
    | some y => s.retireAll y
    | none => s) s1

/-! ### Signatures (R93, R460) -/

/-- KEY_ID of a public key of 1,952 bytes: the first 16 bytes of SHAKE256 over it. -/
def keyIdOf (key : Nat) : Nat := shakeBytes ((List.range 1952).map fun k => bits key (8 * k) 8) 16

/-- The public keys of a domain's trust table whose entries name them rightly (R460); an entry with a poisoned granule gives none (R467, R482, log 68). -/
def State.trustKeys (s : State) (d : Nat) : List Nat :=
  let dm := s.domain d
  (List.range dm.trustCount).filterMap fun k =>
    let base := dm.trustTable * 2 ^ 16 + 2048 * k
    let key := s.readFor d (base + 16) 1952
    if (List.range 123).any (fun k => s.mem.isPoison (base / 16 + k)) then none
    else if keyIdOf key = s.readFor d base 16 then some key else none

/-- The width and height of a shape in sites. -/
def Shape.sites (sh : Shape) : Nat × Nat := (12 * sh.w, 12 * sh.h)

/-- The signature of an image verifies under a key that its kind accepts (R460). -/
def State.signatureOk (s : State) (d : Nat) (im : StoredImage) : Bool :=
  let id := im.at (128 + im.at 20 4) 16
  let keys := if bitAt (im.at 6 1) 1 then s.providerKeys else s.trustKeys d
  keys.any fun k => keyIdOf k == id && Config.signatureValid (ofBytesLE im.signedBytes) im.signature k

/-- Placement stops using the sectors that leave a domain (R458): from QUIESCE to SWITCH those of the current shape that are not in the target, and all
of them with RESET. -/
def State.barred (s : State) (d t : Nat) : Bool :=
  let dm := s.domain d
  let sec := sectorOf t
  ((dm.step == 1 && dm.busy) || dm.step == 2 || dm.step == 3) && dm.shape.has sec && (dm.resetting || !dm.target.has sec)

/-! ### Sites and their words -/

/-- The port opposite to a port. -/
def opposite (dir : Nat) : Nat :=
  match dir with
  | 0 => 2 | 1 => 3 | 2 => 0 | 3 => 1 | 4 => 5 | _ => 4

def siteXOf (site : Nat) : Nat := site % 48
def siteYOf (site : Nat) : Nat := site / 48 % 48
def siteZOf (site : Nat) : Nat := site / 2304

/-- The tile whose element stands at a site. -/
def elementAtSite (site : Nat) : Option Nat :=
  if (siteXOf site + siteYOf site) % 2 = 0 then some (tileAt (siteXOf site) (siteYOf site) (siteZOf site)) else none

/-- The site of a tile's element. -/
def siteOfTile (t : Nat) : Nat := siteKeyAbs (siteX t) (siteY t) (siteZ t)

/-- Port and channel key of a router's buffers. -/
def inKey (port vc : Nat) : Nat := 32 * port + vc

/-- Beats buffered at a router port on a channel. -/
def Router.buf (r : Router) (port vc : Nat) : List Beat := SMap.get r.ins (inKey port vc) []

/-- Copies on their way over a link. -/
def Router.staging (r : Router) (port vc : Nat) : List Beat := SMap.get r.staged (inKey port vc) []

/-- Sites of the variant. -/
def State.siteCount (s : State) : Nat := if s.variant.layers4 then 9216 else 4608

/-- The site beyond a port; none out of the stack or the plane. -/
def State.beyond (s : State) (site port : Nat) : Option Nat :=
  match neighbour (siteXOf site) (siteYOf site) (siteZOf site) port with
  | some (x, y, z) => let k := siteKeyAbs x y z
                      if k < s.siteCount then some k else none
  | none => none

/-- The domain that owns a site. -/
def State.siteDomain (s : State) (site : Nat) : Option Nat := s.domainOf (siteYOf site / 12 * 4 + siteXOf site / 12)

/-- No beat waits for a routing word: at its port, or on the link that leads to it. -/
def State.wordIdle (s : State) (site : Nat) (w : RWord) : Bool :=
  ((s.router site).buf w.inPort w.inVc).isEmpty &&
    match (if w.inPort < 6 then s.beyond site w.inPort else none) with
    | some p => ((s.router p).staging (opposite w.inPort) w.inVc).isEmpty
    | none => true

/-- No beat or condition token waits for a routing word that serves an instance of a domain. -/
def State.wordsQuiet (s : State) (d inst : Nat) : Bool :=
  s.routers.all fun r => s.siteDomain r.1 != some d || ((r.2.words.all fun w => w.inst != inst || s.wordIdle r.1 w)
    && r.2.ctl.all fun w => w.inst != inst || (SMap.get r.2.cins (16 * w.inPort + w.inVc) []).isEmpty)

/-- An endpoint of an element binds an incoming port and channel. -/
def Tile.binds (tl : Tile) (port vc : Nat) : Bool :=
  (List.range 8).any fun c => let cx := tl.ctx c
    cx.word.valid && (List.range 8).any fun n => match at8 cx.word.ibind n with
      | .link p v => p.val == port && v.val == vc
      | _ => false

/-- What the routing words of an ingress port's path are marked with; no instance has the number. -/
def feedMark (port : Nat) : Nat := 2 ^ 64 + port

/-- The words of an ingress port's path removed from the routers. -/
def State.dropFeed (s : State) (port : Nat) : State :=
  { s with routers := s.routers.map fun r => (r.1, { r.2 with words := r.2.words.filter fun w => w.inst != feedMark port }) }

/-- The launch in progress of an ingress port feeds an instance, so that its path stays as it is (R507). -/
def State.feedHeld (s : State) (port : Nat) : Bool :=
  match (s.port port).target with
  | .port d n _ => (s.port port).due != 0 && (s.inst? d n).any fun x => x.phase != .retired && !(x.phase == .saved && x.save.any (·.evicted))
  | _ => false

/-- The words of the ingress paths that no launch in progress uses, and on which no beat waits, removed from a domain's routers (R507). -/
def State.dropQuietFeeds (s : State) (d : Nat) : State :=
  (List.range 32).foldl (fun s port => if !s.feedHeld port && s.wordsQuiet d (feedMark port) then s.dropFeed port else s) s

/-- A word of another's path at a site stands in the way of an image: it is kept as the image is loaded, and it takes beats of a port and channel that the
image wants, or leaves on a port and channel that the image's link leaves on (log 19). -/
def State.pathAt (s : State) (d site : Nat) (stands : RWord → Bool) : Bool :=
  (s.router site).words.any fun w => stands w && (w.inst < 2 ^ 64 || s.feedHeld (w.inst - 2 ^ 64) || !s.wordsQuiet d w.inst)

/-- Paths of others stand in the way of an image at an origin. -/
def State.crossed (s : State) (d : Nat) (g : Image) (ox oy oz : Nat) : Bool :=
  (g.tiles.any fun r => r.ctxs.any fun w => bitAt w 0 && s.pathAt d (siteKeyAbs (ox + r.x) (oy + r.y) (oz + r.z)) fun v =>
    (ctxWordOf w).ibind.toList.any fun b => match b with
      | .link p c => p.val == v.inPort && c.val == v.inVc
      | _ => false)
  || (g.routers.any fun r => r.net == 0 &&
      let ws := (r.words.filter fun w => bitAt w 0).map rwordOf
      let site := siteKeyAbs (ox + r.x) (oy + r.y) (oz + r.z)
      decide (16 < (s.router site).words.length + ws.length) || s.pathAt d site fun v => ws.any fun w => w.inPort == v.inPort && w.inVc == v.inVc)
  || g.ports.any fun p => p.role == 1 && s.pathAt d (siteKeyAbs (ox + p.x) (oy + p.y) (oz + p.z)) fun v =>
      v.outSet.getLsbD p.dir && v.outVc.getD v.inVc == p.vc

/-! ### Regions (R84, R85, R347, R368) -/

/-- All tiles of a domain, ascending. -/
def State.domainTiles (s : State) (d : Nat) : List Nat := (List.range s.tileCount).filter fun t => s.tileDomain t == some d

/-- The tiles of a group of level 2 to 5. -/
def State.groupTiles (s : State) (level d g : Nat) : List Nat :=
  (List.range s.tileCount).filter fun t => match level with
    | 2 => columnOf t == g
    | 3 => sectorOf t == g
    | 4 => s.tileDomain t == some d
    | _ => true

/-- The depth reserves of a domain, by depth 1 to 8: tiles, or the tiles of columns (R368). The model's lath keeps the highest columns that hold no lath tile, or
the highest tiles of the highest columns that are not retired, and a domain of too few columns has fewer reserves (log 19). -/
def State.reserveTiles (s : State) (d depth : Nat) : List Nat :=
  let cols := ((List.range 64).filter fun c => s.domainOf (sectorOfColumn c) == some d).reverse
  if (s.domain d).reserveLevel = 2 then
    let apart := cols.filter fun c => !((s.groupTiles 2 d c).any isLathTile)
    match (apart ++ cols.filter fun c => (s.groupTiles 2 d c).any isLathTile)[depth - 1]? with
    | some c => (s.groupTiles 2 d c).filter fun t => !isLathTile t
    | none => []
  else
    match (cols.flatMap fun c => ((s.groupTiles 2 d c).filter fun t => !isLathTile t && !(s.tile t).health.retired).reverse)[depth - 1]? with
    | some t => [t]
    | none => []

/-- The tiles of all depth reserves. -/
def State.allReserves (s : State) (d : Nat) : List Nat := (List.range 8).flatMap fun k => s.reserveTiles d (k + 1)

/-- The groups of a level that a domain offers, with their origins (R84, R85). -/
def State.groups' (s : State) (d : Nat) (g : Image) : List (Nat × (Nat × Nat)) :=
  match g.level with
  | 2 => ((List.range 64).filter fun c => s.domainOf (sectorOfColumn c) == some d).map fun c => (c, (6 * (c % 8), 6 * (c / 8)))
  | 3 => (s.sectorsOf d).map fun sec => (sec, (12 * (sec % 4), 12 * (sec / 4)))
  | 4 =>
    let sh := (s.domain d).shape
    if sh.w = 0 ∨ sh.w < g.w ∨ sh.h < g.h then [] else [(d, (12 * sh.x0, 12 * sh.y0))]
  | _ => if (s.sectorsOf d).length = 16 then [(0, (0, 0))] else []

/-- The sites at which an image places tile, router and pad data records. -/
def Image.sites (g : Image) : List (Nat × Nat × Nat) :=
  g.tiles.map (fun t => (t.x, t.y, t.z)) ++ g.routers.map (fun r => (r.x, r.y, r.z))
    ++ (g.data.filter fun d => d.tier == 0).map fun d => (d.x, d.y, d.z)

/-- The tile of an element site, or of the pad at a pad site. -/
def anyTile (x y z : Nat) : Nat := relTile x y z

/-- The tiles of a group on which a record of an image placed there falls. -/
def Image.uses (g : Image) (ox oy : Nat) : List Nat := g.sites.map fun p => anyTile (ox + p.1) (oy + p.2.1) p.2.2

/-- A group of tiles is free for an image (R347). -/
def State.groupFree (s : State) (d : Nat) (g : Image) (reserves tiles : List Nat) (ox oy : Nat) : Bool :=
  tiles.all (fun t => isLathTile t || ((s.tile t).inst == 0 && !reserves.contains t && !s.barred d t))
  && (g.uses ox oy).all (fun t => !isLathTile t && !reserves.contains t)
  && (g.tiles.all fun t => !(s.tile (tileAt (ox + t.x) (oy + t.y) t.z)).health.retired) && !s.crossed d g ox oy 0

/-- A region found for an image: its origin, its tiles, and the reserve that it takes. -/
structure Region where
  ox : Nat
  oy : Nat
  oz : Nat
  tiles : List Nat
  reserve : Option Nat
  deriving DecidableEq, Repr

/-- A tile as a region of its own. -/
def tileRegion (t : Nat) (reserve : Option Nat) : Region :=
  { ox := siteX t, oy := siteY t, oz := siteZ t, tiles := [t], reserve := reserve }

/-- The tiles of a group that an image takes, with the reserves on which it may not stand: all but the lath's, and none of a reserve. Where every group of the level
holds a reserve, the image is placed around the reserves as it is around the lath, and uses none of their tiles (log 19). -/
def State.groupFor (s : State) (d : Nat) (g : Image) (gr : Nat × (Nat × Nat)) : List Nat × List Nat :=
  let rs := s.allReserves d
  let tiles := (s.groupTiles g.level d gr.1).filter fun t => !isLathTile t
  if (s.groups' d g).all fun k => (s.groupTiles g.level d k.1).any rs.contains then
    (tiles.filter fun t => !rs.contains t, rs)
  else (tiles, rs)

/-- The free group with the lowest index (R347), or none. -/
def State.findRegion (s : State) (d depth : Nat) (g : Image) : Option Region :=
  if g.level ≤ 1 then
    let rs := s.allReserves d
    let free (t : Nat) : Bool := !isLathTile t && (s.tile t).inst == 0 && !(s.tile t).health.retired && !s.barred d t
      && !s.crossed d g (siteX t) (siteY t) (siteZ t)
    match (s.domainTiles d).find? fun t => free t && !rs.contains t with
    | some t => some (tileRegion t none)
    | none => if g.level ≤ (s.domain d).reserveLevel then
        let r := s.reserveTiles d depth
        if r.all (fun t => (s.tile t).inst == 0) then (r.find? free).map fun t => tileRegion t (some depth) else none
      else none
  else
    match (s.groups' d g).find? fun gr => s.groupFree d g (s.groupFor d g gr).2 (s.groupFor d g gr).1 gr.2.1 gr.2.2 with
    | some gr => some { ox := gr.2.1, oy := gr.2.2, oz := 0, tiles := (s.groupFor d g gr).1, reserve := none }
    | none =>
      if g.level ≤ (s.domain d).reserveLevel then
        let r := s.reserveTiles d depth
        match r with
        | [] => none
        | t :: _ =>
          let c := columnOf t
          if s.groupFree d g [] r (6 * (c % 8)) (6 * (c / 8)) then
            some { ox := 6 * (c % 8), oy := 6 * (c / 8), oz := 0, tiles := r, reserve := some depth }
          else none
      else none

/-- No region of the domain can ever hold the image (R85). -/
def State.neverFits (s : State) (d : Nat) (g : Image) : Bool := decide (4 ≤ g.level) && (s.groups' d g).isEmpty

/-! ### Loading (R83, R90-R92, R328, R342) -/

/-- A buffer descriptor, decoded, in its state at load (R327, R328). -/
def bufferOf (d : Nat) : Buffer :=
  { base := bits d 0 18, slots := bits d 18 11, size := 64 * 2 ^ bits d 29 3, fe := bitAt d 32, cp := 0, pp := 0, wc := 0 }

/-- A tile with the contents of a tile record, for an instance. Its queue mirrors stay: only a detach discards one (R288). -/
def Tile.load (tl : Tile) (r : TileRec) (inst asid : Nat) : Tile :=
  let ctxs := Vector.ofFn fun c : Fin 8 =>
    let w := r.ctxs.getD c.val 0
    if bitAt w 0 then Ctx.loaded (ctxWordOf w) ((r.slots.getD c.val []).take (bits w 2 5)) else Ctx.clean
  let chains := Vector.ofFn fun k : Fin 4 =>
    match r.chains.find? fun x => x.1 == k.val with
    | some x => (x.2.takeWhile fun w => bitAt w 0).map stageOf
    | none => []
  let buffers := Vector.ofFn fun b : Fin 16 => (r.bufs.find? fun x => x.1 == b.val).map fun x => bufferOf x.2
  { Tile.clean with
    ctxs := ctxs, chains := chains, buffers := buffers, row := if tl.row.dirty then tl.row else RowEngine.clean inst, inst := inst,
    asid := asid, mirrors := tl.mirrors, fences := tl.fences, health := tl.health }

/-- The full bits of a range of granules cleared. -/
def Memory.emptyRange (m : Memory) (lo n : Nat) : Memory := { m with full := m.full.filter fun g => !(decide (lo ≤ g) && decide (g < lo + n)) }

/-- A data record written by the loader (R92). -/
def Memory.loadData (m : Memory) (pa : Nat) (r : DataRec) : Memory :=
  let m1 := m.write pa r.length r.val
  (List.range (r.length / 16)).foldl (fun m k =>
    let g := pa / 16 + k
    let m2 := (m.setPoison g false).setKey g 0
    if bitAt r.flags 0 then m2.setFull g true else m2) m1

/-- The physical address of a data record of an image placed at an origin. -/
def DataRec.pa (r : DataRec) (ox oy oz : Nat) : Nat :=
  let t := tileAt (ox + r.x) (oy + r.y) (oz + r.z)
  if r.tier = 0 then padPA t r.offset else vaultPA (columnOf t) r.offset

/-- Routing words of an image's router record added to its router (R57, R91). -/
def State.loadRouter (s : State) (r : RouterRec) (ox oy inst : Nat) : State :=
  let site := siteKeyAbs (ox + r.x) (oy + r.y) r.z
  let ws := (r.words.filter fun w => bitAt w 0).map fun w => { rwordOf w with inst := inst }
  let rt := s.router site
  s.setRouter site (if r.net = 0 then { rt with words := rt.words ++ ws } else { rt with ctl := rt.ctl ++ ws })

/-- An image loaded whole into a region (R74, R83, R92): tiles, routers, data; every granule of the region's pads, and of its vaults from level 2 on, starts
empty unless a record fills it. -/
def State.loadImage (s : State) (g : Image) (rg : Region) (inst asid : Nat) : State :=
  let s1 := rg.tiles.foldl (fun s t => s.setTile t { s.tile t with inst := inst, asid := asid }) s
  let s2 := g.tiles.foldl (fun s r =>
    let t := tileAt (rg.ox + r.x) (rg.oy + r.y) (rg.oz + r.z)
    s.setTile t ((s.tile t).load r inst asid)) s1
  let s3 := g.routers.foldl (fun s r => s.loadRouter r rg.ox rg.oy inst) s2
  let m1 := rg.tiles.foldl (fun m t => m.emptyRange (padPA t 0 / 16) 16384) s3.mem
  let m2 := if 2 ≤ g.level then
      ((rg.tiles.map columnOf).eraseDups).foldl (fun m c => m.emptyRange (vaultPA c 0 / 16) (2 ^ 21)) m1 else m1
  { s3 with mem := g.data.foldl (fun m r => m.loadData (r.pa rg.ox rg.oy rg.oz) r) m2 }

/-- The tiles that an image configures in a region. -/
def Image.placedTiles (g : Image) (rg : Region) : List Nat := g.tiles.map fun t => tileAt (rg.ox + t.x) (rg.oy + t.y) (rg.oz + t.z)

/-! ### Links of ports (R86, R353, R367, R507) -/

/-- A place of a path: a router, the port it enters by and the port it leaves by. -/
structure Hop where
  x : Nat
  y : Nat
  z : Nat
  inPort : Nat
  out : Nat
  deriving DecidableEq, Repr

/-- The way of a path: the layer in which it crosses the plane, or none for the shortest ways, and the order in which it takes the axes. -/
structure Way where
  layer : Option Nat
  order : List Nat
  deriving DecidableEq, Repr

/-- The ways that a path may go; the first that can be routed is taken (log 19). -/
def pathWays : List Way :=
  [[0, 1, 2], [1, 0, 2], [0, 2, 1], [1, 2, 0], [2, 0, 1], [2, 1, 0]].map (Way.mk none)
    ++ [1, 2, 3, 0].flatMap fun l => [⟨some l, [0, 1]⟩, ⟨some l, [1, 0]⟩]

/-- The port that leads from a site towards another along an axis (R12); none when they agree on it. -/
def towards (axis x y z tx ty tz : Nat) : Option Nat :=
  match axis with
  | 0 => if x < tx then some 1 else if tx < x then some 3 else none
  | 1 => if y < ty then some 0 else if ty < y then some 2 else none
  | _ => if z < tz then some 4 else if tz < z then some 5 else none

/-- The path from a router to another along the axes in an order, and the port by which the last one is entered. -/
def pathTo (order : List Nat) : Nat → Nat → Nat → Nat → Nat → Nat → Nat → Nat → List Hop × Nat
  | 0, _, _, _, p, _, _, _ => ([], p)
  | fuel + 1, x, y, z, p, tx, ty, tz =>
    match order.findSome? fun k => towards k x y z tx ty tz with
    | none => ([], p)
    | some k => match neighbour x y z k with
      | none => ([], p)
      | some (a, b, c) =>
        let r := pathTo order fuel a b c (opposite k) tx ty tz
        (⟨x, y, z, p, k⟩ :: r.1, r.2)

/-- A routing word of a path added to a site; none when the router has 16 words, when a word or an endpoint there takes the same port and channel, when the
port that it leaves by is linked to nothing, or when the path turns back. Paths that go on alike may share a port and channel (log 19). -/
def State.addWord (s : State) (x y z : Nat) (w : RWord) : Option State :=
  let site := siteKeyAbs x y z
  let rt := s.router site
  let alike (v : RWord) : Bool := v.outSet == w.outSet && v.outVc == w.outVc
  let same := rt.words.filter fun v => v.inPort == w.inPort && v.inVc == w.inVc
  if site ≥ s.siteCount || w.outSet.getLsbD w.inPort || !same.all alike then none
  else if same.any fun v => v.inst == w.inst then some s
  else if rt.words.length ≥ 16 || (rt.unlinked.any fun u => w.outSet.getLsbD u.1 && u.2 == w.outVc.getD w.inVc)
      || ((elementAtSite site).any fun t => (s.tile t).binds w.inPort w.inVc) then none
  else some (s.setRouter site { rt with words := rt.words ++ [w] })

/-- The words of a path: every hop keeps the channel but the last, which changes it to the one wanted. -/
def State.addPath (s : State) (d inst vc want : Nat) : List Hop → Option State
  | [] => if vc = want then some s else none
  | h :: rest =>
    if s.domainOf (h.y / 12 * 4 + h.x / 12) != some d then none
    else
      let last := rest.isEmpty
      match s.addWord h.x h.y h.z
          { inPort := h.inPort, inVc := vc, outSet := BitVec.ofNat 7 (2 ^ h.out), outVc := if last && vc != want then some want else none,
            inst := inst } with
      | none => none
      | some s1 => s1.addPath d inst (if last then want else vc) want rest

/-- The hops that bring beats from a router, entered by a port, to a boundary site that they reach from direction `dir`. -/
def hopsInto (way : Way) (x y z p : Nat) (tx ty tz dir : Nat) : Option (List Hop) :=
  match neighbour tx ty tz dir with
  | none => none
  | some (bx, by', bz) =>
    let r := match way.layer with
      | none => pathTo way.order 200 x y z p bx by' bz
      | some l =>
        let up := pathTo [2] 4 x y z p x y l
        let cross := pathTo way.order 200 x y l up.2 bx by' l
        let down := pathTo [2] 4 bx by' l cross.2 bx by' bz
        (up.1 ++ cross.1 ++ down.1, down.2)
    some (r.1 ++ [⟨bx, by', bz, r.2, opposite dir⟩])

/-- The words of a path into a boundary site, along the first way that can be routed. -/
def State.layPath (s : State) (d inst vc want : Nat) (x y z p : Nat) (tx ty tz dir : Nat) : Option State :=
  pathWays.findSome? fun way => match hopsInto way x y z p tx ty tz dir with
    | none => none
    | some hs => s.addPath d inst vc want hs

/-- A link from a tile's output endpoint (port, channel) to a boundary site (R367): the requester's own router sends it on DIR. -/
def State.linkIn (s : State) (d inst : Nat) (t dir vc : Nat) (tx ty tz tdir tvc : Nat) : Option State :=
  let x := siteX t
  let y := siteY t
  let z := siteZ t
  match neighbour x y z dir with
  | none => none
  | some (a, b, c) =>
    if a = tx ∧ b = ty ∧ c = tz ∧ tdir = opposite dir then
      if vc = tvc then some s else s.addPath d inst vc tvc [⟨x, y, z, 6, dir⟩]
    else s.layPath d inst vc tvc a b c (opposite dir) tx ty tz tdir

/-- A link from a boundary site to a tile's input endpoint (port, channel) (R367). A neighbour's channel is changed by a word at the requester's router, which gives the
beat to the element with the port by which it came (R316). -/
def State.linkOut (s : State) (d inst : Nat) (sx sy sz sdir svc : Nat) (t dir vc : Nat) : Option State :=
  let x := siteX t
  let y := siteY t
  let z := siteZ t
  match neighbour sx sy sz sdir with
  | none => none
  | some (a, b, c) =>
    if a = x ∧ b = y ∧ c = z ∧ dir = opposite sdir then
      if svc = vc then some s else s.addWord x y z { inPort := dir, inVc := svc, outSet := 64, outVc := some vc, inst := inst }
    else s.layPath d inst svc vc a b c (opposite sdir) x y z dir

/-- A link of an instance takes a boundary (port, channel) of a site that was linked to nothing (R321, R367). -/
def State.lendPort (s : State) (inst site dir vc : Nat) : State :=
  let rt := s.router site
  if rt.unlinked.contains (dir, vc) then
    s.setRouter site { rt with unlinked := rt.unlinked.filter (· != (dir, vc)), lent := (dir, vc, inst) :: rt.lent }
  else s

/-- A boundary (port, channel) of a site is linked to nothing (R321, R353). -/
def State.markUnlinked (s : State) (x y z dir vc : Nat) : State :=
  let site := siteKeyAbs x y z
  let rt := s.router site
  if rt.unlinked.contains (dir, vc) then s else s.setRouter site { rt with unlinked := (dir, vc) :: rt.unlinked }

/-- The link of one port record of a request (R367); a port that no endpoint matches stays as it is: unlinked, unless another requester of a resident instance
is linked to it. -/
def State.linkRequestPort (s : State) (d inst : Nat) (rg : Region) (t c : Nat) (p : PortRec) : Option State :=
  let cx := s.ctx t c
  let px := rg.ox + p.x
  let py := rg.oy + p.y
  let pz := rg.oz + p.z
  if p.role = 0 then
    match (if p.port < 8 then at8 cx.word.obind p.port else .unbound) with
    | .link dir vc => (s.lendPort inst (siteKeyAbs (siteX t) (siteY t) (siteZ t)) dir.val vc.val).linkIn d inst t dir.val vc.val px py pz p.dir p.vc
    | _ => some s
  else
    match (if p.port < 8 then at8 cx.word.ibind p.port else .unbound) with
    | .link dir vc => (s.lendPort inst (siteKeyAbs px py pz) p.dir p.vc).linkOut d inst px py pz p.dir p.vc t dir.val vc.val
    | _ => some s

/-- The links of a request's ports, or none when a path cannot be routed. -/
def State.linkRequest (s : State) (d inst : Nat) (rg : Region) (t c : Nat) : List PortRec → Option State
  | [] => some s
  | p :: rest => match s.linkRequestPort d inst rg t c p with
    | none => none
    | some s1 => s1.linkRequest d inst rg t c rest

/-- The out ports of an instance are linked to nothing as it is placed (R321): those of a host launch stay so (R353), and a request's are then linked (R367). -/
def State.openPorts (s : State) (rg : Region) (ports : List PortRec) : State :=
  (ports.filter fun p => p.role == 1).foldl (fun s p => s.markUnlinked (rg.ox + p.x) (rg.oy + p.y) (rg.oz + p.z) p.dir p.vc) s

/-! ### Freeing a region -/

/-- Nothing of a tile is still on its way: no outstanding firing, chain, transfer, pass, beat or condition token (R332, R369). -/
def State.tileQuiet (s : State) (t : Nat) : Bool :=
  let tl := s.tile t
  (s.outstanding.all fun o => o.tile != t) && tl.queue.isEmpty && tl.xfer.isNone && tl.passes.isEmpty && tl.steps.isEmpty
  && (tl.ctxs.toList.all fun cx => (cx.outs.toList.all fun ps => ps.isEmpty) && cx.couts.toList.all fun ts => ts.isEmpty)
  && (s.router (siteOfTile t)).ins.all fun b => b.2.isEmpty || !(b.1 / 32 == 6 || tl.binds (b.1 / 32) (b.1 % 32))

/-- A tile returned to its domain: the configuration leaves a clean engine behind it (R191), and the mirrors of queues that are still attached (R288). -/
def State.freeTile (s : State) (t : Nat) : State :=
  let tl := s.tile t
  s.setTile t { Tile.clean with
    row := if tl.row.dirty && tl.row.owner != tl.inst then tl.row else RowEngine.clean 0, mirrors := tl.mirrors, fences := tl.fences,
    health := tl.health }

/-- The routing words, and the links at the region's boundary, of an instance removed. -/
def State.dropWords (s : State) (x : Inst) : State :=
  let inside (site : Nat) : Bool := x.region.contains (anyTile (site % 48) (site / 48 % 48) (site / 2304))
  { s with routers := s.routers.map fun r =>
      if s.siteDomain r.1 == some x.domain then
        let keep (ws : List RWord) : List RWord := ws.filter fun w => w.inst != x.number
        let back := (r.2.lent.filter fun e => e.2.2 == x.number).map fun e => (e.1, e.2.1)
        (r.1, { r.2 with words := keep r.2.words, ctl := keep r.2.ctl, unlinked := if inside r.1 then [] else r.2.unlinked ++ back,
                         lent := if inside r.1 then [] else r.2.lent.filter fun e => e.2.2 != x.number })
      else r }

/-- A retired instance's region returns to the domain once nothing of it is on its way (R322, R369). -/
def State.reclaim (s : State) (x : Inst) : State :=
  if x.phase != .retired || !x.closed || !(x.region.all s.tileQuiet) || !s.wordsQuiet x.domain x.number then s
  else
    let s1 := x.region.foldl (fun s t => if (s.tile t).inst = x.number then s.freeTile t else s) s
    (s1.dropWords x).setInst { x with region := [] }

end Sys2Proof.Machine
end

