-- ==== Sys2Proof/Machine/Control.lean ====
section
/-! DEFINITION. Basic control (R332, R372-R375, R477), opcode 0x00: RETIRE, TIME, SREAD, TRAP and BRKP. -/

namespace Sys2Proof.Machine

open Sys2Proof

/-- RETIRE (R332). -/
def execRetire (f : Slot) (s : State) : Host.Outcome State Fault Refusal :=
  fire (.retire f) (fun s fr => .done (if fr.any then s.retireCtx fr.t fr.c else s)) s

/-- Results of 64-bit lanes written to the lanes of E of a destination, with C as result ≠ 0 (R154, R372). -/
def write64 (s : State) (fr : Firing) (vals : List Nat) : State :=
  applyLanes s { fr with w := 64 } (LaneResult.of ((List.range 8).map fun j => (vals.getD j 0, vals.getD j 0 != 0)))

/-- TIME (R372). -/
def execTime (f : Slot) (s : State) : Host.Outcome State Fault Refusal :=
  fire (.time f) (fun s fr =>
    let sec := sectorOf fr.t
    .done (write64 s fr [s.ns % 2 ^ 64, s.cycles sec % 2 ^ 64, s.divider sec])) s

/-- CTX_STATUS (R375). -/
def Ctx.status (cx : Ctx) : Nat := cx.wscope.toNat + 2 * cx.restored.toNat + cx.nulFaults % 2 ^ 16 * 2 ^ 16

/-- A 64-bit number as two 32-bit lanes. -/
def lowHigh (x : Nat) : List Nat := [x % 2 ^ 32, x / 2 ^ 32 % 2 ^ 32]

/-- The values of SREAD (R374). A lath context belongs to no instance: its instance is 0, its depth 0, its origin its own tile (log 19). -/
def sreadValues (s : State) (t c sel : Nat) : List Nat :=
  let d := (s.tileDomain t).getD 0
  let x := s.tileInst t
  match sel with
  | 0 => [(s.ctx t c).status]
  | 1 => lowHigh ((x.map (·.number)).getD 0)
  | 2 => lowHigh ((x.map (·.entryWit)).getD nullWitness).toNat
  | 3 =>
    let o := match x with
      | some i => tileAt i.ox i.oy i.oz
      | none => t
    [o, columnOf o, sectorOf o, d]
  | 4 => [t, c, columnOf t, sectorOf t]
  | 5 => [(x.map (·.depth)).getD 0, (x.map (·.level)).getD 0, (s.domain d).reserveLevel]
  | 6 => [s.poolFree d]
  | _ => lowHigh ((x.map (·.entry.deadline)).getD (2 ^ 64 - 1))

/-- SREAD (R374, R375). -/
def execSread (f : Slot) (s : State) : Host.Outcome State Fault Refusal :=
  fire (.sread f) (fun s fr =>
    let vals := sreadValues s fr.t fr.c (bits fr.f.imm.toNat 0 8)
    let s1 := applyLanes s fr (LaneResult.of ((List.range 16).map fun l => (vals.getD l 0, vals.getD l 0 != 0)))
    if bitAt fr.f.imm.toNat 8 && fr.any then
      let cx := s1.ctx fr.t fr.c
      .done (s1.setCtx fr.t fr.c { cx with wscope := false, restored := false, nulFaults := 0 })
    else .done s1) s

/-- CODE of TRAP and BRKP as DETAIL (R471, R477). -/
def codeDetail (f : Slot) : BitVec 128 := BitVec.ofNat 128 (bits f.imm.toNat 0 16)

/-- TRAP (R477). -/
def execTrap (f : Slot) (s : State) : Host.Outcome State Fault Refusal :=
  fire (.trap f) (fun s fr => if fr.any then .doneThen s { cls := 15, cause := 0, detail := codeDetail fr.f } else .done s) s

/-- BRKP (R476, R477): it halts without firing where breakpoints are on, and passes once after a re-arm. -/
def execBrkp (f : Slot) (s : State) : Host.Outcome State Fault Refusal :=
  fire (.brkp f) (fun s fr =>
    let cx := s.ctx fr.t fr.c
    if cx.brkpPass == some fr.slot then .done (s.setCtx fr.t fr.c { cx with brkpPass := none })
    else if (s.faultQueue ((s.tileDomain fr.t).getD 0)).brkpEn && fr.any then
      .stop { cls := 16, cause := 0, detail := codeDetail fr.f }
    else .done s) s

end Sys2Proof.Machine
end

