-- ==== Sys2Proof/Machine/Place.lean ====
section
/-! DEFINITION. Requests and launches (R346-R371): opcode 0x80 and the events of the ingress ports and of the lath's scan. -/

namespace Sys2Proof.Machine

open Sys2Proof

/-! ### Looking up an image (R349) -/

/-- The image that a domain finds under an identifier: in its cache, then in the library (R349). -/
def State.image? (s : State) (d : Nat) (id : BitVec 128) : Option StoredImage :=
  ((s.imageCache.find? fun c => c.1 == d && c.2.id == id).map (·.2)).or (s.library.find? fun im => im.id == id)

/-- The port records of an image that the header checks accept. -/
def StoredImage.portRecs (im : StoredImage) : List PortRec := if (headerFails im).isEmpty then im.parse.1.ports else []

/-! ### Outcomes of entries -/

/-- A request's result waits to be written (R365). -/
def State.resolve (s : State) (e : PoolEntry) (status inst placed : Nat) (late : Bool) (fail : LoadFail) : State :=
  match e.request with
  | none => s
  | some id => { s with resolved := s.resolved ++
      [(id, [status + late.toNat * 2 ^ 8, inst, placed, fail.tile + fail.ctx * 2 ^ 16 + fail.slot * 2 ^ 24])] }

/-- The entry leaves its pool. -/
def State.dropEntry (s : State) (e : PoolEntry) : State := { s with pool := s.pool.filter fun x => x.id != e.id }

/-- Beats that wait in the output endpoints that a refused request would have linked are discarded (R367); a replacement links none. -/
def State.dropWaiting (s : State) (e : PoolEntry) : State :=
  if e.request.isNone || e.replaces then s
  else match s.image? e.domain e.config with
    | none => s
    | some im =>
      (im.portRecs.filter fun p => p.role == 0 && decide (p.port < 8)).foldl (fun s p =>
        let cx := s.ctx e.tile e.ctx
        match at8 cx.word.obind p.port with
        | .link _ _ => s.setCtx e.tile e.ctx { cx with outs := set8 cx.outs p.port [] }
        | _ => s) s

/-- A port's data beats are sent where they belong (R352, R353). -/
def State.retarget (s : State) (from' goal : FeedTarget) : State :=
  { s with ports := s.ports.map fun p => (p.1, if p.2.target == from' then { p.2 with target := goal, way := none } else p.2) }

/-- An entry is refused or dropped (R74, R355, R356, R365): no region is reserved, its data beats are discarded, its dependants are released. -/
def State.refuse (s : State) (e : PoolEntry) (status : Nat) (late predFailed : Bool) (fail : LoadFail) : State :=
  let s1 := ((s.dropEntry e).dropWaiting e).setFate e.id .failed
  let s2 := s1.retarget (.entry e.domain e.id) .discard
  (s2.resolve e status 0 0 late fail).complete e
    { inst := 0, status := status, flags := late.toNat + 8 * predFailed.toNat, energy := 0, retireWit := nullWitness, placedNs := 0,
      fail := fail }

/-! ### Placement -/

/-- The entry witness of an entry, and whether its predecessor failed (R355); none while the predecessor is pending. -/
def State.entryWitness (s : State) (e : PoolEntry) : Option (W64 × Bool) :=
  match e.pred with
  | none => some (nullWitness, false)
  | some p => match s.fate p with
    | .pending => none
    | .running _ => none
    | .released w => some (w, false)
    | .failed => some (nullWitness, true)

/-- An instance that is saved and has given up its region. -/
def Inst.away (x : Inst) : Bool := x.phase == .saved && x.save.any (·.evicted)

/-- A beat put behind the others of a router port's channel. -/
def State.pushBeat (s : State) (site port vc : Nat) (b : Beat) : State :=
  let r := s.router site
  s.setRouter site { r with ins := SMap.set r.ins (inKey port vc) (r.buf port vc ++ [b]) }

/-- The words that carry an ingress port's beats from its entry tile's router, which they enter by its down port, to a boundary site, which they reach from `dir`,
written where they are not there yet (R507). -/
def State.layFeed (s : State) (d port tx ty tz dir vc : Nat) : Option State :=
  let e := (s.port port).entryTile
  s.layPath d (feedMark port) vc vc (siteX e) (siteY e) 0 5 tx ty tz dir

/-- Where the next data beat of an ingress port enters the fabric, with the words for its path written (R507): the entry tile's router, by its down port. Where
words of another path of the port stand in the way, they are removed once no beat waits for them, and until then, or while no path can be routed, there is no
way in. Where the boundary leads out of the plane or the domain, no words inside the domain reach it from its direction, and the beat enters at the boundary
site itself from there, as R507 has the instance see it (log 19). -/
def State.feedEntry (s : State) (d port tx ty tz dir vc : Nat) : Option (State × Nat × Nat) :=
  let e := (s.port port).entryTile
  let start := siteKeyAbs (siteX e) (siteY e) 0
  let goal := siteKeyAbs tx ty tz
  let apart : Bool := (s.beyond goal dir).all fun p => s.siteDomain p != some d
  if start = goal ∧ dir = 5 then some (s, start, 5)
  else match s.layFeed d port tx ty tz dir vc with
    | some s1 => some (s1, start, 5)
    | none =>
      if !s.wordsQuiet d (feedMark port) then none
      else if apart then some (s.dropFeed port, goal, dir)
      else ((s.dropFeed port).layFeed d port tx ty tz dir vc).map fun s1 => (s1, start, 5)

/-- The path of the launch in progress on an ingress port laid, unless it is (R507): when its instance is placed or attached, or else, where words of another
path of the port had to stay, before its next data beat. -/
def State.openFeed (s : State) (port : Nat) : State :=
  let p := s.port port
  match p.target with
  | .port d n pn =>
    if p.due = 0 || p.way.isSome then s
    else match s.inst? d n with
      | none => s
      | some x => match (((s.image? d x.config).map StoredImage.portRecs).getD []).find? fun r => r.role == 0 && r.port == pn with
        | none => s
        | some r => match (if x.away then none else s.feedEntry d port (x.ox + r.x) (x.oy + r.y) (x.oz + r.z) r.dir (r.vc % 32)) with
          | none => s
          | some (s1, site, dir) => s1.setPort port { s1.port port with way := some (site, dir) }
  | _ => s

/-- A launch delivered to a resident instance (R354): its dependants go at once when the instance has fired ETRG (R355, R371), and a request's ports are linked to
those of the instance (R367), or it is refused when a path cannot be routed. -/
def State.attachEntry (s : State) (e : PoolEntry) (x : Inst) (predFailed : Bool) : State :=
  let s1 := ((s.dropEntry e).setInst { x with attached := x.attached ++ [(e, predFailed)] }).setFate e.id (match x.trigger with
    | some w => .released w
    | none => .running x.number)
  match e.feed with
  | some fd => (s1.retarget (.entry e.domain e.id) (.port e.domain x.number fd.2.1)).openFeed fd.1
  | none =>
    let rg : Region := { ox := x.ox, oy := x.oy, oz := x.oz, tiles := x.region, reserve := x.reserve }
    let ports := ((s.image? e.domain x.config).map StoredImage.portRecs).getD []
    match (if x.away then some s1 else s1.linkRequest e.domain x.number rg e.tile e.ctx ports) with
    | none => s.refuse e 0x0F false predFailed (wholeFail .route)
    | some s2 => s2.resolve e 0 x.number x.placedNs false noFail

/-- The energy that an entry reserves of a window (R363). -/
def Sched.charge (sc : Sched) (e : PoolEntry) : Nat := min e.energy sc.budget

/-- A scan that could not place an entry notes why (R364). -/
def State.unplaced (s : State) (d reason : Nat) : State := s.setSched d { s.schedOf d with reason := reason }

/-- The measurement of a domain after the load of a lath image (R464). -/
def State.measureLoad (s : State) (d : Nat) (g : Image) (id : BitVec 128) : State :=
  if !g.lath then s
  else
    let dm := s.domain d
    let bytes (n x : Nat) : List Nat := (List.range n).map fun k => bits x (8 * k) 8
    s.setDomain d { dm with measure := BitVec.ofNat 256 (shakeBytes (bytes 32 dm.measure.toNat ++ bytes 16 id.toNat) 32) }

/-- An entry placed into a region (R346, R362, R363, R367, R507); a request is refused with LOAD_ROUTE when a link of its ports cannot be routed. A resident launch
sets FALLBACK here when no data beat follows it (R358). -/
def State.placeEntry (s : State) (e : PoolEntry) (g : Image) (rg : Region) (asid : Nat) (wit : W64) (predFailed late : Bool) : State :=
  let d := e.domain
  let dm := s.domain d
  let n := dm.lastInst + 1
  let sc := s.schedOf d
  let resident := e.resident && (e.feed.map (·.2.2)).getD 0 == 0
  let s1 := (s.setDomain d { dm with lastInst := n, fallback := dm.fallback || resident }).setSched d
    { sc with reserved := sc.reserved + sc.charge e, late := if late then min (sc.late + 1) (2 ^ 24 - 1) else sc.late }
  let s2 := ((s1.dropQuietFeeds d).loadImage g rg n asid).measureLoad d g e.config
  let open' := s2.openPorts rg g.ports
  let linked := match e.feed with
    | some _ => some open'
    | none => open'.linkRequest d n rg e.tile e.ctx g.ports
  match linked with
  | none => s.refuse e 0x0F late predFailed (wholeFail .route)
  | some s3 =>
    let x : Inst :=
      { domain := d, number := n, config := e.config, level := g.level, ox := rg.ox, oy := rg.oy, oz := rg.oz, tiles := g.placedTiles rg,
        region := rg.tiles, reserve := rg.reserve, depth := e.depth, parent := e.parent, asid := asid, entryWit := wit, trigger := none,
        entry := e, attached := [], late := late, released := false, killed := false, predFailed := predFailed, placedNs := s.ns,
        lastWits := [], phase := .running, save := none, closed := false, energy := 0 }
    let s4 := { ((s3.dropEntry e).setFate e.id (.running n)) with insts := s3.insts ++ [x] }
    match e.feed with
    | some fd => (s4.retarget (.entry d e.id) (.port d n fd.2.1)).openFeed fd.1
    | none => s4.resolve e 0 n s.ns late noFail

/-- One entry of the pool considered by a scan (R347, R349, R361-R363). -/
def State.tryPlace (s : State) (asid : Nat) (e : PoolEntry) : State :=
  let d := e.domain
  match s.entryWitness e with
  | none => s.unplaced d 3
  | some (wit, pf) =>
    match (if e.attach then s.attachTo d e.config else none) with
    | some x => s.attachEntry e x pf
    | none =>
      match s.image? d e.config with
      | none => s.refuse e 0x23 false pf noFail
      | some im =>
        match loadCheck s.variant (s.domain d).shape.sites (s.signatureOk d im) im with
        | some fl => s.refuse e fl.status.code false pf fl
        | none =>
          let g := im.parse.1
          let sc := s.schedOf d
          if s.neverFits d g then s.refuse e 0x11 false pf (wholeFail .noRegion)
          else if sc.budget < sc.reserved + sc.charge e then
            let s1 := s.setSched d { sc with defer := if e.deferred then sc.defer else min (sc.defer + 1) 0xFFFF, reason := 1 }
            { s1 with pool := s1.pool.map fun x => if x.id = e.id then { x with deferred := true } else x }
          else match s.findRegion d e.depth g with
            | none => s.unplaced d 2
            | some rg =>
              let late := decide (e.deadline < s.ns) && e.deadline != 2 ^ 64 - 1
              if late && e.drop then
                let s1 := s.setSched d { sc with late := min (sc.late + 1) (2 ^ 24 - 1) }
                s1.refuse e 0x20 true pf noFail
              else s.placeEntry e g rg asid wit pf late

/-- Entries in the order of the scan: ascending DEADLINE, then arrival (R361). -/
def scanOrder (es : List PoolEntry) : List PoolEntry := sortByKey (·.deadline) es

/-- Retired instances of a domain are closed and their regions reclaimed (R369, R370). -/
def State.sweep (s : State) (d : Nat) : State :=
  (s.insts.filter fun x => x.domain == d && x.phase == .retired).foldl (fun s x =>
    let s1 := s.closeInst x
    match s1.inst? d x.number with
    | some y => s1.reclaim y
    | none => s1) s

/-- ENERGY_WINDOW (R363, R465): the next window begins once the current one has run its length; deferred entries are considered again. -/
def execEnergyWindow (d : Nat) (s : State) : Host.Outcome State Fault Refusal :=
  if d ≥ 16 then .fault .absentUnit
  else
    let sc := s.schedOf d
    if s.ns < sc.windowStart + 1000 * sc.window ∨ sc.window = 0 then .next s
    else .next { (s.setSched d { sc with windowStart := s.ns, reserved := 0, used := 0, windows := sc.windows + 1 }) with
                 pool := s.pool.map fun e => if e.domain = d then { e with deferred := false } else e }

/-! ### Ingress ports (R350-R355) -/

/-- The head beat of a port's buffer taken. -/
def State.popBeat (s : State) (n : Nat) : State :=
  let p := s.port n
  s.setPort n { p with buffer := p.buffer.tail }

/-- The most recent earlier launch of a domain with a USER (R355). -/
def State.launchOf (s : State) (d user : Nat) : Option Nat :=
  ((s.launches.filter fun r => r.domain == d && r.user == user).getLast?).map (·.id)

/-- A launch packet as an entry (R352). -/
def packetEntry (s : State) (port d : Nat) (b : V512) : PoolEntry :=
  let fl := beatField b 1 1
  let after := beatField b 56 8
  { id := s.nextEntry, domain := d, config := BitVec.ofNat 128 (beatField b 8 16), deadline := beatField b 24 8, energy := beatField b 32 4,
    drop := bitAt fl 0, attach := bitAt fl 1, preemptible := bitAt fl 2, resident := beatField b 0 1 == 2, user := beatField b 48 8,
    completion := beatField b 40 8, feed := some (port, beatField b 2 1, beatField b 4 4), request := none, tile := 0, ctx := 0, depth := 1,
    parent := 0, replaces := false, pred := if after = 0 then none else s.launchOf d after, deferred := false }

/-- The packet is refused with BAD_PACKET (R353). -/
def badPacket (s : State) (d : Nat) (b : V512) (e : PoolEntry) : Bool :=
  let busy := s.inFallback d
  let ins : Option (List PortRec) := match s.image? d e.config with
    | some im => if (headerFails im).isEmpty then some (im.portRecs.filter fun (p : PortRec) => p.role == 0) else none
    | none => none
  let fd := e.feed.getD (0, 0, 0)
  decide (8 ≤ beatField b 1 1) || beatField b 3 1 != 0 || beatField b 36 4 != 0 || busy
  || (e.resident && (e.attach || beatField b 56 8 != 0))
  || match ins with
     | some [] => fd.2.2 != 0
     | some ps => !ps.any fun p => p.port == fd.2.1
     | none => false

/-- Why an entry is refused at its arrival (R85): its image is of level 5 and its domain does not cover the device; a check that fails with a lower code is what is
reported (R75). -/
def State.refusedAtOnce (s : State) (e : PoolEntry) : Option LoadFail :=
  match s.image? e.domain e.config with
  | none => none
  | some im =>
    if (headerFails im).isEmpty && im.at 8 1 == 5 && (s.sectorsOf e.domain).length != 16 then
      some ((loadCheck s.variant (s.domain e.domain).shape.sites (s.signatureOk e.domain im) im).getD (wholeFail .noRegion))
    else none

/-- LAUNCH_PACKET (R352-R355, R358, R360): the packet at the head of a port's buffer is accepted, attached or refused. -/
def execLaunchPacket (port : Nat) (s : State) : Host.Outcome State Fault Refusal :=
  if port ≥ 32 then .fault .absentUnit
  else
    let p := s.port port
    match p.buffer with
    | [] => .next s
    | b :: _ =>
      let kind := beatField b 0 1
      if p.due ≠ 0 || p.discarding || !(kind == 1 || kind == 2) then .next s
      else
        let d := p.domain
        let e := packetEntry s port d b
        let bad := badPacket s d b e
        let goal := if !bad && e.attach then (s.entryWitness e).bind fun w => (s.attachTo d e.config).map fun x => (x, w.2) else none
        let fail := if bad || goal.isSome then none else s.refusedAtOnce e
        if !bad && goal.isNone && fail.isNone && !s.attaches e && s.poolFree d = 0 then .next (s.unplaced d 4)
        else
          let p1 := { p with buffer := p.buffer.tail, due := beatField b 4 4, target := .entry d e.id, way := none }
          let s1 : State := { s.setPort port p1 with
            nextEntry := s.nextEntry + 1, launches := s.launches ++ [{ id := e.id, domain := d, user := e.user, fate := .pending }] }
          if bad then .next (s1.refuse e 0x22 false false noFail)
          else match goal, fail with
            | some x, _ => .next (s1.attachEntry e x.1 x.2)
            | none, some fl => .next (s1.refuse e fl.status.code false (((s.entryWitness e).map (·.2)).getD false) fl)
            | none, none => .next { s1 with pool := s1.pool ++ [e] }

/-- RESYNCHRONISATION_BEAT (R353). -/
def execResynchronisationBeat (port : Nat) (s : State) : Host.Outcome State Fault Refusal :=
  if port ≥ 32 then .fault .absentUnit
  else
    let p := s.port port
    match p.buffer with
    | [] => .next s
    | b :: rest =>
      if p.due ≠ 0 || beatField b 0 1 != 0xA5 then .next s
      else .next (s.setPort port { p with buffer := rest, discarding := false })

/-- UNDELIMITABLE_BEAT (R353): a beat of another KIND starts the discarding, and every beat met while discarding goes. -/
def execUndelimitableBeat (port : Nat) (s : State) : Host.Outcome State Fault Refusal :=
  if port ≥ 32 then .fault .absentUnit
  else
    let p := s.port port
    match p.buffer with
    | [] => .next s
    | b :: rest =>
      let kind := beatField b 0 1
      if p.due ≠ 0 || kind == 0xA5 then .next s
      else if p.discarding then .next (s.setPort port { p with buffer := rest })
      else if kind == 1 || kind == 2 then .next s
      else .next (s.setPort port { p with buffer := rest, discarding := true, bad := min (p.bad + 1) 0xFFFF })

/-- The last of an instance's launches that came by an ingress port, by its place in their order. -/
def Inst.launchAt (x : Inst) (port : Nat) : Nat :=
  (x.launches.zipIdx.filter fun e => e.1.1.feed.any fun fd => fd.1 == port).foldl (fun acc e => max acc e.2) 0

/-- An earlier launch attached to the same PORT of an instance still has data beats to come by another ingress port, or on that port's path (R354). -/
def State.behindAttached (s : State) (port : Nat) (x : Inst) : Bool :=
  match (s.port port).target with
  | .port d _ pn =>
    let here := x.launchAt port
    let earlier (q : Nat) : Bool := x.launches.zipIdx.any fun e => decide (e.2 < here) && e.1.1.feed.any fun fd => fd.1 == q && fd.2.1 == pn
    let owes (q : Nat) : Bool := (s.port q).due != 0 && (s.port q).target == (s.port port).target && decide (x.launchAt q < here)
    (List.range 32).any fun q => q != port && earlier q && (owes q || !s.wordsQuiet d (feedMark q))
  | _ => false

/-- The last data beat of a resident launch sets FALLBACK (R358). -/
def State.noteDelivered (s : State) (port : Nat) (x : Inst) : State :=
  if x.entry.resident && (s.port port).due == 0 && x.phase != .retired then s.setDomain x.domain { s.domain x.domain with fallback := true } else s

/-- LAUNCH_DATA_BEAT (R352-R354, R358, R507): the next data beat of the launch in progress enters the fabric, or is discarded; it waits until the instance is
placed, behind the beats of earlier launches attached to the port, while there is no way in and while the router has no place. -/
def execLaunchDataBeat (port : Nat) (s : State) : Host.Outcome State Fault Refusal :=
  if port ≥ 32 then .fault .absentUnit
  else
    let p := s.port port
    match p.buffer with
    | [] => .next s
    | b :: rest =>
      if p.due = 0 then .next s
      else
        let took := s.setPort port { p with buffer := rest, due := p.due - 1 }
        match p.target with
        | .discard => .next took
        | .entry _ _ => .next s
        | .port d n pn =>
          match s.inst? d n with
          | none => .next took
          | some x =>
            match (((s.image? d x.config).map StoredImage.portRecs).getD []).find? fun r => r.role == 0 && r.port == pn with
            | none => .next (took.noteDelivered port x)
            | some r =>
              if x.away || s.behindAttached port x then .next s
              else
                let s1 := s.openFeed port
                match (s1.port port).way with
                | none => .next s
                | some (site, dir) =>
                  let vc := r.vc % 32
                  if 4 ≤ ((s1.router site).buf dir vc).length then .next s1
                  else .next (((s1.setPort port { s1.port port with buffer := rest, due := p.due - 1 }).pushBeat site dir vc
                    { payload := b, mask := 0xFFFF, tag := 0, vc := ⟨vc, Nat.mod_lt _ (by decide)⟩, poison := false }).noteDelivered port x)

/-! ### CREQ, CREL, ETRG -/

/-- The firing of a request (R365, R366, R387); IMM[3] says whether it replaces the requester's own instance. An image of level 5 that its domain cannot hold is
refused at once (R85). -/
def fireRequest (i : Instr) (s : State) : Host.Outcome State Fault Refusal :=
  fire i (fun s fr =>
    if !fr.any then .done (s.writeDest fr.t fr.c fr.slot fr.f.dst 64 0 [])
    else
      let d := (s.tileDomain fr.t).getD 0
      let x := s.tileInst fr.t
      let depth := (x.map (·.depth)).getD 0
      let imm := fr.f.imm.toNat
      if 8 ≤ depth then
        .done ((write64 s fr [0x21, 0, 0, 0xFFFFFFFF]).report fr.t fr.c fr.slot { cls := 12, cause := 1 })
      else
        let id := s.nextAccess
        let e : PoolEntry :=
          { id := s.nextEntry, domain := d, config := BitVec.ofNat 128 (fr.a64 0 + fr.a64 1 * 2 ^ 64), deadline := fr.a64 2,
            energy := bits (fr.a64 3) 0 32, drop := bitAt imm 0, attach := bitAt imm 1, preemptible := bitAt imm 2, resident := false,
            user := fr.a64 4, completion := 0, feed := none, request := some id, tile := fr.t, ctx := fr.c, depth := depth + 1,
            parent := (x.map (·.number)).getD 0, replaces := bitAt imm 3, pred := none, deferred := false }
        let o : Outstanding :=
          { id := id, tile := fr.t, ctx := fr.c, slot := fr.slot, dst := fr.f.dst, e := fr.e, w := 64, n := 8, predReg := fr.f.predReg,
            predOp := fr.f.predOp, witness := none, quiet := false, a := fr.a.val, b := fr.b.val }
        let s1 : State := { (s.expect fr.t fr.c fr.slot o) with nextAccess := s.nextAccess + 1, nextEntry := s.nextEntry + 1 }
        .done (match s.refusedAtOnce e with
          | some fl => s1.refuse e fl.status.code false false fl
          | none => { s1 with pool := s1.pool ++ [e] })) s

/-- CREQ (R365, R366). -/
def execCreq (f : Slot) (s : State) : Host.Outcome State Fault Refusal := fireRequest (.creq f) s

/-- CREQ with REPLACE (R387): the request names a replacement of the requester's own instance. -/
def execCreqReplace (f : Slot) (s : State) : Host.Outcome State Fault Refusal := fireRequest (.creqReplace f) s

/-- The result of an outstanding firing written to its destination, with its predicate update from C = value not zero, where -0 counts as zero
(R48, R161, R262, R365). -/
def State.deliver (s : State) (o : Outstanding) (vals : List Nat) : State :=
  let cond := maskOfLanes o.w ((List.range o.n).map fun l => typedNonzero o.ty (vals.getD l 0))
  let e := widenMask o.w o.e
  let s1 := { s with outstanding := s.outstanding.filter fun x => x.id != o.id }
  let s2 := match o.dst with
    | .o n =>
      let cx := s1.ctx o.tile o.ctx
      let place (p : Place) : Place := match p with
        | .held id tag => if id = o.id then
            .full { payload := tokenLanes o.w o.n o.e vals, mask := e, tag := tag, vc := (at8 cx.word.obind n.val).vc, poison := false }
          else p
        | p => p
      s1.setOuts o.tile o.ctx o.slot n.val ((at8 cx.outs n.val).map place)
    | dst => s1.writeDest o.tile o.ctx o.slot dst o.w o.e vals
  s2.updatePred o.tile o.ctx o.predOp o.predReg e cond

/-- A request is held in a save image whose instance has given up its region (R382). -/
def State.savedRequest (s : State) (request : Nat) : Bool :=
  s.insts.any fun x => x.away && x.save.any fun im => im.tiles.any fun st => st.creqs.any fun c => c.1.id == request

/-- CREQ_RESOLVE (R365): a resolved request writes its destination, that of an evicted instance once it is restored (R385). -/
def execCreqResolve (request : Nat) (s : State) : Host.Outcome State Fault Refusal :=
  if s.savedRequest request then .next s
  else match s.resolved.find? fun r => r.1 = request, s.outstanding.find? fun o => o.id = request with
  | some r, some o => .next ({ s with resolved := s.resolved.filter fun x => x.1 != request }.deliver o r.2)
  | some _, none => .next { s with resolved := s.resolved.filter fun x => x.1 != request }
  | none, _ => .next s

/-- CREL (R369): the instance is the issuer's own or one below it; of a lath, which has no instance, one that a lath requested or one below that. -/
def execCrel (f : Slot) (s : State) : Host.Outcome State Fault Refusal :=
  fire (.crel f) (fun s fr =>
    if !fr.any then .done s
    else
      let d := (s.tileDomain fr.t).getD 0
      let own := ((s.tileInst fr.t).map (·.number)).getD 0
      let n := if fr.a64 0 = 0 then own else fr.a64 0
      if (s.inst? d n).isNone || !(if own = 0 then s.belowLath d 9 n else s.below d own 9 n) then .stop { cls := 12, cause := 2 }
      else .done (s.releaseInst d n false)) s

/-- ETRG (R371). -/
def execEtrg (f : Slot) (s : State) : Host.Outcome State Fault Refusal :=
  fire (.etrg f) (fun s fr =>
    if !fr.any then .done s
    else
      let w : W64 := BitVec.ofNat 64 (fr.a64 0)
      if s.standing fr.t w == .malformed then .stop { cls := 7, cause := 1, witness := w }
      else match lift s fr.t w 4, s.tileInst fr.t with
        | .waiting, _ => .idle
        | .done _, none => .done s
        | .done l, some x =>
          if x.trigger.isSome then .done s
          else .done (x.launches.foldl (fun s e => s.setFate e.1.id (.released l)) (s.setInst { x with trigger := some l }))) s

end Sys2Proof.Machine
end

