-- ==== Sys2Proof/Machine/Engines.lean ====
section
/-! DEFINITION. What the engines do (R289-R310): reading records, the moves of every command, peer messages, completion, permits and sequencer tokens, and
the appends of the column sequencers. -/

namespace Sys2Proof.Machine

open Sys2Proof

/-! ### Sequencer tokens (R302, R310) -/

/-- Where a token can go now. -/
inductive TokenPlace where
  | to (tile : Nat)
  /-- The context is not resident. -/
  | hold
  | gone
  deriving DecidableEq, Repr

def State.tokenPlace (s : State) (col : Nat) (d : TokenDest) : TokenPlace :=
  if d.inst = 0 then .to d.tile
  else match s.inst? ((s.domainOf (sectorOfColumn col)).getD 0) d.inst with
    | none => .gone
    | some x =>
      if x.phase == .retired then .gone
      else if x.phase == .saved || x.phase == .restoring then .hold
      else match x.tiles[d.place]? with
        | some t => .to t
        | none => .gone

/-- The lowest input endpoint of a context that is bound to the sequencer. -/
def seqEndpoint (cx : Ctx) : Option Nat := (List.range 8).find? fun n => at8 cx.word.ibind n == .sequencer

/-- The payload of a token (R302). -/
def SeqToken.payload (k : SeqToken) : V512 :=
  packLanes 64 [(localWitness (writerOfQueue k.queue) k.number).toNat, k.index, k.status]

/-- A token delivered, or discarded with its context; none when it must wait. -/
def State.sendToken (s : State) (col : Nat) (k : SeqToken) : Option State :=
  let back (s : State) : State := if k.permit && k.gen == (s.cmdQueue k.queue).gen then s.returnPermit k.queue else s
  match s.tokenPlace col k.dest with
  | .hold => none
  | .gone => some (back s)
  | .to t =>
    let cx := s.ctx t k.dest.ctx
    match seqEndpoint cx with
    | none => some (back s)
    | some n =>
      if cx.run == .retired then some (back s)
      else if cx.held || decide (8 ≤ (at8 cx.ins n).length) then none
      else some (back (s.setCtx t k.dest.ctx
        { cx with ins := set8 cx.ins n (at8 cx.ins n ++ [{ payload := k.payload, mask := 0xFFFF, tag := 0, vc := 0, poison := false }]) }))

/-- The tokens of a sequencer sent as far as they can be; those of one queue keep their order. -/
def flushList (col : Nat) : List SeqToken → List SeqToken → State → List SeqToken × State
  | [], kept, s => (kept, s)
  | k :: rest, kept, s =>
    if kept.any fun j => j.queue == k.queue then flushList col rest (kept ++ [k]) s
    else match s.sendToken col k with
      | some s1 => flushList col rest kept s1
      | none => flushList col rest (kept ++ [k]) s

def State.flushTokens (s : State) (col : Nat) : State :=
  let r := flushList col (s.sequencer col).tokens [] s
  let sq := r.2.sequencer col
  r.2.setSequencer col { sq with tokens := r.1 }

/-- The context of a token binds a sequencer endpoint. -/
def State.tokenBound (s : State) (col : Nat) (d : TokenDest) : Bool :=
  match s.tokenPlace col d with
  | .to t => (seqEndpoint (s.ctx t d.ctx)).isSome
  | .hold => true
  | .gone => false

/-- The tokens of a queue that any sequencer still holds sent as far as they can be. -/
def State.flushQueue (s : State) (q : Nat) : State :=
  (s.seqs.filter fun x => x.2.tokens.any fun k => k.queue == q).foldl (fun s x => s.flushTokens x.1) s

/-- The token of an iteration put behind the others of the sequencer that runs its program. -/
def State.tell (s : State) (q : Nat) (c : Command) (it : Iteration) (status : Nat) (permit : Bool) : State :=
  let sq := s.sequencer it.col
  (s.setSequencer it.col { sq with tokens := sq.tokens ++
    [{ queue := q, dest := it.dest, number := c.number, index := it.index, status := status, permit := permit, gen := it.gen }] }).flushTokens it.col

/-! ### Completion (R67, R289, R294) -/

/-- The permit of a completed command: owed to the mirror, or tied to a token that is not delivered yet (R302); an owner attached since the command was appended
has its permit at the completion (R288). -/
def State.owePermit (s : State) (q : Nat) (c : Command) (status : Nat) : State :=
  let owed (s : State) : State := let x := s.cmdQueue q; s.setCmdQueue q { x with owed := x.owed + 1 }
  match c.iter with
  | none => owed s
  | some it =>
    let col := it.col
    let sq := s.sequencer col
    let late (s : State) : State := if it.gen = (s.cmdQueue q).gen then s else owed s
    let mine (k : SeqToken) : Bool := k.queue == q && k.number == c.number
    if c.told then
      if sq.tokens.any mine then
        late (s.setSequencer col { sq with tokens := sq.tokens.map fun k => if mine k then { k with permit := true } else k })
      else owed s
    else if s.tokenBound col it.dest then late (s.tell q c it status true)
    else owed s

/-- The head command completes with a status (R289). -/
def State.commandDone (s : State) (q : Nat) (c : Command) (status : Nat) : State :=
  let x := s.cmdQueue q
  let s1 := s.setCmdQueue q { x with commands := x.commands.tail, done := c.number, status := status, stopped := false }
  (s1.owePermit q c status).dropJoins

/-- Address of a command's record in memory, 0 for an inline command or an unknown one (R471). -/
def Command.address (c : Command) : Nat :=
  match c.source with
  | .chain (some a) _ _ => a
  | _ => 0

/-- QUEUE_STOP (R67, R294): the queue stops at its head command, and a fault record says so. -/
def State.stopQueue (s : State) (q : Nat) (c : Command) (r : EngineRun) (status : Nat) : State :=
  let x := s.cmdQueue q
  let s1 := s.setCmdQueue q { x with stopped := true, status := status, commands := { c with told := true } :: x.commands.tail }
  let rec' := s.unitRecord (writerOfQueue q) 10 3 r.bad (BitVec.ofNat 128 (q + status * 2 ^ 16 + c.address * 2 ^ 64))
  let s2 := s1.send { rec' with halted := true, witness := if bitAt (recWord r.record 0) 8 then recWit r.record else nullWitness }
  match c.iter with
  | some it => if !c.told && s.tokenBound it.col it.dest then s2.tell q c it status false else s2
  | none => s2

/-- A STATUS word has a place: the record lies in memory at a known address (R63, R67). -/
def Command.statusAt (c : Command) : Option Nat :=
  match c.source with
  | .chain (some a) _ _ => some (wrap 64 ((a : Int) + 60))
  | _ => none

/-- ENGINE_COMMAND_COMPLETION (R67, R289): STATUS is written first; once every access has been performed the command completes, or stops its queue.
USER stays in W7 beside STATUS, where the completion's reader finds it; the spec names no other place to which it is returned (DESIGN CHOICE, log 67). -/
def execEngineCommandCompletion (q : Nat) (s : State) : Host.Outcome State Fault Refusal :=
  if 272 ≤ q then .fault .absentUnit
  else match s.headCommand q with
  | none => .next s
  | some c => match c.run with
    | none => .next s
    | some r => match r.status with
      | none => .next s
      | some st =>
        if s.engineBusy q then .next s
        else match (if r.stored then none else c.statusAt) with
          | some va =>
            match writePieces q false va 2 st (granulesOf va 2) s with
            | (.error e, s1) => .next (s1.setRun q { r with stored := true, status := some (if st = 0 then e.1 else st), bad := if st = 0 then e.2 else r.bad })
            | (.ok ps, s1) => .next ((s1.issue (engineAccess s1 q c.number ps)).setRun q { r with stored := true })
          | none => .next (if st = 0 then s.commandDone q c 0 else s.stopQueue q c r st)

/-- PERMIT_RETURN (R288, R302): the tokens that can be delivered are, and one permit owed reaches the owner's mirror. -/
def execPermitReturn (q : Nat) (s : State) : Host.Outcome State Fault Refusal :=
  if 272 ≤ q then .fault .absentUnit
  else
    let s1 := s.flushQueue q
    let x := s1.cmdQueue q
    if x.owed = 0 then .next s1 else .next ((s1.setCmdQueue q { x with owed := x.owed - 1 }).returnPermit q)

/-! ### Reading a record (R66, R292, R295) -/

/-- The record of the head command is known: the address of the chain's next record is NEXT, and the record's own checks are made. -/
def State.haveRecord (s : State) (q : Nat) (c : Command) (rec' : V512) : State :=
  let inline := match c.source with | .inline _ => true | _ => false
  let follow (d : Command) : Command := match c.source, d.source with
    | .chain _ _ h, .chain none w k => if h = k then { d with source := .chain (some (recNext rec')) w k } else d
    | _, _ => d
  let x := s.cmdQueue q
  let rest := match x.commands.tail with
    | [] => []
    | d :: ds => follow d :: ds
  s.setCmdQueue q { x with commands :=
    { c with record := some rec', run := some { EngineRun.start rec' with status := recordStatus q inline rec' } } :: rest }

/-- ENGINE_RECORD_READ (R66, R290, R292, R295). A record that has been read is kept for a RETRY. -/
def execEngineRecordRead (q : Nat) (s : State) : Host.Outcome State Fault Refusal :=
  if 272 ≤ q then .fault .absentUnit
  else match s.headCommand q with
  | none => .next s
  | some c => match c.record, c.run, c.source with
    | some rec', none, _ => .next (s.haveRecord q c rec')
    | none, none, .inline rec' => .next (s.haveRecord q c rec')
    | none, none, .chain (some a) w _ =>
      if a % 64 ≠ 0 then .next (s.setRun q { EngineRun.start 0 with status := some 3, bad := a })
      else match s.standing (writerOfQueue q) w with
        | .pending => .next (s.noteLift (writerOfQueue q) w)
        | .malformed => .next (s.setRun q { EngineRun.start 0 with status := some 7 })
        | _ => .next (s.engineRead q false (EngineRun.start 0) [(a, 64)])
    | none, some r, _ =>
      (match r.reading with
       | none => .next s
       | some id =>
         if s.engineBusy q then .next s
         else match s.takeRead id with
           | (.error e, s1) => .next (s1.endAt q r e)
           | (.ok x, s1) => .next (s1.haveRecord q c (BitVec.ofNat 512 x)))
    | _, _, _ => .next s

/-! ### The moves of a command -/

/-- One move of the head command when it is of the kind named: IN_WIT is waited for first (R292), and no move is made while an access of the command is
in flight. -/
def engineMove (q cmd : Nat) (body : State → Nat → EngineRun → State) (s : State) : Host.Outcome State Fault Refusal :=
  if 272 ≤ q then .fault .absentUnit
  else match s.headCommand q with
  | none => .next s
  | some c => match c.record, c.run with
    | some rec', some r =>
      if r.status.isSome || recCmd rec' != cmd || s.engineBusy q then .next s
      else if !r.started then
        match (if bitAt (recWord rec' 0) 8 then s.standing (writerOfQueue q) (recWit rec') else .satisfied) with
        | .pending => .next (s.noteLift (writerOfQueue q) (recWit rec'))
        | .malformed => .next (s.endWith q r 7)
        | _ => .next (s.setRun q { r with started := true })
      else .next (body s c.number r)
    | _, _ => .next s

/-- A command that is one job, then done. -/
def jobCommand (q : Nat) (near : Bool) (j : EngineRun → Job) (s : State) (number : Nat) (r : EngineRun) : State :=
  match r.job with
  | some k => s.jobMove q number near r k
  | none => if r.phase = 0 then s.setRun q { r with job := some (j r) } else s.endWith q r 0

/-- A job from its start. -/
def mkJob (op : Option (Nat × Ty)) (a b : Bytes') (dst len next : Nat) : Job :=
  { op := op, a := a, b := b, dst := dst, len := len, pos := 0, next := next }

/-- A copy of a record's SRC to its DST. -/
def copyJob (r : EngineRun) : Job :=
  { op := none, a := .mem (recSrc r.record), b := .val 0, dst := recDst r.record, len := recLen r.record, pos := 0, next := 1 }

/-- HAWK_COPY (R304). -/
def execHawkCopy (q : Nat) (s : State) : Host.Outcome State Fault Refusal := engineMove q 1 (jobCommand q false copyJob) s

/-- HAWK_REDUCE (R304). -/
def execHawkReduce (q : Nat) (s : State) : Host.Outcome State Fault Refusal :=
  engineMove q 2 (jobCommand q false fun r =>
    { copyJob r with op := some (bits (recWord r.record 0) 16 4, (Ty.ofCode (bits (recWord r.record 0) 20 4)).getD .none),
                     b := .mem (recAux r.record) }) s

/-- NEAR_DRAM_ZERO (R308). -/
def execNearDramZero (q : Nat) (s : State) : Host.Outcome State Fault Refusal :=
  engineMove q 0x11 (jobCommand q true fun r => { copyJob r with a := .val 0 }) s

/-- NEAR_DRAM_COPY (R308). -/
def execNearDramCopy (q : Nat) (s : State) : Host.Outcome State Fault Refusal := engineMove q 0x12 (jobCommand q true copyJob) s

/-- HAWK_FINGERPRINT (R305): the bytes come to hand in ascending order, then the digest is written. -/
def execHawkFingerprint (q : Nat) (s : State) : Host.Outcome State Fault Refusal :=
  engineMove q 5 (fun s number r =>
    let len := recLen r.record
    match r.phase with
    | 0 => s.gather q r (recSrc r.record) len 16 1
    | 1 =>
      if len = 0 then s.endWith q r 0
      else s.engineWrite q number false { r with phase := 2 } (recAux r.record) 32
        (shakeBytes ((List.range len).map fun k => bits r.data (8 * k) 8) 32)
    | _ => s.endWith q r 0) s

/-- The first byte at which two granules differ. -/
def firstDiff (a b : Nat) : Option Nat := (List.range 16).find? fun k => bits a (8 * k) 8 != bits b (8 * k) 8

/-- The result of a comparison of len bytes with the first difference found (R308). -/
def compareResult (len : Nat) (found : List Nat) : Nat :=
  match found with
  | [] => len + 2 ^ 63
  | k :: _ => k

/-- NEAR_DRAM_COMPARE (R308): granule by granule in ascending order; the result word is written at AUX. -/
def execNearDramCompare (q : Nat) (s : State) : Host.Outcome State Fault Refusal :=
  engineMove q 0x13 (fun s number r =>
    let len := recLen r.record
    if r.phase ≠ 0 then s.endWith q r 0
    else match r.reading with
      | some id => match s.takeRead id with
        | (.error e, s1) => s1.endAt q r e
        | (.ok x, s1) =>
          let found := if r.counts.isEmpty then ((firstDiff (bits x 0 128) (bits x 2048 128)).map (· + r.pos)).toList else r.counts
          s1.setRun q { r with reading := none, pos := r.pos + 16, counts := found }
      | none =>
        if r.pos < len then
          s.engineRead q true r [(wrap 64 ((recSrc r.record : Int) + r.pos), 16), (wrap 64 ((recDst r.record : Int) + r.pos), 16)]
        else s.engineWrite q number false { r with phase := 1 } (recAux r.record) 8 (compareResult len r.counts)) s

/-- A piece of an access lies in a sector's near DRAM. -/
def Piece.nearSector (p : Piece) (sec : Nat) : Bool := tierOf (16 * p.gran) == 2 && bits (16 * p.gran) 33 4 == sec

/-- NEAR_DRAM_FENCE (R309): it waits for the accesses of others to the sector's near DRAM that were fired and free to be performed when it reached the head
of its queue. -/
def execNearDramFence (q : Nat) (s : State) : Host.Outcome State Fault Refusal :=
  engineMove q 0x14 (fun s _ r =>
    let sec := q - 256
    if r.phase = 0 then
      let ahead := s.accesses.filter fun a => a.writer != writerOfQueue q && (a.pieces.any fun p => p.nearSector sec)
        && (a.origin != .skim || s.standing a.writer a.given != .pending)
      s.setRun q { r with phase := 1, fence := ahead.map (·.id) }
    else if s.accesses.any fun a => r.fence.contains a.id && a.pieces.any fun p => p.nearSector sec then s
    else s.endWith q r 0) s

/-! ### Messages between engines (R306, R307) -/

/-- A message sent to a peer: to an engine of this module, or out of the module. -/
def State.sendPeer (s : State) (q toModule toEngine gen : Nat) (body : PeerBody) : State :=
  let m : PeerMsg := { module' := s.moduleIndex, engine := q, gen := gen, body := body }
  if toModule = s.moduleIndex then { s with messages := s.messages ++ [(toEngine, m)] }
  else { s with peerOut := s.peerOut ++ [(toModule, toEngine, m)] }

/-- A message held for a queue. -/
def State.hold (s : State) (q : Nat) (m : PeerMsg) : State :=
  let x := s.cmdQueue q
  s.setCmdQueue q { x with inbox := x.inbox ++ [m] }

/-- The first of a list that a test accepts, and the others. -/
def takeFirst {α : Type} (p : α → Bool) : List α → Option (α × List α)
  | [] => none
  | x :: xs => if p x then some (x, xs) else (takeFirst p xs).map fun r => (r.1, x :: r.2)

/-- ENGINE_PEER_MESSAGE (R306, R307): a message on its way within the module, or one from another module, arrives and is held until a command expects it. -/
def execEnginePeerMessage (q : Nat) (msg : Option PeerMsg) (s : State) : Host.Outcome State Fault Refusal :=
  if 256 ≤ q then .fault .absentUnit
  else match msg with
    | some m => if m.module' = s.moduleIndex then .next s else .next (s.hold q m)
    | none => match takeFirst (fun x : Nat × PeerMsg => x.1 == q) s.messages with
      | none => .next s
      | some (x, rest) => .next ({ s with messages := rest }.hold q x.2)

/-! ### All-to-all (R306) -/

/-- PEERS, RANK and GEN. -/
def a2aPeers (r : EngineRun) : Nat := bits (recWord r.record 3) 0 16
def a2aRank (r : EngineRun) : Nat := bits (recWord r.record 3) 16 16
def a2aGen (r : EngineRun) : Nat := bits (recWord r.record 3) 32 32

/-- Engine and module of a rank, and its SEND_COUNT, in a table of P ranks. -/
def a2aEngine (table k : Nat) : Nat := bits table (64 * k) 8
def a2aModule (table k : Nat) : Nat := bits table (64 * k + 8) 19
def a2aSend (table peers k : Nat) : Nat := bits table (64 * (peers + k)) 64

/-- Exclusive prefix sums. -/
def prefixSum (xs : List Nat) (k : Nat) : Nat := (xs.take k).foldl (· + ·) 0

/-- The status of a table (R306). -/
def a2aStatus (s : State) (q : Nat) (r : EngineRun) (table : Nat) : Option Nat :=
  let p := a2aPeers r
  let ks := List.range p
  if ks.any fun k => bits table (64 * k + 27) 37 != 0 then some 1
  else if a2aEngine table (a2aRank r) ≠ q ∨ a2aModule table (a2aRank r) ≠ s.moduleIndex then some 1
  else if ks.any fun k => a2aSend table p k % 16 != 0 then some 3
  else none

/-- A message from a rank with the command's GEN. -/
def fromRank (r : EngineRun) (k : Nat) (m : PeerMsg) : Bool :=
  m.gen == a2aGen r && m.engine == a2aEngine r.table k && m.module' == a2aModule r.table k

/-- The ranks other than the engine's own. -/
def otherRanks (r : EngineRun) : List Nat := (List.range (a2aPeers r)).filter fun k => k != a2aRank r

/-- Messages of a kind taken from every rank of a list, with what they say; none while one is missing. -/
def takeFrom (r : EngineRun) (kind : PeerBody → Option Nat) : List Nat → List PeerMsg → Option (List (Nat × Nat) × List PeerMsg)
  | [], box => some ([], box)
  | k :: ks, box =>
    match takeFirst (fun m => fromRank r k m && (kind m.body).isSome) box with
    | none => none
    | some (m, rest) => (takeFrom r kind ks rest).map fun x => ((k, (kind m.body).getD 0) :: x.1, x.2)

/-- The messages held for a queue replaced. -/
def State.setInbox (s : State) (q : Nat) (box : List PeerMsg) : State :=
  let x := s.cmdQueue q
  s.setCmdQueue q { x with inbox := box }

/-- RECV_COUNT and RECV_OFF as they are written (R306). -/
def a2aReceived (counts : List Nat) : Nat :=
  packNat 64 (counts ++ (List.range counts.length).map (prefixSum counts))

/-- A message sent to a rank. -/
def State.sendRank (s : State) (q : Nat) (r : EngineRun) (k : Nat) (body : PeerBody) : State :=
  s.sendPeer q (a2aModule r.table k) (a2aEngine r.table k) (a2aGen r) body

/-- The next block to be sent, the local copy, or the end of the sends (R306, step 3). -/
def a2aSendMove (s : State) (q : Nat) (r : EngineRun) : State :=
  let p := a2aPeers r
  let sends := (List.range p).map (a2aSend r.table p)
  let n := sends.getD r.step 0
  let src := wrap 64 ((recSrc r.record : Int) + prefixSum sends r.step)
  if p ≤ r.step then s.setRun q { r with phase := 5, step := 0 }
  else if n = 0 then s.setRun q { r with step := r.step + 1 }
  else if r.step = a2aRank r then
    s.setRun q { r with step := r.step + 1, job := some (mkJob none (.mem src) (.val 0) (wrap 64 ((recDst r.record : Int) + prefixSum r.counts r.step)) n 4) }
  else s.gather q r src n 256 8

/-- The next received block to be written, in whatever order they come, or the end of the receives (R306, step 4). -/
def a2aReceiveMove (s : State) (q : Nat) (r : EngineRun) : State :=
  let due := (otherRanks r).filter fun k => r.counts.getD k 0 != 0 && !r.fence.contains k
  if due.isEmpty then s.setRun q { r with phase := 6 }
  else
    let block (m : PeerMsg) : Option (Nat × Nat) := match m.body with
      | .block data => (due.find? fun k => fromRank r k m).map fun k => (k, data)
      | _ => none
    match takeFirst (fun m => (block m).isSome) (s.cmdQueue q).inbox with
    | none => s
    | some (m, rest) =>
      let x := (block m).getD (0, 0)
      (s.setInbox q rest).setRun q { r with fence := x.1 :: r.fence, peer := x.1, job := some (mkJob none (.val x.2) (.val 0)
        (wrap 64 ((recDst r.record : Int) + prefixSum r.counts x.1)) (r.counts.getD x.1 0) 7) }

/-- One move of an all-to-all (R306). Phases: 0 the table; 1 counts out; 2 counts in; 3 RECV_COUNT and RECV_OFF; 4 blocks out; 5 blocks in; 6 the peers have
written what they were sent; 7 a block is acknowledged; 8 a block is sent. -/
def allToAllMove (q : Nat) (s : State) (number : Nat) (r : EngineRun) : State :=
  let p := a2aPeers r
  match r.job with
  | some j => s.jobMove q number false r j
  | none =>
    match r.phase with
    | 0 => s.gather q r (recAux r.record) (16 * p) 256 1
    | 1 =>
      (match a2aStatus s q r r.data with
       | some st => s.endWith q r st
       | none =>
         let r1 := { r with table := r.data, data := 0, pos := 0, phase := 2 }
         ((otherRanks r1).foldl (fun s k => s.sendRank q r1 k (.count (a2aSend r1.table p k))) s).setRun q r1)
    | 2 =>
      (match takeFrom r (fun b => match b with | .count n => some n | _ => none) (otherRanks r) (s.cmdQueue q).inbox with
       | none => s
       | some (got, box) =>
         let counts := (List.range p).map fun k =>
           if k = a2aRank r then a2aSend r.table p k else ((got.find? fun x => x.1 == k).map (·.2)).getD 0
         (s.setInbox q box).setRun q { r with counts := counts, phase := 3 })
    | 3 => s.engineWrite q number false { r with phase := 4, step := 0 } (wrap 64 ((recAux r.record : Int) + 16 * p)) (16 * p) (a2aReceived r.counts)
    | 4 => a2aSendMove s q r
    | 5 => a2aReceiveMove s q r
    | 6 =>
      (match takeFrom r (fun b => match b with | .written => some 0 | _ => none)
          ((otherRanks r).filter fun k => a2aSend r.table p k != 0) (s.cmdQueue q).inbox with
       | none => s
       | some (_, box) => (s.setInbox q box).endWith q r 0)
    | 7 => (s.sendRank q r r.peer .written).setRun q { r with phase := 5 }
    | _ => (s.sendRank q r r.step (.block r.data)).setRun q { r with phase := 4, step := r.step + 1, data := 0, pos := 0 }

/-- HAWK_ALL_TO_ALL (R306). -/
def execHawkAllToAll (q : Nat) (s : State) : Host.Outcome State Fault Refusal := engineMove q 3 (allToAllMove q) s

/-! ### Collective replay (R307) -/

/-- STEPS, SRC_SPAN and DST_SPAN of a graph's header. -/
def graphSteps (h : Nat) : Nat := bits h 0 16
def graphSrcSpan (h : Nat) : Nat := bits h 64 64
def graphDstSpan (h : Nat) : Nat := bits h 128 64

/-- The status of a header (R303, R307). -/
def headerStatus (h : Nat) : Option Nat :=
  if bits h 16 48 ≠ 0 ∨ bits h 192 320 ≠ 0 then some 2 else if graphSteps h < 1 ∨ 4096 < graphSteps h then some 3 else none

/-- Fields of a step. -/
def stepKind (x : Nat) : Nat := bits x 0 4
def stepOp (x : Nat) : Nat := bits x 4 4
def stepTy (x : Nat) : Option Ty := Ty.ofCode (bits x 8 4)
def stepTag (x : Nat) : Nat := bits x 16 16
def stepEngine (x : Nat) : Nat := bits x 32 8
def stepModule (x : Nat) : Nat := bits x 40 19
def stepSrc (x : Nat) : Nat := bits x 64 64
def stepDst (x : Nat) : Nat := bits x 128 64
def stepLen (x : Nat) : Nat := bits x 192 40

/-- An offset that is not below its span, or a chunk that passes it (R307). -/
def passesSpan (span off len : Nat) : Bool := decide (span ≤ off) || decide (span < off + len)

/-- The status that a step's own fields give it (R307): the codes in ascending order. -/
def stepStatus (h x : Nat) : Option Nat :=
  let kind := stepKind x
  let reduces := kind == 2 || kind == 5
  let usesSrc := kind == 1 || kind == 2 || kind == 3
  let usesDst := kind != 3
  if kind = 0 ∨ 5 < kind then some 1
  else if reduces && !(match stepTy x with | some ty => reducePair (stepOp x) ty | none => false) then some 1
  else if bits x 12 4 != 0 || bits x 59 5 != 0 || bits x 232 24 != 0 || (!reduces && bits x 4 8 != 0) || (decide (kind ≤ 2) && bits x 32 27 != 0) then
    some 2
  else if stepSrc x % 16 != 0 || stepDst x % 16 != 0 || stepLen x % 16 != 0
      || (usesSrc && passesSpan (graphSrcSpan h) (stepSrc x) (stepLen x)) || (usesDst && passesSpan (graphDstSpan h) (stepDst x) (stepLen x)) then some 3
  else none

/-- Addresses of a step's chunks. -/
def srcChunk (r : EngineRun) : Nat := wrap 64 ((recSrc r.record : Int) + stepSrc r.item)
def dstChunk (r : EngineRun) : Nat := wrap 64 ((recDst r.record : Int) + stepDst r.item)

/-- GEN of a replay. -/
def graphGen (r : EngineRun) : Nat := bits (recWord r.record 3) 0 32

/-- A message from the peer that a step names, with the graph's GEN. -/
def fromPeer (r : EngineRun) (m : PeerMsg) : Bool :=
  m.gen == graphGen r && m.engine == stepEngine r.item && m.module' == stepModule r.item

/-- The next step of a graph. -/
def nextStep (r : EngineRun) : EngineRun := { r with phase := 1, step := r.step + 1, data := 0, pos := 0, item := 0 }

/-- A step starts (R307). -/
def graphStep (s : State) (q : Nat) (r : EngineRun) : State :=
  let x := r.item
  let op := some (stepOp x, (stepTy x).getD .none)
  match stepStatus r.table x with
  | some st => s.endWith q r st
  | none =>
    match stepKind x with
    | 1 => s.setRun q { r with job := some (mkJob none (.mem (srcChunk r)) (.val 0) (dstChunk r) (stepLen x) 6) }
    | 2 => s.setRun q { r with job := some (mkJob op (.mem (dstChunk r)) (.mem (srcChunk r)) (dstChunk r) (stepLen x) 6) }
    | 3 =>
      (match takeFirst (fun m => fromPeer r m && m.body == .ready (stepTag x)) (s.cmdQueue q).inbox with
       | none => s
       | some (_, box) => (s.setInbox q box).setRun q { r with phase := 3 })
    | _ => (s.sendPeer q (stepModule x) (stepEngine x) (graphGen r) (.ready (stepTag x))).setRun q { r with phase := 5 }

/-- The chunk that a receive waits for (R307). -/
def graphReceive (s : State) (q : Nat) (r : EngineRun) : State :=
  let x := r.item
  let chunk (m : PeerMsg) : Option (Nat × Nat) := match m.body with
    | .chunk tag len data => if fromPeer r m && tag == stepTag x then some (len, data) else none
    | _ => none
  match takeFirst (fun m => (chunk m).isSome) (s.cmdQueue q).inbox with
  | none => s
  | some (m, box) =>
    let c := (chunk m).getD (0, 0)
    let s1 := s.setInbox q box
    if c.1 ≠ stepLen x then s1.endWith q r 3
    else
      let op := if stepKind x = 5 then some (stepOp x, (stepTy x).getD .none) else none
      s1.setRun q { r with job := some (mkJob op (if stepKind x = 5 then .mem (dstChunk r) else .val c.2) (.val c.2) (dstChunk r) (stepLen x) 6) }

/-- One move of a replay (R307). Phases: 0 the header; 1 a step is read; 2 it starts; 3 a chunk is read; 4 it is sent; 5 a chunk is waited for;
6 the step is done; 7 the header is checked; 8 a step has been read. -/
def replayMove (q : Nat) (s : State) (number : Nat) (r : EngineRun) : State :=
  match r.job with
  | some j => s.jobMove q number false r j
  | none =>
    match r.phase with
    | 0 => s.gather q r (recAux r.record) 64 64 7
    | 1 =>
      if graphSteps r.table ≤ r.step then s.endWith q r 0
      else s.gather q r (wrap 64 ((recAux r.record : Int) + 64 + 32 * r.step)) 32 32 8
    | 2 => graphStep s q r
    | 3 => s.gather q r (srcChunk r) (stepLen r.item) 256 4
    | 4 =>
      (s.sendPeer q (stepModule r.item) (stepEngine r.item) (graphGen r) (.chunk (stepTag r.item) (stepLen r.item) r.data)).setRun q (nextStep r)
    | 5 => graphReceive s q r
    | 6 => s.setRun q (nextStep r)
    | 7 =>
      (match headerStatus r.data with
       | some st => s.endWith q r st
       | none => s.setRun q { r with table := r.data, data := 0, pos := 0, phase := 1, step := 0 })
    | _ => s.setRun q { r with item := r.data, data := 0, pos := 0, phase := 2 }

/-- HAWK_COLLECTIVE_REPLAY (R307). -/
def execHawkCollectiveReplay (q : Nat) (s : State) : Host.Outcome State Fault Refusal := engineMove q 4 (replayMove q) s

/-! ### The column sequencer (R300, R301) -/

/-- The unit by whose views a sequencer reads witnesses: an engine of its column, whose groups are the column's. -/
def sequencerUnit (col : Nat) : Nat := 4608 + 4 * col

/-- An entry's condition holds (R300). -/
def State.entryReady (s : State) (col : Nat) (e : TableEntry) : Bool :=
  match e.cond with
  | .full runs => runs.all fun r => (List.range r.2).all fun k => s.mem.isFull (r.1 + k)
  | .witness w => s.standing (sequencerUnit col) w == .satisfied || s.standing (sequencerUnit col) w == .dropped

/-- The sequencer uses the witness of an entry's condition (R246). -/
def State.useCondition (s : State) (col : Nat) (e : TableEntry) : State :=
  match e.cond with
  | .full _ => s
  | .witness w => s.noteLift (sequencerUnit col) w

/-- The entries of a table whose conditions hold at this instant are ready from now on (R300). -/
def State.noteReady (s : State) (col : Nat) : State :=
  let sq := s.sequencer col
  s.setSequencer col { sq with table := sq.table.map fun e => { e with ready := e.ready || s.entryReady col e } }

/-- The same of every table, at an instant at which granules have become full. -/
def State.noteAllReady (s : State) : State := (s.seqs.filter fun x => !x.2.table.isEmpty).foldl (fun s x => s.noteReady x.1) s

/-- DEPENDENCY_ENTRY_APPEND (R300): a ready entry is appended when the permits allow; among ready entries of one queue the lowest goes first. -/
def execDependencyEntryAppend (col entry : Nat) (s : State) : Host.Outcome State Fault Refusal :=
  if 64 ≤ col then .fault .absentUnit
  else
    let sq := s.sequencer col
    match sq.table.find? fun e => e.entry == entry with
    | none => .next s
    | some e =>
      let isReady (x : TableEntry) : Bool := x.ready || s.entryReady col x
      let first := sq.table.all fun x => !(x.queue == e.queue && decide (x.entry < e.entry) && isReady x)
      let free := match s.seqPermits col e.queue with
        | some n => decide (e.count ≤ n)
        | none => false
      if s.phase != 8 then .next s
      else if !isReady e then .next (s.useCondition col e)
      else if !first || !free then .next (s.noteReady col)
      else
        let s1 := s.setSequencer col { sq with table := sq.table.filter fun x => x.entry != entry }
        let n := s1.tail e.queue + 1
        .next ((s1.append e.queue ((chainSources e.first e.wit n e.count).map fun c => (c, none))).chargeSeq col e.queue e.count)

/-- Command i of a program (R301). -/
def iterationRecord (t : V512) (i : Nat) : V512 :=
  let w6 := recWord t 6
  packLanes 64 [recWord t 0, wrap 64 ((recWord t 1 : Int) + i * sgn 32 (bits w6 0 32)), wrap 64 ((recWord t 2 : Int) + i * sgn 32 (bits w6 32 32)),
    recWord t 3, recWord t 4, recWord t 5, 0, i % 2 ^ 32 + bits (recWord t 7) 32 32 * 2 ^ 32]

/-- The program is stopped with its queue by one of its own commands (R301). -/
def State.programStopped (s : State) (q : Nat) : Bool :=
  let x := s.cmdQueue q
  x.stopped && match x.commands with
    | c :: _ => c.iter.isSome
    | [] => false

/-- SEQUENCER_ITERATION_APPEND (R301): the next command of a program is appended when a permit is free. -/
def execSequencerIterationAppend (col q : Nat) (s : State) : Host.Outcome State Fault Refusal :=
  if 64 ≤ col ∨ 272 ≤ q then .fault .absentUnit
  else
    let sq := s.sequencer col
    match sq.programs.find? fun p => p.queue == q with
    | none => .next s
    | some p =>
      let free := match s.seqPermits col q with
        | some n => decide (1 ≤ n)
        | none => false
      if s.phase != 8 || !free || s.programStopped q then .next s
      else
        let ps := if p.next + 1 < p.iters then sq.programs.map fun x => if x.queue == q then { x with next := x.next + 1 } else x
          else sq.programs.filter fun x => x.queue != q
        let s1 := s.setSequencer col { sq with programs := ps }
        .next ((s1.append q [(.inline (iterationRecord p.template p.next), some
          { index := p.next, dest := p.dest, col := col, gen := (s1.cmdQueue q).gen })]).chargeSeq col q 1)

end Sys2Proof.Machine
end

