-- ==== Sys2Proof/Machine/Memory.lean ====
section
/-! DEFINITION. Load, store, full/empty, atomic and witness instructions and FENCE.D at their firing (R255-R283), opcodes 0x50 to 0x54. What
happens to their accesses afterwards is in Machine/Perform.lean. -/

namespace Sys2Proof.Machine

open Sys2Proof

/-! ### Loads and stores -/

/-- A plain read of lanes. -/
def plainLoad (lanes : List LaneAt) : PieceOp := .load lanes

/-- OFF of LD (R269): IMM sign-extended, or B's 64-bit lane 0. -/
def Firing.offset (fr : Firing) : Int :=
  match fr.f.sb with
  | .imm => sgn 32 fr.f.imm.toNat
  | _ => sgn 64 (fr.b64 0)

/-- LD (R269). -/
def execLd (f : Slot) (s : State) : Host.Outcome State Fault Refusal :=
  fire (.ld f) (fun s fr =>
    loadBody s fr { need := { r := true }, tier := anyTier, lanes := fr.contiguous (wrap 64 (fr.a64 0 + fr.offset)),
                    wit := nullWitness, gather := false, op := plainLoad }) s

/-- LDW (R270). -/
def execLdw (f : Slot) (s : State) : Host.Outcome State Fault Refusal :=
  fire (.ldw f) (fun s fr =>
    loadBody s fr { need := { r := true }, tier := anyTier, lanes := fr.contiguous (fr.a64 0),
                    wit := BitVec.ofNat 64 (fr.b64 0), gather := false, op := plainLoad }) s

/-- LDX (R271). -/
def execLdx (f : Slot) (s : State) : Host.Outcome State Fault Refusal :=
  fire (.ldx f) (fun s fr =>
    loadBody s fr { need := { r := true }, tier := anyTier, lanes := fr.indexed (fr.a64 0),
                    wit := BitVec.ofNat 64 (fr.a64 1), gather := true, op := plainLoad }) s

/-- LDFE.clr (R231, R275). -/
def execLdfeClr (f : Slot) (s : State) : Host.Outcome State Fault Refusal :=
  fire (.ldfeClr f) (fun s fr =>
    loadBody s fr { need := { r := true, w := true }, tier := feTier, lanes := fr.contiguous (fr.a64 0),
                    wit := nullWitness, gather := false, op := .loadFull true }) s

/-- LDFE.keep (R231, R275). -/
def execLdfeKeep (f : Slot) (s : State) : Host.Outcome State Fault Refusal :=
  fire (.ldfeKeep f) (fun s fr =>
    loadBody s fr { need := { r := true }, tier := feTier, lanes := fr.contiguous (fr.a64 0),
                    wit := nullWitness, gather := false, op := .loadFull false }) s

/-- ST (R272). -/
def execSt (f : Slot) (s : State) : Host.Outcome State Fault Refusal :=
  fire (.st f) (fun s fr =>
    storeBody s fr { lanes := fr.contiguous (fr.a64 0), val := lane fr.w fr.b.val, setFull := false, tier := anyTier,
                     wit := nullWitness }) s

/-- STX (R273). -/
def execStx (f : Slot) (s : State) : Host.Outcome State Fault Refusal :=
  fire (.stx f) (fun s fr =>
    storeBody s fr { lanes := fr.indexed (fr.a64 0), val := lane fr.w fr.cc.val, scatter := true, setFull := false,
                     tier := anyTier, wit := BitVec.ofNat 64 (fr.a64 1) }) s

/-- STFE (R230, R276). -/
def execStfe (f : Slot) (s : State) : Host.Outcome State Fault Refusal :=
  fire (.stfe f) (fun s fr =>
    storeBody s fr { lanes := fr.contiguous (fr.a64 0), val := lane fr.w fr.b.val, setFull := true, tier := feTier,
                     wit := nullWitness }) s

/-- PFT (R274): no access, no number, no fault; a slice holds nothing that a program can see (R233). -/
def execPft (f : Slot) (s : State) : Host.Outcome State Fault Refusal := fire (.pft f) (fun s _ => .done s) s

/-! ### Atomics -/

/-- The return address of an atomic (R278). -/
def Firing.returnVA (fr : Firing) : Nat := fr.a64 1

/-- The lanes of the return array. -/
def Firing.returnLanes (fr : Firing) : List LaneReq := fr.contiguous fr.returnVA

/-- The lowest lane of E of a memory form. -/
def Firing.lowLane (fr : Firing) : Nat := (fr.returnLanes.head?.map (·.lane)).getD 0xFFFF

/-- The checks of a return address in the order of R285: alignment, translation, write permission, tier. What fails fails in every lane of E, so the lowest lane of E
is reported with it. -/
def returnFault (va low : Nat) (ps : List Planned) : Option (Nat × FaultInfo) :=
  if va = 0 then none
  else if va % 64 ≠ 0 then some (0, { cls := 3, cause := 1, address := va, lane := low })
  else
    match ps.head? with
    | none => none
    | some p =>
      match p.walk with
      | .fault c => some (1, { cls := 4, cause := c, address := va, lane := low })
      | .poison pa => some (5, { cls := 6, cause := 7, address := pa, lane := low })
      | .leaf l =>
        if !l.w then some (2, { cls := 5, cause := 2, address := va, lane := low })
        else if l.tier ≠ 0 ∧ l.tier ≠ 1 then some (3, { cls := 3, cause := 2, address := va, lane := low })
        else none

/-- Rank of a fault's class in R285. -/
def faultRank (fi : FaultInfo) : Nat :=
  if fi.cls = 3 ∧ fi.cause = 1 then 0 else if fi.cls = 4 then 1 else if fi.cls = 5 then 2 else if fi.cls = 3 then 3
  else if fi.cls = 7 then 4 else 5

/-- The fault of an atomic: the higher-ranked of the target's and the return address's. Where both fail in one class, the one that fails at the lowest lane of E
(R285), and the target's where both fail at that lane (DESIGN CHOICE, log 67). -/
def atomicFault (target : Option FaultInfo) (ret : Option (Nat × FaultInfo)) : Option FaultInfo :=
  match target, ret with
  | none, none => none
  | some a, none => some a
  | none, some (_, b) => some b
  | some a, some (k, b) => if faultRank a < k ∨ (faultRank a = k ∧ a.lane ≤ b.lane) then some a else some b

/-- Where each lane's old value goes (R278). -/
def backsOf (s : State) (target ret : List Spot) : List Back :=
  ret.filterMap fun r => (target.find? fun x => x.lane.lane == r.lane.lane).map fun x =>
    { lane := r.lane.lane, target := x.gran, gran := r.gran, off := r.lane.off, width := r.lane.width, va := r.va,
      key := s.keyIdent r.leaf, mt := r.leaf.mt }

/-- An atomic of E (R277-R279). -/
def atomicBody (op : AtomicOp) (s : State) (fr : Firing) : Fired :=
  if !fr.any then .done (s.writeDest fr.t fr.c fr.slot fr.f.dst 64 0 [])
  else
    let plan := planLanes s fr.t (fr.contiguous (fr.a64 0))
    let back := if fr.returnVA = 0 ∨ fr.returnVA % 64 ≠ 0 then ([], plan.2) else planLanes plan.2 fr.t fr.returnLanes
    match atomicFault (accessFault fr.f.ty { a := true } atomicTier false nullWitness plan.1) (returnFault fr.returnVA fr.lowLane back.1) with
    | some fi => .stop fi
    | none =>
      let s1 := back.2
      let sp := plan.1.filterMap (Planned.spot fr.f.ty)
      let ret := back.1.filterMap (Planned.spot fr.f.ty)
      let mk (xs : List Spot) : PieceOp :=
        .atomic op fr.f.ty (xs.map fun x =>
          { at' := x.lane, b := lane fr.w fr.b.val x.lane.lane % 2 ^ x.lane.width,
            c := lane fr.w fr.cc.val x.lane.lane % 2 ^ x.lane.width })
      .done (startStore s1 fr fun a => { a with pieces := ascending (piecesOf s1 sp mk), backs := backsOf s1 sp ret })

/-- AADD (R277). -/
def execAadd (f : Slot) (s : State) : Host.Outcome State Fault Refusal := fire (.aadd f) (atomicBody .add) s
/-- AMIN (R277). -/
def execAmin (f : Slot) (s : State) : Host.Outcome State Fault Refusal := fire (.amin f) (atomicBody .min) s
/-- AMAX (R277). -/
def execAmax (f : Slot) (s : State) : Host.Outcome State Fault Refusal := fire (.amax f) (atomicBody .max) s
/-- AAND (R277). -/
def execAand (f : Slot) (s : State) : Host.Outcome State Fault Refusal := fire (.aand f) (atomicBody .and) s
/-- AOR (R277). -/
def execAor (f : Slot) (s : State) : Host.Outcome State Fault Refusal := fire (.aor f) (atomicBody .or) s
/-- AXOR (R277). -/
def execAxor (f : Slot) (s : State) : Host.Outcome State Fault Refusal := fire (.axor f) (atomicBody .xor) s
/-- ASWP (R277). -/
def execAswp (f : Slot) (s : State) : Host.Outcome State Fault Refusal := fire (.aswp f) (atomicBody .swap) s
/-- ACAS (R277). -/
def execAcas (f : Slot) (s : State) : Host.Outcome State Fault Refusal := fire (.acas f) (atomicBody .cas) s
/-- AFADD (R277). -/
def execAfadd (f : Slot) (s : State) : Host.Outcome State Fault Refusal := fire (.afadd f) (atomicBody .fadd) s

/-! ### Witness instructions -/

/-- A witness delivered whole to the 64-bit lanes of D with E[2j] = 1, with C = (result ≠ 0) (R109, R281). -/
def deliverWitness (s : State) (fr : Firing) (w : W64) : State :=
  let e := widenMask 64 fr.e
  (s.writeDest fr.t fr.c fr.slot fr.f.dst 64 fr.e (List.replicate 8 w.toNat)).updatePred fr.t fr.c fr.f.predOp fr.f.predReg e
    (splat (w != 0))

/-- A malformed witness stops the slot (R249, R280). -/
def malformed (w : W64) : Fired := .stop { cls := 7, cause := 1, witness := w }

/-- A witness that a reader finds malformed (R110, R247, R248). -/
def State.isMalformed (s : State) (t : Nat) (w : W64) : Bool := s.standing t w == .malformed

/-- WMRG (R245, R281). -/
def execWmrg (f : Slot) (s : State) : Host.Outcome State Fault Refusal :=
  fire (.wmrg f) (fun s fr =>
    let a := BitVec.ofNat 64 (fr.a64 0)
    let b := BitVec.ofNat 64 (fr.b64 0)
    if !fr.any then .done (deliverWitness s { fr with e := 0 } 0)
    else if s.isMalformed fr.t a then malformed a
    else if s.isMalformed fr.t b then malformed b
    else match merge s fr.t a b with
      | .waiting => .idle
      | .done w => .done (deliverWitness s fr w)) s

/-- The lift of WLFT (R281), with the hasten request of its qualifier (R243). -/
def liftBody (hasten : Bool) (s : State) (fr : Firing) : Fired :=
  let a := BitVec.ofNat 64 (fr.a64 0)
  let lvl := bits (fr.a64 1) 0 4
  if !fr.any then .done (deliverWitness s { fr with e := 0 } 0)
  else if s.isMalformed fr.t a then malformed a
  else if lvl < 1 ∨ 8 < lvl then .stop { cls := 7, cause := 2, witness := a }
  else match lift s fr.t a lvl with
    | .waiting => .idle
    | .done w =>
      let s1 := deliverWitness s fr w
      if hasten && decide (1 ≤ witLvl w) && decide (witLvl w ≤ 8) then
        let g := s1.group (witLvl w) (witInst w)
        .done (s1.setGroup (witLvl w) (witInst w) { g with hasten := true })
      else .done s1

/-- WLFT (R281). -/
def execWlft (f : Slot) (s : State) : Host.Outcome State Fault Refusal := fire (.wlft f) (liftBody false) s
/-- WLFT.h (R281). -/
def execWlftH (f : Slot) (s : State) : Host.Outcome State Fault Refusal := fire (.wlftH f) (liftBody true) s

/-- WRDY (R281). -/
def execWrdy (f : Slot) (s : State) : Host.Outcome State Fault Refusal :=
  fire (.wrdy f) (fun s fr =>
    let a := BitVec.ofNat 64 (fr.a64 0)
    if !fr.any then .done (deliverWitness s { fr with e := 0 } 0)
    else match s.standing fr.t a with
      | .malformed => malformed a
      | .pending => .done (deliverWitness s fr 0)
      | _ => .done (deliverWitness (s.noteScope fr.t fr.c a) fr (BitVec.allOnes 64))) s

/-- WWT (R281, R282): its waiting is its eligibility. -/
def execWwt (f : Slot) (s : State) : Host.Outcome State Fault Refusal :=
  fire (.wwt f) (fun s fr =>
    let a := BitVec.ofNat 64 (fr.a64 0)
    if !fr.any then .done s
    else if s.isMalformed fr.t a then malformed a
    else .done (s.noteScope fr.t fr.c a)) s

/-- WNUL (R281). -/
def execWnul (f : Slot) (s : State) : Host.Outcome State Fault Refusal :=
  fire (.wnul f) (fun s fr => .done (deliverWitness s fr nullWitness)) s

/-- FENCE.D (R283): the witness of the element's last issued number, and one more fence behind which later accesses wait (R283). -/
def execFenceD (f : Slot) (s : State) : Host.Outcome State Fault Refusal :=
  fire (.fenceD f) (fun s fr =>
    if !fr.any then .done (deliverWitness s { fr with e := 0 } 0)
    else
      let w := s.lastWitness fr.t
      let s1 := (s.writeDest fr.t fr.c fr.slot fr.f.dst 64 fr.e (List.replicate 8 w.toNat)).updatePred fr.t fr.c fr.f.predOp
        fr.f.predReg fr.e fr.e
      let tl := s1.tile fr.t
      .done (s1.setTile fr.t { tl with fences := tl.fences + 1 })) s

end Sys2Proof.Machine
end

