-- ==== Sys2Proof/Machine/Queues.lean ====
section
/-! DEFINITION. The engine-queue instructions at their firing (R295-R301), opcodes 0x60 to 0x62, the replies to QSEQ and QFEN, and the stores to QUEUE_CTL
(R287, R294). -/

namespace Sys2Proof.Machine

open Sys2Proof

/-! ### Appends by elements -/

/-- QUEUE_OWNER and QUEUE_RANGE (R468). -/
def queueOwner : Fired := .stop { cls := 10, cause := 1 }
def queueRange : Fired := .stop { cls := 10, cause := 2 }

/-- The witness of a queue's last appended command written to the destination; C is 1 in every lane of E (R261, R289). -/
def State.appendWitness (s : State) (fr : Firing) (q : Nat) : State :=
  let w := localWitness (writerOfQueue q) (s.tail q)
  (s.writeDest fr.t fr.c fr.slot fr.f.dst 64 fr.e (List.replicate 8 w.toNat)).updatePred fr.t fr.c fr.f.predOp fr.f.predReg fr.e fr.e

/-- Commands of an element appended: the mirror is charged and the witness written (R289, R295). -/
def State.elementAppend (s : State) (fr : Firing) (q : Nat) (cs : List RecSource) : State :=
  ((s.append q (cs.map fun c => (c, none))).chargeMirror fr.t q cs.length).appendWitness fr q

/-- An inline command (R296). -/
def inlineBody (cmd : Nat) (near : Bool) (s : State) (fr : Firing) : Fired :=
  if !fr.any then .done (deliverWitness s { fr with e := 0 } 0)
  else match inlineQueue s fr.t fr.f.imm.toNat near with
    | none => queueRange
    | some q =>
      if (s.mirror? fr.t fr.c q).isNone then queueOwner
      else .done (s.elementAppend fr q [.inline ((fr.a.val &&& ~~~(0xFF : V512)) ||| BitVec.ofNat 512 cmd)])

/-- HCPY (R296). -/
def execHcpy (f : Slot) (s : State) : Host.Outcome State Fault Refusal := fire (.hcpy f) (inlineBody 1 false) s
/-- HRED (R296). -/
def execHred (f : Slot) (s : State) : Host.Outcome State Fault Refusal := fire (.hred f) (inlineBody 2 false) s
/-- HA2A (R296). -/
def execHa2a (f : Slot) (s : State) : Host.Outcome State Fault Refusal := fire (.ha2a f) (inlineBody 3 false) s
/-- HCOL (R296). -/
def execHcol (f : Slot) (s : State) : Host.Outcome State Fault Refusal := fire (.hcol f) (inlineBody 4 false) s
/-- HFNG (R296). -/
def execHfng (f : Slot) (s : State) : Host.Outcome State Fault Refusal := fire (.hfng f) (inlineBody 5 false) s
/-- NZER (R296). -/
def execNzer (f : Slot) (s : State) : Host.Outcome State Fault Refusal := fire (.nzer f) (inlineBody 0x11 true) s
/-- NCPY (R296). -/
def execNcpy (f : Slot) (s : State) : Host.Outcome State Fault Refusal := fire (.ncpy f) (inlineBody 0x12 true) s
/-- NCMP (R296). -/
def execNcmp (f : Slot) (s : State) : Host.Outcome State Fault Refusal := fire (.ncmp f) (inlineBody 0x13 true) s
/-- NFEN (R296): its record is zero apart from CMD. -/
def execNfen (f : Slot) (s : State) : Host.Outcome State Fault Refusal :=
  fire (.nfen f) (fun s fr => inlineBody 0x14 true s { fr with a := Decoded.raw 0 }) s

/-- QAPP (R295), its checks in the order of R285. -/
def execQapp (f : Slot) (s : State) : Host.Outcome State Fault Refusal :=
  fire (.qapp f) (fun s fr =>
    let addr := fr.a64 0
    let w : W64 := BitVec.ofNat 64 (fr.a64 1)
    if !fr.any then .done (deliverWitness s { fr with e := 0 } 0)
    else match appendFields (fr.b64 0) with
      | none => queueRange
      | some (q, n) =>
        if (s.mirror? fr.t fr.c q).isNone then queueOwner
        else if addr % 64 ≠ 0 then .stop { cls := 3, cause := 1, address := addr, witness := w }
        else if s.isMalformed fr.t w then malformed w
        else .done (s.elementAppend fr q (chainSources addr w (s.tail q + 1) n))) s

/-! ### QSEQ and QFEN (R297-R299) -/

/-- A queue that an element of a tile may name: in range and of its domain (R297). -/
def State.sees (s : State) (t q : Nat) : Bool := decide (q < 272) && s.queueDomain q == s.tileDomain t

/-- A request put in flight: its destination waits for the reply (R262, R297). -/
def State.request (s : State) (fr : Firing) (kind : RequestKind) : State :=
  let id := s.nextAccess
  let o : Outstanding :=
    { id := id, tile := fr.t, ctx := fr.c, slot := fr.slot, dst := fr.f.dst, e := fr.e, w := 64, n := 8, predReg := fr.f.predReg,
      predOp := fr.f.predOp, witness := none, quiet := false }
  { (s.expect fr.t fr.c fr.slot o) with
    nextAccess := s.nextAccess + 1,
    requests := s.requests ++ [{ id := id, kind := kind, e := fr.e, a := fr.a.val, b := fr.b.val }] }

/-- The body of QSEQ (R298). -/
def qseqBody (s : State) (fr : Firing) : Fired :=
  let q := fr.a64 0
  if !fr.any then .done (s.writeDest fr.t fr.c fr.slot fr.f.dst 64 0 [])
  else if !s.sees fr.t q then queueRange
  else .done (s.request fr (.qseq q))

/-- The queues that QFEN names (R299). -/
def fenceQueues (a : V512) : List Nat := ((lanesOf 16 32 a).filter fun x => x != 0xFFFF).eraseDups

/-- The body of QFEN (R299). -/
def qfenBody (s : State) (fr : Firing) : Fired :=
  let qs := fenceQueues fr.a.val
  let join := bitAt fr.f.imm.toNat 0
  if !fr.any then .done (s.writeDest fr.t fr.c fr.slot fr.f.dst 64 0 [])
  else if !qs.all (s.sees fr.t) then queueRange
  else
    let s1 := s.request fr (.qfen join qs [])
    .done (if join then { s1 with joins := s1.joins ++ [{ request := s.nextAccess, waiting := qs, marks := [] }] } else s1)

/-- QSEQ (R298). -/
def execQseq (f : Slot) (s : State) : Host.Outcome State Fault Refusal := fire (.qseq f) qseqBody s

/-- QFEN (R299). -/
def execQfen (f : Slot) (s : State) : Host.Outcome State Fault Refusal := fire (.qfen f) qfenBody s

def State.setRequest (s : State) (r : Request) : State := { s with requests := s.requests.map fun x => if x.id = r.id then r else x }

def State.dropRequest (s : State) (id : Nat) : State := { s with requests := s.requests.filter fun x => x.id != id }

/-- The lanes that QSEQ reports (R298). -/
def qseqLanes (s : State) (q : Nat) : List Nat :=
  let x := s.cmdQueue q
  [(localWitness (writerOfQueue q) x.done).toNat, (localWitness (writerOfQueue q) (s.tail q)).toNat, x.status + x.stopped.toNat * 2 ^ 16]

/-- The request of a QFEN reaches a queue: its TAIL is reported and a marker is placed (R299). -/
def State.reachQueue (s : State) (r : Request) (q : Nat) : State :=
  match r.kind with
  | .qfen join waiting wits =>
    let w := localWitness (writerOfQueue q) (s.tail q)
    let s1 := s.setRequest { r with kind := .qfen join (waiting.filter (· != q)) (wits ++ [w]) }
    if join then { s1 with joins := s1.joins.map fun j => if j.request = r.id then
        { j with waiting := j.waiting.filter (· != q), marks := j.marks ++ [(q, s.tail q)] } else j }
    else s1
  | _ => s

/-- A QFEN that has its witness ends; the witness of one with JOIN that a lath has fired is a fence for a move (R311, R386). -/
def State.noteFence (s : State) (r : Request) (o : Outstanding) (w : W64) : State :=
  let s1 := s.dropRequest r.id
  match r.kind with
  | .qfen true _ wits =>
    if isLathTile o.tile then { s1 with fences := s1.fences ++ [{ domain := (s.tileDomain o.tile).getD 0, wit := w, covers := wits }] } else s1
  | _ => s1

/-- QUEUE_REPLY (R297-R299): the request reaches the queue named, and once it has reached every queue its destination is written. -/
def execQueueReply (request q : Nat) (s : State) : Host.Outcome State Fault Refusal :=
  if 272 ≤ q then .fault .absentUnit
  else match s.requests.find? fun r => r.id = request, s.outstanding.find? fun o => o.id = request with
  | some r, some o =>
    (match r.kind with
     | .qseq k => if k = q then .next ((s.dropRequest request).deliver o (qseqLanes s q)) else .next s
     | .qfen _ waiting wits =>
       if waiting.contains q then .next (s.reachQueue r q)
       else if !waiting.isEmpty then .next s
       else match mergeAll s o.tile wits nullWitness with
         | .waiting => .next s
         | .done w => .next ((s.noteFence r o w).deliver o (List.replicate 8 w.toNat))
     | .tlbsy _ _ => .next s
     | .scrub _ _ => .next s)
  | _, _ => .next s

/-! ### DTAB and SQIT (R300, R301) -/

/-- The virtual pages of a range, each by the first byte of the range that lies on it. -/
def rangePages (base len : Nat) : List Nat :=
  if len = 0 then [] else (List.range ((base % 2 ^ 16 + len + 2 ^ 16 - 1) / 2 ^ 16)).map fun k => if k = 0 then base else (base / 2 ^ 16 + k) * 2 ^ 16

/-- The granules of a range under its translations, page by page: first granule and count. -/
def rangeRuns (base len : Nat) (ps : List Planned) : List (Nat × Nat) :=
  ps.filterMap fun p => p.leaf?.map fun l =>
    let stop := min (base + len) ((p.req.va / 2 ^ 16 + 1) * 2 ^ 16)
    (l.pa p.req.va / 16, (stop - p.req.va) / 16)

/-- The operands of DTAB are out of range (R300). -/
def dtabRange (mode : Bool) (count len : Nat) : Bool :=
  decide (count < 1) || decide (64 < count) || (!mode && (len % 16 != 0 || decide (2 ^ 25 < len)))

/-- DTAB (R300), its checks in the order of R285. -/
def execDtab (f : Slot) (s : State) : Host.Outcome State Fault Refusal :=
  fire (.dtab f) (fun s fr =>
    let col := columnOf fr.t
    let imm := fr.f.imm.toNat
    let q := queueOfSel col (bits imm 8 3)
    let mode := bitAt imm 11
    let addr := fr.a64 0
    let count := fr.a64 1
    let w : W64 := BitVec.ofNat 64 (fr.a64 2)
    let base := fr.b64 0
    let len := fr.b64 1
    let put (s : State) (cond : EntryCond) : Fired :=
      let sq := s.sequencer col
      let e : TableEntry := { entry := bits imm 0 8, queue := q, first := addr, count := count, wit := w, cond := cond }
      .done (s.setSequencer col { sq with table := sq.table ++ [{ e with ready := s.entryReady col e }] })
    if !fr.any then .done s
    else if dtabRange mode count len then queueRange
    else if (s.seqPermits col q).isNone then queueOwner
    else if addr % 64 ≠ 0 then .stop { cls := 3, cause := 1, address := addr, witness := w }
    else if mode then
      let x : W64 := BitVec.ofNat 64 base
      if s.isMalformed fr.t w then malformed w else if s.isMalformed fr.t x then malformed x else put s (.witness x)
    else if base % 16 ≠ 0 then .stop { cls := 3, cause := 1, address := base, witness := w }
    else
      let plan := planLanes s fr.t ((rangePages base len).map fun va => { lane := 0xFFFF, va := va, nib := 0 })
      match accessFault .z64 { r := true } feTier (s.isMalformed fr.t w) w plan.1 with
      | some fi => .stop fi
      | none => put plan.2 (.full (rangeRuns base len plan.1))) s

/-- Where the tokens of a program of a context go (R302). -/
def State.tokenDest (s : State) (t c : Nat) : TokenDest :=
  match s.tileInst t with
  | some x => { inst := x.number, place := x.tiles.idxOf t, tile := t, ctx := c }
  | none => { inst := 0, place := 0, tile := t, ctx := c }

/-- SQIT (R301). -/
def execSqit (f : Slot) (s : State) : Host.Outcome State Fault Refusal :=
  fire (.sqit f) (fun s fr =>
    let col := columnOf fr.t
    let imm := fr.f.imm.toNat
    let q := queueOfSel col (bits imm 0 3)
    if !fr.any then .done s
    else if (s.seqPermits col q).isNone then queueOwner
    else
      let sq := s.sequencer col
      .done (s.setSequencer col { sq with programs := sq.programs ++
        [{ queue := q, template := fr.a.val, iters := bits imm 3 29, next := 0, dest := s.tokenDest fr.t fr.c }] })) s

/-! ### QUEUE_CTL (R287, R288, R294) -/

/-- A store comes from a privileged lath context of a domain (R52, R508): any context of its tiles whose word has PRIV (log 61). -/
def State.fromLath (s : State) (src : Issuer) (d : Option Nat) : Bool :=
  match src with
  | .host => false
  | .element t c => (s.ctx t c).word.priv && d.isSome && s.tileDomain t == d

/-- A store comes from a privileged context of the root lath (R442, R508): that of domain 0 (log 61). -/
def State.fromRoot (s : State) (src : Issuer) : Bool :=
  match src with
  | .host => false
  | .element t c => (s.ctx t c).word.priv && s.tileDomain t == some 0

/-- A queue detached: its mirror is discarded (R288). OWNER, OWNER_CTX, SEQ and ASID stay as they stand, whatever the detaching store gives for them (DESIGN CHOICE,
log 67). -/
def State.detach (s : State) (q : Nat) : State :=
  let x := s.cmdQueue q
  let s1 := s.setCmdQueue q { x with attached := false }
  if !x.attached then s1
  else if x.seq then
    let sq := s1.sequencer x.owner
    s1.setSequencer x.owner { sq with mirrors := sq.mirrors.filter fun m => m.1 != q }
  else
    let tl := s1.tile x.owner
    s1.setTile x.owner { tl with mirrors := tl.mirrors.filter fun m => m.queue != q }

/-- A queue attached to the owner that a value of QUEUE_CTL names, with TAIL and PERMITS as they stand (R287, R288); an element outside the domain, or one
with eight queues, leaves it detached. -/
def State.attach (s : State) (q v : Nat) : State :=
  let seq := bitAt v 16
  let owner := if seq then bits v 0 6 else bits v 0 13
  let s1 := s.detach q
  let x : Queue := { s1.cmdQueue q with gen := (s1.cmdQueue q).gen + 1, owner := owner, ctx := if seq then 0 else bits v 13 3, seq := seq, asid := bits v 32 16 }
  if seq then
    let sq := s1.sequencer owner
    (s1.setCmdQueue q { x with attached := true, owed := 0 }).setSequencer owner
      { sq with mirrors := sq.mirrors ++ [(q, s1.tail q, s1.permits q)] }
  else
    let tl := s1.tile owner
    if s1.tileCount ≤ owner ∨ s1.tileDomain owner ≠ s1.queueDomain q ∨ 8 ≤ tl.mirrors.length then s1.setCmdQueue q { x with attached := false }
    else (s1.setCmdQueue q { x with attached := true, owed := 0 }).setTile owner
      { tl with mirrors := tl.mirrors ++ [{ queue := q, tail := s1.tail q, permits := s1.permits q, ctx := x.ctx }] }

/-- RETRY: the stopped command is performed again from its start (R294). -/
def State.retryQueue (s : State) (q : Nat) : State :=
  let x := s.cmdQueue q
  match x.commands with
  | c :: rest => if x.stopped then s.setCmdQueue q { x with stopped := false, commands := { c with run := none } :: rest } else s
  | [] => s

/-- Commands of a chain whose records are unknown complete at once (R294). -/
def skipChain (q head status : Nat) : Nat → State → State
  | 0, s => s
  | fuel + 1, s => match (s.cmdQueue q).commands with
    | c :: _ => (match c.source with
      | .chain none _ h => if h = head then skipChain q head status fuel (s.commandDone q c status) else s
      | _ => s)
    | [] => s

/-- SKIP: the stopped command completes with its status unchanged and without further accesses (R294). -/
def State.skipQueue (s : State) (q : Nat) : State :=
  let x := s.cmdQueue q
  match x.commands with
  | c :: _ =>
    if !x.stopped then s
    else
      let s1 := s.commandDone q c x.status
      (match c.source with
       | .chain _ _ h => skipChain q h x.status 64 s1
       | .inline _ => s1)
  | [] => s

/-- What a store to QUEUE_CTL asks for (R287). -/
inductive QueueAsk where
  | attach | detach | retry | skip | nothing
  deriving DecidableEq, Repr

def queueAsk (v : Nat) : QueueAsk :=
  match bitAt v 19, bitAt v 20 with
  | true, true => .nothing
  | true, false => .retry
  | false, true => .skip
  | false, false => if bitAt v 17 then .attach else .detach

/-- A store to QUEUE_CTL of queue q is performed, or discarded (R287). -/
def State.storeQueueCtl (s : State) (src : Issuer) (q : Nat) (value : BitVec 64) : State :=
  if !s.fromLath src (s.queueDomain q) then s
  else match queueAsk value.toNat with
    | .nothing => s
    | .retry => s.retryQueue q
    | .skip => s.skipQueue q
    | .attach => s.attach q value.toNat
    | .detach => s.detach q

/-- A store to QUEUE_CTL as the event of one kind. -/
def queueCtlEvent (ask : QueueAsk) (src : Issuer) (q : Nat) (value : BitVec 64) (s : State) : Host.Outcome State Fault Refusal :=
  if 272 ≤ q then .fault .absentUnit
  else .next (if queueAsk value.toNat = ask then s.storeQueueCtl src q value else s)

/-- QUEUE_CTL_ATTACH (R287, R288). -/
def execQueueCtlAttach (src : Issuer) (q : Nat) (value : BitVec 64) (s : State) : Host.Outcome State Fault Refusal :=
  queueCtlEvent .attach src q value s

/-- QUEUE_CTL_DETACH (R287, R288). -/
def execQueueCtlDetach (src : Issuer) (q : Nat) (value : BitVec 64) (s : State) : Host.Outcome State Fault Refusal :=
  queueCtlEvent .detach src q value s

/-- QUEUE_CTL_RETRY (R294). -/
def execQueueCtlRetry (src : Issuer) (q : Nat) (value : BitVec 64) (s : State) : Host.Outcome State Fault Refusal :=
  queueCtlEvent .retry src q value s

/-- QUEUE_CTL_SKIP (R294). -/
def execQueueCtlSkip (src : Issuer) (q : Nat) (value : BitVec 64) (s : State) : Host.Outcome State Fault Refusal :=
  queueCtlEvent .skip src q value s

/-- QUEUE_CTL as a load reads it (R287). -/
def State.loadQueueCtl (s : State) (q : Nat) : Nat :=
  let x := s.cmdQueue q
  x.owner + x.ctx * 2 ^ 13 + x.seq.toNat * 2 ^ 16 + x.attached.toNat * 2 ^ 17 + x.stopped.toNat * 2 ^ 18 + x.asid * 2 ^ 32

end Sys2Proof.Machine
end

