-- ==== Sys2Proof/Machine/Epochs.lean ====
section
/-! DEFINITION. Epochs (R239-R244): opening, acknowledgement, closure and its pulse, the period registers (R243), and the flush of cache slices (R234). -/

namespace Sys2Proof.Machine

open Sys2Proof

/-- The highest index of a scope group of a level (R239). -/
def groupCount (lvl : Nat) : Nat :=
  match lvl with
  | 1 => 4608 | 2 => 64 | 3 => 16 | 4 => 16 | 6 => 64 | 7 => 128 | _ => 1

/-- A level and group index that exist (R239). -/
def groupExists (lvl g : Nat) : Bool := decide (1 ≤ lvl) && decide (lvl ≤ 8) && decide (g < groupCount lvl)

/-- Every member of a group has acknowledged the open epoch (R240). -/
def State.allAcknowledged (s : State) (lvl g : Nat) : Bool :=
  (s.members lvl g).all fun w => s.view w lvl == (s.group lvl g).opened

/-- The periods of boot in ns: the table's for levels 2 to 5, the module configuration record's for levels 6 to 8 (R243). -/
def State.bootPeriod (s : State) (lvl : Nat) : Nat := if lvl ≤ 5 then at9 State.reset.periods lvl else at9 s.periods lvl

/-- The period in ns that runs for a group of a level from 2 on: the one that its register held at its last opening (R243). -/
def State.runningPeriod (s : State) (lvl g : Nat) : Nat := (s.group lvl g).period.getD (s.bootPeriod lvl)

/-- A period in ns has passed since a tick of the 4.8 GHz reference (R27, R243): 24 ticks are 5 ns. -/
def State.passed (s : State) (since ns : Nat) : Bool := decide (since * 5 + ns * 24 ≤ s.ticks * 5)

/-- EPOCH_OPEN (R240, R243): a group opens its next epoch once its period has elapsed or a hasten has come, and every member has acknowledged the current
one. -/
def execEpochOpen (lvl g : Nat) (s : State) : Host.Outcome State Fault Refusal :=
  if !groupExists lvl g then .fault .absentUnit
  else
    let x := s.group lvl g
    let due := x.hasten || (if lvl = 1 then decide (x.lastOpen < (s.group 2 (columnOf g)).lastOpen)
      else s.passed x.lastOpen (s.runningPeriod lvl g))
    if s.phase != 8 || !due || !s.allAcknowledged lvl g then .next s
    else .next (s.setGroup lvl g { x with opened := x.opened + 1, hasten := false, lastOpen := s.ticks, period := some (at9 s.periods lvl) })

/-- A writer sets its view of a level to an epoch and keeps a record of its last 16 views (R240, R244). -/
def Writer.see (wr : Writer) (lvl epoch : Nat) : Writer :=
  { wr with views := set9 wr.views lvl epoch, log := set9 wr.log lvl (((epoch, none) :: at9 wr.log lvl).take 16) }

/-- EPOCH_ACKNOWLEDGE (R240, R242, R244): a member's view takes the open epoch, and it sends its TAGGED. -/
def execEpochAcknowledge (lvl g w : Nat) (s : State) : Host.Outcome State Fault Refusal :=
  if !groupExists lvl g then .fault .absentUnit
  else if !s.isWriter w then .fault .absentUnit
  else if s.phase != 8 || s.groupOf w lvl != some g || s.view w lvl == (s.group lvl g).opened then .next s
  else .next (s.setWriter w { (s.writer w).see lvl (s.group lvl g).opened with sent := s.tagged w })

/-- A store that a member tagged with epoch k or less for a level is not performed yet (R241). -/
def Access.holds (a : Access) (lvl k : Nat) : Bool := a.owes && a.tags.any fun t => t.1 == lvl && decide (t.2 ≤ k)

/-- The epoch of a group that can close next: every member has performed what it tagged with it or less, and has acknowledged the epoch after it, so that
nothing more is tagged with it (R240, R241). -/
def State.canClose (s : State) (lvl g k : Nat) : Bool :=
  let ms := s.members lvl g
  decide (k < (s.group lvl g).opened) && ms.all (fun w => decide (k < s.view w lvl)) && s.accesses.all fun a => !(ms.contains a.writer && a.holds lvl k)

/-- EPOCH_CLOSE (R241): the lowest open epoch of a group closes. -/
def execEpochClose (lvl g : Nat) (s : State) : Host.Outcome State Fault Refusal :=
  if !groupExists lvl g then .fault .absentUnit
  else
    let x := s.group lvl g
    if s.phase != 8 || !s.canClose lvl g (x.closed + 1) then .next s else .next (s.setGroup lvl g { x with closed := x.closed + 1 })

/-- A unit keeps a lift until its epoch lies 2^20 epochs back (log 57). -/
def liftKept (closed epoch : Nat) : Bool :=
  let back := (closed % 2 ^ 44 + 2 ^ 44 - epoch % 2 ^ 44) % 2 ^ 44
  decide (back < 2 ^ 20) || decide (2 ^ 43 ≤ back)

/-- CLOSURE_PULSE_RECEIPT (R241): a member receives the pulse of the latest epoch that the group has closed. -/
def execClosurePulseReceipt (lvl g w : Nat) (s : State) : Host.Outcome State Fault Refusal :=
  if !groupExists lvl g then .fault .absentUnit
  else if !s.isWriter w then .fault .absentUnit
  else if s.groupOf w lvl != some g then .next s
  else
    let wr := s.writer w
    let k := (s.group lvl g).closed
    .next (s.setWriter w { wr with closed := set9 wr.closed lvl k, lifts := wr.lifts.filter fun e => witLvl e.2 != lvl || liftKept k (witSeq e.2) })

/-! ### EPOCH_PERIOD (R243) -/

/-- The periods do not decrease from level 2 to level 8. -/
def rises (v : Vector Nat 9) : Bool := (List.range 6).all fun k => decide (at9 v (k + 2) ≤ at9 v (k + 3))

/-- A store to EPOCH_PERIOD of a level is performed, or discarded (R243). -/
def State.storeEpochPeriod (s : State) (src : Issuer) (lvl : Nat) (value : BitVec 64) : State :=
  let p := bits value.toNat 0 16
  let next := set9 s.periods lvl p
  if lvl < 2 ∨ 5 < lvl ∨ s.fromRoot src = false ∨ s.firstDctl = true ∨ p < 16 ∨ rises next = false then s
  else { s with periods := next }

/-- EPOCH_PERIOD_WRITE (R243). -/
def execEpochPeriodWrite (src : Issuer) (level : Nat) (value : BitVec 64) (s : State) : Host.Outcome State Fault Refusal :=
  if level < 2 ∨ 8 < level then .fault .absentUnit else .next (s.storeEpochPeriod src level value)

/-! ### MSCF (R233, R234) -/

/-- The domain of the issuer of a register store: the host acts for domain 0 (log 21). -/
def State.issuerDomain (s : State) (src : Issuer) : Option Nat :=
  match src with
  | .element t _ => s.tileDomain t
  | .host => some 0

/-- A store to MSCF starts a flush of the named slices that belong to the writer's domain; while one is in progress it is discarded (R234). -/
def State.storeMscf (s : State) (src : Issuer) (value : BitVec 64) : State :=
  match s.flush with
  | some _ => s
  | none =>
    let mask := (List.range 16).foldl (fun acc k =>
      if bitAt value.toNat k && s.domainOf k == s.issuerDomain src && (s.issuerDomain src).isSome then acc + 2 ^ k else acc) 0
    { s with flush := some (mask, bitAt value.toNat 16) }

/-- MSCF as a load reads it (R234). INVALIDATE reads that of the flush in progress, and 0 otherwise (DESIGN CHOICE, log 67). -/
def State.loadMscf (s : State) : Nat :=
  match s.flush with
  | some (mask, inv) => mask + inv.toNat * 2 ^ 16 + 2 ^ 63
  | none => 0

/-- MSCF_FLUSH (R234). -/
def execMscfFlush (src : Issuer) (value : BitVec 64) (s : State) : Host.Outcome State Fault Refusal := .next (s.storeMscf src value)

/-- MSC_FLUSH_COMPLETE (R233, R234): no value depends on what a slice holds, so that the end of a flush shows in MSCF alone. -/
def execMscFlushComplete (s : State) : Host.Outcome State Fault Refusal := .next { s with flush := none }

end Sys2Proof.Machine
end

