-- ==== Sys2Proof/Machine/SaveBytes.lean ====
section
/-! DEFINITION. The layout of a save image (R379-R384), and moving the written bytes and marks of a range of memory. -/

namespace Sys2Proof.Machine

open Sys2Proof

/-! ### Ranges of memory -/

/-- The written bytes of a range, by offset. -/
def Memory.cellsIn (m : Memory) (lo n : Nat) : List Host.Cell :=
  (m.cells.filter fun c => decide (lo ≤ c.1) && decide (c.1 < lo + n)).map fun c => (c.1 - lo, c.2)

/-- The members of a set within a range, from its start. -/
def NSet.inRange (s : NSet) (lo n : Nat) : NSet := (s.filter fun g => decide (lo ≤ g) && decide (g < lo + n)).map (· - lo)

/-- Bytes written at an address. -/
def Memory.putCells (m : Memory) (lo : Nat) (cs : List Host.Cell) : Memory := cs.foldl (fun m c => m.setByte (lo + c.1) c.2) m

/-- The granules that a range covers whole lose their poison marks (R481). -/
def Memory.cleanRange (m : Memory) (lo n : Nat) : Memory :=
  { m with poison := m.poison.filter fun g => !(decide (lo ≤ 16 * g) && decide (16 * g + 16 ≤ lo + n)) }

/-- A range returned to bytes of zero, empty and clean (R32, R458). -/
def Memory.zeroRange (m : Memory) (lo n : Nat) : Memory :=
  let out (g : Nat) : Bool := !(decide (lo / 16 ≤ g) && decide (g < (lo + n) / 16))
  { cells := m.cells.filter fun c => !(decide (lo ≤ c.1) && decide (c.1 < lo + n)), full := m.full.filter out, poison := m.poison.filter out,
    keys := m.keys.filter fun k => out k.1 }

/-- A range with the bytes and marks of a saved one. -/
def Memory.putSaved (m : Memory) (lo n : Nat) (cs : List Host.Cell) (full poison : NSet) : Memory :=
  let m1 := (m.zeroRange lo n).putCells lo cs
  let m2 := full.foldl (fun m g => m.setFull (lo / 16 + g) true) m1
  poison.foldl (fun m g => m.setPoison (lo / 16 + g) true) m2

def Memory.putPad (m : Memory) (lo : Nat) (cs : List Host.Cell) (full poison : NSet) : Memory := m.putSaved lo 0x40000 cs full poison
def Memory.putVault (m : Memory) (lo : Nat) (cs : List Host.Cell) (full poison : NSet) : Memory := m.putSaved lo 0x2000000 cs full poison

/-! ### Records -/

/-- Bytes as a little-endian number with their count. -/
structure Blob where
  len : Nat
  val : Nat
  deriving DecidableEq, Repr

def Blob.append (a b : Blob) : Blob := ⟨a.len + b.len, a.val + b.val * 2 ^ (8 * a.len)⟩

/-- A blob of fields, each with its length in bytes. -/
def blobOf (fs : List (Nat × Nat)) : Blob := fs.foldr (fun f acc => Blob.append ⟨f.1, f.2 % 2 ^ (8 * f.1)⟩ acc) ⟨0, 0⟩

def Blob.concat (bs : List Blob) : Blob := bs.foldr Blob.append ⟨0, 0⟩

/-- A blob extended with zeros to a length. -/
def Blob.pad (b : Blob) (n : Nat) : Blob := ⟨max n b.len, b.val⟩

/-- A held beat, 72 bytes (R382). -/
def beatBlob (b : Beat) : Blob := blobOf [(64, b.payload.toNat), (2, b.mask.toNat), (1, b.tag.toNat), (1, b.vc.val), (4, 0)]

/-- The places of an output endpoint that hold a beat, as bits (R381). -/
def placeBits (ps : List Place) : Nat := packNat 1 (ps.map fun p => match p with | .full _ => 1 | .held _ _ => 0)

/-- The beats of an output endpoint's places. -/
def placeBeats (ps : List Place) : List Beat := ps.filterMap fun p => match p with | .full b => some b | .held _ _ => none

/-- STATE of a context record (R382). -/
def RunState.code : RunState → Nat
  | .runnable => 0 | .halted => 1 | .retired => 2

/-- A context record, 544 bytes (R382). -/
def ctxBlob (cx : Ctx) : Blob :=
  blobOf [(512, packNat 512 (cx.d.toList.map BitVec.toNat)), (16, packNat 16 (cx.p.toList.map BitVec.toNat)), (4, cx.flags.toNat),
    (4, cx.wscope.toNat + 2 * cx.restored.toNat + cx.nulFaults * 2 ^ 16), (1, cx.run.code), (3, packNat 3 (cx.tags.toList.map BitVec.toNat)),
    (1, cx.chainsDone), (1, cx.chainFault.isSome.toNat), (2, 0)]

/-- A condition endpoint's tokens: count and bits from the head (R381). -/
def condNat (xs : List Bool) : Nat := xs.length + packNat 1 (xs.map Bool.toNat) * 2 ^ 4

/-- A counter chain (R342, R381). -/
def counterBlob (c : Counter) : Blob :=
  let st := match c.state with | .free => 0 | .active => 1 | .exhausted => 2
  let level (k : Nat) : List (Nat × Nat) :=
    [(4, (c.start.toList.getD k 0).toNat), (4, (c.count.toList.getD k 0).toNat), (4, (c.stride.toList.getD k 0).toNat)]
  (blobOf ([(1, st), (1, c.levels), (1, c.wrap.toNat), (1, 0), (4, c.n.toNat)] ++ (List.range 4).flatMap level
    ++ c.pos.toList.map fun p => (4, p.toNat))).pad 80

/-- A queued chain (R381). -/
def chainBlob (r : ChainRun) : Blob :=
  blobOf [(1, 1), (1, r.desc), (1, r.ctx), (1, r.flags.toNat), (4, r.next), (4, r.groups), (4, 0), (8, r.x), (8, r.y), (8, r.z)]

/-- A mirror (R381). -/
def mirrorNat (m : Mirror) : Nat := m.queue % 2 ^ 9 + m.permits % 2 ^ 7 * 2 ^ 9 + m.tail % 2 ^ 44 * 2 ^ 16 + m.ctx % 8 * 2 ^ 60 + 2 ^ 63

/-- A load record of KIND 0, 136 bytes (R382). -/
def loadBlob (c : Nat) (r : Reissue) : Blob :=
  blobOf [(1, c), (1, r.slot), (1, 0), (1, 0), (2, r.e.toNat), (2, 0), (64, r.a.toNat), (64, r.b.toNat)]

/-- A load record of KIND 1, of a CREQ still awaiting resolution, with its pool entry (R382). -/
def creqBlob (o : Outstanding) (entry : Nat) : Blob :=
  blobOf [(1, o.ctx), (1, o.slot), (1, 1), (1, 0), (2, o.e.toNat), (2, entry), (64, o.a.toNat), (64, o.b.toNat)]

/-- The loads that a context issues again after a restore: those that a pre-emption cancelled, and those halted after they were performed (R266, R476). -/
def Ctx.reissues (cx : Ctx) : List Reissue := cx.cancelled ++ (cx.halt.map (·.reissue)).getD []

/-- M, L and O of a state (R383). -/
def attnBlob (a : Attn) : Blob :=
  let ws (xs : List (BitVec 32)) : Blob := blobOf (xs.map fun x => (4, x.toNat))
  Blob.concat [ws a.m, ws a.l, ws a.o]

/-- A skim record (R383). -/
def skimBlob (tl : Tile) (k : Nat) (q : SkimSlot) : Blob :=
  let ps := tl.passes.filter fun p => p.slot == k
  let h := arrived q
  let qb := blobOf (h.1.map fun x => (2, x.toNat))
  let body := Blob.concat ([⟨64, q.hdr.toNat⟩, qb.pad ((qb.len + 63) / 64 * 64), attnBlob h.2]
    ++ (if q.fresh then [attnBlob q.work] else [])
    ++ ps.map fun p => (blobOf ((List.range 4).map (fun j => (8, lane 64 p.a j)) ++ (List.range 2).map (fun j => (8, lane 64 p.b j))
        ++ [(1, p.ctx), (1, p.slotNo)])).pad 64)
  (blobOf [(1, k), (1, q.fresh.toNat), (1, q.poison.toNat), (1, ps.length), (2, q.drained.length), (2, 0), (4, q.nextShard.toNat),
    (8, q.arrival), (4, 32 + body.len), (8, 0)]).append body

/-- The state of a row engine belongs to the instance that is saved (R191, R381). -/
def SavedTile.dirty (st : SavedTile) : Bool := st.tile.row.dirty && st.tile.row.owner == st.tile.inst

/-- An element record (R381). -/
def tileBlob (st : SavedTile) : Blob :=
  let tl := st.tile
  let cs := (List.range 8).map fun k => (k, (tl.ctxs.toList[k]?).getD Ctx.clean)
  let present := cs.filter fun c => c.2.word.valid
  let eps (f : Ctx → Nat → List Beat) : List (List Beat) := cs.flatMap fun c => (List.range 8).map (f c.2)
  let ins := eps fun cx n => (cx.ins.toList[n]?).getD []
  let outs := eps fun cx n => placeBeats ((cx.outs.toList[n]?).getD [])
  let beats := (ins ++ outs).flatten
  let loads := cs.flatMap (fun c => c.2.reissues.map (loadBlob c.1)) ++ st.creqs.map fun o => creqBlob o.1 o.2
  let qs := [(0, tl.skim[0]), (1, tl.skim[1])].filter fun q => q.2.occupied
  let inOcc := packNat 8 (ins.map fun l => 2 ^ l.length - 1)
  let outOcc := packNat 4 (cs.flatMap fun c => (List.range 8).map fun n => placeBits ((c.2.outs.toList[n]?).getD []))
  let conds := cs.flatMap fun c => (c.2.cins.toList ++ c.2.couts.toList).map fun l => (2, condNat l)
  let tail := Blob.concat (present.map (fun c => ctxBlob c.2) ++ beats.map beatBlob ++ loads ++ qs.map fun q => skimBlob tl q.1 q.2)
  let mask := packNat 1 (cs.map fun c => c.2.word.valid.toNat)
  let flags := st.dirty.toNat + 2 * (tl.skim[0]).occupied.toNat + 4 * (tl.skim[1]).occupied.toNat
  let head := Blob.concat
    [blobOf [(1, st.x), (1, st.y), (1, st.z), (1, mask), (1, flags), (1, tl.last), (2, beats.length), (4, 920 + tail.len), (1, loads.length), (3, 0),
       (8, st.haltWit.toNat), (64, inOcc), (32, outOcc)],
     blobOf conds,
     Blob.concat (tl.counters.toList.map counterBlob),
     blobOf (tl.buffers.toList.map fun b => (8, match b with | some b => b.cp + b.pp * 2 ^ 11 + b.wc * 2 ^ 22 | none => 0)),
     (Blob.concat (tl.queue.map chainBlob)).pad 160,
     (blobOf (tl.mirrors.map fun m => (8, mirrorNat m))).pad 64]
  (head.append tail)

/-- A matrix section, 22,584 bytes (R384). -/
def matrixBlob (e : RowEngine) : Blob :=
  Blob.concat [blobOf [(1, (e.mode.map fun m => m.ty.code).getD 0), (1, ((e.mode.map (·.prod)).getD false).toNat), (1, (e.mode.map (·.afmt)).getD 0),
      (1, e.kact), (1, e.nact), (1, e.cursor), (1, e.prodCursor), (1, e.panelValid.toNat), (16, e.rowPoison.toNat)],
    ⟨2048, e.panel.toNat⟩, ⟨2048, e.shadow.toNat⟩, ⟨32, e.codebook.toNat⟩, ⟨1024, e.prod.toNat⟩, ⟨1024, e.shadowProd.toNat⟩,
    ⟨16384, e.acc.foldl (fun n r => n + r.2.toNat * 2 ^ (1024 * r.1)) 0⟩]

/-- The element records of a save image. -/
def SaveImage.records (im : SaveImage) : Blob := Blob.concat (im.tiles.map tileBlob)

/-- The tiles whose matrix sections have space in the image (R381, R384). -/
def SaveImage.dirty (im : SaveImage) : List SavedTile := im.tiles.filter SavedTile.dirty

/-- Where the matrix sections of an image stand, and where the pads and vaults after them do (R379). -/
def SaveImage.sectionsAt (im : SaveImage) : Nat := im.address + 128 + im.records.len
def SaveImage.padsAt (im : SaveImage) : Nat := im.sectionsAt + 22584 * im.dirty.length

/-- The header and the element records of a save image (R379, R380). FLAGS.MATRIX is set once a section has been written (R384, log 59). -/
def saveBlob (x : Inst) (im : SaveImage) : Blob :=
  let body := im.records
  let extra := 22584 * im.dirty.length + if im.evicted then im.tiles.length * 0x40800 + im.vaults.length * 0x2040000 else 0
  ((blobOf [(4, 0x49534A46), (2, 1), (1, im.evicted.toNat + 2 * (im.tiles.any (·.matrix.isSome)).toNat), (1, x.level), (16, x.config.toNat), (8, x.number),
    (8, x.entryWit.toNat), (2, im.tiles.length), (2, im.origin), (1, x.depth), (3, 0), (8, body.len + extra)]).pad 128).append body

/-- Bytes of a range replaced, under a key, by the listed ones and zeros elsewhere; its whole granules are clean. -/
def Memory.putRange (m : Memory) (key lo n : Nat) (cs : List Host.Cell) : Memory :=
  let m1 := m.underKey key lo n
  let cleared := { m1 with cells := m1.cells.filter fun c => !(decide (lo ≤ c.1) && decide (c.1 < lo + n)) }
  (cleared.putCells lo cs).cleanRange lo n

/-- The bytes of a blob written at an address under a key; its whole granules are clean. -/
def Memory.putBlob (m : Memory) (key lo : Nat) (b : Blob) : Memory := ((m.underKey key lo b.len).write lo b.len b.val).cleanRange lo b.len

end Sys2Proof.Machine
end

