-- ==== Sys2Proof/Machine/Health.lean ====
section
/-! DEFINITION. Health (R479, R483, R486-R488): corrected and uncorrectable errors, retirement of a tile with its spare, and the replacement request. -/

namespace Sys2Proof.Machine

open Sys2Proof

/-- Unused spares of a column (R16). -/
def State.sparesOf (s : State) (c : Nat) : Nat := SMap.get s.spares c 2

/-- Tiles of a sector that are retired and not replaced (R488). -/
def State.retiredIn (s : State) (sec : Nat) : Nat :=
  ((List.range s.tileCount).filter fun t => sectorOf t == sec && (s.tile t).health.retired).length

/-- The columns of a sector. -/
def columnsOf (sec : Nat) : List Nat := (List.range 64).filter fun c => sectorOfColumn c == sec

def State.sparesIn (s : State) (sec : Nat) : Nat := ((columnsOf sec).map s.sparesOf).foldl (· + ·) 0

/-- The replacement message of type 0x7F (R359). -/
def replacementMessage (s : State) (t reason : Nat) : V512 :=
  let sec := sectorOf t
  BitVec.ofNat 512 (0x7F + 16 * 2 ^ 16 + 2 ^ 32 * (t + 2 ^ 16 * columnOf t + 2 ^ 24 * sec + 2 ^ 32 * reason + 2 ^ 40 * s.sparesIn sec
    + 2 ^ 48 * s.retiredIn sec) + 2 ^ 96 * s.ns)

/-- A tile is retired (R486, R487): a spare takes its logical index, with an empty pad of zeros, or the sector shrinks and a replacement is asked for. Of a tile
that is retired already only REASON changes. -/
def State.retireTile (s : State) (t reason : Nat) : State :=
  let tl := s.tile t
  if tl.health.retired then s.setTile t { tl with health := { tl.health with reason := reason } } else
  let c := columnOf t
  let zeroed : State := { s with mem := s.mem.zeroRange (padPA t 0) 0x40000 }
  if 0 < s.sparesOf c then
    { zeroed.setTile t { Tile.clean with fences := tl.fences, health := { tl.health with retired := false, spare := true, reason := reason } } with
      spares := SMap.set s.spares c (s.sparesOf c - 1) }
  else
    let s1 := s.setTile t { tl with health := { tl.health with retired := true, reason := reason } }
    let msg := replacementMessage s1 t reason
    State.flushMail { s1 with replaceReq := NSet.insert s1.replaceReq (sectorOf t), management := s1.management ++ [.replacement msg],
                              heldMessages := s1.heldMessages ++ [msg] }

/-- A retirement is performed (R486): the tile holds no instance and no lath, and the reason is one of 2 to 5. -/
def State.mayRetire (s : State) (t reason : Nat) : Bool :=
  decide (t < s.tileCount) && decide (2 ≤ reason) && decide (reason ≤ 5) && (s.tile t).inst == 0
  && !(isLathTile t && (s.tileDomain t).isSome)

/-- TILE_RETIRE (R486, R487). -/
def execTileRetire (t reason : Nat) (s : State) : Host.Outcome State Fault Refusal :=
  if t ≥ s.tileCount then .fault .absentUnit
  else .next (if s.mayRetire t reason then s.retireTile t reason else s)

/-- The sector in whose frames a granule lies; far memory counts with none (R15, R24, R223). -/
def State.sectorOfGranule (g : Nat) : Option Nat :=
  let pa := 16 * g
  let off := pa % 2 ^ 48
  match tierOf pa with
  | 0 => some (sectorOf (off / 2 ^ 18))
  | 1 => some (sectorOfColumn (off / 2 ^ 25))
  | 2 => some (off / 2 ^ 33 % 16)
  | 3 => some (off / 2 ^ 35 % 16)
  | _ => none

/-- The tile of a pad granule. -/
def padTile (g : Nat) : Option Nat := if tierOf (16 * g) = 0 then some (16 * g / 2 ^ 18) else none

/-- The domain that owns a granule's frame; domain 0 for none (R483). -/
def State.granuleDomain (s : State) (g : Nat) : Nat := ((List.range 16).find? fun d => s.ownsPA d (16 * g)).getD 0

/-- A saturating count raised by one. -/
def bump (m : SMap Nat) (k top : Nat) : SMap Nat := SMap.set m k (min (SMap.get m k 0 + 1) top)

/-- A corrected error counted in the sector's SECTOR_HEALTH and in the tile's TILE_HEALTH, where it has them (R483, R486, R488). -/
def State.countCe (s : State) (sec tile : Option Nat) : State :=
  let s1 := match sec with
    | some k => { s with sectorCe := bump s.sectorCe k (2 ^ 24 - 1) }
    | none => s
  match tile with
  | some t =>
    let tl := s1.tile t
    s1.setTile t { tl with health := { tl.health with ceCount := min (tl.health.ceCount + 1) 0xFFFF } }
  | none => s1

/-- An uncorrectable error counted (R488). -/
def State.countUe (s : State) (sec : Option Nat) : State :=
  match sec with
  | some k => { s with sectorUe := bump s.sectorUe k 0xFFFF }
  | none => s

/-- The sector and the tile in which a place stands; a line of far memory in a slice counts with the slice's sector (R488). -/
def State.placeSector (s : State) : CheckPlace → Option Nat
  | .granule g _ => State.sectorOfGranule g
  | .slice g _ => s.sliceOf g
  | .router site _ _ _ => some (sectorOf (anyTile (siteXOf site) (siteYOf site) (siteZOf site)))
  | .input t _ _ _ => some (sectorOf t)
  | .output t _ _ _ => some (sectorOf t)
  | .skim t _ => some (sectorOf t)
  | .element t _ => some (sectorOf t)
  | .copy _ => none

def placeTile : CheckPlace → Option Nat
  | .granule g _ => padTile g
  | .slice _ _ => none
  | .router site _ _ _ => some (anyTile (siteXOf site) (siteYOf site) (siteZOf site))
  | .input t _ _ _ => some t
  | .output t _ _ _ => some t
  | .skim t _ => some t
  | .element t _ => some t
  | .copy _ => none

/-- The granules that one code word covers (R479): one in pad and vault, the four of an aligned block of 64 bytes in the DRAM tiers and far memory. In a cache slice
it is one. -/
def codeGranules (g : Nat) : List Nat :=
  if 2 ≤ tierOf (16 * g) ∧ tierOf (16 * g) ≤ 5 then (List.range 4).map fun k => g / 4 * 4 + k else [g]

/-- Beat k of a list marked poisoned. -/
def poisonBeat (bs : List Beat) (k : Nat) : List Beat := bs.zipIdx.map fun b => if b.2 = k then { b.1 with poison := true } else b.1

/-- Granules struck by an uncorrectable error: poisoned, with a record where the scrub has found it (R481, R483). -/
def State.poisonAll (s : State) (gs : List Nat) (source : Nat) (scrub : Bool) (g : Nat) : State :=
  let s1 := { s with mem := gs.foldl (fun m k => m.setPoison k true) s.mem }
  if scrub then s1.send (s1.unitRecord source 6 6 (16 * g) 0) else s1

/-- An uncorrectable error in an element's register files, slot words or context words: every context is halted at once, with one check record (R468, R479). -/
def State.logicError (s : State) (t struck : Nat) : State :=
  let tl := s.tile t
  let r := { s.unitRecord t 17 4 0 (BitVec.ofNat 128 (t + 2 ^ 16 * (struck % 3))) with halted := true, inst := tl.inst }
  let halt (cx : Ctx) : Ctx :=
    if cx.word.valid && cx.run == .runnable then
      { cx with run := .halted, halt := some { HaltInfo.first with record := r.number, slot := 0xFF, cls := 17, cause := 4 } }
    else cx
  (s.setTile t { tl with ctxs := Vector.ofFn fun k => halt tl.ctxs[k] }).send r

/-- What an uncorrectable error does to what it strikes (R479, R481, R483): granules and beats are marked poisoned, a skim slot becomes POISON (R212), the contexts of
an element are halted, and what the scrub finds is reported. -/
def State.strike (s : State) (p : CheckPlace) : State :=
  match p with
  | .granule g scrub =>
    s.poisonAll (codeGranules g) (match padTile g, State.sectorOfGranule g with
      | some t, _ => t
      | none, some k => 4928 + k
      | none, none => s.lathTile (s.granuleDomain g)) scrub g
  | .slice g scrub => s.poisonAll [g] (4928 + (s.sliceOf g).getD 0) scrub g
  | .router site port vc k =>
    let r := s.router site
    s.setRouter site { r with ins := SMap.set r.ins (inKey port vc) (poisonBeat (r.buf port vc) k) }
  | .input t c n k =>
    let cx := s.ctx t c
    s.setCtx t c { cx with ins := set8 cx.ins n (poisonBeat (at8 cx.ins n) k) }
  | .output t c n k =>
    let cx := s.ctx t c
    s.setCtx t c { cx with outs := set8 cx.outs n ((at8 cx.outs n).zipIdx.map fun b => match b.1 with
      | .full x => .full { x with poison := x.poison || b.2 == k }
      | .held id tag => .held id tag) }
  | .skim t k =>
    let tl := s.tile t
    s.setTile t { tl with skim := Vector.ofFn fun i : Fin 2 => if i.val = k then { tl.skim[i] with poison := true } else tl.skim[i] }
  | .element t struck => s.logicError t struck
  | .copy t =>
    let tl := s.tile t
    s.setTile t { tl with health := { tl.health with compareFails := min (tl.health.compareFails + 1) 15 } }

/-- A place exists. -/
def State.hasPlace (s : State) : CheckPlace → Bool
  | .granule _ _ => true
  | .slice g _ => (s.sliceOf g).isSome
  | .router site port vc _ => decide (site < s.siteCount) && decide (port < 7) && decide (vc < 32)
  | .input t _ _ _ => decide (t < s.tileCount)
  | .output t _ _ _ => decide (t < s.tileCount)
  | .skim t k => decide (t < s.tileCount) && decide (k < 2)
  | .element t _ => decide (t < s.tileCount)
  | .copy t => decide (t < s.tileCount)

/-- SCRUB_PASS (R479, R481, R483, R484): the scrubber, or whoever reads data where they rest, finds an error. A corrected one is counted, an uncorrectable one
poisons what it strikes and is counted, and what the scrub finds is reported. A comparator that finds that the second result of a tile's copy differs from its
first adds one to COMPARE_FAILS (log 18). -/
def execScrubPass (place : CheckPlace) (corrected uncorrectable : Bool) (s : State) : Host.Outcome State Fault Refusal :=
  if !s.hasPlace place then .fault .absentUnit
  else if uncorrectable then .next ((s.strike place).countUe (s.placeSector place))
  else if corrected then .next (s.countCe (s.placeSector place) (placeTile place))
  else .next s

/-- LOGIC_ERROR (R468, R479, R486): an uncorrectable error in register files, slot words or context words halts every context of the element at once, with
one check record. -/
def execLogicError (t struck : Nat) (s : State) : Host.Outcome State Fault Refusal :=
  if t ≥ s.tileCount then .fault .absentUnit else .next ((s.logicError t struck).countUe (some (sectorOf t)))

end Sys2Proof.Machine
end

