-- ==== Sys2Proof/Machine/Fabric.lean ====
section
/-! DEFINITION. Routers and links (R314-R322, R330, R388, R479, R480): beats leave endpoints, cross routers and links and reach endpoints; condition tokens hop;
links fail. -/

namespace Sys2Proof.Machine

open Sys2Proof

/-! ### Sites -/

/-- The tile that holds a site's router, by which its records are known (R470). -/
def holderOf (site : Nat) : Nat := anyTile (siteXOf site) (siteYOf site) (siteZOf site)

/-- Condition tokens at a router port. -/
def Router.cbuf (r : Router) (port ch : Nat) : List Bool := SMap.get r.cins (16 * port + ch) []

def Router.linkState (r : Router) (port : Nat) : LinkState := SMap.get r.link port .full

/-! ### Leaving an endpoint (R316, R318, R367, R388) -/

/-- An image's port record of role in links the endpoint n of its requester. -/
def State.linksFrom (s : State) (d : Nat) (config : BitVec 128) (n : Nat) : Bool :=
  match s.image? d config with
  | some im => im.portRecs.any fun p => p.role == 0 && p.port == n
  | none => false

/-- A request of the context that is not resolved holds back the endpoint that it would link (R367), and so does an instance that it requested and that has given
up its region (R378). -/
def State.heldBack (s : State) (t c n : Nat) : Bool :=
  (s.pool.any fun e => e.request.isSome && e.tile == t && e.ctx == c && !e.replaces && s.linksFrom e.domain e.config n)
  || s.insts.any fun x => x.away && x.entry.request.isSome && x.entry.tile == t && x.entry.ctx == c && x.parent == (s.tile t).inst && s.linksFrom x.domain x.config n

/-- The ring port by which a beat of a ring channel leaves towards the successor module (R26, R388): the odd port of one of the rings of its level, channel c on
the (c modulo their number)th of them (log 10); none when no port serves the level. -/
def State.ringPort (s : State) (level : Fin 6) (ch : Nat) : Option Nat :=
  let ports := (List.range 32).filter fun p => p % 2 == 1 && s.ringLevels.toList[p]? == some level
  ports[ch % ports.length]?

/-- OUTPUT_BEAT_DEPART (R318, R320): the beat at the front of an output endpoint moves to the local port of its router, which holds four beats of a channel, or
leaves the module on a ring of level 3 to 5. -/
def execOutputBeatDepart (t c n : Nat) (s : State) : Host.Outcome State Fault Refusal :=
  if t ≥ s.tileCount then .fault .absentUnit
  else
    let cx := s.ctx t c
    let site := siteOfTile t
    let rt := s.router site
    match at8 cx.outs n with
    | .full b :: rest =>
      let gone := s.setCtx t c { cx with outs := set8 cx.outs n rest }
      let settle (s : State) : State := (s.settleEmit t 0).settleEmit t 1
      let into (vc : Nat) (b : Beat) : State := if 4 ≤ (rt.buf 6 vc).length then s else settle (gone.pushBeat site 6 vc b)
      match at8 cx.word.obind n with
      | .link dir vc => if s.heldBack t c n then .next s else .next (into vc.val { b with dir := some dir })
      | .ring level ch =>
        if level.val < 3 then .next (into ch.val { b with ring := some level })
        else match s.ringPort level ch.val with
          | none => .next s
          | some port => .next (settle { gone with ringOut := gone.ringOut ++ [(port, b)] })
      | _ => .next s
    | _ => .next s

/-! ### Routing (R59, R316, R317, R319, R321) -/

/-- A route record (R468, R471). -/
def State.routeRecord (s : State) (site cause port ch : Nat) : State :=
  s.send (s.unitRecord (holderOf site) 1 cause 0 (BitVec.ofNat 128 (port + 2 ^ 8 * ch)))

/-- A routing miss (R59). -/
def State.routeMiss (s : State) (site port ch : Nat) : State :=
  let r := s.router site
  (s.setRouter site { r with miss := r.miss + 1 }).routeRecord site 1 port ch

/-- The input endpoints of an element that bind a presented port and channel (R316, R317), or the ring that the beat travels on (R388). A beat that no ring endpoint
sent belongs to a ring of its channel whatever the level (DESIGN CHOICE, log 67). -/
def bindersOf (tl : Tile) (port vc : Nat) (ring : Option (Fin 6)) : List (Nat × Nat) :=
  (List.range 8).flatMap fun c =>
    let cx := tl.ctx c
    if !cx.word.valid then []
    else (List.range 8).filterMap fun n => match at8 cx.word.ibind n with
      | .link p v => if p.val = port ∧ v.val = vc then some (c, n) else none
      | .ring l v => if v.val = vc ∧ ring.getD l = l then some (c, n) else none
      | _ => none

/-- Where a token presented to an element goes (R317): to the one context that binds what it came by, whatever its tag, or to the one of several that its tag
names. Of several endpoints of that context the lowest-numbered takes it (DESIGN CHOICE, log 67). -/
def receiver (tl : Tile) (port vc : Nat) (ring : Option (Fin 6)) (tag : BitVec 3) : Option (Nat × Nat) :=
  let xs := bindersOf tl port vc ring
  match (xs.map (·.1)).eraseDups with
  | [_] => xs.head?
  | _ => xs.find? fun x => x.1 == tag.toNat

/-- The receiver has space, or the token will be discarded (R319, R322, R332). -/
def localSpace (tl : Tile) (port vc : Nat) (b : Beat) : Bool :=
  match receiver tl port vc b.ring b.tag with
  | none => true
  | some (c, n) => let cx := tl.ctx c
                   cx.run == .retired || decide ((at8 cx.ins n).length < 8)

/-- A token presented to an element (R316, R317, R332). -/
def State.present (s : State) (site t port vc : Nat) (b : Beat) : State :=
  match receiver (s.tile t) port vc b.ring b.tag with
  | none => s.routeRecord site 2 port vc
  | some (c, n) =>
    let cx := s.ctx t c
    if cx.run == .retired then s else s.setCtx t c { cx with ins := set8 cx.ins n (at8 cx.ins n ++ [b]) }

/-- The ports and the channel that a beat at a router port goes to: by the word that matches, else by the implicit word (R316). -/
def routeOf (s : State) (site port vc : Nat) (b : Beat) : Option (BitVec 7 × Nat) :=
  match (s.router site).words.find? fun w => w.inPort == port && w.inVc == vc with
  | some w => some (w.outSet, w.outVc.getD vc)
  | none =>
    if port = 6 then b.dir.map fun d => (BitVec.ofNat 7 (2 ^ d.val), vc)
    else match elementAtSite site with
      | none => none
      | some t =>
        if (s.tile t).binds port vc then some (BitVec.ofNat 7 64, vc) else none

/-- A port leads to nothing: a declared port record linked to nothing, or no site (R321). -/
def State.openEnd (s : State) (site port vc : Nat) : Bool :=
  (s.router site).unlinked.contains (port, vc) || (s.beyond site port).isNone

/-- The router to which a port leads a copy on a channel; none at an open end. -/
def State.across (s : State) (site port vc : Nat) : Option Nat := if s.openEnd site port vc then none else s.beyond site port

/-- A copy sent on a port has space (R320, R321). -/
def State.portSpace (s : State) (site port vc : Nat) : Bool :=
  match s.across site port vc with
  | none => true
  | some next => (s.router site).linkState port != .down &&
      decide (((s.router next).buf (opposite port) vc).length + ((s.router site).staging port vc).length < 4)

/-- A copy sent on a port. -/
def State.sendCopy (s : State) (site port vc : Nat) (b : Beat) : State :=
  if s.openEnd site port vc then s.routeMiss site port vc
  else
    let r := s.router site
    s.setRouter site { r with staged := SMap.set r.staged (inKey port vc) (r.staging port vc ++ [b]) }

/-- ROUTER_ROUTE (R316): the beat at the head of a router port's channel is matched, and all its copies are sent in one cycle or none. -/
def execRouterRoute (site port vc : Nat) (s : State) : Host.Outcome State Fault Refusal :=
  if site ≥ s.siteCount ∨ port ≥ 7 ∨ vc ≥ 32 then .fault .absentUnit
  else
    let r := s.router site
    match r.buf port vc with
    | [] => .next s
    | b :: rest =>
      let taken := s.setRouter site { r with ins := SMap.set r.ins (inKey port vc) rest }
      match routeOf s site port vc b with
      | none => .next (taken.routeMiss site port vc)
      | some (outs, ovc) =>
        let b1 : Beat := { b with vc := ⟨ovc % 32, Nat.mod_lt _ (by decide)⟩, dir := none }
        let ports := (List.range 6).filter fun p => outs.getLsbD p
        let here := if outs.getLsbD 6 then elementAtSite site else none
        let free := ports.all (fun p => s.portSpace site p ovc) && match here with
          | some t => localSpace (s.tile t) port ovc b
          | none => true
        if !free then .next s
        else
          let s1 := match here with
            | some t => taken.present site t port ovc b1
            | none => taken
          .next (ports.foldl (fun s p => s.sendCopy site p ovc b1) s1)

/-! ### Links (R314, R320, R480) -/

/-- The channels in the order of a link's round-robin: after the one served last (R320). -/
def vcOrder (last : Nat) : List Nat := (List.range 32).map fun k => (last + 1 + k) % 32

/-- A link moves one beat of the next channel that has one; its credit was taken when the copy was made (R320). -/
def State.sendOnLink (s : State) (site port : Nat) : State :=
    let r := s.router site
    match s.beyond site port, (vcOrder (SMap.get r.last port 31)).find? fun vc => !(r.staging port vc).isEmpty with
    | some next, some vc =>
      if r.linkState port == .down then s
      else match r.staging port vc with
        | [] => s
        | b :: rest =>
          (s.setRouter site { r with staged := SMap.set r.staged (inKey port vc) rest, last := SMap.set r.last port vc,
                                     attempts := SMap.erase r.attempts port }).pushBeat next (opposite port) vc b
    | _, _ => s

/-- A beat from the predecessor module comes in on a ring port, which serves one level, and reaches the element whose endpoint its ring's path ends at (R26,
R388); it waits at the ring port while that endpoint is full. -/
def State.ringArrive (s : State) (site port : Nat) (rb : RingBeat) : State :=
  match elementAtSite site, s.ringLevels.toList[port]? with
  | some t, some level =>
    let b : Beat := { payload := rb.payload, mask := rb.mask, tag := rb.tag, vc := rb.channel, poison := false, ring := some level }
    if port % 2 = 0 ∧ localSpace (s.tile t) (7 + port) rb.channel.val b then s.present site t (7 + port) rb.channel.val b else s
  | _, _ => s

/-- LINK_BEAT_SEND (R320, R388): a link moves one beat; or a ring port takes in the beat given, for the element at a site. -/
def execLinkBeatSend (site : Nat) (port : LinkEnd) (s : State) : Host.Outcome State Fault Refusal :=
  match port with
  | .link p => if site ≥ s.siteCount ∨ p ≥ 6 then .fault .absentUnit else .next (s.sendOnLink site p)
  | .ring p rb => if site ≥ s.siteCount ∨ p ≥ 32 then .fault .absentUnit else .next (s.ringArrive site p rb)

/-- A link has a beat to send. -/
def Router.waiting (r : Router) (port : Nat) : Bool := (List.range 32).any fun vc => !(r.staging port vc).isEmpty

/-- LINK_RETRY (R480): the beat fails its check and the link will resend it in order. -/
def execLinkRetry (site port : Nat) (s : State) : Host.Outcome State Fault Refusal :=
  if site ≥ s.siteCount ∨ port ≥ 6 then .fault .absentUnit
  else
    let r := s.router site
    if !r.waiting port || r.linkState port == .down then .next s
    else .next (s.setRouter site { r with attempts := SMap.set r.attempts port (SMap.get r.attempts port 0 + 1) })

/-- A check record of a link (R468, R471). -/
def State.linkRecord (s : State) (site cause port : Nat) : State :=
  s.send (s.unitRecord (holderOf site) 17 cause 0 (BitVec.ofNat 128 (holderOf site + 2 ^ 16 * port)))

/-- LINK_DEGRADED (R480): after 16 consecutive failed attempts at one beat the link goes on at half width. -/
def execLinkDegraded (site port : Nat) (s : State) : Host.Outcome State Fault Refusal :=
  if site ≥ s.siteCount ∨ port ≥ 6 then .fault .absentUnit
  else
    let r := s.router site
    if SMap.get r.attempts port 0 < 16 || r.linkState port != .full then .next s
    else .next ((s.setRouter site { r with link := SMap.set r.link port .degraded, attempts := SMap.erase r.attempts port }).linkRecord site 1 port)

/-- LINK_DOWN (R480): retraining fails; the beats held for the link stay in their buffers, and the tiles at both ends count as retired as soon as they hold no
instance and no lath. -/
def execLinkDown (site port : Nat) (s : State) : Host.Outcome State Fault Refusal :=
  if site ≥ s.siteCount ∨ port ≥ 6 then .fault .absentUnit
  else
    let r := s.router site
    if SMap.get r.attempts port 0 < 16 || r.linkState port == .down then .next s
    else
      let s1 := (s.setRouter site { r with link := SMap.set r.link port .down }).linkRecord site 2 port
      let ends := holderOf site :: ((s.beyond site port).map holderOf).toList
      .next (ends.foldl (fun s t => if s.mayRetire t 5 && !(s.tile t).health.retired then s.retireTile t 5 else s) s1)

/-- RING_DOWN (R468, R479): a ring port fails uncorrectably. -/
def execRingDown (port : Nat) (s : State) : Host.Outcome State Fault Refusal :=
  if port ≥ 32 then .fault .absentUnit
  else .next (s.send (s.unitRecord (s.lathTile 0) 17 3 0 (BitVec.ofNat 128 (2 ^ 16 * port))))

/-! ### Condition tokens (R330) -/

/-- The condition output endpoint of an element bound to a control channel (R54). -/
def condSource (tl : Tile) (ch : Nat) : Option (Nat × Nat) :=
  (List.range 8).findSome? fun c => if !(tl.ctx c).word.valid then none
    else (List.range 4).findSome? fun n => match at4 (tl.ctx c).word.cobind n with
      | some k => if k.val = ch then some (c, n) else none
      | none => none

/-- The condition input endpoint bound to a control channel. -/
def condSink (tl : Tile) (ch : Nat) : Option (Nat × Nat) :=
  (List.range 8).findSome? fun c => if !(tl.ctx c).word.valid then none
    else (List.range 4).findSome? fun n => match at4 (tl.ctx c).word.cibind n with
      | some k => if k.val = ch then some (c, n) else none
      | none => none

/-- The condition token at the head of a router port's channel, and the state without it. -/
def State.takeCond (s : State) (site port ch : Nat) : Option (Bool × State) :=
  let r := s.router site
  match r.cbuf port ch with
  | [] => none
  | b :: rest => some (b, s.setRouter site { r with cins := SMap.set r.cins (16 * port + ch) rest })

/-- A token of the element's bound condition output enters the router by its local port, which holds four (R330). -/
def State.injectCond (s : State) (site ch : Nat) : State :=
  let r := s.router site
  match elementAtSite site with
  | none => s
  | some t => match condSource (s.tile t) ch with
    | none => s
    | some (c, n) =>
      let cx := s.ctx t c
      match at4 cx.couts n with
      | [] => s
      | b :: rest =>
        if 4 ≤ (r.cbuf 6 ch).length then s
        else (s.setRouter site { r with cins := SMap.set r.cins (16 * 6 + ch) (r.cbuf 6 ch ++ [b]) }).setCtx t c
          { cx with couts := set4 cx.couts n rest }

/-- The ci endpoint of a channel has space, or the token will be discarded. -/
def condSpace (tl : Tile) (ch : Nat) : Bool :=
  match condSink tl ch with
  | none => true
  | some (c, n) => (tl.ctx c).run == .retired || decide ((at4 (tl.ctx c).cins n).length < 8)

/-- A condition token that reaches the local port (R330, R332). -/
def State.presentCond (s : State) (site t ch : Nat) (b : Bool) : State :=
  match condSink (s.tile t) ch with
  | none => s.routeRecord site 3 6 ch
  | some (c, n) =>
    let cx := s.ctx t c
    if cx.run == .retired then s else s.setCtx t c { cx with cins := set4 cx.cins n (at4 cx.cins n ++ [b]) }

/-- The links and the element that a control word sends a token to. -/
def RWord.links (w : RWord) : List Nat := (List.range 6).filter fun p => w.outSet.getLsbD p
def RWord.here (w : RWord) (site : Nat) : Option Nat := if w.outSet.getLsbD 6 then elementAtSite site else none

/-- Every place that a token of a control word goes to has space for it (R330). -/
def State.condFree (s : State) (site : Nat) (w : RWord) : Bool :=
  let och := w.outVc.getD w.inVc
  (w.links.all fun p => match s.across site p och with
    | none => true
    | some next => decide (((s.router next).cbuf (opposite p) och).length < 4) && (s.router site).linkState p != .down)
  && match w.here site with
    | some t => condSpace (s.tile t) och
    | none => true

/-- The outgoing channels on which tokens can cross a control link now; a token that goes to several links counts at the lowest of them (log 20). -/
def State.condReady (s : State) (site link : Nat) : List Nat :=
  ((s.router site).ctl.filter fun w => w.links.head? == some link && !((s.router site).cbuf w.inPort w.inVc).isEmpty && s.condFree site w).map
    fun w => w.outVc.getD w.inVc

/-- The channel that a control link serves next: round-robin, starting after the one that it served last (R330). -/
def State.condTurn (s : State) (site link : Nat) : Option Nat :=
  ((List.range 16).map fun k => (SMap.get (s.router site).clast link 15 + 1 + k) % 16).find? (s.condReady site link).contains

/-- A condition token moves on from a router port by the control network's words (R59, R330); at a boundary port that is linked to nothing it is a miss (R18,
R321). -/
def State.hopCond (s : State) (site port ch : Nat) : State :=
  match s.takeCond site port ch with
  | none => s
  | some (b, taken0) =>
    match (s.router site).ctl.find? fun w => w.inPort == port && w.inVc == ch with
    | none => taken0.routeMiss site port ch
    | some w =>
      let och := w.outVc.getD ch
      let ports := w.links
      let here := w.here site
      let turn := match ports with
        | [] => true
        | p :: _ => s.condTurn site p == some och
      if !s.condFree site w || !turn then s
      else
        let rt := taken0.router site
        let taken := taken0.setRouter site { rt with clast := match ports with
          | [] => rt.clast
          | p :: _ => SMap.set rt.clast p och }
        let s1 := match here with
          | some t => taken.presentCond site t och b
          | none => taken
        ports.foldl (fun s p => match s.across site p och with
          | none => s.routeMiss site p och
          | some next =>
            let r := s.router next
            let k := 16 * opposite p + och
            s.setRouter next { r with cins := SMap.set r.cins k (SMap.get r.cins k [] ++ [b]) }) s1

/-- CONDITION_TOKEN_HOP (R330): a condition token moves on from a router port; at the local port the element's next token then comes in behind. -/
def execConditionTokenHop (site port ch : Nat) (s : State) : Host.Outcome State Fault Refusal :=
  if site ≥ s.siteCount ∨ port ≥ 7 ∨ ch ≥ 16 then .fault .absentUnit
  else
    let s1 := s.hopCond site port ch
    .next (if port = 6 then s1.injectCond site ch else s1)

end Sys2Proof.Machine
end

