-- ==== Sys2Proof/Machine/StencilOps.lean ====
section
/-! DEFINITION. The stencil engine's own operations (R418-R426): reads of a grammar image, the stack pool, the automaton's walk, the mask. -/

namespace Sys2Proof.Machine

open Sys2Proof

/-! ### Engines and contexts -/

def State.stencil (s : State) (c : Nat) : Stencil := SMap.get s.stencils c Stencil.clean

def State.setStencil (s : State) (c : Nat) (x : Stencil) : State := { s with stencils := SMap.set s.stencils c x }

def Stencil.grammar (x : Stencil) (k : Nat) : Grammar := SMap.get x.contexts k Grammar.clean

def State.setGrammar (s : State) (c k : Nat) (g : Grammar) : State :=
  let x := s.stencil c
  s.setStencil c { x with contexts := SMap.set x.contexts k g }

/-- The writer identifier of a column's stencil engine (R20). -/
def stencilWriter (c : Nat) : Nat := 4864 + c

/-- A computation of a command: a result, or the status and the address at which it ends (R429). -/
abbrev G (α : Type) := Except (Nat × Nat) α

/-- What the reads of a command go through: the state, the column's domain, the address space and the image (R428). -/
structure GEnv where
  s : State
  d : Nat
  asid : Nat
  image : Nat

/-! ### Reads (R428, R429) -/

/-- A page translated for the engine at an access (R428, R429). The engine keeps no translations (log 7). -/
def GEnv.page (e : GEnv) (va : Nat) (write : Bool) : G Leaf :=
  match walk e.s e.d e.asid va with
  | .fault _ => .error (8, va)
  | .poison _ => .error (10, va)
  | .leaf l => if !l.e || (if write then !l.w else !l.r) || l.tier == 8 || l.tier == 9 then .error (9, va) else .ok l

/-- One granule read. -/
def GEnv.granule (e : GEnv) (va : Nat) : G Nat :=
  match e.page va false with
  | .error x => .error x
  | .ok l =>
    let g := l.pa va / 16
    if e.s.mem.isPoison g then .error (10, va) else .ok (e.s.granuleAs (e.s.keyIdent l) g).toNat

/-- The granules of a list, lowest first, as one number. -/
def GEnv.granules (e : GEnv) : List Nat → G Nat
  | [] => .ok 0
  | va :: rest =>
    match e.granule va with
    | .error x => .error x
    | .ok v => match e.granules rest with
      | .error x => .error x
      | .ok w => .ok (v + 2 ^ 128 * w)

/-- n bytes read at a virtual address. -/
def GEnv.read (e : GEnv) (va n : Nat) : G Nat :=
  match e.granules (granulesOf va n) with
  | .error x => .error x
  | .ok v => .ok (bits v (8 * (va % 16)) (8 * n))

/-- n bytes of the image at an offset. -/
def GEnv.at' (e : GEnv) (off n : Nat) : G Nat := e.read (wrap 64 ((e.image : Int) + off)) n

/-- An entry breaks R419 to R422. -/
def badEntry {α : Type} : G α := .error (7, 0)

/-! ### The image (R419-R422) -/

/-- The header of an image. -/
structure GHeader where
  states : Nat
  classes : Nat
  alts : Nat
  vocab : Nat
  shardBase : Nat
  shardSize : Nat
  eos : Nat
  start : Nat
  nodes : Nat
  classOff : Nat
  transOff : Nat
  altOff : Nat
  stateOff : Nat
  tokenOff : Nat
  trieOff : Nat
  len : Nat
  deriving DecidableEq, Repr

/-- The header in 128 bytes (R419). -/
def headerOf (h : Nat) : GHeader :=
  let f (k n : Nat) : Nat := bits h (8 * k) (8 * n)
  { states := f 8 2, classes := f 10 2, alts := f 12 4, vocab := f 16 4, shardBase := f 20 4, shardSize := f 24 4, eos := f 28 4, start := f 32 2,
    nodes := f 36 4, classOff := f 40 4, transOff := f 44 4, altOff := f 48 4, stateOff := f 52 4, tokenOff := f 56 4, trieOff := f 60 4, len := f 64 8 }

/-- The sections of an image: offset and length. -/
def GHeader.sections (h : GHeader) : List (Nat × Nat) :=
  [(h.classOff, 256), (h.transOff, 8 * h.states * h.classes), (h.altOff, 8 * h.alts), (h.stateOff, 32 * h.states), (h.tokenOff, 4 * h.vocab),
   (h.trieOff, 8 * h.nodes)]

/-- The checks of GINI on the header's bytes (R419, R430). -/
def headerGood (x : Nat) : Bool :=
  let h := headerOf x
  bits x 0 32 == 0x4D474A46 && bits x 32 16 == 1 && bits x 48 16 == 0 && bits x 272 16 == 0 && bits x 576 448 == 0
  && decide (1 ≤ h.states) && decide (1 ≤ h.classes) && decide (h.classes ≤ 256) && decide (h.alts ≤ 65535)
  && decide (1 ≤ h.vocab) && decide (h.vocab ≤ 2 ^ 24) && decide (1 ≤ h.shardSize) && decide (h.shardSize ≤ 262144)
  && decide (h.shardBase + h.shardSize ≤ h.vocab) && decide (h.start < h.states) && decide (1 ≤ h.nodes) && decide (h.nodes ≤ 2 ^ 26)
  && h.sections.all fun p => p.1 % 64 == 0 && decide (p.1 + p.2 ≤ h.len)

/-- A transition, alternative or end-of-sequence entry (R420). -/
structure GEntry where
  next : Nat
  act : Nat
  sym : Nat
  alt : Nat
  deriving DecidableEq, Repr

/-- An entry checked as it is read (R420, R423). -/
def entryOf (h : GHeader) (x : Nat) : G GEntry :=
  let e : GEntry := { next := bits x 0 16, act := bits x 16 8, sym := bits x 32 16, alt := bits x 48 16 }
  if h.states ≤ e.next ∨ 4 < e.act ∨ bits x 24 8 ≠ 0 ∨ (e.act = 3 ∧ e.alt ≠ 0xFFFF ∧ h.alts ≤ e.alt) then badEntry else .ok e

/-- A state entry (R421). -/
structure GStateEntry where
  always : Nat
  never : Nat
  resid : Nat
  count : Nat
  eos : GEntry
  deriving DecidableEq, Repr

/-- State entry k, checked as it is read (R421). -/
def GEnv.stateEntry (e : GEnv) (h : GHeader) (k : Nat) : G GStateEntry :=
  match e.at' (h.stateOff + 32 * k) 32 with
  | .error x => .error x
  | .ok x =>
    let f (j : Nat) : Nat := bits x (32 * j) 32
    if f 0 % 64 ≠ 0 ∨ f 1 % 64 ≠ 0 ∨ f 2 % 64 ≠ 0 ∨ h.shardSize < f 3 ∨ bits x 192 64 ≠ 0 then badEntry
    else match entryOf h (bits x 128 64) with
      | .error z => .error z
      | .ok eos => .ok { always := f 0, never := f 1, resid := f 2, count := f 3, eos := eos }

/-- A trie node: PARENT, BYTE and DEPTH, checked as it is read (R422). -/
def GEnv.node (e : GEnv) (h : GHeader) (k : Nat) : G (Nat × Nat × Nat) :=
  if h.nodes ≤ k then badEntry
  else match e.at' (h.trieOff + 8 * k) 8 with
    | .error x => .error x
    | .ok x =>
      let parent := bits x 0 32
      let depth := bits x 48 16
      if bits x 40 8 ≠ 0 then badEntry
      else if k = 0 then if parent = 0xFFFFFFFF ∧ depth = 0 then .ok (parent, bits x 32 8, depth) else badEntry
      else if h.nodes ≤ parent ∨ depth = 0 ∨ 1024 < depth then badEntry
      else .ok (parent, bits x 32 8, depth)

/-- The bytes on the path from the root's child to a node, first byte first (R422). -/
def GEnv.path (e : GEnv) (h : GHeader) : Nat → Nat → Option Nat → List Nat → G (List Nat)
  | 0, _, _, _ => badEntry
  | fuel + 1, k, below, acc =>
    match e.node h k with
    | .error x => .error x
    | .ok (parent, byte, depth) =>
      if (match below with | some d => d != depth + 1 | none => false) then badEntry
      else if k = 0 then .ok acc
      else e.path h fuel parent (some depth) (byte :: acc)

/-- The bytes of a token; none for a token with no entry in the trie (R422, R423). -/
def GEnv.tokenBytes (e : GEnv) (h : GHeader) (t : Nat) : G (List Nat) :=
  match e.at' (h.tokenOff + 4 * t) 4 with
  | .error x => .error x
  | .ok x => if x = 0xFFFFFFFF then .ok [] else e.path h 1026 x none []

/-! ### The stack pool (R418, R426) -/

/-- The configurations of a grammar context. -/
def Grammar.confs (g : Grammar) : List GConf := g.commit.toList ++ g.hist ++ g.nodes.toList.filterMap id

/-- The reference count of a page: how many configurations of the engine hold it. -/
def Stencil.refs (x : Stencil) (p : Nat) : Nat := ((x.contexts.flatMap fun k => k.2.confs).filter fun c => c.pages.contains p).length

/-- The pool pages that no configuration holds, ascending. -/
def Stencil.freePages (x : Stencil) : List Nat :=
  ((List.range x.poolPages).map (x.poolBase + ·)).filter fun p => x.refs p == 0

/-- Physical address of symbol k of a stack on its pages. -/
def symbolPA (col : Nat) (pages : List Nat) (k : Nat) : Nat := vaultPA col (4096 * pages.getD (k / 2048) 0 + 2 * (k % 2048))

/-- The symbols of a configuration's stack, top first; the pool is addressed physically. -/
def State.stackOf (s : State) (col : Nat) (c : GConf) : G (List Nat) :=
  let ks := (List.range c.depth).reverse
  match ks.find? fun k => s.mem.isPoison (symbolPA col c.pages k / 16) with
  | some _ => .error (10, 0)
  | none => .ok (ks.map fun k => s.mem.read (symbolPA col c.pages k) 2)

/-- Symbols, top first, written onto pages in the pool, page indices of a list only; a granule whose eight symbols are all written loses its mark (R481). -/
def State.writeStack (s : State) (col : Nat) (pages : List Nat) (stack : List Nat) (which : List Nat) : State :=
  let syms := stack.reverse
  { s with mem := ((List.range syms.length).filter fun k => which.contains (k / 2048)).foldl (fun m k =>
      let pa := symbolPA col pages k
      let m1 := (m.write pa 2 (syms.getD k 0)).setFull (pa / 16) true
      if k % 8 = 7 then m1.setPoison (pa / 16) false else m1) s.mem }

/-- Pages of a stack of a depth. -/
def pagesFor (depth : Nat) : Nat := (depth + 2047) / 2048

/-! ### The walk (R423) -/

/-- A configuration as a walk moves it: its stack top first, and the page indices it has pushed into. -/
structure GWalk where
  state : Nat
  ended : Bool
  stack : List Nat
  touched : List Nat
  deriving DecidableEq, Repr

/-- What a step of the walk comes to. -/
inductive GStep where
  | to (w : GWalk)
  | reject
  | overflow
  deriving DecidableEq, Repr

/-- What a push needs: page indices that would take a page of the pool, and the pages free. None for a walk that keeps no page (R432). -/
structure GBudget where
  fresh : Nat → Bool
  free : Nat

/-- A push, judged at its own byte (R423, R426). -/
def pushSymbol (b : Option GBudget) (w : GWalk) (sym next : Nat) : G GStep :=
  if 65536 ≤ w.stack.length then .ok .overflow
  else
    let k := w.stack.length / 2048
    let touched := if w.touched.contains k then w.touched else k :: w.touched
    let short := match b with
      | none => false
      | some b => !w.touched.contains k && b.fresh k && decide (b.free < (touched.filter b.fresh).length)
    if short then .error (5, 0) else .ok (.to { w with state := next, stack := sym :: w.stack, touched := touched })

/-- The loop of `step` (R423): an entry followed through its alternatives. -/
def GEnv.follow (e : GEnv) (h : GHeader) (b : Option GBudget) (w : GWalk) : Nat → GEntry → G GStep
  | 0, _ => badEntry
  | fuel + 1, x =>
    match x.act with
    | 0 => .ok .reject
    | 1 => .ok (.to { w with state := x.next })
    | 2 => pushSymbol b w x.sym x.next
    | 3 =>
      if w.stack.head? == some x.sym then .ok (.to { w with state := x.next, stack := w.stack.tail })
      else if x.alt = 0xFFFF then .ok .reject
      else if fuel = 0 then badEntry
      else match e.at' (h.altOff + 8 * x.alt) 8 with
        | .error z => .error z
        | .ok y => match entryOf h y with
          | .error z => .error z
          | .ok y => e.follow h b w fuel y
    | _ => badEntry

/-- step(CFG, B) (R423). -/
def GEnv.step (e : GEnv) (h : GHeader) (b : Option GBudget) (w : GWalk) (byte : Nat) : G GStep :=
  match e.at' (h.classOff + byte) 1 with
  | .error z => .error z
  | .ok k =>
    if h.classes ≤ k then badEntry
    else match e.at' (h.transOff + 8 * (w.state * h.classes + k)) 8 with
      | .error z => .error z
      | .ok x => match entryOf h x with
        | .error z => .error z
        | .ok x => e.follow h b w 257 x

/-- The bytes of a token, one after another. -/
def GEnv.steps (e : GEnv) (h : GHeader) (b : Option GBudget) : List Nat → GWalk → G GStep
  | [], w => .ok (.to w)
  | x :: rest, w =>
    match e.step h b w x with
    | .ok (.to v) => e.steps h b rest v
    | r => r

/-- advance(CFG, T) (R423). -/
def GEnv.advance (e : GEnv) (h : GHeader) (b : Option GBudget) (w : GWalk) (t : Nat) : G GStep :=
  if w.ended then .ok .reject
  else if t = h.eos then
    match e.stateEntry h w.state with
    | .error z => .error z
    | .ok st => .ok (if st.eos.act = 4 ∧ w.stack.isEmpty then .to { w with ended := true } else .reject)
  else match e.tokenBytes h t with
    | .error z => .error z
    | .ok bs => e.steps h b bs w

/-! ### The mask (R424, R432) -/

/-- A bitmap of the shard at an offset, 0 for none (R421). -/
def GEnv.bitmap (e : GEnv) (h : GHeader) (off : Nat) : G Nat :=
  if off = 0 then .ok 0
  else match e.at' off ((h.shardSize + 7) / 8) with
    | .error z => .error z
    | .ok x => .ok (x % 2 ^ h.shardSize)

/-- The residual list walked: the accepted tokens as bits, and the tokens walked. `limit` is how many are walked before the deadline passes; `cut` stops the
walk there (R432). -/
def GEnv.residual (e : GEnv) (h : GHeader) (w : GWalk) (settled : Nat → Bool) (off : Nat) (cut : Bool) (limit : Option Nat) :
    List Nat → Option Nat → Nat → Nat → Bool → G (Nat × Nat × Bool)
  | [], _, acc, walked, late => .ok (acc, walked, late)
  | i :: rest, last, acc, walked, late =>
    match e.at' (off + 4 * i) 4 with
    | .error z => .error z
    | .ok j =>
      if decide (h.shardSize ≤ j) || (match last with | some l => decide (j ≤ l) | none => false) then badEntry
      else if settled j then e.residual h w settled off cut limit rest (some j) acc walked late
      else
        let passed := match limit with
          | some n => decide (n ≤ walked)
          | none => false
        if passed && cut then .ok (acc, walked, true)
        else match e.advance h none w (h.shardBase + j) with
          | .error z => .error z
          | .ok r => e.residual h w settled off cut limit rest (some j) (match r with | .to _ => acc ||| 2 ^ j | _ => acc) (walked + 1) (late || passed)

/-- A mask with what GMSK reports of it (R424, R432). -/
structure GMaskResult where
  mask : Nat
  walked : Nat
  count : Nat
  late : Bool
  deriving DecidableEq, Repr

/-- The mask of a configuration (R424). -/
def GEnv.mask (e : GEnv) (h : GHeader) (w : GWalk) (cut : Bool) (limit : Option Nat) : G GMaskResult :=
  match e.stateEntry h w.state with
  | .error z => .error z
  | .ok st =>
    match e.bitmap h st.always with
    | .error z => .error z
    | .ok always => match e.bitmap h st.never with
      | .error z => .error z
      | .ok never =>
        let eosAt (j : Nat) : Bool := h.shardBase + j == h.eos
        let settled (j : Nat) : Bool := eosAt j || w.ended || bitAt always j || bitAt never j
        match e.residual h w settled st.resid cut limit (List.range st.count) none 0 0 false with
        | .error z => .error z
        | .ok (accepted, walked, late) =>
          let plain := if w.ended then 0 else always ||| accepted
          let k := h.eos - h.shardBase
          let inShard := decide (h.shardBase ≤ h.eos) && decide (k < h.shardSize)
          let eos := !w.ended && st.eos.act == 4 && w.stack.isEmpty
          let m := if inShard then (if bitAt plain k then plain - 2 ^ k else plain) + (if eos then 2 ^ k else 0) else plain
          .ok { mask := m, walked := walked, count := st.count, late := late }

end Sys2Proof.Machine
end

