-- ==== Sys2Proof/Machine/Stencil.lean ====
section
/-! DEFINITION. The stencil instructions at their firing (R427), the performance of their commands (R428-R437), and the stores to STENCIL_CTL (R418). -/

namespace Sys2Proof.Machine

open Sys2Proof

/-! ### Sending a command (R427, R428) -/

/-- The address operand of a command that must be aligned to 64 B. -/
def stencilAddress (sub : Nat) (a b : V512) : Option Nat :=
  match sub with
  | 0 => some (lane 64 a 2)
  | 2 | 6 | 7 => some (lane 64 b 0)
  | _ => none

/-- The column that a selector names. -/
def selectorColumn (a : V512) : Nat := bits a.toNat 6 6

/-- The firing of a stencil instruction (R427): its selector and its address are checked, and the command is sent; all but GINI have a destination that
waits for it. -/
def stencilBody (sub : Nat) (s : State) (fr : Firing) : Fired :=
  let sel := fr.a64 0
  let col := selectorColumn fr.a.val
  if !fr.any then .done (s.writeDest fr.t fr.c fr.slot fr.f.dst 64 0 [])
  else if bits sel 16 48 ≠ 0 ∨ s.domainOf (sectorOfColumn col) ≠ s.tileDomain fr.t then
    .stop { cls := 11, cause := 11, detail := BitVec.ofNat 128 (bits sel 0 6 + col * 2 ^ 8) }
  else match (stencilAddress sub fr.a.val fr.b.val).bind fun x => if x % 64 ≠ 0 then some x else none with
    | some x => .stop { cls := 3, cause := 1, address := x }
    | none =>
      let id := s.nextAccess
      let cmd : StencilCmd :=
        { id := id, column := col, sub := sub, a := fr.a.val, b := fr.b.val, e := fr.e, tile := fr.t, ctx := fr.c, slot := fr.slot,
          asid := (s.tile fr.t).asid, number := none }
      let o : Outstanding :=
        { id := id, tile := fr.t, ctx := fr.c, slot := fr.slot, dst := fr.f.dst, e := fr.e, w := 64, n := 8, predReg := fr.f.predReg,
          predOp := fr.f.predOp, witness := none, quiet := false }
      let s1 := if sub = 0 then s else s.expect fr.t fr.c fr.slot o
      .done { s1 with nextAccess := id + 1, stencilCmds := s1.stencilCmds ++ [cmd] }

/-- GINI (R430). -/
def execGini (f : Slot) (s : State) : Host.Outcome State Fault Refusal := fire (.gini f) (stencilBody 0) s
/-- GADV (R431). -/
def execGadv (f : Slot) (s : State) : Host.Outcome State Fault Refusal := fire (.gadv f) (stencilBody 1) s
/-- GMSK (R432). -/
def execGmsk (f : Slot) (s : State) : Host.Outcome State Fault Refusal := fire (.gmsk f) (stencilBody 2) s
/-- GFRK (R433). -/
def execGfrk (f : Slot) (s : State) : Host.Outcome State Fault Refusal := fire (.gfrk f) (stencilBody 3) s
/-- GCMT (R434). -/
def execGcmt (f : Slot) (s : State) : Host.Outcome State Fault Refusal := fire (.gcmt f) (stencilBody 4) s
/-- GRBK (R435). -/
def execGrbk (f : Slot) (s : State) : Host.Outcome State Fault Refusal := fire (.grbk f) (stencilBody 5) s
/-- GSAV (R436). -/
def execGsav (f : Slot) (s : State) : Host.Outcome State Fault Refusal := fire (.gsav f) (stencilBody 6) s
/-- GRST (R436). -/
def execGrst (f : Slot) (s : State) : Host.Outcome State Fault Refusal := fire (.grst f) (stencilBody 7) s
/-- GSTA (R437). -/
def execGsta (f : Slot) (s : State) : Host.Outcome State Fault Refusal := fire (.gsta f) (stencilBody 8) s

/-! ### Operand checks (R429) -/

/-- The bits of lane k of A that a command names, beyond the selector and the witness. -/
def namedA (sub k : Nat) : Nat :=
  match sub, k with
  | 0, 2 => 2 ^ 64 - 1
  | 0, 3 => 1
  | 4, 2 => 0xFFFFFFFF0000000F
  | 4, 3 => 2 ^ 60 - 1
  | 5, 2 => 0xFFFFFFFF0001FFFF
  | 6, 2 => 1
  | _, _ => 0

/-- The bits of lane k of B that a command names. -/
def namedB (sub k : Nat) : Nat :=
  match sub, k with
  | 0, 0 => 2 ^ 64 - 1
  | 0, 1 => 2 ^ 64 - 1
  | 0, 2 => 0xFFFFFFFF
  | 1, 0 => 0xFFFFFFFF
  | 2, 0 => 2 ^ 64 - 1
  | 2, 1 => 2 ^ 64 - 1
  | 3, 0 => 0x1F
  | 6, 0 => 2 ^ 64 - 1
  | 6, 1 => 2 ^ 64 - 1
  | 7, 0 => 2 ^ 64 - 1
  | _, _ => 0

/-- Nodes of the path of GCMT: n_0 to n_A (R434). -/
def pathNodes (a : V512) : List Nat :=
  (List.range (bits (lane 64 a 2) 0 4 + 1)).map fun d => if d = 0 then 0 else bits (lane 64 a 3) (4 * d - 4) 4

/-- Strictly rising. -/
def pathRising : List Nat → Bool
  | x :: y :: rest => decide (x < y) && pathRising (y :: rest)
  | _ => true

/-- The operands alone give RANGE (R429, R433-R435). -/
def StencilCmd.rangeBad (c : StencilCmd) : Bool :=
  let node := bits c.a.toNat 12 4
  (List.range 6).any (fun k => lane 64 c.a (k + 2) &&& (2 ^ 64 - 1 - namedA c.sub (k + 2)) != 0)
  || (List.range 8).any (fun k => lane 64 c.b k &&& (2 ^ 64 - 1 - namedB c.sub k) != 0)
  || (node != 0 && (c.sub == 0 || c.sub == 4 || c.sub == 5 || c.sub == 6 || c.sub == 7))
  || (c.sub == 3 && decide (16 < bits c.b.toNat 0 5))
  || (c.sub == 4 && (bits (lane 64 c.a 3) (4 * bits (lane 64 c.a 2) 0 4) 64 != 0 || !pathRising (pathNodes c.a)))
  || (c.sub == 5 && bitAt (lane 64 c.a 2) 16 && bits (lane 64 c.a 2) 0 16 != 0)

/-! ### Performing a command -/

/-- Summary of a configuration, zero for none (R429). -/
def summary (c : Option GConf) : Nat :=
  match c with
  | none => 0
  | some c => c.state + c.ended.toNat * 2 ^ 16 + c.dead.toNat * 2 ^ 17 + c.depth * 2 ^ 18

/-- What a command comes to: the state with its effects, its status with the address it was met at, and its lanes from 2 on. -/
structure GOut where
  s : State
  status : Nat
  bad : Nat
  lanes : List Nat

/-- Lane n of the nodes. -/
def Grammar.node (g : Grammar) (n : Nat) : Option GConf := at16 g.nodes n
def Grammar.setNode (g : Grammar) (n : Nat) (c : Option GConf) : Grammar := { g with nodes := set16 g.nodes n c }

/-- The grammar context of a command. -/
def State.grammarOf (s : State) (c : StencilCmd) : Grammar := (s.stencil c.column).grammar c.context

def State.putGrammar (s : State) (c : StencilCmd) (g : Grammar) : State := s.setGrammar c.column c.context g

/-- The reads of a command, of its context's image. -/
def gEnv (s : State) (c : StencilCmd) (image : Nat) : GEnv :=
  { s := s, d := (s.domainOf (sectorOfColumn c.column)).getD 0, asid := c.asid, image := image }

/-- The header of an image, read at a use (R430). -/
def GEnv.header (e : GEnv) : G GHeader :=
  match e.at' 0 128 with
  | .error z => .error z
  | .ok x => .ok (headerOf x)

/-- An image verified against its identifier, or BAD_IMAGE (R430). -/
def GEnv.verify (e : GEnv) (ident : Nat) : G GHeader :=
  match e.at' 0 128 with
  | .error z => .error z
  | .ok x =>
    if !headerGood x then .error (6, 0)
    else match e.at' 0 (headerOf x).len with
      | .error z => .error z
      | .ok img =>
        let digest := shakeBytes ((List.range (headerOf x).len).map fun k => bits img (8 * k) 8) 16
        if digest = ident then .ok (headerOf x) else .error (6, 0)

/-- A configuration as the walk starts from it. -/
def walkOf (s : State) (col : Nat) (c : GConf) : G GWalk :=
  match s.stackOf col c with
  | .error z => .error z
  | .ok st => .ok { state := c.state, ended := c.ended, stack := st, touched := [] }

/-- Pieces that write bytes for the engine, every granule made full (R293, R428). -/
def GEnv.writes (e : GEnv) (va len data : Nat) : List Nat → G (List Piece)
  | [] => .ok []
  | g :: rest =>
    match e.page g true with
    | .error z => .error z
    | .ok l => match e.writes va len data rest with
      | .error z => .error z
      | .ok ps =>
        let lo := max va g
        let hi := min (va + len) (g + 16)
        .ok ({ gran := l.pa g / 16, va := g, key := e.s.keyIdent l, mt := l.mt,
               op := .store (BitVec.ofNat 128 (bits data (8 * (lo - va)) (8 * (hi - lo)) * 2 ^ (8 * (lo - g))))
                 (BitVec.ofNat 128 ((2 ^ (8 * (hi - lo)) - 1) * 2 ^ (8 * (lo - g)))) true false } :: ps)

/-- Bytes written under a command's number (R428). -/
def State.stencilWrite (s : State) (c : StencilCmd) (ps : List Piece) : State :=
  s.issue { Access.blank s (tileOfQueue (4 * c.column)) 0xFF 0xFF with
    writer := stencilWriter c.column, origin := .stencil c.column c.context, number := c.number.getD 0, fence := 0, asid := c.asid,
    cache := cacheOfStencil c.column, pieces := ps }

/-- A command that ends with a status and changes nothing else. -/
def ends (s : State) (st : Nat × Nat) (lanes : List Nat) : GOut := { s := s, status := st.1, bad := st.2, lanes := lanes }

/-- A context with every configuration released. -/
def Grammar.released (g : Grammar) : Grammar := { g with cstate := .free, commit := none, hist := [], nodes := Vector.replicate 16 none }

/-- GINI (R430). -/
def performGini (s : State) (c : StencilCmd) : GOut :=
  let image := lane 64 c.a 2
  let ident := lane 64 c.b 0 + lane 64 c.b 1 * 2 ^ 64
  let pos := lane 64 c.b 2
  let g := (s.grammarOf c).released
  match (gEnv s c image).verify ident with
  | .error z => ends (s.putGrammar c g) z []
  | .ok h =>
    let init : GConf := { state := h.start, ended := false, dead := false, depth := 0, pages := [] }
    { s := s.putGrammar c { g with
        cstate := .ready, imageVa := image, ident := BitVec.ofNat 128 ident, policy := bitAt (lane 64 c.a 3) 0, commit := some init,
        commitPos := pos, basePos := pos, hist := [init] },
      status := 0, bad := 0, lanes := [] }

/-- The node that a selector names. -/
def StencilCmd.node (c : StencilCmd) : Nat := bits c.a.toNat 12 4

/-- A walk's result kept as the node's configuration (R426): indices pushed into that were shared or new take free pages, in ascending order. -/
def State.keepWalk (s : State) (c : StencilCmd) (old : GConf) (w : GWalk) (fresh : Nat → Bool) : State :=
  let x := s.stencil c.column
  let depth := w.stack.length
  let ks := List.range (pagesFor depth)
  let moved := ks.filter fun k => w.touched.contains k && fresh k
  let pages := ks.map fun k => match moved.idxOf? k with
    | some j => x.freePages.getD j 0
    | none => old.pages.getD k 0
  let g := s.grammarOf c
  let s1 := s.putGrammar c (g.setNode c.node (some { state := w.state, ended := w.ended, dead := false, depth := depth, pages := pages }))
  s1.writeStack c.column pages w.stack w.touched

/-- A node marked DEAD by a command that ends with a status (R431). -/
def deadNode (s : State) (c : StencilCmd) (status : Nat) : GOut :=
  let g := s.grammarOf c
  let m := (g.node c.node).map fun x => { x with dead := true }
  ends (s.putGrammar c (g.setNode c.node m)) (status, 0) [summary m]

/-- GADV (R431), for a node that is VALID and not DEAD, and a token that is in range where the header can be read. -/
def performGadv (s : State) (c : StencilCmd) : GOut :=
  let g := s.grammarOf c
  let e := gEnv s c g.imageVa
  let n := g.node c.node
  match n with
  | none => ends s (12, 0) [0]
  | some conf =>
    if conf.dead then ends s (12, 0) [summary n]
    else match e.header with
      | .error z => ends s z [summary n]
      | .ok h =>
        let x := s.stencil c.column
        let fresh (k : Nat) : Bool := match conf.pages[k]? with
          | some p => decide (1 < x.refs p)
          | none => true
        match walkOf s c.column conf with
        | .error z => ends s z [summary n]
        | .ok w => match e.advance h (some { fresh := fresh, free := x.freePages.length }) w (lane 64 c.b 0) with
          | .error z => ends s z [summary n]
          | .ok .reject => deadNode s c 3
          | .ok .overflow => deadNode s c 4
          | .ok (.to v) =>
            let s1 := s.keepWalk c conf v fresh
            { s := s1, status := 0, bad := 0, lanes := [summary ((s1.grammarOf c).node c.node)] }

/-- How many residual tokens a GMSK walks before its deadline passes (R432): all, when it has not passed by the end of the walk; none, when it had passed as the
engine began the command; else a free value (log 2). -/
def walkLimit (s : State) (c : StencilCmd) : Option Nat :=
  let deadline := lane 64 c.b 1
  if deadline = 2 ^ 64 - 1 ∨ s.ns ≤ deadline then none else if c.startedNs.any fun t => decide (deadline < t) then some 0 else some (Config.walked s.free)

/-- The mask of a node that is not DEAD (R424, R432). -/
def liveMask (s : State) (c : StencilCmd) (conf : GConf) : G GMaskResult :=
  let g := s.grammarOf c
  let e := gEnv s c g.imageVa
  match e.header with
  | .error z => .error z
  | .ok h => match walkOf s c.column conf with
    | .error z => .error z
    | .ok w => e.mask h w g.policy (walkLimit s c)

/-- The mask of a DEAD or an ENDED node: all zero, with no token walked (R424, R432). RESID_COUNT is that of its state where that can be read, and else a free value
(log 52). -/
def zeroMask (s : State) (c : StencilCmd) (conf : GConf) : GMaskResult :=
  let e := gEnv s c (s.grammarOf c).imageVa
  let count := match e.header with
    | .error _ => Config.walked s.free % 2 ^ 32
    | .ok h => match e.stateEntry h conf.state with
      | .error _ => Config.walked s.free % 2 ^ 32
      | .ok st => st.count
  { mask := 0, walked := 0, count := count, late := false }

/-- GMSK (R432): the mask is written whole once it is complete. -/
def performGmsk (s : State) (c : StencilCmd) : GOut :=
  let g := s.grammarOf c
  let va := lane 64 c.b 0
  match g.node c.node with
  | none => ends s (12, 0) []
  | some conf => match (if conf.dead || conf.ended then .ok (zeroMask s c conf) else liveMask s c conf) with
    | .error z => ends s z []
    | .ok r => match (gEnv s c g.imageVa).writes va 32768 r.mask (granulesOf va 32768) with
      | .error z => ends s z []
      | .ok ps =>
        { s := { (s.stencilWrite c ps) with free := s.free + 1 },
          status := if conf.dead then 3 else if r.late then (if g.policy then 2 else 1) else 0, bad := 0,
          lanes := [r.walked + r.count * 2 ^ 32, iPopc 262144 r.mask] }

/-- GFRK (R433). -/
def performGfrk (s : State) (c : StencilCmd) : GOut :=
  let g := s.grammarOf c
  let src := bits c.b.toNat 0 5
  match (if src = 16 then g.commit else g.node src) with
  | none => ends s (12, 0) [summary (g.node c.node)]
  | some conf => { s := s.putGrammar c (g.setNode c.node (some conf)), status := 0, bad := 0, lanes := [summary (some conf)] }

/-- GCMT (R434), for a path and a BASE that are in range. -/
def performGcmt (s : State) (c : StencilCmd) : GOut :=
  let g := s.grammarOf c
  let base := bits (lane 64 c.a 2) 32 32
  let path := pathNodes c.a
  let confs := path.map g.node
  if confs.any fun x => (x.map (·.dead)).getD false then ends s (3, 0) [summary g.commit]
  else
    let last := confs.getLast?.join
    let g1 := { g with hist := g.commit.toList ++ confs.filterMap id, commit := last, basePos := base, commitPos := base + path.length }
    let g2 := path.foldl (fun g n => g.setNode n none) g1
    { s := s.putGrammar c g2, status := 0, bad := 0, lanes := [summary last] }

/-- GRBK (R435). -/
def performGrbk (s : State) (c : StencilCmd) : GOut :=
  let g := s.grammarOf c
  let x := lane 64 c.a 2
  let p := bits x 32 32
  if !bitAt x 16 then
    let g1 := (List.range 16).foldl (fun g n => if bitAt x n then g.setNode n none else g) g
    { s := s.putGrammar c g1, status := 0, bad := 0, lanes := [summary g.commit] }
  else
    let k := p - g.basePos
    let g1 := { g with nodes := Vector.replicate 16 none, commit := g.hist[k]?, hist := g.hist.take (k + 1), commitPos := p }
    { s := s.putGrammar c g1, status := 0, bad := 0, lanes := [summary g1.commit] }

/-- The bytes of a save area (R436). -/
def saveArea (g : Grammar) (conf : GConf) (stack : List Nat) : Nat :=
  g.imageVa + g.ident.toNat * 2 ^ 64 + conf.state * 2 ^ 192 + (conf.ended.toNat + 2 * g.policy.toNat) * 2 ^ 208 + conf.depth * 2 ^ 224
    + g.commitPos * 2 ^ 256 + packNat 16 stack.reverse * 2 ^ 512

/-- GSAV (R436), for a capacity that suffices. -/
def performGsav (s : State) (c : StencilCmd) : GOut :=
  let g := s.grammarOf c
  let va := lane 64 c.b 0
  match g.commit with
  | none => ends s (12, 0) []
  | some conf =>
    let len := 64 + 2 * conf.depth
    match s.stackOf c.column conf with
      | .error z => ends s z []
      | .ok stack => match (gEnv s c 0).writes va len (saveArea g conf stack) (granulesOf va len) with
        | .error z => ends s z []
        | .ok ps =>
          let s1 := s.stencilWrite c ps
          { s := if bitAt (lane 64 c.a 2) 0 then s1.putGrammar c g.released else s1, status := 0, bad := 0, lanes := [len] }

/-- GRST (R436). -/
def performGrst (s : State) (c : StencilCmd) : GOut :=
  let g := s.grammarOf c
  let va := lane 64 c.b 0
  let x := s.stencil c.column
  let bad (z : Nat × Nat) : GOut := ends s z [summary g.commit]
  match (gEnv s c 0).read va 64 with
  | .error z => bad z
  | .ok area =>
    let image := bits area 0 64
    let state := bits area 192 16
    let depth := bits area 224 32
    if bits area 210 6 ≠ 0 ∨ bits area 216 8 ≠ 0 ∨ bits area 288 224 ≠ 0 ∨ 65536 < depth then bad (6, 0)
    else match (gEnv s c image).verify (bits area 64 128) with
      | .error z => bad z
      | .ok h =>
        if h.states ≤ state then bad (6, 0)
        else match (gEnv s c 0).read (wrap 64 ((va : Int) + 64)) (2 * depth) with
          | .error z => bad z
          | .ok syms =>
            let need := pagesFor depth
            if x.freePages.length < need then bad (5, 0)
            else
              let pages := x.freePages.take need
              let stack := ((List.range depth).map fun k => bits syms (16 * k) 16).reverse
              let conf : GConf := { state := state, ended := bitAt area 208, dead := false, depth := depth, pages := pages }
              let pos := bits area 256 32
              let g1 : Grammar :=
                { g.released with cstate := .ready, imageVa := image, ident := BitVec.ofNat 128 (bits area 64 128), policy := bitAt area 209,
                                  commit := some conf, commitPos := pos, basePos := pos, hist := [conf] }
              { s := (s.putGrammar c g1).writeStack c.column pages stack (List.range need), status := 0, bad := 0, lanes := [summary (some conf)] }

def GState.code : GState → Nat
  | .free => 0 | .ready => 1 | .faulted => 2

/-- The lanes of GSTA from 1 on (R437). -/
def gstaLanes (g : Grammar) (node : Nat) : List Nat :=
  let word (p : GConf → Bool) : Nat := packNat 1 (g.nodes.toList.map fun n => ((n.map p).getD false).toNat)
  let first := g.lastStatus + g.cstate.code * 2 ^ 8 + g.policy.toNat * 2 ^ 10
  if g.cstate = .free then [first]
  else [first, summary g.commit, g.commitPos + g.basePos * 2 ^ 32,
        word (fun _ => true) + word (·.dead) * 2 ^ 16 + word (·.ended) * 2 ^ 32, summary (g.node node)]

/-- The token of a GADV is not below VOCAB_TOTAL (R431); a header that cannot be read is met later. -/
def tokenBad (s : State) (c : StencilCmd) : Bool :=
  c.sub == 1 && match (gEnv s c (s.grammarOf c).imageVa).header with
    | .ok h => decide (h.vocab ≤ lane 64 c.b 0)
    | .error _ => false

/-- A position, path or capacity is out of range of what the context holds (R429, R434-R436). A FREE context holds nothing to compare with (log 52). -/
def contextRange (s : State) (c : StencilCmd) : Bool :=
  let g := s.grammarOf c
  let x := lane 64 c.a 2
  let p := bits x 32 32
  g.cstate != .free &&
    ((c.sub == 4 && (p != g.commitPos || (pathNodes c.a).any fun n => (g.node n).isNone))
    || (c.sub == 5 && bitAt x 16 && (decide (p < g.basePos) || decide (g.commitPos < p)))
    || (c.sub == 6 && g.commit.any fun conf => decide (lane 64 c.b 1 < 64 + 2 * conf.depth)))

/-- The lanes from 2 on of a command that ends before its own description applies: the summary of what its form reports (R429). -/
def earlyLanes (g : Grammar) (c : StencilCmd) : List Nat :=
  match c.sub with
  | 1 | 3 => [summary (g.node c.node)]
  | 4 | 5 | 7 => [summary g.commit]
  | _ => []

/-- A command performed, with its checks in the order of R429. -/
def performStencil (s : State) (c : StencilCmd) : GOut :=
  let g := s.grammarOf c
  let early (st : Nat) : GOut := ends s (st, 0) (earlyLanes g c)
  if c.rangeBad || contextRange s c then early 11
  else if g.cstate != .free && tokenBad s c then deadNode s c 11
  else if s.standing (stencilWriter c.column) (BitVec.ofNat 64 (lane 64 c.a 1)) == .malformed then early 13
  else match c.sub with
    | 0 => performGini s c
    | 7 => performGrst s c
    | 8 => { s := s, status := 0, bad := 0, lanes := [] }
    | k =>
      if g.cstate ≠ .ready then early 12
      else match k with
        | 1 => performGadv s c
        | 2 => performGmsk s c
        | 3 => performGfrk s c
        | 4 => performGcmt s c
        | 5 => performGrbk s c
        | _ => performGsav s c

/-- A status that sends a fault record (R429). -/
def statusReports (st : Nat) : Bool := (decide (4 ≤ st) && decide (st ≤ 10)) || st == 13

/-- The context's last status and its fault after a command (R425, R429); GSTA changes nothing. -/
def Grammar.after (g : Grammar) (sub st : Nat) : Grammar :=
  if sub = 8 then g else { g with lastStatus := st, cstate := if st = 6 ∨ st = 7 then .faulted else g.cstate }

/-- The engine still writes for a context (R428). -/
def State.stencilWrites (s : State) (c : StencilCmd) : Bool := s.accesses.any fun a => a.origin == .stencil c.column c.context && !a.pieces.isEmpty

/-- A command completed: its record, its context's status, and its destination (R428, R429). -/
def State.completeStencil (s : State) (c : StencilCmd) (status bad : Nat) (out : List Nat) : State :=
  let s1 := { s with stencilCmds := s.stencilCmds.filter fun x => x.id != c.id }
  let g := (s1.grammarOf c).after c.sub status
  let s2 := if c.sub = 8 then s1 else s1.putGrammar c g
  let s3 := if statusReports status then
      s2.send { s2.unitRecord (stencilWriter c.column) 11 status bad (BitVec.ofNat 128 (c.context + c.column * 2 ^ 8)) with
        witness := BitVec.ofNat 64 (lane 64 c.a 1) }
    else s2
  let w := (localWitness (stencilWriter c.column) (c.number.getD 0)).toNat
  let lanes := if c.sub = 8 ∧ status = 0 then w :: gstaLanes g c.node else [w, status] ++ out
  match s3.outstanding.find? fun x => x.id = c.id with
  | some x => s3.deliver x lanes
  | none => s3

/-- The slices of the sectors through which an engine reads the pages of its context's image. -/
def State.imageSlices (s : State) (c : StencilCmd) (va : Nat) : List Nat :=
  let e := gEnv s c va
  let len := match e.header with
    | .ok h => h.len
    | .error _ => 0
  ((List.range (len / 2 ^ 16 + 2)).flatMap fun k => match walk s e.d c.asid (va / 2 ^ 16 * 2 ^ 16 + k * 2 ^ 16) with
    | .leaf l => if tierOf (l.frame * 2 ^ 16) = 3 then (s.sliceOf (l.frame * 4096)).toList
        else if tierOf (l.frame * 2 ^ 16) = 4 ∨ tierOf (l.frame * 2 ^ 16) = 5 then (List.range 16).filter (s.domain e.d).shape.has else []
    | _ => []).eraseDups

/-- The lookups of a command's reads counted (R235): how many they are in each slice that fronts a page of its image is left open (log 22). -/
def State.countReads (s : State) (c : StencilCmd) : State :=
  let va := if c.sub = 0 then lane 64 c.a 2 else (s.grammarOf c).imageVa
  (s.imageSlices c va).foldl (fun s sec => s.countLookups sec (Config.mscReads (c.number.getD 0 + sec * 2 ^ 48)))
    (s.countWalk (gEnv s c va).d c.asid va)

/-- The commands that an engine has begun and not completed; it serves four of different contexts at once (R428). -/
def State.stencilBusy (s : State) (col : Nat) : Bool :=
  decide (4 ≤ (s.stencilCmds.filter fun c => c.column == col && c.startedNs.isSome).length)

/-- A command performed; it completes at once unless it writes, and otherwise once its writes have been performed (R428). -/
def State.finishStencil (s0 : State) (c : StencilCmd) : State :=
  let s := s0.countReads c
  let o := performStencil s c
  if o.s.stencilWrites c then
    { o.s with stencilCmds := o.s.stencilCmds.map fun x => if x.id = c.id then { x with result := some (o.status, o.bad, o.lanes) } else x }
  else o.s.completeStencil c o.status o.bad o.lanes

/-- STENCIL_COMMAND_COMPLETION (R428): a command on its way arrives and takes its number, in the firing order of its element; one that has arrived is begun
when every earlier command of its context has completed, its input witness is not pending, and fewer than four commands are begun; one that has been begun is
performed, and completes when its writes have been performed. -/
def execStencilCommandCompletion (col command : Nat) (s : State) : Host.Outcome State Fault Refusal :=
  if 64 ≤ col then .fault .absentUnit
  else match s.stencilCmds.find? fun c => c.column = col ∧ c.id = command with
  | none => .next s
  | some c => match c.number with
    | none =>
      if s.stencilCmds.any fun x => x.column == col && x.tile == c.tile && x.number.isNone && decide (x.id < c.id) then .next s
      else
        let num := s.takeNumber (stencilWriter col)
        .next { num.2 with stencilCmds := num.2.stencilCmds.map fun x => if x.id = c.id then { x with number := some num.1 } else x }
    | some n =>
      let earlier := s.stencilCmds.any fun x => x.column == col && x.context == c.context &&
        match x.number with
        | some m => decide (m < n)
        | none => false
      let wit : W64 := BitVec.ofNat 64 (lane 64 c.a 1)
      if s.phase != 8 || earlier || s.stencilWrites c then .next s
      else match c.result with
      | some r => .next (s.completeStencil c r.1 r.2.1 r.2.2)
      | none =>
        if c.startedNs.isSome then .next (s.finishStencil c).noteAllReady
        else if s.standing (stencilWriter col) wit == .pending then .next (s.noteLift (stencilWriter col) wit)
        else if s.stencilBusy col then .next s
        else .next { s with stencilCmds := s.stencilCmds.map fun x => if x.id = c.id then { x with startedNs := some s.ns } else x }

/-! ### STENCIL_CTL (R418) -/

/-- A store to STENCIL_CTL of a column is performed, or discarded (R418). -/
def State.storeStencilCtl (s : State) (src : Issuer) (c : Nat) (value : BitVec 64) : State :=
  let x := s.stencil c
  let base := bits value.toNat 0 13
  let pages := bits value.toNat 14 14
  if !s.fromLath src (s.domainOf (sectorOfColumn c)) || x.contexts.any (fun k => k.2.cstate != .free) || decide (8192 < base + pages)
      || !s.variant.stencil then s
  else s.setStencil c { x with poolBase := base, poolPages := pages }

/-- STENCIL_CTL as a load reads it (R418). -/
def State.loadStencilCtl (s : State) (c : Nat) : Nat :=
  let x := s.stencil c
  x.poolBase + x.poolPages * 2 ^ 14 + x.freePages.length * 2 ^ 32

/-- STENCIL_CTL_WRITE (R418). -/
def execStencilCtlWrite (src : Issuer) (column : Nat) (value : BitVec 64) (s : State) : Host.Outcome State Fault Refusal :=
  if 64 ≤ column then .fault .absentUnit else .next (s.storeStencilCtl src column value)

end Sys2Proof.Machine
end

