-- ==== Sys2Proof/Machine/Preempt.lean ====
section
/-! DEFINITION. Loads cancelled and issued again (R265, R266), pre-emption, save and restore (R376-R387), and the lazy spill of a row engine (R191). -/

namespace Sys2Proof.Machine

open Sys2Proof

/-! ### Loads issued again -/

/-- The place of an output endpoint that an access held given back, with its tag (R263, R265). -/
def State.releasePlace (s : State) (o : Outstanding) : BitVec 3 × State :=
  match o.dst with
  | .o n =>
    let outs := at8 (s.ctx o.tile o.ctx).outs n.val
    let tag := (outs.findSome? fun p => match p with | .held id tg => if id = o.id then some tg else none | .full _ => none).getD 0
    (tag, s.setOuts o.tile o.ctx o.slot n.val (outs.filter fun p => match p with | .held id _ => id != o.id | .full _ => true))
  | _ => (0, s)

/-- The joins of a cancelled request keep only the markers it has placed (R266, R299). -/
def cutJoins (id : Nat) (js : List Join) : List Join := js.map fun j => if j.request = id then { j with waiting := [] } else j

/-- An outstanding load or request ended without a result: its access and its entry go, and its place unless it is kept for the load's next issue (R263, R265,
R266); what issues it again is answered. -/
def State.cancelLoad (s : State) (o : Outstanding) (keep : Bool := false) : Option Reissue × State :=
  let r := if keep then ((s.releasePlace o).1, s) else s.releasePlace o
  let a := (s.accesses.find? fun a => a.id = o.id).map fun a => (a.e, a.a, a.b)
  let q := (s.requests.find? fun q => q.id = o.id).map fun q => (q.e, q.a, q.b)
  let g := (s.stencilCmds.find? fun g => g.id = o.id).map fun g => (g.e, g.a, g.b)
  let s1 := { r.2 with accesses := r.2.accesses.filter fun a => a.id != o.id,
                       requests := r.2.requests.filter fun q => q.id != o.id,
                       joins := cutJoins o.id r.2.joins,
                       stencilCmds := r.2.stencilCmds.filter fun g => g.id != o.id,
                       outstanding := r.2.outstanding.filter fun x => x.id != o.id }
  (((a.or q).or g).map fun x => { slot := o.slot, e := x.1, a := x.2.1, b := x.2.2, tag := r.1, place := if keep then some o.id else none }, s1)

/-- The load that an instruction makes of operands already read. -/
def loadFormOf (i : Instr) (fr : Firing) : Option LoadForm :=
  let plain (lanes : List LaneReq) (wit : W64) (gather : Bool) : LoadForm :=
    { need := { r := true }, tier := anyTier, lanes := lanes, wit := wit, gather := gather, op := plainLoad }
  match i with
  | .ld _ => some (plain (fr.contiguous (wrap 64 (fr.a64 0 + fr.offset))) nullWitness false)
  | .ldw _ => some (plain (fr.contiguous (fr.a64 0)) (BitVec.ofNat 64 (fr.b64 0)) false)
  | .ldx _ => some (plain (fr.indexed (fr.a64 0)) (BitVec.ofNat 64 (fr.a64 1)) true)
  | .ldfeClr _ => some { need := { r := true, w := true }, tier := feTier, lanes := fr.contiguous (fr.a64 0), wit := nullWitness,
                         gather := false, op := .loadFull true }
  | .ldfeKeep _ => some { need := { r := true }, tier := feTier, lanes := fr.contiguous (fr.a64 0), wit := nullWitness, gather := false,
                          op := .loadFull false }
  | _ => none

/-- The places of an endpoint after a load has been issued again: it takes its first place where that is still held, and keeps its first tag (R263). -/
def rehold (id : Nat) (r : Reissue) (ps : List Place) : List Place :=
  let old (p : Place) : Bool := match p with
    | .held k _ => some k == r.place
    | .full _ => false
  let new (p : Place) : Bool := match p with
    | .held k _ => k == id
    | .full _ => false
  if ps.any old then (ps.filter fun p => !new p).map fun p => if old p then .held id r.tag else p
  else ps.map fun p => if new p then .held id r.tag else p

/-- The output endpoint of a load issued again. -/
def State.rehold (s : State) (t c id : Nat) (dst : Opnd) (r : Reissue) : State :=
  match dst with
  | .o n => s.setOuts t c r.slot n.val (Machine.rehold id r (at8 (s.ctx t c).outs n.val))
  | _ => s

/-- The place of a load that is not issued again after all is given up. -/
def State.unhold (s : State) (t c : Nat) (dst : Opnd) (r : Reissue) : State :=
  match dst with
  | .o n => s.setOuts t c r.slot n.val ((at8 (s.ctx t c).outs n.val).filter fun p => match p with
      | .held k _ => some k != r.place
      | .full _ => true)
  | _ => s

/-- A request to a unit made of operands already read: of a queue (R297) or of a stencil engine (R427). -/
def requestBody (i : Instr) (s : State) (fr : Firing) : Fired :=
  match i with
  | .qseq _ => qseqBody s fr
  | .qfen _ => qfenBody s fr
  | .gini _ => stencilBody 0 s fr
  | .gadv _ => stencilBody 1 s fr
  | .gmsk _ => stencilBody 2 s fr
  | .gfrk _ => stencilBody 3 s fr
  | .gcmt _ => stencilBody 4 s fr
  | .grbk _ => stencilBody 5 s fr
  | .gsav _ => stencilBody 6 s fr
  | .grst _ => stencilBody 7 s fr
  | .gsta _ => stencilBody 8 s fr
  | _ => .idle

/-- A load issued again from the operand values held, its sources not read again and its ADV not applied again (R265, R385). -/
def State.reissue (s : State) (t c : Nat) (r : Reissue) : State :=
  match s.slotInstr t c r.slot with
  | .error _ => s
  | .ok i => match toCode i with
    | none => s
    | some (_, _, f) =>
      let fr : Firing :=
        { t := t, c := c, slot := r.slot, f := f, w := formWidth i f, e := r.e, a := Decoded.raw r.a, b := Decoded.raw r.b, cc := Decoded.raw 0 }
      let id := s.nextAccess
      match loadFormOf i fr with
      | none =>
        (match requestBody i s fr with
         | .done s1 => s1.rehold t c id f.dst r
         | .stop fi => (s.unhold t c f.dst r).haltCtx t c r.slot { fi with operands := some (r.a, r.b) }
         | _ => s)
      | some lf =>
        match loadBody s fr lf with
        | .done s1 => s1.rehold t c id f.dst r
        | .stop fi => (s.unhold t c f.dst r).haltCtx t c r.slot { fi with operands := some (r.a, r.b) }
        | _ => s

/-! ### The halt of a region (R376-R378) -/

/-- The tiles of an instance that hold it. -/
def State.instTiles (s : State) (x : Inst) : List Nat := x.tiles.filter fun t => (s.tile t).inst = x.number

/-- A request of QSEQ or QFEN that no reply has completed: its query is not made, or a marker is not placed (R297). -/
def Request.open' (r : Request) : Bool :=
  match r.kind with
  | .qseq _ => true
  | .qfen _ waiting _ => !waiting.isEmpty
  | .tlbsy _ _ => false
  | .scrub _ _ => false

/-- A load or request outstanding of a slot that has not been performed in any lane (R266, R297). -/
def State.cancellable (s : State) (o : Outstanding) : Bool :=
  (s.accesses.any fun a => a.id == o.id && a.number == 0 && a.results.isEmpty && !a.pieces.isEmpty && a.origin == .slot)
  || (s.requests.any fun r => r.id == o.id && r.open') || s.stencilCmds.any fun g => g.id == o.id && g.number.isNone

/-- A GINI on its way as if its slot waited for a destination: it has none (R428, R430). -/
def StencilCmd.held (g : StencilCmd) : Outstanding :=
  { id := g.id, tile := g.tile, ctx := g.ctx, slot := g.slot, dst := .nul, e := g.e, w := 64, n := 8, predReg := 0, predOp := .none,
    witness := none, quiet := false }

/-- The outstanding loads of a tile that have not been performed, and its commands that have not arrived at a stencil engine, cancelled in firing order
(R266, R428). -/
def State.cancelLoads (s : State) (t : Nat) : State :=
  let waiting := s.outstanding.filter fun o => o.tile == t && s.cancellable o
  let ginis := (s.stencilCmds.filter fun g => g.tile == t && g.sub == 0 && g.number.isNone).map StencilCmd.held
  (sortByKey (·.id) (waiting ++ ginis)).foldl (fun s o =>
    let r := s.cancelLoad o true
    let cx := r.2.ctx t o.ctx
    r.2.setCtx t o.ctx { cx with cancelled := cx.cancelled ++ r.1.toList }) s

/-- A tile halted for a pre-emption (R377): its contexts are held, its skim passes abandoned, its unperformed loads cancelled. -/
def State.haltTile (s : State) (t : Nat) : State :=
  let tl := s.tile t
  let ids := tl.passes.filterMap (·.access)
  let s1 := s.setTile t { tl with
    ctxs := Vector.ofFn fun k => { tl.ctxs[k] with held := tl.ctxs[k].word.valid }, passes := tl.passes.map fun p => { p with access := none } }
  ({ s1 with accesses := s1.accesses.filter fun a => !ids.contains a.id }).cancelLoads t

/-- An instance's region halted. -/
def State.haltInst (s : State) (x : Inst) : State := (s.instTiles x).foldl State.haltTile (s.setInst { x with phase := .halting })

/-- PREEMPTION (R376, R377): the halt that HALT_CTL requests reaches the region. -/
def execPreemption (d : Nat) (s : State) : Host.Outcome State Fault Refusal :=
  if d ≥ 16 then .fault .absentUnit
  else match s.inst? d (SMap.get s.halts d 0) with
    | none => .next { s with halts := SMap.erase s.halts d }
    | some x => if x.phase == .running then .next (s.haltInst x)
        else if x.phase == .halting then .next s
        else .next { s with halts := SMap.erase s.halts d }

/-- Nothing that a tile had fired is unfinished: stages, row steps, transfers, groups of chains, stores and returning loads (R377). What waits for a request
stays outstanding. -/
def State.tileSettled (s : State) (t : Nat) : Bool :=
  let tl := s.tile t
  (s.outstanding.all fun o => o.tile != t || s.pool.any fun e => e.request == some o.id)
  && (s.accesses.all fun a => a.tile != t || a.writer != t)
  && tl.queue.all (fun r => !tl.draining && r.reads.isEmpty && r.write.isNone) && tl.xfer.isNone && tl.steps.isEmpty

/-- The witness of an element's last issued store, lifted to the domain (R381): the exact lift of R244 over the stores that are issued; the groups that a
stopped chain still has to write are issued after the restore (log 59). -/
def haltWitness (s : State) (t : Nat) : W64 :=
  if (s.writer t).issued = 0 then nullWitness
  else
    let l := commonLevel s t t 4
    mkWitness l ((s.groupOf t l).getD 0) (exactTag (s.writer t) l (s.writer t).issued)

/-- The CREQs of a tile that await their resolution, with their pool entries. -/
def State.awaiting (s : State) (t : Nat) : List (Outstanding × Nat) :=
  (s.outstanding.filter fun o => o.tile == t).filterMap fun o => (s.pool.find? fun e => e.request == some o.id).map fun e => (o, e.id)

/-- A tile as its record keeps it. -/
def saveTile (s : State) (x : Inst) (evict : Bool) (t : Nat) : SavedTile :=
  let lo := padPA t 0
  { x := siteX t - x.ox, y := siteY t - x.oy, z := siteZ t - x.oz, from' := t, tile := s.tile t,
    haltWit := haltWitness s t,
    matrix := none, pad := if evict then s.mem.cellsIn lo 0x40000 else [], padFull := if evict then NSet.inRange s.mem.full (lo / 16) 0x4000 else [],
    padPoison := if evict then NSet.inRange s.mem.poison (lo / 16) 0x4000 else [], creqs := s.awaiting t }

/-- The columns of a region, ascending. -/
def regionColumns (tiles : List Nat) : List Nat := (List.range 64).filter fun c => tiles.any fun t => columnOf t == c

/-! ### The beats of a region (R378, R480) -/

/-- Beats at a router port of a region belong to the instance, and not to a path of another that leads through the region (R378, R507). -/
def Router.ownIn (r : Router) (n : Nat) (key : Nat) : Bool :=
  match r.words.find? fun w => w.inPort == key / 32 && w.inVc == key % 32 with
  | some w => w.inst == n
  | none => true

/-- The same of copies on their way over a link. -/
def Router.ownOut (r : Router) (n : Nat) (key : Nat) : Bool :=
  r.words.all fun w => w.inst == n || !w.outSet.getLsbD (key / 32) || w.outVc.getD w.inVc != key % 32

/-- A site lies in the region of an instance. -/
def Inst.inside (x : Inst) (site : Nat) : Bool := x.region.contains (anyTile (siteXOf site) (siteYOf site) (siteZOf site))

/-- An input endpoint that a beat reaches: tile, context, endpoint, and the beat as it arrives. -/
abbrev Arrival := Nat × Nat × Nat × Beat

/-- What two branches of a path reach together: nothing when one of them leaves the region, and the longer of their ways. -/
def joinEnds {α : Type} (a b : Option (Nat × List α)) : Option (Nat × List α) :=
  match a, b with
  | some x, some y => some (max x.1 y.1, x.2 ++ y.2)
  | _, _ => none

/-- The endpoints of a region to which the path of a beat at a router port leads, with the number of links on the longest way; none when a branch leaves the
region, misses, or meets no binder. A retired context takes it without a trace (R332). -/
def endsOf (s : State) (x : Inst) : Nat → Nat → Nat → Nat → Beat → Option (Nat × List Arrival)
  | 0, _, _, _, _ => none
  | fuel + 1, site, port, vc, b =>
    if !x.inside site then none
    else match routeOf s site port vc b with
      | none => none
      | some (outs, ovc) =>
        let b1 : Beat := { b with vc := ⟨ovc % 32, Nat.mod_lt _ (by decide)⟩, dir := none }
        let here : Option (Nat × List Arrival) :=
          if !outs.getLsbD 6 then some (0, [])
          else match elementAtSite site with
            | none => some (0, [])
            | some t => match receiver (s.tile t) port ovc b1.ring b1.tag with
              | none => none
              | some (c, n) => some (0, if (s.ctx t c).run == .retired then [] else [(t, c, n, b1)])
        ((List.range 6).filter fun p => outs.getLsbD p).foldl (fun acc p =>
          joinEnds acc (match s.across site p ovc with
            | none => none
            | some next => (endsOf s x fuel next (opposite p) ovc b1).map fun r => (r.1 + 1, r.2))) here

/-- A beat of a region's routers: whether it is on its way over a link, its site and key, and where it ends. -/
structure Straggler where
  staged : Bool
  site : Nat
  key : Nat
  far : Nat
  ends : List Arrival
  deriving DecidableEq, Repr

/-- The beats of an instance in its region's routers whose paths end in the region, nearest first. -/
def State.stragglers (s : State) (x : Inst) : List Straggler :=
  let rs := s.routers.filter fun r => x.inside r.1
  let ins := rs.flatMap fun r => (r.2.ins.filter fun b => r.2.ownIn x.number b.1).flatMap fun b => b.2.filterMap fun bt =>
    (endsOf s x 256 r.1 (b.1 / 32) (b.1 % 32) bt).map fun e => { staged := false, site := r.1, key := b.1, far := 2 * e.1, ends := e.2 }
  let outs := rs.flatMap fun r => (r.2.staged.filter fun b => r.2.ownOut x.number b.1).flatMap fun b => b.2.filterMap fun bt =>
    match s.beyond r.1 (b.1 / 32) with
    | none => none
    | some next => (endsOf s x 256 next (opposite (b.1 / 32)) (b.1 % 32) bt).map fun e =>
        { staged := true, site := r.1, key := b.1, far := 2 * e.1 + 1, ends := e.2 }
  sortByKey (·.far) (ins ++ outs)

/-- A beat taken from the head of its place in a router and put behind the others of the endpoints that it reaches. -/
def State.arrive (s : State) (g : Straggler) : State :=
  let r := s.router g.site
  let s1 := if g.staged then s.setRouter g.site { r with staged := SMap.set r.staged g.key (SMap.get r.staged g.key []).tail }
    else s.setRouter g.site { r with ins := SMap.set r.ins g.key (SMap.get r.ins g.key []).tail }
  g.ends.foldl (fun s a =>
    let cx := s.ctx a.1 a.2.1
    s.setCtx a.1 a.2.1 { cx with ins := set8 cx.ins a.2.2.1 (at8 cx.ins a.2.2.1 ++ [a.2.2.2]) }) s1

/-- Every endpoint that a beat reaches has a place for it (R319). -/
def State.roomFor (s : State) (g : Straggler) : Bool := g.ends.all fun a => decide ((at8 (s.ctx a.1 a.2.1).ins a.2.2.1).length < 8)

/-- The beats of a region's routers become beats of the endpoints that they reach, as far as these have places; none passes another of its place (R378, and
R480 for those behind a down link). -/
def State.drainBeats (s : State) (x : Inst) : State :=
  ((s.stragglers x).foldl (fun (acc : State × List (Bool × Nat × Nat)) g =>
    let k := (g.staged, g.site, g.key)
    if acc.2.contains k || !acc.1.roomFor g then (acc.1, k :: acc.2) else (acc.1.arrive g, acc.2)) (s, [])).1

/-- A control word carries an instance's condition tokens. -/
def Router.ownCond (r : Router) (n key : Nat) : Bool :=
  match r.ctl.find? fun w => w.inPort == key / 16 && w.inVc == key % 16 with
  | some w => w.inst == n
  | none => true

/-- The condition endpoints of a region to which a token's path leads (R330), with the number of links on the longest way. -/
def condEnds (s : State) (x : Inst) : Nat → Nat → Nat → Nat → Option (Nat × List (Nat × Nat × Nat))
  | 0, _, _, _ => none
  | fuel + 1, site, port, ch =>
    if !x.inside site then none
    else match (s.router site).ctl.find? fun w => w.inPort == port && w.inVc == ch with
      | none => none
      | some w =>
        let och := w.outVc.getD ch
        let here : Option (Nat × List (Nat × Nat × Nat)) := match w.here site with
          | none => some (0, [])
          | some t => match condSink (s.tile t) och with
            | none => none
            | some (c, n) => some (0, if (s.ctx t c).run == .retired then [] else [(t, c, n)])
        w.links.foldl (fun acc p => joinEnds acc (match s.across site p och with
          | none => none
          | some next => (condEnds s x fuel next (opposite p) och).map fun r => (r.1 + 1, r.2))) here

/-- The condition tokens of a region's routers move on to their endpoints in the same way. -/
def State.drainConds (s : State) (x : Inst) : State :=
  let found := (s.routers.filter fun r => x.inside r.1).flatMap fun r => (r.2.cins.filter fun b => r.2.ownCond x.number b.1).flatMap fun b =>
    b.2.filterMap fun bit => (condEnds s x 256 r.1 (b.1 / 16) (b.1 % 16)).map fun e => (e.1, r.1, b.1, bit, e.2)
  ((sortByKey (·.1) found).foldl (fun (acc : State × List (Nat × Nat)) g =>
    let (_, site, key, bit, ends) := g
    let r := acc.1.router site
    if acc.2.contains (site, key) || ends.any (fun a => decide (8 ≤ (at4 (acc.1.ctx a.1 a.2.1).cins a.2.2).length)) then (acc.1, (site, key) :: acc.2)
    else
      let s1 := acc.1.setRouter site { r with cins := SMap.set r.cins key (SMap.get r.cins key []).tail }
      (ends.foldl (fun s a =>
        let cx := s.ctx a.1 a.2.1
        s.setCtx a.1 a.2.1 { cx with cins := set4 cx.cins a.2.2 (at4 cx.cins a.2.2 ++ [bit]) }) s1, acc.2)) (s, [])).1

/-- A region drained (R378). -/
def State.drainRegion (s : State) (x : Inst) : State := (s.drainBeats x).drainConds x

/-- What a router still holds of an instance's beats and condition tokens. -/
def Router.own (r : Router) (n : Nat) : Router :=
  { Router.clean with ins := r.ins.filter fun b => !b.2.isEmpty && r.ownIn n b.1, staged := r.staged.filter fun b => !b.2.isEmpty && r.ownOut n b.1,
                      cins := r.cins.filter fun b => !b.2.isEmpty && r.ownCond n b.1 }

/-- A router without them. -/
def Router.without (r : Router) (n : Nat) : Router :=
  { r with ins := r.ins.filter fun b => !r.ownIn n b.1, staged := r.staged.filter fun b => !r.ownOut n b.1, cins := r.cins.filter fun b => !r.ownCond n b.1 }

/-- What is left in the routers of a drained region, by relative site. -/
def State.leftover (s : State) (x : Inst) : List (Nat × Nat × Nat × Router) :=
  ((s.routers.filter fun r => x.inside r.1).map fun r => (siteXOf r.1 - x.ox, siteYOf r.1 - x.oy, siteZOf r.1 - x.oz, r.2.own x.number)).filter fun r =>
    r.2.2.2 != Router.clean

/-- No beat is on its way to or from an instance outside its region: on a link of its ports, or on the path of an ingress port that feeds it. -/
def State.pathsQuiet (s : State) (x : Inst) : Bool :=
  (s.routers.all fun r => x.inside r.1 || ((r.2.words.all fun w => w.inst != x.number || s.wordIdle r.1 w)
    && r.2.staged.all fun b => b.2.isEmpty || !((s.beyond r.1 (b.1 / 32)).any x.inside)))
  && (List.range 32).all fun p => match (s.port p).target with
    | .port d n _ => !(d == x.domain && n == x.number) || s.wordsQuiet d (feedMark p)
    | _ => true

/-- An instance may give up its region: none of its beats is on its way outside, and no instance that it requested is linked to it (R378, log 59). -/
def State.mayEvict (s : State) (x : Inst) : Bool :=
  s.pathsQuiet x && s.insts.all fun y => y.domain != x.domain || y.parent != x.number || y.entry.request.isNone || y.phase == .retired

/-- The queues whose appended commands may target an instance's vaults (R311): those of its domain that have had a command appended, and that are translated in the
instance's address space or serve its columns (log 63). -/
def State.targeting (s : State) (x : Inst) : List Nat :=
  (List.range 272).filter fun q => s.queueDomain q == some x.domain && s.tail q != 0
    && ((s.cmdQueue q).asid == x.asid || (decide (q < 256) && x.region.any fun t => columnOf t == q / 4))

/-- A fence is the witness of a QFEN with JOIN that the domain's lath has fired, and is satisfied; and it covers the last command of each of some queues. -/
def State.fenced (s : State) (d : Nat) (fence : W64) (qs : List Nat) : Bool :=
  s.fences.any fun f => f.domain == d && f.wit == fence && qs.all fun q => f.covers.contains (localWitness (writerOfQueue q) (s.tail q))

/-- The vaults of an instance may be copied under a fence (R311): it covers every queue whose commands may target them, and is satisfied. It is null where no vault
is copied, or no such queue has had a command. -/
def State.fenceHolds (s : State) (x : Inst) (fence : W64) : Bool :=
  if witNull fence then decide (x.level < 2) || (s.targeting x).isEmpty
  else s.fenced x.domain fence (s.targeting x) && s.standing (s.lathTile x.domain) fence == .satisfied

/-- The save image of a quiesced instance (R379): one record for each tile of its region. -/
def saveInst (s : State) (x : Inst) (evict : Bool) (address key : Nat) (fence : W64) : SaveImage :=
  { evicted := evict, origin := tileAt x.ox x.oy x.oz, address := address, key := key, fence := fence,
    routers := if evict then s.leftover x else [],
    tiles := (x.region.filter fun t => (s.tile t).inst == x.number).map (saveTile s x evict),
    vaults := if evict && decide (2 ≤ x.level) then (regionColumns x.region).map fun c =>
        let lo := vaultPA c 0
        (s.mem.cellsIn lo 0x2000000, NSet.inRange s.mem.full (lo / 16) 0x200000, NSet.inRange s.mem.poison (lo / 16) 0x200000) else [] }

/-- A tile given up by a saved instance: its row engine stays in place under its owner (R191, R385). -/
def State.vacateTile (s : State) (t : Nat) : State :=
  let tl := s.tile t
  s.setTile t { Tile.clean with row := tl.row, fences := tl.fences, health := tl.health }

/-- Bytes and full/empty bits of a saved pad or vault of n bytes, one after the other. -/
def Memory.putSection (m : Memory) (key at' n : Nat) (cs : List Host.Cell) (full : NSet) : Memory :=
  (m.putRange key at' n cs).putBlob key (at' + n) ⟨n / 128, full.foldl (fun acc g => acc ||| 2 ^ g) 0⟩

/-- The image written into memory of the domain under the key of its page (R379, R384, R455): header and records, then pads and vaults; the matrix sections only have
their space. -/
def State.writeSave (s : State) (x : Inst) (im : SaveImage) : State :=
  let m1 := s.mem.putBlob im.key im.address (saveBlob x im)
  if !im.evicted then { s with mem := m1 }
  else
    let m2 := im.tiles.zipIdx.foldl (fun m r => m.putSection im.key (im.padsAt + r.2 * 0x40800) 0x40000 r.1.pad r.1.padFull) m1
    let base := im.padsAt + im.tiles.length * 0x40800
    { s with mem := im.vaults.zipIdx.foldl (fun m v => m.putSection im.key (base + v.2 * 0x2040000) 0x2000000 v.1.1 v.1.2.1) m2 }

/-- Bytes of a save image (R379). -/
def SaveImage.len (im : SaveImage) : Nat :=
  im.padsAt - im.address + if im.evicted then im.tiles.length * 0x40800 + im.vaults.length * 0x2040000 else 0

/-- The key of the page through which a lath writes an image: that of a loaded slot of its domain in an encrypted tier, and none in the others (R22, R455). -/
def State.keyAt (s : State) (d : Nat) (at' : SaveAt) : Option Nat :=
  if !encryptedTier (tierOf at'.address) then some 0
  else
    let k := s.keySlot at'.slot
    if k.state == .loaded && k.domain == d then some k.ident else none

/-- A save image lies in memory of the domain, at a multiple of 8 bytes (R379). -/
def State.holdsImage (s : State) (d : Nat) (im : SaveImage) : Bool :=
  let last := im.address + im.len - 1
  im.address % 8 == 0 && s.ownsPA d im.address && s.backed im.address && s.ownsPA d last && s.backed last && tierOf im.address == tierOf last

/-- The region of a saved instance returned to the domain; beats of others' paths stay in its routers. -/
def State.vacate (s : State) (x : Inst) : State :=
  let s1 := x.region.foldl (fun s t => if (s.tile t).inst = x.number then s.vacateTile t else s) s
  State.dropWords { s1 with routers := s1.routers.map fun r => if x.inside r.1 then (r.1, r.2.without x.number) else r } x

/-- The chains that a replacement drains are drained (R387). -/
def State.endDrain (s : State) (x : Inst) : State := (s.instTiles x).foldl (fun s t => s.setTile t { s.tile t with draining := false }) s

/-- REGION_QUIESCED (R377-R384): once nothing fired is unfinished, the region drains into its endpoints and the save image is closed and written; with `evict` the
region returns to the domain, which the model's lath leaves until no beat can be lost (R378, log 59) and the fence holds (R311). -/
def execRegionQuiesced (d : Nat) (evict : Bool) (dest : SaveAt) (s : State) : Host.Outcome State Fault Refusal :=
  if d ≥ 16 then .fault .absentUnit
  else match s.inst? d (SMap.get s.halts d 0) with
    | none => .next s
    | some x =>
      if x.phase != .halting || !((s.instTiles x).all s.tileSettled) then .next s
      else
        let s0 := (s.endDrain x).drainRegion x
        if evict && !(s0.mayEvict x && s0.fenceHolds x dest.fence) then .next s
        else
          let im := saveInst s0 x evict dest.address ((s0.keyAt d dest).getD 0) dest.fence
          if (s0.keyAt d dest).isNone || !s0.holdsImage d im then .next s else
          let s1 := { ((s0.writeSave x im).setInst { x with phase := .saved, save := some im, region := if evict then [] else x.region }) with
                      halts := SMap.erase s.halts d }
          .next (if evict then s1.vacate x else s1)

/-! ### The lazy spill (R191, R384) -/

/-- A row engine noted as the section of its element. -/
def SaveImage.spill (t : Nat) (row : RowEngine) (im : SaveImage) : SaveImage :=
  { im with tiles := im.tiles.map fun st => if st.from' = t then { st with matrix := some row } else st }

/-- The section of a tile's engine written into the image in memory, whose FLAGS then say that sections are there. -/
def Memory.putMatrix (m : Memory) (im : SaveImage) (t : Nat) (row : RowEngine) : Memory :=
  match im.dirty.findIdx? fun st => st.from' == t with
  | none => m
  | some k => (m.putBlob im.key (im.sectionsAt + 22584 * k) (matrixBlob row)).putBlob im.key (im.address + 6) ⟨1, im.evicted.toNat + 2⟩

/-- The state of a tile's row engine spilled into its owner's save image; the engine is clean for the tile's configuration (R191). -/
def State.spillEngine (s : State) (t : Nat) : State :=
  let tl := s.tile t
  let s1 := match (s.tileDomain t).bind fun d => s.inst? d tl.row.owner with
    | none => s
    | some x => match x.save with
      | none => s
      | some im => { s.setInst { x with save := some (im.spill t tl.row) } with mem := s.mem.putMatrix im t tl.row }
  s1.setTile t { s1.tile t with row := RowEngine.clean tl.inst }

/-! ### Restore (R385, R386) -/

/-- A chain resumed on another element takes store numbers of that element for the groups it has still to write (R187, R385). -/
def State.renumberChains (s : State) (t : Nat) : State :=
  let fresh (acc : List ChainRun × State) (r : ChainRun) : List ChainRun × State :=
    let num := acc.2.takeNumbers t (r.groups - r.next)
    (acc.1 ++ [{ r with number := num.1 - r.next, order := acc.2.nextAccess, fence := (s.tile t).fences }],
     { num.2 with nextAccess := num.2.nextAccess + 1 })
  let r := (s.tile t).queue.foldl fresh ([], s)
  r.2.setTile t { r.2.tile t with queue := r.1 }

/-- The section of a saved element as its instance's image now holds it. -/
def State.sectionOf (s : State) (x : Inst) (st : SavedTile) : Option RowEngine :=
  ((s.inst? x.domain x.number).bind (·.save)).bind fun im => (im.tiles.find? fun u => u.from' == st.from').bind (·.matrix)

/-- The row engine that a restored element finds (R191, R385 step 5): untouched where it still stands under its owner, otherwise filled from its section, which
is first spilled from the tile that still holds it; what another owner left in the new tile's engine is spilled into that owner's image before. -/
def State.restoreEngine (s : State) (x : Inst) (st : SavedTile) (t : Nat) : State :=
  let holds (s : State) (u : Nat) : Bool := (s.tile u).row.dirty && (s.tile u).row.owner == x.number
  if !st.dirty || (t == st.from' && holds s t) then s
  else
    let s1 := if holds s st.from' then s.spillEngine st.from' else s
    let s2 := if ownerFault (s1.tile t) then s1.spillEngine t else s1
    match s2.sectionOf x st with
    | none => s2
    | some e => s2.setTile t { s2.tile t with row := { e with owner := x.number } }

/-- The queue mirrors of a restored element attached again (R310, R385 step 4): each queue that has no other owner by now receives its TAIL and PERMITS as they
stand, at the element's new tile. -/
def State.reattach (s : State) (old t : Nat) (ms : List Mirror) : State :=
  ms.foldl (fun s m =>
    let q := s.cmdQueue m.queue
    if q.attached && !q.seq && q.owner == old && q.ctx == m.ctx then s.attach m.queue (t + 2 ^ 13 * m.ctx + 2 ^ 32 * q.asid) else s) s

/-- The records of a restored tile's halts no longer match (R476): only SERIAL 0 re-arms them. -/
def State.renewHalts (s : State) (t : Nat) : State :=
  (List.range 8).foldl (fun s c =>
    let cx := s.ctx t c
    match cx.halt with
    | none => s
    | some h => { s.setCtx t c { cx with halt := some { h with serial := 0, record := s.nextRecord } } with nextRecord := s.nextRecord + 1 }) s

/-- The CREQs of a saved element belong to its new tile. -/
def State.moveCreqs (s : State) (st : SavedTile) (t : Nat) : State :=
  let ids := st.creqs.map (·.1.id)
  { s with outstanding := s.outstanding.map fun o => if ids.contains o.id then { o with tile := t } else o,
           pool := s.pool.map fun e => if e.request.any ids.contains then { e with tile := t } else e }

/-- One element record written into its new tile (R385 step 3), with steps 4 and 5 for it; a lath keeps its tiles. -/
def State.restoreTile (s : State) (x : Inst) (rg : Region) (st : SavedTile) : State :=
  let t := tileAt (rg.ox + st.x) (rg.oy + st.y) (rg.oz + st.z)
  if isLathTile t then s else
  let now := s.tile t
  let s1 := s.setTile t { st.tile with row := now.row, fences := now.fences, health := now.health, inst := x.number, asid := x.asid, mirrors := now.mirrors }
  let s2 := ({ s1 with mem := s1.mem.putPad (padPA t 0) st.pad st.padFull st.padPoison }).moveCreqs st t
  let s3 := (if t = st.from' then s2 else s2.renumberChains t).restoreEngine x st t
  (s3.reattach st.from' t st.tile.mirrors).renewHalts t

/-- An element record holds nothing that a restore must write. -/
def SavedTile.bare (st : SavedTile) : Bool :=
  st.pad.isEmpty && st.padFull.isEmpty && st.padPoison.isEmpty && !st.dirty && st.tile.mirrors.isEmpty && st.tile.ctxs.toList.all fun cx => !cx.word.valid

/-- An image with the sites of the element records that hold something among its own, so that no lath stands on one of them where it is placed (R85, R385). -/
def Image.withRecords (g : Image) (im : SaveImage) : Image :=
  { g with data := g.data ++ (im.tiles.filter fun st => !st.bare).map fun st =>
      { tier := 0, x := st.x, y := st.y, z := st.z, flags := 0, rsv := 0, offset := 0, length := 16, val := 0 } }

/-- The region that a saved instance is placed into (R385 step 1): its own when that is free, and otherwise, or for a move (R386), another that the loader
chooses. -/
def State.restoreRegion (s : State) (x : Inst) (g : Image) (im : SaveImage) (move : Bool) : Option Region :=
  let old := im.tiles.map (·.from')
  if move then (old.foldl (fun s t => s.setTile t { s.tile t with inst := x.number }) s).findRegion x.domain x.depth (g.withRecords im)
  else if !s.crossed x.domain g x.ox x.oy x.oz
      && (old.all fun t => (s.tile t).inst == 0 && !s.barred x.domain t && s.tileDomain t == some x.domain)
      && g.tiles.all fun r => !(s.tile (tileAt (x.ox + r.x) (x.oy + r.y) (x.oz + r.z))).health.retired then
    some { ox := x.ox, oy := x.oy, oz := x.oz, tiles := old, reserve := x.reserve }
  else s.findRegion x.domain x.depth (g.withRecords im)

/-- What the routers of the region held put back (R378). -/
def State.restoreRouters (s : State) (rg : Region) (rs : List (Nat × Nat × Nat × Router)) : State :=
  rs.foldl (fun s r =>
    let site := siteKeyAbs (rg.ox + r.1) (rg.oy + r.2.1) (rg.oz + r.2.2.1)
    let rt := s.router site
    let old := r.2.2.2
    s.setRouter site { rt with ins := old.ins.foldl (fun m b => SMap.set m b.1 b.2) rt.ins,
                               staged := old.staged.foldl (fun m b => SMap.set m b.1 b.2) rt.staged,
                               cins := old.cins.foldl (fun m b => SMap.set m b.1 b.2) rt.cins }) s

/-- The vaults put back, column by column. -/
def State.restoreVaults (s : State) (rg : Region) (vs : List (List Host.Cell × NSet × NSet)) : State :=
  ((regionColumns rg.tiles).zip vs).foldl (fun s v => { s with mem := s.mem.putVault (vaultPA v.1 0) v.2.1 v.2.2.1 v.2.2.2 }) s

/-- The entry witness of a moved instance (R386): the merge of its own, the fence's and every HALT_WIT. -/
def moveWitness (s : State) (x : Inst) (fence : W64) (lasts : List W64) : Lift := mergeAll s (s.lathTile x.domain) (fence :: lasts) x.entryWit

/-- The instance's image is loaded again around its saved tiles: routing words and the links of its ports (R385 step 2). The path of a launch that feeds it is laid
again. -/
def State.reload (s : State) (x : Inst) (g : Image) (rg : Region) : Option State :=
  let s0 : State := { s with ports := s.ports.map fun p => (p.1, match p.2.target with
    | .port d n _ => if d = x.domain ∧ n = x.number then { p.2 with way := none } else p.2
    | _ => p.2) }
  let s1 := rg.tiles.foldl (fun s t => s.setTile t { s.tile t with inst := x.number, asid := x.asid }) (s0.dropQuietFeeds x.domain)
  let s2 := g.routers.foldl (fun s r => s.loadRouter r rg.ox rg.oy x.number) s1
  let open' := s2.openPorts rg g.ports
  match x.entry.feed with
  | some _ => some open'
  | none => open'.linkRequest x.domain x.number rg x.entry.tile x.entry.ctx g.ports

/-- The entries of a table of an address space that anything has been written to, ascending. -/
def Memory.tableEntries (m : Memory) (frame : Nat) : List Nat := (((m.cellsIn (frame * 2 ^ 16) 0x10000).map fun c => frame * 2 ^ 16 + c.1 / 8 * 8)).eraseDups

/-- The leaves under a table that lead into moved frames given their new frames. -/
def Memory.remapTable (go : Nat → Option Nat) : Nat → Nat → Memory → Memory
  | 0, frame, m => (m.tableEntries frame).foldl (fun m pa =>
      let e := m.read pa 8
      match go (bits e 20 36) with
      | some f => if bitAt e 0 && !bitAt e 1 then m.write pa 8 (e - bits e 20 36 * 2 ^ 20 + f * 2 ^ 20) else m
      | none => m) m
  | level + 1, frame, m => (m.tableEntries frame).foldl (fun m pa =>
      let e := m.read pa 8
      if bitAt e 0 && bitAt e 1 then remapTable go level (bits e 20 36) m else m) m

/-- Where the frames of a moved instance's pads and vaults go: pairs of the first old and the first new frame with the number of frames. -/
def movedFrames (rg : Region) (im : SaveImage) : List (Nat × Nat × Nat) :=
  im.tiles.map (fun st => (padPA st.from' 0 / 2 ^ 16, padPA (tileAt (rg.ox + st.x) (rg.oy + st.y) (rg.oz + st.z)) 0 / 2 ^ 16, 4))
  ++ if im.vaults.isEmpty then [] else
    ((regionColumns (im.tiles.map (·.from'))).zip (regionColumns rg.tiles)).map fun c => (vaultPA c.1 0 / 2 ^ 16, vaultPA c.2 0 / 2 ^ 16, 512)

/-- The pages of an instance's address space that lie in its old pads and vaults remapped to the new ones, and what the translation caches hold of them dropped
(R385 step 1). -/
def State.remapPages (s : State) (x : Inst) (rg : Region) (im : SaveImage) : State :=
  let moves := (movedFrames rg im).filter fun r => r.1 != r.2.1
  let go (f : Nat) : Option Nat := (moves.find? fun r => decide (r.1 ≤ f) && decide (f < r.1 + r.2.2)).map fun r => r.2.1 + (f - r.1)
  let base := (s.domain x.domain).asidTable
  let ae := s.mem.read (base * 2 ^ 16 + 8 * x.asid) 8
  if moves.isEmpty || base == 0 || !bitAt ae 0 then s
  else { s with mem := s.mem.remapTable go 3 (bits ae 20 36),
                tlb := s.tlb.filter fun e => !(e.domain == x.domain && e.asid == x.asid && (go e.leaf.frame).isSome) }

/-- Every context of an instance issues again the loads that its records hold (R385 step 6). -/
def State.reissueAll (s : State) (x : Inst) : State :=
  (s.instTiles x).foldl (fun s t => (List.range 8).foldl (fun s c =>
    let cx := s.ctx t c
    cx.reissues.foldl (fun s r => s.reissue t c r)
      (s.setCtx t c { cx with cancelled := [], halt := cx.halt.map fun h => { h with reissue := [] } })) s) s

/-- The contexts of an instance released, with RESTORED set (R375, R385 step 7). -/
def State.releaseCtxs (s : State) (x : Inst) : State :=
  (s.instTiles x).foldl (fun s t =>
    let tl := s.tile t
    s.setTile t { tl with ctxs := Vector.ofFn fun k =>
      let cx := tl.ctxs[k]
      if cx.word.valid then { cx with held := false, restored := true } else cx }) s

/-- A saved instance placed and its records written back (R385 steps 1 to 6); unchanged while no region is free for it. One that is placed in other columns takes its
entry witness with the fence and every HALT_WIT (R311, R386). -/
def State.placeSaved (s : State) (x : Inst) (g : Image) (im : SaveImage) (move : Bool) : Option State :=
  match s.restoreRegion x g im move with
  | none => none
  | some rg =>
    let away := decide (2 ≤ x.level) && (rg.ox != x.ox || rg.oy != x.oy)
    match (if move || away then moveWitness s x im.fence (im.tiles.map (·.haltWit)) else .done x.entryWit), s.reload x g rg with
    | .done wit, some s1 =>
      let x1 := { x with ox := rg.ox, oy := rg.oy, oz := rg.oz, tiles := g.placedTiles rg, region := rg.tiles, reserve := rg.reserve,
                         phase := .restoring, entryWit := wit }
      let s2 := im.tiles.foldl (fun s st => s.restoreTile x rg st) (s1.setInst x1)
      let x2 := ((s2.inst? x.domain x.number).map fun y => { x1 with save := y.save }).getD x1
      some (((((s2.restoreRouters rg im.routers).restoreVaults rg im.vaults).remapPages x rg im).setInst x2).reissueAll x2)
    | _, _ => none

/-- A saved instance that kept its region gives it up for a move: its pads and vaults are copied from where they stand, under a fence (R311, R385, R386). -/
def State.liftRegion (s : State) (x : Inst) (im : SaveImage) (fence : W64) : Option (State × Inst × SaveImage) :=
  let s0 := s.drainRegion x
  if !(s0.mayEvict x && s0.fenceHolds x fence) then none
  else
    let now := saveInst s0 x true im.address im.key fence
    let im1 := { now with tiles := now.tiles.map fun st => match im.tiles.find? fun u => u.from' == st.from' with
      | some u => { st with matrix := u.matrix, haltWit := u.haltWit }
      | none => st }
    let x1 := { x with save := some im1, region := [] }
    some ((s0.setInst x1).vacate x, x1, im1)

/-- A saved instance restored: it goes on in its region where it kept it and is not moved, and is placed otherwise. -/
def State.restoreInst (s : State) (x : Inst) (g : Image) (im : SaveImage) (move : Bool) (fence : W64) : State :=
  if im.evicted then (s.placeSaved x g im move).getD s
  else if move then match s.liftRegion x im fence with
    | none => s
    | some r => (r.1.placeSaved r.2.1 g r.2.2 true).getD s
  else
    let x1 := { x with phase := .restoring }
    ((s.instTiles x).foldl State.renewHalts (s.setInst x1)).reissueAll x1

/-- The requests whose replacement a restored instance has taken are answered (R387). -/
def State.answerReplaced (s : State) (x : Inst) : State :=
  (s.pool.filter fun e => e.taken && e.domain == x.domain && e.parent == x.number).foldl (fun s e => (s.dropEntry e).resolve e 0 x.number s.ns false noFail) s

/-- SAVE_IMAGE_RESTORE (R385-R387): a saved instance is placed and its records written back, with `move` in another region, under the fence of R311 where it gives up
its region only now; and later its contexts are released, once every HALT_WIT is satisfied. -/
def execSaveImageRestore (d number : Nat) (move : Bool) (fence : W64) (s : State) : Host.Outcome State Fault Refusal :=
  if d ≥ 16 then .fault .absentUnit
  else match s.inst? d number with
    | none => .next s
    | some x =>
      match x.save with
      | none => .next s
      | some im =>
        if x.phase == .restoring then
          if im.tiles.all fun st => s.standing (s.lathTile d) st.haltWit == .satisfied || witNull st.haltWit then
            let x1 := { x with phase := .running, save := none }
            .next (((s.setInst x1).releaseCtxs x1).answerReplaced x1)
          else .next s
        else if x.phase != .saved then .next s
        else match s.image? d x.config with
          | some st => .next (s.restoreInst x st.parse.1 im move fence).noteAllReady
          | none => .next s

/-! ### Replacement (R387) -/

/-- A context word without RMODE and SAT. -/
def maskMode (w : Nat) : Nat := w - bits w 7 4 * 2 ^ 7

/-- Two images differ only in the RMODE and SAT of their context words (R387). -/
def sameButMode (a b : StoredImage) : Bool :=
  let strip (im : StoredImage) : Image :=
    let g := im.parse.1
    { g with tiles := g.tiles.map fun t => { t with ctxs := t.ctxs.map maskMode } }
  a.len == b.len && a.at 0 128 == b.at 0 128 && strip a == strip b

/-- The modes of an image's context words written into the contexts of a tile (R387 step 2). -/
def Tile.setModes (tl : Tile) (r : TileRec) : Tile :=
  { tl with ctxs := Vector.ofFn fun k : Fin 8 =>
      let cx := tl.ctxs[k]
      let cw := ctxWordOf (r.ctxs.getD k.val 0)
      { cx with word := { cx.word with rmode := cw.rmode, sat := cw.sat } } }

/-- The modes of a saved instance that a replacement changes stand on no queued chain (R387 step 1): one that another pre-emption has halted between groups is
restored before it is replaced. -/
def State.chainsDone (s : State) (im : SaveImage) (old new : Image) : Bool :=
  (old.tiles.zip new.tiles).all fun r => r.1.ctxs == r.2.ctxs || im.tiles.all fun st =>
    !(st.x == r.1.x && st.y == r.1.y && st.z == r.1.z) || (if im.evicted then st.tile else s.tile st.from').queue.isEmpty

/-- The new modes and the new identifier taken by a saved instance, in its tiles where it kept them, in its records, and in the image in memory (R387 steps 2
and 3). -/
def State.replaceModes (s : State) (x : Inst) (im : SaveImage) (g : Image) (config : BitVec 128) : State :=
  let recs := im.tiles.map fun st => match g.tiles.find? fun r => r.x == st.x && r.y == st.y && r.z == st.z with
    | some r => { st with tile := st.tile.setModes r }
    | none => st
  let s1 := { s.setInst { x with config := config, save := some { im with tiles := recs } } with mem := s.mem.putBlob im.key (im.address + 8) ⟨16, config.toNat⟩ }
  if im.evicted then s1
  else g.tiles.foldl (fun s r =>
    let t := tileAt (x.ox + r.x) (x.oy + r.y) (x.oz + r.z)
    s.setTile t ((s.tile t).setModes r)) s1

/-- The tiles whose context words a replacement changes: they run their queued chains to completion while the instance is halted (R387 step 1). -/
def State.drainChains (s : State) (x : Inst) (old new : Image) : State :=
  (old.tiles.zip new.tiles).foldl (fun s r =>
    let t := tileAt (x.ox + r.1.x) (x.oy + r.1.y) (x.oz + r.1.z)
    if r.1.ctxs = r.2.ctxs then s else s.setTile t { s.tile t with draining := true }) s

/-- A replacement considered by the lath (R387): the request is refused; or the instance is pre-empted, unless the domain pre-empts another; or, once its save
image is closed, it takes the new modes and the new identifier, and is restored as any saved instance is. The request is answered when its contexts go on. -/
def State.replaceStep (s : State) (e : PoolEntry) : State :=
    match s.inst? e.domain e.parent with
    | none => (s.refuse e 0x01 false false (wholeFail .badHeader))
    | some x =>
      if e.taken then s else
      match s.image? e.domain e.config, s.image? e.domain x.config with
      | some im, some old =>
        match loadCheck s.variant (s.domain e.domain).shape.sites (s.signatureOk e.domain im) im with
        | some fl => (s.refuse e fl.status.code false false fl)
        | none =>
          if !sameButMode old im then (s.refuse e 0x01 false false (wholeFail .badHeader))
          else if x.phase == .running then
            if SMap.get s.halts e.domain 0 ≠ 0 then s
            else
              let s1 := (s.haltInst x).drainChains x old.parse.1 im.parse.1
              { s1 with halts := SMap.set s1.halts e.domain x.number }
          else if x.phase == .halting then s.drainChains x old.parse.1 im.parse.1
          else if x.phase != .saved then s
          else match x.save with
            | none => s
            | some sv =>
              if !s.chainsDone sv old.parse.1 im.parse.1 then s
              else
                let s1 := s.replaceModes x sv im.parse.1 e.config
                { s1 with pool := s1.pool.map fun p => if p.id = e.id then { p with taken := true } else p }
      | none, _ => (s.refuse e 0x23 false false noFail)
      | some _, none => (s.refuse e 0x01 false false (wholeFail .badHeader))

/-! ### The scan (R361, R376, R458) -/

/-- Sectors of a shape. -/
def Shape.sectors (sh : Shape) : List Nat := (List.range 16).filter sh.has

/-- The leaving and joining sectors of a step (R458). -/
def Domain.leaving (dm : Domain) : List Nat := dm.shape.sectors.filter fun sec => dm.resetting || !dm.target.has sec
def Domain.joining (dm : Domain) : List Nat := dm.target.sectors.filter fun sec => dm.resetting || !dm.shape.has sec

/-- No instance of a domain has a tile in the leaving sectors, and every queue there is empty or stopped (R458). -/
def State.quiet (s : State) (d : Nat) : Bool :=
  let out := (s.domain d).leaving
  (s.insts.all fun x => x.domain != d || x.region.all fun t => !out.contains (sectorOf t))
  && s.queues.all fun q => q.2.commands.isEmpty || q.2.stopped
      || !(out.contains (if q.1 < 256 then sectorOfColumn (q.1 / 4) else q.1 - 256))

/-- A QUIESCE in progress whose condition holds is complete (R458). -/
def State.noteQuiesce (s : State) (d : Nat) : State :=
  let dm := s.domain d
  if dm.busy && dm.step == 1 && s.quiet d then s.setDomain d { dm with busy := false, step := 2 } else s

/-- An entry could be placed if an instance gave up its region. -/
def State.fitsWithout (s : State) (e : PoolEntry) (x : Inst) : Bool :=
  match s.image? e.domain e.config with
  | none => false
  | some im =>
    let s1 := x.region.foldl (fun s t => if (s.tile t).inst = x.number then s.setTile t { s.tile t with inst := 0 } else s) s
    ((s1.dropWords x).findRegion e.domain e.depth im.parse.1).isSome

/-- An instance that the lath may pre-empt for an entry (R376): it was placed with PREEMPTIBLE, runs, has the later deadline, and the entry would fit in its place. -/
def State.preemptable (s : State) (e : PoolEntry) (x : Inst) : Bool :=
  x.domain == e.domain && x.phase == .running && x.entry.preemptible && decide (e.deadline < x.entry.deadline) && s.fitsWithout e x

/-- The lath requests the pre-emption of an instance when an entry that a scan has left in the pool for want of a region can be placed in no other way (R376). DESIGN
CHOICE (log 63): of several such instances the one of the latest deadline. -/
def State.preemptFor (s : State) (d : Nat) (es : List PoolEntry) : State :=
  if SMap.get s.halts d 0 ≠ 0 then s
  else
    let waits (e : PoolEntry) : Bool := (s.pool.any fun x => x.id == e.id) && (s.entryWitness e).isSome && !e.deferred
      && match s.image? d e.config with
        | some im => (s.findRegion d e.depth im.parse.1).isNone
        | none => false
    match es.find? fun e => waits e && s.insts.any (s.preemptable e) with
    | none => s
    | some e => match (sortByKey (fun x => 2 ^ 64 - x.entry.deadline) (s.insts.filter (s.preemptable e))) with
      | [] => s
      | x :: _ => { s with halts := SMap.set s.halts d x.number }

/-- PENDING_POOL_SCAN (R361): retired regions return, replacement messages that wait are written (R359), a QUIESCE whose condition holds completes (R458), and every entry that can be placed is placed, under the
address space that the lath names. None is placed while a resident launch waits, and while its instance runs only the requests of that instance and those below
it are (R358); a request waits while its requester has given up its region (log 59). -/
def execPendingPoolScan (d asid : Nat) (s : State) : Host.Outcome State Fault Refusal :=
  if d ≥ 16 then .fault .absentUnit
  else
    let s1 := (s.sweep d).noteQuiesce d
    if (s1.poolOf d).any (·.resident) then .next s1
    else
      let s2 := ((s1.poolOf d).filter (·.replaces)).foldl State.replaceStep s1
      let away (e : PoolEntry) : Bool := e.request.isSome && s2.insts.any fun x => x.domain == d && x.number == e.parent && x.away
      let mine (e : PoolEntry) : Bool := !away e && match s2.residentInst d with
        | some r => e.request.isSome && s2.below d r.number 9 e.parent
        | none => true
      let es := (s2.poolOf d).filter fun e => !e.replaces && mine e
      .next ((((scanOrder es).foldl (fun s e => s.tryPlace asid e) s2).preemptFor d (scanOrder es)).noteAllReady.tidyMail d)

/-- FALLBACK_ENTER (R358): when every instance of the domain has retired, the resident launch is placed. -/
def execFallbackEnter (d asid : Nat) (s : State) : Host.Outcome State Fault Refusal :=
  if d ≥ 16 then .fault .absentUnit
  else
    let s1 := s.sweep d
    match (s1.poolOf d).find? (·.resident) with
    | none => .next s1
    | some e =>
      if (s1.insts.any fun x => x.domain == d && (x.phase != .retired || !x.closed)) then .next s1
      else .next ((s1.tryPlace asid e).noteAllReady.tidyMail d)

/-! ### The lath's other services of a tile -/

/-- A context of a tile is halted by a record of class matrix, cause OWNER (R191). -/
def ownerHalted (tl : Tile) : Bool := tl.ctxs.toList.any fun cx => cx.run == .halted && cx.halt.any fun h => h.cls == 8 && h.cause == 4

/-- MATRIX_OWNER_SPILL (R191, R384): once another configuration has faulted on it, the lath spills the state of the owner into that owner's save image, and
cleans the engine for the tile's configuration. -/
def execMatrixOwnerSpill (t : Nat) (s : State) : Host.Outcome State Fault Refusal :=
  if t ≥ s.tileCount then .fault .absentUnit
  else
    .next (if ownerFault (s.tile t) && ownerHalted (s.tile t) then s.spillEngine t else s)

/-- STATE of the shard-table entry at an address of a tile's address space (R396); none where the address does not translate. -/
def State.shardState (s : State) (t entry : Nat) : Option Nat :=
  match (translate s (cacheOfElement t) ((s.tileDomain t).getD 0) (s.tile t).asid entry).1 with
  | .leaf l => some (s.mem.read (l.pa entry + 7) 1)
  | _ => none

/-- The token of a skim slot waits for a refill (R403). -/
def State.park (s : State) (t k : Nat) : State := s.setQuery t k { s.query t k with parked := true }

/-- The page that an entry names, with the address space in which it does (R396). -/
def State.pageNamed (s : State) (r : Nat × Nat) : Option (Nat × Nat × Nat) :=
  match (translate s (cacheOfElement r.1) ((s.tileDomain r.1).getD 0) (s.tile r.1).asid r.2).1 with
  | .leaf l => some ((s.tileDomain r.1).getD 0, (s.tile r.1).asid, s.mem.read (l.pa r.2 + 16) 8)
  | _ => none

/-- A refill request stands while its entry is EVICTED, and no other request shows that the lath has taken up the page (R403, log 65). -/
def State.refillStands (s : State) (r : Nat × Nat) : Bool :=
  s.shardState r.1 r.2 == some 3 && s.refills.all fun x => !(s.shardState x.1 x.2 == some 4 && s.pageNamed x == s.pageNamed r)

/-- Once the lath has set a page REFILLING, every request for it is answered (R403). -/
def State.answerRefills (s : State) : State := { s with refills := s.refills.filter s.refillStands }

/-- REFILL_REQUEST (R403): a tile whose token in a skim slot meets an entry that is EVICTED or REFILLING parks the token and asks the lath of its sector to refill
the page. While the entry is EVICTED the request stands until the lath, by its own stores and one HCPY, has set it REFILLING; a request for a page that is
REFILLING is answered at once, without a second copy. An entry in any other state parks nothing, and a token that waited for it waits no longer. The
event names an entry by its address, a multiple of 64 (R396), and the slot by bit 0 beside it (log 65). -/
def execRefillRequest (t at' : Nat) (s : State) : Host.Outcome State Fault Refusal :=
  let entry := at' / 64 * 64
  let k := at' % 2
  if t ≥ s.tileCount then .fault .absentUnit
  else if !(s.query t k).occupied then .next s
  else match s.shardState t entry with
    | some 3 => .next ((if s.refills.contains (t, entry) then s else { s with refills := s.refills ++ [(t, entry)] }).park t k)
    | some 4 => .next (s.answerRefills.park t k)
    | _ => .next (s.answerRefills.unpark t k)

end Sys2Proof.Machine
end

