-- ==== Sys2Proof/Machine/Faults.lean ====
section
/-! DEFINITION. Fault records and queues (R470-R473), FREC and FRSM (R474-R476): opcode 0x83. -/

namespace Sys2Proof.Machine

open Sys2Proof

/-! ### The queues (R472) -/

/-- Where a record goes (R472): the port of the management for a root-lath context, domain 0's queue for the privileged context of another lath and for a source
that no domain owns, otherwise the queue of the domain that owns the source. -/
inductive RecordRoute where
  | queue (d : Nat)
  | management
  deriving DecidableEq, Repr

def State.route (s : State) (r : FaultRecord) : RecordRoute :=
  let owner := if r.source < 4608 then s.tileDomain r.source else s.groupOf r.source 4
  let lath := decide (r.source < 4608) && decide (r.ctx < 8) && (s.ctx r.source r.ctx).word.priv
  if lath && s.fromRoot (.element r.source r.ctx) then .management
  else if lath then .queue 0
  else .queue (owner.getD 0)

/-- Records that a queue holds at most (R472). -/
def queueRoom : Nat := 1024

/-- A record of the list that can leave for a domain's queue: the first of its source, and not a halting one while the queue is full. -/
def State.nextRecordFor (s : State) (d : Nat) : List FaultRecord → List Nat → Option FaultRecord
  | [], _ => none
  | r :: rest, blocked =>
    let full := decide (queueRoom ≤ (s.faultQueue d).records.length)
    let mine := s.route r == .queue d || (d == 0 && s.route r == .management)
    if mine && !blocked.contains r.source && !(full && r.halted && s.route r != .management) then some r
    else s.nextRecordFor d rest (r.source :: blocked)

/-- A halted context learns the SERIAL of its latest record (R475): of the one that halted it, which may have halted every context of its element (R468), or of
one that it raised since then. -/
def State.tellSerial (s : State) (r : FaultRecord) (serial : Nat) : State :=
  let tell (c : Nat) (h : HaltInfo) : HaltInfo :=
    if h.record = r.number ∨ (h.record < r.number ∧ r.ctx = c) then { h with serial := serial } else h
  if r.source < 4608 then
    let tl := s.tile r.source
    s.setTile r.source { tl with ctxs := Vector.ofFn fun k => { tl.ctxs[k] with halt := tl.ctxs[k].halt.map (tell k.val) } }
  else s

/-- A record enters its queue, or is lost (R472). -/
def State.enqueue (s : State) (d : Nat) (r : FaultRecord) : State :=
  let q := s.faultQueue d
  let s1 : State := { s with records := s.records.filter fun x => x.number != r.number }
  if queueRoom ≤ q.records.length then
    { s1 with faultQueues := SMap.set s1.faultQueues d { q with lost := min (q.lost + 1) 0xFFFF, markLost := true } }
  else
    let serial := q.lastSerial + 1
    let q1 : FaultQueue := { q with records := q.records ++ [{ r with serial := serial, lost := q.markLost }], lastSerial := serial, markLost := false }
    State.tellSerial { s1 with faultQueues := SMap.set s1.faultQueues d q1 } r serial

/-- A record of a root-lath context is posted on the management port (R472), with the next number of domain 0, to which the root lath belongs (R470). -/
def State.postRecord (s : State) (r : FaultRecord) : State :=
  let q := s.faultQueue 0
  let serial := q.lastSerial + 1
  State.tellSerial { s with
    records := s.records.filter fun x => x.number != r.number,
    management := s.management ++ [.record { r with serial := serial }],
    faultQueues := SMap.set s.faultQueues 0 { q with lastSerial := serial } } r serial

/-- FAULT_RECORD_ENQUEUE (R472): a record on its way enters a domain's queue, or is discarded because the queue is full; a record of a root-lath context is
posted on the management port. -/
def execFaultRecordEnqueue (d : Nat) (s : State) : Host.Outcome State Fault Refusal :=
  if 16 ≤ d then .fault .absentUnit
  else match s.nextRecordFor d s.records [] with
    | none => .next s
    | some r =>
      if s.route r = .management then .next (s.postRecord r)
      else .next (s.enqueue d r)

/-! ### FAULT_CTL (R473) -/

/-- A store to FAULT_CTL is performed, or discarded. -/
def State.storeFaultCtl (s : State) (src : Issuer) (d : Nat) (value : BitVec 64) : State :=
  if !s.fromLath src (some d) then s
  else { s with faultQueues := SMap.set s.faultQueues d { s.faultQueue d with brkpEn := bitAt value.toNat 0 } }

/-- FAULT_CTL as a load reads it. -/
def State.loadFaultCtl (s : State) (d : Nat) : Nat :=
  let q := s.faultQueue d
  q.brkpEn.toNat + q.records.length * 2 ^ 8 + q.lost * 2 ^ 19

/-! ### FREC (R470, R474) -/

/-- FLAGS of a record. -/
def FaultRecord.flags (r : FaultRecord) : Nat :=
  r.halted.toNat + 2 * r.operands.isSome.toNat + 4 * r.performed.toNat + 8 * r.chain.toNat + 16 * r.lost.toNat

/-- A beat of a record (R470). -/
def FaultRecord.beat (r : FaultRecord) (k : Nat) : V512 :=
  match k with
  | 0 => BitVec.ofNat 512 (packNat 64
      [r.source % 2 ^ 16 + r.ctx % 2 ^ 8 * 2 ^ 16 + r.slot % 2 ^ 8 * 2 ^ 24 + r.cls % 2 ^ 8 * 2 ^ 32 + r.cause % 2 ^ 8 * 2 ^ 40 + r.flags * 2 ^ 48,
       r.serial % 2 ^ 64, r.inst % 2 ^ 64, r.address % 2 ^ 64, r.witness.toNat, r.haltWit.toNat, r.ns % 2 ^ 64,
       r.headTags.toNat + r.headValid.toNat * 2 ^ 24 + r.lane % 2 ^ 16 * 2 ^ 32])
  | 1 => r.detail.setWidth 512
  | 2 => (r.operands.map (·.1)).getD 0
  | _ => (r.operands.map (·.2)).getD 0

/-- FREC (R474). -/
def execFrec (f : Slot) (s : State) : Host.Outcome State Fault Refusal :=
  fire (.frec f) (fun s fr =>
    let a := fr.a64 0
    let d := (s.tileDomain fr.t).getD 0
    let q := s.faultQueue d
    if !fr.any then .done (s.writeDest fr.t fr.c fr.slot fr.f.dst 32 0 [])
    else if bits a 3 61 ≠ 0 then .stop { cls := 13, cause := 4 }
    else match q.records with
      | [] => .idle
      | r :: rest =>
        let beat := r.beat (bits a 0 2)
        let s1 := applyLanes s { fr with w := 32 } (LaneResult.of ((lanesOf 32 16 beat).map fun x => (x, x != 0)))
        .done (if bitAt a 2 then { s1 with faultQueues := SMap.set s1.faultQueues d { q with records := rest } } else s1)) s

/-! ### FRSM (R475, R476) -/

/-- A halted context resumes (R475, R476). -/
def State.resume (s : State) (t c : Nat) (h : HaltInfo) : State :=
  let cx := s.ctx t c
  let s1 := s.setCtx t c
    { cx with run := .runnable, halt := none, brkpPass := h.brkp.or cx.brkpPass,
              chainFault := if h.chain then none else cx.chainFault }
  let s2 := h.skimSlots.foldl (fun s k => s.emptyQuery t k) s1
  h.reissue.foldl (fun s r => s.reissue t c r) s2

/-- The halt of a context when its re-arm witness no longer holds it back (R246, R475). -/
def State.rearmed (s : State) (t c : Nat) : Option HaltInfo :=
  let cx := s.ctx t c
  match cx.run, cx.halt with
  | .halted, some h => (match h.rearm with
      | some w => if s.standing t w = .pending then none else some h
      | none => none)
  | _, _ => none

/-- A halted context's element uses its re-arm witness (R246, R475). -/
def State.useRearm (s : State) (t c : Nat) : State :=
  match (s.ctx t c).halt.bind (·.rearm) with
  | some w => s.noteLift t w
  | none => s

/-- The contexts of a tile whose re-arm witnesses are satisfied become runnable (R475). -/
def State.wake (s : State) (t : Nat) : State :=
  (List.range 8).foldl (fun s c =>
    let s1 := s.useRearm t c
    match s1.rearmed t c with
    | some h => s1.resume t c h
    | none => s1) s

/-- The target of FRSM, its SERIAL and its witness (R475). -/
structure FrsmAsk where
  tile : Nat
  ctx : Nat
  action : Nat
  serial : Nat
  wit : W64
  deriving DecidableEq, Repr

def frsmAsk (fr : Firing) : FrsmAsk :=
  let a := fr.a64 0
  { tile := bits a 0 13, ctx := bits a 13 3, action := bits a 16 2, serial := fr.a64 1, wit := BitVec.ofNat 64 (fr.a64 2) }

/-- A context of the root lath, which stays halted until a management-port reset (R472). -/
def State.rootCtx (s : State) (t c : Nat) : Bool := (s.ctx t c).word.priv && s.fromRoot (.element t c)

/-- The halt that FRSM acts on: the target lies in the issuer's domain or the issuer is the root lath, it is halted and not of the root lath itself, and SERIAL is
0 or that of its latest record (R472, R475). -/
def State.frsmTarget (s : State) (fr : Firing) (k : FrsmAsk) : Option HaltInfo :=
  let cx := s.ctx k.tile k.ctx
  if s.tileCount ≤ k.tile ∨ cx.run ≠ .halted ∨ s.rootCtx k.tile k.ctx = true
      ∨ (s.tileDomain k.tile ≠ s.tileDomain fr.t ∧ s.fromRoot (.element fr.t fr.c) = false) then none
  else cx.halt.filter fun h => k.serial == 0 || h.serial == k.serial

/-- The effect of an action on its target (R475). -/
def State.frsmEffect (s : State) (k : FrsmAsk) (h : HaltInfo) : State :=
  match k.action with
  | 0 =>
    let cx := s.ctx k.tile k.ctx
    (s.setCtx k.tile k.ctx { cx with halt := some { h with rearm := some k.wit } }).wake k.tile
  | 1 => s.retireCtx k.tile k.ctx
  | 2 =>
    let n := (s.tile k.tile).inst
    if n = 0 then s else s.releaseInst ((s.tileDomain k.tile).getD 0) n true
  | _ => s

/-- FRSM (R475). `only` names the action that the instruction's name gives; the word of FRSM itself stands for every action. -/
def fireFrsm (i : Instr) (only : Option Nat) (s : State) : Host.Outcome State Fault Refusal :=
  fire i (fun s fr =>
    let k := frsmAsk fr
    if !fr.any then .done s
    else if bits (fr.a64 0) 18 46 ≠ 0 then .stop { cls := 13, cause := 4 }
    else if s.standing fr.t k.wit == .malformed then .stop { cls := 7, cause := 1, witness := k.wit }
    else if only.any fun a => a != k.action then .idle
    else match s.frsmTarget fr k with
      | none => .done s
      | some h => .done (s.frsmEffect k h)) s

/-- FRSM_RETRY (R475, R476): the instruction FRSM, whose ACTION operand chooses what it does. -/
def execFrsmRetry (f : Slot) (s : State) : Host.Outcome State Fault Refusal := fireFrsm (.frsmRetry f) none s

/-- FRSM_RETIRE (R475): FRSM with ACTION 1. -/
def execFrsmRetire (f : Slot) (s : State) : Host.Outcome State Fault Refusal := fireFrsm (.frsmRetire f) (some 1) s

/-- FRSM_KILL (R475): FRSM with ACTION 2. -/
def execFrsmKill (f : Slot) (s : State) : Host.Outcome State Fault Refusal := fireFrsm (.frsmKill f) (some 2) s

end Sys2Proof.Machine
end

