-- ==== Sys2Proof/Machine/Domains.lean ====
section
/-! DEFINITION. Invalidation of translations (R451-R453), key slots (R455-R457) and energy counters (R466): opcodes 0x81 SUB 0 to 2 and 0x82. -/

namespace Sys2Proof.Machine

open Sys2Proof

/-! ### Invalidation (R451-R453) -/

/-- A breach of the operands of TLBIR (R451). -/
def tlbirRange (fr : Firing) : Bool :=
  let b := fr.b64 0
  bits (fr.a64 0) 0 16 != 0 || bits (fr.a64 1) 0 16 != 0 || bits b 17 47 != 0 || (bitAt b 16 && bits b 0 16 != 0)

/-- A result given whole to every 64-bit lane, with one condition (R451, R453). -/
def deliverCount (s : State) (fr : Firing) (n : Nat) (cond : Bool) : State :=
  applyLanes s { fr with w := 64 } (LaneResult.of (List.replicate 8 (n, cond)))

/-- A fault of class domain (R468). -/
def domainFault (cause : Nat) : Fired := .stop { cls := 13, cause := cause }

/-- TLBIR (R451). -/
def execTlbir (f : Slot) (s : State) : Host.Outcome State Fault Refusal :=
  fire (.tlbir f) (fun s fr =>
    let w : W64 := BitVec.ofNat 64 (fr.a64 2)
    if !fr.any then .done s
    else if tlbirRange fr then domainFault 4
    else if s.standing fr.t w == .malformed then .stop { cls := 7, cause := 1, witness := w }
    else
      let cx := s.ctx fr.t fr.c
      let n := cx.tlbirs + 1
      let v : Invalidation :=
        { id := s.nextInval, tile := fr.t, ctx := fr.c, count := n, domain := (s.tileDomain fr.t).getD 0,
          asid := if bitAt (fr.b64 0) 16 then none else some (bits (fr.b64 0) 0 16), page := fr.a64 0 / 2 ^ 16, pages := fr.a64 1 / 2 ^ 16,
          applied := [], old := [] }
      let s1 := (s.noteScope fr.t fr.c w).setCtx fr.t fr.c { (s.noteScope fr.t fr.c w).ctx fr.t fr.c with tlbirs := n }
      .done (deliverCount { s1 with invals := s1.invals ++ [v], nextInval := s1.nextInval + 1 } fr n true)) s

/-- A translation cache drops what an invalidation names (R451). -/
def State.dropEntries (s : State) (v : Invalidation) (cache : Nat) : List TlbEntry :=
  s.tlb.filter fun e => !(e.cache == cache && e.domain == v.domain && v.names e.asid && v.covers e.page)

/-- An invalidation applied at a cache: its instant r_c (R451, R452). -/
def State.applyInval (s : State) (v : Invalidation) (cache : Nat) : State :=
  let old := (s.accesses.filter fun a => a.cache == cache && v.old? a).map (·.id)
  { s with
    tlb := s.dropEntries v cache,
    invals := s.invals.map fun x => if x.id = v.id then { x with applied := cache :: x.applied, old := x.old ++ old } else x }

/-- TLB_INVALIDATE_APPLY (R451): a translation cache of the issuing domain drops the entries named, at its instant. -/
def execTlbInvalidateApply (invalidation cache : Nat) (s : State) : Host.Outcome State Fault Refusal :=
  if 5464 ≤ cache then .fault .absentUnit
  else match s.invals.find? fun v => v.id = invalidation with
    | none => .next s
    | some v =>
      if v.applied.contains cache || s.cacheDomain cache != some v.domain then .next s
      else .next (s.applyInval v cache)

/-- TLBSY (R453). -/
def execTlbsy (f : Slot) (s : State) : Host.Outcome State Fault Refusal :=
  fire (.tlbsy f) (fun s fr =>
    if !fr.any then .done s
    else
      let id := s.nextAccess
      let o : Outstanding :=
        { id := id, tile := fr.t, ctx := fr.c, slot := fr.slot, dst := fr.f.dst, e := fr.e, w := 64, n := 8, predReg := fr.f.predReg,
          predOp := fr.f.predOp, witness := none, quiet := false }
      let r : Request :=
        { id := id, kind := .tlbsy (s.ctx fr.t fr.c).tlbirs ((s.undrained fr.t fr.c).map (·.id)), e := fr.e, a := fr.a.val, b := fr.b.val }
      .done { (s.expect fr.t fr.c fr.slot o) with nextAccess := id + 1, requests := s.requests ++ [r] }) s

/-- Every invalidation of a list has drained. -/
def State.allDrained (s : State) (ids : List Nat) : Bool := s.invals.all fun v => !ids.contains v.id || s.drained v

/-- Invalidations that have drained and that no request waits for are forgotten. -/
def State.sweepInvals (s : State) : State :=
  let waited (id : Nat) : Bool := s.requests.any fun r => match r.kind with
    | .tlbsy _ ids => ids.contains id
    | .scrub _ k => k == id
    | _ => false
  { s with invals := s.invals.filter fun v => waited v.id || !s.drained v }

/-! ### Key slots (R455-R457) -/

/-- The state with a key slot replaced. -/
def State.setKeySlot (s : State) (k : Nat) (x : KeySlot) : State := { s with keySlots := SMap.set s.keySlots k x }

/-- SLOT of KSLT (R456). -/
def Firing.keySlot (fr : Firing) : Nat := bits (fr.b64 0) 0 8

/-- A fault of class key (R456, R468). -/
def keyFaultStop (cause : Nat) : Fired := .stop { cls := 14, cause := cause }

/-- The issuer is a context of a lath of the domain that owns an assigned slot (R456). -/
def State.ownsSlot (s : State) (fr : Firing) (x : KeySlot) : Bool :=
  x.state != .unassigned && s.fromLath (.element fr.t fr.c) (some x.domain)

/-- KSLT ASSIGN (R456). -/
def execKsltAssign (f : Slot) (s : State) : Host.Outcome State Fault Refusal :=
  fire (.ksltAssign f) (fun s fr =>
    let x := s.keySlot fr.keySlot
    if !fr.any then .done s
    else if !s.fromRoot (.element fr.t fr.c) then keyFaultStop 4
    else if x.state != .unassigned then keyFaultStop 2
    else .done (s.setKeySlot fr.keySlot { KeySlot.clean with domain := bits (fr.b64 0) 8 4, state := .empty })) s

/-- A slot filled with a key (R456), which names itself: equal key bits decrypt one another's data (R455). -/
def State.fillSlot (s : State) (k : Nat) (key : BitVec 512) : State :=
  s.setKeySlot k { s.keySlot k with state := .loaded, key := key, ident := key.toNat + 1 }

/-- KSLT LOAD (R456). -/
def execKsltLoad (f : Slot) (s : State) : Host.Outcome State Fault Refusal :=
  fire (.ksltLoad f) (fun s fr =>
    let x := s.keySlot fr.keySlot
    if !fr.any then .done s
    else if !s.ownsSlot fr x then keyFaultStop 1
    else if x.state != .empty then keyFaultStop 2
    else if fr.a.val.extractLsb' 0 256 == fr.a.val.extractLsb' 256 256 then keyFaultStop 3
    else .done (s.fillSlot fr.keySlot fr.a.val)) s

/-- KSLT GENERATE (R456): the key that the verifier derives is a free value (log 8). -/
def execKsltGenerate (f : Slot) (s : State) : Host.Outcome State Fault Refusal :=
  fire (.ksltGenerate f) (fun s fr =>
    let x := s.keySlot fr.keySlot
    if !fr.any then .done s
    else if !s.ownsSlot fr x then keyFaultStop 1
    else if x.state != .empty then keyFaultStop 2
    else .done { s.fillSlot fr.keySlot (Config.derivedKey s.free) with free := s.free + 1 }) s

/-- A slot starts to be cleared (R456, R457). -/
def State.startClear (s : State) (k : Nat) (byRoot : Bool) : State := s.setKeySlot k { s.keySlot k with state := .clearing, byRoot := byRoot }

/-- KSLT CLEAR (R456). -/
def execKsltClear (f : Slot) (s : State) : Host.Outcome State Fault Refusal :=
  fire (.ksltClear f) (fun s fr =>
    let x := s.keySlot fr.keySlot
    let root := s.fromRoot (.element fr.t fr.c)
    if !fr.any then .done s
    else if !(root || s.ownsSlot fr x) then keyFaultStop 1
    else if x.state != .empty && x.state != .loaded then keyFaultStop 2
    else .done (s.startClear fr.keySlot root)) s

/-- Some access in flight was translated with a slot's key (R457). -/
def State.keyInUse (s : State) (ident : Nat) : Bool :=
  ident != 0 && s.accesses.any fun a => a.pieces.any (fun p => p.key == ident) || a.backs.any (fun p => p.key == ident)
    || a.returns.any fun p => p.key == ident

/-- KEY_CLEAR_END (R457): the owning domain's caches drop the entries that name the slot; once no access translated with it is left, its key is zeroed and
it is EMPTY, or UNASSIGNED when the root lath cleared it. -/
def execKeyClearEnd (k : Nat) (s : State) : Host.Outcome State Fault Refusal :=
  if 256 ≤ k then .fault .absentUnit
  else
    let x := s.keySlot k
    if x.state != .clearing then .next s
    else
      let named (e : TlbEntry) : Bool := encryptedTier (tierOf (e.leaf.frame * 2 ^ 16)) && e.leaf.key == k
      let s1 := { s with tlb := s.tlb.filter fun e => !named e }
      if s.keyInUse x.ident then .next s1
      else .next (s1.setKeySlot k (if x.byRoot then KeySlot.clean else { KeySlot.clean with domain := x.domain, state := .empty }))

/-- KEY_OWNER as a load reads it (R455). -/
def KeyState.code : KeyState → Nat
  | .unassigned => 0 | .empty => 1 | .loaded => 2 | .clearing => 3

def State.loadKeyOwner (s : State) (k : Nat) : Nat := (s.keySlot k).domain + (s.keySlot k).state.code * 2 ^ 4

/-! ### Energy (R465, R466) -/

/-- ECNT (R466): the meters have drawn some more when they are read (log 17). -/
def execEcnt (f : Slot) (s : State) : Host.Outcome State Fault Refusal :=
  fire (.ecnt f) (fun s fr =>
    if !fr.any then .done (write64 s fr [])
    else
      let d := (s.tileDomain fr.t).getD 0
      let sec := sectorOf fr.t
      let n := (s.tile fr.t).inst
      let s1 := s.meter d sec n
      let sc := s1.schedOf d
      let vals := match bits fr.f.imm.toNat 0 2 with
        | 0 => [sc.total, sc.used, sc.budget, sc.windows]
        | 1 => [((s1.inst? d n).map fun x : Inst => x.energy).getD 0]
        | _ => [SMap.get s1.sectorEnergy sec 0]
      .done (write64 s1 fr (vals.map (· % 2 ^ 64)))) s

/-- A store to ENERGY_CTL of a domain is performed, or discarded (R465): the window restarts at once. -/
def State.storeEnergyCtl (s : State) (src : Issuer) (d : Nat) (value : BitVec 64) : State :=
  let window := bits value.toNat 32 16
  if !s.fromLath src (some d) || window == 0 then s
  else
    let sc := s.schedOf d
    { s.setSched d { sc with budget := bits value.toNat 0 32, window := window, windowStart := s.ns, reserved := 0, used := 0 } with
      pool := s.pool.map fun e => if e.domain = d then { e with deferred := false } else e }

/-- ENERGY_CTL as a load reads it. -/
def State.loadEnergyCtl (s : State) (d : Nat) : Nat := (s.schedOf d).budget + (s.schedOf d).window * 2 ^ 32

/-- ENERGY_CTL_WRITE (R465). -/
def execEnergyCtlWrite (src : Issuer) (d : Nat) (value : BitVec 64) (s : State) : Host.Outcome State Fault Refusal :=
  if 16 ≤ d then .fault .absentUnit else .next (s.storeEnergyCtl src d value)

end Sys2Proof.Machine
end

