-- ==== Sys2Proof/Machine/Resize.lean ====
section
/-! DEFINITION. Resize and reset of domains (R458, R459): DCTL, opcode 0x81 SUB 3, and the stores to the domain registers (R443, R444, R460). -/

namespace Sys2Proof.Machine

open Sys2Proof

/-! ### Shapes -/

/-- The shape that DCTL DEFINE names (R458); W = 0 names no sector. -/
def shapeOf (a : Nat) : Shape :=
  let w := bits a 8 3
  if w = 0 then ⟨0, 0, 0, 0⟩ else ⟨bits a 4 2, bits a 6 2, w, bits a 11 3⟩

/-- A shape outside the 4 × 4 grid (R458). -/
def Shape.outside (sh : Shape) : Bool := sh.w != 0 && (sh.h == 0 || decide (4 < sh.x0 + sh.w) || decide (4 < sh.y0 + sh.h))

/-- DEFINE of a shape is refused with SHAPE (R458). -/
def State.badShape (s : State) (d : Nat) (sh : Shape) (reset : Bool) : Bool :=
  sh.outside || (d == 0 && (reset || !sh.has 0))
  || (List.range 16).any fun k => k != d && sh.sectors.any fun sec => (s.domain k).shape.has sec || (s.domain k).target.has sec

/-! ### The firing of a step -/

/-- The checks of a step in the order of R458, and its effect. -/
def dctlBody (stepNo : Nat) (s : State) (fr : Firing) (run : State → Nat → Fired) : Fired :=
  let a := fr.a64 0
  let d := bits a 0 4
  let dm := s.domain d
  let inOrder := if stepNo = 0 then dm.step == 0 || dm.step == 5 || dm.step == 7 else dm.step == stepNo
  if !fr.any then .done s
  else if !s.fromRoot (.element fr.t fr.c) then domainFault 1
  else if !inOrder then domainFault 2
  else if stepNo = 0 ∧ s.badShape d (shapeOf a) (bitAt fr.f.imm.toNat 3) = true then domainFault 3
  else if bits a 14 50 ≠ 0 then domainFault 4
  else run { s with firstDctl := true } d

/-- A new domain (R443, R458, R464, R472): its registers, measurement, instance numbers, counters and fault queue start afresh. DESIGN CHOICE (log 67): a thermal clamp
in force when a domain is dissolved stays under its number, so that a domain defined anew under it starts clamped. -/
def State.newDomain (s : State) (d : Nat) (target : Shape) : State :=
  let dm := s.domain d
  { s.setDomain d { dm with
      target := target, step := 1, asidTable := 0, div := 2, reserveLevel := 1, lastInst := 0, measure := 0, fallback := false,
      resetting := false } with
    insts := s.insts.filter fun x => x.domain != d, pool := s.pool.filter fun e => e.domain != d,
    launches := s.launches.filter fun r => r.domain != d, sched := SMap.erase s.sched d, halts := SMap.erase s.halts d,
    faultQueues := SMap.erase s.faultQueues d, fences := s.fences.filter (fun f => f.domain != d), imageCache := s.imageCache.filter (fun c => c.1 != d),
    loaderStatus := SMap.erase s.loaderStatus d }

/-- DCTL DEFINE (R458). -/
def execDctlDefine (f : Slot) (s : State) : Host.Outcome State Fault Refusal :=
  fire (.dctlDefine f) (fun s fr => dctlBody 0 s fr fun s d =>
    let dm := s.domain d
    let target := shapeOf (fr.a64 0)
    let reset := bitAt fr.f.imm.toNat 3
    if dm.shape.w = 0 then .done (s.newDomain d target)
    else .done (s.setDomain d { dm with target := target, step := 1, resetting := reset, measure := if reset then 0 else dm.measure })) s

/-- An instance in the leaving sectors is halted, and the domain's lath is told (R458). -/
def State.evictInst (s : State) (d : Nat) (x : Inst) : State :=
  let s1 := if x.phase == .running then s.haltInst x else s
  s1.send { s1.unitRecord (s1.lathTile d) 13 5 0 0 with inst := x.number }

/-- DCTL QUIESCE (R458). -/
def execDctlQuiesce (f : Slot) (s : State) : Host.Outcome State Fault Refusal :=
  fire (.dctlQuiesce f) (fun s fr => dctlBody 1 s fr fun s d =>
    let dm := s.domain d
    let s1 := s.setDomain d { dm with busy := true }
    let mine := s.insts.filter fun x => x.domain == d && x.phase != .retired
    let hit := mine.filter fun x => x.region.any fun t => dm.leaving.contains (sectorOf t)
    let s2 := if dm.resetting then mine.foldl (fun s x => s.releaseInst d x.number true) s1 else hit.foldl (fun s x => s.evictInst d x) s1
    .done (s2.noteQuiesce d)) s

/-- DCTL SCRUB (R458): the caches of the domain are invalidated as by TLBIR with ALL; the rest follows once that has drained. -/
def execDctlScrub (f : Slot) (s : State) : Host.Outcome State Fault Refusal :=
  fire (.dctlScrub f) (fun s fr => dctlBody 2 s fr fun s d =>
    let v : Invalidation :=
      { id := s.nextInval, tile := 0xFFFF, ctx := 0, count := 0, domain := d, asid := none, page := 0, pages := 0, applied := [], old := [] }
    let r : Request := { id := s.nextAccess, kind := .scrub d v.id, e := 0, a := 0, b := 0 }
    .done { s.setDomain d { s.domain d with busy := true } with
      invals := s.invals ++ [v], nextInval := s.nextInval + 1, requests := s.requests ++ [r], nextAccess := s.nextAccess + 1 }) s

/-- A queue of a scrubbed sector: its stopped commands are lost and it is detached (R458). -/
def State.scrubQueue (s : State) (q : Nat) : State :=
  let s1 := s.detach q
  s1.setCmdQueue q { s1.cmdQueue q with commands := [], done := s1.tail q, stopped := false, owed := 0, inbox := [] }

/-- A sector scrubbed (R458). -/
def State.scrubSector (s : State) (sec : Nat) : State :=
  let mine (t : Nat) : Bool := decide (t < 4608) && sectorOf t == sec
  let cols := (List.range 64).filter fun c => sectorOfColumn c == sec
  let qs := s.queues.filter fun q => (if q.1 < 256 then sectorOfColumn (q.1 / 4) else q.1 - 256) == sec
    || (q.2.attached && !q.2.seq && mine q.2.owner)
  let s1 := qs.foldl (fun s q => if (if q.1 < 256 then sectorOfColumn (q.1 / 4) else q.1 - 256) == sec then s.scrubQueue q.1 else s.detach q.1) s
  let m1 := (List.range s.tileCount).foldl (fun m t => if mine t then m.zeroRange (padPA t 0) 0x40000 else m) s1.mem
  let m2 := cols.foldl (fun m c => m.zeroRange (vaultPA c 0) 0x2000000) m1
  { s1 with
    mem := m2.zeroRange (2 * 2 ^ 48 + sec * 2 ^ 33) s.nearDramSize,
    tiles := s1.tiles.map fun t =>
      if mine t.1 then (t.1, { Tile.clean with fences := t.2.fences, health := t.2.health }) else t,
    routers := s1.routers.map fun r =>
      if r.1 / 48 % 48 / 12 * 4 + r.1 % 48 / 12 = sec then (r.1, { Router.clean with link := r.2.link, miss := r.2.miss }) else r,
    stencils := s1.stencils.map fun x => if cols.contains x.1 then (x.1, Stencil.clean) else x,
    stencilCmds := s1.stencilCmds.filter fun c => !cols.contains c.column && !mine c.tile,
    seqs := s1.seqs.filter fun x => !cols.contains x.1,
    outstanding := s1.outstanding.filter fun o => !mine o.tile,
    requests := s1.requests.filter fun r => !(s1.outstanding.any fun o => o.id == r.id && mine o.tile),
    accesses := s1.accesses.filter fun a => !(a.number == 0 && mine a.tile) }

/-- TLBSY_DRAINED (R453, R458): every invalidation that a TLBSY waits for has drained and its destination is written; the drained invalidation of a SCRUB lets
the scrub of the leaving sectors be performed. -/
def execTlbsyDrained (request : Nat) (s : State) : Host.Outcome State Fault Refusal :=
  match s.requests.find? fun r => r.id = request with
  | none => .next s
  | some r =>
    let s1 : State := { s with requests := s.requests.filter fun x => x.id != request }
    match r.kind with
    | .tlbsy count ids =>
      if !s.allDrained ids then .next s
      else match s.outstanding.find? fun o => o.id = request with
        | none => .next s1.sweepInvals
        | some o => .next (s1.sweepInvals.deliver o (List.replicate 8 count))
    | .scrub d id =>
      if !s.allDrained [id] then .next s
      else
        let s2 := (s1.domain d).leaving.foldl State.scrubSector s1.sweepInvals
        .next (s2.setDomain d { s2.domain d with busy := false, step := 3 })
    | _ => .next s

/-- A writer that joins a domain's scope does so with the group's open epoch (R459). -/
def State.joinScope (s : State) (d : Nat) (secs : List Nat) : State :=
  let g := s.group 4 d
  (s.writerList.filter fun w => match writerSector w with
      | some sec => secs.contains sec
      | none => false).foldl (fun s w =>
    let wr := s.writer w
    s.setWriter w { wr with
      views := set9 wr.views 4 g.opened, closed := set9 wr.closed 4 g.closed, log := set9 wr.log 4 [(g.opened, none)],
      lifts := wr.lifts.filter fun e => witLvl e.2 != 4 }) s

/-- STENCIL_CTL of the columns of reassigned sectors is zero (R418). -/
def State.clearPools (s : State) (secs : List Nat) : State :=
  { s with stencils := s.stencils.filter fun x => !secs.contains (sectorOfColumn x.1) }

/-- DCTL SWITCH (R458, R459): ownership moves at one instant. -/
def execDctlSwitch (f : Slot) (s : State) : Host.Outcome State Fault Refusal :=
  fire (.dctlSwitch f) (fun s fr => dctlBody 3 s fr fun s d =>
    let dm := s.domain d
    if dm.joining.any fun sec => s.domainOf sec != none && s.domainOf sec != some d then domainFault 2
    else
      let s1 := (s.noteCycles (dm.leaving ++ dm.joining)).clearPools (dm.leaving ++ dm.joining)
      let s2 := s1.setDomain d { dm with shape := dm.target, step := 4, joined := dm.joining }
      let s3 := s2.joinScope d dm.joining
      if dm.target.w = 0 then
        .done ((List.range 256).foldl (fun s k =>
          let x := s.keySlot k
          if x.domain = d ∧ x.state ≠ .unassigned then s.startClear k true else s) s3)
      else if dm.shape.w = 0 then .done { s3 with mem := s3.mem.putBlob 0 (mailboxPA d) ⟨32, 0⟩ }
      else .done s3) s

/-- The groups that a lath image is loaded into, by origin, each with those of the sectors that it covers (R84): every sector at its own corner, or for an image
of level 4 or 5 the whole domain, or device, at its corner. -/
def State.lathGroups (s : State) (d : Nat) (g : Image) (secs : List Nat) : List ((Nat × Nat) × List Nat) :=
  let sh := (s.domain d).shape
  if g.level ≤ 3 then secs.map fun sec => ((12 * (sec % 4), 12 * (sec / 4)), [sec])
  else [(if g.level = 4 then (12 * sh.x0, 12 * sh.y0) else (0, 0), secs)]

/-- What of a lath image falls into a group: on the lath tiles of its sectors, and the data records that lie in those sectors. -/
def Image.lathPart (g : Image) (ox oy : Nat) (secs : List Nat) : Image :=
  let here (x y z : Nat) : Bool := (secs.flatMap lathTiles).contains (anyTile (ox + x) (oy + y) z)
  { g with
    tiles := g.tiles.filter fun t => here t.x t.y t.z, routers := g.routers.filter fun r => here r.x r.y r.z,
    ports := g.ports.filter fun p => here p.x p.y p.z,
    data := g.data.filter fun r => secs.contains (sectorOf (anyTile (ox + r.x) (oy + r.y) r.z)) }

/-- A lath image loaded into the lath tiles of sectors of a domain, with all its data records that lie in those sectors (R19, R92, R458): laths belong to no
instance, and their out ports are linked to nothing (R18, R321). -/
def State.loadLath (s : State) (d : Nat) (g : Image) (secs : List Nat) : State :=
  (s.lathGroups d g secs).foldl (fun s gr =>
    let own := g.lathPart gr.1.1 gr.1.2 gr.2
    let rg : Region := { ox := gr.1.1, oy := gr.1.2, oz := 0, tiles := gr.2.flatMap lathTiles, reserve := none }
    (s.loadImage own rg 0 0).openPorts rg own.ports) s

/-- The lath image of a domain. -/
def State.lathImage (s : State) (d : Nat) : Option StoredImage := (s.lathImages.find? fun x => x.1 = d).map (·.2)

/-- A shape can hold an image of level 4 or 5 (R85). -/
def Shape.holds (sh : Shape) (g : Image) : Bool :=
  match g.level with
  | 4 => decide (g.w ≤ sh.w) && decide (g.h ≤ sh.h)
  | 5 => sh.sectors.length == 16
  | _ => true

/-- Why a lath image cannot be loaded into a domain of this shape (R74, R85, R94): there is none, or the loader refuses it. DESIGN CHOICE (log 39): the spec names no
status for a sound image without the LATH flag, which the model refuses with LOAD_BAD_HEADER. -/
def State.lathFail (s : State) (d : Nat) (sh : Shape) (im : Option StoredImage) : Option Nat :=
  match im with
  | none => some 0x23
  | some im => match loadCheck s.variant sh.sites (s.signatureOk d im) im with
    | some fl => some fl.status.code
    | none =>
      if im.parse.1.lath = false then some (LoadStatus.code .badHeader)
      else if sh.holds im.parse.1 then none else some (LoadStatus.code .noRegion)

/-- DCTL RELOAD (R458): when the image is refused, STEP reads 7 and the root lath receives the status. -/
def execDctlReload (f : Slot) (s : State) : Host.Outcome State Fault Refusal :=
  fire (.dctlReload f) (fun s fr => dctlBody 4 s fr fun s d =>
    let dm := s.domain d
    if dm.joined.isEmpty then .done (s.setDomain d { dm with step := 5 })
    else match s.lathImage d, s.lathFail d dm.shape (s.lathImage d) with
      | some im, none =>
        let g := im.parse.1
        let s1 := s.loadLath d g dm.joined
        let s2 := s1.measureLoad d g im.id
        .done (s2.setDomain d { s2.domain d with step := 5, joined := [] }).noteAllReady
      | _, st => .done { s.setDomain d { dm with step := 7, joined := [] } with loaderStatus := SMap.set s.loaderStatus d (st.getD 0) }) s

/-! ### The domain registers (R443, R444) -/

/-- A shape as DOM_STATE shows it. -/
def Shape.code (sh : Shape) : Nat := sh.x0 + sh.y0 * 2 ^ 2 + sh.w * 2 ^ 4 + sh.h * 2 ^ 7

/-- DOM_STATE as a load reads it. -/
def State.loadDomState (s : State) (d : Nat) : Nat :=
  let dm := s.domain d
  dm.shape.code + (if dm.step = 0 ∨ 4 ≤ dm.step then dm.shape else dm.target).code * 2 ^ 10 + dm.step * 2 ^ 20 + dm.busy.toNat * 2 ^ 23
    + dm.fallback.toNat * 2 ^ 24

def State.loadDomCtl (s : State) (d : Nat) : Nat :=
  let dm := s.domain d
  dm.asidTable + dm.div * 2 ^ 36 + dm.reserveLevel * 2 ^ 40

def State.loadDomShare (s : State) (d : Nat) : Nat :=
  let dm := s.domain d
  dm.shareHost + dm.shareLpddr * 2 ^ 7 + dm.shareCxl * 2 ^ 14 + dm.farBase * 2 ^ 21 + dm.farSize * 2 ^ 36

def State.loadDomTrust (s : State) (d : Nat) : Nat := (s.domain d).trustTable + (s.domain d).trustCount * 2 ^ 36

/-- A store to DOM_CTL is performed, or discarded (R443); a new divider takes effect at the next clock edge (R27). -/
def State.storeDomCtl (s : State) (src : Issuer) (d : Nat) (value : BitVec 64) : State :=
  let v := value.toNat
  let div := bits v 36 4
  let level := bits v 40 2
  if !s.fromLath src (some d) || decide (div < 2) || decide (8 < div) || level == 0 || level == 3 then s
  else
    let s1 := s.noteCycles (s.domain d).shape.sectors
    s1.setDomain d { s1.domain d with asidTable := bits v 0 36, div := div, reserveLevel := level }

/-- A share is 0 of a resource that a far-memory range uses (R444): LPDDR-6 offsets lie below 1,024 GiB, CXL from there on (R443). -/
def starved (lpddr cxl base size : Nat) : Bool :=
  size != 0 && ((lpddr == 0 && decide (base < 1024)) || (cxl == 0 && decide (1024 < base + size)))

/-- A store to DOM_SHARE is performed, or discarded (R443, R444). -/
def State.storeDomShare (s : State) (src : Issuer) (d : Nat) (value : BitVec 64) : State :=
  let v := value.toNat
  let host := bits v 0 7
  let lpddr := bits v 7 7
  let cxl := bits v 14 7
  let base := bits v 21 15
  let size := bits v 36 15
  let others := (List.range 16).filter fun k => k != d
  let sum (get : Domain → Nat) : Nat := others.foldl (fun acc k => acc + get (s.domain k)) 0
  let exceeds := decide (64 < host + sum (·.shareHost)) || decide (64 < lpddr + sum (·.shareLpddr)) || decide (64 < cxl + sum (·.shareCxl))
  if !s.fromRoot src || exceeds || decide (16383 < base) || decide (16384 < size) || starved lpddr cxl base size then s
  else s.setDomain d { s.domain d with shareHost := host, shareLpddr := lpddr, shareCxl := cxl, farBase := base, farSize := size }

/-- A store to DOM_TRUST is performed, or discarded (R443). -/
def State.storeDomTrust (s : State) (src : Issuer) (d : Nat) (value : BitVec 64) : State :=
  let v := value.toNat
  if !s.fromLath src (some d) || decide (64 < bits v 36 7) then s
  else s.setDomain d { s.domain d with trustTable := bits v 0 36, trustCount := bits v 36 7 }

/-- DOM_CTL_WRITE (R443). -/
def execDomCtlWrite (src : Issuer) (d : Nat) (value : BitVec 64) (s : State) : Host.Outcome State Fault Refusal :=
  if 16 ≤ d then .fault .absentUnit else .next (s.storeDomCtl src d value)

/-- DOM_SHARE_WRITE (R443, R444). -/
def execDomShareWrite (src : Issuer) (d : Nat) (value : BitVec 64) (s : State) : Host.Outcome State Fault Refusal :=
  if 16 ≤ d then .fault .absentUnit else .next (s.storeDomShare src d value)

/-- DOM_TRUST_WRITE (R443, R460). -/
def execDomTrustWrite (src : Issuer) (d : Nat) (value : BitVec 64) (s : State) : Host.Outcome State Fault Refusal :=
  if 16 ≤ d then .fault .absentUnit else .next (s.storeDomTrust src d value)

end Sys2Proof.Machine
end

