-- ==== Sys2Proof/Machine/Registers.lean ====
section
/-! DEFINITION. The device registers of tier 0x8 (R225, R508): which register stands at an offset, what a load of it reads, what a store to it does, and the
stores that have events of their own. -/

namespace Sys2Proof.Machine

open Sys2Proof

/-! ### Where the registers stand -/

/-- A device register. -/
inductive Reg where
  | devFeature | bootStatus | deviceTime | farMem | mscf
  | epochPeriod (level : Nat)
  | mscHits (sector : Nat) | mscMisses (sector : Nat)
  | queueCtl (queue : Nat)
  | schedStatus (domain : Nat) | ingressCtl (port : Nat) | haltCtl (domain : Nat)
  | stencilCtl (column : Nat)
  | domState (domain : Nat) | domCtl (domain : Nat) | domShare (domain : Nat) | domTrust (domain : Nat)
  | energyCtl (domain : Nat) | attestCtl (domain : Nat) | faultCtl (domain : Nat)
  | keyOwner (slot : Nat)
  | sectorHealth (sector : Nat) | tileHealth (tile : Nat)
  deriving DecidableEq, Repr

/-- Index of a register in an array of registers of 8 bytes each. -/
def arrayAt (off base count : Nat) : Option Nat :=
  if base ≤ off ∧ off < base + 8 * count then some ((off - base) / 8) else none

/-- The arrays of registers: base, count, register. -/
def regArrays : List (Nat × Nat × (Nat → Reg)) :=
  [(0x210, 7, fun k => .epochPeriod (k + 2)), (0x1000, 32, fun k => if k % 2 = 0 then .mscHits (k / 2) else .mscMisses (k / 2)),
   (0x10000, 272, .queueCtl), (0x20000, 16, .schedStatus), (0x20100, 32, .ingressCtl), (0x20200, 16, .haltCtl), (0x30000, 64, .stencilCtl),
   (0x40000, 16, .domState), (0x40100, 16, .domCtl), (0x40200, 16, .domShare), (0x40300, 16, .domTrust), (0x40400, 16, .energyCtl),
   (0x40500, 16, .attestCtl), (0x40600, 16, .faultCtl), (0x41000, 256, .keyOwner), (0x50000, 16, .sectorHealth), (0x60000, 4608, .tileHealth)]

/-- The register that holds an offset of tier 0x8; none where there is no register (R223, R225). -/
def regAt (off : Nat) : Option Reg :=
  if off < 8 then some .devFeature
  else if off < 16 then some .bootStatus
  else if off < 24 then some .deviceTime
  else if off < 32 then some .farMem
  else if 0x100 ≤ off ∧ off < 0x108 then some .mscf
  else regArrays.findSome? fun r => (arrayAt off r.1 r.2.1).map r.2.2

/-! ### Reading -/

/-- DEV_FEATURE (R3). -/
def Variant.feature (v : Variant) : Nat :=
  (if v.layers4 then 4 else 2) + v.stencil.toNat * 2 ^ 4 + (if v.dies8 then 8 else 4) * 2 ^ 8 + v.cxl.toNat * 2 ^ 12
    + (if v.layers4 then 0x9640 else 0x9620) * 2 ^ 16 + 8 * 2 ^ 32 + 32 * 2 ^ 40

/-- BOOT_STATUS (R35). -/
def State.loadBootStatus (s : State) : Nat :=
  s.phase + s.bootCode * 2 ^ 4 + (s.tiles.any fun t => t.2.health.bootRetired).toNat * 2 ^ 12 + s.bootCount * 2 ^ 16

/-- INGRESS_CTL (R350): ENABLE reads 0 when ENTRY_TILE lies outside DOMAIN. -/
def State.portEnabled (s : State) (n : Nat) : Bool := (s.port n).enable && s.tileDomain (s.port n).entryTile == some (s.port n).domain

def State.loadIngressCtl (s : State) (n : Nat) : Nat :=
  let p := s.port n
  p.domain + (s.portEnabled n).toNat * 2 ^ 4 + p.entryTile * 2 ^ 5 + p.discarding.toNat * 2 ^ 18 + p.bad * 2 ^ 19

/-- SCHED_STATUS (R364). -/
def State.loadSchedStatus (s : State) (d : Nat) : Nat :=
  let sc := s.schedOf d
  sc.late + sc.defer * 2 ^ 24 + sc.reason * 2 ^ 40 + (s.poolOf d).length * 2 ^ 44

/-- TILE_HEALTH (R486). -/
def State.loadTileHealth (s : State) (t : Nat) : Nat :=
  let h := (s.tile t).health
  h.retired.toNat + h.spare.toNat * 2 + h.bootRetired.toNat * 4 + h.ceCount * 2 ^ 8 + h.compareFails * 2 ^ 24 + h.reason * 2 ^ 28

/-- SECTOR_HEALTH (R488). -/
def State.loadSectorHealth (s : State) (sec : Nat) : Nat :=
  SMap.get s.sectorCe sec 0 + SMap.get s.sectorUe sec 0 * 2 ^ 24 + s.sparesIn sec * 2 ^ 40 + s.retiredIn sec * 2 ^ 44
    + (s.replaceReq.contains sec).toNat * 2 ^ 53

/-- The value that a register holds. -/
def State.regValue (s : State) (r : Reg) : Nat :=
  match r with
  | .devFeature => s.variant.feature
  | .bootStatus => s.loadBootStatus
  | .deviceTime => s.ns % 2 ^ 64
  | .farMem => s.lpddrGib + (if s.variant.cxl then s.cxlGib else 0) * 2 ^ 16
  | .mscf => s.loadMscf
  | .epochPeriod l => at9 s.periods l
  | .mscHits k => SMap.get s.mscHits k 0
  | .mscMisses k => SMap.get s.mscMisses k 0
  | .queueCtl q => s.loadQueueCtl q
  | .schedStatus d => s.loadSchedStatus d
  | .ingressCtl n => s.loadIngressCtl n
  | .haltCtl d => SMap.get s.halts d 0 % 2 ^ 64
  | .stencilCtl c => s.loadStencilCtl c
  | .domState d => s.loadDomState d
  | .domCtl d => s.loadDomCtl d
  | .domShare d => s.loadDomShare d
  | .domTrust d => s.loadDomTrust d
  | .energyCtl d => s.loadEnergyCtl d
  | .attestCtl d => (s.attestError.contains d).toNat * 2
  | .faultCtl d => s.loadFaultCtl d
  | .keyOwner k => s.loadKeyOwner k
  | .sectorHealth k => s.loadSectorHealth k
  | .tileHealth t => s.loadTileHealth t

/-- Whom a register belongs to (R508). -/
inductive RegOwner where
  | every
  | domain (d : Option Nat)
  deriving DecidableEq, Repr

def State.regOwner (s : State) (r : Reg) : RegOwner :=
  match r with
  | .devFeature => .every
  | .bootStatus => .every
  | .deviceTime => .every
  | .farMem => .every
  | .mscf => .every
  | .epochPeriod _ => .every
  | .mscHits k => .domain (s.domainOf k)
  | .mscMisses k => .domain (s.domainOf k)
  | .queueCtl q => .domain (s.queueDomain q)
  | .schedStatus d => .domain (some d)
  | .ingressCtl n => .domain (some (s.port n).domain)
  | .haltCtl d => .domain (some d)
  | .stencilCtl c => .domain (s.domainOf (sectorOfColumn c))
  | .domState d => .domain (some d)
  | .domCtl d => .domain (some d)
  | .domShare d => .domain (some d)
  | .domTrust d => .domain (some d)
  | .energyCtl d => .domain (some d)
  | .attestCtl d => .domain (some d)
  | .faultCtl d => .domain (some d)
  | .keyOwner k => .domain (if (s.keySlot k).state = .unassigned then none else some (s.keySlot k).domain)
  | .sectorHealth k => .domain (s.domainOf k)
  | .tileHealth t => .domain (s.tileDomain t)

/-- A register may be read by an issuer (R508): contexts of domain 0 and the host read every register. -/
def State.mayRead (s : State) (src : Issuer) (r : Reg) : Bool :=
  match src with
  | .host => true
  | .element t _ => s.tileDomain t == some 0 || match s.regOwner r with
    | .every => true
    | .domain d => d.isSome && d == s.tileDomain t

/-- The 64-bit word at an offset of tier 0x8 as an issuer reads it (R225, R508). -/
def State.loadRegister (s : State) (src : Issuer) (off : Nat) : Nat :=
  match regAt off with
  | none => 0
  | some r => if s.mayRead src r then s.regValue r else 0

/-! ### Attestation (R463, R464) -/

/-- Bytes as numbers. -/
def bytesOf (f : Nat → Byte) (n : Nat) : List Nat := (List.range n).map fun k => (f k).toNat

/-- The report without its signature (R463). -/
def reportBlob (s : State) (d nonce : Nat) : Blob :=
  blobOf [(4, 0x52414A46), (2, 1), (1, d), (1, 0), (32, nonce), (8, s.loadBootStatus), (8, s.variant.feature), (8, s.loadDomState d),
    (32, (s.domain 0).measure.toNat), (32, (s.domain d).measure.toNat), (16, shakeBytes (bytesOf Config.identityByte 1952) 16), (8, s.ns), (8, 0)]

/-- What a request asks for: the bytes that the verifier writes, with the address; none when it is refused. -/
def attestAnswer (s : State) (d pa : Nat) : Option (Nat × Blob) :=
  let req := s.readFor d pa 64
  let dest := bits req 256 64
  let op := bits req 320 8
  let mine (a n : Nat) : Bool := s.ownsPA d a && s.backed a && s.ownsPA d (a + n - 1) && s.backed (a + n - 1) && tierOf a == tierOf (a + n - 1)
    && decide (tierOf a < 8)
  let out : Blob := if op = 1 then ⟨1952, (bytesOf Config.identityByte 1952).foldr (fun b acc => b + 256 * acc) 0⟩
    else Blob.concat [reportBlob s d (bits req 0 256),
      ⟨3309, (bytesOf (fun k => Config.signatureByte (s.free * 4096 + k)) 3309).foldr (fun b acc => b + 256 * acc) 0⟩, ⟨3, 0⟩]
  if !mine pa 64 || (List.range 5).any (fun k => s.mem.isPoison (pa / 16 + k) && decide (16 * (pa / 16 + k) < pa + 64))
      || bits req 328 184 ≠ 0 || decide (1 < op) || !mine dest out.len then none
  else some (dest, out)

/-- A store to ATTEST_CTL of a domain (R463): the verifier answers the request that it names, in one step; what it writes with the device identity key is a
free value (log 8). -/
def State.storeAttestCtl (s : State) (src : Issuer) (d : Nat) (value : BitVec 64) : State :=
  if !s.fromLath src (some d) then s
  else match attestAnswer s d (bits value.toNat 0 52) with
    | none => { s with attestError := NSet.insert s.attestError d }
    | some (dest, out) =>
      { s with mem := (s.mem.write dest out.len out.val).cleanRange dest out.len, attestError := NSet.remove s.attestError d, free := s.free + 1 }

/-- OP of the request that a store to ATTEST_CTL of a domain names. -/
def State.attestOp (s : State) (d : Nat) (value : BitVec 64) : Nat := (s.readFor d (bits value.toNat 0 52) 64 / 2 ^ 320) % 256

/-- ATTEST_PUBLIC_KEY (R463): a store to ATTEST_CTL whose request has OP 1. -/
def execAttestPublicKey (src : Issuer) (d : Nat) (value : BitVec 64) (s : State) : Host.Outcome State Fault Refusal :=
  if 16 ≤ d then .fault .absentUnit else .next (if s.attestOp d value = 1 then s.storeAttestCtl src d value else s)

/-- ATTEST_REPORT (R463): a store to ATTEST_CTL whose request has another OP; one that asks for neither sets ERROR. -/
def execAttestReport (src : Issuer) (d : Nat) (value : BitVec 64) (s : State) : Host.Outcome State Fault Refusal :=
  if 16 ≤ d then .fault .absentUnit else .next (if s.attestOp d value ≠ 1 then s.storeAttestCtl src d value else s)

/-! ### Writing -/

/-- A store to INGRESS_CTL is performed, or discarded (R350). -/
def State.storeIngressCtl (s : State) (src : Issuer) (n : Nat) (value : BitVec 64) : State :=
  let v := value.toNat
  if !s.fromRoot src || decide (4607 < bits v 5 13) then s
  else s.setPort n { s.port n with domain := bits v 0 4, enable := bitAt v 4, entryTile := bits v 5 13 }

/-- A store to HALT_CTL of a domain requests the pre-emption of an instance, or is discarded (R376). -/
def State.storeHaltCtl (s : State) (src : Issuer) (d : Nat) (value : BitVec 64) : State :=
  if !s.fromLath src (some d) || SMap.get s.halts d 0 != 0 || (s.inst? d value.toNat).isNone then s
  else { s with halts := SMap.set s.halts d value.toNat }

/-- A store to TILE_HEALTH retires a tile, or is discarded (R486). -/
def State.storeTileHealth (s : State) (src : Issuer) (t : Nat) (value : BitVec 64) : State :=
  let reason := bits value.toNat 28 4
  if s.fromRoot src && bitAt value.toNat 0 && s.mayRetire t reason then s.retireTile t reason else s

/-- A store of a whole 64-bit word to a register: performed as the register's own rule allows, otherwise discarded (R4, R225, R508). -/
def State.storeReg (s : State) (src : Issuer) (r : Reg) (value : BitVec 64) : State :=
  match r with
  | .devFeature => s
  | .bootStatus => s
  | .deviceTime => s
  | .farMem => s
  | .mscf => s.storeMscf src value
  | .epochPeriod l => s.storeEpochPeriod src l value
  | .mscHits _ => s
  | .mscMisses _ => s
  | .queueCtl q => s.storeQueueCtl src q value
  | .schedStatus _ => s
  | .ingressCtl n => s.storeIngressCtl src n value
  | .haltCtl d => s.storeHaltCtl src d value
  | .stencilCtl c => s.storeStencilCtl src c value
  | .domState _ => s
  | .domCtl d => s.storeDomCtl src d value
  | .domShare d => s.storeDomShare src d value
  | .domTrust d => s.storeDomTrust src d value
  | .energyCtl d => s.storeEnergyCtl src d value
  | .attestCtl d => s.storeAttestCtl src d value
  | .faultCtl d => s.storeFaultCtl src d value
  | .keyOwner _ => s
  | .sectorHealth _ => s
  | .tileHealth t => s.storeTileHealth src t value

/-- A store of a word at an offset of tier 0x8. -/
def State.storeRegister (s : State) (src : Issuer) (off : Nat) (value : BitVec 64) : State :=
  match regAt off with
  | none => s
  | some r => s.storeReg src r value

/-- INGRESS_CTL_WRITE (R350). -/
def execIngressCtlWrite (src : Issuer) (port : Nat) (value : BitVec 64) (s : State) : Host.Outcome State Fault Refusal :=
  if 32 ≤ port then .fault .absentUnit else .next (s.storeIngressCtl src port value)

/-- REGISTER_WRITE (R4, R225, R508): a store of a word to tier 0x8 by its physical address. -/
def execRegisterWrite (src : Issuer) (address : Nat) (value : BitVec 64) (s : State) : Host.Outcome State Fault Refusal :=
  .next (if tierOf address = 8 ∧ address % 8 = 0 then s.storeRegister src (address % 2 ^ 48) value else s)

end Sys2Proof.Machine
end

