-- ==== Sys2Proof/Machine/Boot.lean ====
section
/-! DEFINITION. Boot (R32-R36), thermal control and power (R29-R31), the host link (R21, R36, R351, R357) and device time (R373). -/

namespace Sys2Proof.Machine

open Sys2Proof

/-! ### Boot (R32, R33) -/

/-- The sequencer stops with a code, and reports the phase in which it stopped on the management port (R33). -/
def State.stopBoot (s : State) (phase code : Nat) : State :=
  { s with phase := 15, bootCode := code, management := s.management ++ [.boot phase code] }

/-- A failed tile of the repair map (R16): a spare of its column serves it while one is left; a tile in excess of the two spares stays retired. -/
def State.repairTile (s : State) (t : Nat) : State :=
  let tl := s.tile t
  let left := s.sparesOf (columnOf t)
  if 0 < left then
    { s.setTile t { tl with health := { tl.health with spare := true } } with spares := SMap.set s.spares (columnOf t) (left - 1) }
  else s.setTile t { tl with health := { tl.health with retired := true, bootRetired := true, reason := 1 } }

/-- The repair map applied (R16, R32). -/
def State.applyRepair (s : State) : State := s.flash.failed.eraseDups.foldl State.repairTile s

/-- The module configuration record taken (R26, R243, R306, R460, R506). -/
def State.takeConfig (s : State) : State :=
  let fl := s.flash
  { s with lpddrGib := fl.lpddrGib, cxlGib := fl.cxlGib, providerKeys := fl.providerKeys, moduleIndex := fl.moduleIndex,
           ringLevels := fl.ringLevels.getD ringDefault,
           periods := set9 (set9 (set9 s.periods 6 fl.podPeriod) 7 fl.spanPeriod) 8 fl.systemPeriod }

/-- Domain 0 as it stands at boot (R36, R443): the whole device. -/
def bootDomain : Domain :=
  { Domain.clean with shape := ⟨0, 0, 4, 4⟩, target := ⟨0, 0, 4, 4⟩, shareHost := 64, shareLpddr := 64, shareCxl := 64, farSize := 16384 }

/-- One phase performed (R32): the next state, or the code that stops the boot. -/
def State.bootPhase (s : State) (found : BootFindings) (n : Nat) : Except Nat State :=
  match n with
  | 1 => if s.flash.readable then .ok s else .error 1
  | 2 => if !s.flash.repairSigned then .error 2 else if !s.flash.configSigned then .error 3 else .ok s.takeConfig
  | 3 => .ok s.applyRepair
  | 4 => .ok { s with mem := s.mem.zeroRange 0 (2 * 2 ^ 48) }
  | 5 => if found.puf then .error 4 else .ok s
  | 6 =>
    let s1 := { s with lathImages := (s.flash.rootLath.map fun im => (0, im)).toList ++ s.lathImages.filter fun x => x.1 != 0 }
    if (s1.lathFail 0 bootDomain.shape s1.flash.rootLath).isSome then .error 5 else .ok s1
  | 7 => match s.flash.rootLath with
    | none => .error 5
    | some im =>
      let g := im.parse.1
      let s1 := { s.setDomain 0 bootDomain with mem := s.mem.putBlob 0 (mailboxPA 0) ⟨32, 0⟩ }
      .ok ((s1.loadLath 0 g [0]).measureLoad 0 g im.id)
  | _ => .ok s

/-- The phase in which a power or thermal fault stops the boot (R31, R33): phase 0 when it is found before the flash is read, otherwise the phase that runs. -/
def State.faultPhase (s : State) (found : BootFindings) : Nat := if s.phase = 0 ∧ found.reading = false then 0 else s.phase + 1

/-- BOOT_SEQUENCE (R31-R35): the next phase is performed. A sensor above 100 °C stops the boot before the flash is read; a power or thermal fault stops it in the
phase that runs. -/
def execBootSequence (found : BootFindings) (s : State) : Host.Outcome State Fault Refusal :=
  if !s.powered || decide (8 ≤ s.phase) then .next s
  else
    let n := s.phase + 1
    if found.power then .next (s.stopBoot (s.faultPhase found) 6)
    else if found.thermal then .next (s.stopBoot (s.faultPhase found) 7)
    else match s.bootPhase found n with
      | .error code => .next (s.stopBoot n code)
      | .ok s1 => .next { s1 with phase := n }

/-- The state after a reset of the module, which keeps what lies outside the stack, the bytes of memory, and, while power is on, time (log 43): DEVICE_NS
starts at 0 at a power-good (R373). -/
def State.restart (s0 : State) : State :=
  let s := if s0.powered then s0 else { s0 with ticks := 0, nsAdded := 0, nsFloor := 0, lastSlew := 0, timeJoined := false }
  let cycles : SMap (Nat × Nat) := (List.range 16).map fun sec => (sec, (s.ticks, 0))
  { State.reset with
    variant := s.variant, bootCount := min (s.bootCount + 1) 0xFFFF, mem := s.mem, flash := s.flash, library := s.library,
    lathImages := s.lathImages, management := s.management, hostOut := s.hostOut, cycleBase := cycles,
    ticks := s.ticks, nsAdded := s.nsAdded, nsFloor := s.nsFloor, lastSlew := s.lastSlew, timeJoined := s.timeJoined, agenda := s.agenda,
    free := s.free, steps := s.steps, cur := s.cur }

/-- MANAGEMENT_PORT_RESET (R31, R33, R472): the module starts its boot again. -/
def execManagementPortReset (s : State) : Host.Outcome State Fault Refusal := .next s.restart

/-- POWER_REMOVE (R31): the stack loses power; a management-port reset leaves that state. DESIGN CHOICE (log 43): the spec does not say what near DRAM, HBM and
far memory hold after that, and the model keeps their bytes. -/
def execPowerRemove (s : State) : Host.Outcome State Fault Refusal :=
  .next { State.restart { s with powered := false } with bootCount := s.bootCount, powered := false }

/-! ### Thermal control (R29-R31) -/

/-- Domains that exist. -/
def State.liveDomains (s : State) : List Nat := (List.range 16).filter fun d => (s.domain d).shape.w != 0

/-- A thermal record to a domain's lath (R468, R471). -/
def State.thermalRecord (s : State) (d cause sensor tenths : Nat) : State :=
  s.send { s.unitRecord (s.lathTile d) 18 cause 0 (BitVec.ofNat 128 (sensor % 2 ^ 16 + tenths % 2 ^ 16 * 2 ^ 16)) with halted := cause == 2 }

/-- Every domain's thermal clamp set or released at once, with the sectors' cycles noted before the divider changes (R27, R372). -/
def State.clampAll (s : State) (ds : List Nat) (on : Bool) : State :=
  ds.foldl (fun s d => s.setDomain d { s.domain d with clamp := on }) (s.noteCycles (ds.flatMap fun d => (s.domain d).shape.sectors))

/-- THERMAL_CLAMP (R29): a sector's hottest sensor has reached 105 °C. -/
def execThermalClamp (sector sensor tenths : Nat) (s : State) : Host.Outcome State Fault Refusal :=
  if 16 ≤ sector then .fault .absentUnit
  else match s.domainOf sector with
    | none => .next s
    | some d => .next (if (s.domain d).clamp then s else (s.clampAll [d] true).thermalRecord d 1 sensor tenths)

/-- THERMAL_CLAMP_RELEASE (R29): every sensor of the domain has stayed below 100 °C for 1 ms. -/
def execThermalClampRelease (d : Nat) (s : State) : Host.Outcome State Fault Refusal :=
  if 16 ≤ d then .fault .absentUnit
  else .next (if (s.domain d).clamp && !s.thermalHalt then s.clampAll [d] false else s)

/-- THERMAL_HALT (R29, R31): a sensor has reached 115 °C; every element stops at a firing boundary, and each lath has a record. -/
def execThermalHalt (sensor tenths : Nat) (s : State) : Host.Outcome State Fault Refusal :=
  .next (if s.thermalHalt || s.phase != 8 then s
    else s.liveDomains.foldl (fun s d => s.thermalRecord d 2 sensor tenths) { s with thermalHalt := true })

/-- THERMAL_RESUME (R31): every sensor has stayed below 100 °C for 10 ms; the elements go on where they stopped, under a clamp of every domain. -/
def execThermalResume (sensor tenths : Nat) (s : State) : Host.Outcome State Fault Refusal :=
  .next (if !s.thermalHalt then s
    else s.liveDomains.foldl (fun s d => s.thermalRecord d 3 sensor tenths)
      { s.clampAll s.liveDomains true with thermalHalt := false })

/-! ### The host link -/

/-- HOST_LINK_ENUMERATION (R36). -/
def execHostLinkEnumeration (s : State) : Host.Outcome State Fault Refusal := .next { s with linkUp := true }

/-- An access that is let through before the device is ready: to DEV_FEATURE or BOOT_STATUS (R36). -/
def earlyAccess (a : HostAccess) : Bool :=
  let lo := 8 * 2 ^ 48
  let span (pa len : Nat) : Bool := decide (lo ≤ pa) && decide (pa + len ≤ lo + 16)
  match a with
  | .read pa len => span pa len
  | .write pa data => span pa data.length

/-- HOST_REQUEST_REFUSED (R36): an access before the device is ready completes with Unsupported Request; a refused write is dropped. -/
def execHostRequestRefused (access : HostAccess) (s : State) : Host.Outcome State Fault Refusal :=
  if s.phase = 8 ∨ earlyAccess access = true ∨ s.linkUp = false then .next s
  else match access with
    | .read _ _ => .next { s with hostOut := s.hostOut ++ [.unsupported] }
    | .write _ _ => .next s

/-- A byte as the host reads it: of a register, of a window without contents of its own or an unbacked address (free values), or of memory (R223, R225,
R351, R455; log 44). -/
def State.hostByte (s : State) (pa : Nat) : Byte :=
  let off := pa % 2 ^ 48
  if tierOf pa = 8 then BitVec.ofNat 8 (s.loadRegister .host (off / 8 * 8) / 256 ^ (off % 8))
  else if (tierOf pa = 9 ∧ off < 32 * 0x10000) ∨ s.backed pa = false then
    BitVec.ofNat 8 ((Config.openGranule (s.free * 2 ^ 52 + pa / 16)).toNat / 256 ^ (pa % 16))
  else BitVec.ofNat 8 ((s.granuleAs 0 (pa / 16)).toNat / 256 ^ (pa % 16))

/-- What a read of the host returns: a poisoned TLP when a granule is poisoned (R482). -/
def State.hostRead (s : State) (pa len : Nat) : HostReply :=
  if tierOf pa ≠ 8 ∧ ((List.range (len + 15)).any fun k => decide (k < len) && s.mem.isPoison ((pa + k) / 16)) = true then .poisoned
  else .data ((List.range len).map fun k => s.hostByte (pa + k))

/-- Bytes of a host write put into memory under no key, into what stands there (R455): a granule written whole loses its poison (R481); a write to an unbacked address
writes nothing (log 44). -/
def State.hostStore (s : State) (pa : Nat) (data : List Byte) : State :=
  if s.backed pa = false then s else
  { s with mem := (data.zipIdx.foldl (fun m b => m.setByte (pa + b.2) b.1) (s.mem.underKey 0 pa data.length)).cleanRange pa data.length }

/-- Bytes as a little-endian number. -/
def leBytes (data : List Byte) : Nat := data.foldr (fun b acc => b.toNat + 256 * acc) 0

/-- A write of the host to an ingress window (R21, R351): a beat of the port's stream, with a store number of the ingress writer; none when it waits for room
in the port's buffer. -/
def State.hostBeat (s : State) (n off : Nat) (data : List Byte) : State :=
  let p := s.port n
  if off % 64 ≠ 0 ∨ data.length ≠ 64 ∨ s.portEnabled n = false then s
  else if 64 ≤ p.buffer.length then s
  else (s.takeNumber (4944 + n / 4)).2.setPort n { p with buffer := p.buffer ++ [BitVec.ofNat 512 (leBytes data)] }

/-- The registers whose words a write of the host covers whole are stored, in ascending order; a word that it covers in part is left (R225). -/
def State.hostWords (s : State) (off : Nat) (data : List Byte) : State :=
  let skip := (8 - off % 8) % 8
  (List.range ((data.length - skip) / 8)).foldl (fun s k =>
    s.storeRegister .host (off + skip + 8 * k) (BitVec.ofNat 64 (leBytes ((data.drop (skip + 8 * k)).take 8)))) s

/-- A write of the host performed (R225, R351, R357): whole words of registers, a beat of an ingress window, or bytes of memory or of a mailbox page, where
messages that found no room are then written (R359). -/
def State.hostWrite (s : State) (pa : Nat) (data : List Byte) : State :=
  let off := pa % 2 ^ 48
  if tierOf pa = 8 then s.hostWords off data
  else if tierOf pa = 9 ∧ off < 32 * 0x10000 then s.hostBeat (off / 0x10000) (off % 0x10000) data
  else if tierOf pa = 9 ∧ off / 0x10000 = 0x10000 then (s.hostStore pa data).flushMail
  else s.hostStore pa data

/-- The granules of a host access; none of an address that is not backed. -/
def State.hostGranules (s : State) (pa n : Nat) : List Nat :=
  if n = 0 ∨ s.backed pa = false then [] else (List.range ((pa + n - 1) / 16 + 1 - pa / 16)).map (pa / 16 + ·)

/-- HOST_LINK_ACCESS (R21, R36, R225, R351, R357, R482): an access of the host is performed in link order. -/
def execHostLinkAccess (access : HostAccess) (s : State) : Host.Outcome State Fault Refusal :=
  if s.linkUp = false ∨ (s.phase ≠ 8 ∧ earlyAccess access = false) then .next s
  else match access with
    | .read pa len => .next (({ s with hostOut := s.hostOut ++ [s.hostRead pa len], free := s.free + 1 } : State).lookUp (s.hostGranules pa len))
    | .write pa data => .next ((s.hostWrite pa data).lookUp (s.hostGranules pa data.length))

/-! ### Device time (R373) -/

/-- DEVICE_TIME_SLEW (R373): DEVICE_NS is slewed by one nanosecond at most in every microsecond, or stepped forward once when the module joins its system;
it never decreases. -/
def execDeviceTimeSlew (forward : Bool) (ns : Nat) (s : State) : Host.Outcome State Fault Refusal :=
  let moved (by' : Int) (s : State) : State := { s with nsAdded := s.nsAdded + by', nsFloor := s.ns, lastSlew := s.ticks }
  if forward ∧ s.timeJoined = false then .next { moved ns s with timeJoined := true }
  else if 1 < ns ∨ s.ticks < s.lastSlew + 4800 then .next s
  else .next (moved (if forward then ns else -(ns : Int)) s)

/-- PRECISION_TIME_MEASUREMENT (R373): the host link answers with DEVICE_NS. -/
def execPrecisionTimeMeasurement (s : State) : Host.Outcome State Fault Refusal :=
  .next (if s.linkUp then { s with hostOut := s.hostOut ++ [.time s.ns] } else s)

end Sys2Proof.Machine
end

