-- ==== Sys2Proof/Machine/Float.lean ====
section
/-! DEFINITION. The floating-point, conversion, packing, codebook, flag and noise instructions (R160-R178), opcodes 0x20 to 0x26. The streaming
chains of opcode 0x27 are in Machine/Chains.lean. -/

namespace Sys2Proof.Machine

open Sys2Proof

/-- Results lane by lane with a condition (R161). -/
def LaneResult.ofF (rs : List (FRes × Bool)) : LaneResult :=
  { vals := rs.map (·.1.bits), cond := rs.map (·.2), flags := rs.map (·.1.flags) }

/-- The function of a floating-point instruction applied to one 32-bit lane: to its low part, or in a packed form to both halves (R100, R160,
R161). -/
def floatLane (ty : Ty) (pk : Bool) (g : Fmt → Nat → Nat → Nat → FRes) (a b c : Nat) : FRes × Bool :=
  let fm := Fmt.ofTy ty
  if pk then
    let lo := g fm (a % 2 ^ 16) (b % 2 ^ 16) (c % 2 ^ 16)
    let hi := g fm (a / 2 ^ 16) (b / 2 ^ 16) (c / 2 ^ 16)
    (⟨lo.bits + hi.bits * 2 ^ 16, lo.flags ||| hi.flags⟩, fm.isNonzero lo.bits || fm.isNonzero hi.bits)
  else
    let r := g fm a b c
    (r, fm.isNonzero r.bits)

/-- A floating-point instruction (R160). -/
def fireFloat (i : Instr) (g : Slot → Fmt → Nat → Nat → Nat → FRes) (s : State) : Host.Outcome State Fault Refusal :=
  fireLanes i (fun _ fr =>
    .ofF ((List.range 16).map fun l =>
      floatLane fr.f.ty fr.f.pk (g fr.f) (lane 32 fr.a.val l) (lane 32 fr.b.val l) (lane 32 fr.cc.val l))) s

/-- A floating-point compare (R167): the condition is the result. -/
def fireFcmp (i : Instr) (which : Nat) (s : State) : Host.Outcome State Fault Refusal :=
  fireLanes i (fun _ fr =>
    let rs := (List.range 16).map fun l =>
      (Fmt.ofTy fr.f.ty).compare which (lane 32 fr.a.val l) (lane 32 fr.b.val l)
    { vals := rs.map (·.1.toNat), cond := rs.map (·.1), flags := rs.map (·.2) }) s

/-- FADD (R163). -/
def execFadd (f : Slot) (s : State) : Host.Outcome State Fault Refusal := fireFloat (.fadd f) (fun _ fm a b _ => fm.add a b) s
/-- FSUB (R163). -/
def execFsub (f : Slot) (s : State) : Host.Outcome State Fault Refusal := fireFloat (.fsub f) (fun _ fm a b _ => fm.sub a b) s
/-- FMUL (R163). -/
def execFmul (f : Slot) (s : State) : Host.Outcome State Fault Refusal := fireFloat (.fmul f) (fun _ fm a b _ => fm.mul a b) s
/-- FFMA (R163). -/
def execFfma (f : Slot) (s : State) : Host.Outcome State Fault Refusal := fireFloat (.ffma f) (fun _ fm a b c => fm.fma a b c) s
/-- FMIN (R163). -/
def execFmin (f : Slot) (s : State) : Host.Outcome State Fault Refusal := fireFloat (.fmin f) (fun _ fm a b _ => fm.minmax false a b) s
/-- FMAX (R163). -/
def execFmax (f : Slot) (s : State) : Host.Outcome State Fault Refusal := fireFloat (.fmax f) (fun _ fm a b _ => fm.minmax true a b) s
/-- FABS (R163). -/
def execFabs (f : Slot) (s : State) : Host.Outcome State Fault Refusal := fireFloat (.fabs f) (fun _ fm a _ _ => fm.signOp false a) s
/-- FNEG (R163). -/
def execFneg (f : Slot) (s : State) : Host.Outcome State Fault Refusal := fireFloat (.fneg f) (fun _ fm a _ _ => fm.signOp true a) s
/-- FSCL (R164): n is the whole lane of B, or the matching half in a packed form. -/
def execFscl (f : Slot) (s : State) : Host.Outcome State Fault Refusal :=
  fireFloat (.fscl f) (fun f fm a b _ => fm.scale a (sgn (if f.pk then 16 else 32) b)) s
/-- FRND (R165): FN in IMM [2:0], NXE in [3]. -/
def execFrnd (f : Slot) (s : State) : Host.Outcome State Fault Refusal :=
  fireFloat (.frnd f) (fun f fm a _ _ =>
    fm.integral ((RMode.ofCode (f.imm.toNat % 8)).getD .rne) (bitAt f.imm.toNat 3) a) s
/-- FDIV (R166). -/
def execFdiv (f : Slot) (s : State) : Host.Outcome State Fault Refusal := fireFloat (.fdiv f) (fun _ fm a b _ => fm.div a b) s
/-- FSQRT (R166). -/
def execFsqrt (f : Slot) (s : State) : Host.Outcome State Fault Refusal := fireFloat (.fsqrt f) (fun _ fm a _ _ => fm.sqrt a) s
/-- FRSQ (R166). -/
def execFrsq (f : Slot) (s : State) : Host.Outcome State Fault Refusal := fireFloat (.frsq f) (fun _ fm a _ _ => fm.rsqrt a) s
/-- FRCP (R166). -/
def execFrcp (f : Slot) (s : State) : Host.Outcome State Fault Refusal := fireFloat (.frcp f) (fun _ fm a _ _ => fm.rcp a) s
/-- FCMPEQ (R167). -/
def execFcmpeq (f : Slot) (s : State) : Host.Outcome State Fault Refusal := fireFcmp (.fcmpeq f) 0 s
/-- FCMPLT (R167). -/
def execFcmplt (f : Slot) (s : State) : Host.Outcome State Fault Refusal := fireFcmp (.fcmplt f) 1 s
/-- FCMPLE (R167). -/
def execFcmple (f : Slot) (s : State) : Host.Outcome State Fault Refusal := fireFcmp (.fcmple f) 2 s
/-- FCMPUN (R167). -/
def execFcmpun (f : Slot) (s : State) : Host.Outcome State Fault Refusal := fireFcmp (.fcmpun f) 3 s
/-- FEX2 (R168). -/
def execFex2 (f : Slot) (s : State) : Host.Outcome State Fault Refusal := fireFloat (.fex2 f) (fun _ fm a _ _ => fm.exp2 a) s
/-- FLG2 (R168). -/
def execFlg2 (f : Slot) (s : State) : Host.Outcome State Fault Refusal := fireFloat (.flg2 f) (fun _ fm a _ _ => fm.log2 a) s
/-- FTNH (R168). -/
def execFtnh (f : Slot) (s : State) : Host.Outcome State Fault Refusal := fireFloat (.ftnh f) (fun _ fm a _ _ => fm.tanh a) s
/-- FSIG (R168). -/
def execFsig (f : Slot) (s : State) : Host.Outcome State Fault Refusal := fireFloat (.fsig f) (fun _ fm a _ _ => fm.sigmoid a) s

/-- CVT (R170): each lane of A from the source type to TYPE under the context's RMODE and SAT. -/
def execCvt (src : Ty) (f : Slot) (s : State) : Host.Outcome State Fault Refusal :=
  fireLanes (.cvt src f) (fun s fr =>
    let word := (s.ctx fr.t fr.c).word
    .ofF ((List.range fr.n).map fun l =>
      let r := cvtVal src fr.f.ty word.rmode word.sat (lane fr.w fr.a.val l)
      (r, typedNonzero fr.f.ty r.bits))) s

/-- CBENC (R174, R175): the codebook is B read whole. -/
def execCbenc (f : Slot) (s : State) : Host.Outcome State Fault Refusal :=
  fireLanes (.cbenc f) (fun _ fr =>
    .ofF ((List.range 16).map fun l =>
      let r := cbEncode (Fmt.ofTy fr.f.ty) (bits fr.b.val.toNat 0 256) (lane 32 fr.a.val l)
      (r, r.bits != 0))) s

/-- CBDEC (R174, R175). -/
def execCbdec (f : Slot) (s : State) : Host.Outcome State Fault Refusal :=
  fireLanes (.cbdec f) (fun _ fr =>
    .ofF ((List.range 16).map fun l =>
      let r := cbDecode fr.f.ty (bits fr.b.val.toNat 0 256) (lane 32 fr.a.val l)
      (r, (Fmt.ofTy fr.f.ty).isNonzero r.bits))) s

/-- The type as which PACK reads its sources (R172). -/
def packSource (ty : Ty) : Ty :=
  if ty.isFloat then .f32 else if ty.signed then .s32 else .z32

/-- PACK (R172). -/
def execPack (f : Slot) (s : State) : Host.Outcome State Fault Refusal :=
  fireLanes (.pack f) (fun s fr =>
    let word := (s.ctx fr.t fr.c).word
    let ty := fr.f.ty
    .ofF ((List.range 16).map fun l =>
      let x := cvtVal (packSource ty) ty word.rmode word.sat (lane 32 fr.a.val l)
      let y := cvtVal (packSource ty) ty word.rmode word.sat (lane 32 fr.b.val l)
      (⟨x.bits + y.bits * 2 ^ ty.width, x.flags ||| y.flags⟩, typedNonzero ty x.bits || typedNonzero ty y.bits))) s

/-- UNPK (R173): IMM selects the part of each lane. -/
def execUnpk (f : Slot) (s : State) : Host.Outcome State Fault Refusal :=
  fireLanes (.unpk f) (fun _ fr =>
    let ty := fr.f.ty
    .ofF ((List.range 16).map fun l =>
      let x := bits (lane 32 fr.a.val l) (ty.width * fr.f.imm.toNat) ty.width
      let r : FRes :=
        if ty.isFloat then widenF32 ty x
        else ⟨if ty.signed then signExtend ty.width 32 x else x, 0⟩
      (r, typedNonzero (packSource ty) r.bits))) s

/-- FFLG (R176): reads FP_FLAGS and clears those of the mask CLR, in one firing. -/
def execFflg (f : Slot) (s : State) : Host.Outcome State Fault Refusal :=
  fire (.fflg f) (fun s fr =>
    if !fr.any then .done (applyLanes s fr { vals := [], cond := [], flags := [] })
    else
      let cx := s.ctx fr.t fr.c
      let v := cx.flags.toNat
      let r : LaneResult := { vals := List.replicate 16 v, cond := List.replicate 16 (v != 0), flags := [] }
      let s1 := s.setCtx fr.t fr.c { cx with flags := cx.flags &&& ~~~(BitVec.ofNat 6 fr.f.imm.toNat) }
      .done (applyLanes s1 fr r)) s

/-- FNOI (R177): the key is A read whole, the token index the lane of B. -/
def execFnoi (f : Slot) (s : State) : Host.Outcome State Fault Refusal :=
  fireLanes (.fnoi f) (fun _ fr =>
    let key := fr.a.val.toNat
    .of ((List.range 16).map fun l =>
      let n := noise32 (bits key 0 64) (bits key 64 32) (bits key 96 32) (lane 32 fr.b.val l)
      withC (if fr.f.ty = .f32 then (Fmt.f32.round false (2 * (n / 2 ^ 9) + 1) (-24)).bits else n))) s

/-- FGUM (R178). -/
def execFgum (f : Slot) (s : State) : Host.Outcome State Fault Refusal := fireFloat (.fgum f) (fun _ _ a _ _ => fgum a) s

end Sys2Proof.Machine
end

