-- ==== Sys2Proof/Machine/Chains.lean ====
section
/-! DEFINITION. Streaming chains (R60-R62, R123, R179-R187): CHN, CHNW, and the issue of one group. -/

namespace Sys2Proof.Machine

open Sys2Proof

/-! ### Stages -/

/-- The type as which a stage reads its operands (R180). -/
def Stage.reads (st : Stage) : Ty := if st.opc = 0x24 then (Ty.ofCode st.sub).getD .f32 else st.ty

/-- The operand selects of a stage that the operation uses. -/
def Stage.sels (st : Stage) : List Sel := [st.a, st.b, st.c]

/-- The type as which the stages read a stream, if some stage selects it (R180). -/
def streamType (sts : List Stage) (sel : Sel) : Option Ty := (sts.find? fun st => st.sels.contains sel).map Stage.reads

/-- The type of the chain's output (R62, R180). -/
def outputType (sts : List Stage) : Ty := ((sts.getLast?).map (·.ty)).getD .f32

/-- Elements of a group: 16 lanes, or 16 packed pairs (R181). -/
def groupElements (sts : List Stage) : Nat := if sts.any (·.pk) then 32 else 16

/-- An integer operation of a stage (R141, R142, R144-R146) on one element. -/
def stageInt (opc sub : Nat) (ty : Ty) (a b c : Nat) : Nat :=
  let w := ty.laneWidth
  let sg := ty.signed
  let x := intOf sg w a
  let y := intOf sg w b
  match opc, sub with
  | 0x10, 0 => (iAdd w x y).1
  | 0x10, 1 => (iSub w x y).1
  | 0x10, 2 => (iSat sg w (x + y)).1
  | 0x10, 3 => (iSat sg w (x - y)).1
  | 0x10, 4 => (iNeg w x).1
  | 0x10, _ => (iAbs w x).1
  | 0x11, 0 => (iMul w x y).1
  | 0x11, _ => (iMad w x y (intOf sg w c)).1
  | 0x13, 0 => (iMin w x y).1
  | 0x13, 1 => (iMax w x y).1
  | 0x13, 2 => (iMin w x y).1
  | 0x13, _ => (iMax w x y).1
  | 0x14, 0 => a &&& b
  | 0x14, 1 => a ||| b
  | 0x14, 2 => a ^^^ b
  | 0x14, 3 => iNot w a
  | 0x14, _ => a &&& iNot w b
  | 0x15, 0 => iShl w a b
  | 0x15, 1 => iShr w a b
  | 0x15, 2 => iSra w a b
  | _, _ => iRol w a b

/-- A floating-point operation of a stage (R163, R166, R168) on one element. -/
def stageFloat (opc sub : Nat) (fm : Fmt) (a b c : Nat) : FRes :=
  match opc, sub with
  | 0x20, 0 => fm.add a b
  | 0x20, 1 => fm.sub a b
  | 0x20, 2 => fm.mul a b
  | 0x20, 3 => fm.fma a b c
  | 0x20, 4 => fm.minmax false a b
  | 0x20, 5 => fm.minmax true a b
  | 0x20, 6 => fm.signOp false a
  | 0x20, _ => fm.signOp true a
  | 0x21, 0 => fm.div a b
  | 0x21, 1 => fm.sqrt a
  | 0x21, 2 => fm.rsqrt a
  | 0x21, _ => fm.rcp a
  | _, 0 => fm.exp2 a
  | _, 1 => fm.log2 a
  | _, 2 => fm.tanh a
  | _, _ => fm.sigmoid a

/-- The instruction that a stage names, on one element (R181). -/
def Stage.result (st : Stage) (word : CtxWord) (a b c : Nat) : FRes :=
  if st.opc = 0x24 then cvtVal st.reads st.ty word.rmode word.sat a
  else if st.ty.isFloat then stageFloat st.opc st.sub (Fmt.ofTy st.ty) a b c
  else ⟨stageInt st.opc st.sub st.ty a b c, 0⟩

/-- CONST of a stage, extended as imm (R41, R60). -/
def Stage.constant (st : Stage) : Nat :=
  lane (if st.pk then 16 else 32) (immOperand st.reads st.pk st.const) 0

/-- The value that a select picks for an element (R181). -/
def Stage.pick (st : Stage) (sel : Sel) (prev x y : Nat) : Nat :=
  match sel with
  | .unused => 0
  | .previous => prev
  | .x => x
  | .y => y
  | .const => st.constant

/-- One element through the stages: the last stage's result, and the flags of all of them (R123, R181). -/
def chainElement (word : CtxWord) (x y : Nat) : List Stage → FRes → FRes
  | [], acc => acc
  | st :: rest, acc =>
    let r := st.result word (st.pick st.a acc.bits x y) (st.pick st.b acc.bits x y) (st.pick st.c acc.bits x y)
    chainElement word x y rest ⟨r.bits, acc.flags ||| r.flags⟩

/-! ### CHN and CHNW -/

/-- The stages of a chain descriptor of a tile. -/
def State.stages (s : State) (t k : Nat) : List Stage := at4 (s.tile t).chains k

/-- The streams that a descriptor reads, with their types and bases. -/
def chainStreams (sts : List Stage) (run : ChainRun) : List (Nat × Ty × Nat) :=
  ((streamType sts .x).map fun ty => (2, ty, run.x)).toList ++ ((streamType sts .y).map fun ty => (3, ty, run.y)).toList

/-- The bytes that a chain's groups have still to read or write, as ranges of virtual addresses. -/
def State.chainRanges (s : State) (t : Nat) (r : ChainRun) : List (Nat × Nat) :=
  let sts := s.stages t r.desc
  let n := groupElements sts
  let range (ty : Ty) (base : Nat) : Nat × Nat := (base + r.next * n * ty.width / 8, (r.groups - r.next) * n * ty.width / 8)
  (chainStreams sts r).map (fun x => range x.2.1 x.2.2) ++ [range (outputType sts) r.z]

/-- A page of what a chain has still to touch is of a kind. -/
def State.chainOn (s : State) (t : Nat) (r : ChainRun) (kind : MemType → Bool) : Bool :=
  (s.chainRanges t r).any fun x => (List.range ((x.1 % 2 ^ 16 + x.2 + 2 ^ 16 - 1) / 2 ^ 16)).any fun k =>
    match (translate s (cacheOfElement t) ((s.tileDomain t).getD 0) (s.tile t).asid (x.1 + k * 2 ^ 16)).1 with
    | .leaf l => kind l.mt
    | _ => false

/-- A base that the descriptor selects is not aligned to its element size (R184). Of several, the record names X before Y before Z (DESIGN CHOICE, log 67). -/
def chainMisaligned (sts : List Stage) (x y z : Nat) : Option Nat :=
  let bad (o : Option Ty) (a : Nat) : Bool := match o with
    | some ty => a % unitBytes ty != 0
    | none => false
  if bad (streamType sts .x) x then some x
  else if bad (streamType sts .y) y then some y
  else if z % unitBytes (outputType sts) ≠ 0 then some z
  else none

/-- CHN (R179, R183, R184): GROUPS numbers are taken at once, and D names the last of them. -/
def execChn (f : Slot) (s : State) : Host.Outcome State Fault Refusal :=
  fire (.chn f) (fun s fr =>
    let desc := bits fr.f.imm.toNat 0 2
    let groups := fr.f.imm.toNat / 16
    let sts := s.stages fr.t desc
    if !fr.any then .done s
    else match chainMisaligned sts (fr.a64 0) (fr.b64 0) (lane 64 fr.cc.val 0) with
      | some va => .stop { cls := 3, cause := 1, address := va }
      | none =>
        let num := s.takeNumbers fr.t groups
        let run : ChainRun :=
          { desc := desc, ctx := fr.c, slot := fr.slot, flags := 0, next := 0, groups := groups, x := fr.a64 0, y := fr.b64 0,
            z := lane 64 fr.cc.val 0, number := num.1, order := num.2.nextAccess, fence := (s.tile fr.t).fences,
            reads := [], write := none }
        let s1 := { num.2 with nextAccess := num.2.nextAccess + 1 }
        let tl := s1.tile fr.t
        let s2 := s1.setTile fr.t { tl with queue := tl.queue ++ [{ run with stalls := s1.chainOn fr.t run fun m => m == .strong }] }
        let w := localWitness fr.t (num.1 + groups - 1)
        let e := widenMask 64 fr.e
        .done ((s2.writeDest fr.t fr.c fr.slot fr.f.dst 64 fr.e (List.replicate 8 w.toNat)).updatePred fr.t fr.c fr.f.predOp
          fr.f.predReg e (splat (w != 0)))) s

/-- CHNW (R185, R186). -/
def execChnw (f : Slot) (s : State) : Host.Outcome State Fault Refusal :=
  fire (.chnw f) (fun s fr =>
    let cx := s.ctx fr.t fr.c
    match cx.chainFault with
    | some (cls, cause, desc, group, addr) =>
      .stop { cls := cls, cause := cause, address := addr, chain := true, detail := BitVec.ofNat 128 (desc + group * 2 ^ 32) }
    | none =>
      if !fr.any then .done (applyLanes s fr { vals := [], cond := [], flags := [] })
      else
        let n := cx.chainsDone
        let s1 := s.setCtx fr.t fr.c { cx with flags := cx.flags ||| cx.chainFlags, chainsDone := 0, chainFlags := 0 }
        .done (applyLanes s1 fr (.of (List.replicate 16 (withC n))))) s

/-! ### The issue of groups -/

/-- The lanes of group k of a stream: consecutive elements of its type (R181). -/
def groupLanes (ty : Ty) (base k n : Nat) : List LaneReq :=
  (List.range n).map fun l => elementAt ty base ((k * n + l : Nat) : Int) l

/-- An access of a chain's group (R183). -/
def chainAccess (s : State) (t : Nat) (run : ChainRun) (number : Nat) (ps : List Piece) : Access :=
  { Access.blank s t run.ctx run.slot with
    origin := .chain, order := run.order, fence := run.fence, number := number, pieces := ps }

/-- The queue of a tile replaced. -/
def State.setQueue (s : State) (t : Nat) (q : List ChainRun) : State :=
  let tl := s.tile t
  s.setTile t { tl with queue := q }

/-- A group met a fault (R185): the chain ends, the context's later chains are discarded, a record that halts nothing goes out, and
the context's next CHNW will halt. Where an earlier chain of the context has faulted already, the halt reports that one (DESIGN CHOICE, log 67). -/
def chainFaulted (s : State) (t : Nat) (run : ChainRun) (fi : FaultInfo) : State :=
  let tl := s.tile t
  let s1 := s.setTile t { tl with queue := tl.queue.filter fun r => r.ctx != run.ctx }
  let cx := s1.ctx t run.ctx
  let s2 := s1.setCtx t run.ctx
    { cx with chainFlags := cx.chainFlags ||| run.flags,
              chainFault := cx.chainFault.or (some (fi.cls, fi.cause, run.desc, run.next, fi.address)) }
  s2.report t run.ctx run.slot
    { fi with chain := true, lane := 0xFFFF, operands := none, detail := BitVec.ofNat 128 (run.desc + run.next * 2 ^ 32) }

/-- Reads of a group put in flight, stream by stream, or the first fault (R183, R185). -/
def issueReads (s : State) (t : Nat) (run : ChainRun) (n : Nat) : List (Nat × Ty × Nat) → Except FaultInfo (State × List (Nat × Nat))
  | [] => .ok (s, [])
  | (stream, ty, base) :: rest =>
    let plan := planLanes s t (groupLanes ty base run.next n)
    match accessFault ty { r := true } anyTier false nullWitness plan.1 with
    | some fi => .error fi
    | none =>
      let sp := plan.1.filterMap (Planned.spot ty)
      let a := chainAccess plan.2 t run 0 (ascending (piecesOf plan.2 sp fun xs => .load (xs.map (·.lane))))
      match issueReads (plan.2.issue a) t run n rest with
      | .error fi => .error fi
      | .ok (s1, ids) => .ok (s1, (stream, a.id) :: ids)

/-- The value that an access read in a lane. -/
def Access.laneValue (a : Access) (l : Nat) : Nat := ((a.results.find? fun r => r.1 == l).map (·.2)).getD 0

/-- The access that a chain's read of a stream made. -/
def State.streamAccess (s : State) (run : ChainRun) (stream : Nat) : Option Access :=
  (run.reads.find? fun r => r.1 == stream).bind fun r => s.accesses.find? fun a => a.id == r.2

/-- The group that has been read goes through the stages and is written (R181, R183). -/
def writeGroup (s : State) (t : Nat) (run : ChainRun) (sts : List Stage) : State :=
  let n := groupElements sts
  let cx := s.ctx t run.ctx
  let val (stream l : Nat) : Nat := ((s.streamAccess run stream).map fun a => a.laneValue l).getD 0
  let rs := (List.range n).map fun l => chainElement cx.word (val 2 l) (val 3 l) sts ⟨0, 0⟩
  let fl := rs.foldl (fun acc r => acc ||| r.flags) run.flags
  let ty := outputType sts
  let s0 := { s with accesses := s.accesses.filter fun a => !(run.reads.any fun r => r.2 == a.id) }
  let plan := planLanes s0 t (groupLanes ty run.z run.next n)
  match accessFault ty { w := true } anyTier false nullWitness plan.1 with
  | some fi => chainFaulted s0 t { run with flags := fl } fi
  | none =>
    let sp := plan.1.filterMap (Planned.spot ty)
    let op (xs : List Spot) : PieceOp :=
      let d := storeBits (fun l => (rs.getD l ⟨0, 0⟩).bits) xs
      .store d.1 d.2 false false
    let a := chainAccess plan.2 t run (run.number + run.next) (ascending (piecesOf plan.2 sp op))
    (plan.2.issue a).setQueue t
      ({ run with flags := fl, next := run.next + 1, reads := [], write := some a.id } :: (s.tile t).queue.tail)

/-- The chain at the head of the queue has written its last group (R186). -/
def chainCompleted (s : State) (t : Nat) (run : ChainRun) : State :=
  let s1 := s.setQueue t (s.tile t).queue.tail
  let cx := s1.ctx t run.ctx
  s1.setCtx t run.ctx { cx with chainsDone := min (cx.chainsDone + 1) 255, chainFlags := cx.chainFlags ||| run.flags }

/-- A group starts: its reads are issued (R182). -/
def startGroup (s : State) (t : Nat) (run : ChainRun) (sts : List Stage) : State :=
  match issueReads s t run (groupElements sts) (chainStreams sts run) with
  | .error fi => chainFaulted s t run fi
  | .ok (s1, []) => writeGroup s1 t run sts
  | .ok (s1, ids) => s1.setQueue t ({ run with reads := ids } :: (s.tile t).queue.tail)

/-- The reads of a group have arrived. -/
def readsDone (s : State) (run : ChainRun) : Bool :=
  run.reads.all fun r => s.accesses.all fun a => a.id != r.2 || a.pieces.isEmpty

/-- A group goes into the vector pipeline in a cycle in which no slot of the element fires (R182). -/
def State.pipeFree (s : State) (t : Nat) : Bool := s.elementRuns t && (s.arbitrate t).isNone

/-- A chain's groups go on while its context is not held, and where a replacement lets the queued chains of the tile run out (R187, R387). -/
def State.chainRuns (s : State) (t : Nat) (run : ChainRun) : Bool := s.elementRuns t && (!(s.ctx t run.ctx).held || (s.tile t).draining)

/-- CHAIN_GROUP (R181, R182, R185, R187): the chain at the head of the queue moves: the reads of a group start; once its data have arrived it goes through the
pipeline in a cycle in which no slot fires; and the next group, or the end of the chain, follows when its write has been performed. -/
def execChainGroup (t : Nat) (s : State) : Host.Outcome State Fault Refusal :=
  match (s.tile t).queue with
  | [] => .next s
  | run :: _ =>
    let sts := s.stages t run.desc
    match run.write with
    | some id =>
      if s.accesses.any fun a => a.id == id then .next s
      else if run.next < run.groups then .next (s.setQueue t ({ run with write := none } :: (s.tile t).queue.tail))
      else .next (chainCompleted s t run)
    | none =>
      if run.reads.isEmpty then
        if s.chainRuns t run && (!(chainStreams sts run).isEmpty || s.pipeFree t) then .next (startGroup s t run sts) else .next s
      else if !readsDone s run then .next s
      else
        match run.reads.findSome? fun r => (s.accesses.find? fun a => a.id == r.2).bind (·.poisonAt) with
        | some va =>
          .next (chainFaulted { s with accesses := s.accesses.filter fun a => !(run.reads.any fun r => r.2 == a.id) } t run
            { cls := 6, cause := 1, address := va, performed := true })
        | none => .next (if s.pipeFree t then writeGroup s t run sts else s)

end Sys2Proof.Machine
end

