-- ==== Sys2Proof/Machine/Integer.lean ====
section
/-! DEFINITION. The integer, address and lane instructions (R135-R159), opcodes 0x10 to 0x1B. -/

namespace Sys2Proof.Machine

open Sys2Proof

/-- An integer instruction on the lane values of its sources, read as its type says (R136, R141). -/
def fireInt (i : Instr) (g : Bool → Nat → Int → Int → Int → Nat × Bool) (s : State) : Host.Outcome State Fault Refusal :=
  fireLanes i (fun _ fr =>
    let sg := fr.f.ty.signed
    .of ((List.range fr.n).map fun l =>
      g sg fr.w (intOf sg fr.w (lane fr.w fr.a.val l)) (intOf sg fr.w (lane fr.w fr.b.val l))
        (intOf sg fr.w (lane fr.w fr.cc.val l)))) s

/-- An instruction on the bits of its lanes, with condition `result ≠ 0` (R145). -/
def fireBits (i : Instr) (g : Slot → Nat → Nat → Nat → Nat) (s : State) : Host.Outcome State Fault Refusal :=
  fireLanes i (fun _ fr =>
    .of ((List.range fr.n).map fun l => withC (g fr.f fr.w (lane fr.w fr.a.val l) (lane fr.w fr.b.val l)))) s

/-- A compare (R149): the result of a lane is its condition. -/
def fireCmp (i : Instr) (g : Int → Int → Bool) (s : State) : Host.Outcome State Fault Refusal :=
  fireInt i (fun _ _ a b _ => ((g a b).toNat, g a b)) s

/-- An instruction on whole lane lists, with condition `result ≠ 0` (R154). -/
def fireWhole (i : Instr) (g : Firing → List Nat) (s : State) : Host.Outcome State Fault Refusal :=
  fireLanes i (fun _ fr => .of ((g fr).map withC)) s

/-- A lane reduction (R159): one result in every lane of E. -/
def fireReduce (i : Instr) (o : Fold) (s : State) : Host.Outcome State Fault Refusal :=
  fireWhole i (fun fr => List.replicate fr.n (reduceLanes o fr.f.ty.signed fr.w fr.on fr.la)) s

/-- ADD (R141). -/
def execAdd (f : Slot) (s : State) : Host.Outcome State Fault Refusal := fireInt (.add f) (fun _ w a b _ => iAdd w a b) s
/-- SUB (R141). -/
def execSub (f : Slot) (s : State) : Host.Outcome State Fault Refusal := fireInt (.sub f) (fun _ w a b _ => iSub w a b) s
/-- ADDS (R141). -/
def execAdds (f : Slot) (s : State) : Host.Outcome State Fault Refusal := fireInt (.adds f) (fun sg w a b _ => iSat sg w (a + b)) s
/-- SUBS (R141). -/
def execSubs (f : Slot) (s : State) : Host.Outcome State Fault Refusal := fireInt (.subs f) (fun sg w a b _ => iSat sg w (a - b)) s
/-- NEG (R141). -/
def execNeg (f : Slot) (s : State) : Host.Outcome State Fault Refusal := fireInt (.neg f) (fun _ w a _ _ => iNeg w a) s
/-- ABS (R141). -/
def execAbs (f : Slot) (s : State) : Host.Outcome State Fault Refusal := fireInt (.abs f) (fun _ w a _ _ => iAbs w a) s
/-- MUL (R142). -/
def execMul (f : Slot) (s : State) : Host.Outcome State Fault Refusal := fireInt (.mul f) (fun _ w a b _ => iMul w a b) s
/-- MULH (R142). -/
def execMulh (f : Slot) (s : State) : Host.Outcome State Fault Refusal := fireInt (.mulh f) (fun _ w a b _ => iMulh w a b) s
/-- MULHZ (R142). -/
def execMulhz (f : Slot) (s : State) : Host.Outcome State Fault Refusal := fireInt (.mulhz f) (fun _ w a b _ => iMulh w a b) s
/-- MAD (R142). -/
def execMad (f : Slot) (s : State) : Host.Outcome State Fault Refusal := fireInt (.mad f) (fun _ w a b c => iMad w a b c) s
/-- DIVS (R143). -/
def execDivs (f : Slot) (s : State) : Host.Outcome State Fault Refusal := fireInt (.divs f) (fun sg w a b _ => iDiv sg w a b) s
/-- DIVZ (R143). -/
def execDivz (f : Slot) (s : State) : Host.Outcome State Fault Refusal := fireInt (.divz f) (fun sg w a b _ => iDiv sg w a b) s
/-- REMS (R143). -/
def execRems (f : Slot) (s : State) : Host.Outcome State Fault Refusal := fireInt (.rems f) (fun sg w a b _ => iRem sg w a b) s
/-- REMZ (R143). -/
def execRemz (f : Slot) (s : State) : Host.Outcome State Fault Refusal := fireInt (.remz f) (fun sg w a b _ => iRem sg w a b) s
/-- MIN (R144). -/
def execMin (f : Slot) (s : State) : Host.Outcome State Fault Refusal := fireInt (.min f) (fun _ w a b _ => iMin w a b) s
/-- MAX (R144). -/
def execMax (f : Slot) (s : State) : Host.Outcome State Fault Refusal := fireInt (.max f) (fun _ w a b _ => iMax w a b) s
/-- MINZ (R144). -/
def execMinz (f : Slot) (s : State) : Host.Outcome State Fault Refusal := fireInt (.minz f) (fun _ w a b _ => iMin w a b) s
/-- MAXZ (R144). -/
def execMaxz (f : Slot) (s : State) : Host.Outcome State Fault Refusal := fireInt (.maxz f) (fun _ w a b _ => iMax w a b) s
/-- AND (R145). -/
def execAnd (f : Slot) (s : State) : Host.Outcome State Fault Refusal := fireBits (.and f) (fun _ _ a b => a &&& b) s
/-- OR (R145). -/
def execOr (f : Slot) (s : State) : Host.Outcome State Fault Refusal := fireBits (.or f) (fun _ _ a b => a ||| b) s
/-- XOR (R145). -/
def execXor (f : Slot) (s : State) : Host.Outcome State Fault Refusal := fireBits (.xor f) (fun _ _ a b => a ^^^ b) s
/-- NOT (R145). -/
def execNot (f : Slot) (s : State) : Host.Outcome State Fault Refusal := fireBits (.not f) (fun _ w a _ => iNot w a) s
/-- ANDN (R145). -/
def execAndn (f : Slot) (s : State) : Host.Outcome State Fault Refusal := fireBits (.andn f) (fun _ w a b => a &&& iNot w b) s
/-- SHL (R146). -/
def execShl (f : Slot) (s : State) : Host.Outcome State Fault Refusal := fireBits (.shl f) (fun _ w a b => iShl w a b) s
/-- SHR (R146). -/
def execShr (f : Slot) (s : State) : Host.Outcome State Fault Refusal := fireBits (.shr f) (fun _ w a b => iShr w a b) s
/-- SRA (R146). -/
def execSra (f : Slot) (s : State) : Host.Outcome State Fault Refusal := fireBits (.sra f) (fun _ w a b => iSra w a b) s
/-- ROL (R146). -/
def execRol (f : Slot) (s : State) : Host.Outcome State Fault Refusal := fireBits (.rol f) (fun _ w a b => iRol w a b) s
/-- CLZ (R147). -/
def execClz (f : Slot) (s : State) : Host.Outcome State Fault Refusal := fireBits (.clz f) (fun _ w a _ => iClz w a) s
/-- POPC (R147). -/
def execPopc (f : Slot) (s : State) : Host.Outcome State Fault Refusal := fireBits (.popc f) (fun _ w a _ => iPopc w a) s
/-- BREV (R147). -/
def execBrev (f : Slot) (s : State) : Host.Outcome State Fault Refusal := fireBits (.brev f) (fun _ w a _ => iBrev w a) s
/-- BFX (R148): POS in IMM [5:0], LEN in [12:6]. -/
def execBfx (f : Slot) (s : State) : Host.Outcome State Fault Refusal :=
  fireBits (.bfx f) (fun f w a _ => iBfx f.ty.signed w a (bits f.imm.toNat 0 6) (bits f.imm.toNat 6 7)) s
/-- BFI (R148). -/
def execBfi (f : Slot) (s : State) : Host.Outcome State Fault Refusal :=
  fireBits (.bfi f) (fun f _ a b => iBfi a b (bits f.imm.toNat 0 6) (bits f.imm.toNat 6 7)) s
/-- CMPEQ (R149). -/
def execCmpeq (f : Slot) (s : State) : Host.Outcome State Fault Refusal := fireCmp (.cmpeq f) (fun a b => a == b) s
/-- CMPNE (R149). -/
def execCmpne (f : Slot) (s : State) : Host.Outcome State Fault Refusal := fireCmp (.cmpne f) (fun a b => a != b) s
/-- CMPLT (R149). -/
def execCmplt (f : Slot) (s : State) : Host.Outcome State Fault Refusal := fireCmp (.cmplt f) (fun a b => decide (a < b)) s
/-- CMPLE (R149). -/
def execCmple (f : Slot) (s : State) : Host.Outcome State Fault Refusal := fireCmp (.cmple f) (fun a b => decide (a ≤ b)) s
/-- CMPLTZ (R149). -/
def execCmpltz (f : Slot) (s : State) : Host.Outcome State Fault Refusal := fireCmp (.cmpltz f) (fun a b => decide (a < b)) s
/-- CMPLEZ (R149). -/
def execCmplez (f : Slot) (s : State) : Host.Outcome State Fault Refusal := fireCmp (.cmplez f) (fun a b => decide (a ≤ b)) s
/-- MOV (R150). -/
def execMov (f : Slot) (s : State) : Host.Outcome State Fault Refusal := fireBits (.mov f) (fun _ _ a _ => a) s
/-- MOVI (R151): IMM as its 32 bits, or extended to 64 bits. -/
def execMovi (f : Slot) (s : State) : Host.Outcome State Fault Refusal :=
  fireBits (.movi f) (fun f w _ _ =>
    if w = 64 ∧ f.ty.signed then signExtend 32 64 f.imm.toNat else f.imm.toNat) s
/-- SEL (R152): the predicate of SC selects A or B; a 64-bit form tests bit 2j. -/
def execSel (f : Slot) (s : State) : Host.Outcome State Fault Refusal :=
  fireWhole (.sel f) (fun fr =>
    (List.range fr.n).map fun l =>
      if laneOn fr.w (fr.cc.val.setWidth 16) l then lane fr.w fr.a.val l else lane fr.w fr.b.val l) s
/-- LEA (R153): A + B · 2^SHIFT + DISP. -/
def execLea (f : Slot) (s : State) : Host.Outcome State Fault Refusal :=
  fireBits (.lea f) (fun f w a b =>
    wrap w ((a : Int) + (b * 2 ^ bits f.imm.toNat 0 3 : Nat) + sgn 24 (bits f.imm.toNat 8 24))) s
/-- SHUF (R155). -/
def execShuf (f : Slot) (s : State) : Host.Outcome State Fault Refusal :=
  fireWhole (.shuf f) (fun fr => shufLanes fr.n fr.la fr.lb) s
/-- BCST (R156). -/
def execBcst (f : Slot) (s : State) : Host.Outcome State Fault Refusal :=
  fireWhole (.bcst f) (fun fr => List.replicate fr.n (lane fr.w fr.a.val (fr.f.imm.toNat % 16))) s
/-- IDX (R157): the condition marks the lanes below the number of selected values. -/
def execIdx (f : Slot) (s : State) : Host.Outcome State Fault Refusal :=
  fireLanes (.idx f) (fun _ fr =>
    let list := idxList fr.on fr.la fr.lb
    .of ((List.range fr.n).map fun l => (list.getD l 0, decide (l < list.length)))) s
/-- SCAN (R158): OP in IMM [1:0], EXCL in [2]. -/
def execScan (f : Slot) (s : State) : Host.Outcome State Fault Refusal :=
  fireWhole (.scan f) (fun fr =>
    let op := match fr.f.imm.toNat % 4 with
      | 0 => Fold.add | 1 => Fold.min | 2 => Fold.max | _ => Fold.or
    (List.range fr.n).map fun l => scanAt op fr.f.ty.signed fr.w (bitAt fr.f.imm.toNat 2) fr.on fr.la l) s
/-- REDADD (R159). -/
def execRedadd (f : Slot) (s : State) : Host.Outcome State Fault Refusal := fireReduce (.redadd f) .add s
/-- REDMIN (R159). -/
def execRedmin (f : Slot) (s : State) : Host.Outcome State Fault Refusal := fireReduce (.redmin f) .min s
/-- REDMAX (R159). -/
def execRedmax (f : Slot) (s : State) : Host.Outcome State Fault Refusal := fireReduce (.redmax f) .max s
/-- REDAND (R159). -/
def execRedand (f : Slot) (s : State) : Host.Outcome State Fault Refusal := fireReduce (.redand f) .and s
/-- REDOR (R159). -/
def execRedor (f : Slot) (s : State) : Host.Outcome State Fault Refusal := fireReduce (.redor f) .or s

end Sys2Proof.Machine
end

