-- ==== Sys2Proof/Machine/Matrix.lean ====
section
/-! DEFINITION. The matrix row engine (R188-R203), opcode 0x30, and the completion of a row step. -/

namespace Sys2Proof.Machine

open Sys2Proof

/-! ### The engine -/

/-- The engine as a configuration finds it (R189, R191): its own state, or a clean engine that it takes. -/
def Tile.engine (tl : Tile) : RowEngine :=
  if tl.row.dirty || tl.row.owner == tl.inst then tl.row else RowEngine.clean tl.inst

/-- The engine of a tile replaced after a state change: it becomes dirty and its owner's (R191). -/
def State.setEngine (s : State) (t : Nat) (e : RowEngine) : State :=
  let tl := s.tile t
  s.setTile t { tl with row := { e with owner := tl.inst, dirty := true } }

/-- A matrix instruction: with no lane of E it changes no row-engine state (R188); while another configuration owns dirty state it stops with
cause OWNER (R191). -/
def fireMatrix (i : Instr) (body : State → Firing → RowEngine → Fired) (s : State) : Host.Outcome State Fault Refusal :=
  fire i (fun s fr =>
    if !fr.any then .done (s.writeDest fr.t fr.c fr.slot fr.f.dst 32 0 [])
    else if ownerFault (s.tile fr.t) then .stop { cls := 8, cause := 4 }
    else body s fr (s.tile fr.t).engine) s

/-- K of a mode (R192). -/
def MMode.k (m : MMode) : Nat :=
  match m.ty with
  | .e4m3 => 64 | .e5m2 => 64 | .cb4 => if m.prod then 64 else 32 | _ => 32

/-- Bytes of the B panel of a mode (R192); the size of the panel store while there is none. -/
def panelBytes (m : Option MMode) : Nat :=
  match m with
  | none => 2048
  | some m => match m.ty with
    | .cb4 => if m.prod then 1024 else 512
    | _ => 2048

/-- The type of an A element (R192). -/
def MMode.aTy (m : MMode) : Ty :=
  match m.ty, m.afmt with
  | .cb4, 3 => .bf16
  | .cb4, _ => .cb4
  | _, 1 => .e4m3
  | _, 2 => .e5m2
  | ty, _ => ty

/-- Value of an element under the engine's codebook (R106, R193). -/
def engineValue (e : RowEngine) (ty : Ty) (x : Nat) : FVal :=
  if ty = .cb4 then Fmt.bf16.decode (codebookEntry e.codebook.toNat x) else (Fmt.ofTy ty).decode x

/-- Element k of an A row (R193) and element (k, n) of the B panel. -/
def rowElement (m : MMode) (a k : Nat) : Nat := bits a (k * m.aTy.width) m.aTy.width
def panelElement (m : MMode) (e : RowEngine) (k n : Nat) : Nat := bits e.panel.toNat ((k * 32 + n) * m.ty.width) m.ty.width

/-- The term of a[k] and B[k][n] (R193, R194). -/
def rowTerm (m : MMode) (e : RowEngine) (a k n : Nat) : FVal × FpFlags :=
  let x := rowElement m a k
  let y := panelElement m e k n
  if m.prod then valTerm (Fmt.f32.decode (bits e.prod.toNat (32 * (16 * x + y)) 32))
  else mulTerm (engineValue e m.aTy x) (engineValue e m.ty y)

/-- The positions of a row step: k < KACT whose A element lies in a lane of E (R194). -/
def rowPositions (m : MMode) (e : RowEngine) (on : Mask) : List Nat :=
  (List.range m.k).filter fun k => decide (k < e.kact) && on.getLsbD (k * m.aTy.width / 32)

/-- Entry (r, n) of the accumulator file. -/
def RowEngine.entry (e : RowEngine) (r n : Nat) : Nat := bits (SMap.get e.acc r 0).toNat (32 * n) 32

/-- A row of the accumulator file replaced, column by column. -/
def RowEngine.setRow (e : RowEngine) (r : Nat) (cols : List Nat) : RowEngine :=
  let v : BitVec 1024 := BitVec.ofNat 1024 (packNat 32 cols)
  { e with acc := if v = 0 then SMap.erase e.acc r else SMap.set e.acc r v }

/-- A row's poison bit (R189). -/
def RowEngine.poisoned (e : RowEngine) (r : Nat) : Bool := e.rowPoison.getLsbD r
def RowEngine.setPoison (e : RowEngine) (r : Nat) (b : Bool) : RowEngine :=
  let m : BitVec 128 := BitVec.ofNat 128 (2 ^ r)
  { e with rowPoison := if b then e.rowPoison ||| m else e.rowPoison &&& ~~~m }

/-- The columns of a row step (R194, R195): each is one fused sum; columns from NACT on are left, and with KACT = 0 the entry stands. -/
def rowStep (m : MMode) (e : RowEngine) (on : Mask) (a r : Nat) (zero : Bool) : List FRes :=
  let ks := rowPositions m e on
  (List.range 32).map fun n =>
    let base := if zero then 0 else e.entry r n
    if e.nact ≤ n then ⟨e.entry r n, 0⟩
    else if e.kact = 0 then ⟨base, 0⟩
    else Fmt.f32.fusedSum (valTerm (Fmt.f32.decode base) :: ks.map fun k => rowTerm m e a k n)

/-! ### The instructions -/

/-- MSET (R192, R197). -/
def execMset (f : Slot) (s : State) : Host.Outcome State Fault Refusal :=
  fireMatrix (.mset f) (fun s fr e =>
    let x := lane 32 fr.a.val 0
    let mode : MMode := { ty := fr.f.ty, prod := bitAt fr.f.imm.toNat 2, afmt := bits fr.f.imm.toNat 0 2 }
    let kact := bits x 0 7
    let nact := bits x 7 6
    if mode.k < kact ∨ 32 < nact ∨ bits x 13 19 ≠ 0 then .stop { cls := 8, cause := 3 }
    else
      let e1 := { e with kact := kact, nact := nact }
      let e2 := if e.mode = some mode then e1
                else { e1 with mode := some mode, panel := 0, panelValid := false, shadow := 0, cursor := 0 }
      .done (s.setEngine fr.t e2)) s

/-- The 64 bytes of A with those of lanes outside E zero (R198). -/
def maskedBytes (fr : Firing) : Nat := (tokenLanes 32 16 fr.e (lanesOf 32 16 fr.a.val)).toNat

/-- Chunk k of 64 bytes written into a store of n bits. -/
def setChunk {n : Nat} (v : BitVec n) (k x : Nat) : BitVec n :=
  let m : BitVec n := BitVec.ofNat n ((2 ^ 512 - 1) * 2 ^ (512 * k))
  (v &&& ~~~m) ||| BitVec.ofNat n (x % 2 ^ 512 * 2 ^ (512 * k))

/-- MLDB (R198). -/
def execMldb (f : Slot) (s : State) : Host.Outcome State Fault Refusal :=
  fireMatrix (.mldb f) (fun s fr e =>
    let sh := setChunk e.shadow e.cursor (maskedBytes fr)
    let e1 := if e.cursor + 1 = panelBytes e.mode / 64 then { e with panel := sh, panelValid := true, shadow := 0, cursor := 0 }
              else { e with shadow := sh, cursor := e.cursor + 1 }
    .done (s.setEngine fr.t e1)) s

/-- MCBT (R198). -/
def execMcbt (f : Slot) (s : State) : Host.Outcome State Fault Refusal :=
  fireMatrix (.mcbt f) (fun s fr e => .done (s.setEngine fr.t { e with codebook := BitVec.ofNat 256 (maskedBytes fr) })) s

/-- MPRD (R198). -/
def execMprd (f : Slot) (s : State) : Host.Outcome State Fault Refusal :=
  fireMatrix (.mprd f) (fun s fr e =>
    let sh := setChunk e.shadowProd e.prodCursor (maskedBytes fr)
    let e1 := if e.prodCursor = 15 then { e with prod := sh, shadowProd := 0, prodCursor := 0 }
              else { e with shadowProd := sh, prodCursor := e.prodCursor + 1 }
    .done (s.setEngine fr.t e1)) s

/-- MROW (R194, R195, R199): the accumulator takes the step's result for every later reader, and the step is complete, with its flags raised, at
ROW_STEP_COMPLETE. A poisoned row holds, where it was filled from poison, free values (R481), and the step computes with them. -/
def execMrow (f : Slot) (s : State) : Host.Outcome State Fault Refusal :=
  fireMatrix (.mrow f) (fun s fr e =>
    let r := bits fr.f.imm.toNat 0 7
    let zero := bitAt fr.f.imm.toNat 7
    match e.mode with
    | none => .stop { cls := 8, cause := 1 }
    | some m =>
      if !e.panelValid then .stop { cls := 8, cause := 2 }
      else
        let res := rowStep m e fr.e fr.a.val.toNat r zero
        let fl := res.foldl (fun acc x => acc ||| x.flags) 0
        let e1 := e.setRow r (res.map (·.bits))
        let s1 := s.setEngine fr.t (if zero then e1.setPoison r false else e1)
        let tl := s1.tile fr.t
        .done (s1.setTile fr.t { tl with steps := tl.steps ++ [{ row := r, ctx := fr.c, flags := fl }] })) s

/-- ROW_STEP_COMPLETE (R195, R203): the oldest row step of the tile completes, and its flags reach the context that fired the MROW. -/
def execRowStepComplete (t : Nat) (s : State) : Host.Outcome State Fault Refusal :=
  let tl := s.tile t
  match tl.steps with
  | [] => .next s
  | st :: rest => .next ((s.setTile t { tl with steps := rest }).raise t st.ctx st.flags)

/-- The destination format of MOUT (R200). -/
def moutFmt (imm : Nat) : Ty := match bits imm 8 2 with
  | 1 => .bf16 | 2 => .f16 | _ => .f32

/-- The columns that lane l of a MOUT reads (R200). -/
def moutCols (imm l : Nat) : List Nat :=
  if bits imm 8 2 = 0 then [16 * bits imm 7 1 + l] else [2 * l, 2 * l + 1]

/-- MOUT (R200). -/
def execMout (f : Slot) (s : State) : Host.Outcome State Fault Refusal :=
  fireMatrix (.mout f) (fun s fr e =>
    let imm := fr.f.imm.toNat
    let r := bits imm 0 7
    let ty := moutFmt imm
    if e.poisoned r then .stop { cls := 6, cause := 3 }
    else
      let out := (List.range 16).map fun l =>
        if ty = .f32 then
          let x := e.entry r (16 * bits imm 7 1 + l)
          ((⟨x, 0⟩ : FRes), Fmt.f32.isNonzero x)
        else
          let lo := cvtFF .f32 ty .rne false (e.entry r (2 * l))
          let hi := cvtFF .f32 ty .rne false (e.entry r (2 * l + 1))
          (⟨lo.bits + hi.bits * 2 ^ 16, lo.flags ||| hi.flags⟩,
            (Fmt.ofTy ty).isNonzero lo.bits || (Fmt.ofTy ty).isNonzero hi.bits)
      let cleared := (List.range 32).map fun n =>
        if (List.range 16).any fun l => fr.on l && (moutCols imm l).contains n then 0 else e.entry r n
      let s1 := if bitAt imm 10 then s.setEngine fr.t (e.setRow r cleared) else s
      .done (applyLanes s1 fr { vals := out.map (·.1.bits), cond := out.map (·.2), flags := out.map (·.1.flags) })) s

/-- FIRST and COUNT of a range of rows (R201). -/
def rowRange (f : Slot) : Nat × Nat := (bits f.imm.toNat 0 7, bits f.imm.toNat 7 8)

/-- MCLR (R201). -/
def execMclr (f : Slot) (s : State) : Host.Outcome State Fault Refusal :=
  fireMatrix (.mclr f) (fun s fr e =>
    let rg := rowRange fr.f
    .done (s.setEngine fr.t ((List.range rg.2).foldl (fun e k => (e.setRow (rg.1 + k) (List.replicate 32 0)).setPoison (rg.1 + k) false) e))) s

/-- The fault of an MSPL or MFIL range (R202): alignment to 128 B within one 64 KiB page, translation, permission. -/
def rangeFault (need : Need) (va len : Nat) (ps : List Planned) : Option FaultInfo :=
  if va % 128 ≠ 0 ∨ 2 ^ 16 < va % 2 ^ 16 + len then some { cls := 3, cause := 1, address := va }
  else (accessFault .f32 need anyTier false nullWitness ps).map fun fi => { fi with lane := 0xFFFF }

/-- The spots of one row of 32 columns at an address on a leaf's page. -/
def rowSpots (l : Leaf) (va : Nat) : List Spot :=
  (List.range 32).filterMap fun n => Planned.spot .f32 { req := { lane := n, va := va + 4 * n, nib := 0 }, walk := .leaf l }

/-- An access for each row of a range, put in flight in ascending order; the accesses' ids with their rows. -/
def issueRows (t : Nat) (mk : State → Nat → Access) : List Nat → State → List (Nat × Nat) × State
  | [], s => ([], s)
  | r :: rest, s =>
    let a := mk s r
    let y := issueRows t mk rest (s.issue a)
    ((a.id, r) :: y.1, y.2)

/-- The transfer in progress of a tile set. -/
def State.setXfer (s : State) (t : Nat) (x : RowXfer) : State :=
  let tl := s.tile t
  s.setTile t { tl with xfer := some x }

/-- MSPL (R201, R202, R236): one store number and one access per row, all taken at the firing. -/
def execMspl (f : Slot) (s : State) : Host.Outcome State Fault Refusal :=
  fireMatrix (.mspl f) (fun s fr e =>
    let rg := rowRange fr.f
    let va := fr.a64 0
    let plan := planLanes s fr.t [{ lane := 0, va := va, nib := 0 }]
    match rangeFault { w := true } va (128 * rg.2) plan.1, plan.1.head?.bind Planned.leaf? with
    | some fi, _ => .stop fi
    | none, none => .idle
    | none, some l =>
      let num := plan.2.takeNumbers fr.t rg.2
      let mk (s : State) (r : Nat) : Access :=
        let op (xs : List Spot) : PieceOp :=
          let d := storeBits (e.entry r) xs
          .store d.1 d.2 false (e.poisoned r)
        let ps := piecesOf s (rowSpots l (va + 128 * (r - rg.1))) op
        { Access.blank s fr.t fr.c fr.slot with
          origin := .rowXfer, number := num.1 + (r - rg.1), pieces := ps, stalls := anyStrong ps }
      let y := issueRows fr.t mk ((List.range rg.2).map (rg.1 + ·)) num.2
      .done (y.2.setXfer fr.t { fill := false, rows := y.1 })) s

/-- MFIL (R201, R202): one access per row; the rows are filled when every row has been read. -/
def execMfil (f : Slot) (s : State) : Host.Outcome State Fault Refusal :=
  fireMatrix (.mfil f) (fun s fr _ =>
    let rg := rowRange fr.f
    let va := fr.a64 0
    let plan := planLanes s fr.t [{ lane := 0, va := va, nib := 0 }]
    match rangeFault { r := true } va (128 * rg.2) plan.1, plan.1.head?.bind Planned.leaf? with
    | some fi, _ => .stop fi
    | none, none => .idle
    | none, some l =>
      let mk (s : State) (r : Nat) : Access :=
        let ps := piecesOf s (rowSpots l (va + 128 * (r - rg.1))) fun xs => .load (xs.map (·.lane))
        { Access.blank s fr.t fr.c fr.slot with origin := .rowXfer, pieces := ps, stalls := anyStrong ps }
      let y := issueRows fr.t mk ((List.range rg.2).map (rg.1 + ·)) plan.2
      .done (y.2.setXfer fr.t { fill := true, rows := y.1 })) s

/-- A row filled from its access, with its poison bit (R201). -/
def RowEngine.fillRow (e : RowEngine) (r : Nat) (a : Access) : RowEngine :=
  (e.setRow r ((List.range 32).map fun n => ((a.results.find? fun x => x.1 == n).map (·.2)).getD 0)).setPoison r a.poisonAt.isSome

/-- An MSPL or MFIL whose rows have all been performed ends; MFIL then fills its rows (R201, R203). -/
def State.finishXfer (s : State) (t : Nat) : State :=
  let tl := s.tile t
  match tl.xfer with
  | none => s
  | some x =>
    let own (a : Access) : Bool := x.rows.any fun r => r.1 == a.id
    if s.accesses.any fun a => own a && !a.pieces.isEmpty then s
    else
      let rows := x.rows.filterMap fun r => (s.accesses.find? fun a => a.id == r.1).map fun a => (r.2, a)
      let s1 := { s with accesses := s.accesses.filter fun a => !own a }
      let s2 := s1.setTile t { tl with xfer := none }
      if x.fill then s2.setEngine t (rows.foldl (fun e r => e.fillRow r.1 r.2) tl.engine) else s2

end Sys2Proof.Machine
end

