-- ==== Sys2Proof/Machine/Perform.lean ====
section
/-! DEFINITION. The performing of accesses (R225-R232, R265-R268, R277-R279, R283, R480-R482): when a granule may be performed, what happens at that instant,
and the data that return. -/

namespace Sys2Proof.Machine

open Sys2Proof

/-! ### Order (R228, R267, R268, R283) -/

/-- What a piece does fills its granule (R230). -/
def Piece.fills (p : Piece) : Bool :=
  match p.op with
  | .store _ _ full _ => full
  | _ => false

/-- An access has still to touch the granule of a piece; an LDFE that waits for the granule to become full does not hold back a store that fills it (R231, R275,
log 32). -/
def State.touches (s : State) (a : Access) (p : Piece) : Bool :=
  a.pieces.any (fun q => q.gran == p.gran && match q.op with
    | .loadFull _ _ => s.mem.isFull p.gran || !p.fills
    | _ => true)
  || a.backs.any (fun k => k.gran == p.gran) || a.returns.any fun q => q.gran == p.gran

/-- An access fired before another. -/
def Access.before (b a : Access) : Bool := decide (b.order < a.order) || (b.order == a.order && decide (b.id < a.id))

/-- A chain with groups still to come, that fired before an access of its element. -/
def ChainRun.ahead (r : ChainRun) (a : Access) : Bool := decide (r.order < a.order) && decide (r.next < r.groups)

/-- A granule lies in what a chain has still to touch. -/
def State.chainTouches (s : State) (t : Nat) (r : ChainRun) (va : Nat) : Bool :=
  (s.chainRanges t r).any fun x => decide (x.1 < va + 16) && decide (va < x.1 + x.2)

/-- A page of what a chain has still to touch is a device or strongly ordered one. -/
def State.chainOrdered (s : State) (t : Nat) (r : ChainRun) : Bool := s.chainOn t r MemType.ordered

/-- The chains of the element that made an access. -/
def State.chainsOf (s : State) (a : Access) : List ChainRun := if a.writer < 4608 then (s.tile a.writer).queue else []

/-- Accesses of one writer to one granule are performed in the order in which they fired (R228). -/
def State.granuleFree (s : State) (a : Access) (p : Piece) : Bool :=
  (s.accesses.all fun b => !(b.writer == a.writer && b.before a && s.touches b p))
  && (s.chainsOf a).all fun r => !(r.ahead a && s.chainTouches a.writer r p.va)

/-- An LDFE: all its granules are performed at one instant (R231, R275). -/
def Access.atOnce (a : Access) : Bool := a.origin == .slot && a.pieces.any fun p => match p.op with
  | .loadFull _ _ => true
  | _ => false

/-- A piece of an access is next among its granules on device and strongly ordered pages, which are performed in its order, an LDFE's at one instant; return writes
by address (R225, R267, R275, R278). -/
def Access.inTurn (a : Access) (p : Piece) : Bool :=
  if a.atOnce then true
  else if a.pieces.contains p then (a.pieces.find? fun q => q.mt.ordered) == some p
  else (a.returns.all fun q => !q.mt.ordered || decide (p.va ≤ q.va)) && a.backs.all fun k => !k.mt.ordered || decide (p.va ≤ k.va)

/-- Accesses of one element to device pages are performed in the order in which they fired, and the granules of one access in its order (R225, R228). -/
def State.deviceFree (s : State) (a : Access) (p : Piece) : Bool :=
  !p.mt.ordered ||
  (a.inTurn p
   && (p.mt != .device || a.writer ≥ 4608 ||
       ((s.accesses.all fun b => !(b.writer == a.writer && b.before a && b.owesOn fun m => m == .device))
        && (s.chainsOf a).all fun r => !(r.ahead a && s.chainOrdered a.writer r))))

/-- An access to a strongly ordered page is performed after every access of its context that fired earlier (R228, R268). -/
def State.strongFree (s : State) (a : Access) (p : Piece) : Bool :=
  p.mt != .strong ||
  ((s.accesses.all fun b => !(b.writer == a.writer && b.ctx == a.ctx && b.before a && b.remaining))
   && (s.chainsOf a).all fun r => !(r.ahead a && r.ctx == a.ctx))

/-- The two constraints of FENCE.D (R283). -/
def State.fenceFree (s : State) (a : Access) (p : Piece) : Bool :=
  (s.accesses.all fun b => !(b.writer == a.writer && decide (b.fence < a.fence) && b.remaining
      && (p.mt.ordered || b.owesOn MemType.ordered)))
  && (s.chainsOf a).all fun r => !(decide (r.fence < a.fence) && decide (r.next < r.groups) && (p.mt.ordered || s.chainOrdered a.writer r))

/-- A pass of the skim unit reads only while it is the oldest of its tile (R208, R213). -/
def State.passTurn (s : State) (a : Access) : Bool := a.origin != .skim || ((s.tile a.tile).passes.head?.bind (·.access)) == some a.id

/-- A pass reads nothing while its token's witness is pending; every other access fired with its witness satisfied (R208, R249). -/
def State.givenFree (s : State) (a : Access) : Bool := a.origin != .skim || s.standing a.writer a.given != .pending

/-- The last granule of a block that an engine writes is performed after the others of the block, so that it becomes full only after every earlier granule of a copy
has been written (R304, R403). -/
def Access.tailFree (a : Access) (p : Piece) : Bool :=
  match a.origin, p.op with
  | .queue _, .store _ _ _ _ => a.pieces.length == 1 || a.pieces.any fun q => decide (p.va < q.va)
  | _, _ => true

/-- A granule of an access may be performed now (R228, R231). -/
def State.mayPerform (s : State) (a : Access) (p : Piece) : Bool :=
  s.granuleFree a p && s.deviceFree a p && s.strongFree a p && s.fenceFree a p && s.passTurn a && s.givenFree a && a.tailFree p
  && match p.op with
     | .loadFull _ _ => s.mem.isFull p.gran
     | _ => true

/-! ### What happens at the instant -/

/-- A granule of tier 0x9 that is an ingress window: no rule gives it contents (R351). -/
def ingressGranule (g : Nat) : Bool := tierOf (16 * g) == 9 && decide (16 * g % 2 ^ 48 < 32 * 0x10000)

/-- The issuer of an access to a register. -/
def Access.issuer (a : Access) : Issuer := .element a.tile a.ctx

/-- What a read of a granule finds (R227, R225, R455, R481): registers, memory under the page's key, or a free value. -/
def State.readGranule (s : State) (a : Access) (p : Piece) : BitVec 128 :=
  let off := 16 * p.gran % 2 ^ 48
  if tierOf (16 * p.gran) = 8 then BitVec.ofNat 128 (s.loadRegister a.issuer off + s.loadRegister a.issuer (off + 8) * 2 ^ 64)
  else if ingressGranule p.gran || s.mem.isPoison p.gran then Config.openGranule (s.free * 2 ^ 52 + p.gran)
  else s.granuleAs p.key p.gran

/-- A granule is poisoned memory. -/
def State.poisoned (s : State) (g : Nat) : Bool := tierOf (16 * g) != 8 && s.mem.isPoison g

/-- Lanes of a granule's bits. -/
def laneValues (x : BitVec 128) (lanes : List LaneAt) : List (Nat × Nat) := lanes.map fun l => (l.lane, bits x.toNat l.off l.width)

/-- After a granule has been performed: free values used, and the lookup counted by the slice that it went through (R233, R235). -/
def State.performed (s : State) (g : Nat) : State :=
  let s1 := s.lookUp [g]
  { s1 with free := s1.free + 1 }

/-- Registers written by a store, word by word: only a word that is written whole (R225). -/
def State.writeWords (s : State) (a : Access) (g : Nat) (data mask : BitVec 128) : State :=
  let off := 16 * g % 2 ^ 48
  let low := if mask.extractLsb' 0 64 = BitVec.allOnes 64 then s.storeRegister a.issuer off (data.extractLsb' 0 64) else s
  if mask.extractLsb' 64 64 = BitVec.allOnes 64 then low.storeRegister a.issuer (off + 8) (data.extractLsb' 64 64) else low

/-- Memory after a granule's masked bits have been written under a key (R226, R230, R455, R481): a whole granule loses its poison. -/
def State.writeMem (s : State) (p : Piece) (data mask : BitVec 128) (full poison : Bool) : Memory :=
  let g := p.gran
  let old := s.granuleAs p.key g
  let m1 := (s.mem.setGranule g ((old &&& ~~~mask) ||| (data &&& mask)) (BitVec.allOnes 128)).setKey g p.key
  let m2 := if poison then m1.setPoison g true else if mask = BitVec.allOnes 128 then m1.setPoison g false else m1
  if full && decide (tierOf (16 * g) ≤ 1) then m2.setFull g true else m2

/-- A store of a granule performed. -/
def State.writeGranule (s : State) (a : Access) (p : Piece) (data mask : BitVec 128) (full poison : Bool) : State :=
  if tierOf (16 * p.gran) = 8 then s.writeWords a p.gran data mask
  else if ingressGranule p.gran then s
  else
    let s1 := { s with mem := s.writeMem p data mask full poison }
    if full then s1.noteAllReady else s1

/-- The new value of a lane of an atomic (R277). -/
def AtomicOp.apply (op : AtomicOp) (ty : Ty) (w m b c : Nat) : Nat :=
  let less (x y : Nat) : Bool := if ty.signed then decide (sgn w x < sgn w y) else decide (x < y)
  match op with
  | .add => (m + b) % 2 ^ w
  | .min => if less b m then b else m
  | .max => if less m b then b else m
  | .and => m &&& b
  | .or => m ||| b
  | .xor => m ^^^ b
  | .swap => b
  | .cas => if m = c then b else m
  | .fadd => ((Fmt.ofTy ty).add m b).bits

/-- The granule after the lanes of an atomic have been combined (R277). -/
def combineLanes (op : AtomicOp) (ty : Ty) (x : BitVec 128) (lanes : List AtomicLane) : BitVec 128 :=
  lanes.foldl (fun acc l =>
    let w := l.at'.width
    let m := bits x.toNat l.at'.off w
    let mask : BitVec 128 := BitVec.ofNat 128 ((2 ^ w - 1) * 2 ^ l.at'.off)
    (acc &&& ~~~mask) ||| (BitVec.ofNat 128 (op.apply ty w m l.b l.c % 2 ^ w * 2 ^ l.at'.off) &&& mask)) x

/-- Return writes due once a target granule has been performed: one for each return granule, with the old values of its lanes (R278, R482). -/
def returnPieces (x : BitVec 128) (poison : Bool) (lanes : List AtomicLane) (due : List Back) : List Piece :=
  let old (k : Back) : Nat := ((lanes.find? fun l => l.at'.lane == k.lane).map fun l => bits x.toNat l.at'.off l.at'.width).getD 0
  let one (k : Back) : BitVec 128 × BitVec 128 :=
    let m : BitVec 128 := BitVec.ofNat 128 ((2 ^ k.width - 1) * 2 ^ k.off)
    (BitVec.ofNat 128 (old k * 2 ^ k.off) &&& m, m)
  (due.map (·.gran)).eraseDups.filterMap fun g =>
    let ks := due.filter fun k => k.gran == g
    ks.head?.map fun k =>
      let d := ks.foldl (fun acc k => (acc.1 ||| (one k).1, acc.2 ||| (one k).2)) (0, 0)
      { gran := g, va := k.va, key := k.key, mt := k.mt, op := .store d.1 d.2 true poison }

/-- The lowest lane of a piece. -/
def Piece.lowLane (p : Piece) : Nat :=
  (least (match p.op with
    | .load ls => ls.map (·.lane)
    | .loadFull _ ls => ls.map (·.lane)
    | .atomic _ _ ls => ls.map fun l => l.at'.lane
    | .store _ _ _ _ => [])).getD 0xFFFF

/-- One granule of an access performed: the state and what is left of the access. -/
def State.performPiece (s : State) (a : Access) (p : Piece) : State × Access :=
  let a1 := { a with pieces := a.pieces.erase p }
  let x := s.readGranule a p
  let bad := s.poisoned p.gran
  match p.op with
  | .load lanes =>
    (s.performed p.gran,
     { a1 with results := a1.results ++ laneValues x lanes, poisonAt := a1.poisonAt.or (if bad then some p.va else none) })
  | .loadFull clear lanes =>
    let s1 := s.performed p.gran
    (if clear then { s1 with mem := s1.mem.setFull p.gran false } else s1,
     { a1 with results := a1.results ++ laneValues x lanes, poisonAt := a1.poisonAt.or (if bad then some p.va else none) })
  | .store data mask full poison => ((s.writeGranule a p data mask full poison).performed p.gran, a1)
  | .atomic op ty lanes =>
    let due := a1.backs.filter fun k => k.target == p.gran
    let a2 := { a1 with backs := a1.backs.filter fun k => k.target != p.gran, returns := a1.returns ++ returnPieces x bad lanes due }
    if bad then
      let s1 := s.performed p.gran
      (if due.isEmpty then s1.report a.tile a.ctx a.slot { cls := 6, cause := 5, address := p.va, lane := p.lowLane, performed := true } else s1, a2)
    else
      let mask := lanes.foldl (fun acc l => acc ||| BitVec.ofNat 128 ((2 ^ l.at'.width - 1) * 2 ^ l.at'.off)) 0
      ((s.writeGranule a p (combineLanes op ty x lanes) mask false false).performed p.gran, a2)

/-- The accesses with one replaced. -/
def State.putAccess (s : State) (a : Access) : State := { s with accesses := s.accesses.map fun b => if b.id = a.id then a else b }

/-! ### After the instant -/

/-- The destination of a store on strongly ordered pages written with its witness once it has been performed (R237, R268). -/
def State.deliverStore (s : State) (id : Nat) : State :=
  match s.outstanding.find? fun o => o.id = id with
  | none => s
  | some o => match o.witness with
    | none => s
    | some w =>
      let all := widenMask o.w o.e
      (s.deliver { o with w := 64, n := 8, predOp := .none } (List.replicate 8 w.toNat)).updatePred o.tile o.ctx o.predOp o.predReg all all

/-- A store, atomic or row transfer of which nothing is left ends (R201, R237). -/
def State.settleAccess (s : State) (a : Access) : State :=
  if a.remaining then s
  else if a.origin = .rowXfer then s.finishXfer a.tile
  else if a.number = 0 then s
  else State.deliverStore { s with accesses := s.accesses.filter fun b => b.id != a.id } a.id

/-- A load of a slot has read poison (R265): it ends without a result and its context halts; into nul it goes on (R264). -/
def State.meetPoison (s : State) (a : Access) (lane : Nat) : State :=
  match a.poisonAt, s.outstanding.find? fun o => o.id = a.id with
  | some va, some o =>
    if a.origin != .slot || a.number != 0 || o.quiet then s
    else
      let r := s.cancelLoad o
      r.2.haltCtx a.tile a.ctx a.slot
        { cls := 6, cause := 1, address := va, witness := a.given, lane := lane, operands := some (a.a, a.b), performed := true, reissue := r.1 }
  | _, _ => s

/-- Granules of an access performed one after another at one instant, and what follows when one of them is poisoned (R231, R265). -/
def State.performAll (s : State) (a : Access) (ps : List Piece) : State :=
  let r := ps.foldl (fun acc p => acc.1.performPiece acc.2 p) (s, a)
  let s1 := (r.1.putAccess r.2).settleAccess r.2
  match ps.find? fun p => s.poisoned p.gran with
  | some p => s1.meetPoison r.2 p.lowLane
  | none => s1

/-- The pieces of an access that are performed together with one of them: the lanes of a scatter that write words of one granule of tier 0x8 (R273). -/
def Access.mates (a : Access) (p : Piece) : List Piece :=
  if tierOf (16 * p.gran) = 8 ∧ a.number ≠ 0 then a.pieces.filter fun q => q.gran == p.gran else [p]

/-- ACCESS_PERFORM (R225-R232, R265-R268, R277-R283): a granule of an access in flight is performed, when the order of R228 allows; an LDFE performs all its
granules once all are full. The lath's store of a shard-table entry answers refill requests (R403). -/
def execAccessPerform (access granule : Nat) (s : State) : Host.Outcome State Fault Refusal :=
  match s.accesses.find? fun a => a.id = access with
  | none => .next s
  | some a =>
    if a.atOnce then
      if a.pieces.all fun p => s.mayPerform a p then .next (s.performAll a a.pieces).answerRefills else .next s
    else match a.pieces.find? fun p => p.gran = granule with
      | none => .next s
      | some p => if s.mayPerform a p then .next (s.performAll a (a.mates p)).answerRefills else .next s

/-- ATOMIC_RETURN_WRITE (R267, R278, R283): the old values of a target granule are written to a return granule, in the order of R228. -/
def execAtomicReturnWrite (access granule : Nat) (s : State) : Host.Outcome State Fault Refusal :=
  match s.accesses.find? fun a => a.id = access with
  | none => .next s
  | some a => match a.returns.find? fun p => p.gran = granule with
    | none => .next s
    | some p =>
      if !s.mayPerform a p then .next s
      else match p.op with
        | .store data mask full poison =>
          let a1 := { a with returns := a.returns.erase p }
          .next (((((s.writeGranule a p data mask full poison).performed p.gran).putAccess a1)).settleAccess a1)
        | _ => .next s

/-- LOAD_DATA_RETURN (R262, R265): the data of a load that has been performed reach its destination. -/
def execLoadDataReturn (access : Nat) (s : State) : Host.Outcome State Fault Refusal :=
  match s.accesses.find? fun a => a.id = access, s.outstanding.find? fun o => o.id = access with
  | some a, some o =>
    if a.number ≠ 0 ∨ a.origin ≠ .slot ∨ a.pieces.isEmpty = false then .next s
    else
      let s1 : State := { s with accesses := s.accesses.filter fun b => b.id != access }
      if a.poisonAt.isSome then .next { s1 with outstanding := s1.outstanding.filter fun x => x.id != access }
      else .next (s1.deliver o ((List.range o.n).map a.laneValue))
  | _, _ => .next s

/-- A link between two sites of a domain is down. -/
def State.downLink (s : State) (d : Nat) : Bool :=
  s.routers.any fun r => s.siteDomain r.1 == some d && r.2.link.any fun l =>
    l.2 == .down && match s.beyond r.1 l.1 with
      | some next => s.siteDomain next == some d
      | none => false

/-- A store may have been to cross a down link (R480): routers carry the stores to other tiles' pads and no others (R22), inside the domain (R18). Which of its links
such a store crosses no rule fixes (R23), so any of them may be one of those (log 34). -/
def State.cutOff (s : State) (a : Access) (p : Piece) : Bool :=
  match padTile p.gran with
  | none => false
  | some t => t != a.tile && match s.tileDomain t with
    | some d => s.downLink d
    | none => false

/-- POISON_NOTICE (R242, R252, R480): a store that was to cross a down link is performed at its home as poison. -/
def execPoisonNotice (access granule : Nat) (s : State) : Host.Outcome State Fault Refusal :=
  match s.accesses.find? fun a => a.id = access with
  | none => .next s
  | some a => match a.pieces.find? fun p => p.gran = granule with
    | none => .next s
    | some p => match p.op with
      | .store data mask full _ =>
        if !s.cutOff a p || !s.mayPerform a p then .next s
        else
          let a1 := { a with pieces := a.pieces.erase p }
          .next ((((s.writeGranule a p data mask full true).performed p.gran).putAccess a1).settleAccess a1)
      | _ => .next s

end Sys2Proof.Machine
end

