-- ==== Sys2Proof/Machine/Triggers.lean ====
section
/-! DEFINITION. Predicates, routing choices, condition tokens, queue instructions and counter chains (R331, R333-R345), opcodes 0x40 to 0x44, and
NOP. -/

namespace Sys2Proof.Machine

open Sys2Proof

/-- A predicate operand of a firing as 16 bits. -/
def Firing.pa (fr : Firing) : Mask := fr.a.val.setWidth 16
def Firing.pb (fr : Firing) : Mask := fr.b.val.setWidth 16
def Firing.pc (fr : Firing) : Mask := fr.cc.val.setWidth 16

/-- A condition written to a predicate destination, and the predicate update from the same C (R149, R333). -/
def applyPred (s : State) (fr : Firing) (c : Mask) : State :=
  (s.writePred fr.t fr.c fr.f.dst fr.e c).updatePred fr.t fr.c fr.f.predOp fr.f.predReg fr.e c

/-- A predicate instruction (R333). -/
def firePred (i : Instr) (g : Firing → Mask) (s : State) : Host.Outcome State Fault Refusal :=
  fire i (fun s fr => .done (applyPred s fr (g fr))) s

/-- NOP (R331). -/
def execNop (f : Slot) (s : State) : Host.Outcome State Fault Refusal := fire (.nop f) (fun s _ => .done s) s
/-- PSET (R333). -/
def execPset (f : Slot) (s : State) : Host.Outcome State Fault Refusal := firePred (.pset f) (fun _ => 0xFFFF) s
/-- PCLR (R333). -/
def execPclr (f : Slot) (s : State) : Host.Outcome State Fault Refusal := firePred (.pclr f) (fun _ => 0) s
/-- PAND (R333). -/
def execPand (f : Slot) (s : State) : Host.Outcome State Fault Refusal := firePred (.pand f) (fun fr => fr.pa &&& fr.pb) s
/-- POR (R333). -/
def execPor (f : Slot) (s : State) : Host.Outcome State Fault Refusal := firePred (.por f) (fun fr => fr.pa ||| fr.pb) s
/-- PXOR (R333). -/
def execPxor (f : Slot) (s : State) : Host.Outcome State Fault Refusal := firePred (.pxor f) (fun fr => fr.pa ^^^ fr.pb) s
/-- PNOT (R333). -/
def execPnot (f : Slot) (s : State) : Host.Outcome State Fault Refusal := firePred (.pnot f) (fun fr => ~~~fr.pa) s
/-- PMOV (R333). -/
def execPmov (f : Slot) (s : State) : Host.Outcome State Fault Refusal := firePred (.pmov f) (fun fr => fr.pa) s
/-- PANY (R333). -/
def execPany (f : Slot) (s : State) : Host.Outcome State Fault Refusal := firePred (.pany f) (fun fr => splat ((fr.pa &&& fr.e) != 0)) s
/-- PALL (R333). -/
def execPall (f : Slot) (s : State) : Host.Outcome State Fault Refusal := firePred (.pall f) (fun fr => splat ((~~~fr.pa &&& fr.e) == 0)) s

/-- One destination of STEER receives A in a set of lanes; an output endpoint whose set is empty is sent no beat (R334). -/
def steerTo (s : State) (fr : Firing) (dst : Opnd) (lanes : Mask) : State :=
  match dst with
  | .o _ => if lanes = 0 then s else s.writeDest fr.t fr.c fr.slot dst 32 lanes fr.la
  | _ => s.writeDest fr.t fr.c fr.slot dst 32 lanes fr.la

/-- STEER (R334). -/
def execSteer (f : Slot) (s : State) : Host.Outcome State Fault Refusal :=
  fire (.steer f) (fun s fr =>
    .done ((steerTo (steerTo s fr fr.f.dst (fr.e &&& fr.pb)) fr fr.f.sc (fr.e &&& ~~~fr.pb)).updatePred
      fr.t fr.c fr.f.predOp fr.f.predReg fr.e fr.pb)) s

/-- MERGE (R335): its E and the sides it reads are those of `lanesE` and `readOperands`. -/
def execMerge (f : Slot) (s : State) : Host.Outcome State Fault Refusal :=
  fire (.merge f) (fun s fr =>
    let vals := (List.range 16).map fun l => if fr.pc.getLsbD l then lane 32 fr.a.val l else lane 32 fr.b.val l
    .done ((s.writeDest fr.t fr.c fr.slot fr.f.dst 32 fr.e vals).updatePred fr.t fr.c fr.f.predOp fr.f.predReg fr.e fr.pc)) s

/-- CSND (R336): the OR of pA over the lanes of E goes out as one condition token. -/
def execCsnd (f : Slot) (s : State) : Host.Outcome State Fault Refusal :=
  fire (.csnd f) (fun s fr =>
    let b := (fr.pa &&& fr.e) != 0
    let s1 := match fr.f.dst with
      | .co n =>
        let cx := s.ctx fr.t fr.c
        s.setCtx fr.t fr.c { cx with couts := set4 cx.couts n.val (at4 cx.couts n.val ++ [b]) }
      | _ => s
    .done (s1.updatePred fr.t fr.c fr.f.predOp fr.f.predReg fr.e (splat b))) s

/-- CRCV (R336): the head condition token is always consumed. -/
def execCrcv (f : Slot) (s : State) : Host.Outcome State Fault Refusal :=
  fire (.crcv f) (fun s fr =>
    match fr.f.sa with
    | .ci n =>
      let cx := s.ctx fr.t fr.c
      let b := (at4 cx.cins n.val).headD false
      let s1 := s.setCtx fr.t fr.c { cx with cins := set4 cx.cins n.val (at4 cx.cins n.val).tail }
      .done (applyPred s1 fr (splat b))
    | _ => .done s) s

/-! ### Circular buffers and endpoints -/

/-- The circular buffer that an endpoint operand names, with its descriptor number (R327). -/
def namedBuffer (s : State) (t c : Nat) (o : Opnd) : Option (Nat × Buffer) :=
  let cx := s.ctx t c
  let bind := match o with
    | .i n => at8 cx.word.ibind n.val
    | .o n => at8 cx.word.obind n.val
    | _ => .unbound
  match bind.buf? with
  | some k => (at16 (s.tile t).buffers k).map fun b => (k, b)
  | none => none

/-- A descriptor's state replaced. -/
def State.setBuffer (s : State) (t k : Nat) (b : Buffer) : State :=
  let tl := s.tile t
  s.setTile t { tl with buffers := set16 tl.buffers k (some b) }

/-- Every granule of `count` slots of a buffer, from slot index k on, made full or empty in full/empty mode (R337, R340). -/
def State.markSlots (s : State) (t : Nat) (b : Buffer) (k count : Nat) (full : Bool) : State :=
  if b.fe then
    { s with mem := (List.range count).foldl (fun m j =>
        (List.range (b.size / 16)).foldl (fun m g => m.setFull (padPA t (b.slotOff (k + j)) / 16 + g) full) m) s.mem }
  else s

/-- ADVC (R337). -/
def execAdvc (f : Slot) (s : State) : Host.Outcome State Fault Refusal :=
  fire (.advc f) (fun s fr =>
    match namedBuffer s fr.t fr.c fr.f.sa with
    | some (k, b) =>
      if fr.any then
        let n := bits fr.f.imm.toNat 0 11
        .done ((s.markSlots fr.t b b.cp n false).setBuffer fr.t k { b with cp := (b.cp + n) % (2 * b.slots) })
      else .done s
    | none => .done s) s

/-- ADVP (R337); dependency-table entries that wait on its granules note that they are full (R300). -/
def execAdvp (f : Slot) (s : State) : Host.Outcome State Fault Refusal :=
  fire (.advp f) (fun s fr =>
    match namedBuffer s fr.t fr.c fr.f.dst with
    | some (k, b) =>
      if fr.any then
        let n := bits fr.f.imm.toNat 0 11
        .done ((s.markSlots fr.t b b.pp n true).setBuffer fr.t k
          { b with pp := (b.pp + n) % (2 * b.slots), wc := b.wc - n * b.size / 64 }).noteAllReady
      else .done s
    | none => .done s) s

/-- The six values of QSTAT (R338). -/
def qstatValues (s : State) (t c : Nat) (o : Opnd) : List Nat :=
  match namedBuffer s t c o with
  | some (_, b) => [filledSlots s t b, wrap 32 b.freeSlots, b.cp, b.pp, b.slotOff b.cp, b.wc]
  | none =>
    match o with
    | .i n =>
      let q := (s.ctx t c).beats n.val
      match q.head? with
      | some h => [q.length, h.tag.toNat, h.mask.toNat]
      | none => [q.length, 0xFFFFFFFF, 0]
    | _ => []

/-- QSTAT (R338). -/
def execQstat (f : Slot) (s : State) : Host.Outcome State Fault Refusal :=
  fire (.qstat f) (fun s fr =>
    let v := qstatValues s fr.t fr.c fr.f.sa
    .done (applyLanes s fr (.of ((List.range 16).map fun l => withC (v.getD l 0))))) s

/-- The beat that QPEEK delivers (R339): position K of an endpoint, or beat offset K from the head slot of a buffer. -/
def peekedBeat (s : State) (t c : Nat) (o : Opnd) (imm : Nat) : Option Beat :=
  match namedBuffer s t c o with
  | some (_, b) =>
    let off := b.base + (b.cp % b.slots * b.size + 64 * (imm % 2 ^ 16)) % (b.slots * b.size)
    some { payload := BitVec.ofNat 512 (padRead s t off 64), mask := 0xFFFF, tag := 0, vc := 0,
           poison := (List.range 4).any fun g => padPoison s t (padPA t off / 16 + g) }
  | none =>
    match o with
    | .i n => ((s.ctx t c).beats n.val)[imm % 64]?
    | _ => none

/-- QPEEK (R339): the payload, raw, in the lanes of E that the beat's mask holds. -/
def execQpeek (f : Slot) (s : State) : Host.Outcome State Fault Refusal :=
  fire (.qpeek f) (fun s fr =>
    match peekedBeat s fr.t fr.c fr.f.sa fr.f.imm.toNat with
    | none => .idle
    | some b =>
      if b.poison then .stop SrcFault.poison.info
      else
        let vals := lanesOf 32 16 b.payload
        .done ((s.writeDest fr.t fr.c fr.slot fr.f.dst 32 (fr.e &&& b.mask) vals).updatePred fr.t fr.c fr.f.predOp
          fr.f.predReg fr.e (maskOfLanes 32 (vals.map (· != 0))))) s

/-- DROP (R340): every beat held is discarded; on a buffer CP moves to PP. -/
def execDrop (f : Slot) (s : State) : Host.Outcome State Fault Refusal :=
  fire (.drop f) (fun s fr =>
    if !fr.any then .done s
    else match namedBuffer s fr.t fr.c fr.f.sa with
      | some (k, b) => .done ((s.markSlots fr.t b b.cp b.spanned false).setBuffer fr.t k { b with cp := b.pp })
      | none =>
        match fr.f.sa with
        | .i n =>
          let cx := s.ctx fr.t fr.c
          .done (s.setCtx fr.t fr.c { cx with ins := set8 cx.ins n.val [] })
        | _ => .done s) s

/-- TAGSET (R341). -/
def execTagset (f : Slot) (s : State) : Host.Outcome State Fault Refusal :=
  fire (.tagset f) (fun s fr =>
    match fr.f.dst with
    | .o n =>
      if fr.any then
        let cx := s.ctx fr.t fr.c
        .done (s.setCtx fr.t fr.c { cx with tags := set8 cx.tags n.val (BitVec.ofNat 3 fr.f.imm.toNat) })
      else .done s
    | _ => .done s) s

/-! ### Counter chains -/

/-- The index of level k: START + i · STRIDE modulo 2^32; an unused level reads 0 (R342). -/
def Counter.index (ch : Counter) (k : Nat) : Nat :=
  if k < ch.levels then (at4 ch.start k + at4 ch.pos k * at4 ch.stride k).toNat else 0

/-- Level k is last; an unused level always is (R342). -/
def Counter.isLast (ch : Counter) (k : Nat) : Bool :=
  decide (ch.levels ≤ k) || at4 ch.pos k == at4 ch.count k - 1

/-- The tuple is final: every level is last (R342). -/
def Counter.isFinal (ch : Counter) : Bool := (List.range 4).all ch.isLast

/-- Some used level has COUNT 0 (R343, R345). -/
def Counter.hasZero (ch : Counter) : Bool := (List.range 4).any fun k => decide (k < ch.levels) && at4 ch.count k == 0

/-- The chain at its first tuple (R343, R345). -/
def Counter.restart (ch : Counter) : Counter :=
  { ch with pos := Vector.replicate 4 0, n := 0, state := if ch.hasZero then .exhausted else .active }

/-- The positions after an advance that is not final: the innermost level that is not last moves, those below it return to 0 (R344). -/
def advancePos (ch : Counter) : Nat → Nat → Vector (BitVec 32) 4 → Vector (BitVec 32) 4
  | 0, _, pos => pos
  | fuel + 1, k, pos =>
    if ch.isLast k then advancePos ch fuel (k + 1) (set4 pos k 0) else set4 pos k (at4 pos k + 1)

/-- The advance of CNXT (R344). -/
def Counter.advance (ch : Counter) : Counter :=
  if ch.isFinal then
    if ch.wrap then { ch with pos := Vector.replicate 4 0, n := 0 } else { ch with state := .exhausted }
  else { ch with pos := advancePos ch 4 0 ch.pos, n := ch.n + 1 }

/-- The lanes of a tuple (R344). -/
def Counter.tuple (ch : Counter) : List Nat :=
  (List.range 4).map ch.index ++ [ch.n.toNat,
    packNat 1 ((List.range 4).map fun k => (ch.isLast k).toNat) + ch.isFinal.toNat * 16]

/-- A chain of the tile. -/
def State.counter (s : State) (t k : Nat) : Counter := at4 (s.tile t).counters k
def State.setCounter (s : State) (t k : Nat) (ch : Counter) : State :=
  let tl := s.tile t
  s.setTile t { tl with counters := set4 tl.counters k ch }

/-- CCFG (R343): START, COUNT and STRIDE of level k from lanes 3k, 3k+1 and 3k+2 of A read whole. -/
def execCcfg (f : Slot) (s : State) : Host.Outcome State Fault Refusal :=
  fire (.ccfg f) (fun s fr =>
    if !fr.any then .done s
    else
      let imm := fr.f.imm.toNat
      let levels := bits imm 2 3
      let old := s.counter fr.t (imm % 4)
      let field (v : Vector (BitVec 32) 4) (o : Nat) : Vector (BitVec 32) 4 :=
        Vector.ofFn fun k : Fin 4 => if k.val < levels then BitVec.ofNat 32 (lane 32 fr.a.val (3 * k.val + o)) else v[k]
      .done (s.setCounter fr.t (imm % 4)
        (Counter.restart { old with levels := levels, wrap := bitAt imm 5, start := field old.start 0,
                                    count := field old.count 1, stride := field old.stride 2 }))) s

/-- CNXT (R344). -/
def execCnxt (f : Slot) (s : State) : Host.Outcome State Fault Refusal :=
  fire (.cnxt f) (fun s fr =>
    let k := fr.f.imm.toNat % 4
    let ch := s.counter fr.t k
    let plev := bits fr.f.imm.toNat 2 3
    let c := if plev = 4 then ch.isFinal else ch.isLast plev
    let r : LaneResult := { vals := ch.tuple, cond := List.replicate 16 c, flags := [] }
    let s1 := applyLanes s fr r
    if fr.any then .done (s1.setCounter fr.t k ch.advance) else .done s1) s

/-- CRST (R345). -/
def execCrst (f : Slot) (s : State) : Host.Outcome State Fault Refusal :=
  fire (.crst f) (fun s fr =>
    if !fr.any then .done s
    else
      let k := fr.f.imm.toNat % 4
      let ch := s.counter fr.t k
      .done (s.setCounter fr.t k
        (if bitAt fr.f.imm.toNat 2 then { ch with state := .free }
         else if ch.state = .free then ch else ch.restart))) s

end Sys2Proof.Machine
end

