-- ==== Sys2Proof/Machine/Dispatch.lean ====
section
/-! DEFINITION. The meaning of every instruction and event: one direct call for each constructor of `Instr`. -/

namespace Sys2Proof.Machine

open Sys2Proof

/-- One instruction fired, or one event taken, in a state. -/
def exec (i : Instr) (s : State) : Host.Outcome State Fault Refusal :=
  match i with
  | .add f => Sys2Proof.Machine.execAdd f s
  | .sub f => Sys2Proof.Machine.execSub f s
  | .adds f => Sys2Proof.Machine.execAdds f s
  | .subs f => Sys2Proof.Machine.execSubs f s
  | .neg f => Sys2Proof.Machine.execNeg f s
  | .abs f => Sys2Proof.Machine.execAbs f s
  | .mul f => Sys2Proof.Machine.execMul f s
  | .mulh f => Sys2Proof.Machine.execMulh f s
  | .mulhz f => Sys2Proof.Machine.execMulhz f s
  | .mad f => Sys2Proof.Machine.execMad f s
  | .divs f => Sys2Proof.Machine.execDivs f s
  | .divz f => Sys2Proof.Machine.execDivz f s
  | .rems f => Sys2Proof.Machine.execRems f s
  | .remz f => Sys2Proof.Machine.execRemz f s
  | .min f => Sys2Proof.Machine.execMin f s
  | .max f => Sys2Proof.Machine.execMax f s
  | .minz f => Sys2Proof.Machine.execMinz f s
  | .maxz f => Sys2Proof.Machine.execMaxz f s
  | .and f => Sys2Proof.Machine.execAnd f s
  | .or f => Sys2Proof.Machine.execOr f s
  | .xor f => Sys2Proof.Machine.execXor f s
  | .not f => Sys2Proof.Machine.execNot f s
  | .andn f => Sys2Proof.Machine.execAndn f s
  | .shl f => Sys2Proof.Machine.execShl f s
  | .shr f => Sys2Proof.Machine.execShr f s
  | .sra f => Sys2Proof.Machine.execSra f s
  | .rol f => Sys2Proof.Machine.execRol f s
  | .clz f => Sys2Proof.Machine.execClz f s
  | .popc f => Sys2Proof.Machine.execPopc f s
  | .brev f => Sys2Proof.Machine.execBrev f s
  | .bfx f => Sys2Proof.Machine.execBfx f s
  | .bfi f => Sys2Proof.Machine.execBfi f s
  | .cmpeq f => Sys2Proof.Machine.execCmpeq f s
  | .cmpne f => Sys2Proof.Machine.execCmpne f s
  | .cmplt f => Sys2Proof.Machine.execCmplt f s
  | .cmple f => Sys2Proof.Machine.execCmple f s
  | .cmpltz f => Sys2Proof.Machine.execCmpltz f s
  | .cmplez f => Sys2Proof.Machine.execCmplez f s
  | .mov f => Sys2Proof.Machine.execMov f s
  | .movi f => Sys2Proof.Machine.execMovi f s
  | .sel f => Sys2Proof.Machine.execSel f s
  | .lea f => Sys2Proof.Machine.execLea f s
  | .shuf f => Sys2Proof.Machine.execShuf f s
  | .bcst f => Sys2Proof.Machine.execBcst f s
  | .idx f => Sys2Proof.Machine.execIdx f s
  | .scan f => Sys2Proof.Machine.execScan f s
  | .redadd f => Sys2Proof.Machine.execRedadd f s
  | .redmin f => Sys2Proof.Machine.execRedmin f s
  | .redmax f => Sys2Proof.Machine.execRedmax f s
  | .redand f => Sys2Proof.Machine.execRedand f s
  | .redor f => Sys2Proof.Machine.execRedor f s
  | .fadd f => Sys2Proof.Machine.execFadd f s
  | .fsub f => Sys2Proof.Machine.execFsub f s
  | .fmul f => Sys2Proof.Machine.execFmul f s
  | .ffma f => Sys2Proof.Machine.execFfma f s
  | .fmin f => Sys2Proof.Machine.execFmin f s
  | .fmax f => Sys2Proof.Machine.execFmax f s
  | .fabs f => Sys2Proof.Machine.execFabs f s
  | .fneg f => Sys2Proof.Machine.execFneg f s
  | .fscl f => Sys2Proof.Machine.execFscl f s
  | .frnd f => Sys2Proof.Machine.execFrnd f s
  | .fdiv f => Sys2Proof.Machine.execFdiv f s
  | .fsqrt f => Sys2Proof.Machine.execFsqrt f s
  | .frsq f => Sys2Proof.Machine.execFrsq f s
  | .frcp f => Sys2Proof.Machine.execFrcp f s
  | .fcmpeq f => Sys2Proof.Machine.execFcmpeq f s
  | .fcmplt f => Sys2Proof.Machine.execFcmplt f s
  | .fcmple f => Sys2Proof.Machine.execFcmple f s
  | .fcmpun f => Sys2Proof.Machine.execFcmpun f s
  | .fex2 f => Sys2Proof.Machine.execFex2 f s
  | .flg2 f => Sys2Proof.Machine.execFlg2 f s
  | .ftnh f => Sys2Proof.Machine.execFtnh f s
  | .fsig f => Sys2Proof.Machine.execFsig f s
  | .cvt src f => Sys2Proof.Machine.execCvt src f s
  | .cbenc f => Sys2Proof.Machine.execCbenc f s
  | .cbdec f => Sys2Proof.Machine.execCbdec f s
  | .pack f => Sys2Proof.Machine.execPack f s
  | .unpk f => Sys2Proof.Machine.execUnpk f s
  | .fflg f => Sys2Proof.Machine.execFflg f s
  | .fnoi f => Sys2Proof.Machine.execFnoi f s
  | .fgum f => Sys2Proof.Machine.execFgum f s
  | .chn f => Sys2Proof.Machine.execChn f s
  | .chnw f => Sys2Proof.Machine.execChnw f s
  | .mset f => Sys2Proof.Machine.execMset f s
  | .mldb f => Sys2Proof.Machine.execMldb f s
  | .mcbt f => Sys2Proof.Machine.execMcbt f s
  | .mprd f => Sys2Proof.Machine.execMprd f s
  | .mrow f => Sys2Proof.Machine.execMrow f s
  | .mout f => Sys2Proof.Machine.execMout f s
  | .mclr f => Sys2Proof.Machine.execMclr f s
  | .mspl f => Sys2Proof.Machine.execMspl f s
  | .mfil f => Sys2Proof.Machine.execMfil f s
  | .rowStepComplete tile => Sys2Proof.Machine.execRowStepComplete tile s
  | .skq f => Sys2Proof.Machine.execSkq f s
  | .skim f => Sys2Proof.Machine.execSkim f s
  | .skfw f => Sys2Proof.Machine.execSkfw f s
  | .skfn f => Sys2Proof.Machine.execSkfn f s
  | .skmg f => Sys2Proof.Machine.execSkmg f s
  | .skimBeatDrain tile slot => Sys2Proof.Machine.execSkimBeatDrain tile slot s
  | .skimPass tile => Sys2Proof.Machine.execSkimPass tile s
  | .skimMerge tile slot => Sys2Proof.Machine.execSkimMerge tile slot s
  | .skimBeatEmit tile slot => Sys2Proof.Machine.execSkimBeatEmit tile slot s
  | .nop f => Sys2Proof.Machine.execNop f s
  | .retire f => Sys2Proof.Machine.execRetire f s
  | .time f => Sys2Proof.Machine.execTime f s
  | .sread f => Sys2Proof.Machine.execSread f s
  | .trap f => Sys2Proof.Machine.execTrap f s
  | .brkp f => Sys2Proof.Machine.execBrkp f s
  | .pset f => Sys2Proof.Machine.execPset f s
  | .pclr f => Sys2Proof.Machine.execPclr f s
  | .pand f => Sys2Proof.Machine.execPand f s
  | .por f => Sys2Proof.Machine.execPor f s
  | .pxor f => Sys2Proof.Machine.execPxor f s
  | .pnot f => Sys2Proof.Machine.execPnot f s
  | .pmov f => Sys2Proof.Machine.execPmov f s
  | .pany f => Sys2Proof.Machine.execPany f s
  | .pall f => Sys2Proof.Machine.execPall f s
  | .steer f => Sys2Proof.Machine.execSteer f s
  | .merge f => Sys2Proof.Machine.execMerge f s
  | .csnd f => Sys2Proof.Machine.execCsnd f s
  | .crcv f => Sys2Proof.Machine.execCrcv f s
  | .advc f => Sys2Proof.Machine.execAdvc f s
  | .advp f => Sys2Proof.Machine.execAdvp f s
  | .qstat f => Sys2Proof.Machine.execQstat f s
  | .qpeek f => Sys2Proof.Machine.execQpeek f s
  | .drop f => Sys2Proof.Machine.execDrop f s
  | .tagset f => Sys2Proof.Machine.execTagset f s
  | .ccfg f => Sys2Proof.Machine.execCcfg f s
  | .cnxt f => Sys2Proof.Machine.execCnxt f s
  | .crst f => Sys2Proof.Machine.execCrst f s
  | .ld f => Sys2Proof.Machine.execLd f s
  | .st f => Sys2Proof.Machine.execSt f s
  | .ldw f => Sys2Proof.Machine.execLdw f s
  | .ldx f => Sys2Proof.Machine.execLdx f s
  | .stx f => Sys2Proof.Machine.execStx f s
  | .pft f => Sys2Proof.Machine.execPft f s
  | .ldfeClr f => Sys2Proof.Machine.execLdfeClr f s
  | .ldfeKeep f => Sys2Proof.Machine.execLdfeKeep f s
  | .stfe f => Sys2Proof.Machine.execStfe f s
  | .aadd f => Sys2Proof.Machine.execAadd f s
  | .amin f => Sys2Proof.Machine.execAmin f s
  | .amax f => Sys2Proof.Machine.execAmax f s
  | .aand f => Sys2Proof.Machine.execAand f s
  | .aor f => Sys2Proof.Machine.execAor f s
  | .axor f => Sys2Proof.Machine.execAxor f s
  | .aswp f => Sys2Proof.Machine.execAswp f s
  | .acas f => Sys2Proof.Machine.execAcas f s
  | .afadd f => Sys2Proof.Machine.execAfadd f s
  | .accessPerform access granule => Sys2Proof.Machine.execAccessPerform access granule s
  | .atomicReturnWrite access granule => Sys2Proof.Machine.execAtomicReturnWrite access granule s
  | .loadDataReturn access => Sys2Proof.Machine.execLoadDataReturn access s
  | .wmrg f => Sys2Proof.Machine.execWmrg f s
  | .wlft f => Sys2Proof.Machine.execWlft f s
  | .wlftH f => Sys2Proof.Machine.execWlftH f s
  | .wrdy f => Sys2Proof.Machine.execWrdy f s
  | .wwt f => Sys2Proof.Machine.execWwt f s
  | .wnul f => Sys2Proof.Machine.execWnul f s
  | .fenceD f => Sys2Proof.Machine.execFenceD f s
  | .hcpy f => Sys2Proof.Machine.execHcpy f s
  | .hred f => Sys2Proof.Machine.execHred f s
  | .ha2a f => Sys2Proof.Machine.execHa2a f s
  | .hcol f => Sys2Proof.Machine.execHcol f s
  | .hfng f => Sys2Proof.Machine.execHfng f s
  | .nzer f => Sys2Proof.Machine.execNzer f s
  | .ncpy f => Sys2Proof.Machine.execNcpy f s
  | .ncmp f => Sys2Proof.Machine.execNcmp f s
  | .nfen f => Sys2Proof.Machine.execNfen f s
  | .qapp f => Sys2Proof.Machine.execQapp f s
  | .qfen f => Sys2Proof.Machine.execQfen f s
  | .qseq f => Sys2Proof.Machine.execQseq f s
  | .queueReply request queue => Sys2Proof.Machine.execQueueReply request queue s
  | .dtab f => Sys2Proof.Machine.execDtab f s
  | .sqit f => Sys2Proof.Machine.execSqit f s
  | .dependencyEntryAppend column entry => Sys2Proof.Machine.execDependencyEntryAppend column entry s
  | .sequencerIterationAppend column queue => Sys2Proof.Machine.execSequencerIterationAppend column queue s
  | .engineRecordRead queue => Sys2Proof.Machine.execEngineRecordRead queue s
  | .hawkCopy queue => Sys2Proof.Machine.execHawkCopy queue s
  | .hawkReduce queue => Sys2Proof.Machine.execHawkReduce queue s
  | .hawkAllToAll queue => Sys2Proof.Machine.execHawkAllToAll queue s
  | .hawkCollectiveReplay queue => Sys2Proof.Machine.execHawkCollectiveReplay queue s
  | .hawkFingerprint queue => Sys2Proof.Machine.execHawkFingerprint queue s
  | .nearDramZero queue => Sys2Proof.Machine.execNearDramZero queue s
  | .nearDramCopy queue => Sys2Proof.Machine.execNearDramCopy queue s
  | .nearDramCompare queue => Sys2Proof.Machine.execNearDramCompare queue s
  | .nearDramFence queue => Sys2Proof.Machine.execNearDramFence queue s
  | .enginePeerMessage queue msg => Sys2Proof.Machine.execEnginePeerMessage queue msg s
  | .engineCommandCompletion queue => Sys2Proof.Machine.execEngineCommandCompletion queue s
  | .permitReturn queue => Sys2Proof.Machine.execPermitReturn queue s
  | .queueCtlAttach src queue value => Sys2Proof.Machine.execQueueCtlAttach src queue value s
  | .queueCtlDetach src queue value => Sys2Proof.Machine.execQueueCtlDetach src queue value s
  | .queueCtlRetry src queue value => Sys2Proof.Machine.execQueueCtlRetry src queue value s
  | .queueCtlSkip src queue value => Sys2Proof.Machine.execQueueCtlSkip src queue value s
  | .gini f => Sys2Proof.Machine.execGini f s
  | .gadv f => Sys2Proof.Machine.execGadv f s
  | .gmsk f => Sys2Proof.Machine.execGmsk f s
  | .gfrk f => Sys2Proof.Machine.execGfrk f s
  | .gcmt f => Sys2Proof.Machine.execGcmt f s
  | .grbk f => Sys2Proof.Machine.execGrbk f s
  | .gsav f => Sys2Proof.Machine.execGsav f s
  | .grst f => Sys2Proof.Machine.execGrst f s
  | .gsta f => Sys2Proof.Machine.execGsta f s
  | .stencilCommandCompletion column command => Sys2Proof.Machine.execStencilCommandCompletion column command s
  | .creq f => Sys2Proof.Machine.execCreq f s
  | .creqReplace f => Sys2Proof.Machine.execCreqReplace f s
  | .creqResolve request => Sys2Proof.Machine.execCreqResolve request s
  | .crel f => Sys2Proof.Machine.execCrel f s
  | .etrg f => Sys2Proof.Machine.execEtrg f s
  | .tlbir f => Sys2Proof.Machine.execTlbir f s
  | .tlbInvalidateApply invalidation cache => Sys2Proof.Machine.execTlbInvalidateApply invalidation cache s
  | .tlbsy f => Sys2Proof.Machine.execTlbsy f s
  | .tlbsyDrained request => Sys2Proof.Machine.execTlbsyDrained request s
  | .ksltAssign f => Sys2Proof.Machine.execKsltAssign f s
  | .ksltLoad f => Sys2Proof.Machine.execKsltLoad f s
  | .ksltGenerate f => Sys2Proof.Machine.execKsltGenerate f s
  | .ksltClear f => Sys2Proof.Machine.execKsltClear f s
  | .keyClearEnd key => Sys2Proof.Machine.execKeyClearEnd key s
  | .dctlDefine f => Sys2Proof.Machine.execDctlDefine f s
  | .dctlQuiesce f => Sys2Proof.Machine.execDctlQuiesce f s
  | .dctlScrub f => Sys2Proof.Machine.execDctlScrub f s
  | .dctlSwitch f => Sys2Proof.Machine.execDctlSwitch f s
  | .dctlReload f => Sys2Proof.Machine.execDctlReload f s
  | .ecnt f => Sys2Proof.Machine.execEcnt f s
  | .frec f => Sys2Proof.Machine.execFrec f s
  | .frsmRetry f => Sys2Proof.Machine.execFrsmRetry f s
  | .frsmRetire f => Sys2Proof.Machine.execFrsmRetire f s
  | .frsmKill f => Sys2Proof.Machine.execFrsmKill f s
  | .chainGroup tile => Sys2Proof.Machine.execChainGroup tile s
  | .outputBeatDepart tile ctx ep => Sys2Proof.Machine.execOutputBeatDepart tile ctx ep s
  | .linkBeatSend site port => Sys2Proof.Machine.execLinkBeatSend site port s
  | .routerRoute site port vc => Sys2Proof.Machine.execRouterRoute site port vc s
  | .conditionTokenHop site port channel => Sys2Proof.Machine.execConditionTokenHop site port channel s
  | .linkRetry site port => Sys2Proof.Machine.execLinkRetry site port s
  | .linkDegraded site port => Sys2Proof.Machine.execLinkDegraded site port s
  | .linkDown site port => Sys2Proof.Machine.execLinkDown site port s
  | .poisonNotice access granule => Sys2Proof.Machine.execPoisonNotice access granule s
  | .ringDown port => Sys2Proof.Machine.execRingDown port s
  | .logicError tile struck => Sys2Proof.Machine.execLogicError tile struck s
  | .epochOpen level group => Sys2Proof.Machine.execEpochOpen level group s
  | .epochAcknowledge level group writer => Sys2Proof.Machine.execEpochAcknowledge level group writer s
  | .epochClose level group => Sys2Proof.Machine.execEpochClose level group s
  | .closurePulseReceipt level group writer => Sys2Proof.Machine.execClosurePulseReceipt level group writer s
  | .epochPeriodWrite src level value => Sys2Proof.Machine.execEpochPeriodWrite src level value s
  | .mscfFlush src value => Sys2Proof.Machine.execMscfFlush src value s
  | .mscFlushComplete => Sys2Proof.Machine.execMscFlushComplete s
  | .launchPacket port => Sys2Proof.Machine.execLaunchPacket port s
  | .launchDataBeat port => Sys2Proof.Machine.execLaunchDataBeat port s
  | .resynchronisationBeat port => Sys2Proof.Machine.execResynchronisationBeat port s
  | .undelimitableBeat port => Sys2Proof.Machine.execUndelimitableBeat port s
  | .pendingPoolScan domain asid => Sys2Proof.Machine.execPendingPoolScan domain asid s
  | .fallbackEnter domain asid => Sys2Proof.Machine.execFallbackEnter domain asid s
  | .energyWindow domain => Sys2Proof.Machine.execEnergyWindow domain s
  | .energyCtlWrite src domain value => Sys2Proof.Machine.execEnergyCtlWrite src domain value s
  | .preemption domain => Sys2Proof.Machine.execPreemption domain s
  | .regionQuiesced domain evict address => Sys2Proof.Machine.execRegionQuiesced domain evict address s
  | .saveImageRestore domain number move fence => Sys2Proof.Machine.execSaveImageRestore domain number move fence s
  | .matrixOwnerSpill tile => Sys2Proof.Machine.execMatrixOwnerSpill tile s
  | .refillRequest tile entry => Sys2Proof.Machine.execRefillRequest tile entry s
  | .faultRecordEnqueue domain => Sys2Proof.Machine.execFaultRecordEnqueue domain s
  | .thermalClamp sector sensor tenths => Sys2Proof.Machine.execThermalClamp sector sensor tenths s
  | .thermalClampRelease domain => Sys2Proof.Machine.execThermalClampRelease domain s
  | .thermalHalt sensor tenths => Sys2Proof.Machine.execThermalHalt sensor tenths s
  | .thermalResume sensor tenths => Sys2Proof.Machine.execThermalResume sensor tenths s
  | .powerRemove => Sys2Proof.Machine.execPowerRemove s
  | .bootSequence found => Sys2Proof.Machine.execBootSequence found s
  | .managementPortReset => Sys2Proof.Machine.execManagementPortReset s
  | .hostRequestRefused access => Sys2Proof.Machine.execHostRequestRefused access s
  | .ingressCtlWrite src port value => Sys2Proof.Machine.execIngressCtlWrite src port value s
  | .domCtlWrite src domain value => Sys2Proof.Machine.execDomCtlWrite src domain value s
  | .domShareWrite src domain value => Sys2Proof.Machine.execDomShareWrite src domain value s
  | .domTrustWrite src domain value => Sys2Proof.Machine.execDomTrustWrite src domain value s
  | .stencilCtlWrite src column value => Sys2Proof.Machine.execStencilCtlWrite src column value s
  | .attestReport src domain value => Sys2Proof.Machine.execAttestReport src domain value s
  | .attestPublicKey src domain value => Sys2Proof.Machine.execAttestPublicKey src domain value s
  | .tileRetire tile reason => Sys2Proof.Machine.execTileRetire tile reason s
  | .scrubPass place corrected uncorrectable => Sys2Proof.Machine.execScrubPass place corrected uncorrectable s
  | .deviceTimeSlew forward ns => Sys2Proof.Machine.execDeviceTimeSlew forward ns s
  | .precisionTimeMeasurement => Sys2Proof.Machine.execPrecisionTimeMeasurement s
  | .registerWrite src address value => Sys2Proof.Machine.execRegisterWrite src address value s
  | .hostLinkAccess access => Sys2Proof.Machine.execHostLinkAccess access s
  | .hostLinkEnumeration => Sys2Proof.Machine.execHostLinkEnumeration s

end Sys2Proof.Machine
end

