-- ==== Sys2Proof/Machine/Step.lean ====
section
/-! DEFINITION. One step of the machine: the unit at the head of the agenda moves (assumption log 1). -/

namespace Sys2Proof.Machine

open Sys2Proof

/-- The agenda's next turn, and the state with it taken: the listed turns, then whichever unit moves. -/
def State.takeTurn (s : State) : Turn × State :=
  let s1 := { s with steps := s.steps + 1, ticks := s.ticks + Config.elapsed s.steps }
  match s.agenda with
  | turn :: rest => (turn, { s1 with agenda := rest })
  | [] => (Config.nextTurn s.steps, s1)

/-- One cycle of an element: contexts whose retry witness has become true resume (R475), witnesses that slots wait for are lifted (R246),
the arbiter picks a slot, the slot's word is decoded and the
instruction fires (R326). -/
def elementStep (t : Nat) (s0 : State) : Host.Outcome State Fault Refusal :=
  let s := (s0.wake t).useWitnesses t
  match s.arbitrate t with
  | none => .next s
  | some (c, slot) =>
    match s.slotInstr t c slot with
    | .error e => .refused (.undefinedSlotWord e)
    | .ok i => exec i { s with cur := { tile := t, ctx := c, slot := slot } }

/-- One step. -/
def step (s : State) : Host.Outcome State Fault Refusal :=
  let r := s.takeTurn
  match r.1 with
  | .element t => elementStep t r.2
  | .event i => exec i r.2

/-- The state in which the very next step fires the slot word `w` as slot 0 of context 0 of tile 0: the device is ready, domain 0 owns the
module, and a configuration of one privileged context with that one slot stands loaded (log 3). -/
def State.withFetchWord (s : State) (nbits w : Nat) : State :=
  let word : SlotWord := BitVec.ofNat 128 (w % 2 ^ nbits)
  let cw : CtxWord := { CtxWord.clean with valid := true, priv := true, slots := 1 }
  let tl := s.tile 0
  { (s.setTile 0 { tl.setCtx 0 (Ctx.loaded cw [word]) with last := 7 }).setDomain 0
      { s.domain 0 with shape := ⟨0, 0, 4, 4⟩ } with
    phase := 8, thermalHalt := false, agenda := [.element 0] }

end Sys2Proof.Machine
end

