-- ==== Sys2Proof/Safety.lean ====
section
/-! DEFINITION. The terms in which statements are made: when a slot instruction fires, what a firing whose result is given lane by lane leaves behind
and what it leaves alone, and the invariant that memory keeps. -/

namespace Sys2Proof.Machine

open Sys2Proof

/-! ### Firings -/

/-- The firing of a slot instruction at the cursor: none when the slot is not eligible (R323), when a source token cannot be read (R127, R139), or when a
source would read another configuration's codebook (R191). -/
def State.firingOf (s : State) (i : Instr) : Option Firing :=
  match toCode i with
  | none => none
  | some (opc, opSub, f) =>
    match opRow opc opSub with
    | none => none
    | some row =>
      let t := s.cur.tile
      let c := s.cur.ctx
      if !(readyCommon i row f s t c s.cur.slot && readyOwn i s t c s.cur.slot) then none
      else match readOperands i row f s t c s.cur.slot with
      | .error _ => none
      | .ok fr => if decodesCb4 i row f s t c && ownerFault (s.tile t) && fr.e != 0 then none else some fr

/-- What follows the effects of a firing: the flags of channel decoding (R121), the beats of ADV and the arbiter's L (R50, R326). -/
def State.finished (s1 : State) (i : Instr) (s : State) (fr : Firing) : State :=
  (s1.raise s.cur.tile s.cur.ctx fr.decodeFlags).afterFiring s.cur.tile s.cur.ctx (advMask i (s.ctx s.cur.tile s.cur.ctx) fr.f)

/-- A well-formed slot instruction whose firings under a condition complete with an effect. -/
def Completes (mk : Slot → Instr) (cond : State → Firing → Prop) (effect : State → Firing → State) : Prop :=
  ∀ f s fr, (mk f).wf = true → s.firingOf (mk f) = some fr → cond s fr → exec (mk f) s = .next ((effect s fr).finished (mk f) s fr)

/-- A well-formed slot instruction whose firings under a condition halt their context instead (R469): the fault named is recorded, and nothing else of the
firing happens. `reads` tells whether the instruction reads operands A or B, which the record then holds (R470). -/
def Halts (mk : Slot → Instr) (reads : Bool) (cond : State → Firing → Prop) (info : State → Firing → FaultInfo) : Prop :=
  ∀ f s fr, (mk f).wf = true → s.firingOf (mk f) = some fr → cond s fr →
    exec (mk f) s = .next (s.haltCtx s.cur.tile s.cur.ctx s.cur.slot
      { info s fr with operands := if reads then some (fr.a.val, fr.b.val) else none })

/-- An event that under a condition changes the state as given. -/
def Happens (i : Instr) (cond : State → Prop) (effect : State → State) : Prop := ∀ s, cond s → exec i s = .next (effect s)

/-! ### Results lane by lane -/

/-- The three operands of a lane as bits. -/
def Firing.na (fr : Firing) (l : Nat) : Nat := lane fr.w fr.a.val l
def Firing.nb (fr : Firing) (l : Nat) : Nat := lane fr.w fr.b.val l
def Firing.nc (fr : Firing) (l : Nat) : Nat := lane fr.w fr.cc.val l

/-- The three operands of a lane as integers of the slot's type (R108). -/
def Firing.ia (fr : Firing) (l : Nat) : Int := intOf fr.f.ty.signed fr.w (fr.na l)
def Firing.ib (fr : Firing) (l : Nat) : Int := intOf fr.f.ty.signed fr.w (fr.nb l)
def Firing.ic (fr : Firing) (l : Nat) : Int := intOf fr.f.ty.signed fr.w (fr.nc l)

/-- A division is exceptional in a lane: by zero, or of the least value of a signed type by -1 (R143). -/
def Firing.exceptional (fr : Firing) (l : Nat) : Bool :=
  fr.ib l == 0 || (fr.f.ty.signed && fr.ia l == intMin fr.f.ty.signed fr.w && fr.ib l == -1)

/-- The flags that lanes raise together: those of the lanes of E (R121). -/
def Firing.gather (fr : Firing) (fl : Nat → FpFlags) : FpFlags := ((List.range fr.n).filter fr.on).foldl (fun acc l => acc ||| fl l) 0

/-- What a firing with results `val`, conditions `c` and flags `fl` in its lanes leaves behind and leaves alone. -/
structure LaneEffect (i : Instr) (s : State) (fr : Firing) (val : Nat → Nat) (c : Nat → Bool) (fl : Nat → FpFlags) (t : State) : Prop where
  /-- A destination register holds the results in the lanes of E and keeps its other lanes (R44, R46, R136). -/
  dest : ∀ k, fr.f.dst = .d k → ∀ l, l < fr.n →
    lane fr.w (at8 (t.ctx fr.t fr.c).d k.val) l = if fr.on l then val l % 2 ^ fr.w else lane fr.w (at8 (s.ctx fr.t fr.c).d k.val) l
  /-- Every other data register is unchanged. -/
  keeps : ∀ k : Fin 8, fr.f.dst ≠ .d k → at8 (t.ctx fr.t fr.c).d k.val = at8 (s.ctx fr.t fr.c).d k.val
  /-- Predicates: C in the lanes of E of a predicate destination, then the update of the slot; nothing outside E (R48, R149). -/
  pred : ∀ (k : Fin 8) (b : Nat), b < 16 →
    (at8 (t.ctx fr.t fr.c).p k.val).getLsbD b =
      (let old := (at8 (s.ctx fr.t fr.c).p k.val).getLsbD b
       let l := b / (fr.w / 32)
       if !fr.on l then old
       else
         let written := if fr.f.dst = .p k then c l else old
         if fr.f.predReg = k then PredOp.bit fr.f.predOp written (c l) else written)
  /-- FP_FLAGS collects the flags of the lanes of E and of channel decoding, and loses none (R120, R121). -/
  flags : (t.ctx fr.t fr.c).flags = (s.ctx fr.t fr.c).flags ||| fr.gather fl ||| fr.decodeFlags
  /-- The beats of ADV are consumed, and no others (R50). -/
  ins : ∀ k : Fin 8, at8 (t.ctx fr.t fr.c).ins k.val =
    if (advMask i (s.ctx fr.t fr.c) fr.f).getLsbD k.val then (at8 (s.ctx fr.t fr.c).ins k.val).tail else at8 (s.ctx fr.t fr.c).ins k.val
  /-- An output endpoint that is the destination, and is no circular buffer's, holds one more beat: the results in the lanes of E, zero elsewhere, with E as
  its mask and the endpoint's current tag (R51); no other endpoint changes. -/
  sent : ∀ k : Fin 8, fr.f.dst = .o k → (at8 (s.ctx fr.t fr.c).word.obind k.val).buf? = none →
    ∃ b, at8 (t.ctx fr.t fr.c).outs k.val = at8 (s.ctx fr.t fr.c).outs k.val ++ [.full b] ∧ b.tag = at8 (s.ctx fr.t fr.c).tags k.val ∧ b.poison = false
      ∧ (∀ l, l < fr.n → lane fr.w b.payload l = if fr.on l then val l % 2 ^ fr.w else 0)
      ∧ ∀ x, x < 16 → b.mask.getLsbD x = fr.on (x / (fr.w / 32))
  outs : ∀ k : Fin 8, fr.f.dst ≠ .o k → at8 (t.ctx fr.t fr.c).outs k.val = at8 (s.ctx fr.t fr.c).outs k.val
  /-- Nothing else of the context changes. -/
  ctx : { t.ctx fr.t fr.c with
            d := (s.ctx fr.t fr.c).d, p := (s.ctx fr.t fr.c).p, flags := (s.ctx fr.t fr.c).flags, outs := (s.ctx fr.t fr.c).outs,
            ins := (s.ctx fr.t fr.c).ins } = s.ctx fr.t fr.c
  /-- The other contexts of the tile are unchanged. -/
  siblings : ∀ k, k % 8 ≠ fr.c % 8 → t.ctx fr.t k = s.ctx fr.t k
  /-- The arbiter's L names the context (R326), and nothing else of the tile changes but the beat count of a circular buffer written to. -/
  tile : { t.tile fr.t with ctxs := (s.tile fr.t).ctxs, last := (s.tile fr.t).last, buffers := (s.tile fr.t).buffers } = s.tile fr.t
  last : (t.tile fr.t).last = fr.c
  tiles : ∀ k, k ≠ fr.t → t.tile k = s.tile k
  /-- Every byte of memory and every special register is unchanged: only a beat written to a circular buffer takes a store number and an access. -/
  rest : { t with tiles := s.tiles, accesses := s.accesses, nextAccess := s.nextAccess, writers := s.writers } = s
  quiet : (∀ k : Fin 8, fr.f.dst = .o k → (at8 (s.ctx fr.t fr.c).word.obind k.val).buf? = none) →
    { t with tiles := s.tiles } = s ∧ (t.tile fr.t).buffers = (s.tile fr.t).buffers

/-- A well-formed slot instruction whose every firing has a result in each lane of its form. -/
def LaneSpec (mk : Slot → Instr) (val : State → Firing → Nat → Nat) (c : State → Firing → Nat → Bool) (fl : State → Firing → Nat → FpFlags) : Prop :=
  ∀ f s fr, (mk f).wf = true → s.firingOf (mk f) = some fr →
    ∃ t, exec (mk f) s = .next t ∧ LaneEffect (mk f) s fr (val s fr) (c s fr) (fl s fr) t

/-- A lane instruction that raises no flag and whose C is that the result is not zero (R145, R154). -/
def PlainSpec (mk : Slot → Instr) (val : Firing → Nat → Nat) : Prop :=
  LaneSpec mk (fun _ fr l => val fr l) (fun _ fr l => val fr l != 0) (fun _ _ _ => 0)

/-- A lane instruction whose result is an integer, delivered modulo 2^w (R108, R141). -/
def IntSpec (mk : Slot → Instr) (val : Firing → Nat → Int) : Prop := PlainSpec mk fun fr l => wrap fr.w (val fr l)

/-- A floating-point instruction: the function of one element applied to each lane, in a packed form to both halves of it (R100, R160); C is that the result
is not a zero (R161), and the flags are those of the function. -/
def FloatSpec (mk : Slot → Instr) (g : Slot → Fmt → Nat → Nat → Nat → FRes) : Prop :=
  let r (fr : Firing) (l : Nat) : FRes × Bool := floatLane fr.f.ty fr.f.pk (g fr.f) (fr.na l) (fr.nb l) (fr.nc l)
  LaneSpec mk (fun _ fr l => (r fr l).1.bits) (fun _ fr l => (r fr l).2) (fun _ fr l => (r fr l).1.flags)

/-- A well-formed slot instruction whose firings under a condition have a result in each lane of a view of the firing, on top of what the instruction does
besides (`pre`, which leaves the context's registers and endpoints alone unless it says so). -/
def LaneSpecOn (mk : Slot → Instr) (cond : State → Firing → Prop) (pre : State → Firing → State) (view : Firing → Firing)
    (val : State → Firing → Nat → Nat) (c : State → Firing → Nat → Bool) (fl : State → Firing → Nat → FpFlags) : Prop :=
  ∀ f s fr, (mk f).wf = true → s.firingOf (mk f) = some fr → cond s fr →
    ∃ t, exec (mk f) s = .next t ∧ LaneEffect (mk f) (pre s fr) (view fr) (val s fr) (c s fr) (fl s fr) t

/-- The firing with its lanes counted as 64-bit lanes: lane j is in E when bit 2j is (R46, R109). -/
def Firing.as64 (fr : Firing) : Firing := { fr with w := 64 }

/-- A witness delivered whole to every 64-bit lane of E, with C = (witness is not zero), on top of `pre` (R109, R237, R281). -/
def WitnessSpec (mk : Slot → Instr) (cond : State → Firing → Prop) (pre : State → Firing → State) (wit : State → Firing → W64) : Prop :=
  LaneSpecOn mk cond pre Firing.as64 (fun s fr _ => (wit s fr).toNat) (fun s fr _ => wit s fr != 0) (fun _ _ _ => 0)

/-- A predicate instruction: C in the lanes of E of its destination, and the predicate update from the same C (R333). -/
def PredSpec (mk : Slot → Instr) (cond : State → Firing → Prop) (pre : State → Firing → State) (c : State → Firing → Nat → Bool) : Prop :=
  LaneSpecOn mk cond pre id (fun _ _ _ => 0) c (fun _ _ _ => 0)

/-- Nothing but one tile changes, and what a beat written to a circular buffer puts in flight: every byte of memory and every special register stays. -/
def LocalTo (s t : State) (k : Nat) : Prop :=
  (∀ j, j ≠ k → t.tile j = s.tile j) ∧
  { t with tiles := s.tiles, accesses := s.accesses, nextAccess := s.nextAccess, writers := s.writers } = s

/-- A row-engine instruction that fires with a lane of E while no other configuration owns dirty state (R188, R191): where its own conditions hold it leaves
the engine given, owned and dirty, and nothing else of the machine changes but what follows every firing; with no lane of E it changes no engine. -/
def EngineSpec (mk : Slot → Instr) (ok : RowEngine → Firing → Prop) (engine : RowEngine → Firing → RowEngine) : Prop :=
  Completes mk (fun s fr => fr.any = true ∧ ownerFault (s.tile fr.t) = false ∧ ok (s.tile fr.t).engine fr)
    (fun s fr => s.setEngine fr.t (engine (s.tile fr.t).engine fr)) ∧
  Completes mk (fun _ fr => fr.any = false) (fun s _ => s)

/-! ### What a statement names -/

/-- The state in which a CHN has queued its chain: GROUPS store numbers taken at once, and the chain last in the tile's queue (R179, R183, R236). -/
def State.chainQueued (s : State) (fr : Firing) : State :=
  let groups := fr.f.imm.toNat / 16
  let run : ChainRun :=
    { desc := fr.f.imm.toNat % 4, ctx := fr.c, slot := fr.slot, flags := 0, next := 0, groups := groups, x := fr.a64 0, y := fr.b64 0,
      z := lane 64 fr.cc.val 0, number := (s.writer fr.t).issued + 1, order := s.nextAccess, fence := (s.tile fr.t).fences,
      reads := [], write := none }
  let wr := s.writer fr.t
  let s1 := { s.setWriter fr.t { wr with issued := wr.issued + groups } with nextAccess := s.nextAccess + 1 }
  s1.setTile fr.t { s1.tile fr.t with queue := (s.tile fr.t).queue ++ [{ run with stalls := s1.chainOn fr.t run fun m => m == .strong }] }

/-- An access that a group of a chain makes (R181, R183): under the firing order and the fences of its CHN, with a store number or none, and these granules. -/
structure GroupAccess (s : State) (t : Nat) (run : ChainRun) (number : Nat) (pieces : List Piece) (a : Access) : Prop where
  id : a.id = s.nextAccess
  origin : a.origin = .chain
  by' : a.writer = t ∧ a.tile = t ∧ a.ctx = run.ctx ∧ a.slot = run.slot ∧ a.asid = (s.tile t).asid
  order : a.order = run.order ∧ a.fence = run.fence
  number : a.number = number
  pieces : a.pieces = pieces ∧ a.results = [] ∧ a.backs = [] ∧ a.returns = []

/-- What a group of a chain leaves that meets a fault (R185): it writes nothing, the chain and the later chains of its context are gone, the context goes on with
the fault kept for its next CHNW and the flags gathered, and one record that halts nothing names the chain, the group and the address. -/
structure ChainStops (s : State) (t : Nat) (run : ChainRun) (flags : FpFlags) (cls cause address : Nat) (u : State) : Prop where
  mem : u.mem = s.mem
  queue : (u.tile t).queue = (s.tile t).queue.filter fun r => r.ctx != run.ctx
  fault : (u.ctx t run.ctx).chainFault = (s.ctx t run.ctx).chainFault.or (some (cls, cause, run.desc, run.next, address))
  flags : (u.ctx t run.ctx).chainFlags = (s.ctx t run.ctx).chainFlags ||| flags
  goesOn : (u.ctx t run.ctx).run = (s.ctx t run.ctx).run ∧ ∀ k, at8 (u.ctx t run.ctx).d k = at8 (s.ctx t run.ctx).d k
  record : ∃ r, u.records = s.records ++ [r] ∧ r.source = t ∧ r.ctx = run.ctx ∧ r.slot = run.slot ∧ r.cls = cls ∧ r.cause = cause ∧ r.halted = false ∧
    r.chain = true ∧ r.address = address ∧ r.detail = BitVec.ofNat 128 (run.desc + run.next * 2 ^ 32)
  tiles : ∀ k, k ≠ t → u.tile k = s.tile k

/-! ### Loads, stores and atomics -/

/-- Registers, predicates and flags of a firing's context are those of a state; beats of ADV are consumed. -/
def SameRegisters (i : Instr) (s t : State) (fr : Firing) : Prop :=
  (∀ k : Fin 8, at8 (t.ctx fr.t fr.c).d k.val = at8 (s.ctx fr.t fr.c).d k.val ∧ at8 (t.ctx fr.t fr.c).p k.val = at8 (s.ctx fr.t fr.c).p k.val ∧
    at8 (t.ctx fr.t fr.c).ins k.val =
      if (advMask i (s.ctx fr.t fr.c) fr.f).getLsbD k.val then (at8 (s.ctx fr.t fr.c).ins k.val).tail else at8 (s.ctx fr.t fr.c).ins k.val) ∧
  (t.ctx fr.t fr.c).flags = (s.ctx fr.t fr.c).flags ||| fr.decodeFlags

/-- A load at its firing (R259-R264): with no lane of E it writes nothing; a fault of its lanes stops it, or, when it is one of translation, permission or poison and the
destination is nul, is counted in NUL_FAULTS; otherwise one access without a store number is in flight, with a piece for each granule, or for each lane of a gather, and its
destination is outstanding, while no register and no byte of memory has changed. -/
def LoadSpec (mk : Slot → Instr) (reads : Bool) (form : State → Firing → LoadForm) : Prop :=
  let plan (s : State) (fr : Firing) : List Planned := (planLanes s fr.t (form s fr).lanes).1
  let fault (s : State) (fr : Firing) : Option FaultInfo :=
    accessFault fr.f.ty (form s fr).need (form s fr).tier (s.standing fr.t (form s fr).wit == .malformed) (form s fr).wit (plan s fr)
  let counted (fr : Firing) (fi : FaultInfo) : Prop := fr.f.dst = .nul ∧ (fi.cls = 4 ∨ fi.cls = 5 ∨ fi.cls = 6)
  LaneSpecOn mk (fun _ fr => fr.any = false) (fun s _ => s) id (fun _ _ _ => 0) (fun _ _ _ => false) (fun _ _ _ => 0) ∧
  (∀ fi, Halts mk reads (fun s fr => fr.any = true ∧ fault s fr = some fi ∧ ¬ counted fr fi) (fun _ _ => fi)) ∧
  (∀ f s fr fi, (mk f).wf = true → s.firingOf (mk f) = some fr → fr.any = true → fault s fr = some fi → counted fr fi →
    ∃ t, exec (mk f) s = .next t ∧ SameRegisters (mk f) s t fr ∧ t.mem = s.mem ∧ t.accesses = s.accesses ∧ t.outstanding = s.outstanding ∧
      t.records = s.records ∧ (t.ctx fr.t fr.c).run = (s.ctx fr.t fr.c).run ∧ (t.ctx fr.t fr.c).nulFaults = min ((s.ctx fr.t fr.c).nulFaults + 1) 0xFFFF) ∧
  ∀ f s fr, (mk f).wf = true → s.firingOf (mk f) = some fr → fr.any = true → fault s fr = none →
    ∃ t a o, exec (mk f) s = .next t ∧ SameRegisters (mk f) s t fr ∧ t.mem = s.mem ∧ (∀ k, k ≠ fr.t → t.tile k = s.tile k) ∧
      (∀ k, k < s.accesses.length → t.accesses[k]? = s.accesses[k]?) ∧ t.accesses[s.accesses.length]? = some a ∧
      a.id = s.nextAccess ∧ a.writer = fr.t ∧ a.ctx = fr.c ∧ a.number = 0 ∧ a.given = (form s fr).wit ∧ a.results = [] ∧ a.stalls = anyStrong a.pieces ∧
      (let sp := (plan s fr).filterMap (Planned.spot fr.f.ty)
       let op (xs : List Spot) : PieceOp := (form s fr).op (xs.map (·.lane))
       a.pieces = if (form s fr).gather then lanePieces s sp op else ascending (piecesOf s sp op)) ∧
      t.outstanding = s.outstanding ++ [o] ∧ o.id = a.id ∧ o.tile = fr.t ∧ o.ctx = fr.c ∧ o.dst = fr.f.dst ∧ o.e = fr.e ∧ o.w = fr.w ∧ o.predReg = fr.f.predReg ∧
      o.predOp = fr.f.predOp ∧ o.witness = none

/-- What a store or atomic leaves once it has fired (R236, R237, R260, R261): one access under the element's next store number, and its witness delivered at once to the 64-bit
lanes of E, with C = 1 in every lane of E, unless a page is strongly ordered (R268): then its context stalls, and the destination is outstanding until the store has been performed. -/
structure StoreEffect (i : Instr) (s : State) (fr : Firing) (pieces : List Piece) (strong : Bool) (t : State) : Prop where
  mem : t.mem = s.mem
  tiles : ∀ k, k ≠ fr.t → t.tile k = s.tile k
  older : ∀ k, k < s.accesses.length → t.accesses[k]? = s.accesses[k]?
  access : ∃ a, t.accesses[s.accesses.length]? = some a ∧ a.id = s.nextAccess ∧ a.writer = fr.t ∧ a.ctx = fr.c ∧ a.number = (s.writer fr.t).issued + 1 ∧ a.pieces = pieces ∧ a.stalls = strong
  number : (∀ k : Fin 8, fr.f.dst ≠ .o k) → (t.writer fr.t).issued = (s.writer fr.t).issued + 1
  dest : strong = false → ∀ k, fr.f.dst = .d k → ∀ j, j < 8 →
    lane 64 (at8 (t.ctx fr.t fr.c).d k.val) j =
      if fr.as64.on j then (localWitness fr.t ((s.writer fr.t).issued + 1)).toNat else lane 64 (at8 (s.ctx fr.t fr.c).d k.val) j
  keeps : ∀ k : Fin 8, fr.f.dst ≠ .d k ∨ strong = true → at8 (t.ctx fr.t fr.c).d k.val = at8 (s.ctx fr.t fr.c).d k.val
  pred : ∀ (k : Fin 8) (b : Nat), b < 16 → (at8 (t.ctx fr.t fr.c).p k.val).getLsbD b =
    if fr.on (b / (fr.w / 32)) && decide (fr.f.predReg = k) && !strong
    then PredOp.bit fr.f.predOp ((at8 (s.ctx fr.t fr.c).p k.val).getLsbD b) true else (at8 (s.ctx fr.t fr.c).p k.val).getLsbD b
  outstanding : if strong then
      ∃ o, t.outstanding = s.outstanding ++ [o] ∧ o.id = s.nextAccess ∧ o.dst = fr.f.dst ∧ o.e = fr.e ∧ o.witness = some (localWitness fr.t ((s.writer fr.t).issued + 1))
    else t.outstanding = s.outstanding
  flags : (t.ctx fr.t fr.c).flags = (s.ctx fr.t fr.c).flags ||| fr.decodeFlags

/-- A store at its firing (R259, R260, R272, R273, R276): with no lane of E it takes no number and writes nothing; a fault of its lanes stops it; otherwise it is in flight. -/
def StoreSpec (mk : Slot → Instr) (form : State → Firing → StoreForm) : Prop :=
  let plan (s : State) (fr : Firing) : List Planned := (planLanes s fr.t (form s fr).lanes).1
  let fault (s : State) (fr : Firing) : Option FaultInfo :=
    accessFault fr.f.ty { w := true } (form s fr).tier (s.standing fr.t (form s fr).wit == .malformed) (form s fr).wit (plan s fr)
  LaneSpecOn mk (fun _ fr => fr.any = false) (fun s _ => s) id (fun _ _ _ => 0) (fun _ _ _ => false) (fun _ _ _ => 0) ∧
  (∀ fi, Halts mk true (fun s fr => fr.any = true ∧ fault s fr = some fi) (fun _ _ => fi)) ∧
  ∀ f s fr, (mk f).wf = true → s.firingOf (mk f) = some fr → fr.any = true → fault s fr = none →
    let spots := (plan s fr).filterMap (Planned.spot fr.f.ty)
    let op (xs : List Spot) : PieceOp := .store (storeBits (form s fr).val xs).1 (storeBits (form s fr).val xs).2 (form s fr).setFull false
    let ps := if (form s fr).scatter then scatterPieces s spots op else ascending (piecesOf s spots op)
    ∃ t, exec (mk f) s = .next t ∧ StoreEffect (mk f) s fr ps (anyStrong ps) t

/-- An atomic at its firing (R277-R279): the higher of its target's and its return address's faults stops it; otherwise it is in flight as a store is, and the old values of its
lanes are due to the return array. -/
def AtomicSpec (mk : Slot → Instr) (op : AtomicOp) : Prop :=
  let plan (s : State) (fr : Firing) : List Planned × State := planLanes s fr.t (fr.contiguous (fr.a64 0))
  let back (s : State) (fr : Firing) : List Planned := if fr.a64 1 = 0 ∨ fr.a64 1 % 64 ≠ 0 then [] else (planLanes (plan s fr).2 fr.t (fr.contiguous (fr.a64 1))).1
  let fault (s : State) (fr : Firing) : Option FaultInfo :=
    atomicFault (accessFault fr.f.ty { a := true } atomicTier false nullWitness (plan s fr).1) (returnFault (fr.a64 1) fr.lowLane (back s fr))
  (∀ fi, Halts mk true (fun s fr => fr.any = true ∧ fault s fr = some fi) (fun _ _ => fi)) ∧
  LaneSpecOn mk (fun _ fr => fr.any = false) (fun s _ => s) id (fun _ _ _ => 0) (fun _ _ _ => false) (fun _ _ _ => 0) ∧
  ∀ f s fr, (mk f).wf = true → s.firingOf (mk f) = some fr → fr.any = true → fault s fr = none →
    let backs := backsOf s ((plan s fr).1.filterMap (Planned.spot fr.f.ty)) ((back s fr).filterMap (Planned.spot fr.f.ty))
    let ps := ascending (piecesOf s ((plan s fr).1.filterMap (Planned.spot fr.f.ty)) fun xs =>
      .atomic op fr.f.ty (xs.map fun x =>
        { at' := x.lane, b := lane fr.w fr.b.val x.lane.lane % 2 ^ x.lane.width, c := lane fr.w fr.cc.val x.lane.lane % 2 ^ x.lane.width }))
    ∃ t, exec (mk f) s = .next t ∧ StoreEffect (mk f) s fr ps (anyStrong ps || backs.any fun k => k.mt == .strong) t ∧
      ∀ a, t.accesses[s.accesses.length]? = some a → a.backs = backs ∧ a.returns = []

/-! ### Engine queues -/

/-- What an append to an engine queue by an element leaves (R261, R288, R289, R295): the commands behind those of the queue, under the next numbers of its engine, one permit taken
for each, and the witness of the last delivered to the 64-bit lanes of E, with C = 1 in every lane of E. -/
structure AppendEffect (s : State) (fr : Firing) (q : Nat) (cs : List RecSource) (t : State) : Prop where
  queue : (t.cmdQueue q).commands = (s.cmdQueue q).commands ++ cs.zipIdx.map fun c =>
    { number := s.tail q + 1 + c.2, source := c.1, iter := none, record := none, run := none, told := false }
  others : ∀ k, k ≠ q → t.cmdQueue k = s.cmdQueue k
  tail : t.tail q = s.tail q + cs.length
  mirror : ∀ m, s.mirror? fr.t fr.c q = some m → t.mirror? fr.t fr.c q = some { m with tail := m.tail + cs.length, permits := m.permits - cs.length }
  dest : ∀ k, fr.f.dst = .d k → ∀ j, j < 8 → lane 64 (at8 (t.ctx fr.t fr.c).d k.val) j =
    if fr.as64.on j then (localWitness (writerOfQueue q) (s.tail q + cs.length)).toNat else lane 64 (at8 (s.ctx fr.t fr.c).d k.val) j
  keeps : ∀ k : Fin 8, fr.f.dst ≠ .d k → at8 (t.ctx fr.t fr.c).d k.val = at8 (s.ctx fr.t fr.c).d k.val
  pred : ∀ (k : Fin 8) (b : Nat), b < 16 → (at8 (t.ctx fr.t fr.c).p k.val).getLsbD b =
    if fr.on b && decide (fr.f.predReg = k) then PredOp.bit fr.f.predOp ((at8 (s.ctx fr.t fr.c).p k.val).getLsbD b) true
    else (at8 (s.ctx fr.t fr.c).p k.val).getLsbD b
  mem : t.mem = s.mem
  tiles : ∀ k, k ≠ fr.t → t.tile k = s.tile k

/-- A read that an engine has put in flight for its head command (R290-R293): whole granules of the ranges in order, each of a page that translates and gives it
the right, with no store number; the next move takes what it brings. -/
structure EngineReads (s : State) (q : Nat) (near : Bool) (r : EngineRun) (ranges : List (Nat × Nat)) (u : State) : Prop where
  mem : u.mem = s.mem
  tiles : u.tiles = s.tiles
  access : ∃ a, u.accesses = s.accesses ++ [a] ∧ a.id = s.nextAccess ∧ a.writer = writerOfQueue q ∧ a.origin = .queue q ∧ a.number = 0 ∧ a.results = [] ∧
    a.poisonAt = none ∧ a.pieces.map (fun p => p.va) = ranges.flatMap (fun x => granulesOf x.1 x.2) ∧
    ∀ p ∈ a.pieces, ∃ l k, (enginePage s q p.va false near).1 = .ok l ∧ p.gran = l.pa p.va / 16 ∧ p.mt = l.mt ∧ p.op = .load [{ lane := k, off := 0, width := 128 }]
  run : ∀ c cs, (s.cmdQueue q).commands = c :: cs → (u.cmdQueue q).commands = { c with run := some { r with reading := some s.nextAccess } } :: cs

/-- A write of `len` bytes of `data` that an engine has put in flight for its head command under the command's number (R289-R293); every granule written is set
full. -/
structure EngineWrites (s : State) (q number : Nat) (near : Bool) (r : EngineRun) (va len data : Nat) (u : State) : Prop where
  mem : u.mem = s.mem
  tiles : u.tiles = s.tiles
  access : ∃ a, u.accesses = s.accesses ++ [a] ∧ a.id = s.nextAccess ∧ a.writer = writerOfQueue q ∧ a.origin = .queue q ∧ a.number = number ∧
    a.pieces.map (fun p => p.va) = granulesOf va len ∧
    ∀ p ∈ a.pieces, ∃ l d m, (enginePage s q p.va true near).1 = .ok l ∧ p.gran = l.pa p.va / 16 ∧ p.mt = l.mt ∧ p.op = .store d m true false ∧
      ∀ k, k < 16 → bits m.toNat (8 * k) 8 = (if va ≤ p.va + k ∧ p.va + k < va + len then 255 else 0) ∧
        (va ≤ p.va + k → p.va + k < va + len → bits d.toNat (8 * k) 8 = bits data (8 * (p.va + k - va)) 8)
  run : ∀ c cs, (s.cmdQueue q).commands = c :: cs → (u.cmdQueue q).commands = { c with run := some r } :: cs

/-- A command that has met a status at an address: nothing of it is in flight, and its completion is next (R65, R67, R292). -/
structure CommandEnds (s : State) (q : Nat) (r : EngineRun) (status va : Nat) (u : State) : Prop where
  mem : u.mem = s.mem
  tiles : u.tiles = s.tiles
  accesses : u.accesses = s.accesses
  run : ∀ c cs, (s.cmdQueue q).commands = c :: cs →
    (u.cmdQueue q).commands = { c with run := some { r with bad := va, status := some status, reading := none, job := none } } :: cs

/-- A command that may make a move: it is the head of its queue, its record is known and of a kind, it has not ended, and no access of it is in flight (R289, R290). -/
structure Moving (s : State) (q cmd : Nat) (c : Command) (rec' : V512) (r : EngineRun) : Prop where
  queue : q < 272
  head : s.headCommand q = some c
  record : c.record = some rec'
  run : c.run = some r
  kind : recCmd rec' = cmd
  open' : r.status = none
  idle : s.engineBusy q = false

/-- An engine event that carries out the moves of one kind of command: IN_WIT is waited for before the first move, a malformed one ends the command (R292); then each move is as given. -/
def MoveSpec (ev : Nat → Instr) (cmd : Nat) (body : Nat → State → Nat → EngineRun → State) : Prop :=
  ∀ (s : State) q c rec' r, Moving s q cmd c rec' r →
    (r.started = true → exec (ev q) s = .next (body q s c.number r)) ∧
    (r.started = false → (recWord rec' 0).testBit 8 = false → exec (ev q) s = .next (s.setRun q { r with started := true })) ∧
    (r.started = false → (recWord rec' 0).testBit 8 = true →
      exec (ev q) s = .next (match s.standing (writerOfQueue q) (recWit rec') with
        | .pending => s.noteLift (writerOfQueue q) (recWit rec')
        | .malformed => s.endWith q r 7
        | _ => s.setRun q { r with started := true }))

/-- A firing whose result comes later (R262): its destination is outstanding, and no register, predicate or byte of memory has changed. -/
structure AwaitEffect (i : Instr) (s : State) (fr : Firing) (t : State) : Prop where
  regs : SameRegisters i s t fr
  outstanding : ∃ o, t.outstanding = s.outstanding ++ [o] ∧ o.id = s.nextAccess ∧ o.tile = fr.t ∧ o.ctx = fr.c ∧ o.dst = fr.f.dst ∧ o.e = fr.e ∧ o.w = 64 ∧
    o.predReg = fr.f.predReg ∧ o.predOp = fr.f.predOp
  mem : t.mem = s.mem
  tiles : ∀ k, k ≠ fr.t → t.tile k = s.tile k

/-! ### The invariant -/

/-- What every reachable state holds: memory in canonical form. -/
abbrev State.inv (s : State) : Bool := s.mem.wf

end Sys2Proof.Machine
end

