-- ==== Sys2Proof/Certificates/Slice0/Obligations.lean ====
section
/-! DEFINITION. The statements for the provers, in the order of OBLIGATIONS.json: words and steps, the invariant, eligibility and faults, then the families of
the opcode table. -/

open Sys2Proof Sys2Proof.Machine

/-! ### Words and steps -/

/-- A step runs the decoded instruction (R37, R326): the turn at the head of the agenda is taken, contexts of the element whose re-arm witness no longer holds
them back resume, and what the arbiter's slot decodes to is executed at that state with the cursor on the slot; a listed event is executed as it is. -/
def Obligations.StepRunsDecoded : Prop :=
  (∀ (s : State) turn rest, s.agenda = turn :: rest →
    s.takeTurn = (turn, { s with steps := s.steps + 1, ticks := s.ticks + Config.elapsed s.steps, agenda := rest })) ∧
  (∀ (s : State) t c slot i, s.takeTurn.1 = .element t → ((s.takeTurn.2.wake t).useWitnesses t).arbitrate t = some (c, slot) →
    ((s.takeTurn.2.wake t).useWitnesses t).slotInstr t c slot = .ok i →
    step s = exec i { (s.takeTurn.2.wake t).useWitnesses t with cur := { tile := t, ctx := c, slot := slot } }) ∧
  (∀ (s : State) t, s.takeTurn.1 = .element t → ((s.takeTurn.2.wake t).useWitnesses t).arbitrate t = none → step s = .next ((s.takeTurn.2.wake t).useWitnesses t)) ∧
  (∀ (s : State) i, s.takeTurn.1 = .event i → step s = exec i s.takeTurn.2)

/-- Words of several families, put together from the fields of R37, decode to the instructions that they stand for. A word with a reserved bit set is refused
(R37, R71). -/
def Obligations.WordsDecode : Prop :=
  (-- ADD.s32 d2, i1, d3, guard p0, ADV of i1
   decode (BitVec.ofNat 128 (0x01 + 0x01 * 2 ^ 8 + 0x10 * 2 ^ 39 + 9 * 2 ^ 51 + 0x0A * 2 ^ 56 + 0x19 * 2 ^ 62 + 0x0B * 2 ^ 68 + 0x02 * 2 ^ 86)) =
     .ok (.add { pmask := 1, pval := 1, quant := false, q0 := .none, q1 := .none, ty := .s32, pk := false, dst := .d 2, sa := .i 1, sb := .d 3, sc := .none,
                 predReg := 0, predOp := .none, adv := 2, imm := 0 }) ∧
   -- FFMA.f32 o1, d0, d1, d2, pset p4
   decode (BitVec.ofNat 128 (0x20 * 2 ^ 39 + 3 * 2 ^ 47 + 1 * 2 ^ 51 + 0x21 * 2 ^ 56 + 0x08 * 2 ^ 62 + 0x09 * 2 ^ 68 + 0x0A * 2 ^ 74 + 4 * 2 ^ 80 + 1 * 2 ^ 83)) =
     .ok (.ffma { pmask := 0, pval := 0, quant := false, q0 := .none, q1 := .none, ty := .f32, pk := false, dst := .o 1, sa := .d 0, sb := .d 1, sc := .d 2,
                  predReg := 4, predOp := .set, adv := 0, imm := 0 }) ∧
   -- NOP
   decode (0 : SlotWord) =
     .ok (.nop { pmask := 0, pval := 0, quant := false, q0 := .none, q1 := .none, ty := .none, pk := false, dst := .none, sa := .none, sb := .none, sc := .none,
                 predReg := 0, predOp := .none, adv := 0, imm := 0 })) ∧
  (∀ w : SlotWord, bits w.toNat 94 2 ≠ 0 → decode w = .error .reservedBit)

/-- The words of a well-formed instruction decode to it, with every operand at every value that the encoding admits; FRSM's word is one word for its three
rows, which its ACTION operand tells apart (R475). -/
def Obligations.EncodedInstructionDecodes : Prop :=
  ∀ i w, i.wf = true → encode i = some w →
    decode w = .ok (match i with
      | .frsmRetire f => .frsmRetry f
      | .frsmKill f => .frsmRetry f
      | i => i)

/-- The decoder drops no bit of a word that it accepts: encoding what it reads gives the word back, and what it reads is well formed. -/
def Obligations.DecodedWordEncodes : Prop :=
  ∀ w i, decode w = .ok i → i.wf = true ∧ encode i = some w

/-! ### Reset and the invariant -/

/-- Memory has its canonical form at reset. What the spec says of the machine right after power-good: the boot has performed no phase and has no code, one
boot is counted (R35); the default epoch periods (R243); every store sequence at 0 (R236); every scope group's open epoch and every view of one at 1, and
every closed epoch, of a group and of a member, at 0 (R240). What the model chooses, the spec giving no value: every key slot unassigned and every ingress port
disabled (log 21), every domain without a shape, that is W = 0, no domain resized yet, and no thermal halt in force (log 3). -/
def Obligations.ResetState : Prop :=
  (State.reset.inv = true) ∧
  (State.reset.phase = 0 ∧ State.reset.bootCode = 0 ∧ State.reset.bootCount = 1 ∧
   (∀ l, 2 ≤ l → l ≤ 5 → at9 State.reset.periods l = 2 ^ (l + 4)) ∧
   (∀ w, (State.reset.writer w).issued = 0) ∧
   (∀ l g, (State.reset.group l g).opened = 1 ∧ (State.reset.group l g).closed = 0) ∧
   (∀ w l, State.reset.view w l = 1 ∧ at9 (State.reset.writer w).closed l = 0) ∧
   (∀ k, (State.reset.keySlot k).state = .unassigned) ∧
   (∀ n, (State.reset.port n).enable = false) ∧
   (∀ d, (State.reset.domain d).shape.w = 0) ∧
   State.reset.firstDctl = false ∧ State.reset.thermalHalt = false)

/-- Every step keeps memory in its canonical form, from every state that has it. -/
def Obligations.StepKeepsInvariant : Prop :=
  ∀ s s', s.inv = true → step s = .next s' → s'.inv = true

/-! ### Eligibility, faults and the arbiter -/

/-- A slot that meets any condition of R323 no longer does nothing: when its own or the common conditions fail, the machine is as it was. A halted, retired,
invalid or held context fires nothing (R323, R377), and no element fires while the thermal halt of R29 lasts, before the device is ready (R36), or in a tile
that is out of service. -/
def Obligations.IneligibleSlotWaits : Prop :=
  (∀ i opc opSub f row s, toCode i = some (opc, opSub, f) → opRow opc opSub = some row →
     (readyCommon i row f s s.cur.tile s.cur.ctx s.cur.slot && readyOwn i s s.cur.tile s.cur.ctx s.cur.slot) = false →
     exec i s = .next s) ∧
  (∀ i opc opSub f s, toCode i = some (opc, opSub, f) →
     ((s.ctx s.cur.tile s.cur.ctx).run ≠ .runnable ∨ (s.ctx s.cur.tile s.cur.ctx).word.valid = false ∨ (s.ctx s.cur.tile s.cur.ctx).held = true
       ∨ s.thermalHalt = true ∨ s.phase ≠ 8 ∨ (s.tile s.cur.tile).health.retired = true) →
     exec i s = .next s)

/-- A source token that cannot be read, poisoned or refused by channel decoding, stops its slot: nothing is read into a result and no beat is consumed; the
context halts with the fault's record (R127, R139, R469). Taking a fault (R469, R470): the context is halted, every register, predicate, flag and endpoint of
it stays, memory and every other context stay, and one record that names the source, context, slot, class and cause is on its way to the lath, with the
witness of the element's last store. -/
def Obligations.FaultStopsFiring : Prop :=
  (∀ i opc opSub f row s e, toCode i = some (opc, opSub, f) → opRow opc opSub = some row →
     readyCommon i row f s s.cur.tile s.cur.ctx s.cur.slot = true → readyOwn i s s.cur.tile s.cur.ctx s.cur.slot = true →
     readOperands i row f s s.cur.tile s.cur.ctx s.cur.slot = .error e →
     exec i s = .next (s.haltCtx s.cur.tile s.cur.ctx s.cur.slot e.info)) ∧
  (∀ (s : State) t c slot fi,
     let u := s.haltCtx t c slot fi
     let cx := s.ctx t c
     (u.ctx t c).run = .halted ∧
     { u.ctx t c with run := cx.run, halt := cx.halt } = cx ∧
     (∀ k, k % 8 ≠ c % 8 → u.ctx t k = s.ctx t k) ∧ (∀ k, k ≠ t → u.tile k = s.tile k) ∧
     { u.tile t with ctxs := (s.tile t).ctxs } = s.tile t ∧ { u with tiles := s.tiles, records := s.records, nextRecord := s.nextRecord } = s ∧
     ∃ r, u.records = s.records ++ [r] ∧ r.source = t ∧ r.ctx = c ∧ r.slot = slot ∧ r.cls = fi.cls ∧ r.cause = fi.cause ∧ r.halted = true ∧
       r.address = fi.address ∧ r.witness = fi.witness ∧ r.haltWit = s.lastWitness t ∧ r.ns = s.ns ∧ r.lane = fi.lane ∧ r.detail = fi.detail ∧
       r.operands = fi.operands ∧ r.inst = (s.tile t).inst)

/-- The arbiter (R326): the slot it picks is eligible, no lower slot of its context is, and no context examined before it has one; it picks none only when no
slot of the element is eligible. -/
def Obligations.ArbiterPicksFirst : Prop :=
  ∀ (s : State) t,
    (∀ c k, s.arbitrate t = some (c, k) → c < 8 ∧ k < (s.ctx t c).word.slots ∧ s.eligible t c k = true ∧ (∀ j, j < k → s.eligible t c j = false) ∧
      ∀ m n, n < 8 → (((s.tile t).last + 1 + n) % 8 = c) → m < n →
        ∀ j, j < (s.ctx t (((s.tile t).last + 1 + m) % 8)).word.slots → s.eligible t (((s.tile t).last + 1 + m) % 8) j = false) ∧
    (s.arbitrate t = none → ∀ c, c < 8 → ∀ j, j < (s.ctx t c).word.slots → s.eligible t c j = false)

/-! ### Integer, address and lane instructions (0x10-0x1B) -/

/-- Addition, subtraction, negation, products (R141, R142): exact results modulo 2^w, or clamped with C telling that the clamp changed the value. Division
with the quotient truncated towards zero and its remainder, with the cases of R143 and C marking them; minimum and maximum (R144). -/
def Obligations.IntegerArithmetic : Prop :=
  (IntSpec .add (fun fr l => fr.ia l + fr.ib l) ∧ IntSpec .sub (fun fr l => fr.ia l - fr.ib l) ∧
   IntSpec .neg (fun fr l => -fr.ia l) ∧ IntSpec .abs (fun fr l => ((fr.ia l).natAbs : Int)) ∧
   LaneSpec .adds (fun _ fr l => wrap fr.w (clampInt fr.f.ty.signed fr.w (fr.ia l + fr.ib l)))
     (fun _ fr l => clampInt fr.f.ty.signed fr.w (fr.ia l + fr.ib l) != fr.ia l + fr.ib l) (fun _ _ _ => 0) ∧
   LaneSpec .subs (fun _ fr l => wrap fr.w (clampInt fr.f.ty.signed fr.w (fr.ia l - fr.ib l)))
     (fun _ fr l => clampInt fr.f.ty.signed fr.w (fr.ia l - fr.ib l) != fr.ia l - fr.ib l) (fun _ _ _ => 0) ∧
   IntSpec .mul (fun fr l => fr.ia l * fr.ib l) ∧ IntSpec .mulh (fun fr l => fr.ia l * fr.ib l / (2 ^ fr.w : Int)) ∧
   IntSpec .mulhz (fun fr l => fr.ia l * fr.ib l / (2 ^ fr.w : Int)) ∧ IntSpec .mad (fun fr l => fr.ia l * fr.ib l + fr.ic l)) ∧
  ((∀ mk ∈ [Instr.divs, Instr.divz],
     LaneSpec mk (fun _ fr l => if fr.ib l = 0 then 2 ^ fr.w - 1 else wrap fr.w ((fr.ia l).tdiv (fr.ib l))) (fun _ fr l => fr.exceptional l) (fun _ _ _ => 0)) ∧
   (∀ mk ∈ [Instr.rems, Instr.remz],
     LaneSpec mk (fun _ fr l => wrap fr.w (if fr.ib l = 0 then fr.ia l else (fr.ia l).tmod (fr.ib l))) (fun _ fr l => fr.exceptional l) (fun _ _ _ => 0)) ∧
   IntSpec .min (fun fr l => min (fr.ia l) (fr.ib l)) ∧ IntSpec .minz (fun fr l => min (fr.ia l) (fr.ib l)) ∧
   IntSpec .max (fun fr l => max (fr.ia l) (fr.ib l)) ∧ IntSpec .maxz (fun fr l => max (fr.ia l) (fr.ib l)))

/-- Bitwise operations (R145) and shifts (R146), with the counts of w and more that the table gives. Bit counts, reversal and bit fields (R147, R148). -/
def Obligations.BitsAndShifts : Prop :=
  (PlainSpec .and (fun fr l => fr.na l &&& fr.nb l) ∧ PlainSpec .or (fun fr l => fr.na l ||| fr.nb l) ∧ PlainSpec .xor (fun fr l => fr.na l ^^^ fr.nb l) ∧
   PlainSpec .not (fun fr l => 2 ^ fr.w - 1 - fr.na l) ∧ PlainSpec .andn (fun fr l => fr.na l &&& (2 ^ fr.w - 1 - fr.nb l)) ∧
   PlainSpec .shl (fun fr l => if fr.nb l < fr.w then fr.na l * 2 ^ fr.nb l % 2 ^ fr.w else 0) ∧
   PlainSpec .shr (fun fr l => if fr.nb l < fr.w then fr.na l / 2 ^ fr.nb l else 0) ∧
   PlainSpec .sra (fun fr l => wrap fr.w (if fr.nb l < fr.w then sgn fr.w (fr.na l) / (2 ^ fr.nb l : Int) else if sgn fr.w (fr.na l) < 0 then -1 else 0)) ∧
   PlainSpec .rol (fun fr l => fr.na l * 2 ^ (fr.nb l % fr.w) % 2 ^ fr.w + fr.na l / 2 ^ (fr.w - fr.nb l % fr.w))) ∧
  (PlainSpec .clz (fun fr l => if fr.na l = 0 then fr.w else fr.w - 1 - (fr.na l).log2) ∧
   PlainSpec .popc (fun fr l => ((List.range fr.w).filter fun b => (fr.na l).testBit b).length) ∧
   PlainSpec .brev (fun fr l => packNat 1 ((List.range fr.w).map fun b => ((fr.na l).testBit (fr.w - 1 - b)).toNat)) ∧
   PlainSpec .bfx (fun fr l =>
     let pos := fr.f.imm.toNat % 64
     let len := fr.f.imm.toNat / 64 % 128
     let x := fr.na l / 2 ^ pos % 2 ^ len
     if fr.f.ty.signed then signExtend len fr.w x else x) ∧
   PlainSpec .bfi (fun fr l =>
     let pos := fr.f.imm.toNat % 64
     let len := fr.f.imm.toNat / 64 % 128
     fr.na l - fr.na l / 2 ^ pos % 2 ^ len * 2 ^ pos + fr.nb l % 2 ^ len * 2 ^ pos))

/-- Compares deliver their condition as 0 or 1 and as C (R149). Moves, selection and address arithmetic (R150-R153). -/
def Obligations.ComparesAndMoves : Prop :=
  ((∀ p ∈ [(Instr.cmpeq, fun (a b : Int) => a == b), (Instr.cmpne, fun a b => a != b), (Instr.cmplt, fun a b => decide (a < b)),
           (Instr.cmple, fun a b => decide (a ≤ b)), (Instr.cmpltz, fun a b => decide (a < b)), (Instr.cmplez, fun a b => decide (a ≤ b))],
     LaneSpec p.1 (fun _ fr l => (p.2 (fr.ia l) (fr.ib l)).toNat) (fun _ fr l => p.2 (fr.ia l) (fr.ib l)) (fun _ _ _ => 0))) ∧
  (PlainSpec .mov (fun fr l => fr.na l) ∧
   PlainSpec .movi (fun fr _ => if fr.w = 64 ∧ fr.f.ty.signed = true then signExtend 32 64 fr.f.imm.toNat else fr.f.imm.toNat) ∧
   PlainSpec .sel (fun fr l => if (fr.cc.val.setWidth 16).getLsbD (fr.w / 32 * l) then fr.na l else fr.nb l) ∧
   PlainSpec .lea (fun fr l => wrap fr.w ((fr.na l : Int) + fr.nb l * 2 ^ (fr.f.imm.toNat % 8) + sgn 24 (fr.f.imm.toNat / 256 % 2 ^ 24))))

/-- Lane movement, prefixes and reductions over the lanes of E (R154-R159). -/
def Obligations.LaneMovement : Prop :=
  PlainSpec .shuf (fun fr l => if fr.nb l < fr.n then fr.na (fr.nb l) else 0) ∧
  PlainSpec .bcst (fun fr _ => fr.na (fr.f.imm.toNat % 16)) ∧
  LaneSpec .idx
    (fun _ fr l => ((((List.range fr.n).filter fun k => fr.on k && fr.nb k != 0).map fr.na).getD l 0))
    (fun _ fr l => decide (l < ((List.range fr.n).filter fun k => fr.on k && fr.nb k != 0).length)) (fun _ _ _ => 0) ∧
  PlainSpec .scan (fun fr l =>
    let op := match fr.f.imm.toNat % 4 with
      | 0 => Fold.add | 1 => Fold.min | 2 => Fold.max | _ => Fold.or
    ((List.range (if fr.f.imm.toNat.testBit 2 then l else l + 1)).filter fr.on).foldl
      (fun acc k => op.apply fr.f.ty.signed fr.w acc (fr.na k)) (op.identity fr.f.ty.signed fr.w)) ∧
  (∀ p ∈ [(Instr.redadd, Fold.add), (Instr.redmin, Fold.min), (Instr.redmax, Fold.max), (Instr.redand, Fold.and), (Instr.redor, Fold.or)],
    PlainSpec p.1 (fun fr _ => ((List.range fr.n).filter fr.on).foldl
      (fun acc k => p.2.apply fr.f.ty.signed fr.w acc (fr.na k)) (p.2.identity fr.f.ty.signed fr.w)))

/-! ### Floating point, conversion, packing, codebooks, flags, noise (0x20-0x26) -/

/-- Arithmetic of one element in each lane, or in both halves of a packed lane (R111, R160-R166). Transcendental functions, Gumbel noise (R168, R178) and
compares, which deliver their condition as 0 or 1 and as C (R167). -/
def Obligations.FloatInstructions : Prop :=
  (FloatSpec .fadd (fun _ fm a b _ => fm.add a b) ∧ FloatSpec .fsub (fun _ fm a b _ => fm.sub a b) ∧ FloatSpec .fmul (fun _ fm a b _ => fm.mul a b) ∧
   FloatSpec .ffma (fun _ fm a b c => fm.fma a b c) ∧ FloatSpec .fmin (fun _ fm a b _ => fm.minmax false a b) ∧
   FloatSpec .fmax (fun _ fm a b _ => fm.minmax true a b) ∧ FloatSpec .fabs (fun _ fm a _ _ => fm.signOp false a) ∧
   FloatSpec .fneg (fun _ fm a _ _ => fm.signOp true a) ∧
   FloatSpec .fscl (fun f fm a b _ => fm.scale a (sgn (if f.pk then 16 else 32) b)) ∧
   FloatSpec .frnd (fun f fm a _ _ => fm.integral ((RMode.ofCode (f.imm.toNat % 8)).getD .rne) (f.imm.toNat.testBit 3) a) ∧
   FloatSpec .fdiv (fun _ fm a b _ => fm.div a b) ∧ FloatSpec .fsqrt (fun _ fm a _ _ => fm.sqrt a) ∧ FloatSpec .frsq (fun _ fm a _ _ => fm.rsqrt a) ∧
   FloatSpec .frcp (fun _ fm a _ _ => fm.rcp a)) ∧
  (FloatSpec .fex2 (fun _ fm a _ _ => fm.exp2 a) ∧ FloatSpec .flg2 (fun _ fm a _ _ => fm.log2 a) ∧ FloatSpec .ftnh (fun _ fm a _ _ => fm.tanh a) ∧
   FloatSpec .fsig (fun _ fm a _ _ => fm.sigmoid a) ∧ FloatSpec .fgum (fun _ _ a _ _ => fgum a) ∧
   (∀ p ∈ [(Instr.fcmpeq, 0), (Instr.fcmplt, 1), (Instr.fcmple, 2), (Instr.fcmpun, 3)],
     let r (fr : Firing) (l : Nat) : Bool × FpFlags := (Fmt.ofTy fr.f.ty).compare p.2 (fr.na l) (fr.nb l)
     LaneSpec p.1 (fun _ fr l => (r fr l).1.toNat) (fun _ fr l => (r fr l).1) (fun _ fr l => (r fr l).2)))

/-- Conversion, codebooks, packing and unpacking under the context's rounding mode and saturation (R170-R175). FNOI is a function of its key and token index
alone (R177). FFLG delivers FP_FLAGS as they were and clears those of its mask, in one firing; with no lane of E it clears nothing (R176). -/
def Obligations.ConversionsFlagsNoise : Prop :=
  ((∀ src, LaneSpec (.cvt src)
     (fun s fr l => (cvtVal src fr.f.ty (s.ctx fr.t fr.c).word.rmode (s.ctx fr.t fr.c).word.sat (fr.na l)).bits)
     (fun s fr l => typedNonzero fr.f.ty (cvtVal src fr.f.ty (s.ctx fr.t fr.c).word.rmode (s.ctx fr.t fr.c).word.sat (fr.na l)).bits)
     (fun s fr l => (cvtVal src fr.f.ty (s.ctx fr.t fr.c).word.rmode (s.ctx fr.t fr.c).word.sat (fr.na l)).flags)) ∧
   (let r (fr : Firing) (l : Nat) : FRes := cbEncode (Fmt.ofTy fr.f.ty) (fr.b.val.toNat % 2 ^ 256) (fr.na l)
    LaneSpec .cbenc (fun _ fr l => (r fr l).bits) (fun _ fr l => (r fr l).bits != 0) (fun _ fr l => (r fr l).flags)) ∧
   (let r (fr : Firing) (l : Nat) : FRes := cbDecode fr.f.ty (fr.b.val.toNat % 2 ^ 256) (fr.na l)
    LaneSpec .cbdec (fun _ fr l => (r fr l).bits) (fun _ fr l => (Fmt.ofTy fr.f.ty).isNonzero (r fr l).bits) (fun _ fr l => (r fr l).flags)) ∧
   (let half (s : State) (fr : Firing) (x : Nat) : FRes :=
      cvtVal (if fr.f.ty.isFloat then .f32 else if fr.f.ty.signed then .s32 else .z32) fr.f.ty (s.ctx fr.t fr.c).word.rmode (s.ctx fr.t fr.c).word.sat x
    LaneSpec .pack
     (fun s fr l => (half s fr (fr.na l)).bits + (half s fr (fr.nb l)).bits * 2 ^ fr.f.ty.width)
     (fun s fr l => typedNonzero fr.f.ty (half s fr (fr.na l)).bits || typedNonzero fr.f.ty (half s fr (fr.nb l)).bits)
     (fun s fr l => (half s fr (fr.na l)).flags ||| (half s fr (fr.nb l)).flags)) ∧
   (let r (fr : Firing) (l : Nat) : FRes :=
      let x := fr.na l / 2 ^ (fr.f.ty.width * fr.f.imm.toNat) % 2 ^ fr.f.ty.width
      if fr.f.ty.isFloat then widenF32 fr.f.ty x else ⟨if fr.f.ty.signed then signExtend fr.f.ty.width 32 x else x, 0⟩
    LaneSpec .unpk (fun _ fr l => (r fr l).bits)
     (fun _ fr l => typedNonzero (if fr.f.ty.isFloat then .f32 else if fr.f.ty.signed then .s32 else .z32) (r fr l).bits) (fun _ fr l => (r fr l).flags))) ∧
  (PlainSpec .fnoi (fun fr l =>
     let key := fr.a.val.toNat
     let n := noise32 (key % 2 ^ 64) (key / 2 ^ 64 % 2 ^ 32) (key / 2 ^ 96 % 2 ^ 32) (fr.nb l)
     if fr.f.ty = .f32 then (Fmt.f32.round false (2 * (n / 2 ^ 9) + 1) (-24)).bits else n) ∧
   ∀ f s fr, (Instr.fflg f).wf = true → s.firingOf (.fflg f) = some fr →
     ∃ t, exec (.fflg f) s = .next t ∧ t.mem = s.mem ∧ t.accesses.length ≤ s.accesses.length + 1 ∧
       (fr.any = true → (t.ctx fr.t fr.c).flags = ((s.ctx fr.t fr.c).flags &&& ~~~(BitVec.ofNat 6 f.imm.toNat)) ||| fr.decodeFlags) ∧
       (fr.any = false → (t.ctx fr.t fr.c).flags = (s.ctx fr.t fr.c).flags ||| fr.decodeFlags) ∧
       (∀ k, f.dst = .d k → ∀ l, l < 16 → fr.on l = true → lane 32 (at8 (t.ctx fr.t fr.c).d k.val) l = (s.ctx fr.t fr.c).flags.toNat) ∧
       (∀ k : Fin 8, f.dst ≠ .d k → at8 (t.ctx fr.t fr.c).d k.val = at8 (s.ctx fr.t fr.c).d k.val))

/-! ### Streaming chains (0x27) -/

/-- CHN queues its chain, taking GROUPS consecutive store numbers at once, and delivers the witness of the last of them (R179, R183, R236); with no lane of E
nothing starts and D keeps its value; a base that is not aligned to the type of its stream stops it (R184); while four chains are queued it is not eligible
(R182). CHNW delivers the number of chains completed, collects their flags and starts the count anew (R186); after a faulted chain it stops with that chain's
fault (R185). The chain at the head of a tile's queue moves: the reads of a group are one access for each stream that the stages select (R181); once they have
arrived, and in a cycle in which no slot of the element fires (R182), every element goes through the stages and the results are one access under the group's
store number (R183); when the write has been performed the next group may start, or the chain ends and is counted, at most to 255 (R186). A translation or
permission fault of a group's reads or of its write, or a poisoned datum, ends the chain and the later chains of its context, and nothing of the group is
written (R185). -/
def Obligations.StreamingChains : Prop :=
  (WitnessSpec .chn
     (fun s fr => fr.any = false ∨ chainMisaligned (s.stages fr.t (fr.f.imm.toNat % 4)) (fr.a64 0) (fr.b64 0) (lane 64 fr.cc.val 0) = none)
     (fun s fr => if fr.any then s.chainQueued fr else s)
     (fun s fr => localWitness fr.t ((s.writer fr.t).issued + fr.f.imm.toNat / 16)) ∧
   (∀ va, Halts .chn true
     (fun s fr => fr.any = true ∧ chainMisaligned (s.stages fr.t (fr.f.imm.toNat % 4)) (fr.a64 0) (fr.b64 0) (lane 64 fr.cc.val 0) = some va)
     (fun _ _ => { cls := 3, cause := 1, address := va })) ∧
   (∀ f (s : State), (Instr.chn f).wf = true → 4 ≤ (s.tile s.cur.tile).queue.length → exec (.chn f) s = .next s) ∧
   LaneSpecOn .chnw (fun s fr => (s.ctx fr.t fr.c).chainFault = none)
     (fun s fr =>
       let cx := s.ctx fr.t fr.c
       if fr.any then s.setCtx fr.t fr.c { cx with flags := cx.flags ||| cx.chainFlags, chainsDone := 0, chainFlags := 0 } else s)
     id (fun s fr _ => (s.ctx fr.t fr.c).chainsDone) (fun s fr _ => (s.ctx fr.t fr.c).chainsDone != 0) (fun _ _ _ => 0) ∧
   (∀ cls cause desc group va, Halts .chnw false (fun s fr => (s.ctx fr.t fr.c).chainFault = some (cls, cause, desc, group, va))
     (fun _ _ => { cls := cls, cause := cause, address := va, chain := true, detail := BitVec.ofNat 128 (desc + group * 2 ^ 32) }))) ∧
  (∀ (s : State) t run rest, (s.tile t).queue = run :: rest →
     let sts := s.stages t run.desc
     let n := groupElements sts
     let streams := chainStreams sts run
     let goesOn : Prop := s.elementRuns t = true ∧ ((s.ctx t run.ctx).held = false ∨ (s.tile t).draining = true)
     let noneFires : Prop := s.elementRuns t = true ∧ s.arbitrate t = none
     let plan (v : State) (ty : Ty) (base : Nat) : List Planned × State := planLanes v t (groupLanes ty base run.next n)
     let spots (v : State) (ty : Ty) (base : Nat) : List Spot := (plan v ty base).1.filterMap (Planned.spot ty)
     let readFault (v : State) (ty : Ty) (base : Nat) : Option FaultInfo := accessFault ty { r := true } anyTier false nullWitness (plan v ty base).1
     let reads (v : State) (ty : Ty) (base : Nat) : List Piece := ascending (piecesOf (plan v ty base).2 (spots v ty base) fun xs => .load (xs.map (·.lane)))
     let others (u : State) : Prop := (∀ k, k ≠ t → u.tile k = s.tile k) ∧ u.records = s.records ∧ ∀ c, u.ctx t c = s.ctx t c
     -- the reads of a group
     (run.write = none → run.reads = [] → goesOn →
       (∀ stream ty base, streams = [(stream, ty, base)] → readFault s ty base = none →
         ∃ u a, exec (.chainGroup t) s = .next u ∧ u.mem = s.mem ∧ u.accesses = s.accesses ++ [a] ∧ GroupAccess s t run 0 (reads s ty base) a ∧
           (u.tile t).queue = { run with reads := [(stream, a.id)] } :: rest ∧ others u) ∧
       (∀ stream ty base stream' ty' base', streams = [(stream, ty, base), (stream', ty', base')] → readFault s ty base = none →
         ∃ a v, v.mem = s.mem ∧ v.accesses = s.accesses ++ [a] ∧ GroupAccess s t run 0 (reads s ty base) a ∧ v.nextAccess = s.nextAccess + 1 ∧ v.tiles = s.tiles ∧
           (readFault v ty' base' = none →
             ∃ u b, exec (.chainGroup t) s = .next u ∧ u.mem = s.mem ∧ u.accesses = v.accesses ++ [b] ∧ GroupAccess v t run 0 (reads v ty' base') b ∧
               (u.tile t).queue = { run with reads := [(stream, a.id), (stream', b.id)] } :: rest ∧ others u) ∧
           ∀ fi, readFault v ty' base' = some fi →
             ∃ u, exec (.chainGroup t) s = .next u ∧ u.accesses = s.accesses ∧ ChainStops s t run run.flags fi.cls fi.cause fi.address u) ∧
       ∀ stream ty base more fi, streams = (stream, ty, base) :: more → readFault s ty base = some fi →
         ∃ u, exec (.chainGroup t) s = .next u ∧ u.accesses = s.accesses ∧ ChainStops s t run run.flags fi.cls fi.cause fi.address u) ∧
     -- its way through the stages and its write
     (run.write = none → ((run.reads = [] ∧ streams = [] ∧ goesOn) ∨ (run.reads ≠ [] ∧ readsDone s run = true)) → noneFires →
       (∀ r ∈ run.reads, ∀ a, (s.accesses.find? fun a => a.id == r.2) = some a → a.poisonAt = none) →
       let v : State := { s with accesses := s.accesses.filter fun a => !(run.reads.any fun r => r.2 == a.id) }
       let val (stream l : Nat) : Nat := ((s.streamAccess run stream).map fun a => a.laneValue l).getD 0
       let result (l : Nat) : FRes := chainElement (s.ctx t run.ctx).word (val 2 l) (val 3 l) sts ⟨0, 0⟩
       let flags := (List.range n).foldl (fun acc l => acc ||| (result l).flags) run.flags
       let ty := outputType sts
       let fault := accessFault ty { w := true } anyTier false nullWitness (plan v ty run.z).1
       (fault = none →
         ∃ u a, exec (.chainGroup t) s = .next u ∧ u.mem = s.mem ∧ u.accesses = v.accesses ++ [a] ∧
           GroupAccess s t run (run.number + run.next) (ascending (piecesOf (plan v ty run.z).2 (spots v ty run.z) fun xs =>
             .store (storeBits (fun l => if l < n then (result l).bits else 0) xs).1 (storeBits (fun l => if l < n then (result l).bits else 0) xs).2 false false)) a ∧
           (u.tile t).queue = { run with flags := flags, next := run.next + 1, reads := [], write := some a.id } :: rest ∧ others u) ∧
       ∀ fi, fault = some fi → ∃ u, exec (.chainGroup t) s = .next u ∧ u.accesses = v.accesses ∧ ChainStops s t run flags fi.cls fi.cause fi.address u) ∧
     -- poison
     (∀ va, run.write = none → run.reads ≠ [] → readsDone s run = true →
       (run.reads.findSome? fun r => (s.accesses.find? fun a => a.id == r.2).bind (·.poisonAt)) = some va →
       ∃ u, exec (.chainGroup t) s = .next u ∧ (∀ a ∈ u.accesses, a ∈ s.accesses ∧ ∀ r ∈ run.reads, r.2 ≠ a.id) ∧ ChainStops s t run run.flags 6 1 va u) ∧
     -- waiting
     (run.write = none → ((run.reads = [] ∧ ¬ goesOn) ∨ (run.reads ≠ [] ∧ readsDone s run = false)) → exec (.chainGroup t) s = .next s) ∧
     (run.write = none → run.reads ≠ [] → readsDone s run = true → ¬ noneFires →
       (∀ r ∈ run.reads, ∀ a, (s.accesses.find? fun a => a.id == r.2) = some a → a.poisonAt = none) → exec (.chainGroup t) s = .next s) ∧
     (∀ id, run.write = some id → (∃ a ∈ s.accesses, a.id = id) → exec (.chainGroup t) s = .next s) ∧
     -- the end of a group
     (∀ id, run.write = some id → (∀ a ∈ s.accesses, a.id ≠ id) → run.next < run.groups →
       ∃ u, exec (.chainGroup t) s = .next u ∧ (u.tile t).queue = { run with write := none } :: rest ∧ LocalTo s u t ∧ ∀ c, u.ctx t c = s.ctx t c) ∧
     (∀ id, run.write = some id → (∀ a ∈ s.accesses, a.id ≠ id) → run.groups ≤ run.next →
       ∃ u, exec (.chainGroup t) s = .next u ∧ (u.tile t).queue = rest ∧ LocalTo s u t ∧
         (u.ctx t run.ctx).chainsDone = min ((s.ctx t run.ctx).chainsDone + 1) 255 ∧
         (u.ctx t run.ctx).chainFlags = (s.ctx t run.ctx).chainFlags ||| run.flags ∧
         (∀ k, at8 (u.ctx t run.ctx).d k = at8 (s.ctx t run.ctx).d k))) ∧
  (∀ (s : State) t, (s.tile t).queue = [] → exec (.chainGroup t) s = .next s)

/-! ### The row engine (0x30) -/

/-- MSET takes MODE, KACT and NACT, and drops the panel when MODE changes (R192, R197); MLDB, MCBT and MPRD load 64 bytes in which those of lanes outside E
are zero (R198); MCLR clears rows and their poison (R201). MROW adds the products of one row of A to one row of the accumulator: each column below NACT
becomes the fused sum of its old value, or of zero, with the terms of the positions in E below KACT (R194, R199); no other row changes; the flags of those sums
(R195) wait for the step's completion, at which they are raised in the context that fired it (R203). Without MODE or without a panel it stops. MOUT delivers a row,
converted, and clears what it read when told to (R200). MSPL takes one store number and makes one access for each row, which stores its 32 columns at 128
bytes a row; MFIL makes one access a row that reads them; both are then the tile's transfer in progress (R201, R202, R236), which ends when the last granule of
its rows is performed: MFIL's rows then hold what was read, each poisoned exactly when a granule of it was (R201). A range that is not aligned to 128 bytes within
one page, or that is not translated or permitted, stops either (R202). With no lane of E nothing of the engine changes (R188). -/
def Obligations.RowEngineRuns : Prop :=
  ((let mode (fr : Firing) : MMode := { ty := fr.f.ty, prod := fr.f.imm.toNat.testBit 2, afmt := fr.f.imm.toNat % 4 }
    let x (fr : Firing) : Nat := lane 32 fr.a.val 0
    EngineSpec .mset (fun _ fr => x fr % 128 ≤ (mode fr).k ∧ x fr / 128 % 64 ≤ 32 ∧ x fr / 2 ^ 13 = 0)
     (fun e fr => { (if e.mode = some (mode fr) then e else { e with mode := some (mode fr), panel := 0, panelValid := false, shadow := 0, cursor := 0 }) with
                    kact := x fr % 128, nact := x fr / 128 % 64 }) ∧
    Halts .mset true
     (fun s fr => fr.any = true ∧ ownerFault (s.tile fr.t) = false ∧ ((mode fr).k < x fr % 128 ∨ 32 < x fr / 128 % 64 ∨ x fr / 2 ^ 13 ≠ 0))
     (fun _ _ => { cls := 8, cause := 3 })) ∧
   EngineSpec .mldb (fun _ _ => True) (fun e fr =>
     let sh := setChunk e.shadow e.cursor (maskedBytes fr)
     if 64 * (e.cursor + 1) = panelBytes e.mode then { e with panel := sh, panelValid := true, shadow := 0, cursor := 0 }
     else { e with shadow := sh, cursor := e.cursor + 1 }) ∧
   EngineSpec .mcbt (fun _ _ => True) (fun e fr => { e with codebook := BitVec.ofNat 256 (maskedBytes fr) }) ∧
   EngineSpec .mprd (fun _ _ => True) (fun e fr =>
     let sh := setChunk e.shadowProd e.prodCursor (maskedBytes fr)
     if e.prodCursor = 15 then { e with prod := sh, shadowProd := 0, prodCursor := 0 }
     else { e with shadowProd := sh, prodCursor := e.prodCursor + 1 }) ∧
   (∀ f s fr, (Instr.mclr f).wf = true → s.firingOf (.mclr f) = some fr → fr.any = true → ownerFault (s.tile fr.t) = false →
     ∃ t, exec (.mclr f) s = .next t ∧ LocalTo s t fr.t ∧
       ∀ r n, n < 32 →
         let first := f.imm.toNat % 128
         let count := f.imm.toNat / 128 % 256
         let e := (s.tile fr.t).engine
         let e1 := (t.tile fr.t).row
         (e1.entry r n = if first ≤ r ∧ r < first + count then 0 else e.entry r n) ∧
         (r < 128 → e1.poisoned r = if first ≤ r ∧ r < first + count then false else e.poisoned r) ∧ e1.dirty = true ∧ e1.owner = (s.tile fr.t).inst) ∧
   (∀ p ∈ [(Instr.mset, true), (Instr.mldb, true), (Instr.mcbt, true), (Instr.mprd, true), (Instr.mrow, true), (Instr.mspl, true), (Instr.mfil, true),
           (Instr.mclr, false), (Instr.mout, false)],
     Halts p.1 p.2 (fun s fr => fr.any = true ∧ ownerFault (s.tile fr.t) = true) (fun _ _ => { cls := 8, cause := 4 }))) ∧
  ((∀ f s fr m, (Instr.mrow f).wf = true → s.firingOf (.mrow f) = some fr → fr.any = true → ownerFault (s.tile fr.t) = false →
     (s.tile fr.t).engine.mode = some m → (s.tile fr.t).engine.panelValid = true →
     ∃ t, exec (.mrow f) s = .next t ∧
       let r0 := f.imm.toNat % 128
       let zero := f.imm.toNat.testBit 7
       let e := (s.tile fr.t).engine
       let e1 := (t.tile fr.t).row
       (∀ r n, n < 32 → e1.entry r n =
         if r = r0 ∧ n < e.nact then
           let base := if zero then 0 else e.entry r n
           if e.kact = 0 then base
           else (Fmt.f32.fusedSum (valTerm (Fmt.f32.decode base) :: (rowPositions m e fr.e).map fun k => rowTerm m e fr.a.val.toNat k n)).bits % 2 ^ 32
         else e.entry r n) ∧
       (let raised (n : Nat) : FpFlags :=
          if e.kact = 0 then 0
          else (Fmt.f32.fusedSum (valTerm (Fmt.f32.decode (if zero then 0 else e.entry r0 n)) :: (rowPositions m e fr.e).map fun k => rowTerm m e fr.a.val.toNat k n)).flags
        (t.tile fr.t).steps = (s.tile fr.t).steps ++
          [{ row := r0, ctx := fr.c, flags := ((List.range 32).filter (· < e.nact)).foldl (fun acc n => acc ||| raised n) 0 }]) ∧
       (∀ r, r < 128 → e1.poisoned r = (e.poisoned r && !(decide (r = r0) && zero))) ∧
       (e1.mode, e1.kact, e1.nact, e1.panel, e1.codebook, e1.prod) = (e.mode, e.kact, e.nact, e.panel, e.codebook, e.prod) ∧
       e1.dirty = true ∧ e1.owner = (s.tile fr.t).inst ∧ (t.ctx fr.t fr.c).flags = (s.ctx fr.t fr.c).flags ||| fr.decodeFlags ∧
       t.mem = s.mem ∧ t.accesses = s.accesses ∧ t.writers = s.writers ∧ (∀ k, k ≠ fr.t → t.tile k = s.tile k) ∧
       (∀ k, at8 (t.ctx fr.t fr.c).d k = at8 (s.ctx fr.t fr.c).d k) ∧ (∀ k, at8 (t.ctx fr.t fr.c).p k = at8 (s.ctx fr.t fr.c).p k)) ∧
   Completes .mrow (fun _ fr => fr.any = false) (fun s _ => s) ∧
   Halts .mrow true (fun s fr => fr.any = true ∧ ownerFault (s.tile fr.t) = false ∧ (s.tile fr.t).engine.mode = none) (fun _ _ => { cls := 8, cause := 1 }) ∧
   Halts .mrow true
     (fun s fr => fr.any = true ∧ ownerFault (s.tile fr.t) = false ∧ (s.tile fr.t).engine.mode ≠ none ∧ (s.tile fr.t).engine.panelValid = false)
     (fun _ _ => { cls := 8, cause := 2 }) ∧
   (∀ (s : State) t st rest, (s.tile t).steps = st :: rest →
     ∃ u, exec (.rowStepComplete t) s = .next u ∧ LocalTo s u t ∧ (u.tile t).steps = rest ∧ (u.tile t).row = (s.tile t).row ∧
       (u.ctx t st.ctx).flags = (s.ctx t st.ctx).flags ||| st.flags ∧ { u.ctx t st.ctx with flags := (s.ctx t st.ctx).flags } = s.ctx t st.ctx) ∧
   (∀ (s : State) t, (s.tile t).steps = [] → exec (.rowStepComplete t) s = .next s) ∧
   (let half (s : State) (fr : Firing) (n : Nat) : FRes := cvtFF .f32 (moutFmt fr.f.imm.toNat) .rne false ((s.tile fr.t).engine.entry (fr.f.imm.toNat % 128) n)
    let single (s : State) (fr : Firing) (l : Nat) : Nat := (s.tile fr.t).engine.entry (fr.f.imm.toNat % 128) (16 * (fr.f.imm.toNat / 128 % 2) + l)
    let plain (fr : Firing) : Bool := moutFmt fr.f.imm.toNat == .f32
    let cleared (s : State) (fr : Firing) : RowEngine :=
      let e := (s.tile fr.t).engine
      e.setRow (fr.f.imm.toNat % 128) ((List.range 32).map fun n =>
        if (List.range 16).any fun l => fr.on l && (moutCols fr.f.imm.toNat l).contains n then 0 else e.entry (fr.f.imm.toNat % 128) n)
    LaneSpecOn .mout
      (fun s fr => fr.any = true ∧ ownerFault (s.tile fr.t) = false ∧ (s.tile fr.t).engine.poisoned (fr.f.imm.toNat % 128) = false)
      (fun s fr => if fr.f.imm.toNat.testBit 10 then s.setEngine fr.t (cleared s fr) else s) id
      (fun s fr l => if plain fr then single s fr l else (half s fr (2 * l)).bits + (half s fr (2 * l + 1)).bits * 2 ^ 16)
      (fun s fr l => if plain fr then Fmt.f32.isNonzero (single s fr l)
        else (Fmt.ofTy (moutFmt fr.f.imm.toNat)).isNonzero (half s fr (2 * l)).bits || (Fmt.ofTy (moutFmt fr.f.imm.toNat)).isNonzero (half s fr (2 * l + 1)).bits)
      (fun s fr l => if plain fr then 0 else (half s fr (2 * l)).flags ||| (half s fr (2 * l + 1)).flags)) ∧
   Halts .mout false
     (fun s fr => fr.any = true ∧ ownerFault (s.tile fr.t) = false ∧ (s.tile fr.t).engine.poisoned (fr.f.imm.toNat % 128) = true)
     (fun _ _ => { cls := 6, cause := 3 })) ∧
  ((∀ (fill : Bool) f s fr l, let mk := if fill then Instr.mfil else Instr.mspl
     let first := f.imm.toNat % 128
     let count := f.imm.toNat / 128 % 256
     let va := fr.a64 0
     let plan := (planLanes s fr.t [{ lane := 0, va := va, nib := 0 }]).1
     let e := (s.tile fr.t).engine
     (mk f).wf = true → s.firingOf (mk f) = some fr → fr.any = true → ownerFault (s.tile fr.t) = false →
     rangeFault { r := fill, w := !fill } va (128 * count) plan = none → plan.head?.bind Planned.leaf? = some l →
     ∃ t, exec (mk f) s = .next t ∧ t.mem = s.mem ∧ (t.writer fr.t).issued = (s.writer fr.t).issued + (if fill then 0 else count) ∧
       t.accesses.length = s.accesses.length + count ∧ (∀ k, k < s.accesses.length → t.accesses[k]? = s.accesses[k]?) ∧
       (∀ k, k < count → ∃ a, t.accesses[s.accesses.length + k]? = some a ∧ a.id = s.nextAccess + k ∧ a.writer = fr.t ∧ a.origin = .rowXfer ∧
         a.number = (if fill then 0 else (s.writer fr.t).issued + 1 + k) ∧
         a.pieces = piecesOf s (rowSpots l (va + 128 * k)) fun xs =>
           if fill then .load (xs.map (·.lane))
           else .store (storeBits (e.entry (first + k)) xs).1 (storeBits (e.entry (first + k)) xs).2 false (e.poisoned (first + k))) ∧
       (t.tile fr.t).xfer = some { fill := fill, rows := (List.range count).map fun k => (s.nextAccess + k, first + k) } ∧
       (t.tile fr.t).row = (s.tile fr.t).row ∧ (∀ k, at8 (t.ctx fr.t fr.c).d k = at8 (s.ctx fr.t fr.c).d k)) ∧
   (∀ p ∈ [(Instr.mspl, ({ w := true } : Need)), (Instr.mfil, { r := true })],
     let fault (s : State) (fr : Firing) : Option FaultInfo :=
       rangeFault p.2 (fr.a64 0) (128 * (fr.f.imm.toNat / 128 % 256)) (planLanes s fr.t [{ lane := 0, va := fr.a64 0, nib := 0 }]).1
     Completes p.1 (fun _ fr => fr.any = false) (fun s _ => s) ∧
     Halts p.1 true
       (fun s fr => fr.any = true ∧ ownerFault (s.tile fr.t) = false ∧
         (fr.a64 0 % 128 ≠ 0 ∨ 2 ^ 16 < fr.a64 0 % 2 ^ 16 + 128 * (fr.f.imm.toNat / 128 % 256)))
       (fun _ fr => { cls := 3, cause := 1, address := fr.a64 0 }) ∧
     ∀ fi, Halts p.1 true (fun s fr => fr.any = true ∧ ownerFault (s.tile fr.t) = false ∧ fault s fr = some fi) (fun _ _ => fi)) ∧
   -- the last granule of a transfer
   (∀ (s : State) t x id g a p, (s.tile t).xfer = some x → (s.accesses.find? fun a => a.id = id) = some a → (∀ b ∈ s.accesses, b.id = id → b = a) →
     a.origin = .rowXfer → a.tile = t → a.pieces = [p] → p.gran = g → a.backs = [] → a.returns = [] → s.mayPerform a p = true →
     (∀ b ∈ s.accesses, b.id ≠ id → (x.rows.any fun r => r.1 == b.id) = true → b.pieces = []) →
     let e := (s.tile t).engine
     (x.fill = true → (∃ r, (id, r) ∈ x.rows) → (x.rows.map (·.2)).Nodup → ∀ lanes, p.op = .load lanes →
       ∃ u, exec (.accessPerform id g) s = .next u ∧ u.mem = s.mem ∧ (u.tile t).xfer = none ∧ (∀ b ∈ u.accesses, (x.rows.any fun r => r.1 == b.id) = false) ∧
         let e1 := (u.tile t).row
         (∀ k r b, (k, r) ∈ x.rows → (s.accesses.find? fun a => a.id = k) = some b →
           let got := if k = id then a.results ++ laneValues (s.readGranule a p) lanes else b.results
           (∀ n, n < 32 → e1.entry r n = ((got.find? fun y => y.1 == n).map (·.2)).getD 0 % 2 ^ 32) ∧
           (r < 128 → e1.poisoned r = (b.poisonAt.isSome || (decide (k = id) && s.poisoned g)))) ∧
         (∀ r, r ∉ x.rows.map (·.2) → (∀ n, n < 32 → e1.entry r n = e.entry r n) ∧ (r < 128 → e1.poisoned r = e.poisoned r)) ∧
         e1.dirty = true ∧ e1.owner = (s.tile t).inst) ∧
     (x.fill = false → (∃ r, (id, r) ∈ x.rows) → tierOf (16 * g) ≠ 8 → ∀ data mask full poison, p.op = .store data mask full poison →
       ∃ u, exec (.accessPerform id g) s = .next u ∧ (u.tile t).xfer = none ∧ (u.tile t).row = (s.tile t).row ∧
         (∀ b ∈ u.accesses, (x.rows.any fun r => r.1 == b.id) = false) ∧ ∀ h, h ≠ g → u.mem.granule h = s.mem.granule h)))

/-! ### The skim unit (0x31) -/

/-- SKQ takes a slot for a query token and starts to drain its endpoint (R212); SKIM queues a pass with the access that reads its pages (R213); SKFW and SKFN
start to send a token (R214, R215); SKMG starts the drain of a partial token and delivers the next shard number (R216). A poisoned slot, a header out of
range, misformed addresses, addresses that fault, and a shard out of turn stop them (R213, R216, R217). The skim unit between firings: it takes a token beat by
beat and gives the endpoint back with the last one (R212, R216); the oldest pass, once everything it reads has been read, replaces the working state of its slot by
one pass over the page and raises its flags in its context (R207), or, when a header is out of order or a granule poisoned, leaves the state, spoils the slot and
halts the context (R213); a pass that a pre-emption abandoned waits while its context is held, and then takes its addresses afresh (R208); a partial token drained
whole is merged, and the next shard is awaited, or a damaged one spoils the slot (R216); a token leaves beat by beat into free places, and with its last beat the
slot becomes empty, unless it sent a partial state (R214, R215). No data register, predicate or byte of memory changes. What a pass makes of a row (R206, R207), of
a row of a partial state (R216) and of a finished row (R215), and the words that are sent (R214, R215, R393). -/
def Obligations.SkimUnitRuns : Prop :=
  ((∀ f s fr, (Instr.skq f).wf = true → s.firingOf (.skq f) = some fr → headerOk fr.a.val = true →
     ∃ t, exec (.skq f) s = .next t ∧ LocalTo s t fr.t ∧
       let k := f.imm.toNat % 2
       t.query fr.t k = { SkimSlot.clean with
         occupied := true, hdr := fr.a.val, fresh := f.imm.toNat.testBit 1, arrival := (s.tile fr.t).arrivals, drainCtx := fr.c, drainEp := epOf f.sa,
         work := if f.imm.toNat.testBit 1 then Attn.fresh (hdrRows fr.a.val) (hdrDim fr.a.val) else .empty,
         due := queryBeats (hdrRows fr.a.val) (hdrDim fr.a.val) } ∧
       t.query fr.t (1 - k) = s.query fr.t (1 - k) ∧ (t.tile fr.t).arrivals = (s.tile fr.t).arrivals + 1 ∧
       (∀ n : Fin 8, (t.ctx fr.t fr.c).taken.getLsbD n.val = ((s.ctx fr.t fr.c).taken.getLsbD n.val || decide (f.sa = .i n))) ∧
       (∀ n, at8 (t.ctx fr.t fr.c).d n = at8 (s.ctx fr.t fr.c).d n)) ∧
   Halts .skq true (fun _ fr => headerOk fr.a.val = false) (fun _ fr => skimFault 1 (fr.f.imm.toNat % 2)) ∧
   (∀ f s fr a s1, (Instr.skim f).wf = true → s.firingOf (.skim f) = some fr →
     let k := f.imm.toNat % 2
     let q := s.query fr.t k
     q.poison = false → passMisformed (hdrDim q.hdr) fr.a.val fr.b.val = false →
     planPass s fr.t fr.c fr.slot q.hdr fr.a.val fr.b.val fr.e = (.ok a, s1) →
     ∃ t, exec (.skim f) s = .next t ∧ t.mem = s.mem ∧ t.accesses = s.accesses ++ [a] ∧ a.origin = .skim ∧ a.given = hdrWitness q.hdr ∧ a.number = 0 ∧
       (t.tile fr.t).passes = (s.tile fr.t).passes ++
         [{ slot := k, a := fr.a.val, b := fr.b.val, ctx := fr.c, slotNo := fr.slot, e := fr.e, access := some a.id }] ∧
       t.query fr.t k = { q with parked := false } ∧ (∀ n, at8 (t.ctx fr.t fr.c).d n = at8 (s.ctx fr.t fr.c).d n)) ∧
   Halts .skim true (fun s fr => (s.query fr.t (fr.f.imm.toNat % 2)).poison = true) (fun _ fr => skimPoison (fr.f.imm.toNat % 2)) ∧
   Halts .skim true
     (fun s fr => let q := s.query fr.t (fr.f.imm.toNat % 2)
       q.poison = false ∧ passMisformed (hdrDim q.hdr) fr.a.val fr.b.val = true)
     (fun _ fr => skimFault 1 (fr.f.imm.toNat % 2)) ∧
   (∀ fi, Halts .skim true
     (fun s fr => let q := s.query fr.t (fr.f.imm.toNat % 2)
       q.poison = false ∧ passMisformed (hdrDim q.hdr) fr.a.val fr.b.val = false ∧
         (planPass s fr.t fr.c fr.slot q.hdr fr.a.val fr.b.val fr.e).1 = .error fi)
     (fun _ _ => fi)) ∧
   (∀ k, Completes .skfw (fun s fr => forwardSlot (s.tile fr.t) = some k ∧ (s.query fr.t k).poison = false)
     (fun s fr =>
       let em : Emit := { beats := (s.query fr.t k).forward, tag := at8 (s.ctx fr.t fr.c).tags (epOf fr.f.dst), ctx := fr.c, ep := epOf fr.f.dst, free := true }
       s.setQuery fr.t k { s.query fr.t k with emit := some em })) ∧
   (∀ k, Halts .skfw false (fun s fr => forwardSlot (s.tile fr.t) = some k ∧ (s.query fr.t k).poison = true) (fun _ _ => skimPoison k)) ∧
   Completes .skfn (fun s fr => (s.query fr.t (fr.f.imm.toNat % 2)).poison = false)
     (fun s fr =>
       let k := fr.f.imm.toNat % 2
       let q := s.query fr.t k
       let n := epOf fr.f.dst
       let send (beats : List V512) (free : Bool) : State :=
         s.setQuery fr.t k { q with emit := some { beats := beats, tag := at8 (s.ctx fr.t fr.c).tags n, ctx := fr.c, ep := n, free := free } }
       let res := q.result (skfnFmt fr.f.imm.toNat)
       if fr.f.imm.toNat.testBit 3 then send (q.partialToken (fr.f.imm.toNat / 2 ^ 16 % 2 ^ 16)) false
       else (send res.1 true).raise fr.t fr.c res.2) ∧
   Halts .skfn false (fun s fr => (s.query fr.t (fr.f.imm.toNat % 2)).poison = true) (fun _ fr => skimPoison (fr.f.imm.toNat % 2)) ∧
   (let k (fr : Firing) : Nat := lane 32 fr.b.val 0 % 2
    let second (s : State) (fr : Firing) : Option Beat := ((s.ctx fr.t fr.c).beats (epOf fr.f.sa))[1]?
    let fits (q : SkimSlot) (b : Beat) : Prop := beatField b.payload 4 1 = hdrRows q.hdr ∧ beatField b.payload 5 2 = hdrDim q.hdr
    LaneSpecOn .skmg
      (fun s fr => let q := s.query fr.t (k fr)
        q.poison = false ∧ ∃ b, second s fr = some b ∧ b.poison = false ∧ beatField b.payload 0 4 = q.nextShard.toNat ∧ fits q b)
      (fun s fr => let q := s.query fr.t (k fr)
        let m : MergeRun :=
          { ctx := fr.c, ep := epOf fr.f.sa, slotNo := fr.slot, beats := [], due := partialBeats (hdrRows q.hdr) (hdrDim q.hdr), poison := false }
        (s.setQuery fr.t (k fr) { q with merge := some m }).setTaken fr.t fr.c (epOf fr.f.sa) true)
      id
      (fun s fr _ => ((s.query fr.t (k fr)).nextShard + 1).toNat) (fun s fr _ => (s.query fr.t (k fr)).nextShard + 1 != 0) (fun _ _ _ => 0) ∧
    Halts .skmg true
      (fun s fr => let q := s.query fr.t (k fr)
        q.poison = false ∧ ∃ b, second s fr = some b ∧ b.poison = false ∧ beatField b.payload 0 4 ≠ q.nextShard.toNat)
      (fun _ fr => skimFault 3 (k fr)) ∧
    Halts .skmg true
      (fun s fr => let q := s.query fr.t (k fr)
        q.poison = false ∧ ∃ b, second s fr = some b ∧ b.poison = false ∧ beatField b.payload 0 4 = q.nextShard.toNat ∧ ¬ fits q b)
      (fun _ fr => skimFault 1 (k fr)))) ∧
  ((∀ (s : State) t k b rest, (s.query t k).merge = none → (s.query t k).due ≠ 0 →
     at8 (s.ctx t (s.query t k).drainCtx).ins (s.query t k).drainEp = b :: rest →
     let q := s.query t k
     let token := q.drained ++ [b.payload]
     ∃ u, exec (.skimBeatDrain t k) s = .next u ∧ LocalTo s u t ∧ at8 (u.ctx t q.drainCtx).ins q.drainEp = rest ∧ (u.query t k).due = q.due - 1 ∧
       (1 < q.due → u.query t k = { q with drained := token, due := q.due - 1, poison := q.poison || b.poison } ∧
         (u.ctx t q.drainCtx).taken = (s.ctx t q.drainCtx).taken) ∧
       (q.due = 1 → u.query t k =
           { q with drained := [], due := 0, poison := q.poison || b.poison || !checkHolds token, q := (drainedState q.hdr token).1,
                    carried := (drainedState q.hdr token).2, work := if q.fresh then q.work else (drainedState q.hdr token).2 } ∧
         (q.drainEp < 8 → (u.ctx t q.drainCtx).taken.getLsbD q.drainEp = false))) ∧
   (∀ (s : State) t k, (s.query t k).merge = none → ((s.query t k).due = 0 ∨ at8 (s.ctx t (s.query t k).drainCtx).ins (s.query t k).drainEp = []) →
     exec (.skimBeatDrain t k) s = .next s) ∧
   (∀ (s : State) t k m b rest, (s.query t k).merge = some m → m.due ≠ 0 → at8 (s.ctx t m.ctx).ins m.ep = b :: rest →
     ∃ u, exec (.skimBeatDrain t k) s = .next u ∧ LocalTo s u t ∧ at8 (u.ctx t m.ctx).ins m.ep = rest ∧
       (u.query t k).merge = some { m with beats := m.beats ++ [b.payload], due := m.due - 1, poison := m.poison || b.poison } ∧
       (m.due = 1 → m.ep < 8 → (u.ctx t m.ctx).taken.getLsbD m.ep = false)) ∧
   (∀ (s : State) t p rest id a, (s.tile t).passes = p :: rest → p.access = some id → (s.accesses.find? fun a => a.id = id) = some a → a.pieces = [] →
     a.poisonAt = none → headerFault (passImage a) (hdrDim (s.query t p.slot).hdr) (lane 64 p.b 1) = none →
     ∃ u, exec (.skimPass t) s = .next u ∧ u.mem = s.mem ∧ (u.tile t).passes = rest ∧ (∀ x ∈ u.accesses, x.id ≠ id) ∧
       u.query t p.slot = (s.query t p.slot).setWork (runPass (s.query t p.slot) (passData (passImage a) p.b)).1 ∧
       (u.ctx t p.ctx).flags = (s.ctx t p.ctx).flags ||| (runPass (s.query t p.slot) (passData (passImage a) p.b)).2 ∧
       (u.ctx t p.ctx).run = (s.ctx t p.ctx).run ∧ (∀ k, k ≠ t → u.tile k = s.tile k)) ∧
   (∀ (s : State) t p rest id a va, (s.tile t).passes = p :: rest → p.access = some id → (s.accesses.find? fun a => a.id = id) = some a → a.pieces = [] →
     a.poisonAt = some va →
     ∃ u r, exec (.skimPass t) s = .next u ∧ u.mem = s.mem ∧ (u.tile t).passes = rest ∧ u.query t p.slot = { s.query t p.slot with poison := true } ∧
       (u.ctx t p.ctx).run = .halted ∧ u.records = s.records ++ [r] ∧ r.source = t ∧ r.ctx = p.ctx ∧ r.cls = 6 ∧ r.cause = 4 ∧ r.address = va) ∧
   (∀ (s : State) t p rest id a cause, (s.tile t).passes = p :: rest → p.access = some id → (s.accesses.find? fun a => a.id = id) = some a → a.pieces = [] →
     a.poisonAt = none → headerFault (passImage a) (hdrDim (s.query t p.slot).hdr) (lane 64 p.b 1) = some cause →
     ∃ u r, exec (.skimPass t) s = .next u ∧ u.mem = s.mem ∧ (u.tile t).passes = rest ∧ u.query t p.slot = { s.query t p.slot with poison := true } ∧
       (u.ctx t p.ctx).run = .halted ∧ u.records = s.records ++ [r] ∧ r.source = t ∧ r.ctx = p.ctx ∧ r.cls = 9 ∧ r.cause = cause) ∧
   (∀ (s : State) t p rest, (s.tile t).passes = p :: rest → (∃ id a, p.access = some id ∧ (s.accesses.find? fun a => a.id = id) = some a ∧ a.pieces ≠ []) ∨
       (p.access = none ∧ (s.ctx t p.ctx).held = true) →
     exec (.skimPass t) s = .next s) ∧
   (∀ (s : State) t p rest, (s.tile t).passes = p :: rest → p.access = none → (s.ctx t p.ctx).held = false →
     let plan := (planPass s t p.ctx p.slotNo (s.query t p.slot).hdr p.a p.b p.e).1
     (∀ a, plan = .ok a → ∃ u, exec (.skimPass t) s = .next u ∧ u.mem = s.mem ∧ u.accesses = s.accesses ++ [a] ∧
       (u.tile t).passes = { p with access := some a.id } :: rest ∧ u.query t p.slot = s.query t p.slot) ∧
     (∀ fi, plan = .error fi → ∃ u r, exec (.skimPass t) s = .next u ∧ u.mem = s.mem ∧ (u.tile t).passes = rest ∧
       u.query t p.slot = { s.query t p.slot with poison := true } ∧ (u.ctx t p.ctx).run = .halted ∧ u.records = s.records ++ [r] ∧ r.cls = fi.cls ∧ r.cause = fi.cause)) ∧
   (∀ (s : State) t k m, (s.query t k).merge = some m → m.due = 0 →
     ((m.poison || !checkHolds m.beats) = true → Happens (.skimMerge t k) (· = s) (·.setQuery t k { s.query t k with merge := none, poison := true })) ∧
     (m.poison = false → checkHolds m.beats = true →
       ∃ u, exec (.skimMerge t k) s = .next u ∧ LocalTo s u t ∧ (u.query t k).merge = none ∧ (u.query t k).nextShard = (s.query t k).nextShard + 1 ∧
         let dim := hdrDim (s.query t k).hdr
         let rs := (List.range (hdrRows (s.query t k).hdr)).map fun i => mergeRow ((s.query t k).work.row dim i) ((Attn.ofBeats (hdrRows (s.query t k).hdr) dim (m.beats.drop 2)).row dim i)
         (u.query t k).work = Attn.ofRows (rs.map (·.1)) ∧
         (u.ctx t m.ctx).flags = (s.ctx t m.ctx).flags ||| rs.foldl (fun acc x => acc ||| x.2) 0)) ∧
   (∀ (s : State) t k em, (s.query t k).emit = some em →
     (∀ b rest, em.beats = b :: rest → runPlace s t em.ctx em.ep = false → exec (.skimBeatEmit t k) s = .next s) ∧
     (∀ b rest, em.beats = b :: rest → runPlace s t em.ctx em.ep = true → em.ep < 8 → (at8 (s.ctx t em.ctx).word.obind em.ep).buf? = none →
       ∃ u x, exec (.skimBeatEmit t k) s = .next u ∧ LocalTo s u t ∧ at8 (u.ctx t em.ctx).outs em.ep = at8 (s.ctx t em.ctx).outs em.ep ++ [.full x] ∧ x.payload = b ∧
         x.mask = 0xFFFF ∧ x.tag = em.tag ∧ x.poison = false ∧ u.query t k = { s.query t k with emit := some { em with beats := rest } }) ∧
     (em.beats = [] → at8 (s.ctx t em.ctx).outs em.ep ≠ [] → exec (.skimBeatEmit t k) s = .next s) ∧
     (em.beats = [] → at8 (s.ctx t em.ctx).outs em.ep = [] → ∃ u, exec (.skimBeatEmit t k) s = .next u ∧ u.mem = s.mem ∧
       u.query t k = if em.free then SkimSlot.clean else { s.query t k with emit := none })) ∧
   (∀ (s : State) t k, (s.query t k).emit = none → exec (.skimBeatEmit t k) s = .next s)) ∧
  -- what is computed and sent
  ((∀ h base count i j, unmasked h base count i j = true ↔
     j < count ∧ base + j < 2 ^ 32 ∧ base + j ≤ hdrPos0 h + i ∧
       (base + j ≤ hdrCpos h ∨ (base + j - hdrCpos h - 1 < 16 ∧ (ancestors h 16 i).testBit (base + j - hdrCpos h - 1) = true))) ∧
   (∀ (pd : PassData) h dim i q (r : AttnRow),
     let f := Fmt.f32
     let score (j : Nat) : Nat := if unmasked h pd.base pd.count i j then (passScore pd (hdrScale h) dim q j).bits else negInf
     let top := (List.range 256).foldl (fun m j => (f.minmax true m (score j)).bits) r.m
     let alpha := (f.exp2 (f.sub r.m top).bits).bits
     let p (j : Nat) : FVal := Fmt.bf16.decode (cvtFF .f32 .bf16 .rne false (f.exp2 (f.sub (score j) top).bits).bits).bits
     let chunk (acc : Nat) (term : Nat → FVal × FpFlags) (c : Nat) : Nat :=
       (f.fusedSum (valTerm (f.decode acc) :: (List.range 32).map fun n => term (32 * c + n))).bits
     let out := (passRow pd h dim i q r).1
     (top = negInf → out = r) ∧
     (top ≠ negInf → out.m = top ∧
       out.l = (List.range 8).foldl (fun acc c => chunk acc (fun j => valTerm (p j)) c) (f.mul r.l alpha).bits ∧
       out.o.length = dim ∧ ∀ d, d < dim → out.o.getD d 0 =
         (f.add (f.mul (r.o.getD d 0) alpha).bits (f.mul ((List.range 8).foldl (fun acc c => chunk acc (fun j => mulTerm (p j) (pd.v j d)) c) 0) pd.vScale).bits).bits)) ∧
   (∀ (pd : PassData) scale dim q j, dim % 32 = 0 → (passScore pd scale dim q j).bits =
     (Fmt.f32.mul (Fmt.f32.mul ((List.range (dim / 32)).foldl (fun acc c =>
       (Fmt.f32.fusedSum (valTerm (Fmt.f32.decode acc) :: (List.range 32).map fun n => mulTerm (Fmt.bf16.decode (q.getD (32 * c + n) 0)) (pd.k j (32 * c + n)))).bits) 0)
       pd.kScale).bits scale).bits) ∧
   (∀ r p : AttnRow,
     let f := Fmt.f32
     let top := (f.minmax true r.m p.m).bits
     let a1 := (f.exp2 (f.sub r.m top).bits).bits
     let a2 := (f.exp2 (f.sub p.m top).bits).bits
     let out := (mergeRow r p).1
     (top = negInf → out = r) ∧
     (top ≠ negInf → out.m = top ∧ out.l = (f.add (f.mul r.l a1).bits (f.mul p.l a2).bits).bits ∧ out.o.length = r.o.length ∧
       ∀ d, d < r.o.length → out.o.getD d 0 = (f.add (f.mul (r.o.getD d 0) a1).bits (f.mul (p.o.getD d 0) a2).bits).bits)) ∧
   (∀ ty (r : AttnRow) d, d < r.o.length → ((finishRow ty r).map (·.bits)).getD d 0 =
     if r.m = negInf then 0 else ((Fmt.ofTy ty).divInto .f32 (r.o.getD d 0) r.l).bits) ∧
   (∀ beats : List V512, beats ≠ [] → checkHolds (sealToken beats) = true ∧ (sealToken beats).drop 1 = beats.drop 1 ∧
     ∀ b, beats.head? = some b → ∃ c, (sealToken beats).head? = some c ∧ ∀ k, k < 512 → (k < 416 ∨ 448 ≤ k) → c.getLsbD k = b.getLsbD k) ∧
   (∀ h : V512, beatField h 1 1 = 7 → hopHeader h = h) ∧
   (∀ h : V512, beatField h 1 1 < 6 →
     let n := beatField h 1 1
     let g := hopHeader h
     hdrHops g n = (hdrHops h n + 255) % 256 ∧ (∀ k, k < n → hdrHops g k = (hdrSizeN h k + 255) % 256) ∧ (∀ k, n < k → k < 6 → hdrHops g k = hdrHops h k) ∧
       (∀ k, k < 6 → 0 < hdrHops g k → (∀ j, j < k → hdrHops g j = 0) → beatField g 1 1 = k) ∧ ((∀ k, k < 6 → hdrHops g k = 0) → beatField g 1 1 = 7)))

/-! ### Triggers: predicates, routing choices, conditions, endpoints, counter chains (0x40-0x44) -/

/-- NOP changes nothing of its own (R331); the predicate instructions write their condition to the lanes of E of the destination and to the predicate update
alike, and leave the other lanes (R333); PANY and PALL look at the lanes of E alone. -/
def Obligations.PredicateInstructions : Prop :=
  Completes .nop (fun _ _ => True) (fun s _ => s) ∧
  (∀ p ∈ [(Instr.pset, fun (_ _ : Bool) => true), (Instr.pclr, fun _ _ => false), (Instr.pand, fun a b => a && b), (Instr.por, fun a b => a || b),
          (Instr.pxor, fun a b => a ^^ b), (Instr.pnot, fun a _ => !a), (Instr.pmov, fun a _ => a)],
    PredSpec p.1 (fun _ _ => True) (fun s _ => s) (fun _ fr l => p.2 (fr.a.val.getLsbD l) (fr.b.val.getLsbD l))) ∧
  PredSpec .pany (fun _ _ => True) (fun s _ => s) (fun _ fr _ => (List.range 16).any fun l => fr.on l && fr.a.val.getLsbD l) ∧
  PredSpec .pall (fun _ _ => True) (fun s _ => s) (fun _ fr _ => (List.range 16).all fun l => !fr.on l || fr.a.val.getLsbD l)

/-- STEER sends A to DST in the lanes of E where pB is 1 and to SC in those where it is 0, and to an output endpoint no beat at all when it has no lane
(R334). MERGE delivers A in the lanes where pC is 1 and B elsewhere, and leaves the beats of a side that is not selected: of the ADV bits of a MERGE it honours
those of an endpoint that is A's only where pC is 1 in some lane of G, and those of one that is B's only where pC is 0 in some lane of G (R335); CSND sends the OR of pA over
the lanes of E as one condition token, CRCV takes the head condition token and writes it to every lane of E (R336). -/
def Obligations.SteerAndMerge : Prop :=
  (∀ f s fr, (Instr.steer f).wf = true → s.firingOf (.steer f) = some fr →
     ∃ t, exec (.steer f) s = .next t ∧ LocalTo s t fr.t ∧
       let cx := s.ctx fr.t fr.c
       let cy := t.ctx fr.t fr.c
       let yes (l : Nat) : Bool := fr.on l && fr.b.val.getLsbD l
       let no (l : Nat) : Bool := fr.on l && !fr.b.val.getLsbD l
       (∀ k : Fin 8, f.dst = .d k → ∀ l, l < 16 → lane 32 (at8 cy.d k.val) l = if yes l then lane 32 fr.a.val l else lane 32 (at8 cx.d k.val) l) ∧
       (∀ k : Fin 8, f.dst ≠ .d k → at8 cy.d k.val = at8 cx.d k.val) ∧
       (∀ k : Fin 8, f.dst = .o k → f.sc ≠ .o k → (at8 cx.word.obind k.val).buf? = none →
         ((∀ l, l < 16 → yes l = false) → at8 cy.outs k.val = at8 cx.outs k.val) ∧
         ((∃ l, l < 16 ∧ yes l = true) → ∃ b, at8 cy.outs k.val = at8 cx.outs k.val ++ [.full b] ∧ b.tag = at8 cx.tags k.val ∧
           ∀ l, l < 16 → b.mask.getLsbD l = yes l ∧ lane 32 b.payload l = if yes l then lane 32 fr.a.val l else 0)) ∧
       (∀ k : Fin 8, f.sc = .o k → f.dst ≠ .o k → (at8 cx.word.obind k.val).buf? = none →
         ((∀ l, l < 16 → no l = false) → at8 cy.outs k.val = at8 cx.outs k.val) ∧
         ((∃ l, l < 16 ∧ no l = true) → ∃ b, at8 cy.outs k.val = at8 cx.outs k.val ++ [.full b] ∧ b.tag = at8 cx.tags k.val ∧
           ∀ l, l < 16 → b.mask.getLsbD l = no l ∧ lane 32 b.payload l = if no l then lane 32 fr.a.val l else 0)) ∧
       (∀ k : Fin 8, f.dst ≠ .o k → f.sc ≠ .o k → at8 cy.outs k.val = at8 cx.outs k.val) ∧
       (∀ k : Fin 8, ∀ l, l < 16 → (at8 cy.p k.val).getLsbD l =
         if fr.on l && decide (f.predReg = k) then PredOp.bit f.predOp ((at8 cx.p k.val).getLsbD l) (fr.b.val.getLsbD l) else (at8 cx.p k.val).getLsbD l) ∧
       (∀ k : Fin 8, at8 cy.ins k.val = if f.adv.getLsbD k.val then (at8 cx.ins k.val).tail else at8 cx.ins k.val) ∧
       cy.flags = cx.flags ||| fr.decodeFlags) ∧
  (LaneSpecOn .merge (fun _ _ => True) (fun s _ => s) id (fun _ fr l => if fr.cc.val.getLsbD l then fr.na l else fr.nb l)
     (fun _ fr l => fr.cc.val.getLsbD l) (fun _ _ _ => 0) ∧
   (∀ (f : Slot) (cx : Ctx) (pn : Fin 8) (n : Fin 8), f.sc = .p pn →
     let picks (b : Bool) : Prop := ∃ l, l < 16 ∧ (guardMask cx f).getLsbD l = true ∧ (at8 cx.p pn.val).getLsbD l = b
     ((advMask (.merge f) cx f).getLsbD n.val = true ↔
       f.adv.getLsbD n.val = true ∧ (f.sa = .i n → picks true) ∧ (f.sb = .i n → picks false))) ∧
   (let any (fr : Firing) : Bool := (List.range 16).any fun l => fr.on l && fr.a.val.getLsbD l
    ∀ f s fr (n : Fin 4), (Instr.csnd f).wf = true → s.firingOf (.csnd f) = some fr → f.dst = .co n →
     ∃ t, exec (.csnd f) s = .next t ∧ LocalTo s t fr.t ∧
       at4 (t.ctx fr.t fr.c).couts n.val = at4 (s.ctx fr.t fr.c).couts n.val ++ [any fr] ∧
       (∀ k : Fin 4, k ≠ n → at4 (t.ctx fr.t fr.c).couts k.val = at4 (s.ctx fr.t fr.c).couts k.val) ∧
       (∀ k : Fin 8, at8 (t.ctx fr.t fr.c).d k.val = at8 (s.ctx fr.t fr.c).d k.val ∧ at8 (t.ctx fr.t fr.c).outs k.val = at8 (s.ctx fr.t fr.c).outs k.val) ∧
       (∀ k : Fin 8, ∀ l, l < 16 → (at8 (t.ctx fr.t fr.c).p k.val).getLsbD l =
         if fr.on l && decide (f.predReg = k) then PredOp.bit f.predOp ((at8 (s.ctx fr.t fr.c).p k.val).getLsbD l) (any fr)
         else (at8 (s.ctx fr.t fr.c).p k.val).getLsbD l)) ∧
   (∀ n : Fin 4, PredSpec .crcv (fun _ fr => fr.f.sa = .ci n)
     (fun s fr => let cx := s.ctx fr.t fr.c
       s.setCtx fr.t fr.c { cx with cins := set4 cx.cins n.val (at4 cx.cins n.val).tail })
     (fun s fr _ => (at4 (s.ctx fr.t fr.c).cins n.val).headD false)))

/-- ADVC and ADVP move the pointers of the circular buffer that their endpoint is bound to by N slots, and in full/empty mode empty or fill the granules of
those slots (R337); DROP discards what an endpoint holds (R340); TAGSET sets the tag of later beats (R341). QSTAT delivers what an endpoint or its buffer holds (R338); QPEEK delivers a beat that stays where it is, in the lanes of its mask (R339), and
stops on poison. ADVC waits for FILLED slots, ADVP for FREE ones (R337). A beat sent on an endpoint that is bound to a circular buffer is one access of the
element under its next store number, of 64 bytes at beat WC counted from slot PP, with zero in the lanes outside E, and WC rises by one (R329). -/
def Obligations.Endpoints : Prop :=
  ((∀ f s fr k b, (Instr.advc f).wf = true → s.firingOf (.advc f) = some fr → fr.any = true → namedBuffer s fr.t fr.c f.sa = some (k, b) →
     let n := f.imm.toNat % 2 ^ 11
     ∃ t, exec (.advc f) s = .next t ∧ at16 (t.tile fr.t).buffers k = some { b with cp := (b.cp + n) % (2 * b.slots) } ∧
       (∀ j, j % 16 ≠ k % 16 → at16 (t.tile fr.t).buffers j = at16 (s.tile fr.t).buffers j) ∧ t.mem.cells = s.mem.cells ∧
       (∀ g, t.mem.isFull g = (s.mem.isFull g && !(b.fe && (List.range n).any fun j => (List.range (b.size / 16)).any fun i =>
         g == padPA fr.t (b.slotOff (b.cp + j)) / 16 + i))) ∧
       (∀ j, j ≠ fr.t → t.tile j = s.tile j) ∧ t.accesses = s.accesses ∧ (∀ j, at8 (t.ctx fr.t fr.c).d j = at8 (s.ctx fr.t fr.c).d j)) ∧
   (∀ f s fr k b, (Instr.advp f).wf = true → s.firingOf (.advp f) = some fr → fr.any = true → namedBuffer s fr.t fr.c f.dst = some (k, b) →
     let n := f.imm.toNat % 2 ^ 11
     ∃ t, exec (.advp f) s = .next t ∧
       at16 (t.tile fr.t).buffers k = some { b with pp := (b.pp + n) % (2 * b.slots), wc := b.wc - n * b.size / 64 } ∧
       (∀ j, j % 16 ≠ k % 16 → at16 (t.tile fr.t).buffers j = at16 (s.tile fr.t).buffers j) ∧ t.mem.cells = s.mem.cells ∧
       (∀ g, t.mem.isFull g = (s.mem.isFull g || (b.fe && (List.range n).any fun j => (List.range (b.size / 16)).any fun i =>
         g == padPA fr.t (b.slotOff (b.pp + j)) / 16 + i))) ∧
       (∀ j, j ≠ fr.t → t.tile j = s.tile j) ∧ t.accesses = s.accesses ∧ (∀ j, at8 (t.ctx fr.t fr.c).d j = at8 (s.ctx fr.t fr.c).d j)) ∧
   (∀ f s fr k b, (Instr.drop f).wf = true → s.firingOf (.drop f) = some fr → fr.any = true → namedBuffer s fr.t fr.c f.sa = some (k, b) →
     ∃ t, exec (.drop f) s = .next t ∧ at16 (t.tile fr.t).buffers k = some { b with cp := b.pp } ∧ t.mem.cells = s.mem.cells ∧
       (∀ j, j % 16 ≠ k % 16 → at16 (t.tile fr.t).buffers j = at16 (s.tile fr.t).buffers j) ∧ (∀ j, j ≠ fr.t → t.tile j = s.tile j) ∧
       t.accesses = s.accesses ∧ (∀ j, at8 (t.ctx fr.t fr.c).d j = at8 (s.ctx fr.t fr.c).d j) ∧
       (∀ g, t.mem.isFull g = (s.mem.isFull g && !(b.fe && (List.range b.spanned).any fun j => (List.range (b.size / 16)).any fun i =>
         g == padPA fr.t (b.slotOff (b.cp + j)) / 16 + i)))) ∧
   (∀ f s fr (n : Fin 8), (Instr.drop f).wf = true → s.firingOf (.drop f) = some fr → fr.any = true → f.sa = .i n → namedBuffer s fr.t fr.c f.sa = none →
     ∃ t, exec (.drop f) s = .next t ∧ LocalTo s t fr.t ∧ at8 (t.ctx fr.t fr.c).ins n.val = [] ∧
       (∀ k : Fin 8, at8 (t.ctx fr.t fr.c).d k.val = at8 (s.ctx fr.t fr.c).d k.val)) ∧
   (∀ f s fr (n : Fin 8), (Instr.tagset f).wf = true → s.firingOf (.tagset f) = some fr → fr.any = true → f.dst = .o n →
     ∃ t, exec (.tagset f) s = .next t ∧ LocalTo s t fr.t ∧ at8 (t.ctx fr.t fr.c).tags n.val = BitVec.ofNat 3 f.imm.toNat ∧
       (∀ k : Fin 8, k ≠ n → at8 (t.ctx fr.t fr.c).tags k.val = at8 (s.ctx fr.t fr.c).tags k.val) ∧
       (∀ k : Fin 8, at8 (t.ctx fr.t fr.c).outs k.val = at8 (s.ctx fr.t fr.c).outs k.val ∧ at8 (t.ctx fr.t fr.c).d k.val = at8 (s.ctx fr.t fr.c).d k.val)) ∧
   (∀ f (s : State) k b, (Instr.advc f).wf = true → namedBuffer s s.cur.tile s.cur.ctx f.sa = some (k, b) → filledSlots s s.cur.tile b < f.imm.toNat % 2 ^ 11 →
     exec (.advc f) s = .next s) ∧
   (∀ f (s : State) k b, (Instr.advp f).wf = true → namedBuffer s s.cur.tile s.cur.ctx f.dst = some (k, b) → b.freeSlots < (f.imm.toNat % 2 ^ 11 : Nat) →
     exec (.advp f) s = .next s)) ∧
  (∀ f s fr (n : Fin 8) k b, (Instr.mov f).wf = true → s.firingOf (.mov f) = some fr → f.dst = .o n → namedBuffer s fr.t fr.c f.dst = some (k, b) →
     at8 (s.ctx fr.t fr.c).outs n.val = [] →
     ∃ t a v, exec (.mov f) s = .next t ∧ t.mem = s.mem ∧ t.accesses = s.accesses ++ [a] ∧ a.writer = fr.t ∧ a.number = (s.writer fr.t).issued + 1 ∧
       a.pieces = blockPieces (padPA fr.t (b.base + (b.pp % b.slots * b.size + 64 * b.wc) % (b.slots * b.size))) v ∧
       (∀ l, l < fr.n → lane fr.w v l = if fr.on l then fr.na l else 0) ∧ (t.writer fr.t).issued = (s.writer fr.t).issued + 1 ∧
       at16 (t.tile fr.t).buffers k = some { b with wc := b.wc + 1 } ∧ at8 (t.ctx fr.t fr.c).outs n.val = []) ∧
  (LaneSpecOn .qstat (fun _ _ => True) (fun s _ => s) id (fun s fr l => (qstatValues s fr.t fr.c fr.f.sa).getD l 0)
     (fun s fr l => (qstatValues s fr.t fr.c fr.f.sa).getD l 0 != 0) (fun _ _ _ => 0) ∧
   (∀ (s : State) t c n, (at8 (s.ctx t c).word.ibind n.val).buf? = none → qstatValues s t c (.i n) =
     match ((s.ctx t c).beats n.val).head? with
     | some h => [((s.ctx t c).beats n.val).length, h.tag.toNat, h.mask.toNat]
     | none => [((s.ctx t c).beats n.val).length, 0xFFFFFFFF, 0]) ∧
   (∀ (s : State) t c n k b, namedBuffer s t c (.i n) = some (k, b) →
     qstatValues s t c (.i n) = [filledSlots s t b, wrap 32 b.freeSlots, b.cp, b.pp, b.slotOff b.cp, b.wc]) ∧
   (∀ f s fr b, (Instr.qpeek f).wf = true → s.firingOf (.qpeek f) = some fr → peekedBeat s fr.t fr.c f.sa f.imm.toNat = some b → b.poison = false →
     ∃ t, exec (.qpeek f) s = .next t ∧ t.mem = s.mem ∧ (∀ j, j ≠ fr.t → t.tile j = s.tile j) ∧
       let cx := s.ctx fr.t fr.c
       let cy := t.ctx fr.t fr.c
       (∀ k, f.dst = .d k → ∀ l, l < 16 → lane 32 (at8 cy.d k.val) l = if fr.on l && b.mask.getLsbD l then lane 32 b.payload l else lane 32 (at8 cx.d k.val) l) ∧
       (∀ k : Fin 8, f.dst ≠ .d k → at8 cy.d k.val = at8 cx.d k.val) ∧
       (∀ k : Fin 8, f.dst = .o k → (at8 cx.word.obind k.val).buf? = none → ∃ x, at8 cy.outs k.val = at8 cx.outs k.val ++ [.full x] ∧ x.tag = at8 cx.tags k.val ∧
         ∀ l, l < 16 → x.mask.getLsbD l = (fr.on l && b.mask.getLsbD l) ∧ lane 32 x.payload l = if fr.on l && b.mask.getLsbD l then lane 32 b.payload l else 0) ∧
       (∀ k : Fin 8, f.dst ≠ .o k → at8 cy.outs k.val = at8 cx.outs k.val) ∧
       (∀ (k : Fin 8) l, l < 16 → (at8 cy.p k.val).getLsbD l =
         if fr.on l && decide (f.predReg = k) then PredOp.bit f.predOp ((at8 cx.p k.val).getLsbD l) (lane 32 b.payload l != 0) else (at8 cx.p k.val).getLsbD l) ∧
       (∀ k : Fin 8, at8 cy.ins k.val = if f.adv.getLsbD k.val then (at8 cx.ins k.val).tail else at8 cx.ins k.val) ∧ cy.flags = cx.flags ||| fr.decodeFlags) ∧
   (∀ (s : State) t c (n : Fin 8) imm, (at8 (s.ctx t c).word.ibind n.val).buf? = none → peekedBeat s t c (.i n) imm = ((s.ctx t c).beats n.val)[imm % 64]?) ∧
   (∀ (s : State) t c (n : Fin 8) imm k b, namedBuffer s t c (.i n) = some (k, b) → ∃ x, peekedBeat s t c (.i n) imm = some x ∧ x.mask = 0xFFFF ∧
     x.payload = BitVec.ofNat 512 (padRead s t (b.base + (b.cp % b.slots * b.size + 64 * (imm % 2 ^ 16)) % (b.slots * b.size)) 64)) ∧
   (∀ b, Halts .qpeek false (fun s fr => peekedBeat s fr.t fr.c fr.f.sa fr.f.imm.toNat = some b ∧ b.poison = true) (fun _ _ => { cls := 6, cause := 2 })))

/-- FREE is exactly SLOTS less (PP - CP) modulo twice SLOTS, in both modes, and in full/empty mode it is negative once CP has passed PP; in full/empty mode FILLED
counts the full slots from the head on (R328). In pointer mode the filled and the free slots of a circular buffer make up all of them, whichever pointers a buffer
with pointers in range has, and a consumer or a producer that moves on changes FILLED by as many slots. -/
def Obligations.FilledAndFreeMakeUpSlots : Prop :=
  (∀ b : Buffer, 0 < b.slots → b.cp < 2 * b.slots → b.pp < 2 * b.slots → b.freeSlots = (b.slots : Int) - ((b.pp : Int) - b.cp) % (2 * b.slots : Int)) ∧
  (∀ (s : State) t (b : Buffer), b.fe = true → filledSlots s t b ≤ b.slots ∧ (∀ k, k < filledSlots s t b → slotFull s t b (b.cp + k) = true) ∧
    (filledSlots s t b < b.slots → slotFull s t b (b.cp + filledSlots s t b) = false)) ∧
  ∀ (s : State) t (b : Buffer), b.fe = false → 0 < b.slots → b.cp < 2 * b.slots → b.pp < 2 * b.slots → b.spanned ≤ b.slots →
    filledSlots s t b + b.freeSlots = b.slots ∧ (∀ n, n ≤ filledSlots s t b →
      filledSlots s t { b with cp := (b.cp + n) % (2 * b.slots) } = filledSlots s t b - n) ∧
    (∀ n : Nat, n ≤ b.freeSlots → filledSlots s t { b with pp := (b.pp + n) % (2 * b.slots) } = filledSlots s t b + n)

/-- Counter chains: CCFG takes LEVELS, WRAP and the START, COUNT and STRIDE of the used levels, and stands at the first tuple, exhausted if some level counts
nothing (R343); CNXT delivers the tuple that the chain stands at and moves it on (R344); CRST returns it to its first tuple or frees it (R345). CCFG waits for a
FREE chain and CNXT for an ACTIVE one. The tuple holds the index of each level, N, the levels that are last, and whether it is final (R342, R344). Before its
final tuple a chain's advance raises N by one and moves its innermost level that is not last, with those below it back at their start; at the final one it starts
again when it wraps, and else is exhausted (R344). -/
def Obligations.CounterChains : Prop :=
  ((∀ f s fr, (Instr.ccfg f).wf = true → s.firingOf (.ccfg f) = some fr → fr.any = true →
     let levels := f.imm.toNat / 4 % 8
     ∃ t, exec (.ccfg f) s = .next t ∧ LocalTo s t fr.t ∧
       let ch := t.counter fr.t (f.imm.toNat % 4)
       ch.levels = levels ∧ ch.wrap = f.imm.toNat.testBit 5 ∧ ch.n = 0 ∧ (∀ k, at4 ch.pos k = 0) ∧
       (∀ k, k < levels → at4 ch.start k = BitVec.ofNat 32 (lane 32 fr.a.val (3 * k)) ∧ at4 ch.count k = BitVec.ofNat 32 (lane 32 fr.a.val (3 * k + 1)) ∧
         at4 ch.stride k = BitVec.ofNat 32 (lane 32 fr.a.val (3 * k + 2))) ∧
       (ch.state = .exhausted ↔ ∃ k, k < levels ∧ lane 32 fr.a.val (3 * k + 1) = 0) ∧ ch.state ≠ .free ∧
       (∀ j, j % 4 ≠ f.imm.toNat % 4 → t.counter fr.t j = s.counter fr.t j) ∧ (∀ k, at8 (t.ctx fr.t fr.c).d k = at8 (s.ctx fr.t fr.c).d k)) ∧
   (∀ f s fr, (Instr.cnxt f).wf = true → s.firingOf (.cnxt f) = some fr →
     let ch := s.counter fr.t (f.imm.toNat % 4)
     let plev := f.imm.toNat / 4 % 8
     ∃ t1 t, exec (.cnxt f) s = .next t ∧ LaneEffect (.cnxt f) s fr (fun l => ch.tuple.getD l 0) (fun _ => if plev = 4 then ch.isFinal else ch.isLast plev) (fun _ => 0) t1 ∧
       t.counter fr.t (f.imm.toNat % 4) = (if fr.any then ch.advance else ch) ∧ (∀ j, j % 4 ≠ f.imm.toNat % 4 → t.counter fr.t j = s.counter fr.t j) ∧
       t.ctx fr.t = t1.ctx fr.t ∧ (∀ j, j ≠ fr.t → t.tile j = s.tile j) ∧ { t with tiles := t1.tiles } = t1) ∧
   (∀ f s fr, (Instr.crst f).wf = true → s.firingOf (.crst f) = some fr → fr.any = true →
     let ch := s.counter fr.t (f.imm.toNat % 4)
     ∃ t, exec (.crst f) s = .next t ∧ LocalTo s t fr.t ∧
       t.counter fr.t (f.imm.toNat % 4) =
         (if f.imm.toNat.testBit 2 then { ch with state := .free } else if ch.state = .free then ch else ch.restart) ∧
       (∀ j, j % 4 ≠ f.imm.toNat % 4 → t.counter fr.t j = s.counter fr.t j)) ∧
   Completes .ccfg (fun _ fr => fr.any = false) (fun s _ => s) ∧
   (∀ f (s : State), (Instr.ccfg f).wf = true → (s.counter s.cur.tile (f.imm.toNat % 4)).state ≠ .free → exec (.ccfg f) s = .next s) ∧
   (∀ f (s : State), (Instr.cnxt f).wf = true → (s.counter s.cur.tile (f.imm.toNat % 4)).state ≠ .active → exec (.cnxt f) s = .next s)) ∧
  (∀ ch : Counter,
     (∀ k, k < 4 → ch.tuple.getD k 0 = if k < ch.levels then (at4 ch.start k + at4 ch.pos k * at4 ch.stride k).toNat else 0) ∧ ch.tuple.getD 4 0 = ch.n.toNat ∧
     (∀ k, k < 4 → (ch.tuple.getD 5 0).testBit k = ch.isLast k) ∧ (ch.tuple.getD 5 0).testBit 4 = ch.isFinal ∧ ch.tuple.length = 6 ∧
     (∀ k, ch.isLast k = true ↔ ch.levels ≤ k ∨ at4 ch.pos k = at4 ch.count k - 1) ∧ (ch.isFinal = true ↔ ∀ k, k < 4 → ch.isLast k = true) ∧
     (ch.isFinal = true → ch.wrap = true → (∀ k, at4 ch.advance.pos k = 0) ∧ ch.advance.n = 0 ∧ ch.advance.state = ch.state) ∧
     (ch.isFinal = true → ch.wrap = false → ch.advance = { ch with state := .exhausted }) ∧
     (∀ k, at4 ch.restart.pos k = 0) ∧ ch.restart.n = 0 ∧ (ch.restart.state = .exhausted ↔ ∃ k, k < 4 ∧ k < ch.levels ∧ at4 ch.count k = 0) ∧ ch.restart.state ≠ .free) ∧
  (∀ (ch : Counter) k, ch.isFinal = false → k < 4 → ch.isLast k = false → (∀ j, j < k → ch.isLast j = true) →
     ch.advance.n = ch.n + 1 ∧ ch.advance.state = ch.state ∧ at4 ch.advance.pos k = at4 ch.pos k + 1 ∧
     (∀ j, j < k → at4 ch.advance.pos j = 0) ∧ (∀ j, k < j → j < 4 → at4 ch.advance.pos j = at4 ch.pos j) ∧
     (ch.advance.start, ch.advance.count, ch.advance.stride, ch.advance.levels, ch.advance.wrap) = (ch.start, ch.count, ch.stride, ch.levels, ch.wrap))

/-! ### Memory (0x50-0x52) and its events -/

/-- Loads at their firing (R269-R271, R275): LD at A plus its offset, LDW given a witness, LDX through indices as a gather given a witness, LDFE waiting for
full granules in pad and vault alone, and emptying them in its clr form. Which faults of a load into nul are counted in NUL_FAULTS, poisoned walks among them, is
the model's choice (log 26); that a malformed witness stops a firing only with a lane in E is its reading (log 24). -/
def Obligations.LoadsFire : Prop :=
  LoadSpec .ld true (fun _ fr =>
    { need := { r := true }, tier := anyTier, wit := nullWitness, gather := false, op := .load,
      lanes := fr.contiguous (wrap 64 (fr.a64 0 + (match fr.f.sb with | .imm => sgn 32 fr.f.imm.toNat | _ => sgn 64 (fr.b64 0)))) }) ∧
  LoadSpec .ldw true (fun _ fr =>
    { need := { r := true }, tier := anyTier, wit := BitVec.ofNat 64 (fr.b64 0), gather := false, op := .load, lanes := fr.contiguous (fr.a64 0) }) ∧
  LoadSpec .ldx true (fun _ fr =>
    { need := { r := true }, tier := anyTier, wit := BitVec.ofNat 64 (fr.a64 1), gather := true, op := .load, lanes := fr.indexed (fr.a64 0) }) ∧
  LoadSpec .ldfeClr true (fun _ fr =>
    { need := { r := true, w := true }, tier := feTier, wit := nullWitness, gather := false, op := .loadFull true, lanes := fr.contiguous (fr.a64 0) }) ∧
  LoadSpec .ldfeKeep true (fun _ fr =>
    { need := { r := true }, tier := feTier, wit := nullWitness, gather := false, op := .loadFull false, lanes := fr.contiguous (fr.a64 0) })

/-- Stores at their firing (R272, R273, R276): ST of B, STX of C through indices given a witness, STFE filling its granules, in pad and vault alone; PFT does
nothing that a program can see (R274). -/
def Obligations.StoresFire : Prop :=
  StoreSpec .st (fun _ fr => { lanes := fr.contiguous (fr.a64 0), val := fr.nb, setFull := false, tier := anyTier, wit := nullWitness }) ∧
  StoreSpec .stx (fun _ fr =>
    { lanes := fr.indexed (fr.a64 0), val := fr.nc, scatter := true, setFull := false, tier := anyTier, wit := BitVec.ofNat 64 (fr.a64 1) }) ∧
  StoreSpec .stfe (fun _ fr => { lanes := fr.contiguous (fr.a64 0), val := fr.nb, setFull := true, tier := feTier, wit := nullWitness }) ∧
  Completes .pft (fun _ _ => True) (fun s _ => s)

/-- Atomics at their firing (R277-R279). -/
def Obligations.AtomicsFire : Prop :=
  AtomicSpec .aadd .add ∧ AtomicSpec .amin .min ∧ AtomicSpec .amax .max ∧ AtomicSpec .aand .and ∧ AtomicSpec .aor .or ∧ AtomicSpec .axor .xor ∧
  AtomicSpec .aswp .swap ∧ AtomicSpec .acas .cas ∧ AtomicSpec .afadd .fadd

/-- An access in flight is performed granule by granule, an LDFE all at once when every granule is full (R231). It waits while an earlier access of its writer has
still to touch the granule, on a device page while an earlier access of its element has still to touch a device page, on a strongly ordered page while anything
earlier of its context remains, and behind a FENCE.D (R228, R267, R268, R283); alone in flight it does not wait. What performing a granule of memory does
(R226, R230, R231, R272, R277): a load changes nothing; a store replaces the bits of its mask in its granule, fills it if it is an STFE, clears the poison of a
granule that it writes whole, and changes no other granule; a clearing LDFE empties its granules, all at that instant; an atomic combines its lanes with what the
granule holds, each by the table of R277, and leaves its old values as return writes that fill (R278). A store of which nothing is left is in flight no longer. A
load that reads poison halts its context with its record (R265); the data of a load that has been performed reach its destination (R262); a store to the pad of
another tile may be performed as poison while a link inside that tile's domain is down (R18, R22, R480). When and in what order the granules of an access are
performed within R228, and which store a down link cuts off, is the model's reading (log 34); under which key a granule is read is log 6. -/
def Obligations.AccessesPerform : Prop :=
  let inMemory (p : Piece) : Prop := tierOf (16 * p.gran) ≠ 8 ∧ ingressGranule p.gran = false
  let elsewhere (s u : State) (g : Nat) : Prop :=
    ∀ h, h ≠ g → u.mem.granule h = s.mem.granule h ∧ u.mem.isFull h = s.mem.isFull h ∧ u.mem.isPoison h = s.mem.isPoison h ∧ u.mem.keyOf h = s.mem.keyOf h
  let written (s u : State) (p : Piece) (data mask : BitVec 128) (full poison : Bool) : Prop :=
    u.mem.granule p.gran = (s.granuleAs p.key p.gran &&& ~~~mask) ||| (data &&& mask) ∧ u.mem.keyOf p.gran = p.key ∧
    u.mem.isFull p.gran = (s.mem.isFull p.gran || (full && decide (tierOf (16 * p.gran) ≤ 1))) ∧
    u.mem.isPoison p.gran = (poison || (s.mem.isPoison p.gran && mask != BitVec.allOnes 128)) ∧ elsewhere s u p.gran
  let only (s : State) (a : Access) : Prop := ∀ b ∈ s.accesses, b.id = a.id → b = a
  (∀ (s : State) id g a p, (s.accesses.find? fun a => a.id = id) = some a → a.atOnce = false → (a.pieces.find? fun p => p.gran = g) = some p →
     (s.mayPerform a p = false → exec (.accessPerform id g) s = .next s) ∧
     (s.mayPerform a p = true → inMemory p →
       ∃ u, exec (.accessPerform id g) s = .next u ∧
         (∀ lanes, p.op = .load lanes → u.mem = s.mem ∧
           (only s a → s.mem.isPoison g = false → a.poisonAt = none → a.origin ≠ .rowXfer → a.number = 0 →
             (u.accesses.find? fun b => b.id = id) = some { a with pieces := a.pieces.erase p, results := a.results ++ laneValues (s.granuleAs p.key g) lanes }) ∧
           (∀ o, s.mem.isPoison g = true → a.poisonAt = none → a.origin = .slot → a.number = 0 → (s.outstanding.find? fun o => o.id = id) = some o → o.quiet = false →
             ∃ r, (u.ctx a.tile a.ctx).run = .halted ∧ (∀ k, at8 (u.ctx a.tile a.ctx).d k = at8 (s.ctx a.tile a.ctx).d k) ∧ u.records = s.records ++ [r] ∧
               r.source = a.tile ∧ r.ctx = a.ctx ∧ r.slot = a.slot ∧ r.cls = 6 ∧ r.cause = 1 ∧ r.address = p.va ∧ r.operands = some (a.a, a.b) ∧
               ∀ x ∈ u.outstanding, x.id ≠ id)) ∧
         (∀ data mask full poison, p.op = .store data mask full poison → written s u p data mask full poison ∧
           (a.pieces = [p] → a.backs = [] → a.returns = [] → a.number ≠ 0 → a.origin ≠ .rowXfer → (s.outstanding.find? fun o => o.id = id) = none →
             u.accesses = s.accesses.filter fun b => b.id != id)) ∧
         (∀ op ty lanes, p.op = .atomic op ty lanes →
           let mask := lanes.foldl (fun acc l => acc ||| BitVec.ofNat 128 ((2 ^ l.at'.width - 1) * 2 ^ l.at'.off)) 0
           (s.mem.isPoison g = false → written s u p (combineLanes op ty (s.granuleAs p.key g) lanes) mask false false) ∧ (s.mem.isPoison g = true → u.mem = s.mem) ∧
           ∀ k l, a.backs = [k] → k.target = g → lanes = [l] → l.at'.lane = k.lane → k.off + k.width ≤ 128 → l.at'.width = k.width → only s a → a.returns = [] →
             a.origin ≠ .rowXfer → s.mem.isPoison g = false →
             ∃ b r data, (u.accesses.find? fun b => b.id = id) = some b ∧ b.pieces = a.pieces.erase p ∧ b.backs = [] ∧ b.returns = [r] ∧ r.gran = k.gran ∧ r.key = k.key ∧
               r.op = .store data (BitVec.ofNat 128 ((2 ^ k.width - 1) * 2 ^ k.off)) true false ∧
               bits data.toNat k.off k.width = bits (s.granuleAs p.key g).toNat l.at'.off l.at'.width))) ∧
  (∀ (s : State) id g a clear, (s.accesses.find? fun a => a.id = id) = some a → a.origin = .slot → a.pieces ≠ [] →
     (∀ p ∈ a.pieces, inMemory p ∧ ∃ lanes, p.op = .loadFull clear lanes) →
     ((∃ p ∈ a.pieces, s.mayPerform a p = false) → exec (.accessPerform id g) s = .next s) ∧
     ((∃ p ∈ a.pieces, s.mem.isFull p.gran = false) → exec (.accessPerform id g) s = .next s) ∧
     ((∀ p ∈ a.pieces, s.mayPerform a p = true) →
       ∃ u, exec (.accessPerform id g) s = .next u ∧ u.mem.cells = s.mem.cells ∧ (∀ h, u.mem.isPoison h = s.mem.isPoison h) ∧
         (∀ h, u.mem.isFull h = (s.mem.isFull h && !(clear && a.pieces.any fun p => p.gran == h))) ∧
         (only s a → (∀ p ∈ a.pieces, s.mem.isPoison p.gran = false) → a.poisonAt = none → a.number = 0 →
           ∃ b, (u.accesses.find? fun b => b.id = id) = some b ∧ b.pieces = [] ∧
             b.results = a.results ++ a.pieces.flatMap fun p => match p.op with
               | .loadFull _ lanes => laneValues (s.granuleAs p.key p.gran) lanes
               | _ => []))) ∧
  -- the order
  ((∀ (s : State) a b (p q : Piece), b ∈ s.accesses → b.writer = a.writer → b.before a = true → q ∈ b.pieces →
     (q.gran = p.gran → (∀ clear lanes, q.op ≠ .loadFull clear lanes) → s.mayPerform a p = false) ∧
     (q.mt = .device → p.mt = .device → a.writer < 4608 → s.mayPerform a p = false) ∧ (p.mt = .strong → b.ctx = a.ctx → s.mayPerform a p = false)) ∧
   (∀ (s : State) a b (p q : Piece), b ∈ s.accesses → b.writer = a.writer → b.fence < a.fence → q ∈ b.pieces →
     (p.mt = .device ∨ p.mt = .strong ∨ q.mt = .device ∨ q.mt = .strong) → s.mayPerform a p = false) ∧
   (∀ (s : State) a (p : Piece), (∀ b ∈ s.accesses, b = a) → (∀ r ∈ s.chainsOf a, r.groups ≤ r.next) → a.origin = .slot → p ∈ a.pieces ∨ p ∈ a.returns → p.mt = .normal →
     (∀ clear lanes, p.op ≠ .loadFull clear lanes) → s.mayPerform a p = true) ∧
   (∀ (s : State) a (p : Piece) clear lanes, p.op = .loadFull clear lanes → s.mem.isFull p.gran = false → s.mayPerform a p = false)) ∧
  -- the operations of the atomics
  ((∀ ty w m b c, AtomicOp.apply .add ty w m b c = (m + b) % 2 ^ w ∧ AtomicOp.apply .and ty w m b c = m &&& b ∧ AtomicOp.apply .or ty w m b c = m ||| b ∧
     AtomicOp.apply .xor ty w m b c = m ^^^ b ∧ AtomicOp.apply .swap ty w m b c = b ∧ AtomicOp.apply .cas ty w m b c = (if m = c then b else m) ∧
     AtomicOp.apply .fadd ty w m b c = ((Fmt.ofTy ty).add m b).bits ∧
     intOf ty.signed w (AtomicOp.apply .min ty w m b c) = min (intOf ty.signed w m) (intOf ty.signed w b) ∧
     intOf ty.signed w (AtomicOp.apply .max ty w m b c) = max (intOf ty.signed w m) (intOf ty.signed w b)) ∧
   (∀ op ty (x : BitVec 128) (l : AtomicLane), l.at'.off + l.at'.width ≤ 128 →
     bits (combineLanes op ty x [l]).toNat l.at'.off l.at'.width = op.apply ty l.at'.width (bits x.toNat l.at'.off l.at'.width) l.b l.c % 2 ^ l.at'.width)) ∧
  -- return writes, data that return, poison
  (∀ (s : State) id g a p data mask full poison, (s.accesses.find? fun a => a.id = id) = some a → (a.returns.find? fun p => p.gran = g) = some p →
     p.op = .store data mask full poison → inMemory p →
     (s.mayPerform a p = false → exec (.atomicReturnWrite id g) s = .next s) ∧
     (s.mayPerform a p = true → ∃ u, exec (.atomicReturnWrite id g) s = .next u ∧ written s u p data mask full poison ∧
       (a.pieces = [] → a.backs = [] → a.returns = [p] → a.number ≠ 0 → a.origin = .slot → (s.outstanding.find? fun o => o.id = id) = none →
         u.accesses = s.accesses.filter fun b => b.id != id))) ∧
  (∀ (s : State) id a o, (s.accesses.find? fun a => a.id = id) = some a → (s.outstanding.find? fun o => o.id = id) = some o → a.number = 0 → a.origin = .slot → a.pieces = [] →
     let s1 : State := { s with accesses := s.accesses.filter fun b => b.id != id }
     (a.poisonAt = none → exec (.loadDataReturn id) s = .next (s1.deliver o ((List.range o.n).map a.laneValue))) ∧
     (a.poisonAt.isSome = true → exec (.loadDataReturn id) s = .next { s1 with outstanding := s1.outstanding.filter fun x => x.id != id })) ∧
  (∀ (s : State) id a, (s.accesses.find? fun a => a.id = id) = some a → a.pieces ≠ [] → exec (.loadDataReturn id) s = .next s) ∧
  (∀ (s : State) id g a p data mask full poison, (s.accesses.find? fun a => a.id = id) = some a → (a.pieces.find? fun p => p.gran = g) = some p →
     p.op = .store data mask full poison → inMemory p → s.mayPerform a p = true →
     (s.cutOff a p = true → ∃ u, exec (.poisonNotice id g) s = .next u ∧ written s u p data mask full true) ∧
     (s.cutOff a p = false → exec (.poisonNotice id g) s = .next s)) ∧
  (∀ (s : State) a p, s.cutOff a p = true ↔ ∃ t d, padTile p.gran = some t ∧ t ≠ a.tile ∧ s.tileDomain t = some d ∧
    ∃ r ∈ s.routers, s.siteDomain r.1 = some d ∧ ∃ l ∈ r.2.link, l.2 = .down ∧ ∃ next, s.beyond r.1 l.1 = some next ∧ s.siteDomain next = some d)

/-- Memory itself: a byte reads as last written and every other byte as before; a number of n bytes reads back modulo 2^(8n) (R7); writing keeps the canonical
form. -/
def Obligations.MemoryReadsBack : Prop :=
  (∀ (m : Memory) a b k, (m.setByte a b).byte k = if k = a then b else m.byte k) ∧
  (∀ (m : Memory) a n x, (m.write a n x).read a n = x % 2 ^ (8 * n)) ∧
  (∀ (m : Memory) a n x k, k < a ∨ a + n ≤ k → (m.write a n x).byte k = m.byte k) ∧
  (∀ (m : Memory) a n x, m.wf = true → (m.write a n x).wf = true) ∧
  (∀ m k : Memory, m.wf = true → k.wf = true → (∀ a, m.byte a = k.byte a) → m.cells = k.cells)

/-! ### Witnesses (0x53, 0x54) -/

/-- The witness instructions at their firing (R243-R250, R281-R283). -/
def Obligations.WitnessInstructions : Prop :=
  (let wa (fr : Firing) : W64 := BitVec.ofNat 64 (fr.a64 0)
   let wb (fr : Firing) : W64 := BitVec.ofNat 64 (fr.b64 0)
   let fine (s : State) (fr : Firing) (w : W64) : Prop := s.standing fr.t w ≠ .malformed
   (∀ mk ∈ [Instr.wmrg, Instr.wlft, Instr.wlftH, Instr.wrdy], WitnessSpec mk (fun _ fr => fr.any = false) (fun s _ => s) (fun _ _ => 0)) ∧
   (∀ w, WitnessSpec .wmrg (fun s fr => fr.any = true ∧ fine s fr (wa fr) ∧ fine s fr (wb fr) ∧ merge s fr.t (wa fr) (wb fr) = .done w) (fun s _ => s) (fun _ _ => w)) ∧
   (∀ w, WitnessSpec .wlft
     (fun s fr => fr.any = true ∧ fine s fr (wa fr) ∧ 1 ≤ fr.a64 1 % 16 ∧ fr.a64 1 % 16 ≤ 8 ∧ lift s fr.t (wa fr) (fr.a64 1 % 16) = .done w) (fun s _ => s) (fun _ _ => w)) ∧
   (∀ f s fr w, (Instr.wlftH f).wf = true → s.firingOf (.wlftH f) = some fr → fr.any = true → fine s fr (wa fr) → 1 ≤ fr.a64 1 % 16 → fr.a64 1 % 16 ≤ 8 →
     lift s fr.t (wa fr) (fr.a64 1 % 16) = .done w →
     ∃ t1 t, exec (.wlftH f) s = .next t ∧ LaneEffect (.wlftH f) s fr.as64 (fun _ => w.toNat) (fun _ => w != 0) (fun _ => 0) t1 ∧ { t with groups := s.groups } = t1 ∧
       ∀ l g, l < 9 → g < 65536 → t.group l g =
         if 1 ≤ witLvl w ∧ witLvl w ≤ 8 ∧ l = witLvl w ∧ g = witInst w then { s.group l g with hasten := true } else s.group l g) ∧
   (∀ st, WitnessSpec .wrdy (fun s fr => fr.any = true ∧ s.standing fr.t (wa fr) = st ∧ st ≠ .malformed)
     (fun s fr => if st = .dropped then let cx := s.ctx fr.t fr.c; s.setCtx fr.t fr.c { cx with wscope := true } else s)
     (fun _ _ => if st = .pending then 0 else BitVec.allOnes 64)) ∧
   Completes .wwt (fun s fr => fr.any = true ∧ fine s fr (wa fr)) (fun s fr => s.noteScope fr.t fr.c (wa fr)) ∧
   Completes .wwt (fun _ fr => fr.any = false) (fun s _ => s) ∧
   (∀ mk ∈ [Instr.wmrg, Instr.wlft, Instr.wlftH, Instr.wrdy, Instr.wwt],
     Halts mk true (fun s fr => fr.any = true ∧ s.standing fr.t (wa fr) = .malformed) (fun _ fr => { cls := 7, cause := 1, witness := wa fr })) ∧
   (∀ mk ∈ [Instr.wlft, Instr.wlftH],
     Halts mk true (fun s fr => fr.any = true ∧ fine s fr (wa fr) ∧ (fr.a64 1 % 16 = 0 ∨ 8 < fr.a64 1 % 16)) (fun _ fr => { cls := 7, cause := 2, witness := wa fr }))) ∧
  WitnessSpec .wnul (fun _ _ => True) (fun s _ => s) (fun _ _ => 0xF000000000000000) ∧
  (∀ f s fr, (Instr.fenceD f).wf = true → s.firingOf (.fenceD f) = some fr →
    ∃ t, exec (.fenceD f) s = .next t ∧ LocalTo s t fr.t ∧ (t.tile fr.t).fences = (s.tile fr.t).fences + fr.any.toNat ∧
      (∀ k, f.dst = .d k → ∀ j, j < 8 → lane 64 (at8 (t.ctx fr.t fr.c).d k.val) j =
        if fr.as64.on j then (s.lastWitness fr.t).toNat else lane 64 (at8 (s.ctx fr.t fr.c).d k.val) j) ∧
      (∀ k : Fin 8, f.dst ≠ .d k → at8 (t.ctx fr.t fr.c).d k.val = at8 (s.ctx fr.t fr.c).d k.val) ∧
      (∀ (k : Fin 8) (b : Nat), b < 16 → (at8 (t.ctx fr.t fr.c).p k.val).getLsbD b =
        if fr.on b && decide (f.predReg = k) then PredOp.bit f.predOp ((at8 (s.ctx fr.t fr.c).p k.val).getLsbD b) true else (at8 (s.ctx fr.t fr.c).p k.val).getLsbD b))

/-- What a reader finds (R109, R110, R247-R250): the null witness is satisfied; levels 9 to 14 and writer-local witnesses of no writer are malformed; its own
witness is satisfied once every store up to its number is performed, pending while it is issued and not performed; a witness of a group that does not contain
the reader is dropped. -/
def Obligations.WitnessStandings : Prop :=
  (∀ (s : State) u (w : W64), w.toNat / 2 ^ 60 = 15 → s.standing u w = .satisfied) ∧
  (∀ (s : State) u (w : W64), 9 ≤ w.toNat / 2 ^ 60 → w.toNat / 2 ^ 60 ≤ 14 → s.standing u w = .malformed) ∧
  (∀ (s : State) u (w : W64), w.toNat / 2 ^ 60 = 0 → s.isWriter (w.toNat / 2 ^ 40 % 2 ^ 16) = false → s.standing u w = .malformed) ∧
  (∀ (s : State) u n, s.isWriter u = true → u < 2 ^ 16 → s.pf u ≤ (s.writer u).issued → (s.writer u).issued < 2 ^ 43 → n < 2 ^ 43 →
    s.standing u (localWitness u n) = if n ≤ s.pf u then .satisfied else if n ≤ (s.writer u).issued then .pending else .malformed) ∧
  (∀ (s : State) u (w : W64), 1 ≤ w.toNat / 2 ^ 60 → w.toNat / 2 ^ 60 ≤ 8 → s.groupOf u (w.toNat / 2 ^ 60) ≠ some (w.toNat / 2 ^ 40 % 2 ^ 16) → s.standing u w = .dropped)

/-- A result that has come reaches its destination (R262, R263): the lanes of E of a register, or the place that an output endpoint has held for it, and the
predicate update with C = result not zero; the firing is outstanding no longer. What counts as not zero in each type, and when a later result takes its held
place, is the model's reading (log 15). -/
def Obligations.DeliveriesWriteDestinations : Prop :=
  ∀ (s : State) (o : Outstanding) vals, (o.w = 32 ∨ o.w = 64) → o.n = 512 / o.w →
    let t := s.deliver o vals
    let cx := s.ctx o.tile o.ctx
    let cy := t.ctx o.tile o.ctx
    (∀ k, o.dst = .d k → ∀ l, l < o.n → lane o.w (at8 cy.d k.val) l = if laneOn o.w o.e l then vals.getD l 0 % 2 ^ o.w else lane o.w (at8 cx.d k.val) l) ∧
    (∀ k : Fin 8, o.dst ≠ .d k → at8 cy.d k.val = at8 cx.d k.val) ∧
    (∀ (k : Fin 8) (b : Nat), b < 16 → (at8 cy.p k.val).getLsbD b =
      if laneOn o.w o.e (b / (o.w / 32)) && decide (o.predReg = k) then
        PredOp.bit o.predOp ((at8 cx.p k.val).getLsbD b) (typedNonzero o.ty (vals.getD (b / (o.w / 32)) 0))
      else (at8 cx.p k.val).getLsbD b) ∧
    (∀ k tag, o.dst = .o k → (at8 cx.word.obind k.val).buf? = none → at8 cx.outs k.val = [.held o.id tag] →
      ∃ b, at8 cy.outs k.val = [.full b] ∧ b.tag = tag ∧ b.poison = false ∧
        ∀ l, l < o.n → lane o.w b.payload l = if laneOn o.w o.e l then vals.getD l 0 % 2 ^ o.w else 0) ∧
    t.outstanding = s.outstanding.filter (fun x => x.id != o.id) ∧ t.mem = s.mem ∧ cy.flags = cx.flags ∧ (∀ k, k ≠ o.tile → t.tile k = s.tile k)

/-! ### Basic control (0x00) -/

/-- RETIRE ends its context, whose endpoints are emptied (R332); TIME delivers device time, the sector's cycles and its divider (R372); SREAD delivers the
values of its selection and with CLR clears CTX_STATUS (R374, R375). -/
def Obligations.ControlInstructions : Prop :=
  (∀ f s fr, (Instr.retire f).wf = true → s.firingOf (.retire f) = some fr → fr.any = true →
    ∃ t, exec (.retire f) s = .next t ∧ (t.ctx fr.t fr.c).run = .retired ∧ t.mem = s.mem ∧ (∀ k, k ≠ fr.t → t.tile k = s.tile k) ∧
      (∀ k, k % 8 ≠ fr.c % 8 → t.ctx fr.t k = s.ctx fr.t k) ∧
      ∀ k : Fin 8, at8 (t.ctx fr.t fr.c).ins k.val = [] ∧ at8 (t.ctx fr.t fr.c).outs k.val = at8 (s.ctx fr.t fr.c).outs k.val ∧
        at8 (t.ctx fr.t fr.c).d k.val = at8 (s.ctx fr.t fr.c).d k.val ∧ at8 (t.ctx fr.t fr.c).p k.val = at8 (s.ctx fr.t fr.c).p k.val) ∧
  LaneSpecOn .time (fun _ _ => True) (fun s _ => s) Firing.as64
    (fun s fr j => [s.ns % 2 ^ 64, s.cycles (sectorOf fr.t) % 2 ^ 64, s.divider (sectorOf fr.t)].getD j 0)
    (fun s fr j => [s.ns % 2 ^ 64, s.cycles (sectorOf fr.t) % 2 ^ 64, s.divider (sectorOf fr.t)].getD j 0 != 0) (fun _ _ _ => 0) ∧
  (∀ f s fr, (Instr.sread f).wf = true → s.firingOf (.sread f) = some fr →
    let vals := sreadValues s fr.t fr.c (f.imm.toNat % 256)
    ∃ t1 t, exec (.sread f) s = .next t ∧ LaneEffect (.sread f) s fr (fun l => vals.getD l 0) (fun l => vals.getD l 0 != 0) (fun _ => 0) t1 ∧
      t.ctx fr.t fr.c = (if f.imm.toNat.testBit 8 && fr.any then { t1.ctx fr.t fr.c with wscope := false, restored := false, nulFaults := 0 } else t1.ctx fr.t fr.c) ∧
      (∀ k, k ≠ fr.t → t.tile k = s.tile k) ∧ { t with tiles := t1.tiles } = t1) ∧
  (∀ (s : State) t c, sreadValues s t c 0 = [(s.ctx t c).wscope.toNat + 2 * (s.ctx t c).restored.toNat + (s.ctx t c).nulFaults % 2 ^ 16 * 2 ^ 16] ∧
    sreadValues s t c 4 = [t, c, columnOf t, sectorOf t] ∧ sreadValues s t c 6 = [4096 - (s.poolOf ((s.tileDomain t).getD 0)).length] ∧
    ∀ x, s.tileInst t = some x →
      (∀ p ∈ [(1, x.number), (2, x.entryWit.toNat), (7, x.entry.deadline)], sreadValues s t c p.1 = [p.2 % 2 ^ 32, p.2 / 2 ^ 32 % 2 ^ 32]) ∧
      sreadValues s t c 3 = [tileAt x.ox x.oy x.oz, columnOf (tileAt x.ox x.oy x.oz), sectorOf (tileAt x.ox x.oy x.oz), (s.tileDomain t).getD 0] ∧
      sreadValues s t c 5 = [x.depth, x.level, (s.domain ((s.tileDomain t).getD 0)).reserveLevel])

/-- TRAP fires and then halts its context with its CODE, and with E all zero does nothing but consume its ADV beats; BRKP halts it without firing while breakpoints are on in its domain, passes once after a re-arm, and
otherwise changes nothing (R473, R476, R477). -/
def Obligations.TrapsHalt : Prop :=
  (∀ f s fr, (Instr.trap f).wf = true → s.firingOf (.trap f) = some fr →
    let u := s.finished (.trap f) s fr
    exec (.trap f) s = .next (if fr.any then u.haltCtx s.cur.tile s.cur.ctx s.cur.slot { cls := 15, cause := 0, detail := BitVec.ofNat 128 (f.imm.toNat % 2 ^ 16) } else u)) ∧
  (let on (s : State) (fr : Firing) : Bool := (s.faultQueue ((s.tileDomain fr.t).getD 0)).brkpEn && fr.any
   Halts .brkp false (fun s fr => (s.ctx fr.t fr.c).brkpPass ≠ some fr.slot ∧ on s fr = true)
     (fun _ fr => { cls := 16, cause := 0, detail := BitVec.ofNat 128 (fr.f.imm.toNat % 2 ^ 16) }) ∧
   Completes .brkp (fun s fr => (s.ctx fr.t fr.c).brkpPass ≠ some fr.slot ∧ on s fr = false) (fun s _ => s) ∧
   Completes .brkp (fun s fr => (s.ctx fr.t fr.c).brkpPass = some fr.slot)
     (fun s fr => s.setCtx fr.t fr.c { s.ctx fr.t fr.c with brkpPass := none }))

/-! ### Engine queues (0x60-0x62) and engines -/

/-- An inline command is appended to the queue that its IMM names, with its CMD, when the context owns the queue (R289, R296); QAPP appends a chain of COUNT
records (R295). A queue out of range, or one of another owner, stops them (R285, R295, R296). -/
def Obligations.CommandsAppend : Prop :=
  (∀ p ∈ [(Instr.hcpy, 1, false), (Instr.hred, 2, false), (Instr.ha2a, 3, false), (Instr.hcol, 4, false), (Instr.hfng, 5, false), (Instr.nzer, 0x11, true),
          (Instr.ncpy, 0x12, true), (Instr.ncmp, 0x13, true), (Instr.nfen, 0x14, true)],
    (∀ f s fr q, (p.1 f).wf = true → s.firingOf (p.1 f) = some fr → fr.any = true → inlineQueue s fr.t f.imm.toNat p.2.2 = some q → (s.mirror? fr.t fr.c q).isSome = true →
      ∃ t, exec (p.1 f) s = .next t ∧ AppendEffect s fr q
        [.inline (((if p.2.1 = 0x14 then 0 else fr.a.val) &&& ~~~(0xFF : V512)) ||| BitVec.ofNat 512 p.2.1)] t) ∧
    LaneSpecOn p.1 (fun _ fr => fr.any = false) (fun s _ => s) Firing.as64 (fun _ _ _ => 0) (fun _ _ _ => false) (fun _ _ _ => 0) ∧
    (∀ f s fr, (p.1 f).wf = true → s.firingOf (p.1 f) = some fr → fr.any = true → inlineQueue s fr.t f.imm.toNat p.2.2 = none →
      ∃ r, exec (p.1 f) s = .next (s.haltCtx fr.t fr.c fr.slot { cls := 10, cause := 2, operands := r })) ∧
    (∀ f s fr q, (p.1 f).wf = true → s.firingOf (p.1 f) = some fr → fr.any = true → inlineQueue s fr.t f.imm.toNat p.2.2 = some q → s.mirror? fr.t fr.c q = none →
      ∃ r, exec (p.1 f) s = .next (s.haltCtx fr.t fr.c fr.slot { cls := 10, cause := 1, operands := r }))) ∧
  (let fields (fr : Firing) : Nat × Nat := (fr.b64 0 % 512, fr.b64 0 / 2 ^ 16 % 128)
   let fits (fr : Firing) : Prop := (fields fr).1 < 272 ∧ 1 ≤ (fields fr).2 ∧ (fields fr).2 ≤ 64 ∧ fr.b64 0 / 2 ^ 9 % 2 ^ 7 = 0 ∧ fr.b64 0 / 2 ^ 23 = 0
   let wit (fr : Firing) : W64 := BitVec.ofNat 64 (fr.a64 1)
   (∀ f s fr, (Instr.qapp f).wf = true → s.firingOf (.qapp f) = some fr → fr.any = true → fits fr → (s.mirror? fr.t fr.c (fields fr).1).isSome = true →
     fr.a64 0 % 64 = 0 → s.standing fr.t (wit fr) ≠ .malformed →
     ∃ t, exec (.qapp f) s = .next t ∧ AppendEffect s fr (fields fr).1
       ((List.range (fields fr).2).map fun k => .chain (if k = 0 then some (fr.a64 0) else none) (wit fr) (s.tail (fields fr).1 + 1)) t) ∧
   LaneSpecOn .qapp (fun _ fr => fr.any = false) (fun s _ => s) Firing.as64 (fun _ _ _ => 0) (fun _ _ _ => false) (fun _ _ _ => 0) ∧
   Halts .qapp true (fun _ fr => fr.any = true ∧ ¬ fits fr) (fun _ _ => { cls := 10, cause := 2 }) ∧
   Halts .qapp true (fun s fr => fr.any = true ∧ fits fr ∧ s.mirror? fr.t fr.c (fields fr).1 = none) (fun _ _ => { cls := 10, cause := 1 }) ∧
   Halts .qapp true (fun s fr => fr.any = true ∧ fits fr ∧ (s.mirror? fr.t fr.c (fields fr).1).isSome = true ∧ fr.a64 0 % 64 ≠ 0)
     (fun _ fr => { cls := 3, cause := 1, address := fr.a64 0, witness := wit fr }) ∧
   Halts .qapp true
     (fun s fr => fr.any = true ∧ fits fr ∧ (s.mirror? fr.t fr.c (fields fr).1).isSome = true ∧ fr.a64 0 % 64 = 0 ∧ s.standing fr.t (wit fr) = .malformed)
     (fun _ fr => { cls := 7, cause := 1, witness := wit fr }))

/-- QSEQ and QFEN send a request whose reply writes their destination: what QSEQ reports of a queue, and the merge of the witnesses of the last commands of
the queues that QFEN names (R297-R299). DTAB adds an entry to the column's dependency table, SQIT a program (R300, R301); both stop on a queue that the
sequencer does not own. That other bits of QSEQ's operand stop it with QUEUE_RANGE, and through which cache DTAB reads its record, is the model's reading (log 51). -/
def Obligations.QueueRequestsAndTables : Prop :=
  (∀ f s fr, (Instr.qseq f).wf = true → s.firingOf (.qseq f) = some fr → fr.any = true → s.sees fr.t (fr.a64 0) = true →
    ∃ t r, exec (.qseq f) s = .next t ∧ AwaitEffect (.qseq f) s fr t ∧ t.requests = s.requests ++ [r] ∧ r.id = s.nextAccess ∧ r.kind = .qseq (fr.a64 0)) ∧
  Halts .qseq true (fun s fr => fr.any = true ∧ s.sees fr.t (fr.a64 0) = false) (fun _ _ => { cls := 10, cause := 2 }) ∧
  (∀ f s fr, (Instr.qfen f).wf = true → s.firingOf (.qfen f) = some fr → fr.any = true → (fenceQueues fr.a.val).all (s.sees fr.t) = true →
    ∃ t r, exec (.qfen f) s = .next t ∧ AwaitEffect (.qfen f) s fr t ∧ t.requests = s.requests ++ [r] ∧ r.id = s.nextAccess ∧
      r.kind = .qfen (f.imm.toNat.testBit 0) (fenceQueues fr.a.val) [] ∧
      t.joins = (if f.imm.toNat.testBit 0 then s.joins ++ [{ request := s.nextAccess, waiting := fenceQueues fr.a.val, marks := [] }] else s.joins)) ∧
  Halts .qfen true (fun s fr => fr.any = true ∧ (fenceQueues fr.a.val).all (s.sees fr.t) = false) (fun _ _ => { cls := 10, cause := 2 }) ∧
  (∀ mk ∈ [Instr.qseq, Instr.qfen], LaneSpecOn mk (fun _ fr => fr.any = false) (fun s _ => s) id (fun _ _ _ => 0) (fun _ _ _ => false) (fun _ _ _ => 0)) ∧
  (∀ (s : State) id q r o, q < 272 → (s.requests.find? fun r => r.id = id) = some r → (s.outstanding.find? fun o => o.id = id) = some o →
    (r.kind = .qseq q → exec (.queueReply id q) s = .next ((s.dropRequest id).deliver o
      [(localWitness (writerOfQueue q) (s.cmdQueue q).done).toNat, (localWitness (writerOfQueue q) (s.tail q)).toNat,
       (s.cmdQueue q).status + (s.cmdQueue q).stopped.toNat * 2 ^ 16])) ∧
    (∀ join waiting wits, r.kind = .qfen join waiting wits → q ∈ waiting → exec (.queueReply id q) s = .next (s.reachQueue r q)) ∧
    (∀ join wits w, r.kind = .qfen join [] wits → mergeAll s o.tile wits nullWitness = .done w →
      exec (.queueReply id q) s = .next (State.deliver { s with
        requests := s.requests.filter (fun r => r.id != id),
        fences := if join && isLathTile o.tile then s.fences ++ [{ domain := (s.tileDomain o.tile).getD 0, wit := w, covers := wits }] else s.fences } o (List.replicate 8 w.toNat))) ∧
    (∀ join wits, r.kind = .qfen join [] wits → mergeAll s o.tile wits nullWitness = .waiting → exec (.queueReply id q) s = .next s)) ∧
  (∀ (s : State) (r : Request) q join waiting wits, r.kind = .qfen join waiting wits → (s.requests.find? fun x => x.id = r.id) = some r →
    let u := s.reachQueue r q
    u.mem = s.mem ∧ u.tiles = s.tiles ∧ u.queues = s.queues ∧
    ((u.requests.find? fun x => x.id = r.id) = some
      { r with kind := .qfen join (waiting.filter (· != q)) (wits ++ [localWitness (writerOfQueue q) (s.tail q)]) }) ∧
    u.joins = (if join then s.joins.map fun j => if j.request = r.id then
      { j with waiting := j.waiting.filter (· != q), marks := j.marks ++ [(q, s.tail q)] } else j else s.joins)) ∧
  (let queue (fr : Firing) : Nat := queueOfSel (columnOf fr.t) (fr.f.imm.toNat / 256 % 8)
   (∀ f s fr, (Instr.dtab f).wf = true → s.firingOf (.dtab f) = some fr → fr.any = true → f.imm.toNat.testBit 11 = true → 1 ≤ fr.a64 1 → fr.a64 1 ≤ 64 →
     (s.seqPermits (columnOf fr.t) (queue fr)).isSome = true → fr.a64 0 % 64 = 0 → s.standing fr.t (BitVec.ofNat 64 (fr.a64 2)) ≠ .malformed →
     s.standing fr.t (BitVec.ofNat 64 (fr.b64 0)) ≠ .malformed →
     ∃ t, exec (.dtab f) s = .next t ∧ SameRegisters (.dtab f) s t fr ∧ t.mem = s.mem ∧ (t.sequencer (columnOf fr.t)).table = (s.sequencer (columnOf fr.t)).table ++
       [{ entry := f.imm.toNat % 256, queue := queue fr, first := fr.a64 0, count := fr.a64 1, wit := BitVec.ofNat 64 (fr.a64 2),
          cond := .witness (BitVec.ofNat 64 (fr.b64 0)),
          ready := [Standing.satisfied, Standing.dropped].contains (s.standing (4608 + 4 * columnOf fr.t) (BitVec.ofNat 64 (fr.b64 0))) }]) ∧
   (∀ f s fr, let ps := (planLanes s fr.t ((rangePages (fr.b64 0) (fr.b64 1)).map fun va => { lane := 0xFFFF, va := va, nib := 0 })).1
     (Instr.dtab f).wf = true → s.firingOf (.dtab f) = some fr → fr.any = true → f.imm.toNat.testBit 11 = false → 1 ≤ fr.a64 1 → fr.a64 1 ≤ 64 →
     fr.b64 1 % 16 = 0 → fr.b64 1 ≤ 2 ^ 25 → (s.seqPermits (columnOf fr.t) (queue fr)).isSome = true → fr.a64 0 % 64 = 0 → fr.b64 0 % 16 = 0 →
     accessFault .z64 { r := true } feTier (s.standing fr.t (BitVec.ofNat 64 (fr.a64 2)) == .malformed) (BitVec.ofNat 64 (fr.a64 2)) ps = none →
     ∃ t, exec (.dtab f) s = .next t ∧ SameRegisters (.dtab f) s t fr ∧ t.mem = s.mem ∧ (t.sequencer (columnOf fr.t)).table = (s.sequencer (columnOf fr.t)).table ++
       [{ entry := f.imm.toNat % 256, queue := queue fr, first := fr.a64 0, count := fr.a64 1, wit := BitVec.ofNat 64 (fr.a64 2),
          cond := .full (rangeRuns (fr.b64 0) (fr.b64 1) ps),
          ready := (rangeRuns (fr.b64 0) (fr.b64 1) ps).all fun r => (List.range r.2).all fun k => s.mem.isFull (r.1 + k) }]) ∧
   (let range (fr : Firing) : Prop := fr.a64 1 < 1 ∨ 64 < fr.a64 1 ∨ (fr.f.imm.toNat.testBit 11 = false ∧ (fr.b64 1 % 16 ≠ 0 ∨ 2 ^ 25 < fr.b64 1))
    let owned (s : State) (fr : Firing) : Prop := (s.seqPermits (columnOf fr.t) (queue fr)).isSome = true
    let wit (fr : Firing) : W64 := BitVec.ofNat 64 (fr.a64 2)
    let awaited (fr : Firing) : W64 := BitVec.ofNat 64 (fr.b64 0)
    Halts .dtab true (fun _ fr => fr.any = true ∧ range fr) (fun _ _ => { cls := 10, cause := 2 }) ∧
    Halts .dtab true (fun s fr => fr.any = true ∧ ¬ range fr ∧ ¬ owned s fr) (fun _ _ => { cls := 10, cause := 1 }) ∧
    Halts .dtab true (fun s fr => fr.any = true ∧ ¬ range fr ∧ owned s fr ∧ fr.a64 0 % 64 ≠ 0)
      (fun _ fr => { cls := 3, cause := 1, address := fr.a64 0, witness := wit fr }) ∧
    Halts .dtab true (fun s fr => fr.any = true ∧ ¬ range fr ∧ owned s fr ∧ fr.a64 0 % 64 = 0 ∧ fr.f.imm.toNat.testBit 11 = false ∧ fr.b64 0 % 16 ≠ 0)
      (fun _ fr => { cls := 3, cause := 1, address := fr.b64 0, witness := wit fr }) ∧
    Halts .dtab true (fun s fr => fr.any = true ∧ ¬ range fr ∧ owned s fr ∧ fr.a64 0 % 64 = 0 ∧ fr.f.imm.toNat.testBit 11 = true ∧ s.standing fr.t (wit fr) = .malformed)
      (fun _ fr => { cls := 7, cause := 1, witness := wit fr }) ∧
    Halts .dtab true
      (fun s fr => fr.any = true ∧ ¬ range fr ∧ owned s fr ∧ fr.a64 0 % 64 = 0 ∧ fr.f.imm.toNat.testBit 11 = true ∧ s.standing fr.t (wit fr) ≠ .malformed ∧
        s.standing fr.t (awaited fr) = .malformed)
      (fun _ fr => { cls := 7, cause := 1, witness := awaited fr }) ∧
    ∀ fi, Halts .dtab true
      (fun s fr => fr.any = true ∧ ¬ range fr ∧ owned s fr ∧ fr.a64 0 % 64 = 0 ∧ fr.f.imm.toNat.testBit 11 = false ∧ fr.b64 0 % 16 = 0 ∧
        accessFault .z64 { r := true } feTier (s.standing fr.t (wit fr) == .malformed) (wit fr)
          (planLanes s fr.t ((rangePages (fr.b64 0) (fr.b64 1)).map fun va => { lane := 0xFFFF, va := va, nib := 0 })).1 = some fi)
      (fun _ _ => fi)) ∧
   (∀ f s fr, let q := queueOfSel (columnOf fr.t) (f.imm.toNat % 8)
     (Instr.sqit f).wf = true → s.firingOf (.sqit f) = some fr → fr.any = true → (s.seqPermits (columnOf fr.t) q).isSome = true →
     ∃ t, exec (.sqit f) s = .next t ∧ SameRegisters (.sqit f) s t fr ∧ t.mem = s.mem ∧ (t.sequencer (columnOf fr.t)).programs = (s.sequencer (columnOf fr.t)).programs ++
       [{ queue := q, template := fr.a.val, iters := f.imm.toNat / 8, next := 0, dest := s.tokenDest fr.t fr.c }]) ∧
   Halts .sqit true (fun s fr => fr.any = true ∧ s.seqPermits (columnOf fr.t) (queueOfSel (columnOf fr.t) (fr.f.imm.toNat % 8)) = none)
     (fun _ _ => { cls := 10, cause := 1 }) ∧
   (∀ mk ∈ [Instr.dtab, Instr.sqit], Completes mk (fun _ fr => fr.any = false) (fun s _ => s)))

/-- An engine takes the records of its queue one by one (R290, R295): an inline record at once, a record in memory by a read under the command's witness, whose
bytes are then the record; a pending witness is waited for, a misaligned address or a malformed witness ends the command with its status (R66, R292). The checks
of a record give the lowest status (R63-R65). A command that has ended writes its STATUS, if its record lies in memory, and then completes, or stops its queue
with a record (R67, R289, R294), and its permit goes back to the mirror of the owner, at most to 64 (R288). In what order several statuses of a record are found, and which of them are written
where, is the model's reading (log 46); so is when the status, the completion and the permit follow one another (log 47). -/
def Obligations.CommandsBeginAndEnd : Prop :=
  (∀ (s : State) q c rec', q < 272 → s.headCommand q = some c → c.record = none → c.run = none → c.source = .inline rec' →
    ∃ u, exec (.engineRecordRead q) s = .next u ∧ u.mem = s.mem ∧ u.tiles = s.tiles ∧ (u.cmdQueue q).commands = (s.cmdQueue q).commands.set 0
      { c with record := some rec', run := some { EngineRun.start rec' with status := recordStatus q true rec' } }) ∧
  (∀ (s : State) q c a w h, q < 272 → s.headCommand q = some c → c.record = none → c.run = none → c.source = .chain (some a) w h →
    (a % 64 ≠ 0 → Happens (.engineRecordRead q) (· = s) fun _ => s.setRun q { EngineRun.start 0 with status := some 3, bad := a }) ∧
    (a % 64 = 0 → s.standing (writerOfQueue q) w = .malformed → Happens (.engineRecordRead q) (· = s) fun _ => s.setRun q { EngineRun.start 0 with status := some 7 }) ∧
    (a % 64 = 0 → s.standing (writerOfQueue q) w = .pending → Happens (.engineRecordRead q) (· = s) fun _ => s.noteLift (writerOfQueue q) w) ∧
    (a % 64 = 0 → s.standing (writerOfQueue q) w = .satisfied ∨ s.standing (writerOfQueue q) w = .dropped →
      (∀ va ∈ granulesOf a 64, ∃ l, (enginePage s q va false false).1 = .ok l) →
      ∃ u, exec (.engineRecordRead q) s = .next u ∧ EngineReads s q false (EngineRun.start 0) [(a, 64)] u) ∧
    (a % 64 = 0 → s.standing (writerOfQueue q) w = .satisfied ∨ s.standing (writerOfQueue q) w = .dropped →
      ∀ before va after st, granulesOf a 64 = before ++ va :: after → (∀ v ∈ before, ∃ l, (enginePage s q v false false).1 = .ok l) →
        (enginePage s q va false false).1 = .error (st, va) →
        ∃ u, exec (.engineRecordRead q) s = .next u ∧ CommandEnds s q (EngineRun.start 0) st va u)) ∧
  (∀ (s : State) q c r id a src w h, q < 272 → s.headCommand q = some c → c.record = none → c.run = some r → c.source = .chain src w h → r.reading = some id →
    (s.engineBusy q = true → exec (.engineRecordRead q) s = .next s) ∧
    (s.engineBusy q = false → (s.accesses.find? fun a => a.id = id) = some a → a.poisonAt = none →
      let rec' : V512 := BitVec.ofNat 512 (passImage a)
      ∃ u, exec (.engineRecordRead q) s = .next u ∧ u.mem = s.mem ∧ u.tiles = s.tiles ∧ u.accesses = s.accesses.filter (fun a => a.id != id) ∧
        ∃ rest, (u.cmdQueue q).commands = { c with record := some rec', run := some { EngineRun.start rec' with status := recordStatus q false rec' } } :: rest ∧
          rest.length + 1 = (s.cmdQueue q).commands.length ∧
          ∀ d ds w', (s.cmdQueue q).commands = c :: d :: ds → d.source = .chain none w' h → rest = { d with source := .chain (some (recNext rec')) w' h } :: ds) ∧
    (∀ va, s.engineBusy q = false → (s.accesses.find? fun a => a.id = id) = some a → a.poisonAt = some va →
      ∃ u, exec (.engineRecordRead q) s = .next u ∧ CommandEnds { s with accesses := s.accesses.filter fun a => a.id != id } q r 6 va u)) ∧
  (∀ q inline rec', recordStatus q inline rec' =
    if badCmd q rec' then some 1 else if reservedSet inline rec' then some 2 else if unaligned inline rec' then some 3 else none) ∧
  (∀ q rec', recCmd rec' ≠ 2 → recCmd rec' ≠ 3 →
    (badCmd q rec' = false ↔ if q < 256 then 1 ≤ recCmd rec' ∧ recCmd rec' ≤ 5 else 0x11 ≤ recCmd rec' ∧ recCmd rec' ≤ 0x14)) ∧
  (∀ (s : State) q c r st, q < 272 → s.headCommand q = some c → c.run = some r → r.status = some st → s.engineBusy q = false →
    (∀ va, r.stored = false → c.statusAt = some va → (∀ g ∈ granulesOf va 2, ∃ l, (enginePage s q g true false).1 = .ok l) →
      ∃ u, exec (.engineCommandCompletion q) s = .next u ∧ EngineWrites s q c.number false { r with stored := true } va 2 st u) ∧
    (∀ va before g after e, r.stored = false → c.statusAt = some va → granulesOf va 2 = before ++ g :: after →
      (∀ v ∈ before, ∃ l, (enginePage s q v true false).1 = .ok l) → (enginePage s q g true false).1 = .error (e, g) →
      ∃ u, exec (.engineCommandCompletion q) s = .next u ∧ u.mem = s.mem ∧ u.accesses = s.accesses ∧ ∀ cs, (s.cmdQueue q).commands = c :: cs →
        (u.cmdQueue q).commands = { c with run := some { r with stored := true, status := some (if st = 0 then e else st), bad := if st = 0 then g else r.bad } } :: cs) ∧
    (r.stored = true ∨ c.statusAt = none →
    (st = 0 → ∃ u, exec (.engineCommandCompletion q) s = .next u ∧ u.mem = s.mem ∧ (u.cmdQueue q).done = c.number ∧ (u.cmdQueue q).status = 0 ∧
      (u.cmdQueue q).stopped = false ∧ (u.cmdQueue q).commands = (s.cmdQueue q).commands.tail ∧ u.records = s.records ∧
      (c.iter = none → (u.cmdQueue q).owed = (s.cmdQueue q).owed + 1)) ∧
    (st ≠ 0 → ∃ u x, exec (.engineCommandCompletion q) s = .next u ∧ u.mem = s.mem ∧ (u.cmdQueue q).stopped = true ∧ (u.cmdQueue q).status = st ∧
      (u.cmdQueue q).done = (s.cmdQueue q).done ∧ (u.cmdQueue q).commands.length = (s.cmdQueue q).commands.length ∧
      u.records = s.records ++ [x] ∧ x.source = writerOfQueue q ∧ x.cls = 10 ∧ x.cause = 3 ∧ x.halted = true ∧ x.address = r.bad))) ∧
  (∀ (s : State) q c r, q < 272 → s.headCommand q = some c → c.run = some r → r.status.isSome = true → s.engineBusy q = true →
    exec (.engineCommandCompletion q) s = .next s) ∧
  (∀ c : Command, c.statusAt = match c.source with
    | .chain (some a) _ _ => some ((a + 60) % 2 ^ 64)
    | _ => none) ∧
  (∀ (s : State) q, q < 272 → (∀ x ∈ s.seqs, x.2.tokens = []) → (s.cmdQueue q).seq = false → (s.cmdQueue q).attached = true → 0 < (s.cmdQueue q).owed →
    ∃ u, exec (.permitReturn q) s = .next u ∧ u.mem = s.mem ∧ (u.cmdQueue q).owed = (s.cmdQueue q).owed - 1 ∧
      ∀ c m, s.mirror? (s.cmdQueue q).owner c q = some m → u.mirror? (s.cmdQueue q).owner c q = some { m with permits := min 64 (m.permits + 1) }) ∧
  -- tokens of iteration programs
  (∀ (s : State) q col sq k t n, q < 272 → col < 64 → (s.cmdQueue q).owed = 0 → s.seqs = [(col, sq)] → sq.tokens = [k] → k.queue = q → k.permit = false →
    s.tokenPlace col k.dest = .to t → seqEndpoint (s.ctx t k.dest.ctx) = some n →
    (at8 (s.ctx t k.dest.ctx).ins n).length < 8 → (s.ctx t k.dest.ctx).held = false → (s.ctx t k.dest.ctx).run ≠ .retired →
    ∃ u b, exec (.permitReturn q) s = .next u ∧ u.mem = s.mem ∧ (u.sequencer col).tokens = [] ∧
      at8 (u.ctx t k.dest.ctx).ins n = at8 (s.ctx t k.dest.ctx).ins n ++ [b] ∧ b.mask = 0xFFFF ∧ b.tag = 0 ∧ b.vc = 0 ∧ b.poison = false ∧
      lane 64 b.payload 0 = (localWitness (writerOfQueue q) k.number).toNat ∧ lane 64 b.payload 1 = k.index % 2 ^ 64 ∧ lane 64 b.payload 2 = k.status % 2 ^ 64 ∧
      ∀ j, 3 ≤ j → j < 8 → lane 64 b.payload j = 0)

/-- The moves of the engines' commands (R292, R303-R309), each of a command at the head of its queue that has not ended and has no access in flight: copies,
reductions and fills block by block, the all-to-all, the replay of a graph, the digest, the comparison and the fence. What a move reads and writes, and the status
that a page or poison ends it with; what a block of a job writes: the block of A, or the elements of A and B combined one by one by the operation of the table
(R218, R304). The moves themselves, block by block, and with what a page or poison ends a command between them, are the model's reading (log 49, log 50). -/
def Obligations.EnginesMove : Prop :=
  -- copies, reductions, fills
  (MoveSpec .hawkCopy 1 (fun q s n r => jobCommand q false copyJob s n r) ∧
   MoveSpec .hawkReduce 2 (fun q s n r => jobCommand q false (fun r =>
     { copyJob r with op := some (recWord r.record 0 / 2 ^ 16 % 16, (Ty.ofCode (recWord r.record 0 / 2 ^ 20 % 16)).getD .none), b := .mem (recAux r.record) }) s n r) ∧
   MoveSpec .nearDramZero 0x11 (fun q s n r => jobCommand q true (fun r => { copyJob r with a := .val 0 }) s n r) ∧
   MoveSpec .nearDramCopy 0x12 (fun q s n r => jobCommand q true copyJob s n r) ∧
   (∀ (s : State) q near j n r, jobCommand q near j s n r = match r.job with
     | some k => s.jobMove q n near r k
     | none => if r.phase = 0 then s.setRun q { r with job := some (j r) } else s.endWith q r 0) ∧
   (∀ (s : State) q n near r (j : Job), let k := min 256 (j.len - j.pos)
     (j.len ≤ j.pos → s.jobMove q n near r j = s.setRun q { r with job := none, phase := j.next }) ∧
     (∀ id, j.pos < j.len → r.reading = some id → s.jobMove q n near r j = match s.takeRead id with
       | (.error st, s1) => s1.endAt q r st
       | (.ok x, s1) => s1.engineWrite q n near { r with reading := none, job := some { j with pos := j.pos + k } } ((j.dst + j.pos) % 2 ^ 64) k (j.out k x)) ∧
     (∀ va, j.pos < j.len → r.reading = none → j.a = .mem va → s.jobMove q n near r j = s.engineRead q near r [((va + j.pos) % 2 ^ 64, k), j.b.range j.pos k]) ∧
     (∀ x y, j.pos < j.len → r.reading = none → j.a = .val x → j.b = .val y → s.jobMove q n near r j =
       s.engineWrite q n near { r with reading := none, job := some { j with pos := j.pos + k } } ((j.dst + j.pos) % 2 ^ 64) k (j.out k 0)))) ∧
  -- the digest, the comparison, the fence
  (MoveSpec .hawkFingerprint 5 (fun q s n r =>
     if r.phase = 0 then s.gather q r (recSrc r.record) (recLen r.record) 16 1
     else if r.phase = 1 ∧ recLen r.record ≠ 0 then s.engineWrite q n false { r with phase := 2 } (recAux r.record) 32
       (shakeBytes ((List.range (recLen r.record)).map fun k => bits r.data (8 * k) 8) 32)
     else s.endWith q r 0) ∧
   MoveSpec .nearDramCompare 0x13 (fun q s n r =>
     if r.phase ≠ 0 then s.endWith q r 0
     else match r.reading with
       | some id => (match s.takeRead id with
         | (.error e, s1) => s1.endAt q r e
         | (.ok x, s1) => s1.setRun q { r with
             reading := none, pos := r.pos + 16,
             counts := if r.counts = [] then ((List.range 16).find? fun k => bits x (8 * k) 8 != bits x (2048 + 8 * k) 8).toList.map (· + r.pos) else r.counts })
       | none =>
         if r.pos < recLen r.record then
           s.engineRead q true r [((recSrc r.record + r.pos) % 2 ^ 64, 16), ((recDst r.record + r.pos) % 2 ^ 64, 16)]
         else s.engineWrite q n false { r with phase := 1 } (recAux r.record) 8 (match r.counts with
           | [] => recLen r.record + 2 ^ 63
           | k :: _ => k)) ∧
   MoveSpec .nearDramFence 0x14 (fun q s _ r =>
     if r.phase = 0 then s.setRun q { r with phase := 1, fence := (s.accesses.filter fun a => a.writer != writerOfQueue q && (a.pieces.any fun p => p.nearSector (q - 256)) &&
       (a.origin != .skim || s.standing a.writer a.given != .pending)).map (·.id) }
     else if s.accesses.any fun a => r.fence.contains a.id && a.pieces.any fun p => p.nearSector (q - 256) then s
     else s.endWith q r 0)) ∧
  -- the all-to-all
  (MoveSpec .hawkAllToAll 3 (fun q s n r => allToAllMove q s n r) ∧
   (∀ (s : State) q n r j, r.job = some j → allToAllMove q s n r = s.jobMove q n false r j) ∧
   (∀ (s : State) q n r, r.job = none →
     let p := recWord r.record 3 % 2 ^ 16
     let rank := recWord r.record 3 / 2 ^ 16 % 2 ^ 16
     let ks := List.range p
     let send (table k : Nat) : Nat := table / 2 ^ (64 * (p + k)) % 2 ^ 64
     let engine (table k : Nat) : Nat := table / 2 ^ (64 * k) % 2 ^ 8
     let place (table k : Nat) : Nat := table / 2 ^ (64 * k + 8) % 2 ^ 19
     let sum (xs : List Nat) (k : Nat) : Nat := ((List.range k).map fun i => xs.getD i 0).sum
     let others := ks.filter (· != rank)
     (r.phase = 0 → allToAllMove q s n r = s.gather q r (recAux r.record) (16 * p) 256 1) ∧
     (r.phase = 1 →
       let bad : Prop := (∃ k ∈ ks, r.data / 2 ^ (64 * k + 27) % 2 ^ 37 ≠ 0) ∨ engine r.data rank ≠ q ∨ place r.data rank ≠ s.moduleIndex
       (bad → allToAllMove q s n r = s.endWith q r 1) ∧
       (¬ bad → (∃ k ∈ ks, send r.data k % 16 ≠ 0) → allToAllMove q s n r = s.endWith q r 3) ∧
       (¬ bad → (∀ k ∈ ks, send r.data k % 16 = 0) →
         let u := allToAllMove q s n r
         let m (k : Nat) : PeerMsg := { module' := s.moduleIndex, engine := q, gen := recWord r.record 3 / 2 ^ 32 % 2 ^ 32, body := .count (send r.data k) }
         u.mem = s.mem ∧ u.tiles = s.tiles ∧ u.accesses = s.accesses ∧
         u.messages = s.messages ++ (others.filter fun k => place r.data k == s.moduleIndex).map (fun k => (engine r.data k, m k)) ∧
         u.peerOut = s.peerOut ++ (others.filter fun k => place r.data k != s.moduleIndex).map (fun k => (place r.data k, engine r.data k, m k)) ∧
         ∀ c cs, (s.cmdQueue q).commands = c :: cs →
           (u.cmdQueue q).commands = { c with run := some { r with table := r.data, data := 0, pos := 0, phase := 2 } } :: cs)) ∧
     (r.phase = 2 → (∃ k ∈ others, ∀ m ∈ (s.cmdQueue q).inbox, fromRank r k m = true → ∀ x, m.body ≠ .count x) → allToAllMove q s n r = s) ∧
     (r.phase = 2 → ∀ k m x, p = 2 → others = [k] → (s.cmdQueue q).inbox = [m] → fromRank r k m = true → m.body = .count x →
       let u := allToAllMove q s n r
       u.mem = s.mem ∧ (u.cmdQueue q).inbox = [] ∧ ∀ c cs, (s.cmdQueue q).commands = c :: cs →
         (u.cmdQueue q).commands = { c with run := some { r with phase := 3, counts := ks.map fun j => if j = rank then send r.table j else x } } :: cs) ∧
     (r.phase = 3 → allToAllMove q s n r = s.engineWrite q n false { r with phase := 4, step := 0 } ((recAux r.record + 16 * p) % 2 ^ 64) (16 * p)
       (packNat 64 (r.counts ++ (List.range r.counts.length).map (sum r.counts)))) ∧
     (r.phase = 4 →
       let x := send r.table r.step
       let src := (recSrc r.record + sum (ks.map (send r.table)) r.step) % 2 ^ 64
       (p ≤ r.step → allToAllMove q s n r = s.setRun q { r with phase := 5, step := 0 }) ∧
       (r.step < p → x = 0 → allToAllMove q s n r = s.setRun q { r with step := r.step + 1 }) ∧
       (r.step < p → x ≠ 0 → r.step = rank → allToAllMove q s n r = s.setRun q { r with
         step := r.step + 1,
         job := some { op := none, a := .mem src, b := .val 0, dst := (recDst r.record + sum r.counts r.step) % 2 ^ 64, len := x, pos := 0, next := 4 } }) ∧
       (r.step < p → x ≠ 0 → r.step ≠ rank → allToAllMove q s n r = s.gather q r src x 256 8)) ∧
     (r.phase = 8 → allToAllMove q s n r =
       (s.sendPeer q (place r.table r.step) (engine r.table r.step) (recWord r.record 3 / 2 ^ 32 % 2 ^ 32) (.block r.data)).setRun q
         { r with phase := 4, step := r.step + 1, data := 0, pos := 0 }) ∧
     (r.phase = 5 →
       let due := others.filter fun k => r.counts.getD k 0 != 0 && !r.fence.contains k
       (due = [] → allToAllMove q s n r = s.setRun q { r with phase := 6 }) ∧
       (due ≠ [] → (∀ m ∈ (s.cmdQueue q).inbox, ∀ k ∈ due, fromRank r k m = true → ∀ x, m.body ≠ .block x) → allToAllMove q s n r = s) ∧
       (∀ m rest k x, due = [k] → (s.cmdQueue q).inbox = m :: rest → fromRank r k m = true → m.body = .block x →
         let u := allToAllMove q s n r
         u.mem = s.mem ∧ (u.cmdQueue q).inbox = rest ∧ ∀ c cs, (s.cmdQueue q).commands = c :: cs → (u.cmdQueue q).commands = { c with run := some { r with
           fence := k :: r.fence, peer := k,
           job := some { op := none, a := .val x, b := .val 0, dst := (recDst r.record + sum r.counts k) % 2 ^ 64, len := r.counts.getD k 0, pos := 0, next := 7 } } } :: cs)) ∧
     (r.phase = 7 → allToAllMove q s n r =
       (s.sendPeer q (place r.table r.peer) (engine r.table r.peer) (recWord r.record 3 / 2 ^ 32 % 2 ^ 32) .written).setRun q { r with phase := 5 }) ∧
     (r.phase = 6 →
       ((∃ k ∈ others, send r.table k ≠ 0 ∧ ∀ m ∈ (s.cmdQueue q).inbox, fromRank r k m = true → m.body ≠ .written) → allToAllMove q s n r = s) ∧
       ((∀ k ∈ others, send r.table k = 0) → ∃ u : State, allToAllMove q s n r = u.endWith q r 0 ∧ { u with queues := s.queues } = s ∧ u.cmdQueue q = s.cmdQueue q) ∧
       (∀ k m rest, (others.filter fun k => send r.table k != 0) = [k] → (s.cmdQueue q).inbox = m :: rest → fromRank r k m = true → m.body = .written →
         let u := allToAllMove q s n r
         u.mem = s.mem ∧ (u.cmdQueue q).inbox = rest ∧ ∀ c cs, (s.cmdQueue q).commands = c :: cs →
           (u.cmdQueue q).commands = { c with run := some { r with status := some 0, reading := none, job := none } } :: cs)))) ∧
  -- the replay of a graph
  (MoveSpec .hawkCollectiveReplay 4 (fun q s n r => replayMove q s n r) ∧
   (∀ (s : State) q n r j, r.job = some j → replayMove q s n r = s.jobMove q n false r j) ∧
   (∀ (s : State) q n r, r.job = none →
     let gen := recWord r.record 3 % 2 ^ 32
     let x := r.item
     let src := (recSrc r.record + x / 2 ^ 64 % 2 ^ 64) % 2 ^ 64
     let dst := (recDst r.record + x / 2 ^ 128 % 2 ^ 64) % 2 ^ 64
     let len := x / 2 ^ 192 % 2 ^ 40
     let tag := x / 2 ^ 16 % 2 ^ 16
     let peer (m : PeerMsg) : Prop := m.gen = gen ∧ m.engine = x / 2 ^ 32 % 2 ^ 8 ∧ m.module' = x / 2 ^ 40 % 2 ^ 19
     let op : Nat × Ty := (x / 2 ^ 4 % 16, (Ty.ofCode (x / 2 ^ 8 % 16)).getD .none)
     let go (k : EngineRun) (u : State) : Prop := u.mem = s.mem ∧ u.tiles = s.tiles ∧ ∀ c cs, (s.cmdQueue q).commands = c :: cs →
       (u.cmdQueue q).commands = { c with run := some k } :: cs
     (r.phase = 0 → replayMove q s n r = s.gather q r (recAux r.record) 64 64 7) ∧
     (r.phase = 7 →
       (r.data / 2 ^ 16 % 2 ^ 48 ≠ 0 ∨ r.data / 2 ^ 192 % 2 ^ 320 ≠ 0 → replayMove q s n r = s.endWith q r 2) ∧
       (r.data / 2 ^ 16 % 2 ^ 48 = 0 → r.data / 2 ^ 192 % 2 ^ 320 = 0 → r.data % 2 ^ 16 < 1 ∨ 4096 < r.data % 2 ^ 16 → replayMove q s n r = s.endWith q r 3) ∧
       (r.data / 2 ^ 16 % 2 ^ 48 = 0 → r.data / 2 ^ 192 % 2 ^ 320 = 0 → 1 ≤ r.data % 2 ^ 16 → r.data % 2 ^ 16 ≤ 4096 →
         replayMove q s n r = s.setRun q { r with table := r.data, data := 0, pos := 0, phase := 1, step := 0 })) ∧
     (r.phase = 1 → r.table % 2 ^ 16 ≤ r.step → replayMove q s n r = s.endWith q r 0) ∧
     (r.phase = 1 → r.step < r.table % 2 ^ 16 → replayMove q s n r = s.gather q r ((recAux r.record + 64 + 32 * r.step) % 2 ^ 64) 32 32 8) ∧
     (r.phase = 8 → replayMove q s n r = s.setRun q { r with item := r.data, data := 0, pos := 0, phase := 2 }) ∧
     (r.phase = 2 → ∀ st, stepStatus r.table x = some st → replayMove q s n r = s.endWith q r st) ∧
     (r.phase = 2 → stepStatus r.table x = none →
       (x % 16 = 1 → replayMove q s n r = s.setRun q { r with job := some { op := none, a := .mem src, b := .val 0, dst := dst, len := len, pos := 0, next := 6 } }) ∧
       (x % 16 = 2 → replayMove q s n r = s.setRun q { r with job := some { op := some op, a := .mem dst, b := .mem src, dst := dst, len := len, pos := 0, next := 6 } }) ∧
       (x % 16 = 3 → (∀ m ∈ (s.cmdQueue q).inbox, peer m → m.body ≠ .ready tag) → replayMove q s n r = s) ∧
       (∀ m rest, x % 16 = 3 → (s.cmdQueue q).inbox = m :: rest → peer m → m.body = .ready tag →
         go { r with phase := 3 } (replayMove q s n r) ∧ ((replayMove q s n r).cmdQueue q).inbox = rest) ∧
       (4 ≤ x % 16 → replayMove q s n r =
         (s.sendPeer q (x / 2 ^ 40 % 2 ^ 19) (x / 2 ^ 32 % 2 ^ 8) gen (.ready tag)).setRun q { r with phase := 5 })) ∧
     (r.phase = 3 → replayMove q s n r = s.gather q r src len 256 4) ∧
     (r.phase = 4 → replayMove q s n r = (s.sendPeer q (x / 2 ^ 40 % 2 ^ 19) (x / 2 ^ 32 % 2 ^ 8) gen (.chunk tag len r.data)).setRun q
       { r with phase := 1, step := r.step + 1, data := 0, pos := 0, item := 0 }) ∧
     (r.phase = 5 → (∀ m ∈ (s.cmdQueue q).inbox, peer m → ∀ k y, m.body ≠ .chunk tag k y) → replayMove q s n r = s) ∧
     (∀ m rest k y, r.phase = 5 → (s.cmdQueue q).inbox = m :: rest → peer m → m.body = .chunk tag k y →
       ((replayMove q s n r).cmdQueue q).inbox = rest ∧
       (k ≠ len → go { r with status := some 3, reading := none, job := none } (replayMove q s n r)) ∧
       (k = len → x % 16 ≠ 5 → go { r with job := some { op := none, a := .val y, b := .val y, dst := dst, len := len, pos := 0, next := 6 } } (replayMove q s n r)) ∧
       (k = len → x % 16 = 5 → go { r with job := some { op := some op, a := .mem dst, b := .val y, dst := dst, len := len, pos := 0, next := 6 } } (replayMove q s n r))) ∧
     (r.phase = 6 → replayMove q s n r = s.setRun q { r with phase := 1, step := r.step + 1, data := 0, pos := 0, item := 0 })) ∧
   (∀ h x, let kind := x % 16
     (stepStatus h x = some 1 ↔ kind = 0 ∨ 5 < kind ∨ ((kind = 2 ∨ kind = 5) ∧ ∀ ty, Ty.ofCode (x / 2 ^ 8 % 16) = some ty → reducePair (x / 2 ^ 4 % 16) ty = false)) ∧
     (stepStatus h x = none → x / 2 ^ 64 % 16 = 0 ∧ x / 2 ^ 128 % 16 = 0 ∧ x / 2 ^ 192 % 16 = 0 ∧
       (kind ≤ 3 → x / 2 ^ 64 % 2 ^ 64 < h / 2 ^ 64 % 2 ^ 64 ∧ x / 2 ^ 64 % 2 ^ 64 + x / 2 ^ 192 % 2 ^ 40 ≤ h / 2 ^ 64 % 2 ^ 64) ∧
       (kind ≠ 3 → x / 2 ^ 128 % 2 ^ 64 < h / 2 ^ 128 % 2 ^ 64 ∧ x / 2 ^ 128 % 2 ^ 64 + x / 2 ^ 192 % 2 ^ 40 ≤ h / 2 ^ 128 % 2 ^ 64)))) ∧
  -- messages
  ((∀ (s : State) q m, q < 256 → m.module' ≠ s.moduleIndex →
     ∃ u, exec (.enginePeerMessage q (some m)) s = .next u ∧ u.mem = s.mem ∧ (u.cmdQueue q).inbox = (s.cmdQueue q).inbox ++ [m] ∧ u.messages = s.messages) ∧
   (∀ (s : State) q m rest, q < 256 → s.messages = (q, m) :: rest →
     ∃ u, exec (.enginePeerMessage q none) s = .next u ∧ u.mem = s.mem ∧ (u.cmdQueue q).inbox = (s.cmdQueue q).inbox ++ [m] ∧ u.messages = rest) ∧
   (∀ (s : State) q, q < 256 → (∀ x ∈ s.messages, x.1 ≠ q) → exec (.enginePeerMessage q none) s = .next s) ∧
   (∀ (s : State) q index e gen body, let m : PeerMsg := { module' := s.moduleIndex, engine := q, gen := gen, body := body }
     s.sendPeer q index e gen body = if index = s.moduleIndex then { s with messages := s.messages ++ [(e, m)] } else { s with peerOut := s.peerOut ++ [(index, e, m)] })) ∧
  -- what a move reads and writes
  ((∀ (s : State) q near r ranges, (∀ x ∈ ranges, ∀ va ∈ granulesOf x.1 x.2, ∃ l, (enginePage s q va false near).1 = .ok l) →
      EngineReads s q near r ranges (s.engineRead q near r ranges)) ∧
   (∀ (s : State) q near r ranges before va after st, (ranges.flatMap fun x => granulesOf x.1 x.2) = before ++ va :: after →
      (∀ v ∈ before, ∃ l, (enginePage s q v false near).1 = .ok l) → (enginePage s q va false near).1 = .error (st, va) →
      CommandEnds s q r st va (s.engineRead q near r ranges)) ∧
   (∀ (s : State) q n near r va len data, (∀ g ∈ granulesOf va len, ∃ l, (enginePage s q g true near).1 = .ok l) →
      EngineWrites s q n near r va len data (s.engineWrite q n near r va len data)) ∧
   (∀ (s : State) q n near r va len data before g after st, granulesOf va len = before ++ g :: after → (∀ v ∈ before, ∃ l, (enginePage s q v true near).1 = .ok l) →
      (enginePage s q g true near).1 = .error (st, g) → CommandEnds s q r st g (s.engineWrite q n near r va len data)) ∧
   (∀ (s : State) q va write near,
      match (translate s (cacheOfQueue q) ((s.queueDomain q).getD 0) (s.cmdQueue q).asid va).1 with
      | .fault _ => (enginePage s q va write near).1 = .error (4, va)
      | .poison _ => (enginePage s q va write near).1 = .error (6, va)
      | .leaf l =>
        let outside : Prop := near = true ∧ ¬ (l.tier = 2 ∧ l.pa va / 2 ^ 33 % 16 = q - 256)
        let denied : Prop := l.e = false ∨ (write = true ∧ l.w = false) ∨ (write = false ∧ l.r = false) ∨ l.tier = 8 ∨ l.tier = 9
        (outside → (enginePage s q va write near).1 = .error (4, va)) ∧ (¬ outside → denied → (enginePage s q va write near).1 = .error (5, va)) ∧
        (¬ outside → ¬ denied → (enginePage s q va write near).1 = .ok l)) ∧
   (∀ (s : State) id a, (s.accesses.find? fun a => a.id = id) = some a → (s.takeRead id).2 = { s with accesses := s.accesses.filter fun a => a.id != id } ∧
      (a.poisonAt = none → (s.takeRead id).1 = .ok (passImage a)) ∧ (∀ va, a.poisonAt = some va → (s.takeRead id).1 = .error (6, va))) ∧
   (∀ (s : State) q r va len n next, let k := min n (len - r.pos)
      (k = 0 → r.reading = none → s.gather q r va len n next = s.setRun q { r with phase := next }) ∧
      (k ≠ 0 → r.reading = none → s.gather q r va len n next = s.engineRead q false r [((va + r.pos) % 2 ^ 64, k)]) ∧
      (∀ id, r.reading = some id → s.gather q r va len n next = match s.takeRead id with
        | (.error st, s1) => s1.endAt q r st
        | (.ok x, s1) => s1.setRun q { r with reading := none, data := r.data + x % 2 ^ (8 * k) * 2 ^ (8 * r.pos), pos := r.pos + k }))) ∧
  -- what a block writes
  ((∀ (j : Job) n read, j.op = none → (∃ va, j.a = .mem va) → n ≤ 256 → j.out n read = read % 2 ^ (8 * n)) ∧
   (∀ (j : Job) n x read, j.op = none → j.a = .val x → j.out n read = x / 2 ^ (8 * j.pos) % 2 ^ (8 * n)) ∧
   (∀ (j : Job) n read op ty a, j.op = some (op, ty) → j.a = .mem a → j.out n read = reduceBytes op ty n (read % 2 ^ 2048) (match j.b with
     | .mem _ => read / 2 ^ 2048
     | .val y => y / 2 ^ (8 * j.pos) % 2 ^ (8 * n))) ∧
   (∀ op ty n a b k, (ty = .s32 ∨ ty = .z32 ∨ ty = .s64 ∨ ty = .z64 ∨ ty = .f32 ∨ ty = .bf16 ∨ ty = .f16) → k < 8 * n / ty.width →
     reduceBytes op ty n a b / 2 ^ (ty.width * k) % 2 ^ ty.width =
       reduceElement op ty (a / 2 ^ (ty.width * k) % 2 ^ ty.width) (b / 2 ^ (ty.width * k) % 2 ^ ty.width) % 2 ^ ty.width) ∧
   (∀ ty ∈ [Ty.s32, Ty.z32, Ty.s64, Ty.z64], ∀ a b, a < 2 ^ ty.width → b < 2 ^ ty.width →
     reduceElement 1 ty a b = (a + b) % 2 ^ ty.width ∧ reduceElement 4 ty a b = a &&& b ∧ reduceElement 5 ty a b = a ||| b ∧ reduceElement 6 ty a b = a ^^^ b ∧
     intOf ty.signed ty.width (reduceElement 2 ty a b) = min (intOf ty.signed ty.width a) (intOf ty.signed ty.width b) ∧
     intOf ty.signed ty.width (reduceElement 3 ty a b) = max (intOf ty.signed ty.width a) (intOf ty.signed ty.width b)) ∧
   (∀ ty ∈ [Ty.f32, Ty.bf16, Ty.f16], ∀ a b, reduceElement 1 ty a b = ((Fmt.ofTy ty).add a b).bits ∧
     reduceElement 2 ty a b = ((Fmt.ofTy ty).minmax false a b).bits ∧ reduceElement 3 ty a b = ((Fmt.ofTy ty).minmax true a b).bits) ∧
   (∀ op, ∀ ty, reducePair op ty = true ↔
     (op = 7 ∧ ty = .z64) ∨ (1 ≤ op ∧ op ≤ 3 ∧ ty ∈ [Ty.f32, .bf16, .f16, .s32, .z32, .s64, .z64]) ∨ (4 ≤ op ∧ op ≤ 6 ∧ ty ∈ [Ty.s32, .z32, .s64, .z64])) ∧
   (∀ x y, reduceElement 7 .z64 x y = gumbelPair x y) ∧
   (∀ x y, pairBelow (pairValue y) (pairValue x) = true → gumbelPair x y = pairValue x + x / 2 ^ 32 % 2 ^ 32 * 2 ^ 32) ∧
   (∀ x y, pairBelow (pairValue x) (pairValue y) = true → gumbelPair x y = pairValue y + y / 2 ^ 32 % 2 ^ 32 * 2 ^ 32) ∧
   (∀ x y, pairBelow (pairValue x) (pairValue y) = false → pairBelow (pairValue y) (pairValue x) = false →
     gumbelPair x y / 2 ^ 32 % 2 ^ 32 = min (x / 2 ^ 32 % 2 ^ 32) (y / 2 ^ 32 % 2 ^ 32)))

/-- The column sequencer (R300, R301): an entry whose condition has held is ready, and of the ready entries of a queue the one of the lowest number is appended as
a chain when the permits allow, and leaves the table; a program appends its next command, with its addresses moved by its strides, until it has appended the
last. Otherwise nothing is appended. When an entry's condition has held, and the choice between ready entries and programs, is the model's reading (log 48). -/
def Obligations.SequencerAppends : Prop :=
  (∀ (s : State) col (e : TableEntry), col < 64 → s.phase = 8 → ((s.sequencer col).table.find? fun x => x.entry == e.entry) = some e →
    let ready (x : TableEntry) : Prop := x.ready = true ∨ s.entryReady col x = true
    let lowest : Prop := ∀ x ∈ (s.sequencer col).table, x.queue = e.queue → x.entry < e.entry → ¬ ready x
    let room : Prop := ∃ n, s.seqPermits col e.queue = some n ∧ e.count ≤ n
    (ready e → lowest → room →
      ∃ u, exec (.dependencyEntryAppend col e.entry) s = .next u ∧ u.mem = s.mem ∧ u.tiles = s.tiles ∧
        (u.sequencer col).table = (s.sequencer col).table.filter (fun x => x.entry != e.entry) ∧ u.tail e.queue = s.tail e.queue + e.count ∧
        (u.sequencer col).mirrors = (s.sequencer col).mirrors.map (fun m => if m.1 = e.queue then (m.1, m.2.1 + e.count, m.2.2 - e.count) else m) ∧
        (u.cmdQueue e.queue).commands = (s.cmdQueue e.queue).commands ++ (List.range e.count).map fun k =>
          { number := s.tail e.queue + 1 + k, source := .chain (if k = 0 then some e.first else none) e.wit (s.tail e.queue + 1), iter := none, record := none,
            run := none, told := false }) ∧
    (ready e → ¬ lowest ∨ ¬ room →
      ∃ u, exec (.dependencyEntryAppend col e.entry) s = .next u ∧ u.mem = s.mem ∧ u.tiles = s.tiles ∧ u.queues = s.queues ∧
        (u.sequencer col).table = (s.sequencer col).table.map fun x => { x with ready := x.ready || s.entryReady col x }) ∧
    (¬ ready e → ∃ u, exec (.dependencyEntryAppend col e.entry) s = .next u ∧ u.mem = s.mem ∧ u.tiles = s.tiles ∧ u.queues = s.queues ∧ u.seqs = s.seqs)) ∧
  (∀ (s : State) col e, (∀ runs, e.cond = .full runs →
      (s.entryReady col e = true ↔ ∀ r ∈ runs, ∀ k, k < r.2 → s.mem.isFull (r.1 + k) = true)) ∧
    (∀ w, e.cond = .witness w → (s.entryReady col e = true ↔ s.standing (4608 + 4 * col) w = .satisfied ∨ s.standing (4608 + 4 * col) w = .dropped))) ∧
  (∀ (s : State) col q p n, col < 64 → q < 272 → s.phase = 8 → ((s.sequencer col).programs.find? fun p => p.queue == q) = some p → s.seqPermits col q = some (n + 1) →
    s.programStopped q = false →
    ∃ u c rec', exec (.sequencerIterationAppend col q) s = .next u ∧ u.mem = s.mem ∧ u.tiles = s.tiles ∧ (u.cmdQueue q).commands = (s.cmdQueue q).commands ++ [c] ∧
      c.number = s.tail q + 1 ∧ c.source = .inline rec' ∧ c.iter = some { index := p.next, dest := p.dest, col := col, gen := (s.cmdQueue q).gen } ∧
      (∀ j, j = 0 ∨ j = 3 ∨ j = 4 ∨ j = 5 → recWord rec' j = recWord p.template j) ∧
      (recWord rec' 1 : Int) = (recWord p.template 1 + p.next * intOf true 32 (recWord p.template 6 % 2 ^ 32)) % 2 ^ 64 ∧
      (recWord rec' 2 : Int) = (recWord p.template 2 + p.next * intOf true 32 (recWord p.template 6 / 2 ^ 32)) % 2 ^ 64 ∧
      recWord rec' 6 = 0 ∧ recWord rec' 7 = p.next % 2 ^ 32 + recWord p.template 7 / 2 ^ 32 * 2 ^ 32 ∧
      (u.sequencer col).mirrors = (s.sequencer col).mirrors.map (fun m => if m.1 = q then (m.1, m.2.1 + 1, m.2.2 - 1) else m) ∧
      (p.next + 1 < p.iters → ((u.sequencer col).programs.find? fun p => p.queue == q) = some { p with next := p.next + 1 }) ∧
      (p.iters ≤ p.next + 1 → ((u.sequencer col).programs.find? fun p => p.queue == q) = none)) ∧
  (∀ (s : State) col q, col < 64 → q < 272 → (s.seqPermits col q = none ∨ s.seqPermits col q = some 0 ∨ s.programStopped q = true ∨
      ((s.sequencer col).programs.find? fun p => p.queue == q) = none) → exec (.sequencerIterationAppend col q) s = .next s)

/-- A store to QUEUE_CTL by a privileged lath context of the queue's domain does what its bits ask: it attaches the queue to its owner with TAIL and PERMITS
as they stand, detaches it, has the stopped command performed again, or skips it with the records of its chain that are not known; any other store, and one that
asks for both RETRY and SKIP, is discarded (R287, R288, R294). -/
def Obligations.QueueControl : Prop :=
  (∀ p ∈ [(Instr.queueCtlAttach, QueueAsk.attach), (Instr.queueCtlDetach, .detach), (Instr.queueCtlRetry, .retry), (Instr.queueCtlSkip, .skip)],
    ∀ (s : State) src q v, q < 272 → (queueAsk v.toNat ≠ p.2 ∨ s.fromLath src (s.queueDomain q) = false) → exec (p.1 src q v) s = .next s) ∧
  (∀ v, (queueAsk v = .retry ↔ v.testBit 19 = true ∧ v.testBit 20 = false) ∧ (queueAsk v = .skip ↔ v.testBit 19 = false ∧ v.testBit 20 = true) ∧
    (queueAsk v = .attach ↔ v.testBit 19 = false ∧ v.testBit 20 = false ∧ v.testBit 17 = true) ∧
    (queueAsk v = .detach ↔ v.testBit 19 = false ∧ v.testBit 20 = false ∧ v.testBit 17 = false)) ∧
  (∀ (s : State) src q (v : BitVec 64), q < 272 → s.fromLath src (s.queueDomain q) = true →
    let x := s.cmdQueue q
    let frame (u : State) : Prop := u.mem = s.mem ∧ u.accesses = s.accesses ∧ u.tail q = s.tail q ∧ ∀ k, k ≠ q → u.cmdQueue k = s.cmdQueue k
    (queueAsk v.toNat = .detach → ∃ u, exec (.queueCtlDetach src q v) s = .next u ∧ frame u ∧ u.cmdQueue q = { x with attached := false } ∧
      (x.attached = false → u.tiles = s.tiles ∧ u.seqs = s.seqs) ∧
      (x.attached = true → x.seq = false → u.seqs = s.seqs ∧ u.tile x.owner = { s.tile x.owner with mirrors := (s.tile x.owner).mirrors.filter fun m => m.queue != q } ∧
        ∀ k, k ≠ x.owner → u.tile k = s.tile k) ∧
      (x.attached = true → x.seq = true → u.tiles = s.tiles ∧ (u.sequencer x.owner).mirrors = (s.sequencer x.owner).mirrors.filter fun m => m.1 != q)) ∧
    (queueAsk v.toNat = .retry →
      (∀ c cs, x.stopped = true → x.commands = c :: cs → ∃ u, exec (.queueCtlRetry src q v) s = .next u ∧ frame u ∧ u.tiles = s.tiles ∧
        u.cmdQueue q = { x with stopped := false, commands := { c with run := none } :: cs }) ∧
      (x.stopped = false → exec (.queueCtlRetry src q v) s = .next s)) ∧
    (queueAsk v.toNat = .skip →
      (∀ c cs ds es, x.stopped = true → x.commands = c :: cs → cs = ds ++ es → ds.length ≤ 64 →
        (match c.source with
         | .inline _ => ds = []
         | .chain _ _ h => (∀ d ∈ ds, ∃ w, d.source = .chain none w h) ∧ ∀ e ∈ es.head?, ∀ w, e.source ≠ .chain none w h) →
        ∃ u, exec (.queueCtlSkip src q v) s = .next u ∧ u.mem = s.mem ∧ u.accesses = s.accesses ∧ (u.cmdQueue q).commands = es ∧ (u.cmdQueue q).stopped = false ∧
          (u.cmdQueue q).status = x.status ∧ (u.cmdQueue q).done = ((c :: ds).getLast (by simp)).number ∧
          ((∀ d ∈ c :: ds, d.iter = none) → (u.cmdQueue q).owed = x.owed + 1 + ds.length)) ∧
      (x.stopped = false → exec (.queueCtlSkip src q v) s = .next s)) ∧
    (queueAsk v.toNat = .attach →
      let owner := v.toNat % 2 ^ 13
      let col := v.toNat % 2 ^ 6
      let may : Prop := owner < s.tileCount ∧ s.tileDomain owner = s.queueDomain q ∧ (s.tile owner).mirrors.length < 8
      (v.toNat.testBit 16 = false → x.attached = false → may → ∃ u, exec (.queueCtlAttach src q v) s = .next u ∧ frame u ∧ u.seqs = s.seqs ∧
        u.cmdQueue q = { x with attached := true, seq := false, owner := owner, ctx := v.toNat / 2 ^ 13 % 8, asid := v.toNat / 2 ^ 32 % 2 ^ 16, owed := 0, gen := x.gen + 1 } ∧
        u.tile owner = { s.tile owner with
          mirrors := (s.tile owner).mirrors ++ [{ queue := q, tail := s.tail q, permits := 64 - (s.tail q - x.done), ctx := v.toNat / 2 ^ 13 % 8 }] } ∧
        ∀ k, k ≠ owner → u.tile k = s.tile k) ∧
      (v.toNat.testBit 16 = false → x.attached = false → ¬ may →
        ∃ u, exec (.queueCtlAttach src q v) s = .next u ∧ frame u ∧ u.tiles = s.tiles ∧ u.seqs = s.seqs ∧ (u.cmdQueue q).attached = false) ∧
      (v.toNat.testBit 16 = true → x.attached = false → ∃ u, exec (.queueCtlAttach src q v) s = .next u ∧ frame u ∧ u.tiles = s.tiles ∧
        u.cmdQueue q = { x with attached := true, seq := true, owner := col, ctx := 0, asid := v.toNat / 2 ^ 32 % 2 ^ 16, owed := 0, gen := x.gen + 1 } ∧
        (u.sequencer col).mirrors = (s.sequencer col).mirrors ++ [(q, s.tail q, 64 - (s.tail q - x.done))]) ∧
      (x.attached = true → ∃ u w, exec (.queueCtlAttach src q v) s = .next u ∧ frame u ∧ exec (.queueCtlDetach src q 0) s = .next w ∧
        exec (.queueCtlAttach src q v) w = .next u)))

/-! ### Stencil engines (0x70) -/

/-- A stencil instruction sends its command (R427): with no lane of E it sends nothing (R45); a reserved bit of its selector or a column outside the domain
halts it with cause RANGE, a misaligned address with cause ALIGN; otherwise the command is on its way to its column with the operands read, and but for GINI
the destination waits for it. -/
def Obligations.StencilCommandsSent : Prop :=
  let badSelector (s : State) (fr : Firing) : Prop :=
    fr.a64 0 / 2 ^ 16 ≠ 0 ∨ s.domainOf (sectorOfColumn (fr.a64 0 / 2 ^ 6 % 64)) ≠ s.tileDomain fr.t
  let address (sub : Nat) (fr : Firing) : Nat := if sub = 0 then fr.a64 2 else if sub = 2 ∨ sub = 6 ∨ sub = 7 then fr.b64 0 else 0
  ∀ p ∈ [(Instr.gini, 0), (Instr.gadv, 1), (Instr.gmsk, 2), (Instr.gfrk, 3), (Instr.gcmt, 4), (Instr.grbk, 5), (Instr.gsav, 6), (Instr.grst, 7), (Instr.gsta, 8)],
    LaneSpecOn p.1 (fun _ fr => fr.any = false) (fun s _ => s) Firing.as64 (fun _ _ _ => 0) (fun _ _ _ => false) (fun _ _ _ => 0) ∧
    Halts p.1 true (fun s fr => fr.any = true ∧ badSelector s fr)
      (fun _ fr => { cls := 11, cause := 11, detail := BitVec.ofNat 128 (fr.a64 0 % 64 + fr.a64 0 / 64 % 64 * 2 ^ 8) }) ∧
    Halts p.1 true (fun s fr => fr.any = true ∧ ¬ badSelector s fr ∧ address p.2 fr % 64 ≠ 0) (fun _ fr => { cls := 3, cause := 1, address := address p.2 fr }) ∧
    ∀ f s fr, (p.1 f).wf = true → s.firingOf (p.1 f) = some fr → fr.any = true → ¬ badSelector s fr → address p.2 fr % 64 = 0 →
      ∃ t, exec (p.1 f) s = .next t ∧ SameRegisters (p.1 f) s t fr ∧ t.mem = s.mem ∧ t.stencils = s.stencils ∧ (∀ k, k ≠ fr.t → t.tile k = s.tile k) ∧
        t.stencilCmds = s.stencilCmds ++
          [{ id := s.nextAccess, column := fr.a64 0 / 2 ^ 6 % 64, sub := p.2, a := fr.a.val, b := fr.b.val, e := fr.e,
             tile := fr.t, ctx := fr.c, slot := fr.slot, asid := (s.tile fr.t).asid, number := none }] ∧
        (p.2 = 0 → t.outstanding = s.outstanding) ∧ (p.2 ≠ 0 → AwaitEffect (p.1 f) s fr t)

/-- A command arrives in the firing order of its element and takes the engine's next store number (R428); it is begun when every earlier command of its
grammar context has completed, its witness is not pending and fewer than four others are begun, then performed, and it completes once its writes have been
performed. Then its witness and status reach its
destination; the statuses of faults send a record, BAD_IMAGE and BAD_ENTRY make the context FAULTED (R429). An operand out of range gives RANGE, then a malformed
witness its status, then a context or a node that is not ready NOT_READY. GINI and GRST verify the image and make the context ready, GADV moves its node or marks
it DEAD, GMSK and GSAV write, GFRK copies, GCMT moves the path into the history, GRBK returns, GSTA reports (R430-R437). A store to STENCIL_CTL lays out the stack
pool while every context of the engine is FREE (R418). That a command arrives, begins, is performed and completes at separate moves, that a GINI which fails leaves
its context FREE, what GMSK counts as walked, and that GSTA keeps LAST_STATUS, is the model's reading (log 52). -/
def Obligations.StencilCommandsPerformed : Prop :=
  let reports (st : Nat) : Prop := st ∈ [4, 5, 6, 7, 8, 9, 10, 13]
  let completes (c : StencilCmd) (n : Nat) (b u : State) (st bad : Nat) (lanes : List Nat) : Prop :=
    let w := localWitness (4864 + c.column) n
    u.mem = b.mem ∧ u.stencilCmds = b.stencilCmds.filter (fun x => x.id != c.id) ∧
    (reports st → ∃ r, u.records = b.records ++ [r] ∧ r.source = 4864 + c.column ∧ r.cls = 11 ∧ r.cause = st ∧ r.halted = false ∧ r.address = bad ∧
      r.witness = BitVec.ofNat 64 (lane 64 c.a 1)) ∧
    (¬ reports st → u.records = b.records) ∧
    (c.sub ≠ 8 → u.grammarOf c = { b.grammarOf c with lastStatus := st, cstate := if st = 6 ∨ st = 7 then .faulted else (b.grammarOf c).cstate }) ∧
    (c.sub = 8 → u.grammarOf c = b.grammarOf c) ∧
    (∀ x k, (b.outstanding.find? fun x => x.id = c.id) = some x → x.w = 64 → x.n = 8 → x.dst = .d k → x.predOp = .none →
      let vals := if c.sub = 8 ∧ st = 0 then w.toNat :: gstaLanes (b.grammarOf c) c.node else w.toNat :: st :: lanes
      ∀ j, j < 8 → lane 64 (at8 (u.ctx x.tile x.ctx).d k.val) j =
        if x.e.getLsbD (2 * j) then vals.getD j 0 % 2 ^ 64 else lane 64 (at8 (b.ctx x.tile x.ctx).d k.val) j)
  -- arrival, order, completion
  (∀ (s : State) col id c, col < 64 → (s.stencilCmds.find? fun c => c.column = col ∧ c.id = id) = some c → c.number = none →
    let first : Prop := ∀ x ∈ s.stencilCmds, x.column = col → x.tile = c.tile → x.number = none → c.id ≤ x.id
    (first → ∃ u, exec (.stencilCommandCompletion col id) s = .next u ∧ u.mem = s.mem ∧ u.tiles = s.tiles ∧
      (u.writer (4864 + col)).issued = (s.writer (4864 + col)).issued + 1 ∧
      u.stencilCmds = s.stencilCmds.map fun x => if x.id = id then { x with number := some ((s.writer (4864 + col)).issued + 1) } else x) ∧
    (¬ first → exec (.stencilCommandCompletion col id) s = .next s)) ∧
  (∀ (s : State) col id c n, col < 64 → s.phase = 8 → (s.stencilCmds.find? fun c => c.column = col ∧ c.id = id) = some c → c.number = some n →
    let mayGo : Prop := (∀ x ∈ s.stencilCmds, ∀ m, x.column = col → x.context = c.context → x.number = some m → n ≤ m) ∧
      ∀ a ∈ s.accesses, a.origin = .stencil col c.context → a.pieces = []
    let wit : W64 := BitVec.ofNat 64 (lane 64 c.a 1)
    let o := performStencil (s.countReads c) c
    let full : Prop := 4 ≤ (s.stencilCmds.filter fun x => x.column == col && x.startedNs.isSome).length
    (¬ mayGo → exec (.stencilCommandCompletion col id) s = .next s) ∧
    (mayGo → c.result = none → c.startedNs = none → s.standing (4864 + col) wit = .pending →
      exec (.stencilCommandCompletion col id) s = .next (s.noteLift (4864 + col) wit)) ∧
    (mayGo → c.result = none → c.startedNs = none → s.standing (4864 + col) wit ≠ .pending → full → exec (.stencilCommandCompletion col id) s = .next s) ∧
    (mayGo → c.result = none → c.startedNs = none → s.standing (4864 + col) wit ≠ .pending → ¬ full → exec (.stencilCommandCompletion col id) s =
      .next { s with stencilCmds := s.stencilCmds.map fun x => if x.id = id then { x with startedNs := some s.ns } else x }) ∧
    (mayGo → c.result = none → c.startedNs.isSome = true →
      ((∀ a ∈ o.s.accesses, a.origin = .stencil col c.context → a.pieces = []) →
        ∃ u, exec (.stencilCommandCompletion col id) s = .next u ∧ completes c n o.s u o.status o.bad o.lanes) ∧
      ((∃ a ∈ o.s.accesses, a.origin = .stencil col c.context ∧ a.pieces ≠ []) →
        ∃ u, exec (.stencilCommandCompletion col id) s = .next u ∧ u.mem = o.s.mem ∧ u.tiles = o.s.tiles ∧ u.accesses = o.s.accesses ∧ u.records = s.records ∧
          u.outstanding = s.outstanding ∧
          u.stencilCmds = s.stencilCmds.map fun x => if x.id = id then { x with result := some (o.status, o.bad, o.lanes) } else x)) ∧
    (∀ st bad lanes, mayGo → c.result = some (st, bad, lanes) →
      ∃ u, exec (.stencilCommandCompletion col id) s = .next u ∧ completes c n s u st bad lanes)) ∧
  -- the checks before a command's own description
  (∀ (s : State) c, let o := performStencil s c
    let g := s.grammarOf c
    let same (st : Nat) : Prop := o.status = st ∧ o.s = s ∧ o.bad = 0
    let range : Prop := c.rangeBad = true ∨ contextRange s c = true
    let token : Prop := g.cstate ≠ .free ∧ tokenBad s c = true
    let malformed : Prop := s.standing (4864 + c.column) (BitVec.ofNat 64 (lane 64 c.a 1)) = .malformed
    (range → same 11) ∧
    (¬ range → token → o.status = 11 ∧ o.s = s.putGrammar c (g.setNode c.node ((g.node c.node).map fun x => { x with dead := true }))) ∧
    (¬ range → ¬ token → malformed → same 13) ∧
    (¬ range → ¬ token → ¬ malformed → 1 ≤ c.sub → c.sub ≤ 6 → g.cstate ≠ .ready → same 12) ∧
    (¬ range → ¬ token → ¬ malformed → c.sub = 8 → same 0)) ∧
  (∀ (s : State) c, (contextRange s c = true ↔ let g := s.grammarOf c
    let p := lane 64 c.a 2 / 2 ^ 32
    g.cstate ≠ .free ∧ ((c.sub = 4 ∧ (p ≠ g.commitPos ∨ ∃ n ∈ pathNodes c.a, g.node n = none)) ∨
      (c.sub = 5 ∧ (lane 64 c.a 2).testBit 16 = true ∧ (p < g.basePos ∨ g.commitPos < p)) ∨
      (c.sub = 6 ∧ ∃ conf, g.commit = some conf ∧ lane 64 c.b 1 < 64 + 2 * conf.depth)))) ∧
  -- the outcomes of each command
  (∀ (s : State) c, c.rangeBad = false → contextRange s c = false → ((s.grammarOf c).cstate = .free ∨ tokenBad s c = false) →
    s.standing (4864 + c.column) (BitVec.ofNat 64 (lane 64 c.a 1)) ≠ .malformed →
    let o := performStencil s c
    let g := s.grammarOf c
    let e (image : Nat) : GEnv := { s := s, d := (s.domainOf (sectorOfColumn c.column)).getD 0, asid := c.asid, image := image }
    let sum (x : GConf) : Nat := x.state + x.ended.toNat * 2 ^ 16 + x.dead.toNat * 2 ^ 17 + x.depth * 2 ^ 18
    let same (st : Nat) : Prop := o.status = st ∧ o.s = s
    let writes (ps : List Piece) (u : State) : Prop := u.mem = s.mem ∧ u.tiles = s.tiles ∧ ∃ a, u.accesses = s.accesses ++ [a] ∧ a.writer = 4864 + c.column ∧
      a.origin = .stencil c.column c.context ∧ a.number = c.number.getD 0 ∧ a.pieces = ps
    let empty : Grammar := { g with cstate := .free, commit := none, hist := [], nodes := Vector.replicate 16 none }
    (c.sub = 0 → let ident := lane 64 c.b 0 + lane 64 c.b 1 * 2 ^ 64
      (∀ z, (e (lane 64 c.a 2)).verify ident = .error z → o.status = z.1 ∧ o.bad = z.2 ∧ o.s.mem = s.mem ∧ o.s.grammarOf c = empty) ∧
      (∀ h, (e (lane 64 c.a 2)).verify ident = .ok h →
        let init : GConf := { state := h.start, ended := false, dead := false, depth := 0, pages := [] }
        o.status = 0 ∧ o.s.mem = s.mem ∧ o.s.grammarOf c =
          { empty with cstate := .ready, imageVa := lane 64 c.a 2, ident := BitVec.ofNat 128 ident, policy := (lane 64 c.a 3).testBit 0, commit := some init,
                       hist := [init], commitPos := lane 64 c.b 2, basePos := lane 64 c.b 2 })) ∧
    (c.sub = 7 → (∀ z, (e 0).read (lane 64 c.b 0) 64 = .error z → o.status = z.1 ∧ o.bad = z.2 ∧ o.s = s) ∧
      (∀ area, (e 0).read (lane 64 c.b 0) 64 = .ok area →
        let depth := area / 2 ^ 224 % 2 ^ 32
        let state := area / 2 ^ 192 % 2 ^ 16
        let good : Prop := area / 2 ^ 210 % 2 ^ 6 = 0 ∧ area / 2 ^ 216 % 2 ^ 8 = 0 ∧ area / 2 ^ 288 % 2 ^ 224 = 0 ∧ depth ≤ 65536
        let verified := (e (area % 2 ^ 64)).verify (area / 2 ^ 64 % 2 ^ 128)
        (¬ good → same 6) ∧ (∀ z, good → verified = .error z → o.status = z.1 ∧ o.s = s) ∧
        (∀ h, good → verified = .ok h → h.states ≤ state → same 6) ∧
        (∀ h syms, good → verified = .ok h → state < h.states → (e 0).read ((lane 64 c.b 0 + 64) % 2 ^ 64) (2 * depth) = .ok syms →
          ((s.stencil c.column).freePages.length < (depth + 2047) / 2048 → same 5) ∧
          ((depth + 2047) / 2048 ≤ (s.stencil c.column).freePages.length →
            let conf : GConf := { state := state, ended := area.testBit 208, dead := false, depth := depth,
                                  pages := (s.stencil c.column).freePages.take ((depth + 2047) / 2048) }
            o.status = 0 ∧ o.s.grammarOf c =
              { empty with cstate := .ready, imageVa := area % 2 ^ 64, ident := BitVec.ofNat 128 (area / 2 ^ 64 % 2 ^ 128), policy := area.testBit 209,
                           commit := some conf, hist := [conf], commitPos := area / 2 ^ 256 % 2 ^ 32, basePos := area / 2 ^ 256 % 2 ^ 32 })))) ∧
    (g.cstate = .ready →
      (c.sub = 1 → (g.node c.node = none → same 12) ∧
        (∀ conf, g.node c.node = some conf →
          (conf.dead = true → same 12) ∧
          (∀ z, conf.dead = false → (e g.imageVa).header = .error z → o.status = z.1 ∧ o.s = s) ∧
          (∀ h w, conf.dead = false → (e g.imageVa).header = .ok h → s.stackOf c.column conf = .ok w →
            let fresh (k : Nat) : Bool := match conf.pages[k]? with
              | some p => decide (1 < (s.stencil c.column).refs p)
              | none => true
            let dead : Prop := o.s = s.putGrammar c (g.setNode c.node (some { conf with dead := true }))
            match (e g.imageVa).advance h (some { fresh := fresh, free := (s.stencil c.column).freePages.length })
                { state := conf.state, ended := conf.ended, stack := w, touched := [] } (lane 64 c.b 0) with
            | .error z => o.status = z.1 ∧ o.bad = z.2 ∧ o.s = s
            | .ok .reject => o.status = 3 ∧ dead
            | .ok .overflow => o.status = 4 ∧ dead
            | .ok (.to v) => o.status = 0 ∧ ∃ x, (o.s.grammarOf c).node c.node = some x ∧ x.state = v.state ∧ x.ended = v.ended ∧ x.dead = false ∧
                x.depth = v.stack.length ∧ o.lanes = [sum x] ∧ ∀ n, n < 16 → n ≠ c.node → (o.s.grammarOf c).node n = g.node n))) ∧
      (c.sub = 2 → (g.node c.node = none → same 12) ∧
        (∀ conf, g.node c.node = some conf →
          (∀ ps, (conf.dead || conf.ended) = true → (e g.imageVa).writes (lane 64 c.b 0) 32768 0 (granulesOf (lane 64 c.b 0) 32768) = .ok ps →
            o.status = (if conf.dead then 3 else 0) ∧ writes ps o.s ∧ o.lanes[1]? = some 0) ∧
          (∀ z, conf.dead = false → conf.ended = false → liveMask s c conf = .error z → o.status = z.1 ∧ o.s = s) ∧
          (∀ r z, conf.dead = false → conf.ended = false → liveMask s c conf = .ok r →
            (e g.imageVa).writes (lane 64 c.b 0) 32768 r.mask (granulesOf (lane 64 c.b 0) 32768) = .error z → o.status = z.1 ∧ o.s = s) ∧
          (∀ r ps, conf.dead = false → conf.ended = false → liveMask s c conf = .ok r →
            (e g.imageVa).writes (lane 64 c.b 0) 32768 r.mask (granulesOf (lane 64 c.b 0) 32768) = .ok ps →
            writes ps o.s ∧ o.status = (if r.late then (if g.policy then 2 else 1) else 0) ∧
              o.lanes = [r.walked + r.count * 2 ^ 32, ((List.range 262144).filter r.mask.testBit).length]))) ∧
      (c.sub = 3 → let src := if lane 64 c.b 0 % 32 = 16 then g.commit else g.node (lane 64 c.b 0 % 32)
        (src = none → same 12) ∧ (∀ x, src = some x → o.status = 0 ∧ o.lanes = [sum x] ∧ o.s = s.putGrammar c (g.setNode c.node (some x)))) ∧
      (c.sub = 4 → let confs := (pathNodes c.a).map g.node
        (∀ x, some x ∈ confs → x.dead = true → same 3) ∧
        ((∀ x, some x ∈ confs → x.dead = false) → let h := o.s.grammarOf c
          o.status = 0 ∧ h.hist.map some = (g.commit.toList.map some) ++ confs ∧ some h.commit = confs.getLast? ∧ h.basePos = g.commitPos ∧
            h.commitPos = g.commitPos + (lane 64 c.a 2 % 16 + 1) ∧ ∀ n, n < 16 → h.node n = if n ∈ pathNodes c.a then none else g.node n)) ∧
      (c.sub = 5 → (lane 64 c.a 2).testBit 16 = false → let h := o.s.grammarOf c
        o.status = 0 ∧ h.commit = g.commit ∧ ∀ n, n < 16 → h.node n = if (lane 64 c.a 2).testBit n then none else g.node n) ∧
      (c.sub = 5 → (lane 64 c.a 2).testBit 16 = true → let h := o.s.grammarOf c
        let p := lane 64 c.a 2 / 2 ^ 32
        o.status = 0 ∧ h.commitPos = p ∧ h.basePos = g.basePos ∧ h.commit = g.hist[p - g.basePos]? ∧ h.hist = g.hist.take (p - g.basePos + 1) ∧
          ∀ n, n < 16 → h.node n = none) ∧
      (c.sub = 6 → (g.commit = none → same 12) ∧
        ∀ conf stack ps, g.commit = some conf → s.stackOf c.column conf = .ok stack →
          let len := 64 + 2 * conf.depth
          let va := lane 64 c.b 0
          let area := g.imageVa + g.ident.toNat * 2 ^ 64 + conf.state * 2 ^ 192 + (conf.ended.toNat + 2 * g.policy.toNat) * 2 ^ 208 + conf.depth * 2 ^ 224
            + g.commitPos * 2 ^ 256 + packNat 16 stack.reverse * 2 ^ 512
          (e 0).writes va len area (granulesOf va len) = .ok ps →
          o.status = 0 ∧ writes ps o.s ∧ o.lanes = [len] ∧ o.s.grammarOf c = if (lane 64 c.a 2).testBit 0 then empty else g))) ∧
  (∀ (e : GEnv) ident x, e.at' 0 128 = .ok x → (headerGood x = false → e.verify ident = .error (6, 0)) ∧
    (∀ img, headerGood x = true → e.at' 0 (headerOf x).len = .ok img → e.verify ident =
      if shakeBytes ((List.range (headerOf x).len).map fun k => bits img (8 * k) 8) 16 = ident then .ok (headerOf x) else .error (6, 0))) ∧
  -- STENCIL_CTL
  (∀ (s : State) src col (v : BitVec 64), col < 64 →
    let may : Prop := s.variant.stencil = true ∧ s.fromLath src (s.domainOf (sectorOfColumn col)) = true ∧ (∀ k ∈ (s.stencil col).contexts, k.2.cstate = .free) ∧
      v.toNat % 2 ^ 13 + v.toNat / 2 ^ 14 % 2 ^ 14 ≤ 8192
    (may → ∃ u, exec (.stencilCtlWrite src col v) s = .next u ∧ u.mem = s.mem ∧ (u.stencil col).poolBase = v.toNat % 2 ^ 13 ∧
      (u.stencil col).poolPages = v.toNat / 2 ^ 14 % 2 ^ 14 ∧ (u.stencil col).contexts = (s.stencil col).contexts ∧ ∀ k, k ≠ col → u.stencil k = s.stencil k) ∧
    (¬ may → exec (.stencilCtlWrite src col v) s = .next s))

/-! ### Requests, launches, placement (0x80) -/

/-- A request at its firing (R365, R366, R387): below depth 8 it enters its domain's pool with what its operands say, and its destination waits; at depth 8 it
ends at once with status 0x21 and a record, and its context goes on; an image of level 5 that the domain cannot hold is refused at once and never waits in the pool
(R85). A resolved request writes its destination (R365), that of an evicted instance once it is restored. -/
def Obligations.RequestsEnterThePool : Prop :=
  let depth (s : State) (fr : Firing) : Nat := ((s.tileInst fr.t).map fun x : Inst => x.depth).getD 0
  let asked (f : Slot) (s : State) (fr : Firing) (e : PoolEntry) : Prop := e.id = s.nextEntry ∧ e.domain = (s.tileDomain fr.t).getD 0 ∧
    e.config = BitVec.ofNat 128 (fr.a64 0 + fr.a64 1 * 2 ^ 64) ∧ e.deadline = fr.a64 2 ∧ e.energy = fr.a64 3 % 2 ^ 32 ∧ e.user = fr.a64 4 ∧
    e.drop = f.imm.toNat.testBit 0 ∧ e.attach = f.imm.toNat.testBit 1 ∧ e.preemptible = f.imm.toNat.testBit 2 ∧ e.replaces = f.imm.toNat.testBit 3 ∧
    e.request = some s.nextAccess ∧ e.tile = fr.t ∧ e.ctx = fr.c ∧ e.depth = depth s fr + 1 ∧ e.parent = ((s.tileInst fr.t).map fun x : Inst => x.number).getD 0 ∧
    e.resident = false ∧ e.feed = none ∧ e.pred = none ∧ e.deferred = false
  (∀ mk ∈ [Instr.creq, Instr.creqReplace],
    LaneSpecOn mk (fun _ fr => fr.any = false) (fun s _ => s) Firing.as64 (fun _ _ _ => 0) (fun _ _ _ => false) (fun _ _ _ => 0) ∧
    (∀ f s fr, (mk f).wf = true → s.firingOf (mk f) = some fr → fr.any = true → depth s fr < 8 →
      ∃ t e, exec (mk f) s = .next t ∧ asked f s fr e ∧ AwaitEffect (mk f) s fr t ∧ t.insts = s.insts ∧ t.nextEntry = s.nextEntry + 1 ∧
        (s.refusedAtOnce e = none → t.pool = s.pool ++ [e] ∧ t.resolved = s.resolved) ∧
        ∀ fl, s.refusedAtOnce e = some fl → (∀ x ∈ t.pool, x ∈ s.pool) ∧
          t.resolved = s.resolved ++ [(s.nextAccess, [fl.status.code, 0, 0, fl.tile + fl.ctx * 2 ^ 16 + fl.slot * 2 ^ 24])]) ∧
    (∀ f s fr, (mk f).wf = true → s.firingOf (mk f) = some fr → fr.any = true → 8 ≤ depth s fr →
      ∃ t r, exec (mk f) s = .next t ∧ t.mem = s.mem ∧ t.pool = s.pool ∧ t.outstanding = s.outstanding ∧ (t.ctx fr.t fr.c).run = (s.ctx fr.t fr.c).run ∧
        t.records = s.records ++ [r] ∧ r.source = fr.t ∧ r.ctx = fr.c ∧ r.cls = 12 ∧ r.cause = 1 ∧ r.halted = false ∧
        ∀ k, fr.f.dst = .d k → ∀ j, j < 8 → lane 64 (at8 (t.ctx fr.t fr.c).d k.val) j =
          if fr.as64.on j then [0x21, 0, 0, 0xFFFFFFFF].getD j 0 else lane 64 (at8 (s.ctx fr.t fr.c).d k.val) j)) ∧
  (∀ (s : State) e, (s.image? e.domain e.config = none → s.refusedAtOnce e = none) ∧
    ∀ im, s.image? e.domain e.config = some im → headerFails im = [] →
      ((im.at 8 1 ≠ 5 ∨ (s.sectorsOf e.domain).length = 16) → s.refusedAtOnce e = none) ∧
      (im.at 8 1 = 5 → (s.sectorsOf e.domain).length ≠ 16 → s.refusedAtOnce e =
        some ((loadCheck s.variant (s.domain e.domain).shape.sites (s.signatureOk e.domain im) im).getD (wholeFail .noRegion)))) ∧
  ∀ (s : State) id r, (s.resolved.find? fun r => r.1 = id) = some r →
    (s.savedRequest id = true → exec (.creqResolve id) s = .next s) ∧
    (∀ o, s.savedRequest id = false → (s.outstanding.find? fun o => o.id = id) = some o →
      exec (.creqResolve id) s = .next (State.deliver { s with resolved := s.resolved.filter fun x => x.1 != id } o r.2)) ∧
    (s.savedRequest id = false → (s.outstanding.find? fun o => o.id = id) = none →
      exec (.creqResolve id) s = .next { s with resolved := s.resolved.filter fun x => x.1 != id })

/-- CREL releases an instance that the issuer is or has requested, with all below it: every context of it retires, and its completion says that it was released; any
other stops with NOT_CHILD (R369). A lath's own requests are below it. ETRG lifts its witness to the domain and releases with it, once, the launches that wait for
the instance or for a launch attached to it (R371); while the lift waits it does not fire. -/
def Obligations.ReleaseAndTrigger : Prop :=
  let own (s : State) (fr : Firing) : Nat := ((s.tileInst fr.t).map fun x : Inst => x.number).getD 0
  let dom (s : State) (fr : Firing) : Nat := (s.tileDomain fr.t).getD 0
  let target (s : State) (fr : Firing) : Nat := if fr.a64 0 = 0 then own s fr else fr.a64 0
  let child (s : State) (fr : Firing) : Prop := (s.inst? (dom s fr) (target s fr)).isSome = true ∧
    (own s fr ≠ 0 → s.below (dom s fr) (own s fr) 9 (target s fr) = true) ∧ (own s fr = 0 → s.belowLath (dom s fr) 9 (target s fr) = true)
  let wit (fr : Firing) : W64 := BitVec.ofNat 64 (fr.a64 0)
  (∀ mk ∈ [Instr.crel, Instr.etrg], Completes mk (fun _ fr => fr.any = false) (fun s _ => s)) ∧
  Halts .crel true (fun s fr => fr.any = true ∧ ¬ child s fr) (fun _ _ => { cls := 12, cause := 2 }) ∧
  Completes .crel (fun s fr => fr.any = true ∧ child s fr) (fun s fr => s.releaseInst (dom s fr) (target s fr) false) ∧
  (∀ f s fr x, (Instr.crel f).wf = true → s.firingOf (.crel f) = some fr → fr.any = true → child s fr →
    s.inst? (dom s fr) x.number = some x → x.phase = .running → s.below (dom s fr) (target s fr) 9 x.number = true →
    ∃ u, exec (.crel f) s = .next u ∧ (∀ t ∈ x.tiles, ∀ c, c < 8 → (s.ctx t c).word.valid = true → (u.ctx t c).run = .retired) ∧
      ((u.inst? (dom s fr) x.number).map fun x : Inst => x.released) = some true) ∧
  Halts .etrg true (fun s fr => fr.any = true ∧ s.standing fr.t (wit fr) = .malformed) (fun _ fr => { cls := 7, cause := 1, witness := wit fr }) ∧
  (∀ f s fr row, opRow 128 2 = some row → readOperands (.etrg f) row f s s.cur.tile s.cur.ctx s.cur.slot = .ok fr → fr.any = true →
    s.standing fr.t (wit fr) ≠ .malformed → lift s fr.t (wit fr) 4 = .waiting → exec (.etrg f) s = .next s) ∧
  (∀ l x, x.trigger = none → Completes .etrg
    (fun s fr => fr.any = true ∧ s.standing fr.t (wit fr) ≠ .malformed ∧ lift s fr.t (wit fr) 4 = .done l ∧ s.tileInst fr.t = some x)
    (fun s _ => { s.setInst { x with trigger := some l } with
      launches := s.launches.map fun r => if (x.entry.id :: x.attached.map fun a => a.1.id).contains r.id then { r with fate := .released l } else r })) ∧
  (∀ l, Completes .etrg
    (fun s fr => fr.any = true ∧ s.standing fr.t (wit fr) ≠ .malformed ∧ lift s fr.t (wit fr) 4 = .done l ∧ ∀ x, s.tileInst fr.t = some x → x.trigger.isSome = true)
    (fun s _ => s))

/-- The beats of an ingress port (R352-R355, R358, R507): an acceptable packet enters its domain's pool while that has room, and waits while it has none; one with
ATTACH whose instance is resident is delivered to it, and needs no room while it waits for its predecessor; a bad packet, and one of an image that its domain can never hold, is refused and its data beats are
discarded. Data beats enter the fabric on the way laid for them once their instance is placed, behind those of earlier attached launches; the last one of a resident
launch sets FALLBACK. After a beat that no packet can begin with, all are discarded up to a resynchronisation beat. By which
words the way leads, and where beats enter that no words inside the domain can bring, is the model's choice (log 19). -/
def Obligations.LaunchesArrive : Prop :=
  (∀ (s : State) port b rest, port < 32 → (s.port port).buffer = b :: rest → (s.port port).due = 0 → (s.port port).discarding = false →
    (beatField b 0 1 = 1 ∨ beatField b 0 1 = 2) →
    let d := (s.port port).domain
    let e := packetEntry s port d b
    let good : Prop := badPacket s d b e = false
    let alone : Prop := e.attach = false ∨ s.entryWitness e = none ∨ s.attachTo d e.config = none
    let taken (goal : FeedTarget) : IngressPort := { s.port port with buffer := rest, due := beatField b 4 4, target := goal, way := none }
    let refused (u : State) (code : Nat) : Prop := u.mem = s.mem ∧ u.insts = s.insts ∧ (∀ x ∈ u.pool, x ∈ s.pool) ∧ u.port port = taken .discard ∧
      u.nextEntry = s.nextEntry + 1 ∧ (s.launches.all (fun r => r.id != e.id) = true → u.launches = s.launches ++ [{ id := e.id, domain := d, user := e.user, fate := .failed }]) ∧
      (e.completion = 0 → u.accesses = s.accesses ∧ u.records = s.records) ∧
      (e.completion ≠ 0 → (∃ a, u.accesses = s.accesses ++ [a] ∧ a.pieces.length = 4 ∧ ∀ p ∈ a.pieces, ∃ k, k < 4 ∧ p.va = e.completion + 16 * k ∧ ∃ w,
          p.op = .store (w.extractLsb' (128 * k) 128) (BitVec.allOnes 128) false false ∧ lane 64 w 0 = e.user % 2 ^ 64 ∧ lane 64 w 2 % 2 ^ 8 = code) ∨
        ∃ r, u.records = s.records ++ [r] ∧ r.cls = 12 ∧ r.cause = 3 ∧ r.address = e.completion)
    let room : Prop := s.poolFree d ≠ 0 ∨ (e.attach = true ∧ (s.attachTo d e.config).isSome = true)
    (good → alone → s.refusedAtOnce e = none → room →
      ∃ u, exec (.launchPacket port) s = .next u ∧ u.mem = s.mem ∧ u.pool = s.pool ++ [e] ∧ u.insts = s.insts ∧
        u.port port = taken (.entry d e.id) ∧ u.nextEntry = s.nextEntry + 1 ∧
        u.launches = s.launches ++ [{ id := e.id, domain := d, user := e.user, fate := .pending }]) ∧
    (good → alone → s.refusedAtOnce e = none → ¬ room →
      ∃ u, exec (.launchPacket port) s = .next u ∧ u.mem = s.mem ∧ u.pool = s.pool ∧ u.ports = s.ports ∧ (u.schedOf d).reason = 4) ∧
    (∀ fl, good → alone → s.refusedAtOnce e = some fl → ∃ u, exec (.launchPacket port) s = .next u ∧ refused u fl.status.code) ∧
    (badPacket s d b e = true → ∃ u, exec (.launchPacket port) s = .next u ∧ refused u 0x22) ∧
    (∀ w pf x, good → e.attach = true → s.entryWitness e = some (w, pf) → s.attachTo d e.config = some x →
      ∃ u, exec (.launchPacket port) s = .next u ∧ u.mem = s.mem ∧ u.tiles = s.tiles ∧ (∀ y ∈ u.pool, y ∈ s.pool) ∧
        u.insts = (s.setInst { x with attached := x.attached ++ [(e, pf)] }).insts ∧ (u.port port).buffer = rest ∧ (u.port port).due = beatField b 4 4 ∧
        (u.port port).target = .port d x.number (beatField b 2 1))) ∧
  (∀ (s : State) port d b, let e := packetEntry s port d b
    let fl := beatField b 1 1
    e.id = s.nextEntry ∧ e.domain = d ∧ e.config = BitVec.ofNat 128 (beatField b 8 16) ∧ e.deadline = beatField b 24 8 ∧ e.energy = beatField b 32 4 ∧
    e.drop = fl.testBit 0 ∧ e.attach = fl.testBit 1 ∧ e.preemptible = fl.testBit 2 ∧ (e.resident = true ↔ beatField b 0 1 = 2) ∧ e.user = beatField b 48 8 ∧
    e.completion = beatField b 40 8 ∧ e.feed = some (port, beatField b 2 1, beatField b 4 4) ∧ e.request = none ∧ e.depth = 1 ∧
    (beatField b 56 8 = 0 → e.pred = none) ∧
    (beatField b 56 8 ≠ 0 → e.pred = ((s.launches.filter fun r => r.domain = d ∧ r.user = beatField b 56 8).getLast?).map fun r => r.id)) ∧
  (∀ (s : State) d b e port, e.feed = some (port, beatField b 2 1, beatField b 4 4) →
    let ins : Option (List PortRec) := (s.image? d e.config).bind fun im => if headerFails im = [] then some (im.portRecs.filter fun p => p.role = 0) else none
    (badPacket s d b e = true ↔ 8 ≤ beatField b 1 1 ∨ beatField b 3 1 ≠ 0 ∨ beatField b 36 4 ≠ 0 ∨ s.inFallback d = true ∨
      (e.resident = true ∧ (e.attach = true ∨ beatField b 56 8 ≠ 0)) ∨ (ins = some [] ∧ beatField b 4 4 ≠ 0) ∨
      ∃ p ps, ins = some (p :: ps) ∧ ∀ x ∈ p :: ps, x.port ≠ beatField b 2 1)) ∧
  (∀ (s : State) port b rest, port < 32 → (s.port port).buffer = b :: rest → (s.port port).due ≠ 0 →
    let took := s.setPort port { s.port port with buffer := rest, due := (s.port port).due - 1 }
    ((s.port port).target = .discard → exec (.launchDataBeat port) s = .next took) ∧
    (∀ d e, (s.port port).target = .entry d e → exec (.launchDataBeat port) s = .next s) ∧
    (∀ d n pn, (s.port port).target = .port d n pn → s.inst? d n = none → exec (.launchDataBeat port) s = .next took) ∧
    (∀ d n pn x im r, (s.port port).target = .port d n pn → s.inst? d n = some x → s.image? d x.config = some im →
      (im.portRecs.find? fun r => r.role == 0 && r.port == pn) = some r →
      let s1 := s.openFeed port
      (x.away = true ∨ s.behindAttached port x = true → exec (.launchDataBeat port) s = .next s) ∧
      (x.away = false → s.behindAttached port x = false → (s1.port port).way = none → exec (.launchDataBeat port) s = .next s) ∧
      (∀ site dir, x.away = false → s.behindAttached port x = false → (s1.port port).way = some (site, dir) →
        (4 ≤ ((s1.router site).buf dir (r.vc % 32)).length → exec (.launchDataBeat port) s = .next s1) ∧
        (((s1.router site).buf dir (r.vc % 32)).length < 4 →
          ∃ u v, exec (.launchDataBeat port) s = .next u ∧ u.mem = s.mem ∧ u.tiles = s.tiles ∧
            u.port port = { s1.port port with buffer := rest, due := (s.port port).due - 1 } ∧
            (u.router site).buf dir (r.vc % 32) = (s1.router site).buf dir (r.vc % 32) ++ [v] ∧ v.payload = b ∧ v.mask = 0xFFFF ∧ v.tag = 0 ∧ v.poison = false ∧
            v.vc.val = r.vc % 32 ∧ (x.entry.resident = true → (s.port port).due = 1 → x.phase ≠ .retired → (u.domain d).fallback = true))) ∧
      ((s.port port).way.isSome = true → s1 = s) ∧
      ((s.port port).way = none → x.away = false → s.feedEntry d port (x.ox + r.x) (x.oy + r.y) (x.oz + r.z) r.dir (r.vc % 32) = none → s1 = s) ∧
      (∀ s2 site dir, (s.port port).way = none → x.away = false →
        s.feedEntry d port (x.ox + r.x) (x.oy + r.y) (x.oz + r.z) r.dir (r.vc % 32) = some (s2, site, dir) →
        s1 = s2.setPort port { s2.port port with way := some (site, dir) }) ∧
      (siteKeyAbs (x.ox + r.x) (x.oy + r.y) (x.oz + r.z) = siteKeyAbs (siteX (s.port port).entryTile) (siteY (s.port port).entryTile) 0 → r.dir = 5 →
        s.feedEntry d port (x.ox + r.x) (x.oy + r.y) (x.oz + r.z) r.dir (r.vc % 32) = some (s, siteKeyAbs (x.ox + r.x) (x.oy + r.y) (x.oz + r.z), 5)))) ∧
  (∀ (s : State) port x d n pn, (s.port port).target = .port d n pn →
    let before (q : Nat) : Prop := ∃ k a fd, k < x.launchAt port ∧ x.launches[k]? = some a ∧ a.1.feed = some fd ∧ fd.1 = q ∧ fd.2.1 = pn
    let owes (q : Nat) : Prop := (s.port q).due ≠ 0 ∧ (s.port q).target = .port d n pn ∧ x.launchAt q < x.launchAt port
    (s.behindAttached port x = true ↔ ∃ q, q < 32 ∧ q ≠ port ∧ before q ∧ (owes q ∨ s.wordsQuiet d (feedMark q) = false))) ∧
  (∀ (s : State) port b rest, port < 32 → (s.port port).buffer = b :: rest → (s.port port).due = 0 →
    (beatField b 0 1 = 0xA5 → exec (.resynchronisationBeat port) s = .next (s.setPort port { s.port port with buffer := rest, discarding := false })) ∧
    (beatField b 0 1 ≠ 0xA5 → (s.port port).discarding = true → exec (.undelimitableBeat port) s = .next (s.setPort port { s.port port with buffer := rest })) ∧
    (beatField b 0 1 ≠ 0xA5 → (s.port port).discarding = false → beatField b 0 1 ≠ 1 → beatField b 0 1 ≠ 2 → exec (.undelimitableBeat port) s =
      .next (s.setPort port { s.port port with buffer := rest, discarding := true, bad := min ((s.port port).bad + 1) 0xFFFF }))) ∧
  (∀ (s : State) port, port < 32 → (s.port port).buffer = [] → ∀ i ∈ [Instr.launchPacket port, .launchDataBeat port, .resynchronisationBeat port, .undelimitableBeat port],
    exec i s = .next s)

/-- The lath's scan (R347, R349, R361-R368): entries are considered in the order of their deadlines, and of their arrival where these are equal, and at the end the
root lath writes the messages that wait for it (R359); an entry is placed into the region found for it as the domain's next instance, which takes every tile of the region, or
refused with the status of what it fails; it stays in the pool while its predecessor is pending, the energy of the window does not suffice, or no region is free,
and the scan says why. No region found takes a tile of another instance or of the lath. While a resident launch waits none is placed; it is placed once the
domain's instances are gone (R358). A window that has run its length begins anew (R363). That an entry which must wait keeps no region from a later one is the
model's reading (log 53); which regions it takes to be free beside paths that stay and reserves is its choice (log 19). -/
def Obligations.PlacementScans : Prop :=
  let refused (s : State) (e : PoolEntry) (code : Nat) (u : State) : Prop := u.insts = s.insts ∧ (∀ x ∈ u.pool, x ∈ s.pool ∧ x.id ≠ e.id) ∧
    (∀ r ∈ u.launches, r.id = e.id → r.fate = .failed) ∧
    ∀ id, e.request = some id → ∃ vs, u.resolved = s.resolved ++ [(id, code :: vs)]
  let placed (s : State) (asid : Nat) (e : PoolEntry) (g : Image) (rg : Region) (w : W64) (u : State) : Prop :=
    let late := decide (e.deadline < s.ns) && e.deadline != 2 ^ 64 - 1
    ∃ x, u.insts = s.insts ++ [x] ∧ x.domain = e.domain ∧ x.number = (s.domain e.domain).lastInst + 1 ∧ x.config = e.config ∧ x.level = g.level ∧ x.asid = asid ∧
      x.region = rg.tiles ∧ x.ox = rg.ox ∧ x.oy = rg.oy ∧ x.oz = rg.oz ∧ x.entryWit = w ∧ x.phase = .running ∧ x.placedNs = s.ns ∧ x.depth = e.depth ∧
      x.parent = e.parent ∧ x.late = late ∧ x.entry = e ∧ x.attached = [] ∧ (∀ t ∈ rg.tiles, (u.tile t).inst = x.number) ∧
      (∀ y ∈ u.pool, y ∈ s.pool ∧ y.id ≠ e.id) ∧ (u.domain e.domain).lastInst = x.number ∧
      (u.schedOf e.domain).reserved = (s.schedOf e.domain).reserved + min e.energy (s.schedOf e.domain).budget ∧
      ∀ id, e.request = some id → e.feed = none → u.resolved = s.resolved ++ [(id, [late.toNat * 2 ^ 8, x.number, s.ns, 0xFFFFFFFF])]
  let considered (s : State) (asid : Nat) (e : PoolEntry) (u : State) : Prop :=
    let d := e.domain
    let sc := s.schedOf d
    let stays (reason : Nat) : Prop := u.insts = s.insts ∧ u.pool.map (fun x => x.id) = s.pool.map (fun x => x.id) ∧ u.mem = s.mem ∧ u.tiles = s.tiles ∧
      (u.schedOf d).reason = reason
    (s.entryWitness e = none → stays 3) ∧
    (∀ w pf, s.entryWitness e = some (w, pf) → (e.attach = false ∨ s.attachTo d e.config = none) →
      (s.image? d e.config = none → refused s e 0x23 u) ∧
      ∀ im, s.image? d e.config = some im →
        let check := loadCheck s.variant (s.domain d).shape.sites (s.signatureOk d im) im
        let g := im.parse.1
        (∀ fl, check = some fl → refused s e fl.status.code u) ∧
        (check = none → s.neverFits d g = true → refused s e 0x11 u) ∧
        (check = none → s.neverFits d g = false →
          (sc.budget < sc.reserved + min e.energy sc.budget → stays 1 ∧ ∀ x ∈ u.pool, x.id = e.id → x.deferred = true) ∧
          (sc.reserved + min e.energy sc.budget ≤ sc.budget →
            (s.findRegion d e.depth g = none → stays 2) ∧
            ∀ rg, s.findRegion d e.depth g = some rg →
              let late : Prop := e.deadline < s.ns ∧ e.deadline ≠ 2 ^ 64 - 1
              (late → e.drop = true → refused s e 0x120 u) ∧
              (¬ late ∨ e.drop = false → (e.feed.isSome = true → placed s asid e g rg w u) ∧
                (e.feed = none → placed s asid e g rg w u ∨ ∃ l, refused s e (0x0F + 256 * l) u)))))
  (∀ (s : State) d asid e, d < 16 → s.poolOf d = [e] → e.resident = false → e.replaces = false → (s.domain d).busy = false →
    (∀ x ∈ s.insts, x.domain = d → x.phase ≠ .retired ∧ (x.number = e.parent → x.away = false)) →
    (s.residentInst d = none → ∃ u, exec (.pendingPoolScan d asid) s = .next (u.tidyMail d) ∧ considered s asid e u) ∧
    (∀ r, s.residentInst d = some r → e.request.isSome = true → s.below d r.number 9 e.parent = true →
      ∃ u, exec (.pendingPoolScan d asid) s = .next (u.tidyMail d) ∧ considered s asid e u) ∧
    (∀ r, s.residentInst d = some r → (e.request = none ∨ s.below d r.number 9 e.parent = false) →
      ∃ u, exec (.pendingPoolScan d asid) s = .next u ∧ u.insts = s.insts ∧ u.pool = s.pool ∧ u.tiles = s.tiles ∧ u.mem = s.mem)) ∧
  -- several entries: each is considered in the order of deadlines, and of arrivals where these are equal
  (∀ (s : State) d asid, d < 16 → (s.domain d).busy = false → s.residentInst d = none → (∀ e ∈ s.poolOf d, e.resident = false ∧ e.replaces = false) →
    (∀ x ∈ s.insts, x.domain = d → x.phase ≠ .retired ∧ x.away = false) →
    let order := scanOrder (s.poolOf d)
    exec (.pendingPoolScan d asid) s = .next (((order.foldl (fun s e => s.tryPlace asid e) s).preemptFor d order).noteAllReady.tidyMail d)) ∧
  (∀ es : List PoolEntry, (scanOrder es).Perm es ∧ (scanOrder es).Pairwise (fun a b => a.deadline ≤ b.deadline) ∧
    ∀ k, (scanOrder es).filter (fun e => e.deadline == k) = es.filter (fun e => e.deadline == k)) ∧
  (∀ (s : State) asid e, e.domain < 16 → considered s asid e (s.tryPlace asid e)) ∧
  (∀ s : State, s.heldMessages = [] ∨ s.inFallback 0 = true → ∀ d, s.tidyMail d = s) ∧
  (∀ (s : State) d asid, d < 16 → (∃ e ∈ s.poolOf d, e.resident = true) → (s.domain d).busy = false → (∀ x ∈ s.insts, x.domain = d → x.phase ≠ .retired) →
    exec (.pendingPoolScan d asid) s = .next s) ∧
  (∀ (s : State) d depth g rg, s.findRegion d depth g = some rg → ∀ t ∈ rg.tiles, (s.tile t).inst = 0 ∧ isLathTile t = false) ∧
  (∀ (s : State) d asid e, d < 16 → (s.poolOf d).find? (·.resident) = some e → (∀ x ∈ s.insts, x.domain = d → x.phase ≠ .retired) →
    ((∀ x ∈ s.insts, x.domain ≠ d) → ∃ u, exec (.fallbackEnter d asid) s = .next (u.tidyMail d) ∧ considered s asid e u) ∧
    ((∃ x ∈ s.insts, x.domain = d) → exec (.fallbackEnter d asid) s = .next s)) ∧
  (∀ (s : State) d asid, d < 16 → (∀ e ∈ s.poolOf d, e.resident = false) → exec (.fallbackEnter d asid) s = .next (s.sweep d)) ∧
  (∀ (s : State) d, d < 16 →
    let due : Prop := (s.schedOf d).window ≠ 0 ∧ (s.schedOf d).windowStart + 1000 * (s.schedOf d).window ≤ s.ns
    (due → ∃ u, exec (.energyWindow d) s = .next u ∧ u.mem = s.mem ∧ u.tiles = s.tiles ∧ (∀ e ∈ u.pool, e.domain = d → e.deferred = false) ∧
      u.schedOf d = { s.schedOf d with windowStart := s.ns, reserved := 0, used := 0, windows := (s.schedOf d).windows + 1 }) ∧
    (¬ due → exec (.energyWindow d) s = .next s))

/-! ### Pre-emption and restore (R376-R387) -/

/-- A halt that HALT_CTL requests holds every context of the instance and leaves registers, endpoints and memory as they are (R376, R377). Once nothing fired
is unfinished the region is quiesced: its save image is closed and written where the lath says, one record for each of its tiles, and with EVICT the region returns
to the domain (R378, R379). A saved instance is restored: in place, or into a region that is free for it with every register as it was saved; its contexts run once
every HALT_WIT is satisfied, with RESTORED set (R385). The lath spills a row engine of another owner into that owner's save image (R191, R384), and takes and answers
the refill requests of tiles whose token is parked (R403). When an image is closed and what it waits for is the model's reading (log 59); where it is written, under
which key slot and fence, and where an instance is put is its choice (log 63); how a refill is asked for and answered is its reading (log 65). -/
def Obligations.PreemptionAndRestore : Prop :=
  (∀ (s : State) d x, d < 16 → s.inst? d (SMap.get s.halts d 0) = some x →
    (x.phase = .running → ∃ u, exec (.preemption d) s = .next u ∧ u.mem = s.mem ∧ ((u.inst? d x.number).map fun x : Inst => x.phase) = some .halting ∧
      ∀ t ∈ s.instTiles x, ∀ c, c < 8 → (u.ctx t c).held = (s.ctx t c).word.valid ∧ (u.ctx t c).d = (s.ctx t c).d ∧ (u.ctx t c).p = (s.ctx t c).p ∧
        (u.ctx t c).flags = (s.ctx t c).flags ∧ (u.ctx t c).ins = (s.ctx t c).ins ∧ (u.ctx t c).run = (s.ctx t c).run) ∧
    (x.phase = .halting → exec (.preemption d) s = .next s) ∧
    (x.phase ≠ .running → x.phase ≠ .halting → ∃ u, exec (.preemption d) s = .next u ∧ SMap.get u.halts d 0 = 0 ∧ u.insts = s.insts ∧ u.tiles = s.tiles)) ∧
  (∀ (s : State) d, d < 16 → s.inst? d (SMap.get s.halts d 0) = none → ∃ u, exec (.preemption d) s = .next u ∧ SMap.get u.halts d 0 = 0 ∧ u.insts = s.insts ∧ u.tiles = s.tiles) ∧
  -- the region quiesced
  (∀ (s : State) d evict (dest : SaveAt) x, d < 16 → s.inst? d (SMap.get s.halts d 0) = some x →
    let settled : Prop := x.phase = .halting ∧ ∀ t ∈ s.instTiles x, s.tileSettled t = true
    let s0 := (s.endDrain x).drainRegion x
    let im (key : Nat) : SaveImage := saveInst s0 x evict dest.address key dest.fence
    (¬ settled → exec (.regionQuiesced d evict dest) s = .next s) ∧
    (settled → s0.keyAt d dest = none → exec (.regionQuiesced d evict dest) s = .next s) ∧
    (∀ key, settled → s0.keyAt d dest = some key → s0.holdsImage d (im key) = false → exec (.regionQuiesced d evict dest) s = .next s) ∧
    (settled → evict = true → (s0.mayEvict x = false ∨ s0.fenceHolds x dest.fence = false) → exec (.regionQuiesced d evict dest) s = .next s) ∧
    (∀ key, settled → s0.keyAt d dest = some key → s0.holdsImage d (im key) = true → (evict = true → s0.mayEvict x = true ∧ s0.fenceHolds x dest.fence = true) →
      let im := im key
      ∃ u, exec (.regionQuiesced d evict dest) s = .next u ∧ u.accesses = s.accesses ∧ SMap.get u.halts d 0 = 0 ∧
        u.inst? d x.number = some { x with phase := .saved, save := some im, region := if evict then [] else x.region } ∧
        (∀ a, a / 16 < dest.address / 16 ∨ dest.address + im.len ≤ a / 16 * 16 → u.mem.byte a = s.mem.byte a) ∧
        (dest.address % 16 = 0 → u.mem.keyOf (dest.address / 16) = key) ∧
        im.tiles.map (fun st => st.from') = x.region.filter (fun t => (s.tile t).inst == x.number) ∧ (∀ st ∈ im.tiles, st.tile = s0.tile st.from') ∧
        (∀ t c, c < 8 → at8 (s0.tile t).ctxs c = { s.ctx t c with ins := (s0.ctx t c).ins, cins := (s0.ctx t c).cins }) ∧
        (evict = false → u.tiles = s0.tiles) ∧
        (evict = true → ∀ t ∈ x.region, (s.tile t).inst = x.number → x.number ≠ 0 → (u.tile t).inst = 0 ∧ (u.tile t).row = (s.tile t).row))) ∧
  -- the key of a save image, and the fence under which vaults are copied
  (∀ (s : State) d (dest : SaveAt), s.keyAt d dest =
    if tierOf dest.address ∈ [2, 3, 4, 5] then
      if (s.keySlot dest.slot).state = .loaded ∧ (s.keySlot dest.slot).domain = d then some (s.keySlot dest.slot).ident else none
    else some 0) ∧
  (∀ (s : State) x fence, s.fenceHolds x fence = true ↔
    if witNull fence then x.level < 2 ∨ s.targeting x = []
    else s.standing (s.lathTile x.domain) fence = .satisfied ∧
      ∃ f ∈ s.fences, f.domain = x.domain ∧ f.wit = fence ∧ ∀ q ∈ s.targeting x, localWitness (writerOfQueue q) (s.tail q) ∈ f.covers) ∧
  (∀ (s : State) x q, q ∈ s.targeting x ↔ q < 272 ∧ s.queueDomain q = some x.domain ∧ s.tail q ≠ 0 ∧
    ((s.cmdQueue q).asid = x.asid ∨ (q < 256 ∧ ∃ t ∈ x.region, columnOf t = q / 4))) ∧
  -- the restore
  (∀ (s : State) d n move fence x im, d < 16 → s.inst? d n = some x → x.save = some im → x.phase = .restoring →
    ((∀ st ∈ im.tiles, s.standing (s.lathTile d) st.haltWit = .satisfied) →
      ∃ u, exec (.saveImageRestore d n move fence) s = .next u ∧ u.mem = s.mem ∧ u.inst? d n = some { x with phase := .running, save := none } ∧
        (∀ e ∈ s.pool, e.taken = true → e.domain = d → e.parent = n → ∀ id, e.request = some id → ∃ vs, (id, vs) ∈ u.resolved) ∧
        ∀ t ∈ s.instTiles x, ∀ c, c < 8 → (s.ctx t c).word.valid = true → u.ctx t c = { s.ctx t c with held := false, restored := true }) ∧
    ((∃ st ∈ im.tiles, s.standing (s.lathTile d) st.haltWit ≠ .satisfied) → exec (.saveImageRestore d n move fence) s = .next s)) ∧
  (∀ (s : State) d n fence x im st, d < 16 → s.inst? d n = some x → x.save = some im → x.phase = .saved → im.evicted = false → s.image? d x.config = some st →
    ∃ u, exec (.saveImageRestore d n false fence) s = .next u ∧ u.mem = s.mem ∧ ((u.inst? d n).map fun x : Inst => x.phase) = some .restoring ∧
      ((∀ t ∈ s.instTiles x, ∀ c, c < 8 → (s.ctx t c).reissues = [] ∧ (s.ctx t c).halt = none) → ∀ t ∈ s.instTiles x, ∀ c, c < 8 → u.ctx t c = s.ctx t c)) ∧
  (let still (s u : State) : Prop := u.mem = s.mem ∧ u.insts = s.insts ∧ u.tiles = s.tiles
   let away (x : Inst) (rg : Region) (move : Bool) : Bool := move || (decide (2 ≤ x.level) && (rg.ox != x.ox || rg.oy != x.oy))
   let entry (s : State) (x : Inst) (im : SaveImage) (rg : Region) (move : Bool) : Lift :=
     if away x rg move then moveWitness s x im.fence (im.tiles.map (·.haltWit)) else .done x.entryWit
   let placed (x : Inst) (rg : Region) (r : SavedTile) (wit : W64) (u : State) : Prop :=
     let t := tileAt (rg.ox + r.x) (rg.oy + r.y) (rg.oz + r.z)
     ((u.inst? x.domain x.number).map fun x : Inst => (x.phase, x.region, x.ox, x.oy, x.oz, x.entryWit)) = some (.restoring, rg.tiles, rg.ox, rg.oy, rg.oz, wit) ∧
     (isLathTile t = false → (u.tile t).inst = x.number ∧ ∀ c, c < 8 → (u.ctx t c).d = (at8 r.tile.ctxs c).d ∧ (u.ctx t c).word = (at8 r.tile.ctxs c).word)
   (∀ (s : State) d n move fence x im st, d < 16 → s.inst? d n = some x → x.save = some im → x.phase = .saved → im.evicted = true → s.image? d x.config = some st →
     (s.restoreRegion x st.parse.1 im move = none → ∃ u, exec (.saveImageRestore d n move fence) s = .next u ∧ still s u) ∧
     (∀ rg, s.restoreRegion x st.parse.1 im move = some rg →
       (entry s x im rg move = .waiting → ∃ u, exec (.saveImageRestore d n move fence) s = .next u ∧ still s u) ∧
       (∀ wit s1 r, entry s x im rg move = .done wit → s.reload x st.parse.1 rg = some s1 → im.tiles = [r] →
         ∃ u, exec (.saveImageRestore d n move fence) s = .next u ∧ placed x rg r wit u))) ∧
   (∀ (s : State) d n fence x im st, d < 16 → s.inst? d n = some x → x.save = some im → x.phase = .saved → im.evicted = false → s.image? d x.config = some st →
     (s.liftRegion x im fence = none ↔ (s.drainRegion x).mayEvict x = false ∨ (s.drainRegion x).fenceHolds x fence = false) ∧
     (s.liftRegion x im fence = none → ∃ u, exec (.saveImageRestore d n true fence) s = .next u ∧ still s u) ∧
     (∀ s1 y im1, s.liftRegion x im fence = some (s1, y, im1) →
       im1.fence = fence ∧ y = { x with save := some im1, region := [] } ∧
       (s1.restoreRegion y st.parse.1 im1 true = none → ∃ u, exec (.saveImageRestore d n true fence) s = .next u ∧ still s u) ∧
       ∀ rg wit s2 r, s1.restoreRegion y st.parse.1 im1 true = some rg → entry s1 y im1 rg true = .done wit → s1.reload y st.parse.1 rg = some s2 → im1.tiles = [r] →
         ∃ u, exec (.saveImageRestore d n true fence) s = .next u ∧ placed y rg r wit u))) ∧
  -- spill and refill
  (∀ (s : State) t, t < s.tileCount →
    let may : Prop := ownerFault (s.tile t) = true ∧ ownerHalted (s.tile t) = true
    (¬ may → exec (.matrixOwnerSpill t) s = .next s) ∧
    (may → ∃ u, exec (.matrixOwnerSpill t) s = .next u ∧ u.tile t = { s.tile t with row := RowEngine.clean (s.tile t).inst } ∧
      (∀ k, k ≠ t → u.tile k = s.tile k) ∧
      (∀ d, s.tileDomain t = some d → s.inst? d (s.tile t).row.owner = none → u.mem = s.mem ∧ u.insts = s.insts) ∧
      ∀ d x im, s.tileDomain t = some d → s.inst? d (s.tile t).row.owner = some x → x.save = some im →
        ∃ y im2, u.inst? d x.number = some y ∧ y.save = some im2 ∧ im2.tiles = im.tiles.map (fun st => if st.from' = t then { st with matrix := some (s.tile t).row } else st) ∧
          ∀ k, (im.dirty.findIdx? fun st => st.from' == t) = some k →
            let at' := im.sectionsAt + 22584 * k
            (∀ j, j < 22584 → (at' + j) / 16 ≠ (im.address + 6) / 16 → (u.mem.byte (at' + j)).toNat = (matrixBlob (s.tile t).row).val / 2 ^ (8 * j) % 2 ^ 8) ∧
            (∀ a, (a / 16 < at' / 16 ∨ at' + 22584 ≤ a / 16 * 16) → a / 16 ≠ (im.address + 6) / 16 → u.mem.byte a = s.mem.byte a) ∧ (u.mem.byte (im.address + 6)).toNat = im.evicted.toNat + 2)) ∧
  (∀ (s : State) t entry k, t < s.tileCount → entry % 64 = 0 → k < 2 →
    let parked (b : Bool) (u : State) : State := u.setQuery t k { u.query t k with parked := b }
    let answered : State := { s with refills := s.refills.filter s.refillStands }
    let held : Prop := (s.query t k).occupied = true
    (¬ held → exec (.refillRequest t (entry + k)) s = .next s) ∧
    (held → s.shardState t entry = some 3 → (t, entry) ∉ s.refills →
      exec (.refillRequest t (entry + k)) s = .next (parked true { s with refills := s.refills ++ [(t, entry)] })) ∧
    (held → s.shardState t entry = some 3 → (t, entry) ∈ s.refills → exec (.refillRequest t (entry + k)) s = .next (parked true s)) ∧
    (held → s.shardState t entry = some 4 → exec (.refillRequest t (entry + k)) s = .next (parked true answered)) ∧
    (held → s.shardState t entry ≠ some 3 → s.shardState t entry ≠ some 4 → exec (.refillRequest t (entry + k)) s = .next (parked false answered))) ∧
  (∀ (s : State) r, s.refillStands r = true ↔
    s.shardState r.1 r.2 = some 3 ∧ ∀ x ∈ s.refills, s.shardState x.1 x.2 = some 4 → s.pageNamed x ≠ s.pageNamed r) ∧
  (∀ tl k, forwardSlot tl = some k → k < 2 ∧ (tl.query k).occupied = true ∧ (tl.query k).parked = false ∧ (tl.query k).emit = none)

/-! ### Translations and keys (0x81) -/

/-- TLBIR starts an invalidation of its domain and delivers its count (R451); a cache that applies it holds no entry that it names, and keeps the others
(R452); TLBSY waits for those of its context and delivers the count once they have drained (R453). In which order TLBIR's operands are tested, and that each cache applies an invalidation at a move of its own, is
the model's reading (log 35). -/
def Obligations.InvalidationsDrain : Prop :=
  let wit (fr : Firing) : W64 := BitVec.ofNat 64 (fr.a64 2)
  let range (fr : Firing) : Prop := fr.a64 0 % 2 ^ 16 ≠ 0 ∨ fr.a64 1 % 2 ^ 16 ≠ 0 ∨ fr.b64 0 / 2 ^ 17 ≠ 0 ∨ ((fr.b64 0).testBit 16 = true ∧ fr.b64 0 % 2 ^ 16 ≠ 0)
  let count (s : State) (fr : Firing) : Nat := (s.ctx fr.t fr.c).tlbirs + 1
  let begun (s : State) (fr : Firing) : State :=
    let s1 := s.noteScope fr.t fr.c (wit fr)
    let v : Invalidation :=
      { id := s.nextInval, tile := fr.t, ctx := fr.c, count := count s fr, domain := (s.tileDomain fr.t).getD 0,
        asid := if (fr.b64 0).testBit 16 then none else some (fr.b64 0 % 2 ^ 16), page := fr.a64 0 / 2 ^ 16, pages := fr.a64 1 / 2 ^ 16, applied := [], old := [] }
    { s1.setCtx fr.t fr.c { s1.ctx fr.t fr.c with tlbirs := count s fr } with invals := s.invals ++ [v], nextInval := s.nextInval + 1 }
  Completes .tlbir (fun _ fr => fr.any = false) (fun s _ => s) ∧
  Halts .tlbir true (fun _ fr => fr.any = true ∧ range fr) (fun _ _ => { cls := 13, cause := 4 }) ∧
  Halts .tlbir true (fun s fr => fr.any = true ∧ ¬ range fr ∧ s.standing fr.t (wit fr) = .malformed) (fun _ fr => { cls := 7, cause := 1, witness := wit fr }) ∧
  LaneSpecOn .tlbir (fun s fr => fr.any = true ∧ ¬ range fr ∧ s.standing fr.t (wit fr) ≠ .malformed) begun Firing.as64 (fun s fr _ => count s fr) (fun _ _ _ => true)
    (fun _ _ _ => 0) ∧
  (∀ (s : State) id cache v, cache < 5464 → (s.invals.find? fun v => v.id = id) = some v → cache ∉ v.applied → s.cacheDomain cache = some v.domain →
    ∃ u, exec (.tlbInvalidateApply id cache) s = .next u ∧ u.mem = s.mem ∧ u.tiles = s.tiles ∧
      (∀ e, e ∈ u.tlb ↔ e ∈ s.tlb ∧ ¬ (e.cache = cache ∧ e.domain = v.domain ∧ v.names e.asid = true ∧ v.covers e.page = true)) ∧
      ∃ w, (u.invals.find? fun v => v.id = id) = some w ∧ w.applied = cache :: v.applied) ∧
  (∀ (s : State) id cache, cache < 5464 →
    ((s.invals.find? fun v => v.id = id) = none ∨ ∃ v, (s.invals.find? fun v => v.id = id) = some v ∧ (cache ∈ v.applied ∨ s.cacheDomain cache ≠ some v.domain)) →
    exec (.tlbInvalidateApply id cache) s = .next s) ∧
  (∀ f s fr, (Instr.tlbsy f).wf = true → s.firingOf (.tlbsy f) = some fr → fr.any = true →
    ∃ t r, exec (.tlbsy f) s = .next t ∧ AwaitEffect (.tlbsy f) s fr t ∧ t.requests = s.requests ++ [r] ∧ r.id = s.nextAccess ∧
      r.kind = .tlbsy (s.ctx fr.t fr.c).tlbirs ((s.undrained fr.t fr.c).map (·.id))) ∧
  (∀ (s : State) id r count ids, (s.requests.find? fun r => r.id = id) = some r → r.kind = .tlbsy count ids →
    (s.allDrained ids = false → exec (.tlbsyDrained id) s = .next s) ∧
    ∀ o, (s.outstanding.find? fun o => o.id = id) = some o → s.allDrained ids = true →
      exec (.tlbsyDrained id) s = .next (({ s with requests := s.requests.filter fun x => x.id != id } : State).sweepInvals.deliver o (List.replicate 8 count)))

/-- Key slots (R455-R457): the root lath assigns an unassigned slot, the lath of its domain loads or has derived a key into an empty one and clears it; each
fault of R456 stops the instruction and leaves the slot. A clear drops the translations that name the slot and ends when no access uses the key any more. A
loaded key names itself, as its bits plus one, so that equal key bits decrypt one another's data (R455, log 6). The order NOT_OWNER, STATE, WEAK, the bits of B that
are not looked at, and when a clear drops the translations, is the model's reading (log 36). -/
def Obligations.KeySlots : Prop :=
  let slot (s : State) (fr : Firing) : KeySlot := s.keySlot (fr.b64 0 % 256)
  let root (s : State) (fr : Firing) : Prop := s.fromRoot (.element fr.t fr.c) = true
  let owner (s : State) (fr : Firing) : Prop := (slot s fr).state ≠ .unassigned ∧ s.fromLath (.element fr.t fr.c) (some (slot s fr).domain) = true
  let weak (fr : Firing) : Prop := fr.a.val.extractLsb' 0 256 = fr.a.val.extractLsb' 256 256
  (∀ mk ∈ [Instr.ksltAssign, Instr.ksltLoad, Instr.ksltGenerate, Instr.ksltClear], Completes mk (fun _ fr => fr.any = false) (fun s _ => s)) ∧
  Halts .ksltAssign true (fun s fr => fr.any = true ∧ ¬ root s fr) (fun _ _ => { cls := 14, cause := 4 }) ∧
  Halts .ksltAssign true (fun s fr => fr.any = true ∧ root s fr ∧ (slot s fr).state ≠ .unassigned) (fun _ _ => { cls := 14, cause := 2 }) ∧
  Completes .ksltAssign (fun s fr => fr.any = true ∧ root s fr ∧ (slot s fr).state = .unassigned)
    (fun s fr => s.setKeySlot (fr.b64 0 % 256) { domain := fr.b64 0 / 2 ^ 8 % 16, state := .empty, key := 0, ident := 0, byRoot := false }) ∧
  (∀ mk ∈ [Instr.ksltLoad, Instr.ksltGenerate],
    Halts mk true (fun s fr => fr.any = true ∧ ¬ owner s fr) (fun _ _ => { cls := 14, cause := 1 }) ∧
    Halts mk true (fun s fr => fr.any = true ∧ owner s fr ∧ (slot s fr).state ≠ .empty) (fun _ _ => { cls := 14, cause := 2 })) ∧
  Halts .ksltLoad true (fun s fr => fr.any = true ∧ owner s fr ∧ (slot s fr).state = .empty ∧ weak fr) (fun _ _ => { cls := 14, cause := 3 }) ∧
  Completes .ksltLoad (fun s fr => fr.any = true ∧ owner s fr ∧ (slot s fr).state = .empty ∧ ¬ weak fr) (fun s fr => s.setKeySlot (fr.b64 0 % 256)
    { slot s fr with state := .loaded, key := fr.a.val, ident := fr.a.val.toNat + 1 }) ∧
  Completes .ksltGenerate (fun s fr => fr.any = true ∧ owner s fr ∧ (slot s fr).state = .empty) (fun s fr => { s.setKeySlot (fr.b64 0 % 256)
    { slot s fr with state := .loaded, key := Config.derivedKey s.free, ident := (Config.derivedKey s.free).toNat + 1 } with free := s.free + 1 }) ∧
  Halts .ksltClear true (fun s fr => fr.any = true ∧ ¬ root s fr ∧ ¬ owner s fr) (fun _ _ => { cls := 14, cause := 1 }) ∧
  Halts .ksltClear true (fun s fr => fr.any = true ∧ (root s fr ∨ owner s fr) ∧ (slot s fr).state ≠ .empty ∧ (slot s fr).state ≠ .loaded) (fun _ _ => { cls := 14, cause := 2 }) ∧
  Completes .ksltClear (fun s fr => fr.any = true ∧ (root s fr ∨ owner s fr) ∧ ((slot s fr).state = .empty ∨ (slot s fr).state = .loaded))
    (fun s fr => s.setKeySlot (fr.b64 0 % 256) { slot s fr with state := .clearing, byRoot := s.fromRoot (.element fr.t fr.c) }) ∧
  (∀ (s : State) k, k < 256 → (s.keySlot k).state ≠ .clearing → exec (.keyClearEnd k) s = .next s) ∧
  (∀ (s : State) k, k < 256 → (s.keySlot k).state = .clearing →
    ∃ u, exec (.keyClearEnd k) s = .next u ∧ u.mem = s.mem ∧ u.tiles = s.tiles ∧
      (∀ e ∈ u.tlb, encryptedTier (tierOf (e.leaf.frame * 2 ^ 16)) = true → e.leaf.key ≠ k) ∧
      (s.keyInUse (s.keySlot k).ident = true → u.keySlots = s.keySlots) ∧
      (s.keyInUse (s.keySlot k).ident = false → (u.keySlot k).key = 0 ∧
        ((s.keySlot k).byRoot = true → (u.keySlot k).state = .unassigned) ∧
        ((s.keySlot k).byRoot = false → (u.keySlot k).state = .empty ∧ (u.keySlot k).domain = (s.keySlot k).domain)))

/-! ### Domains and device registers (0x81, R443, R508) -/

/-- DCTL (R458): only the root lath fires it, its steps come in order, a wrong shape or a reserved bit stops it; DEFINE notes the target, QUIESCE ends at once
where nothing stands in the leaving sectors, and otherwise halts what runs there, with a record for each instance; SCRUB begins by invalidating the domain's
translations and ends with the leaving sectors clean and zeroed; SWITCH moves ownership at one instant, with the stencil pools of the moved columns empty (R418) and
the joining writers in the domain's open epoch (R459), and clears the key slots of a domain that it dissolves; RELOAD loads the lath image into the joining sectors or
notes why it could not. The order of the checks and what DEFINE admits are the model's reading (log 37), and so are the moves at which QUIESCE and SCRUB end (log 38);
where the image comes from and with what status it is refused is its choice (log 39). -/
def Obligations.DomainsResize : Prop :=
  let dom (fr : Firing) : Nat := fr.a64 0 % 16
  let inOrder (k : Nat) (s : State) (fr : Firing) : Prop :=
    if k = 0 then (s.domain (dom fr)).step ∈ [0, 5, 7] else (s.domain (dom fr)).step = k
  let reset (fr : Firing) : Bool := fr.f.imm.toNat.testBit 3
  let good (k : Nat) (s : State) (fr : Firing) : Prop :=
    fr.any = true ∧ s.fromRoot (.element fr.t fr.c) = true ∧ inOrder k s fr ∧ (k = 0 → s.badShape (dom fr) (shapeOf (fr.a64 0)) (reset fr) = false) ∧ fr.a64 0 / 2 ^ 14 = 0
  let runs (mk : Slot → Instr) (k : Nat) (cond : State → Firing → Prop) (post : State → Firing → State → Prop) : Prop :=
    ∀ f s fr, (mk f).wf = true → s.firingOf (mk f) = some fr → good k s fr → cond s fr →
      ∃ t, exec (mk f) s = .next t ∧ SameRegisters (mk f) s t fr ∧ t.firstDctl = true ∧ post s fr t
  (∀ p ∈ [(Instr.dctlDefine, 0), (Instr.dctlQuiesce, 1), (Instr.dctlScrub, 2), (Instr.dctlSwitch, 3), (Instr.dctlReload, 4)],
    Completes p.1 (fun _ fr => fr.any = false) (fun s _ => s) ∧
    Halts p.1 true (fun s fr => fr.any = true ∧ s.fromRoot (.element fr.t fr.c) = false) (fun _ _ => { cls := 13, cause := 1 }) ∧
    Halts p.1 true (fun s fr => fr.any = true ∧ s.fromRoot (.element fr.t fr.c) = true ∧ ¬ inOrder p.2 s fr) (fun _ _ => { cls := 13, cause := 2 }) ∧
    Halts p.1 true (fun s fr => fr.any = true ∧ s.fromRoot (.element fr.t fr.c) = true ∧ inOrder p.2 s fr ∧
      (p.2 = 0 → s.badShape (dom fr) (shapeOf (fr.a64 0)) (reset fr) = false) ∧ fr.a64 0 / 2 ^ 14 ≠ 0) (fun _ _ => { cls := 13, cause := 4 })) ∧
  Halts .dctlDefine true (fun s fr => fr.any = true ∧ s.fromRoot (.element fr.t fr.c) = true ∧ inOrder 0 s fr ∧ s.badShape (dom fr) (shapeOf (fr.a64 0)) (reset fr) = true)
    (fun _ _ => { cls := 13, cause := 3 }) ∧
  runs .dctlDefine 0 (fun _ _ => True) (fun s fr t => t.mem = s.mem ∧ (t.domain (dom fr)).step = 1 ∧ (t.domain (dom fr)).target = shapeOf (fr.a64 0) ∧
    (t.domain (dom fr)).shape = (s.domain (dom fr)).shape ∧ (∀ d, d ≠ dom fr → t.domain d = s.domain d) ∧
    ((s.domain (dom fr)).shape.w ≠ 0 → t.domain (dom fr) =
      { s.domain (dom fr) with target := shapeOf (fr.a64 0), step := 1, resetting := reset fr, measure := if reset fr then 0 else (s.domain (dom fr)).measure }) ∧
    ((s.domain (dom fr)).shape.w = 0 → (t.domain (dom fr)).measure = 0 ∧ (t.domain (dom fr)).lastInst = 0 ∧ (t.domain (dom fr)).fallback = false ∧
      (t.domain (dom fr)).asidTable = 0 ∧ (t.domain (dom fr)).div = 2 ∧ (t.domain (dom fr)).reserveLevel = 1 ∧ t.faultQueue (dom fr) = FaultQueue.clean ∧
      ∀ x ∈ t.insts, x.domain ≠ dom fr)) ∧
  (∀ f s fr, (Instr.dctlQuiesce f).wf = true → s.firingOf (.dctlQuiesce f) = some fr → good 1 s fr →
    ∃ t, exec (.dctlQuiesce f) s = .next t ∧ t.firstDctl = true ∧ (t.domain (dom fr)).shape = (s.domain (dom fr)).shape ∧
      (t.domain (dom fr)).target = (s.domain (dom fr)).target ∧
      ((s.domain (dom fr)).resetting = false → ∀ x, s.inst? (dom fr) x.number = some x → x.phase ≠ .retired → (∃ k ∈ x.region, (s.domain (dom fr)).leaving.contains (sectorOf k) = true) →
        (∃ r ∈ t.records, r.cls = 13 ∧ r.cause = 5 ∧ r.inst = x.number ∧ r.halted = false) ∧
        (x.phase = .running → ∃ y, t.inst? (dom fr) x.number = some y ∧ y.phase = .halting))) ∧
  runs .dctlQuiesce 1 (fun s fr => ∀ x ∈ s.insts, x.domain ≠ dom fr) (fun s fr t => t.mem = s.mem ∧ t.insts = s.insts ∧
    (s.quiet (dom fr) = true → (t.domain (dom fr)).step = 2 ∧ (t.domain (dom fr)).busy = false) ∧
    (s.quiet (dom fr) = false → (t.domain (dom fr)).step = 1 ∧ (t.domain (dom fr)).busy = true)) ∧
  runs .dctlScrub 2 (fun _ _ => True) (fun s fr t => t.mem = s.mem ∧ (t.domain (dom fr)).busy = true ∧
    ∃ v r, t.invals = s.invals ++ [v] ∧ t.requests = s.requests ++ [r] ∧ r.id = s.nextAccess ∧ r.kind = .scrub (dom fr) v.id ∧ v.domain = dom fr ∧ v.asid = none ∧ v.pages = 0) ∧
  (∀ (s : State) id r d v, (s.requests.find? fun r => r.id = id) = some r → r.kind = .scrub d v → s.allDrained [v] = true →
    ∃ u, exec (.tlbsyDrained id) s = .next u ∧ (u.domain d).step = 3 ∧ (u.domain d).busy = false ∧ (u.domain d).shape = (s.domain d).shape ∧
      (∀ sec ∈ (s.domain d).leaving, sec < 16 → ∀ t off, t < s.tileCount → sectorOf t = sec → off < 2 ^ 18 → u.mem.byte (padPA t off) = 0 ∧
        u.mem.isFull (padPA t off / 16) = false) ∧
      (∀ sec ∈ (s.domain d).leaving, (∀ c off, c < 64 → sectorOfColumn c = sec → off < 2 ^ 25 → u.mem.byte (vaultPA c off) = 0 ∧ u.mem.isFull (vaultPA c off / 16) = false) ∧
        (∀ off, off < s.nearDramSize → u.mem.byte (2 * 2 ^ 48 + sec * 2 ^ 33 + off) = 0) ∧
        ∀ t c, t < s.tileCount → sectorOf t = sec → c < 8 → u.ctx t c = Tile.clean.ctx c) ∧
      (∀ a, (∀ sec ∈ (s.domain d).leaving, (∀ t off, t < s.tileCount → sectorOf t = sec → off < 2 ^ 18 → a ≠ padPA t off) ∧
          (∀ c off, c < 64 → sectorOfColumn c = sec → off < 2 ^ 25 → a ≠ vaultPA c off) ∧ ∀ off, off < s.nearDramSize → a ≠ 2 * 2 ^ 48 + sec * 2 ^ 33 + off) →
        u.mem.byte a = s.mem.byte a)) ∧
  Halts .dctlSwitch true (fun s fr => good 3 s fr ∧ ∃ sec ∈ (s.domain (dom fr)).joining, s.domainOf sec ≠ none ∧ s.domainOf sec ≠ some (dom fr)) (fun _ _ => { cls := 13, cause := 2 }) ∧
  runs .dctlSwitch 3 (fun s fr => ∀ sec ∈ (s.domain (dom fr)).joining, s.domainOf sec = none ∨ s.domainOf sec = some (dom fr)) (fun s fr t =>
    (t.domain (dom fr)).step = 4 ∧ (t.domain (dom fr)).shape = (s.domain (dom fr)).target ∧ (t.domain (dom fr)).joined = (s.domain (dom fr)).joining ∧
    (∀ d, d ≠ dom fr → t.domain d = s.domain d) ∧ ((s.domain (dom fr)).shape.w ≠ 0 ∨ (s.domain (dom fr)).target.w = 0 → t.mem = s.mem) ∧
    ((s.domain (dom fr)).shape.w = 0 → (s.domain (dom fr)).target.w ≠ 0 → t.mem = s.mem.putBlob 0 (mailboxPA (dom fr)) ⟨32, 0⟩) ∧
    (∀ c, c < 64 → sectorOfColumn c ∈ (s.domain (dom fr)).leaving ++ (s.domain (dom fr)).joining → t.stencil c = Stencil.clean) ∧
    (∀ w ∈ s.writerList, ∀ sec ∈ (s.domain (dom fr)).joining, writerSector w = some sec → t.view w 4 = (s.group 4 (dom fr)).opened) ∧
    ((s.domain (dom fr)).target.w ≠ 0 → t.keySlots = s.keySlots) ∧
    ((s.domain (dom fr)).target.w = 0 → ∀ k, k < 256 → t.keySlot k = if (s.keySlot k).domain = dom fr ∧ (s.keySlot k).state ≠ .unassigned then
      { s.keySlot k with state := .clearing, byRoot := true } else s.keySlot k)) ∧
  runs .dctlReload 4 (fun s fr => (s.domain (dom fr)).joined = []) (fun s fr t => t.mem = s.mem ∧ (t.domain (dom fr)).step = 5) ∧
  (∀ code, runs .dctlReload 4 (fun s fr => (s.domain (dom fr)).joined ≠ [] ∧ s.lathFail (dom fr) (s.domain (dom fr)).shape (s.lathImage (dom fr)) = some code)
    (fun s fr t => t.mem = s.mem ∧ (t.domain (dom fr)).step = 7 ∧ SMap.get t.loaderStatus (dom fr) 0 = code)) ∧
  (∀ f s fr im, (Instr.dctlReload f).wf = true → s.firingOf (.dctlReload f) = some fr → good 4 s fr → (s.domain (dom fr)).joined ≠ [] → s.lathImage (dom fr) = some im →
    s.lathFail (dom fr) (s.domain (dom fr)).shape (some im) = none → ∃ t, exec (.dctlReload f) s = .next t ∧ (t.domain (dom fr)).step = 5 ∧ (t.domain (dom fr)).joined = [] ∧
      (t.domain (dom fr)).shape = (s.domain (dom fr)).shape ∧
      let s1 : State := { s with firstDctl := true }
      let loaded := (s1.loadLath (dom fr) im.parse.1 (s.domain (dom fr)).joined).measureLoad (dom fr) im.parse.1 im.id
      t = ((loaded.setDomain (dom fr) { loaded.domain (dom fr) with step := 5, joined := [] }).noteAllReady).finished (.dctlReload f) s fr) ∧
  -- why a lath image is refused, and where it stands
  (∀ (s : State) d sh im, s.lathFail d sh (some im) = none ↔ loadCheck s.variant sh.sites (s.signatureOk d im) im = none ∧ im.parse.1.lath = true ∧
    (im.parse.1.level = 4 → im.parse.1.w ≤ sh.w ∧ im.parse.1.h ≤ sh.h) ∧ (im.parse.1.level = 5 → sh.sectors.length = 16)) ∧
  (∀ (s : State) d g secs, s.lathGroups d g secs =
    if g.level ≤ 3 then secs.map fun sec => ((12 * (sec % 4), 12 * (sec / 4)), [sec])
    else if g.level = 4 then [((12 * (s.domain d).shape.x0, 12 * (s.domain d).shape.y0), secs)] else [((0, 0), secs)])

/-- Stores to the device registers (R4, R225, R243, R350, R376, R443, R444, R460, R465, R508): each register takes what its rule allows from the issuer that
its rule names; every other store leaves the machine as it was, and a register that an issuer may not read reads 0. A flush of the cache slices of the issuer's
domain that MASK names ends by MSC_FLUSH_COMPLETE (R234). QUEUE_CTL, STENCIL_CTL and TILE_HEALTH have statements of their own. That a
store to INGRESS_CTL with an ENTRY_TILE above 4,607 is discarded (log 21), and what makes an attestation an ERROR (log 42), is the model's choice. -/
def Obligations.DeviceRegisters : Prop :=
  (∀ (s : State) src a (v : BitVec 64), tierOf a = 8 → a % 8 = 0 → exec (.registerWrite src a v) s = .next (s.storeRegister src (a % 2 ^ 48) v)) ∧
  (∀ (s : State) src a (v : BitVec 64), tierOf a ≠ 8 → exec (.registerWrite src a v) s = .next s) ∧
  (∀ (s : State) src off v, (regAt off = none ∨ off < 32) → s.storeRegister src off v = s) ∧
  (∀ (s : State) src (v : BitVec 64) k, s.storeReg src (.mscHits k) v = s ∧ s.storeReg src (.mscMisses k) v = s ∧ s.storeReg src (.schedStatus k) v = s ∧
    s.storeReg src (.domState k) v = s ∧ s.storeReg src (.keyOwner k) v = s ∧ s.storeReg src (.sectorHealth k) v = s) ∧
  (∀ (s : State) src off r (v : BitVec 64), regAt off = some r → s.storeRegister src off v = s.storeReg src r v) ∧
  (∀ (s : State) src off r, regAt off = some r → s.mayRead src r = false → s.loadRegister src off = 0) ∧
  (∀ (s : State) src off r, regAt off = some r → s.mayRead src r = true → s.loadRegister src off = s.regValue r) ∧
  (∀ (s : State) src d (v : BitVec 64), d < 16 →
    (s.fromLath src (some d) = false → exec (.domCtlWrite src d v) s = .next s ∧ exec (.domTrustWrite src d v) s = .next s ∧ exec (.energyCtlWrite src d v) s = .next s ∧
      exec (.attestReport src d v) s = .next s ∧ exec (.attestPublicKey src d v) s = .next s ∧ s.storeHaltCtl src d v = s ∧ s.storeFaultCtl src d v = s) ∧
    (s.fromRoot src = false → exec (.domShareWrite src d v) s = .next s ∧ ∀ n, n < 32 → exec (.ingressCtlWrite src n v) s = .next s) ∧
    (s.fromLath src (some d) = true →
      (2 ≤ v.toNat / 2 ^ 36 % 16 → v.toNat / 2 ^ 36 % 16 ≤ 8 → v.toNat / 2 ^ 40 % 4 = 1 ∨ v.toNat / 2 ^ 40 % 4 = 2 → ∃ u, exec (.domCtlWrite src d v) s = .next u ∧ u.mem = s.mem ∧
        u.tiles = s.tiles ∧ (∀ e, e ≠ d → u.domain e = s.domain e) ∧ u.domain d = { s.domain d with asidTable := v.toNat % 2 ^ 36, div := v.toNat / 2 ^ 36 % 16, reserveLevel := v.toNat / 2 ^ 40 % 4 }) ∧
      (v.toNat / 2 ^ 36 % 16 < 2 ∨ 8 < v.toNat / 2 ^ 36 % 16 ∨ v.toNat / 2 ^ 40 % 4 = 0 ∨ v.toNat / 2 ^ 40 % 4 = 3 → exec (.domCtlWrite src d v) s = .next s) ∧
      (v.toNat / 2 ^ 36 % 128 ≤ 64 → exec (.domTrustWrite src d v) s = .next (s.setDomain d
        { s.domain d with trustTable := v.toNat % 2 ^ 36, trustCount := v.toNat / 2 ^ 36 % 128 })) ∧
      (64 < v.toNat / 2 ^ 36 % 128 → exec (.domTrustWrite src d v) s = .next s) ∧
      (v.toNat / 2 ^ 32 % 2 ^ 16 ≠ 0 → ∃ u, exec (.energyCtlWrite src d v) s = .next u ∧ u.mem = s.mem ∧ (u.schedOf d).budget = v.toNat % 2 ^ 32 ∧
        (u.schedOf d).window = v.toNat / 2 ^ 32 % 2 ^ 16 ∧ (u.schedOf d).windowStart = s.ns ∧ (u.schedOf d).reserved = 0 ∧ (u.schedOf d).used = 0 ∧
        u.pool = s.pool.map fun e => if e.domain = d then { e with deferred := false } else e) ∧
      (v.toNat / 2 ^ 32 % 2 ^ 16 = 0 → exec (.energyCtlWrite src d v) s = .next s) ∧
      (SMap.get s.halts d 0 = 0 → (s.inst? d v.toNat).isSome = true → s.storeHaltCtl src d v = { s with halts := SMap.set s.halts d v.toNat }) ∧
      (SMap.get s.halts d 0 ≠ 0 ∨ (s.inst? d v.toNat).isSome = false → s.storeHaltCtl src d v = s) ∧
      s.storeFaultCtl src d v = { s with faultQueues := SMap.set s.faultQueues d { s.faultQueue d with brkpEn := v.toNat.testBit 0 } } ∧
      (s.attestOp d v = 1 → exec (.attestPublicKey src d v) s = .next (s.storeAttestCtl src d v) ∧ exec (.attestReport src d v) s = .next s) ∧
      (s.attestOp d v ≠ 1 → exec (.attestReport src d v) s = .next (s.storeAttestCtl src d v) ∧ exec (.attestPublicKey src d v) s = .next s) ∧
      (attestAnswer s d (v.toNat % 2 ^ 52) = none → s.storeAttestCtl src d v = { s with attestError := NSet.insert s.attestError d }) ∧
      (∀ dest out, attestAnswer s d (v.toNat % 2 ^ 52) = some (dest, out) → (s.storeAttestCtl src d v).mem =
        (s.mem.write dest out.len out.val).cleanRange dest out.len)) ∧
    (s.fromRoot src = true →
      (∀ n, n < 32 → v.toNat / 2 ^ 5 % 2 ^ 13 ≤ 4607 → exec (.ingressCtlWrite src n v) s = .next (s.setPort n
        { s.port n with domain := v.toNat % 16, enable := v.toNat.testBit 4, entryTile := v.toNat / 2 ^ 5 % 2 ^ 13 })) ∧
      (∀ n, n < 32 → 4607 < v.toNat / 2 ^ 5 % 2 ^ 13 → exec (.ingressCtlWrite src n v) s = .next s) ∧
      (let total (get : Domain → Nat) : Nat := ((List.range 16).filter (· != d)).foldl (fun acc k => acc + get (s.domain k)) 0
       v.toNat % 128 + total (·.shareHost) ≤ 64 → v.toNat / 2 ^ 7 % 128 + total (·.shareLpddr) ≤ 64 → v.toNat / 2 ^ 14 % 128 + total (·.shareCxl) ≤ 64 →
       v.toNat / 2 ^ 21 % 2 ^ 15 ≤ 16383 → v.toNat / 2 ^ 36 % 2 ^ 15 ≤ 16384 →
       (v.toNat / 2 ^ 36 % 2 ^ 15 ≠ 0 → (v.toNat / 2 ^ 7 % 128 = 0 → 1024 ≤ v.toNat / 2 ^ 21 % 2 ^ 15) ∧
         (v.toNat / 2 ^ 14 % 128 = 0 → v.toNat / 2 ^ 21 % 2 ^ 15 + v.toNat / 2 ^ 36 % 2 ^ 15 ≤ 1024)) → exec (.domShareWrite src d v) s = .next (s.setDomain d
         { s.domain d with shareHost := v.toNat % 128, shareLpddr := v.toNat / 2 ^ 7 % 128, shareCxl := v.toNat / 2 ^ 14 % 128, farBase := v.toNat / 2 ^ 21 % 2 ^ 15,
                           farSize := v.toNat / 2 ^ 36 % 2 ^ 15 })) ∧
      (let total (get : Domain → Nat) : Nat := ((List.range 16).filter (· != d)).foldl (fun acc k => acc + get (s.domain k)) 0
       64 < v.toNat % 128 + total (·.shareHost) ∨ 64 < v.toNat / 2 ^ 7 % 128 + total (·.shareLpddr) ∨ 64 < v.toNat / 2 ^ 14 % 128 + total (·.shareCxl) ∨
       16383 < v.toNat / 2 ^ 21 % 2 ^ 15 ∨ 16384 < v.toNat / 2 ^ 36 % 2 ^ 15 ∨ (v.toNat / 2 ^ 36 % 2 ^ 15 ≠ 0 ∧
         ((v.toNat / 2 ^ 7 % 128 = 0 ∧ v.toNat / 2 ^ 21 % 2 ^ 15 < 1024) ∨ (v.toNat / 2 ^ 14 % 128 = 0 ∧ 1024 < v.toNat / 2 ^ 21 % 2 ^ 15 + v.toNat / 2 ^ 36 % 2 ^ 15))) →
       exec (.domShareWrite src d v) s = .next s))) ∧
  (∀ (s : State) src l (v : BitVec 64), 2 ≤ l → l ≤ 8 →
    (s.fromRoot src = false ∨ s.firstDctl = true ∨ 5 < l ∨ v.toNat % 2 ^ 16 < 16 ∨ (∃ k, 2 ≤ k ∧ k ≤ 7 ∧
        at9 (set9 s.periods l (v.toNat % 2 ^ 16)) (k + 1) < at9 (set9 s.periods l (v.toNat % 2 ^ 16)) k) → exec (.epochPeriodWrite src l v) s = .next s) ∧
    (s.fromRoot src = true → s.firstDctl = false → l ≤ 5 → 16 ≤ v.toNat % 2 ^ 16 → (∀ k, 2 ≤ k → k ≤ 7 →
        at9 (set9 s.periods l (v.toNat % 2 ^ 16)) k ≤ at9 (set9 s.periods l (v.toNat % 2 ^ 16)) (k + 1)) →
      exec (.epochPeriodWrite src l v) s = .next { s with periods := set9 s.periods l (v.toNat % 2 ^ 16) })) ∧
  (∀ (s : State) src (v : BitVec 64), (s.flush.isSome = true → exec (.mscfFlush src v) s = .next s) ∧
    (s.flush = none → ∃ u mask, exec (.mscfFlush src v) s = .next u ∧ u = { s with flush := some (mask, v.toNat.testBit 16) } ∧ u.loadMscf.testBit 63 = true ∧
      mask < 2 ^ 16 ∧ ∀ k, k < 16 → mask.testBit k = (v.toNat.testBit k && s.domainOf k == s.issuerDomain src && (s.issuerDomain src).isSome))) ∧
  (∀ s : State, exec .mscFlushComplete s = .next { s with flush := none } ∧ ({ s with flush := none } : State).loadMscf = 0)

/-! ### Energy, faults, recovery (0x82, 0x83, R29-R31, R465-R488) -/

/-- ECNT delivers the counters that IMM names, read when the meters stand at some value that no counter falls below (R466; what the meters add is a free
value, log 17). -/
def Obligations.EnergyCounters : Prop :=
  let dom (s : State) (fr : Firing) : Nat := (s.tileDomain fr.t).getD 0
  let read (s : State) (fr : Firing) : State := s.meter (dom s fr) (sectorOf fr.t) (s.tile fr.t).inst
  let vals (s : State) (fr : Firing) : List Nat :=
    let sc := (read s fr).schedOf (dom s fr)
    if fr.f.imm.toNat % 4 = 0 then [sc.total, sc.used, sc.budget, sc.windows]
    else if fr.f.imm.toNat % 4 = 1 then [(((read s fr).inst? (dom s fr) (s.tile fr.t).inst).map fun x : Inst => x.energy).getD 0]
    else [SMap.get (read s fr).sectorEnergy (sectorOf fr.t) 0]
  LaneSpecOn .ecnt (fun _ fr => fr.any = true) read Firing.as64 (fun s fr j => (vals s fr).getD j 0 % 2 ^ 64) (fun s fr j => (vals s fr).getD j 0 % 2 ^ 64 != 0) (fun _ _ _ => 0) ∧
  (∀ (s : State) d sec n, (s.schedOf d).total ≤ ((s.meter d sec n).schedOf d).total ∧ (s.schedOf d).used ≤ ((s.meter d sec n).schedOf d).used ∧
    SMap.get s.sectorEnergy sec 0 ≤ SMap.get (s.meter d sec n).sectorEnergy sec 0 ∧ (s.meter d sec n).mem = s.mem ∧ (s.meter d sec n).tiles = s.tiles)

/-- A record enters the queue of its domain with the next SERIAL, is lost and counted when the queue is full and the record halts nothing, and one of a
root-lath context leaves by the management port (R472), with the next SERIAL of domain 0 (R470); a context that is halted learns the SERIAL of its latest record (R475). FREC delivers the beat asked for of the oldest record, and with POP takes it from the queue; it waits while there is none (R474). -/
def Obligations.FaultQueues : Prop :=
  (∀ (s : State) d r, d < 16 → s.nextRecordFor d s.records [] = some r → s.route r = .queue d →
    ((s.faultQueue d).records.length < 1024 →
      ∃ u x, exec (.faultRecordEnqueue d) s = .next u ∧ u.mem = s.mem ∧ u.records = s.records.filter (fun y => y.number != r.number) ∧
        (u.faultQueue d).records = (s.faultQueue d).records ++ [x] ∧ x = { r with serial := (s.faultQueue d).lastSerial + 1, lost := (s.faultQueue d).markLost } ∧
        (u.faultQueue d).lastSerial = (s.faultQueue d).lastSerial + 1 ∧ (u.faultQueue d).markLost = false ∧
        ∀ h c, r.source < 4608 → c < 8 → (s.ctx r.source c).halt = some h → (u.ctx r.source c).halt =
          some (if h.record = r.number ∨ (h.record < r.number ∧ r.ctx = c) then { h with serial := (s.faultQueue d).lastSerial + 1 } else h)) ∧
    (1024 ≤ (s.faultQueue d).records.length → r.halted = false ∧
      ∃ u, exec (.faultRecordEnqueue d) s = .next u ∧ u.mem = s.mem ∧ u.tiles = s.tiles ∧ u.records = s.records.filter (fun y => y.number != r.number) ∧
        (u.faultQueue d).records = (s.faultQueue d).records ∧ (u.faultQueue d).lost = min ((s.faultQueue d).lost + 1) 0xFFFF ∧ (u.faultQueue d).markLost = true)) ∧
  (∀ (s : State) d r, d < 16 → s.nextRecordFor d s.records [] = some r → s.route r = .management →
    let serial := (s.faultQueue 0).lastSerial + 1
    ∃ u, exec (.faultRecordEnqueue d) s = .next u ∧ u.mem = s.mem ∧ u.records = s.records.filter (fun y => y.number != r.number) ∧
      u.management = s.management ++ [.record { r with serial := serial }] ∧ u.faultQueue 0 = { s.faultQueue 0 with lastSerial := serial } ∧
      (∀ e, e ≠ 0 → u.faultQueue e = s.faultQueue e) ∧
      ∀ h c, r.source < 4608 → c < 8 → (s.ctx r.source c).halt = some h → (u.ctx r.source c).halt =
        some (if h.record = r.number ∨ (h.record < r.number ∧ r.ctx = c) then { h with serial := serial } else h)) ∧
  (∀ (s : State) d, d < 16 → s.nextRecordFor d s.records [] = none → exec (.faultRecordEnqueue d) s = .next s) ∧
  (∀ f s, (s.faultQueue ((s.tileDomain s.cur.tile).getD 0)).records = [] → exec (.frec f) s = .next s) ∧
  LaneSpecOn .frec (fun _ fr => fr.any = false) (fun s _ => s) (fun fr => { fr with w := 32 }) (fun _ _ _ => 0) (fun _ _ _ => false) (fun _ _ _ => 0) ∧
  Halts .frec true (fun _ fr => fr.any = true ∧ fr.a64 0 / 8 ≠ 0) (fun _ _ => { cls := 13, cause := 4 }) ∧
  (∀ r rest, LaneSpecOn .frec (fun s fr => fr.any = true ∧ fr.a64 0 / 8 = 0 ∧ (s.faultQueue ((s.tileDomain fr.t).getD 0)).records = r :: rest)
    (fun s fr =>
      let d := (s.tileDomain fr.t).getD 0
      if (fr.a64 0).testBit 2 then { s with faultQueues := SMap.set s.faultQueues d { s.faultQueue d with records := rest } } else s)
    (fun fr => { fr with w := 32 }) (fun _ fr l => lane 32 (r.beat (fr.a64 0 % 4)) l) (fun _ fr l => lane 32 (r.beat (fr.a64 0 % 4)) l != 0) (fun _ _ _ => 0)) ∧
  (∀ r : FaultRecord, r.source < 2 ^ 16 → r.ctx < 2 ^ 8 → r.slot < 2 ^ 8 → r.cls < 2 ^ 8 → r.cause < 2 ^ 8 → r.serial < 2 ^ 64 →
    lane 32 (r.beat 0) 0 = r.source + r.ctx * 2 ^ 16 + r.slot * 2 ^ 24 ∧ lane 64 (r.beat 0) 1 = r.serial ∧ lane 64 (r.beat 0) 4 = r.witness.toNat ∧
    lane 64 (r.beat 0) 5 = r.haltWit.toNat ∧ lane 32 (r.beat 0) 1 = r.cls + r.cause * 2 ^ 8 + r.flags * 2 ^ 16)

/-- FRSM acts on a context halted by a fault of the issuer's domain, whose SERIAL it names (R475): RETRY re-arms it, and it resumes once the witness given is
not pending, its registers as they were; a context of the root lath stays halted until the module is reset (R472); RETIRE retires it; KILL retires its instance. A SERIAL that is not the halt's, or a context that is not halted,
leaves the machine as it was. That the rows have meanings of their own, of which each acts on its ACTION alone, and that a KILL of a context of no instance has no
effect, is the model's reading (log 40). -/
def Obligations.Rearming : Prop :=
  let wit (fr : Firing) : W64 := BitVec.ofNat 64 (fr.a64 2)
  let bad (s : State) (fr : Firing) : Prop := fr.a64 0 / 2 ^ 18 ≠ 0 ∨ s.standing fr.t (wit fr) = .malformed
  let action (fr : Firing) : Nat := fr.a64 0 / 2 ^ 16 % 4
  let tile (fr : Firing) : Nat := fr.a64 0 % 2 ^ 13
  let ctx (fr : Firing) : Nat := fr.a64 0 / 2 ^ 13 % 8
  (∀ mk ∈ [Instr.frsmRetry, Instr.frsmRetire, Instr.frsmKill],
    Completes mk (fun _ fr => fr.any = false) (fun s _ => s) ∧
    Halts mk true (fun _ fr => fr.any = true ∧ fr.a64 0 / 2 ^ 18 ≠ 0) (fun _ _ => { cls := 13, cause := 4 }) ∧
    Halts mk true (fun s fr => fr.any = true ∧ fr.a64 0 / 2 ^ 18 = 0 ∧ s.standing fr.t (wit fr) = .malformed) (fun _ fr => { cls := 7, cause := 1, witness := wit fr })) ∧
  (∀ p ∈ [(Instr.frsmRetry, 0), (Instr.frsmRetry, 1), (Instr.frsmRetry, 2), (Instr.frsmRetire, 1), (Instr.frsmKill, 2)],
    Completes p.1 (fun s fr => fr.any = true ∧ ¬ bad s fr ∧ action fr = p.2 ∧ s.frsmTarget fr (frsmAsk fr) = none) (fun s _ => s)) ∧
  Completes .frsmRetry (fun s fr => fr.any = true ∧ ¬ bad s fr ∧ action fr = 3) (fun s _ => s) ∧
  (∀ p ∈ [(Instr.frsmRetire, 1), (Instr.frsmKill, 2)], ∀ f s fr, (p.1 f).wf = true → s.firingOf (p.1 f) = some fr → fr.any = true → ¬ bad s fr → action fr ≠ p.2 →
    exec (p.1 f) s = .next s) ∧
  (∀ mk ∈ [Instr.frsmRetry, Instr.frsmKill], ∀ h, Completes mk (fun s fr => fr.any = true ∧ ¬ bad s fr ∧ action fr = 2 ∧ s.frsmTarget fr (frsmAsk fr) = some h ∧
      (s.tile (tile fr)).inst = 0) (fun s _ => s)) ∧
  (∀ mk ∈ [Instr.frsmRetry, Instr.frsmRetire], ∀ h, Completes mk (fun s fr => fr.any = true ∧ ¬ bad s fr ∧ action fr = 1 ∧ s.frsmTarget fr (frsmAsk fr) = some h)
    (fun s fr => s.retireCtx (tile fr) (ctx fr))) ∧
  (∀ mk ∈ [Instr.frsmRetry, Instr.frsmKill], ∀ h, Completes mk (fun s fr => fr.any = true ∧ ¬ bad s fr ∧ action fr = 2 ∧ s.frsmTarget fr (frsmAsk fr) = some h ∧
      (s.tile (tile fr)).inst ≠ 0)
    (fun s fr => s.releaseInst ((s.tileDomain (tile fr)).getD 0) (s.tile (tile fr)).inst true)) ∧
  (∀ h, Completes .frsmRetry (fun s fr => fr.any = true ∧ ¬ bad s fr ∧ action fr = 0 ∧ s.frsmTarget fr (frsmAsk fr) = some h)
    (fun s fr => (s.setCtx (tile fr) (ctx fr) { s.ctx (tile fr) (ctx fr) with halt := some { h with rearm := some (wit fr) } }).wake (tile fr))) ∧
  (∀ (s : State) fr k h, s.frsmTarget fr k = some h ↔ k.tile < s.tileCount ∧ (s.ctx k.tile k.ctx).run = .halted ∧ s.rootCtx k.tile k.ctx = false ∧
    (s.tileDomain k.tile = s.tileDomain fr.t ∨ s.fromRoot (.element fr.t fr.c) = true) ∧ (s.ctx k.tile k.ctx).halt = some h ∧ (k.serial = 0 ∨ h.serial = k.serial)) ∧
  (∀ (s : State) t c h w, c < 8 → (s.ctx t c).run = .halted → (s.ctx t c).halt = some h → h.rearm = some w → h.reissue = [] → h.skimSlots = [] →
    (∀ k, k < 8 → k ≠ c → (s.ctx t k).halt = none) →
    let s1 := s.noteLift t w
    (s1.standing t w = .pending → s.wake t = s1) ∧
    (s1.standing t w ≠ .pending → ((s.wake t).ctx t c).run = .runnable ∧ ((s.wake t).ctx t c).d = (s.ctx t c).d ∧ ((s.wake t).ctx t c).p = (s.ctx t c).p ∧
      ((s.wake t).ctx t c).ins = (s.ctx t c).ins ∧ ((s.wake t).ctx t c).outs = (s.ctx t c).outs ∧ ((s.wake t).ctx t c).halt = none ∧
      (h.chain = true → ((s.wake t).ctx t c).chainFault = none) ∧ (s.wake t).mem = s.mem))

/-- Errors of the hardware (R468, R479-R488): an uncorrectable one poisons the granules of its code word, the line of a cache slice, the beat or the skim slot that it strikes, halts
the contexts of an element, or is a comparator's finding, and is counted, and reported where the scrub finds it; a corrected one is counted; logic errors halt every context of the element with one record; a
tile that holds nothing is retired, by a spare of its column with an empty pad or for good with a replacement request, and of one retired already only REASON
changes. Links: a retry is counted, after 16 the link goes on at half width, and a link that fails retraining is down and reported, and retires the tiles at its
ends. The places that an error may strike, and that a finding of a comparator is one of them, are the model's choice (log 18). -/
def Obligations.HardwareErrors : Prop :=
  let struck (k : Nat) (xs ys : List Beat) : Prop := ys.length = xs.length ∧ ∀ j b, xs[j]? = some b → ys[j]? = some (if j = k then { b with poison := true } else b)
  (∀ (s : State) p, s.hasPlace p = true →
    exec (.scrubPass p false false) s = .next s ∧
    (∃ u, exec (.scrubPass p true false) s = .next u ∧ u.mem = s.mem ∧ u.records = s.records ∧ (∀ t c, u.ctx t c = s.ctx t c) ∧
      (∀ sec, s.placeSector p = some sec → SMap.get u.sectorCe sec 0 = min (SMap.get s.sectorCe sec 0 + 1) (2 ^ 24 - 1)) ∧
      ∀ t, placeTile p = some t → (u.tile t).health.ceCount = min ((s.tile t).health.ceCount + 1) 0xFFFF) ∧
    ∀ corrected, ∃ u, exec (.scrubPass p corrected true) s = .next u ∧ (∀ a, u.mem.byte a = s.mem.byte a) ∧
      (∀ sec, s.placeSector p = some sec → SMap.get u.sectorUe sec 0 = min (SMap.get s.sectorUe sec 0 + 1) 0xFFFF)) ∧
  (∀ (s : State) g scrub corrected, ∃ u, exec (.scrubPass (.granule g scrub) corrected true) s = .next u ∧ u.tiles = s.tiles ∧
    (∀ h, u.mem.isPoison h = true ↔ h = g ∨ (2 ≤ tierOf (16 * g) ∧ tierOf (16 * g) ≤ 5 ∧ h / 4 = g / 4) ∨ s.mem.isPoison h = true) ∧
    (scrub = false → u.records = s.records) ∧
    (scrub = true → ∃ r, u.records = s.records ++ [r] ∧ r.cls = 6 ∧ r.cause = 6 ∧ r.halted = false ∧ r.address = 16 * g)) ∧
  (∀ (s : State) g scrub corrected sec, s.sliceOf g = some sec → ∃ u, exec (.scrubPass (.slice g scrub) corrected true) s = .next u ∧ u.tiles = s.tiles ∧
    (∀ h, u.mem.isPoison h = true ↔ h = g ∨ s.mem.isPoison h = true) ∧ SMap.get u.sectorUe sec 0 = min (SMap.get s.sectorUe sec 0 + 1) 0xFFFF ∧
    (scrub = false → u.records = s.records) ∧
    (scrub = true → ∃ r, u.records = s.records ++ [r] ∧ r.source = 4928 + sec ∧ r.cls = 6 ∧ r.cause = 6 ∧ r.halted = false ∧ r.address = 16 * g)) ∧
  (∀ (s : State) t struck corrected, t < s.tileCount → exec (.scrubPass (.element t struck) corrected true) s = exec (.logicError t struck) s) ∧
  (∀ (s : State) site port vc k corrected, s.hasPlace (.router site port vc k) = true → ∃ u, exec (.scrubPass (.router site port vc k) corrected true) s = .next u ∧ u.mem = s.mem ∧
    u.records = s.records ∧ u.tiles = s.tiles ∧ struck k ((s.router site).buf port vc) ((u.router site).buf port vc)) ∧
  (∀ (s : State) t c n k corrected, t < s.tileCount → c < 8 → n < 8 →
    (∃ u, exec (.scrubPass (.input t c n k) corrected true) s = .next u ∧ u.mem = s.mem ∧ u.records = s.records ∧ struck k (at8 (s.ctx t c).ins n) (at8 (u.ctx t c).ins n) ∧
      (u.ctx t c).outs = (s.ctx t c).outs ∧ (u.ctx t c).d = (s.ctx t c).d ∧ ∀ j, j ≠ t → u.tile j = s.tile j) ∧
    ∃ u, exec (.scrubPass (.output t c n k) corrected true) s = .next u ∧ u.mem = s.mem ∧ u.records = s.records ∧ (u.ctx t c).ins = (s.ctx t c).ins ∧
      (u.ctx t c).d = (s.ctx t c).d ∧ (∀ j, j ≠ t → u.tile j = s.tile j) ∧
      ∀ b, (at8 (s.ctx t c).outs n)[k]? = some (.full b) → (at8 (u.ctx t c).outs n)[k]? = some (.full { b with poison := true })) ∧
  (∀ (s : State) t k corrected, t < s.tileCount →
    (k < 2 → ∃ u q, exec (.scrubPass (.skim t k) corrected true) s = .next u ∧ u.mem = s.mem ∧ u.records = s.records ∧ (u.tile t).skim.toList[k]? = some q ∧ q.poison = true ∧
      (u.tile t).ctxs = (s.tile t).ctxs) ∧
    ∃ u, exec (.scrubPass (.copy t) corrected true) s = .next u ∧ u.mem = s.mem ∧ u.records = s.records ∧ (u.tile t).ctxs = (s.tile t).ctxs ∧
      (u.tile t).health.compareFails = min ((s.tile t).health.compareFails + 1) 15) ∧
  (∀ (s : State) t struck, t < s.tileCount → ∃ u r, exec (.logicError t struck) s = .next u ∧ u.mem = s.mem ∧ u.records = s.records ++ [r] ∧ r.source = t ∧ r.cls = 17 ∧
    r.cause = 4 ∧ r.halted = true ∧ (∀ k, k ≠ t → u.tile k = s.tile k) ∧ SMap.get u.sectorUe (sectorOf t) 0 = min (SMap.get s.sectorUe (sectorOf t) 0 + 1) 0xFFFF ∧
    ∀ c, c < 8 → (u.ctx t c).d = (s.ctx t c).d ∧ (u.ctx t c).run = if (s.ctx t c).word.valid ∧ (s.ctx t c).run = .runnable then .halted else (s.ctx t c).run) ∧
  (∀ (s : State) t reason, s.mayRetire t reason = true ↔ t < s.tileCount ∧ 2 ≤ reason ∧ reason ≤ 5 ∧ (s.tile t).inst = 0 ∧ ¬ (isLathTile t = true ∧ (s.tileDomain t).isSome = true)) ∧
  (∀ (s : State) t reason, t < s.tileCount → s.mayRetire t reason = false → exec (.tileRetire t reason) s = .next s) ∧
  (∀ (s : State) t reason, t < s.tileCount → s.mayRetire t reason = true →
    ∃ u, exec (.tileRetire t reason) s = .next u ∧ (u.tile t).health.reason = reason ∧ (∀ k, k ≠ t → u.tile k = s.tile k) ∧
      ((s.tile t).health.retired = true → u.mem = s.mem ∧ u.management = s.management ∧ u.spares = s.spares ∧
        u.tile t = { s.tile t with health := { (s.tile t).health with reason := reason } }) ∧
      ((s.tile t).health.retired = false → 0 < s.sparesOf (columnOf t) → (u.tile t).health.retired = false ∧ (u.tile t).health.spare = true ∧
        u.sparesOf (columnOf t) = s.sparesOf (columnOf t) - 1 ∧
        (∀ off, off < 2 ^ 18 → u.mem.byte (padPA t off) = 0 ∧ u.mem.isFull (padPA t off / 16) = false) ∧
        ∀ a, (∀ off, off < 2 ^ 18 → a ≠ padPA t off) → u.mem.byte a = s.mem.byte a) ∧
      ((s.tile t).health.retired = false → s.sparesOf (columnOf t) = 0 → (u.tile t).health.retired = true ∧ u.replaceReq.contains (sectorOf t) = true ∧
        ∃ m, u.management = s.management ++ [.replacement m])) ∧
  (∀ (s : State) src t (v : BitVec 64),
    (s.fromRoot src = true → v.toNat.testBit 0 = true → s.mayRetire t (v.toNat / 2 ^ 28 % 16) = true → exec (.tileRetire t (v.toNat / 2 ^ 28 % 16)) s = .next (s.storeReg src (.tileHealth t) v)) ∧
    (s.fromRoot src = false ∨ v.toNat.testBit 0 = false ∨ s.mayRetire t (v.toNat / 2 ^ 28 % 16) = false → s.storeReg src (.tileHealth t) v = s)) ∧
  (∀ (s : State) site port, site < s.siteCount → port < 6 →
    let r := s.router site
    (r.waiting port = true → r.linkState port ≠ .down → ∃ u, exec (.linkRetry site port) s = .next u ∧ u.mem = s.mem ∧ u.tiles = s.tiles ∧
      SMap.get (u.router site).attempts port 0 = SMap.get r.attempts port 0 + 1 ∧ (u.router site).staged = r.staged) ∧
    (r.waiting port = false ∨ r.linkState port = .down → exec (.linkRetry site port) s = .next s) ∧
    (r.linkState port = .down → exec (.linkDegraded site port) s = .next s ∧ exec (.linkDown site port) s = .next s) ∧
    (r.linkState port ≠ .full → exec (.linkDegraded site port) s = .next s) ∧
    (SMap.get r.attempts port 0 < 16 → exec (.linkDegraded site port) s = .next s ∧ exec (.linkDown site port) s = .next s) ∧
    (16 ≤ SMap.get r.attempts port 0 → r.linkState port = .full → ∃ u x, exec (.linkDegraded site port) s = .next u ∧ u.mem = s.mem ∧ (u.router site).linkState port = .degraded ∧
      u.records = s.records ++ [x] ∧ x.cls = 17 ∧ x.cause = 1 ∧ x.source = holderOf site) ∧
    (16 ≤ SMap.get r.attempts port 0 → r.linkState port ≠ .down → ∃ u x, exec (.linkDown site port) s = .next u ∧ (u.router site).linkState port = .down ∧
      u.records = s.records ++ [x] ∧ x.cls = 17 ∧ x.cause = 2 ∧ x.source = holderOf site ∧ (u.router site).staged = r.staged ∧
      ∀ e, (e = holderOf site ∨ ∃ next, s.beyond site port = some next ∧ e = holderOf next) → s.mayRetire e 5 = true → (s.tile e).health.retired = false →
        (u.tile e).health.reason = 5)) ∧
  (∀ (s : State) port, port < 32 → ∃ u x, exec (.ringDown port) s = .next u ∧ u.mem = s.mem ∧ u.tiles = s.tiles ∧ u.records = s.records ++ [x] ∧ x.cls = 17 ∧ x.cause = 3)

/-- Thermal control (R29-R31): a clamp lets no divider of the domain stand below 8 until it is released; a thermal halt stops every element, keeps everything,
and sends each lath a record; a resume lets them go on under a clamp. The source of a thermal record, and when these things happen, is the model's choice (log 16). -/
def Obligations.ThermalControl : Prop :=
  (∀ (s : State) sec sensor x d, sec < 16 → s.domainOf sec = some d → (s.domain d).clamp = false →
    ∃ u r, exec (.thermalClamp sec sensor x) s = .next u ∧ u.mem = s.mem ∧ u.tiles = s.tiles ∧ u.domain d = { s.domain d with clamp := true } ∧ 8 ≤ u.divider sec ∧
      u.records = s.records ++ [r] ∧ r.source = s.lathTile d ∧ r.cls = 18 ∧ r.cause = 1 ∧ ∀ e, e ≠ d → u.domain e = s.domain e) ∧
  (∀ (s : State) sec sensor x, sec < 16 → (s.domainOf sec = none ∨ ∃ d, s.domainOf sec = some d ∧ (s.domain d).clamp = true) → exec (.thermalClamp sec sensor x) s = .next s) ∧
  (∀ (s : State) d, d < 16 → (s.domain d).clamp = false ∨ s.thermalHalt = true → exec (.thermalClampRelease d) s = .next s) ∧
  (∀ (s : State) sensor x, s.phase ≠ 8 ∨ s.thermalHalt = true → exec (.thermalHalt sensor x) s = .next s) ∧
  (∀ (s : State) sensor x, s.thermalHalt = false → exec (.thermalResume sensor x) s = .next s) ∧
  (∀ (s : State) d, d < 16 → (s.domain d).clamp = true → s.thermalHalt = false →
    ∃ u, exec (.thermalClampRelease d) s = .next u ∧ u.mem = s.mem ∧ u.tiles = s.tiles ∧ u.records = s.records ∧ u.domain d = { s.domain d with clamp := false }) ∧
  (∀ (s : State) sensor x, s.phase = 8 → s.thermalHalt = false →
    ∃ u, exec (.thermalHalt sensor x) s = .next u ∧ u.thermalHalt = true ∧ u.mem = s.mem ∧ u.tiles = s.tiles ∧ u.accesses = s.accesses ∧
      (∀ t, u.elementRuns t = false) ∧ (∀ d, d < 16 → (s.domain d).shape.w ≠ 0 → ∃ r ∈ u.records, r.source = s.lathTile d ∧ r.cls = 18 ∧ r.cause = 2)) ∧
  (∀ (s : State) sensor x, s.thermalHalt = true →
    ∃ u, exec (.thermalResume sensor x) s = .next u ∧ u.thermalHalt = false ∧ u.mem = s.mem ∧ u.tiles = s.tiles ∧
      ∀ d, d < 16 → (s.domain d).shape.w ≠ 0 → (u.domain d).clamp = true ∧ ∃ r ∈ u.records, r.source = s.lathTile d ∧ r.cls = 18 ∧ r.cause = 3)

/-! ### Fabric (R314-R330) -/

/-- A beat leaves the front of an output endpoint for its router's local port while that has a place (R318), or for a ring port of its level (R26, R388); a routed
beat goes to every port of its word and to the element in one step, or waits (R316, R320); a beat that no word or binding matches is dropped and counted as a routing miss
(R59), one that no binding of the element takes is dropped with a record (R317), one for a retired context is dropped (R332); a link moves its beats in the round of
their channels (R320), a ring port takes beats in for the endpoint of its level (R388); condition tokens hop likewise on the control network (R330). -/
def Obligations.FabricMovesBeats : Prop :=
  let quiet (s : State) (t : Nat) : Prop := ∀ k ∈ (s.tile t).skim.toList, k.emit = none
  let vcOf (n : Nat) : Fin 32 := BitVec.toFin (BitVec.ofNat 5 n)
  (∀ (s : State) t c n b rest, t < s.tileCount → c < 8 → n < 8 → at8 (s.ctx t c).outs n = .full b :: rest → quiet s t →
    let site := siteOfTile t
    let departs (vc : Nat) (x : Beat) : Prop :=
      (((s.router site).buf 6 vc).length < 4 →
        ∃ u, exec (.outputBeatDepart t c n) s = .next u ∧ u.mem = s.mem ∧ at8 (u.ctx t c).outs n = rest ∧ (u.router site).buf 6 vc = (s.router site).buf 6 vc ++ [x] ∧
          u.ringOut = s.ringOut ∧ (∀ k, k ≠ t → u.tile k = s.tile k) ∧ (u.ctx t c).ins = (s.ctx t c).ins ∧ (u.ctx t c).d = (s.ctx t c).d) ∧
      (4 ≤ ((s.router site).buf 6 vc).length → exec (.outputBeatDepart t c n) s = .next s)
    (∀ dir vc, at8 (s.ctx t c).word.obind n = .link dir vc →
      (s.heldBack t c n = true → exec (.outputBeatDepart t c n) s = .next s) ∧ (s.heldBack t c n = false → departs vc.val { b with dir := some dir })) ∧
    (∀ level vc, at8 (s.ctx t c).word.obind n = .ring level vc → level.val < 3 → departs vc.val { b with ring := some level }) ∧
    (∀ level vc, at8 (s.ctx t c).word.obind n = .ring level vc → 3 ≤ level.val →
      (s.ringPort level vc.val = none → exec (.outputBeatDepart t c n) s = .next s) ∧
      ∀ p, s.ringPort level vc.val = some p → p < 32 ∧ p % 2 = 1 ∧ s.ringLevels.toList[p]? = some level ∧
        ∃ u, exec (.outputBeatDepart t c n) s = .next u ∧ u.mem = s.mem ∧ u.routers = s.routers ∧ u.ringOut = s.ringOut ++ [(p, b)] ∧ at8 (u.ctx t c).outs n = rest ∧
          (u.ctx t c).ins = (s.ctx t c).ins ∧ ∀ k, k ≠ t → u.tile k = s.tile k)) ∧
  (∀ (s : State) t c n, t < s.tileCount → at8 (s.ctx t c).outs n = [] → exec (.outputBeatDepart t c n) s = .next s) ∧
  (∀ (s : State) site port vc, site < s.siteCount → port < 7 → vc < 32 → (s.router site).buf port vc = [] → exec (.routerRoute site port vc) s = .next s) ∧
  (∀ (s : State) site port vc b rest, site < s.siteCount → port < 7 → vc < 32 → (s.router site).buf port vc = b :: rest →
    (routeOf s site port vc b = none → ∃ u r, exec (.routerRoute site port vc) s = .next u ∧ u.mem = s.mem ∧ u.tiles = s.tiles ∧ (u.router site).buf port vc = rest ∧
      (u.router site).miss = (s.router site).miss + 1 ∧ u.records = s.records ++ [r] ∧ r.source = holderOf site ∧ r.cls = 1 ∧ r.cause = 1) ∧
    ∀ outs ovc, routeOf s site port vc b = some (outs, ovc) → ovc < 32 →
      let sent : Beat := { b with vc := vcOf ovc, dir := none }
      let copied (u : State) : Prop := (u.router site).buf port vc = rest ∧ ∀ p, p < 6 → (u.router site).staging p ovc =
        if outs.getLsbD p then (s.router site).staging p ovc ++ [sent] else (s.router site).staging p ovc
      let free : Prop := ∀ p, p < 6 → outs.getLsbD p = true → s.portSpace site p ovc = true ∧ s.openEnd site p ovc = false
      ((∃ p, p < 6 ∧ outs.getLsbD p = true ∧ s.portSpace site p ovc = false) → exec (.routerRoute site port vc) s = .next s) ∧
      (free → outs.getLsbD 6 = false ∨ elementAtSite site = none →
        ∃ u, exec (.routerRoute site port vc) s = .next u ∧ u.mem = s.mem ∧ u.tiles = s.tiles ∧ u.records = s.records ∧ copied u) ∧
      (∀ t, free → outs.getLsbD 6 = true → elementAtSite site = some t →
        (receiver (s.tile t) port ovc b.ring b.tag = none → ∃ u r, exec (.routerRoute site port vc) s = .next u ∧ u.mem = s.mem ∧ u.tiles = s.tiles ∧
          u.records = s.records ++ [r] ∧ r.cls = 1 ∧ r.cause = 2 ∧ copied u) ∧
        ∀ c n, receiver (s.tile t) port ovc b.ring b.tag = some (c, n) → c < 8 → n < 8 →
          ((s.ctx t c).run = .retired → ∃ u, exec (.routerRoute site port vc) s = .next u ∧ u.mem = s.mem ∧ u.tiles = s.tiles ∧ u.records = s.records ∧ copied u) ∧
          ((s.ctx t c).run ≠ .retired → (at8 (s.ctx t c).ins n).length < 8 → ∃ u, exec (.routerRoute site port vc) s = .next u ∧ u.mem = s.mem ∧ u.records = s.records ∧
            at8 (u.ctx t c).ins n = at8 (s.ctx t c).ins n ++ [sent] ∧ (∀ k, k ≠ t → u.tile k = s.tile k) ∧ copied u) ∧
          ((s.ctx t c).run ≠ .retired → 8 ≤ (at8 (s.ctx t c).ins n).length → exec (.routerRoute site port vc) s = .next s)) ∧
      (∀ p, p < 6 → outs = BitVec.ofNat 7 (2 ^ p) → s.openEnd site p ovc = true → ∃ u r, exec (.routerRoute site port vc) s = .next u ∧ u.mem = s.mem ∧ u.tiles = s.tiles ∧
        (u.router site).buf port vc = rest ∧ (u.router site).miss = (s.router site).miss + 1 ∧ u.records = s.records ++ [r] ∧ r.cls = 1 ∧ r.cause = 1)) ∧
  (∀ (s : State) site port, site < s.siteCount → port < 6 → (s.router site).waiting port = false → exec (.linkBeatSend site (.link port)) s = .next s) ∧
  (∀ (s : State) site port next vc b rest, site < s.siteCount → port < 6 → s.beyond site port = some next → next ≠ site →
    (vcOrder (SMap.get (s.router site).last port 31)).find? (fun v => !((s.router site).staging port v).isEmpty) = some vc → (s.router site).staging port vc = b :: rest →
    ((s.router site).linkState port = .down → exec (.linkBeatSend site (.link port)) s = .next s) ∧
    ((s.router site).linkState port ≠ .down → ∃ u, exec (.linkBeatSend site (.link port)) s = .next u ∧ u.mem = s.mem ∧ u.tiles = s.tiles ∧ (u.router site).staging port vc = rest ∧
      SMap.get (u.router site).last port 31 = vc ∧ SMap.get (u.router site).attempts port 0 = 0 ∧
      (u.router next).buf (opposite port) vc = (s.router next).buf (opposite port) vc ++ [b])) ∧
  (∀ (s : State) site port rb, site < s.siteCount → port < 32 →
    (port % 2 = 1 ∨ elementAtSite site = none → exec (.linkBeatSend site (.ring port rb)) s = .next s) ∧
    ∀ t level c n, port % 2 = 0 → elementAtSite site = some t → s.ringLevels.toList[port]? = some level →
      receiver (s.tile t) (7 + port) rb.channel.val (some level) rb.tag = some (c, n) → c < 8 → n < 8 → (s.ctx t c).run ≠ .retired →
      ((at8 (s.ctx t c).ins n).length < 8 → ∃ u, exec (.linkBeatSend site (.ring port rb)) s = .next u ∧ u.mem = s.mem ∧ u.routers = s.routers ∧
        at8 (u.ctx t c).ins n = at8 (s.ctx t c).ins n ++ [{ payload := rb.payload, mask := rb.mask, tag := rb.tag, vc := rb.channel, poison := false, ring := some level }] ∧
        (∀ k, k ≠ t → u.tile k = s.tile k)) ∧
      (8 ≤ (at8 (s.ctx t c).ins n).length → exec (.linkBeatSend site (.ring port rb)) s = .next s)) ∧
  (∀ (s : State) site port ch, site < s.siteCount → port < 6 → ch < 16 → (s.router site).cbuf port ch = [] → exec (.conditionTokenHop site port ch) s = .next s) ∧
  (∀ (s : State) site port ch b s1, site < s.siteCount → port < 6 → ch < 16 → s.takeCond site port ch = some (b, s1) →
    (((s.router site).ctl.find? fun w => w.inPort == port && w.inVc == ch) = none → exec (.conditionTokenHop site port ch) s = .next (s1.routeMiss site port ch)) ∧
    ∀ w, ((s.router site).ctl.find? fun w => w.inPort == port && w.inVc == ch) = some w →
      (∀ t c n, w.outSet = BitVec.ofNat 7 64 → elementAtSite site = some t → condSink (s.tile t) (w.outVc.getD ch) = some (c, n) → c < 8 → n < 4 → (s.ctx t c).run ≠ .retired →
        ((at4 (s.ctx t c).cins n).length < 8 → ∃ u, exec (.conditionTokenHop site port ch) s = .next u ∧ u.mem = s.mem ∧ u.records = s.records ∧
          at4 (u.ctx t c).cins n = at4 (s.ctx t c).cins n ++ [b] ∧ (u.router site).cbuf port ch = ((s.router site).cbuf port ch).tail) ∧
        (8 ≤ (at4 (s.ctx t c).cins n).length → exec (.conditionTokenHop site port ch) s = .next s)) ∧
      (∀ p, p < 6 → w.outSet = BitVec.ofNat 7 (2 ^ p) → s.openEnd site p (w.outVc.getD ch) = true →
        (s.condTurn site p = some (w.outVc.getD ch) → ∃ u r, exec (.conditionTokenHop site port ch) s = .next u ∧ u.mem = s.mem ∧ u.tiles = s.tiles ∧
          (u.router site).cbuf port ch = ((s.router site).cbuf port ch).tail ∧ (u.router site).miss = (s.router site).miss + 1 ∧
          u.records = s.records ++ [r] ∧ r.cls = 1 ∧ r.cause = 1) ∧
        (s.condTurn site p ≠ some (w.outVc.getD ch) → exec (.conditionTokenHop site port ch) s = .next s)) ∧
      (∀ p next, p < 6 → w.outSet = BitVec.ofNat 7 (2 ^ p) → s.openEnd site p (w.outVc.getD ch) = false → s.beyond site p = some next → next ≠ site →
        let och := w.outVc.getD ch
        let can : Prop := ((s.router next).cbuf (opposite p) och).length < 4 ∧ (s.router site).linkState p ≠ .down ∧ s.condTurn site p = some och
        (¬ can → exec (.conditionTokenHop site port ch) s = .next s) ∧
        (can → ∃ u, exec (.conditionTokenHop site port ch) s = .next u ∧ u.mem = s.mem ∧ u.tiles = s.tiles ∧ u.records = s.records ∧
          (u.router site).cbuf port ch = ((s.router site).cbuf port ch).tail ∧ SMap.get (u.router site).clast p 15 = och ∧
          (u.router next).cbuf (opposite p) och = (s.router next).cbuf (opposite p) och ++ [b]))) ∧
  (∀ (s : State) site ch t c n b rest, site < s.siteCount → ch < 16 → elementAtSite site = some t → condSource (s.tile t) ch = some (c, n) → c < 8 → n < 4 →
    (s.router site).cbuf 6 ch = [] → at4 (s.ctx t c).couts n = b :: rest →
    ∃ u, exec (.conditionTokenHop site 6 ch) s = .next u ∧ u.mem = s.mem ∧ u.records = s.records ∧ (u.router site).cbuf 6 ch = [b] ∧ at4 (u.ctx t c).couts n = rest)

/-! ### Epochs (R239-R244) -/

/-- A group opens its next epoch once it is due, by the period that its register held at the last opening (R243; 4.8 ticks are 1 ns, R27), or hastened, and every member has acknowledged the last; a member that acknowledges sees it and says what it has tagged
(R240, R244); an epoch closes, in order, when every store tagged with it is performed and no member can tag more (R241); the pulse tells a member what has
closed. No one of these does anything before its time. That epoch k closes only after every member has acknowledged epoch k+1 is the model's reading (log 28). -/
def Obligations.EpochsCloseInOrder : Prop :=
  let due (s : State) (lvl g : Nat) : Prop := (s.group lvl g).hasten = true ∨
    (if lvl = 1 then (s.group 1 g).lastOpen < (s.group 2 (columnOf g)).lastOpen else
      (s.group lvl g).lastOpen * 5 + ((s.group lvl g).period.getD (if lvl ≤ 5 then at9 State.reset.periods lvl else at9 s.periods lvl)) * 24 ≤ s.ticks * 5)
  (∀ (s : State) lvl g, groupExists lvl g = true → s.phase = 8 →
    (due s lvl g → (∀ w ∈ s.members lvl g, s.view w lvl = (s.group lvl g).opened) →
      exec (.epochOpen lvl g) s = .next (s.setGroup lvl g { s.group lvl g with opened := (s.group lvl g).opened + 1, hasten := false, lastOpen := s.ticks, period := some (at9 s.periods lvl) })) ∧
    ((¬ due s lvl g ∨ ∃ w ∈ s.members lvl g, s.view w lvl ≠ (s.group lvl g).opened) → exec (.epochOpen lvl g) s = .next s) ∧
    ((∀ w ∈ s.members lvl g, (s.group lvl g).closed + 1 < s.view w lvl) → (s.group lvl g).closed + 1 < (s.group lvl g).opened →
      (∀ a ∈ s.accesses, a.writer ∈ s.members lvl g → a.owes = true → ∀ e, (lvl, e) ∈ a.tags → (s.group lvl g).closed + 1 < e) →
      exec (.epochClose lvl g) s = .next (s.setGroup lvl g { s.group lvl g with closed := (s.group lvl g).closed + 1 })) ∧
    ((∃ a ∈ s.accesses, a.writer ∈ s.members lvl g ∧ a.owes = true ∧ ∃ e, (lvl, e) ∈ a.tags ∧ e ≤ (s.group lvl g).closed + 1) → exec (.epochClose lvl g) s = .next s) ∧
    ((∃ w ∈ s.members lvl g, s.view w lvl ≤ (s.group lvl g).closed + 1) ∨ (s.group lvl g).opened ≤ (s.group lvl g).closed + 1 → exec (.epochClose lvl g) s = .next s)) ∧
  (∀ (s : State) lvl g w, groupExists lvl g = true → s.isWriter w = true → s.phase ≠ 8 →
    exec (.epochOpen lvl g) s = .next s ∧ exec (.epochClose lvl g) s = .next s ∧ exec (.epochAcknowledge lvl g w) s = .next s) ∧
  (∀ (s : State) lvl g w, groupExists lvl g = true → s.isWriter w = true → s.phase = 8 → s.groupOf w lvl = some g →
    (s.view w lvl ≠ (s.group lvl g).opened → ∃ u, exec (.epochAcknowledge lvl g w) s = .next u ∧ u.mem = s.mem ∧ u.tiles = s.tiles ∧ u.groups = s.groups ∧
      u.view w lvl = (s.group lvl g).opened ∧ (u.writer w).sent = s.tagged w ∧ (u.writer w).issued = (s.writer w).issued ∧ ∀ x, x ≠ w → u.writer x = s.writer x) ∧
    (s.view w lvl = (s.group lvl g).opened → exec (.epochAcknowledge lvl g w) s = .next s)) ∧
  (∀ (s : State) lvl g w, groupExists lvl g = true → s.isWriter w = true → s.groupOf w lvl = some g →
    ∃ u, exec (.closurePulseReceipt lvl g w) s = .next u ∧ u.mem = s.mem ∧ u.tiles = s.tiles ∧ u.groups = s.groups ∧ at9 (u.writer w).closed lvl = (s.group lvl g).closed ∧
      (u.writer w).views = (s.writer w).views ∧ ∀ x, x ≠ w → u.writer x = s.writer x) ∧
  (∀ (s : State) lvl g w, groupExists lvl g = true → s.isWriter w = true → s.groupOf w lvl ≠ some g →
    exec (.epochAcknowledge lvl g w) s = .next s ∧ exec (.closurePulseReceipt lvl g w) s = .next s)

/-! ### Boot, host link, time (R21, R31-R36, R351, R373) -/

/-- The boot performs its phases in order and stops in phase 15 with the code of what failed, which it posts on the management port; it does nothing more
after that (R32, R33). The repair map replaces a failed tile while its column has spares (R16). The management port starts the boot again with one boot counted; without
power nothing starts, and device time begins anew (R31, R373). That memory and flash keep their bytes over either is the model's choice (log 43). -/
def Obligations.BootSequence : Prop :=
  (∀ (s : State) found, (s.powered = false ∨ 8 ≤ s.phase) → exec (.bootSequence found) s = .next s) ∧
  (∀ (s : State) found, s.powered = true → s.phase < 8 →
    let at' : Nat := if s.phase = 0 ∧ found.reading = false then 0 else s.phase + 1
    (found.power = true → exec (.bootSequence found) s = .next (s.stopBoot at' 6)) ∧
    (found.power = false → found.thermal = true → exec (.bootSequence found) s = .next (s.stopBoot at' 7)) ∧
    (found.power = false → found.thermal = false →
      (s.phase = 0 → s.flash.readable = true → exec (.bootSequence found) s = .next { s with phase := 1 }) ∧
      (s.phase = 0 → s.flash.readable = false → exec (.bootSequence found) s = .next (s.stopBoot 1 1)) ∧
      (s.phase = 1 → s.flash.repairSigned = false → exec (.bootSequence found) s = .next (s.stopBoot 2 2)) ∧
      (s.phase = 1 → s.flash.repairSigned = true → s.flash.configSigned = false → exec (.bootSequence found) s = .next (s.stopBoot 2 3)) ∧
      (s.phase = 1 → s.flash.repairSigned = true → s.flash.configSigned = true → ∃ u, exec (.bootSequence found) s = .next u ∧ u.phase = 2 ∧ u.mem = s.mem ∧
        u.tiles = s.tiles ∧ u.lpddrGib = s.flash.lpddrGib ∧ u.cxlGib = s.flash.cxlGib ∧ u.providerKeys = s.flash.providerKeys ∧ u.moduleIndex = s.flash.moduleIndex ∧
        u.ringLevels = s.flash.ringLevels.getD ringDefault ∧ at9 u.periods 6 = s.flash.podPeriod ∧
        at9 u.periods 7 = s.flash.spanPeriod ∧ at9 u.periods 8 = s.flash.systemPeriod ∧ ∀ l, 2 ≤ l → l ≤ 5 → at9 u.periods l = at9 s.periods l) ∧
      (s.phase = 2 → ∃ u, exec (.bootSequence found) s = .next u ∧ u.phase = 3 ∧ u.mem = s.mem ∧ (∀ t, t ∉ s.flash.failed → u.tile t = s.tile t) ∧
        ∀ t ∈ s.flash.failed,
          let before := ((s.flash.failed.eraseDups.takeWhile (· != t)).filter fun k => columnOf k == columnOf t).length
          (before < s.sparesOf (columnOf t) → u.tile t = { s.tile t with health := { (s.tile t).health with spare := true } }) ∧
          (s.sparesOf (columnOf t) ≤ before → u.tile t = { s.tile t with health := { (s.tile t).health with retired := true, bootRetired := true, reason := 1 } })) ∧
      (s.phase = 3 → ∃ u, exec (.bootSequence found) s = .next u ∧ u.phase = 4 ∧ u.tiles = s.tiles ∧ (∀ a, a < 2 * 2 ^ 48 → u.mem.byte a = 0) ∧
        (∀ a, 2 * 2 ^ 48 ≤ a → u.mem.byte a = s.mem.byte a) ∧ ∀ g, g < 2 ^ 45 → u.mem.isFull g = false ∧ u.mem.isPoison g = false) ∧
      (s.phase = 4 → exec (.bootSequence found) s = .next (if found.puf then s.stopBoot 5 4 else { s with phase := 5 })) ∧
      (s.phase = 5 → s.flash.rootLath = none → exec (.bootSequence found) s = .next (s.stopBoot 6 5)) ∧
      (s.phase = 5 → (s.lathFail 0 ⟨0, 0, 4, 4⟩ s.flash.rootLath).isSome = true → exec (.bootSequence found) s = .next (s.stopBoot 6 5)) ∧
      (s.phase = 5 → s.lathFail 0 ⟨0, 0, 4, 4⟩ s.flash.rootLath = none → ∃ u, exec (.bootSequence found) s = .next u ∧ u.phase = 6 ∧ u.mem = s.mem ∧ u.tiles = s.tiles ∧
        u.lathImage 0 = s.flash.rootLath) ∧
      (s.phase = 6 → s.flash.rootLath = none → exec (.bootSequence found) s = .next (s.stopBoot 7 5)) ∧
      (s.phase = 6 → ∀ im, s.flash.rootLath = some im → ∃ u, exec (.bootSequence found) s = .next u ∧ u.phase = 7 ∧ (u.domain 0).shape = ⟨0, 0, 4, 4⟩ ∧
        (u.domain 0).shareHost = 64 ∧ (u.domain 0).shareLpddr = 64 ∧ (u.domain 0).shareCxl = 64 ∧ (u.domain 0).farSize = 16384 ∧ (u.domain 0).asidTable = 0 ∧
        u = { (({ s.setDomain 0 bootDomain with mem := s.mem.putBlob 0 (mailboxPA 0) ⟨32, 0⟩ } : State).loadLath 0 im.parse.1 [0]).measureLoad 0 im.parse.1 im.id with phase := 7 }) ∧
      (s.phase = 7 → exec (.bootSequence found) s = .next { s with phase := 8 }))) ∧
  (∀ (s : State) phase code, (s.stopBoot phase code).phase = 15 ∧ (s.stopBoot phase code).bootCode = code ∧
    (s.stopBoot phase code).management = s.management ++ [.boot phase code] ∧ (s.stopBoot phase code).mem = s.mem) ∧
  (∀ s : State, ∃ u, exec .managementPortReset s = .next u ∧ u.phase = 0 ∧ u.bootCount = min (s.bootCount + 1) 0xFFFF ∧ u.mem = s.mem ∧ u.flash = s.flash ∧ u.powered = true ∧
    u.linkUp = false ∧ u.domains = [] ∧ u.tiles = [] ∧ u.thermalHalt = false ∧ (s.powered = true → u.ns = s.ns) ∧ (s.powered = false → u.ns = 0)) ∧
  (∀ s : State, ∃ u, exec .powerRemove s = .next u ∧ u.phase = 0 ∧ u.powered = false ∧ u.bootCount = s.bootCount ∧ u.domains = [] ∧ u.tiles = [] ∧ u.ns = 0 ∧ u.mem = s.mem ∧
    ∀ found, exec (.bootSequence found) u = .next u)

/-- The host link (R21, R36, R225, R351, R357, R482): before the device is ready only DEV_FEATURE and BOOT_STATUS answer, other reads complete with Unsupported
Request; then a read returns the bytes, or a poisoned TLP; a write stores the register words that it covers whole, a beat of an ingress window under the ingress writer's
next number, or bytes. That a write to memory that is not backed writes nothing is the model's choice (log 44). Device time is slewed by 1 ns at most in a microsecond,
steps forward once when the module joins, and never decreases (R373). -/
def Obligations.HostLinkAndTime : Prop :=
  (∀ s : State, exec .hostLinkEnumeration s = .next { s with linkUp := true }) ∧
  (∀ (s : State) a, s.linkUp = false → exec (.hostLinkAccess a) s = .next s ∧ exec (.hostRequestRefused a) s = .next s) ∧
  (∀ (s : State) a, s.phase = 8 → exec (.hostRequestRefused a) s = .next s) ∧
  (∀ (s : State) pa len, s.linkUp = true → s.phase ≠ 8 → ¬ (8 * 2 ^ 48 ≤ pa ∧ pa + len ≤ 8 * 2 ^ 48 + 16) →
    exec (.hostLinkAccess (.read pa len)) s = .next s ∧ exec (.hostRequestRefused (.read pa len)) s = .next { s with hostOut := s.hostOut ++ [.unsupported] }) ∧
  (∀ (s : State) pa data, s.linkUp = true → s.phase ≠ 8 → ¬ (8 * 2 ^ 48 ≤ pa ∧ pa + data.length ≤ 8 * 2 ^ 48 + 16) →
    exec (.hostLinkAccess (.write pa data)) s = .next s ∧ exec (.hostRequestRefused (.write pa data)) s = .next s) ∧
  (∀ (s : State) pa len, s.linkUp = true → (s.phase = 8 ∨ (8 * 2 ^ 48 ≤ pa ∧ pa + len ≤ 8 * 2 ^ 48 + 16)) →
    ∃ u r, exec (.hostLinkAccess (.read pa len)) s = .next u ∧ u.mem = s.mem ∧ u.tiles = s.tiles ∧ u.hostOut = s.hostOut ++ [r] ∧
      (tierOf pa ≠ 8 → (∀ k, k < len → s.mem.isPoison ((pa + k) / 16) = false ∧ s.mem.keyOf ((pa + k) / 16) = 0 ∧ tierOf (pa + k) < 8 ∧ s.backed (pa + k) = true) →
        r = .data ((List.range len).map fun k => s.mem.byte (pa + k))) ∧
      (tierOf pa ≠ 8 → (∃ k, k < len ∧ s.mem.isPoison ((pa + k) / 16) = true) → r = .poisoned) ∧
      (tierOf pa = 8 → pa % 8 = 0 → len = 8 → r = .data ((List.range 8).map fun k => BitVec.ofNat 8 (s.loadRegister .host (pa % 2 ^ 48) / 256 ^ k)))) ∧
  (∀ (s : State) pa data, s.linkUp = true → s.phase = 8 →
    (tierOf pa = 8 → pa % 8 = 0 → data.length = 8 → exec (.hostLinkAccess (.write pa data)) s = .next (s.storeRegister .host (pa % 2 ^ 48) (BitVec.ofNat 64 (leBytes data)))) ∧
    (tierOf pa = 8 → let skip := (8 - pa % 8) % 8
      exec (.hostLinkAccess (.write pa data)) s = .next ((List.range ((data.length - skip) / 8)).foldl (fun s k =>
        s.storeRegister .host (pa % 2 ^ 48 + skip + 8 * k) (BitVec.ofNat 64 (leBytes ((data.drop (skip + 8 * k)).take 8)))) s)) ∧
    (tierOf pa ≠ 8 → (tierOf pa = 9 → 32 * 0x10000 ≤ pa % 2 ^ 48) → s.backed pa = true → ∃ u : State,
      exec (.hostLinkAccess (.write pa data)) s =
        .next ((if tierOf pa = 9 ∧ pa % 2 ^ 48 / 0x10000 = 0x10000 then u.flushMail else u).lookUp (s.hostGranules pa data.length)) ∧ u.tiles = s.tiles ∧
      (∀ k, k < data.length → u.mem.byte (pa + k) = data.getD k 0 ∧ u.mem.keyOf ((pa + k) / 16) = 0) ∧
      (∀ a, (a / 16 < pa / 16 ∨ pa + data.length ≤ a / 16 * 16) → u.mem.byte a = s.mem.byte a) ∧
      (∀ a, (a < pa ∨ pa + data.length ≤ a) → s.mem.keyOf (a / 16) = 0 → u.mem.byte a = s.mem.byte a) ∧
      ∀ g, u.mem.isPoison g = (s.mem.isPoison g && !(decide (pa ≤ 16 * g) && decide (16 * g + 16 ≤ pa + data.length)))) ∧
    (tierOf pa ≠ 8 → (tierOf pa = 9 → 32 * 0x10000 ≤ pa % 2 ^ 48) → s.backed pa = false → exec (.hostLinkAccess (.write pa data)) s = .next s) ∧
    (∀ n, n < 32 → pa = 9 * 2 ^ 48 + n * 0x10000 → data.length = 64 → s.portEnabled n = true → (s.port n).buffer.length < 64 →
      ∃ u, exec (.hostLinkAccess (.write pa data)) s = .next u ∧ u.mem = s.mem ∧ u.tiles = s.tiles ∧ (u.port n).buffer = (s.port n).buffer ++ [BitVec.ofNat 512 (leBytes data)] ∧
        (u.writer (4944 + n / 4)).issued = (s.writer (4944 + n / 4)).issued + 1) ∧
    (∀ n off, n < 32 → off < 0x10000 → pa = 9 * 2 ^ 48 + n * 0x10000 + off → (off % 64 ≠ 0 ∨ data.length ≠ 64 ∨ s.portEnabled n = false ∨ 64 ≤ (s.port n).buffer.length) →
      exec (.hostLinkAccess (.write pa data)) s = .next s)) ∧
  (∀ s : State, exec .precisionTimeMeasurement s = .next (if s.linkUp then { s with hostOut := s.hostOut ++ [.time s.ns] } else s)) ∧
  (∀ (s : State) forward ns, ∃ u, exec (.deviceTimeSlew forward ns) s = .next u ∧ u.mem = s.mem ∧ u.tiles = s.tiles ∧ s.ns ≤ u.ns ∧
    (forward = true → s.timeJoined = false → u.nsAdded = s.nsAdded + ns ∧ u.timeJoined = true) ∧
    ((s.timeJoined = true ∨ forward = false) → (1 < ns ∨ s.ticks < s.lastSlew + 4800) → u = s) ∧
    ((s.timeJoined = true ∨ forward = false) → ns ≤ 1 → s.lastSlew + 4800 ≤ s.ticks → u.nsAdded = if forward then s.nsAdded + ns else s.nsAdded - ns))
end

