-- ==== Sys2Proof/Laws/Lanes.lean ====
section
/-! SUPPORT. The laws of lanes and masks: what a lane of a packed value is, and the bits of a mask made bit by bit. -/

namespace Sys2Proof.Machine

open Sys2Proof

theorem packNat_lane (w : Nat) (xs : List Nat) (l : Nat) : packNat w xs / 2 ^ (w * l) % 2 ^ w = xs.getD l 0 % 2 ^ w := by
  induction xs generalizing l with
  | nil => simp [packNat]
  | cons x rest ih =>
    have hp : packNat w (x :: rest) = x % 2 ^ w + 2 ^ w * packNat w rest := rfl
    have hlt : x % 2 ^ w < 2 ^ w := Nat.mod_lt _ (by positivity)
    cases l with
    | zero => rw [hp]; simp
    | succ l =>
      have h2 : 2 ^ (w * (l + 1)) = 2 ^ w * 2 ^ (w * l) := by rw [← pow_add]; congr 1; ring
      rw [hp, h2, ← Nat.div_div_eq_div_mul, Nat.add_mul_div_left _ _ (by positivity), Nat.div_eq_of_lt hlt, Nat.zero_add, ih]
      simp

/-- A lane of a packed value (R99). -/
theorem lane_packLanes {w l : Nat} (xs : List Nat) (h : w * (l + 1) ≤ 512) : lane w (packLanes w xs) l = xs.getD l 0 % 2 ^ w := by
  simp only [lane, packLanes, BitVec.toNat_ofNat]
  rw [← packNat_lane]
  have h1 : (2 : Nat) ^ 512 = 2 ^ (w * l) * 2 ^ (512 - w * l) := by rw [← pow_add]; congr 1; rw [Nat.mul_add] at h; omega
  rw [h1, Nat.mod_mul_right_div_self, Nat.mod_mod_of_dvd]
  apply pow_dvd_pow
  rw [Nat.mul_add] at h; omega

/-- A bit of a mask made bit by bit. -/
theorem maskOf_bit (f : Nat → Bool) {b : Nat} (h : b < 16) : (maskOf f).getLsbD b = f b := by
  simp only [maskOf, BitVec.getLsbD_ofNat, h, decide_true, Bool.true_and]
  have := packNat_lane 1 ((List.range 16).map fun l => (f l).toNat) b
  rw [Nat.testBit, Nat.shiftRight_eq_div_pow, Nat.and_comm, Nat.and_one_is_mod]
  rw [one_mul, pow_one] at this
  rw [this]
  have hl : ((List.range 16).map fun l => (f l).toNat).getD b 0 = (f b).toNat := by
    simp [List.getD, h]
  rw [hl]
  cases f b <;> rfl

/-- A predicate update leaves a register alone where E has no lane, and acts on a bit by R48. -/
theorem predOp_bit (op : PredOp) (e c p : Mask) {b : Nat} (h : b < 16) :
    (PredOp.apply op e c p).getLsbD b = if e.getLsbD b then PredOp.bit op (p.getLsbD b) (c.getLsbD b) else p.getLsbD b := by
  rw [PredOp.apply, maskOf_bit _ h]

theorem mergeLanes_lane {w l : Nat} (n : Nat) (e : Mask) (old : V512) (new : List Nat) (hl : l < n) (h : w * (l + 1) ≤ 512) :
    lane w (mergeLanes w n e old new) l = if laneOn w e l then new.getD l 0 % 2 ^ w else lane w old l := by
  rw [mergeLanes, lane_packLanes _ h]
  simp only [List.getD_eq_getElem?_getD, List.getElem?_map, List.getElem?_range hl, Option.map_some, Option.getD_some]
  split
  · rfl
  · simp [lane]

theorem tokenLanes_lane {w l : Nat} (n : Nat) (e : Mask) (new : List Nat) (hl : l < n) (h : w * (l + 1) ≤ 512) :
    lane w (tokenLanes w n e new) l = if laneOn w e l then new.getD l 0 % 2 ^ w else 0 := by
  rw [tokenLanes, lane_packLanes _ h]
  simp only [List.getD_eq_getElem?_getD, List.getElem?_map, List.getElem?_range hl, Option.map_some, Option.getD_some]
  split <;> simp

end Sys2Proof.Machine
end

