-- ==== Sys2Proof/Laws/Maps.lean ====
section
/-! SUPPORT. The laws of sparse maps and of the small vectors: a read after a write. -/

namespace Sys2Proof.Machine

open Sys2Proof

@[simp] theorem SMap.get_set_same {α : Type} (m : SMap α) (k : Nat) (a dflt : α) : SMap.get (SMap.set m k a) k dflt = a := by
  induction m with
  | nil => simp [SMap.set, SMap.get]
  | cons x rest ih =>
    obtain ⟨j, b⟩ := x
    simp only [SMap.set]
    split
    · simp [SMap.get]
    · split
      · simp [SMap.get]
      · rename_i h1 h2
        simp only [SMap.get]
        rw [if_neg (fun h => h2 h.symm)]
        exact ih

theorem SMap.get_set_other {α : Type} (m : SMap α) {k j : Nat} (h : j ≠ k) (a dflt : α) :
    SMap.get (SMap.set m k a) j dflt = SMap.get m j dflt := by
  induction m with
  | nil => simp [SMap.set, SMap.get, Ne.symm h]
  | cons x rest ih =>
    obtain ⟨i, b⟩ := x
    simp only [SMap.set]
    split
    · simp [SMap.get, Ne.symm h]
    · split
      · rename_i h2; subst h2; simp [SMap.get, Ne.symm h]
      · simp only [SMap.get]; rw [ih]

@[simp] theorem at8_set8_same {α : Type} (v : Vector α 8) (n : Nat) (a : α) : at8 (set8 v n a) n = a := by
  simp [at8, set8]

theorem at8_set8_other {α : Type} (v : Vector α 8) {n k : Nat} (h : k % 8 ≠ n % 8) (a : α) : at8 (set8 v n a) k = at8 v k := by
  simp only [at8, set8]
  rw [Vector.getElem_set_ne]
  exact Ne.symm h

theorem at8_set8 {α : Type} (v : Vector α 8) (n k : Nat) (a : α) : at8 (set8 v n a) k = if k % 8 = n % 8 then a else at8 v k := by
  split
  · rename_i h
    simp only [at8, set8]
    simp [h]
  · rename_i h
    exact at8_set8_other v h a

theorem set8_set8 {α : Type} (v : Vector α 8) (n : Nat) (a b : α) : set8 (set8 v n a) n b = set8 v n b := by
  simp [set8]

/-! ### Tiles and contexts -/

@[simp] theorem tile_setTile_same (s : State) (t : Nat) (tl : Tile) : (s.setTile t tl).tile t = tl := by
  simp [State.tile, State.setTile]

theorem tile_setTile_other (s : State) {t k : Nat} (h : k ≠ t) (tl : Tile) : (s.setTile t tl).tile k = s.tile k := by
  simp [State.tile, State.setTile, SMap.get_set_other _ h]

@[simp] theorem ctx_setCtx_same (s : State) (t c : Nat) (cx : Ctx) : (s.setCtx t c cx).ctx t c = cx := by
  simp [State.ctx, State.setCtx, Tile.ctx, Tile.setCtx]

theorem ctx_setCtx_other (s : State) {t c k : Nat} (h : k % 8 ≠ c % 8) (cx : Ctx) : (s.setCtx t c cx).ctx t k = s.ctx t k := by
  simp [State.ctx, State.setCtx, Tile.ctx, Tile.setCtx, at8_set8_other _ h]

theorem tile_setCtx_other (s : State) {t k : Nat} (h : k ≠ t) (c : Nat) (cx : Ctx) : (s.setCtx t c cx).tile k = s.tile k := by
  simp [State.setCtx, tile_setTile_other _ h]

end Sys2Proof.Machine
end

