-- ==== Sys2Proof/Laws/Fire.lean ====
section
/-! SUPPORT. What the shared operation of a firing can do (R44-R51, R323, R469), and what a firing with a lane result leaves behind. -/

namespace Sys2Proof.Machine

open Sys2Proof

/-! ### The firing -/

/-- The record of a firing has read operands. -/
def readsSources (i : Instr) : Bool :=
  match toCode i with
  | none => false
  | some (opc, opSub, _) => match opRow opc opSub with
    | none => false
    | some row => row.a.reads || row.b.reads

/-- The operands of a firing carry its place, its slot and the width of its form. -/
theorem readOperands_place {i : Instr} {row : OpRow} {f : Slot} {s : State} {t c slot : Nat} {fr : Firing}
    (h : readOperands i row f s t c slot = .ok fr) :
    fr.t = t ∧ fr.c = c ∧ fr.slot = slot ∧ fr.f = f ∧ fr.w = formWidth i f ∧ fr.e = lanesE i row f s t (s.ctx t c) := by
  unfold readOperands at h
  simp only at h
  repeat' split at h
  all_goals cases h
  all_goals exact ⟨rfl, rfl, rfl, rfl, rfl, rfl⟩

/-- What a firing rests on: an operation of the table, an eligible slot, and sources that can be read (R323). -/
theorem firingOf_some {i : Instr} {s : State} {fr : Firing} (h : s.firingOf i = some fr) :
    ∃ opc opSub f row, toCode i = some (opc, opSub, f) ∧ opRow opc opSub = some row
      ∧ readyCommon i row f s s.cur.tile s.cur.ctx s.cur.slot = true ∧ readyOwn i s s.cur.tile s.cur.ctx s.cur.slot = true
      ∧ readOperands i row f s s.cur.tile s.cur.ctx s.cur.slot = .ok fr := by
  unfold State.firingOf at h
  cases hc : toCode i with
  | none => rw [hc] at h; cases h
  | some x =>
    obtain ⟨opc, opSub, f⟩ := x
    rw [hc] at h
    simp only at h
    cases hr : opRow opc opSub with
    | none => rw [hr] at h; cases h
    | some row =>
      rw [hr] at h
      simp only at h
      by_cases hready : (!(readyCommon i row f s s.cur.tile s.cur.ctx s.cur.slot && readyOwn i s s.cur.tile s.cur.ctx s.cur.slot)) = true
      · rw [if_pos hready] at h; cases h
      · rw [if_neg hready] at h
        cases ho : readOperands i row f s s.cur.tile s.cur.ctx s.cur.slot with
        | error e => rw [ho] at h; cases h
        | ok fr' =>
          rw [ho] at h
          simp only at h
          by_cases hcb : (decodesCb4 i row f s s.cur.tile s.cur.ctx && ownerFault (s.tile s.cur.tile) && fr'.e != 0) = true
          · rw [if_pos hcb] at h; cases h
          · rw [if_neg hcb] at h
            cases h
            simp only [Bool.not_eq_true, Bool.not_eq_false', Bool.and_eq_true] at hready
            exact ⟨opc, opSub, f, row, rfl, hr, hready.1, hready.2, ho⟩

/-- Everything that a firing can do. -/
theorem fire_of {i : Instr} {s : State} {fr : Firing} (body : State → Firing → Fired) (h : s.firingOf i = some fr) :
    fire i body s = match body s fr with
      | .done s1 => .next (s1.finished i s fr)
      | .doneThen s1 fi => .next ((s1.finished i s fr).haltCtx s.cur.tile s.cur.ctx s.cur.slot fi)
      | .stop fi => .next (s.haltCtx s.cur.tile s.cur.ctx s.cur.slot
          { fi with operands := if readsSources i then some (fr.a.val, fr.b.val) else none })
      | .idle => .next s := by
  obtain ⟨opc, opSub, f, row, hc, hr, h1, h2, ho⟩ := firingOf_some h
  unfold State.firingOf at h
  unfold fire readsSources
  simp only [hc, hr, h1, h2, ho, Bool.and_self, Bool.not_true, Bool.false_eq_true, if_false] at h ⊢
  by_cases hcb : (decodesCb4 i row f s s.cur.tile s.cur.ctx && ownerFault (s.tile s.cur.tile) && fr.e != 0) = true
  · rw [if_pos hcb] at h; cases h
  · rw [if_neg hcb] at h ⊢
    have hf : fr.f = f := (readOperands_place ho).2.2.2.1
    cases body s fr <;> simp only [State.finished, hf]

/-- Where a firing is. -/
theorem firingOf_place {i : Instr} {s : State} {fr : Firing} (h : s.firingOf i = some fr) :
    fr.t = s.cur.tile ∧ fr.c = s.cur.ctx ∧ fr.slot = s.cur.slot := by
  obtain ⟨_, _, _, _, _, _, _, _, ho⟩ := firingOf_some h
  exact ⟨(readOperands_place ho).1, (readOperands_place ho).2.1, (readOperands_place ho).2.2.1⟩

/-- The slot of a firing, and the lane width of its form. -/
theorem firingOf_slot {i : Instr} {s : State} {fr : Firing} {opc opSub : Nat} {f : Slot} (hc : toCode i = some (opc, opSub, f))
    (h : s.firingOf i = some fr) : fr.f = f ∧ fr.w = formWidth i f := by
  obtain ⟨_, _, g, _, hc', _, _, _, ho⟩ := firingOf_some h
  rw [hc] at hc'
  cases hc'
  exact ⟨(readOperands_place ho).2.2.2.1, (readOperands_place ho).2.2.2.2.1⟩

end Sys2Proof.Machine
end

