-- ==== Sys2Proof/Laws/LaneEffect.lean ====
section
/-! SUPPORT. What a lane result leaves behind (R44-R51, R120, R136): the shared operations that write it change the firing's context and nothing else, and
together they are the effect that statements name. -/

namespace Sys2Proof.Machine

open Sys2Proof

/-- Nothing changes outside one context, the L and the buffers of its tile, and the accesses and store numbers in flight. -/
structure Kept (t c : Nat) (s s' : State) : Prop where
  siblings : ∀ k, k % 8 ≠ c % 8 → s'.ctx t k = s.ctx t k
  tile : { s'.tile t with ctxs := (s.tile t).ctxs, last := (s.tile t).last, buffers := (s.tile t).buffers } = s.tile t
  tiles : ∀ k, k ≠ t → s'.tile k = s.tile k
  rest : { s' with tiles := s.tiles, accesses := s.accesses, nextAccess := s.nextAccess, writers := s.writers } = s

theorem Kept.refl (t c : Nat) (s : State) : Kept t c s s := ⟨fun _ _ => rfl, rfl, fun _ _ => rfl, rfl⟩

theorem Kept.trans {t c : Nat} {s s1 s2 : State} (h : Kept t c s s1) (h' : Kept t c s1 s2) : Kept t c s s2 where
  siblings k hk := (h'.siblings k hk).trans (h.siblings k hk)
  tile := by
    have := congrArg (fun x : Tile => { x with ctxs := (s.tile t).ctxs, last := (s.tile t).last, buffers := (s.tile t).buffers }) h'.tile
    exact this.trans h.tile
  tiles k hk := (h'.tiles k hk).trans (h.tiles k hk)
  rest := by
    have := congrArg (fun x : State => { x with tiles := s.tiles, accesses := s.accesses, nextAccess := s.nextAccess, writers := s.writers }) h'.rest
    exact this.trans h.rest

theorem Kept.setCtx (t c : Nat) (s : State) (cx : Ctx) : Kept t c s (s.setCtx t c cx) where
  siblings k hk := ctx_setCtx_other s hk cx
  tile := by simp [State.setCtx, Tile.setCtx]
  tiles k hk := tile_setCtx_other s hk c cx
  rest := rfl

/-- A tile of which only the buffers change. -/
theorem Kept.setBuffers (t c : Nat) (s : State) (bs : Vector (Option Buffer) 16) :
    Kept t c s (s.setTile t { s.tile t with buffers := bs }) where
  siblings k _ := by simp [State.ctx, Tile.ctx]
  tile := by simp
  tiles k hk := tile_setTile_other s hk _
  rest := rfl

/-- Accesses put in flight and numbers taken. -/
theorem Kept.traffic (t c : Nat) (s : State) (as : List Access) (n : Nat) (ws : SMap Writer) :
    Kept t c s { s with accesses := as, nextAccess := n, writers := ws } := ⟨fun _ _ => rfl, rfl, fun _ _ => rfl, rfl⟩

theorem Kept.issue (t c : Nat) (s : State) (a : Access) : Kept t c s (s.issue a) := by
  unfold State.issue State.recordTag State.setWriter
  split <;> exact Kept.traffic t c s _ _ _

theorem ctx_issue (s : State) (a : Access) (t c : Nat) : (s.issue a).ctx t c = s.ctx t c := by
  unfold State.issue State.recordTag State.setWriter
  split <;> rfl

theorem Kept.takeNumber (t c : Nat) (s : State) (w : Nat) : Kept t c s (s.takeNumber w).2 :=
  Kept.traffic t c s s.accesses s.nextAccess _

theorem Kept.writeBuffer (t c slot k : Nat) (s : State) (v : V512) : Kept t c s (writeBuffer s t c slot k v) := by
  unfold Machine.writeBuffer
  split
  · exact Kept.refl t c s
  · exact ((Kept.takeNumber t c s t).trans (Kept.issue t c _ _)).trans (Kept.setBuffers t c _ _)

theorem ctx_writeBuffer (s : State) (t c slot k : Nat) (v : V512) : (writeBuffer s t c slot k v).ctx t c = s.ctx t c := by
  unfold Machine.writeBuffer
  split
  · rfl
  · simp only [State.ctx, tile_setTile_same]
    show Tile.ctx (State.tile (State.issue _ _) t) c = _
    exact ctx_issue _ _ t c

theorem drainBuffer_keeps (t c slot n k : Nat) (ps : List Place) (s : State) :
    Kept t c s (drainBuffer t c slot n k ps s)
      ∧ ∃ rest, (drainBuffer t c slot n k ps s).ctx t c = { s.ctx t c with outs := set8 (s.ctx t c).outs n rest } := by
  induction ps generalizing s with
  | nil => exact ⟨Kept.setCtx t c s _, [], by simp [drainBuffer]⟩
  | cons p rest ih =>
    cases p with
    | full b =>
      have h := ih (writeBuffer s t c slot k b.payload)
      refine ⟨(Kept.writeBuffer t c slot k s b.payload).trans h.1, ?_⟩
      obtain ⟨r, hr⟩ := h.2
      exact ⟨r, by rw [drainBuffer, hr, ctx_writeBuffer]⟩
    | held id tag => exact ⟨Kept.setCtx t c s _, _, by simp [drainBuffer]; rfl⟩

/-- Sending a beat changes the endpoint, and what a circular buffer's write takes. -/
theorem setOuts_keeps (s : State) (t c slot n : Nat) (ps : List Place) :
    Kept t c s (s.setOuts t c slot n ps) ∧ ∃ rest, (s.setOuts t c slot n ps).ctx t c = { s.ctx t c with outs := set8 (s.ctx t c).outs n rest } := by
  unfold State.setOuts
  split
  · exact drainBuffer_keeps t c slot n _ ps s
  · exact ⟨Kept.setCtx t c s _, ps, by simp⟩

/-- The destination of a lane result (R44, R46, R51, R136). -/
theorem writeDest_keeps (s : State) (t c slot : Nat) (dst : Opnd) (w : Nat) (e : Mask) (vals : List Nat) :
    Kept t c s (s.writeDest t c slot dst w e vals) := by
  unfold State.writeDest State.sendBeat
  split
  · exact Kept.setCtx t c s _
  · exact (setOuts_keeps s t c slot _ _).1
  · exact Kept.refl t c s

theorem writePred_keeps (s : State) (t c : Nat) (dst : Opnd) (e cond : Mask) : Kept t c s (s.writePred t c dst e cond) := by
  unfold State.writePred
  split
  · exact Kept.setCtx t c s _
  · exact Kept.refl t c s

theorem updatePred_keeps (s : State) (t c : Nat) (op : PredOp) (reg : Fin 8) (e cond : Mask) :
    Kept t c s (s.updatePred t c op reg e cond) := by
  unfold State.updatePred
  simp only
  split
  · exact Kept.refl t c s
  · exact Kept.setCtx t c s _

theorem raise_keeps (s : State) (t c : Nat) (fl : FpFlags) : Kept t c s (s.raise t c fl) := Kept.setCtx t c s _

theorem afterFiring_keeps (s : State) (t c : Nat) (adv : BitVec 8) : Kept t c s (s.afterFiring t c adv) where
  siblings k hk := by simp [State.afterFiring, State.ctx, Tile.ctx, Tile.setCtx, at8_set8_other _ hk]
  tile := by simp [State.afterFiring, Tile.setCtx]
  tiles k hk := tile_setTile_other s hk _
  rest := rfl

theorem applyLanes_keeps (s : State) (fr : Firing) (r : LaneResult) : Kept fr.t fr.c s (applyLanes s fr r) :=
  (((writeDest_keeps s _ _ _ _ _ _ _).trans (writePred_keeps _ _ _ _ _ _)).trans (updatePred_keeps _ _ _ _ _ _ _)).trans (raise_keeps _ _ _ _)

/-! ### Firings that take no store number -/

/-- Nothing outside the tiles changes, and no buffer of the tile. -/
structure Quiet (t : Nat) (s s' : State) : Prop where
  rest : { s' with tiles := s.tiles } = s
  buffers : (s'.tile t).buffers = (s.tile t).buffers

theorem Quiet.refl (t : Nat) (s : State) : Quiet t s s := ⟨rfl, rfl⟩

theorem Quiet.trans {t : Nat} {s s1 s2 : State} (h : Quiet t s s1) (h' : Quiet t s1 s2) : Quiet t s s2 where
  rest := (congrArg (fun x : State => { x with tiles := s.tiles }) h'.rest).trans h.rest
  buffers := h'.buffers.trans h.buffers

theorem Quiet.setCtx (t c : Nat) (s : State) (cx : Ctx) : Quiet t s (s.setCtx t c cx) := ⟨rfl, by simp [State.setCtx, Tile.setCtx]⟩

theorem writeDest_quiet (s : State) (t c slot : Nat) (dst : Opnd) (w : Nat) (e : Mask) (vals : List Nat)
    (h : ∀ k : Fin 8, dst = .o k → (at8 (s.ctx t c).word.obind k.val).buf? = none) : Quiet t s (s.writeDest t c slot dst w e vals) := by
  unfold State.writeDest State.sendBeat State.setOuts
  split
  · exact Quiet.setCtx t c s _
  · rename_i k
    simp only [h k rfl]
    exact Quiet.setCtx t c s _
  · exact Quiet.refl t s

theorem writePred_quiet (s : State) (t c : Nat) (dst : Opnd) (e cond : Mask) : Quiet t s (s.writePred t c dst e cond) := by
  unfold State.writePred
  split
  · exact Quiet.setCtx t c s _
  · exact Quiet.refl t s

theorem updatePred_quiet (s : State) (t c : Nat) (op : PredOp) (reg : Fin 8) (e cond : Mask) :
    Quiet t s (s.updatePred t c op reg e cond) := by
  unfold State.updatePred
  simp only
  split
  · exact Quiet.refl t s
  · exact Quiet.setCtx t c s _

theorem afterFiring_quiet (s : State) (t c : Nat) (adv : BitVec 8) : Quiet t s (s.afterFiring t c adv) :=
  ⟨rfl, by simp [State.afterFiring, Tile.setCtx]⟩

/-! ### The context -/

theorem writeDest_ctx (s : State) (t c slot : Nat) (dst : Opnd) (w : Nat) (e : Mask) (vals : List Nat) :
    ∃ outs, (s.writeDest t c slot dst w e vals).ctx t c =
      { s.ctx t c with
        d := match dst with
          | .d k => set8 (s.ctx t c).d k.val (mergeLanes w (512 / w) e (at8 (s.ctx t c).d k.val) vals)
          | _ => (s.ctx t c).d,
        outs := outs }
      ∧ (∀ k : Fin 8, dst ≠ .o k → at8 outs k.val = at8 (s.ctx t c).outs k.val)
      ∧ ∀ k : Fin 8, dst = .o k → (at8 (s.ctx t c).word.obind k.val).buf? = none →
        at8 outs k.val = at8 (s.ctx t c).outs k.val ++
          [.full { payload := tokenLanes w (512 / w) e vals, mask := widenMask w e, tag := at8 (s.ctx t c).tags k.val,
                   vc := (at8 (s.ctx t c).word.obind k.val).vc, poison := false }] := by
  unfold State.writeDest
  split
  · exact ⟨(s.ctx t c).outs, by simp [Ctx.setD], fun _ _ => rfl, fun _ h => by cases h⟩
  · rename_i n
    unfold State.sendBeat
    by_cases hb : (at8 (s.ctx t c).word.obind n.val).buf? = none
    · refine ⟨_, by unfold State.setOuts; simp only [hb]; rw [ctx_setCtx_same], ?_, ?_⟩
      · intro k hk
        refine at8_set8_other _ ?_ _
        intro h
        apply hk
        congr 1
        ext
        have := k.isLt; have := n.isLt
        omega
      · intro k hk _
        cases hk
        simp
    · obtain ⟨rest, hr⟩ := (setOuts_keeps s t c slot n.val _).2
      refine ⟨_, hr, ?_, ?_⟩
      · intro k hk
        refine at8_set8_other _ ?_ _
        intro h
        apply hk
        congr 1
        ext
        have := k.isLt; have := n.isLt
        omega
      · intro k hk hn
        cases hk
        exact absurd hn hb
  · rename_i h1 h2
    refine ⟨(s.ctx t c).outs, ?_, fun _ _ => rfl, fun k hk => absurd hk (h2 k)⟩
    split
    · exact absurd rfl (h1 _)
    · rfl

theorem writePred_ctx (s : State) (t c : Nat) (dst : Opnd) (e cond : Mask) :
    (s.writePred t c dst e cond).ctx t c =
      { s.ctx t c with p := match dst with
          | .p k => set8 (s.ctx t c).p k.val (predWrite e cond (at8 (s.ctx t c).p k.val))
          | _ => (s.ctx t c).p } := by
  cases dst <;> simp [State.writePred, Ctx.setP]

theorem updatePred_ctx (s : State) (t c : Nat) (op : PredOp) (reg : Fin 8) (e cond : Mask) :
    (s.updatePred t c op reg e cond).ctx t c =
      { s.ctx t c with p := match op with
          | .none => (s.ctx t c).p
          | op => set8 (s.ctx t c).p reg.val (PredOp.apply op e cond (at8 (s.ctx t c).p reg.val)) } := by
  unfold State.updatePred
  cases op <;> simp [Ctx.setP]

theorem raise_ctx (s : State) (t c : Nat) (fl : FpFlags) : (s.raise t c fl).ctx t c = { s.ctx t c with flags := (s.ctx t c).flags ||| fl } := by
  simp [State.raise]

theorem afterFiring_ctx (s : State) (t c : Nat) (adv : BitVec 8) : (s.afterFiring t c adv).ctx t c = (s.ctx t c).consume adv := by
  simp [State.afterFiring, State.ctx, Tile.ctx, Tile.setCtx]

/-! ### The effect as a whole -/

theorem at8_consume (cx : Ctx) (adv : BitVec 8) (k : Fin 8) :
    at8 (cx.consume adv).ins k.val = if adv.getLsbD k.val then (at8 cx.ins k.val).tail else at8 cx.ins k.val := by
  have hk : k.val % 8 = k.val := Nat.mod_eq_of_lt k.isLt
  simp only [at8, Ctx.consume, Vector.getElem_ofFn, hk]
  rfl

/-- A lane result written, with what follows every firing, has the effect that statements name (R44-R51, R120, R136, R326). -/
theorem applyLanes_effect {i : Instr} {s : State} {fr : Firing} (r : LaneResult) (val : Nat → Nat) (c : Nat → Bool) (fl : Nat → FpFlags)
    (hp : fr.t = s.cur.tile ∧ fr.c = s.cur.ctx) (hw : fr.w = 32 ∨ fr.w = 64)
    (hv : ∀ l, l < fr.n → r.vals.getD l 0 = val l) (hc : ∀ l, l < fr.n → r.cond.getD l false = c l)
    (hf : flagsOver fr.w fr.e r.flags = fr.gather fl) :
    LaneEffect i s fr val c fl ((applyLanes s fr r).finished i s fr) := by
  obtain ⟨ht, hcx⟩ := hp
  obtain ⟨outs, hd, ho1, ho2⟩ := writeDest_ctx s fr.t fr.c fr.slot fr.f.dst fr.w fr.e r.vals
  have hn : ∀ l, l < fr.n → fr.w * (l + 1) ≤ 512 := by
    intro l hl
    unfold Firing.n at hl
    rcases hw with h | h <;> rw [h] at hl ⊢ <;> omega
  have hdiv : ∀ b, b < 16 → b / (fr.w / 32) < fr.n := by
    intro b hb
    unfold Firing.n
    rcases hw with h | h <;> rw [h] <;> omega
  -- the context after the four writes
  have hctx : (applyLanes s fr r).ctx fr.t fr.c =
      { s.ctx fr.t fr.c with
        d := (match fr.f.dst with
          | .d k => set8 (s.ctx fr.t fr.c).d k.val (mergeLanes fr.w (512 / fr.w) fr.e (at8 (s.ctx fr.t fr.c).d k.val) r.vals)
          | _ => (s.ctx fr.t fr.c).d),
        outs := outs,
        p := ((applyLanes s fr r).ctx fr.t fr.c).p,
        flags := (s.ctx fr.t fr.c).flags ||| flagsOver fr.w fr.e r.flags } := by
    unfold applyLanes
    simp only [raise_ctx, updatePred_ctx, writePred_ctx, hd]
  have hpred : ((applyLanes s fr r).ctx fr.t fr.c).p =
      (let e := widenMask fr.w fr.e
       let cond := maskOfLanes fr.w r.cond
       let p1 := match fr.f.dst with
         | .p k => set8 (s.ctx fr.t fr.c).p k.val (predWrite e cond (at8 (s.ctx fr.t fr.c).p k.val))
         | _ => (s.ctx fr.t fr.c).p
       match fr.f.predOp with
       | .none => p1
       | op => set8 p1 fr.f.predReg.val (PredOp.apply op e cond (at8 p1 fr.f.predReg.val))) := by
    unfold applyLanes
    simp only [raise_ctx, updatePred_ctx, writePred_ctx, hd]
  have hk := applyLanes_keeps s fr r
  have hfin : Kept fr.t fr.c s ((applyLanes s fr r).finished i s fr) := by
    unfold State.finished
    rw [← ht, ← hcx]
    exact (hk.trans (raise_keeps _ _ _ _)).trans (afterFiring_keeps _ _ _ _)
  have hlast : ((applyLanes s fr r).finished i s fr).ctx fr.t fr.c =
      ({ (applyLanes s fr r).ctx fr.t fr.c with
          flags := (s.ctx fr.t fr.c).flags ||| flagsOver fr.w fr.e r.flags ||| fr.decodeFlags }).consume
        (advMask i (s.ctx fr.t fr.c) fr.f) := by
    unfold State.finished
    rw [← ht, ← hcx, afterFiring_ctx, raise_ctx, hctx]
  have hbitw : ∀ b, b < 16 → (widenMask fr.w fr.e).getLsbD b = fr.on (b / (fr.w / 32)) := by
    intro b hb
    rw [widenMask, maskOf_bit _ hb]; rfl
  have hbitc : ∀ b, b < 16 → (maskOfLanes fr.w r.cond).getLsbD b = c (b / (fr.w / 32)) := by
    intro b hb
    rw [maskOfLanes, maskOf_bit _ hb, hc _ (hdiv b hb)]
  have hfin8 : ∀ k j : Fin 8, k ≠ j → k.val % 8 ≠ j.val % 8 := by
    intro k j h1 h2
    apply h1; ext; have := k.isLt; have := j.isLt; omega
  refine ⟨?_, ?_, ?_, ?_, ?_, ?_, ?_, ?_, hfin.siblings, hfin.tile, ?_, hfin.tiles, hfin.rest, ?_⟩
  · -- dest
    intro k hk l hl
    rw [hlast]
    simp only [Ctx.consume]
    rw [hctx]
    simp only [hk, at8_set8_same]
    rw [mergeLanes_lane (512 / fr.w) _ _ _ hl (hn l hl), hv l hl]
    rfl
  · -- keeps
    intro k hk
    rw [hlast]
    simp only [Ctx.consume]
    rw [hctx]
    split
    · rename_i j hj
      refine at8_set8_other _ (hfin8 k j ?_) _
      rintro rfl
      exact hk hj
    · rfl
  · -- pred
    intro k b hb
    rw [hlast]
    simp only [Ctx.consume]
    rw [hpred]
    simp only
    have hp1 : ∀ j : Fin 8, (at8 (match fr.f.dst with
         | .p k => set8 (s.ctx fr.t fr.c).p k.val (predWrite (widenMask fr.w fr.e) (maskOfLanes fr.w r.cond) (at8 (s.ctx fr.t fr.c).p k.val))
         | _ => (s.ctx fr.t fr.c).p) j.val).getLsbD b =
        if !fr.on (b / (fr.w / 32)) then (at8 (s.ctx fr.t fr.c).p j.val).getLsbD b
        else if fr.f.dst = .p j then c (b / (fr.w / 32)) else (at8 (s.ctx fr.t fr.c).p j.val).getLsbD b := by
      intro j
      split
      · rename_i m hm
        rw [hm]
        by_cases hjm : j = m
        · subst hjm
          rw [at8_set8_same, predWrite, predOp_bit _ _ _ _ hb, hbitw b hb, hbitc b hb]
          cases fr.on (b / (fr.w / 32)) <;> simp [PredOp.bit]
        · rw [at8_set8_other _ (hfin8 j m hjm)]
          have : ¬ (Opnd.p m = Opnd.p j) := by intro h; cases h; exact hjm rfl
          simp [this]
      · rename_i hm
        have : ¬ (fr.f.dst = Opnd.p j) := fun h => hm j h
        simp [this]
    have hset : ∀ op : PredOp, (at8 (set8 (match fr.f.dst with
         | .p k => set8 (s.ctx fr.t fr.c).p k.val (predWrite (widenMask fr.w fr.e) (maskOfLanes fr.w r.cond) (at8 (s.ctx fr.t fr.c).p k.val))
         | _ => (s.ctx fr.t fr.c).p) fr.f.predReg.val (PredOp.apply op (widenMask fr.w fr.e) (maskOfLanes fr.w r.cond) (at8 (match fr.f.dst with
         | .p k => set8 (s.ctx fr.t fr.c).p k.val (predWrite (widenMask fr.w fr.e) (maskOfLanes fr.w r.cond) (at8 (s.ctx fr.t fr.c).p k.val))
         | _ => (s.ctx fr.t fr.c).p) fr.f.predReg.val))) k.val).getLsbD b =
        if !fr.on (b / (fr.w / 32)) then (at8 (s.ctx fr.t fr.c).p k.val).getLsbD b
        else
          if fr.f.predReg = k then PredOp.bit op (if fr.f.dst = .p k then c (b / (fr.w / 32)) else (at8 (s.ctx fr.t fr.c).p k.val).getLsbD b)
            (c (b / (fr.w / 32)))
          else if fr.f.dst = .p k then c (b / (fr.w / 32)) else (at8 (s.ctx fr.t fr.c).p k.val).getLsbD b := by
      intro op
      by_cases hkr : fr.f.predReg = k
      · rw [if_pos hkr]
        subst hkr
        rw [at8_set8_same, predOp_bit _ _ _ _ hb, hbitw b hb, hbitc b hb, hp1]
        cases fr.on (b / (fr.w / 32)) <;> simp
      · rw [if_neg hkr, at8_set8_other _ (hfin8 k _ (Ne.symm hkr)), hp1]
    cases hop : fr.f.predOp with
    | none =>
      simp only
      rw [hp1]
      by_cases hkr : fr.f.predReg = k <;> simp [PredOp.bit]
    | set => simpa using hset .set
    | setn => simpa using hset .setn
    | and => simpa using hset .and
    | or => simpa using hset .or
    | xor => simpa using hset .xor
    | andn => simpa using hset .andn
  · -- flags
    rw [hlast, ← hf]
    rfl
  · -- ins
    intro k
    rw [hlast, at8_consume, hctx]
  · -- sent
    intro k hk hb
    have hout : at8 (((applyLanes s fr r).finished i s fr).ctx fr.t fr.c).outs k.val = at8 outs k.val := by
      rw [hlast]
      simp only [Ctx.consume]
      rw [hctx]
    rw [hout, ho2 k hk hb]
    refine ⟨_, rfl, ?_, ?_, ?_, ?_⟩
    · rfl
    · rfl
    · intro l hl
      rw [tokenLanes_lane (512 / fr.w) _ _ hl (hn l hl), hv l hl]
      rfl
    · intro x hx
      exact hbitw x hx
  · -- outs
    intro k hk
    rw [hlast]
    simp only [Ctx.consume]
    rw [hctx]
    exact ho1 k hk
  · -- ctx
    rw [hlast]
    simp only [Ctx.consume]
    rw [hctx]
  · -- last
    unfold State.finished State.afterFiring
    simp only [← ht, ← hcx, tile_setTile_same]
  · -- quiet
    intro hq
    have h1 : Quiet fr.t s (applyLanes s fr r) :=
      (((writeDest_quiet s _ _ _ _ _ _ _ hq).trans (writePred_quiet _ _ _ _ _ _)).trans (updatePred_quiet _ _ _ _ _ _ _)).trans
        (Quiet.setCtx _ _ _ _)
    unfold State.finished
    rw [← ht, ← hcx]
    have h2 := (h1.trans (Quiet.setCtx fr.t fr.c _ _ : Quiet fr.t _ ((applyLanes s fr r).raise fr.t fr.c fr.decodeFlags))).trans
      (afterFiring_quiet _ fr.t fr.c (advMask i (s.ctx fr.t fr.c) fr.f))
    exact ⟨h2.rest, h2.buffers⟩

end Sys2Proof.Machine
end

