-- ==== Sys2Proof/Laws/Memory.lean ====
section
/-! SUPPORT. The laws of memory: a read after a write, and that every operation on memory keeps its canonical form. -/

namespace Sys2Proof.Machine

open Sys2Proof

/-! ### Cells -/

theorem cellRead_cellPut (cs : List Host.Cell) (a : Nat) (b : Byte) (k : Nat) :
    cellRead (cellPut cs a b) k = if k = a then b else cellRead cs k := by
  induction cs with
  | nil => by_cases h : k = a <;> simp [cellPut, cellRead, h, Ne.symm]
  | cons x rest ih =>
    obtain ⟨j, x⟩ := x
    simp only [cellPut]
    split
    · by_cases h : k = a
      · simp [cellRead, h]
      · simp [cellRead, h, Ne.symm h]
    · split
      · rename_i h; subst h
        by_cases h : k = a
        · simp [cellRead, h]
        · simp [cellRead, h, Ne.symm h]
      · simp only [cellRead, ih]
        by_cases h : j = k
        · subst h; rename_i h1 h2; simp [Ne.symm h2]
        · simp [h]

theorem cellRead_filter (cs : List Host.Cell) (keep : Nat → Bool) (k : Nat) :
    cellRead (cs.filter fun c => keep c.1) k = if keep k then cellRead cs k else Memory.blank := by
  induction cs with
  | nil => simp [cellRead]
  | cons x rest ih =>
    obtain ⟨j, x⟩ := x
    by_cases h : keep j = true
    · simp only [List.filter_cons, h, if_true, cellRead, ih]
      by_cases hk : j = k
      · subst hk; simp [h]
      · simp [hk]
    · simp only [List.filter_cons, h, cellRead]
      by_cases hk : j = k
      · subst hk; simpa [h] using ih
      · simpa [hk] using ih

theorem cellRead_cellWrite (cs : List Host.Cell) (a : Nat) (b : Byte) (k : Nat) :
    cellRead (cellWrite cs a b) k = if k = a then b else cellRead cs k := by
  unfold cellWrite
  split
  · rename_i h
    have := cellRead_filter cs (fun x => x != a) k
    rw [this, h]
    by_cases hk : k = a <;> simp [hk]
  · exact cellRead_cellPut cs a b k

theorem cellsFrom_weaken {lo lo' : Nat} (h : lo' ≤ lo) (cs : List Host.Cell) (hc : cellsFrom lo cs = true) : cellsFrom lo' cs = true := by
  cases cs with
  | nil => rfl
  | cons x rest =>
    simp only [cellsFrom, Bool.and_eq_true, decide_eq_true_eq] at hc ⊢
    exact ⟨⟨by omega, hc.1.2⟩, hc.2⟩

theorem cellsFrom_filter {lo : Nat} (p : Host.Cell → Bool) (cs : List Host.Cell) (hc : cellsFrom lo cs = true) : cellsFrom lo (cs.filter p) = true := by
  induction cs generalizing lo with
  | nil => rfl
  | cons x rest ih =>
    simp only [cellsFrom, Bool.and_eq_true, decide_eq_true_eq] at hc
    have hr := ih hc.2
    by_cases h : p x = true
    · simp only [List.filter_cons, h, if_true, cellsFrom, Bool.and_eq_true, decide_eq_true_eq]
      exact ⟨hc.1, hr⟩
    · simp only [List.filter_cons, h]
      exact cellsFrom_weaken (by omega) _ hr

theorem cellsFrom_cellPut {lo a : Nat} {b : Byte} (hb : b ≠ Memory.blank) (ha : lo ≤ a) (cs : List Host.Cell) (hc : cellsFrom lo cs = true) :
    cellsFrom lo (cellPut cs a b) = true := by
  induction cs generalizing lo with
  | nil => simp [cellPut, cellsFrom, ha, hb]
  | cons x rest ih =>
    obtain ⟨j, x⟩ := x
    simp only [cellsFrom, Bool.and_eq_true, decide_eq_true_eq] at hc
    simp only [cellPut]
    split
    · rename_i h
      simp only [cellsFrom, Bool.and_eq_true, decide_eq_true_eq]
      exact ⟨⟨ha, by simp [hb]⟩, ⟨⟨by omega, hc.1.2⟩, hc.2⟩⟩
    · split
      · rename_i h; subst h
        simp only [cellsFrom, Bool.and_eq_true, decide_eq_true_eq]
        exact ⟨⟨ha, by simp [hb]⟩, hc.2⟩
      · simp only [cellsFrom, Bool.and_eq_true, decide_eq_true_eq]
        exact ⟨hc.1, ih (by omega) hc.2⟩

theorem cellsFrom_cellWrite {lo a : Nat} (b : Byte) (ha : lo ≤ a) (cs : List Host.Cell) (hc : cellsFrom lo cs = true) :
    cellsFrom lo (cellWrite cs a b) = true := by
  unfold cellWrite
  split
  · exact cellsFrom_filter _ cs hc
  · rename_i h; exact cellsFrom_cellPut h ha cs hc

/-! ### Sets and keys -/

theorem NSet.from_weaken {lo lo' : Nat} (h : lo' ≤ lo) (s : NSet) (hs : NSet.from lo s = true) : NSet.from lo' s = true := by
  cases s with
  | nil => rfl
  | cons x rest =>
    simp only [NSet.from, Bool.and_eq_true, decide_eq_true_eq] at hs ⊢
    exact ⟨by omega, hs.2⟩

theorem NSet.from_filter {lo : Nat} (p : Nat → Bool) (s : NSet) (hs : NSet.from lo s = true) : NSet.from lo (s.filter p) = true := by
  induction s generalizing lo with
  | nil => rfl
  | cons x rest ih =>
    simp only [NSet.from, Bool.and_eq_true, decide_eq_true_eq] at hs
    have hr := ih hs.2
    by_cases h : p x = true
    · simp only [List.filter_cons, h, if_true, NSet.from, Bool.and_eq_true, decide_eq_true_eq]
      exact ⟨hs.1, hr⟩
    · simp only [List.filter_cons, h]
      exact NSet.from_weaken (by omega) _ hr

theorem NSet.from_insert {lo k : Nat} (hk : lo ≤ k) (s : NSet) (hs : NSet.from lo s = true) : NSet.from lo (NSet.insert s k) = true := by
  induction s generalizing lo with
  | nil => simp [NSet.insert, NSet.from, hk]
  | cons x rest ih =>
    simp only [NSet.from, Bool.and_eq_true, decide_eq_true_eq] at hs
    simp only [NSet.insert]
    split
    · simp only [NSet.from, Bool.and_eq_true, decide_eq_true_eq]
      exact ⟨hk, by omega, hs.2⟩
    · split
      · simp only [NSet.from, Bool.and_eq_true, decide_eq_true_eq]
        exact hs
      · simp only [NSet.from, Bool.and_eq_true, decide_eq_true_eq]
        exact ⟨hs.1, ih (by omega) hs.2⟩

theorem NSet.contains_insert (s : NSet) (k j : Nat) : (NSet.insert s k).contains j = (decide (j = k) || s.contains j) := by
  induction s with
  | nil => by_cases h : j = k <;> simp [NSet.insert, h]
  | cons x rest ih =>
    simp only [NSet.insert]
    split
    · by_cases h : j = k <;> simp [h]
    · split
      · rename_i h; subst h
        by_cases h : j = k <;> simp [h]
      · simp only [List.contains_cons, ih]
        by_cases h : j = k <;> simp [h]

theorem NSet.contains_remove (s : NSet) (k j : Nat) : (NSet.remove s k).contains j = (decide (j ≠ k) && s.contains j) := by
  unfold NSet.remove
  rw [Bool.eq_iff_iff]
  simp [List.mem_filter, and_comm]

theorem keysFrom_weaken {lo lo' : Nat} (h : lo' ≤ lo) (ks : SMap Nat) (hc : keysFrom lo ks = true) : keysFrom lo' ks = true := by
  cases ks with
  | nil => rfl
  | cons x rest =>
    simp only [keysFrom, Bool.and_eq_true, decide_eq_true_eq] at hc ⊢
    exact ⟨⟨by omega, hc.1.2⟩, hc.2⟩

theorem keysFrom_filter {lo : Nat} (p : Nat × Nat → Bool) (ks : SMap Nat) (hc : keysFrom lo ks = true) : keysFrom lo (ks.filter p) = true := by
  induction ks generalizing lo with
  | nil => rfl
  | cons x rest ih =>
    simp only [keysFrom, Bool.and_eq_true, decide_eq_true_eq] at hc
    have hr := ih hc.2
    by_cases h : p x = true
    · simp only [List.filter_cons, h, if_true, keysFrom, Bool.and_eq_true, decide_eq_true_eq]
      exact ⟨hc.1, hr⟩
    · simp only [List.filter_cons, h]
      exact keysFrom_weaken (by omega) _ hr

theorem keysFrom_set {lo g k : Nat} (hk : k ≠ 0) (hg : lo ≤ g) (ks : SMap Nat) (hc : keysFrom lo ks = true) : keysFrom lo (SMap.set ks g k) = true := by
  induction ks generalizing lo with
  | nil => simp [SMap.set, keysFrom, hg, hk]
  | cons x rest ih =>
    obtain ⟨j, x⟩ := x
    simp only [keysFrom, Bool.and_eq_true, decide_eq_true_eq] at hc
    simp only [SMap.set]
    split
    · simp only [keysFrom, Bool.and_eq_true, decide_eq_true_eq]
      exact ⟨⟨hg, by simp [hk]⟩, ⟨⟨by omega, hc.1.2⟩, hc.2⟩⟩
    · split
      · rename_i h; subst h
        simp only [keysFrom, Bool.and_eq_true, decide_eq_true_eq]
        exact ⟨⟨hg, by simp [hk]⟩, hc.2⟩
      · simp only [keysFrom, Bool.and_eq_true, decide_eq_true_eq]
        exact ⟨hc.1, ih (by omega) hc.2⟩

/-! ### A read after a write -/

@[simp] theorem Memory.byte_setByte (m : Memory) (a : Nat) (b : Byte) (k : Nat) : (m.setByte a b).byte k = if k = a then b else m.byte k :=
  cellRead_cellWrite m.cells a b k

@[simp] theorem Memory.byte_setFull (m : Memory) (g : Nat) (b : Bool) (k : Nat) : (m.setFull g b).byte k = m.byte k := rfl
@[simp] theorem Memory.byte_setPoison (m : Memory) (g : Nat) (b : Bool) (k : Nat) : (m.setPoison g b).byte k = m.byte k := rfl
@[simp] theorem Memory.byte_setKey (m : Memory) (g n k : Nat) : (m.setKey g n).byte k = m.byte k := rfl

@[simp] theorem Memory.isFull_setByte (m : Memory) (a : Nat) (b : Byte) (g : Nat) : (m.setByte a b).isFull g = m.isFull g := rfl
@[simp] theorem Memory.isPoison_setByte (m : Memory) (a : Nat) (b : Byte) (g : Nat) : (m.setByte a b).isPoison g = m.isPoison g := rfl
@[simp] theorem Memory.keyOf_setByte (m : Memory) (a : Nat) (b : Byte) (g : Nat) : (m.setByte a b).keyOf g = m.keyOf g := rfl

@[simp] theorem Memory.isFull_setFull (m : Memory) (g : Nat) (b : Bool) (k : Nat) : (m.setFull g b).isFull k = if k = g then b else m.isFull k := by
  cases b
  · simp only [Memory.isFull, Memory.setFull, if_false, NSet.contains_remove, Bool.false_eq_true]
    by_cases h : k = g <;> simp [h]
  · simp only [Memory.isFull, Memory.setFull, if_true, NSet.contains_insert]
    by_cases h : k = g <;> simp [h]

@[simp] theorem Memory.isPoison_setPoison (m : Memory) (g : Nat) (b : Bool) (k : Nat) : (m.setPoison g b).isPoison k = if k = g then b else m.isPoison k := by
  cases b
  · simp only [Memory.isPoison, Memory.setPoison, if_false, NSet.contains_remove, Bool.false_eq_true]
    by_cases h : k = g <;> simp [h]
  · simp only [Memory.isPoison, Memory.setPoison, if_true, NSet.contains_insert]
    by_cases h : k = g <;> simp [h]

/-! ### Every operation keeps the canonical form -/

/-- The canonical form, part by part. -/
theorem Memory.wf_iff (m : Memory) : m.wf = true ↔
    cellsFrom 0 m.cells = true ∧ NSet.from 0 m.full = true ∧ NSet.from 0 m.poison = true ∧ keysFrom 0 m.keys = true := by
  simp [Memory.wf, and_assoc]

theorem Memory.wf_setByte {m : Memory} (a : Nat) (b : Byte) (h : m.wf = true) : (m.setByte a b).wf = true := by
  rw [Memory.wf_iff] at h ⊢
  exact ⟨cellsFrom_cellWrite b (Nat.zero_le a) _ h.1, h.2⟩

theorem Memory.wf_setFull {m : Memory} (g : Nat) (b : Bool) (h : m.wf = true) : (m.setFull g b).wf = true := by
  rw [Memory.wf_iff] at h ⊢
  refine ⟨h.1, ?_, h.2.2⟩
  cases b
  · exact NSet.from_filter _ _ h.2.1
  · exact NSet.from_insert (Nat.zero_le g) _ h.2.1

theorem Memory.wf_setPoison {m : Memory} (g : Nat) (b : Bool) (h : m.wf = true) : (m.setPoison g b).wf = true := by
  rw [Memory.wf_iff] at h ⊢
  refine ⟨h.1, h.2.1, ?_, h.2.2.2⟩
  cases b
  · exact NSet.from_filter _ _ h.2.2.1
  · exact NSet.from_insert (Nat.zero_le g) _ h.2.2.1

theorem Memory.wf_setKey {m : Memory} (g k : Nat) (h : m.wf = true) : (m.setKey g k).wf = true := by
  rw [Memory.wf_iff] at h ⊢
  refine ⟨h.1, h.2.1, h.2.2.1, ?_⟩
  unfold Memory.setKey
  by_cases hk : k = 0
  · simp only [hk, if_true]; exact keysFrom_filter _ _ h.2.2.2
  · simp only [hk, if_false]; exact keysFrom_set hk (Nat.zero_le g) _ h.2.2.2

/-- A fold of operations that each keep the canonical form keeps it. -/
theorem Memory.wf_foldl {α : Type} (op : Memory → α → Memory) (hop : ∀ m x, m.wf = true → (op m x).wf = true) (xs : List α) (m : Memory)
    (h : m.wf = true) : (xs.foldl op m).wf = true := by
  induction xs generalizing m with
  | nil => exact h
  | cons x rest ih => exact ih _ (hop m x h)

theorem Memory.wf_write {m : Memory} (a n x : Nat) (h : m.wf = true) : (m.write a n x).wf = true :=
  Memory.wf_foldl _ (fun _ _ => Memory.wf_setByte _ _) _ m h

theorem Memory.wf_setGranule {m : Memory} (g : Nat) (data mask : BitVec 128) (h : m.wf = true) : (m.setGranule g data mask).wf = true :=
  Memory.wf_write _ _ _ h

theorem Memory.wf_putCells {m : Memory} (lo : Nat) (cs : List Host.Cell) (h : m.wf = true) : (m.putCells lo cs).wf = true :=
  Memory.wf_foldl _ (fun _ _ => Memory.wf_setByte _ _) _ m h

theorem Memory.wf_zeroRange {m : Memory} (lo n : Nat) (h : m.wf = true) : (m.zeroRange lo n).wf = true := by
  rw [Memory.wf_iff] at h ⊢
  exact ⟨cellsFrom_filter _ _ h.1, NSet.from_filter _ _ h.2.1, NSet.from_filter _ _ h.2.2.1, keysFrom_filter _ _ h.2.2.2⟩

theorem Memory.wf_putSaved {m : Memory} (lo n : Nat) (cs : List Host.Cell) (full poison : NSet) (h : m.wf = true) :
    (m.putSaved lo n cs full poison).wf = true :=
  Memory.wf_foldl _ (fun _ _ => Memory.wf_setPoison _ _) _ _
    (Memory.wf_foldl _ (fun _ _ => Memory.wf_setFull _ _) _ _ (Memory.wf_putCells _ _ (Memory.wf_zeroRange _ _ h)))

theorem Memory.wf_emptyRange {m : Memory} (lo n : Nat) (h : m.wf = true) : (m.emptyRange lo n).wf = true := by
  rw [Memory.wf_iff] at h ⊢
  exact ⟨h.1, NSet.from_filter _ _ h.2.1, h.2.2⟩

theorem Memory.wf_loadData {m : Memory} (pa : Nat) (r : DataRec) (h : m.wf = true) : (m.loadData pa r).wf = true := by
  refine Memory.wf_foldl _ (fun m k hm => ?_) _ _ (Memory.wf_write _ _ _ h)
  have h1 := Memory.wf_setKey (pa / 16 + k) 0 (Memory.wf_setPoison (pa / 16 + k) false hm)
  dsimp only
  split
  · exact Memory.wf_setFull _ _ h1
  · exact h1

theorem Memory.wf_setKeys {m : Memory} (g n k : Nat) (h : m.wf = true) : (m.setKeys g n k).wf = true := by
  unfold Memory.setKeys
  split
  · rw [Memory.wf_iff] at h ⊢
    exact ⟨h.1, h.2.1, h.2.2.1, keysFrom_filter _ _ h.2.2.2⟩
  · induction List.range n with
    | nil => exact h
    | cons i rest ih => exact Memory.wf_setKey _ _ ih

theorem Memory.wf_underKey {m : Memory} (key lo n : Nat) (h : m.wf = true) : (m.underKey key lo n).wf = true := by
  unfold Memory.underKey
  dsimp only
  split
  · exact h
  · refine Memory.wf_setKeys _ _ _ (Memory.wf_foldl _ (fun m g hm => ?_) _ _ h)
    split
    · exact hm
    · exact Memory.wf_setKey _ _ (Memory.wf_write _ _ _ hm)

theorem Memory.wf_cleanRange {m : Memory} (lo n : Nat) (h : m.wf = true) : (m.cleanRange lo n).wf = true := by
  rw [Memory.wf_iff] at h ⊢
  exact ⟨h.1, h.2.1, NSet.from_filter _ _ h.2.2.1, h.2.2.2⟩

theorem Memory.wf_putBlob {m : Memory} (key lo : Nat) (b : Blob) (h : m.wf = true) : (m.putBlob key lo b).wf = true :=
  Memory.wf_cleanRange _ _ (Memory.wf_write _ _ _ (Memory.wf_underKey _ _ _ h))

theorem Memory.wf_putRange {m : Memory} (key lo n : Nat) (cs : List Host.Cell) (h : m.wf = true) : (m.putRange key lo n cs).wf = true := by
  refine Memory.wf_cleanRange _ _ (Memory.wf_putCells _ _ ?_)
  have h1 := Memory.wf_underKey key lo n h
  rw [Memory.wf_iff] at h1 ⊢
  exact ⟨cellsFrom_filter _ _ h1.1, h1.2⟩

/-! ### Ranges -/

theorem Memory.byte_zeroRange (m : Memory) (lo n k : Nat) :
    (m.zeroRange lo n).byte k = if lo ≤ k ∧ k < lo + n then Memory.blank else m.byte k := by
  have := cellRead_filter m.cells (fun c => !(decide (lo ≤ c) && decide (c < lo + n))) k
  unfold Memory.byte Memory.zeroRange
  rw [this]
  by_cases h : lo ≤ k ∧ k < lo + n
  · simp [h]
  · rw [if_neg h, if_pos]
    simp only [Bool.not_eq_true', Bool.and_eq_false_iff, decide_eq_false_iff_not]
    omega

/-- A write of n bytes leaves every byte outside them (R7). -/
theorem Memory.byte_write_other (m : Memory) (a n x k : Nat) (h : k < a ∨ a + n ≤ k) : (m.write a n x).byte k = m.byte k := by
  unfold Memory.write
  have : ∀ (xs : List Nat) (m : Memory), (∀ j ∈ xs, j < n) →
      (xs.foldl (fun acc j => acc.setByte (a + j) (BitVec.ofNat 8 (x / 256 ^ j))) m).byte k = m.byte k := by
    intro xs
    induction xs with
    | nil => intro m _; rfl
    | cons j rest ih =>
      intro m hj
      rw [List.foldl_cons, ih _ (fun i hi => hj i (List.mem_cons_of_mem _ hi)), Memory.byte_setByte]
      have := hj j List.mem_cons_self
      rw [if_neg (by omega)]
  exact this _ m (fun j hj => List.mem_range.mp hj)

@[simp] theorem Memory.byte_setKeys (m : Memory) (g n k a : Nat) : (m.setKeys g n k).byte a = m.byte a := by
  unfold Memory.setKeys
  split
  · rfl
  · induction List.range n with
    | nil => rfl
    | cons i rest ih => rw [List.foldr_cons, Memory.byte_setKey, ih]

@[simp] theorem Memory.byte_cleanRange (m : Memory) (lo n a : Nat) : (m.cleanRange lo n).byte a = m.byte a := rfl

/-- A range made ready to be written under a key keeps every byte outside its granules. -/
theorem Memory.byte_underKey_other (m : Memory) (key lo n k : Nat) (h : k / 16 < lo / 16 ∨ lo + n ≤ k / 16 * 16) : (m.underKey key lo n).byte k = m.byte k := by
  have one : ∀ (m : Memory) (g : Nat), k / 16 ≠ g →
      (if m.keyOf g = key then m else (m.write (16 * g) 16 (m.readAs key g).toNat).setKey g key).byte k = m.byte k := by
    intro m g hg
    split
    · rfl
    · rw [Memory.byte_setKey, Memory.byte_write_other _ _ _ _ _ (by omega)]
  unfold Memory.underKey
  dsimp only
  split
  · rfl
  · rw [Memory.byte_setKeys, List.foldl_cons, List.foldl_cons, List.foldl_nil, one _ _ (by omega), one _ _ (by omega)]

/-- A blob written under a key leaves every byte outside its granules. -/
theorem Memory.byte_putBlob_other (m : Memory) (key lo k : Nat) (b : Blob) (h : k / 16 < lo / 16 ∨ lo + b.len ≤ k / 16 * 16) :
    (m.putBlob key lo b).byte k = m.byte k := by
  unfold Memory.putBlob
  rw [Memory.byte_cleanRange, Memory.byte_write_other _ _ _ _ _ (by omega), Memory.byte_underKey_other _ _ _ _ _ h]

end Sys2Proof.Machine
end

