-- ==== Sys2Proof/Laws/State.lean ====
section
/-! SUPPORT. What each update of the state leaves: one lemma for each field that it does not touch. -/

namespace Sys2Proof.Machine

open Sys2Proof

/-! ### setTile -/

@[simp] theorem State.setTile_variant (s : State) (t : Nat) (tl : Tile) : (s.setTile t tl).variant = s.variant := rfl
@[simp] theorem State.setTile_phase (s : State) (t : Nat) (tl : Tile) : (s.setTile t tl).phase = s.phase := rfl
@[simp] theorem State.setTile_bootCode (s : State) (t : Nat) (tl : Tile) : (s.setTile t tl).bootCode = s.bootCode := rfl
@[simp] theorem State.setTile_bootCount (s : State) (t : Nat) (tl : Tile) : (s.setTile t tl).bootCount = s.bootCount := rfl
@[simp] theorem State.setTile_mem (s : State) (t : Nat) (tl : Tile) : (s.setTile t tl).mem = s.mem := rfl
@[simp] theorem State.setTile_accesses (s : State) (t : Nat) (tl : Tile) : (s.setTile t tl).accesses = s.accesses := rfl
@[simp] theorem State.setTile_nextAccess (s : State) (t : Nat) (tl : Tile) : (s.setTile t tl).nextAccess = s.nextAccess := rfl
@[simp] theorem State.setTile_outstanding (s : State) (t : Nat) (tl : Tile) : (s.setTile t tl).outstanding = s.outstanding := rfl
@[simp] theorem State.setTile_writers (s : State) (t : Nat) (tl : Tile) : (s.setTile t tl).writers = s.writers := rfl
@[simp] theorem State.setTile_groups (s : State) (t : Nat) (tl : Tile) : (s.setTile t tl).groups = s.groups := rfl
@[simp] theorem State.setTile_domains (s : State) (t : Nat) (tl : Tile) : (s.setTile t tl).domains = s.domains := rfl
@[simp] theorem State.setTile_keySlots (s : State) (t : Nat) (tl : Tile) : (s.setTile t tl).keySlots = s.keySlots := rfl
@[simp] theorem State.setTile_tlb (s : State) (t : Nat) (tl : Tile) : (s.setTile t tl).tlb = s.tlb := rfl
@[simp] theorem State.setTile_invals (s : State) (t : Nat) (tl : Tile) : (s.setTile t tl).invals = s.invals := rfl
@[simp] theorem State.setTile_nextInval (s : State) (t : Nat) (tl : Tile) : (s.setTile t tl).nextInval = s.nextInval := rfl
@[simp] theorem State.setTile_lpddrGib (s : State) (t : Nat) (tl : Tile) : (s.setTile t tl).lpddrGib = s.lpddrGib := rfl
@[simp] theorem State.setTile_cxlGib (s : State) (t : Nat) (tl : Tile) : (s.setTile t tl).cxlGib = s.cxlGib := rfl
@[simp] theorem State.setTile_periods (s : State) (t : Nat) (tl : Tile) : (s.setTile t tl).periods = s.periods := rfl
@[simp] theorem State.setTile_firstDctl (s : State) (t : Nat) (tl : Tile) : (s.setTile t tl).firstDctl = s.firstDctl := rfl
@[simp] theorem State.setTile_thermalHalt (s : State) (t : Nat) (tl : Tile) : (s.setTile t tl).thermalHalt = s.thermalHalt := rfl
@[simp] theorem State.setTile_records (s : State) (t : Nat) (tl : Tile) : (s.setTile t tl).records = s.records := rfl
@[simp] theorem State.setTile_nextRecord (s : State) (t : Nat) (tl : Tile) : (s.setTile t tl).nextRecord = s.nextRecord := rfl
@[simp] theorem State.setTile_faultQueues (s : State) (t : Nat) (tl : Tile) : (s.setTile t tl).faultQueues = s.faultQueues := rfl
@[simp] theorem State.setTile_ports (s : State) (t : Nat) (tl : Tile) : (s.setTile t tl).ports = s.ports := rfl
@[simp] theorem State.setTile_routers (s : State) (t : Nat) (tl : Tile) : (s.setTile t tl).routers = s.routers := rfl
@[simp] theorem State.setTile_ringLevels (s : State) (t : Nat) (tl : Tile) : (s.setTile t tl).ringLevels = s.ringLevels := rfl
@[simp] theorem State.setTile_ringOut (s : State) (t : Nat) (tl : Tile) : (s.setTile t tl).ringOut = s.ringOut := rfl
@[simp] theorem State.setTile_imageCache (s : State) (t : Nat) (tl : Tile) : (s.setTile t tl).imageCache = s.imageCache := rfl
@[simp] theorem State.setTile_library (s : State) (t : Nat) (tl : Tile) : (s.setTile t tl).library = s.library := rfl
@[simp] theorem State.setTile_providerKeys (s : State) (t : Nat) (tl : Tile) : (s.setTile t tl).providerKeys = s.providerKeys := rfl
@[simp] theorem State.setTile_pool (s : State) (t : Nat) (tl : Tile) : (s.setTile t tl).pool = s.pool := rfl
@[simp] theorem State.setTile_nextEntry (s : State) (t : Nat) (tl : Tile) : (s.setTile t tl).nextEntry = s.nextEntry := rfl
@[simp] theorem State.setTile_launches (s : State) (t : Nat) (tl : Tile) : (s.setTile t tl).launches = s.launches := rfl
@[simp] theorem State.setTile_insts (s : State) (t : Nat) (tl : Tile) : (s.setTile t tl).insts = s.insts := rfl
@[simp] theorem State.setTile_resolved (s : State) (t : Nat) (tl : Tile) : (s.setTile t tl).resolved = s.resolved := rfl
@[simp] theorem State.setTile_sched (s : State) (t : Nat) (tl : Tile) : (s.setTile t tl).sched = s.sched := rfl
@[simp] theorem State.setTile_halts (s : State) (t : Nat) (tl : Tile) : (s.setTile t tl).halts = s.halts := rfl
@[simp] theorem State.setTile_spares (s : State) (t : Nat) (tl : Tile) : (s.setTile t tl).spares = s.spares := rfl
@[simp] theorem State.setTile_sectorCe (s : State) (t : Nat) (tl : Tile) : (s.setTile t tl).sectorCe = s.sectorCe := rfl
@[simp] theorem State.setTile_sectorUe (s : State) (t : Nat) (tl : Tile) : (s.setTile t tl).sectorUe = s.sectorUe := rfl
@[simp] theorem State.setTile_replaceReq (s : State) (t : Nat) (tl : Tile) : (s.setTile t tl).replaceReq = s.replaceReq := rfl
@[simp] theorem State.setTile_management (s : State) (t : Nat) (tl : Tile) : (s.setTile t tl).management = s.management := rfl
@[simp] theorem State.setTile_heldMessages (s : State) (t : Nat) (tl : Tile) : (s.setTile t tl).heldMessages = s.heldMessages := rfl
@[simp] theorem State.setTile_queues (s : State) (t : Nat) (tl : Tile) : (s.setTile t tl).queues = s.queues := rfl
@[simp] theorem State.setTile_seqs (s : State) (t : Nat) (tl : Tile) : (s.setTile t tl).seqs = s.seqs := rfl
@[simp] theorem State.setTile_requests (s : State) (t : Nat) (tl : Tile) : (s.setTile t tl).requests = s.requests := rfl
@[simp] theorem State.setTile_joins (s : State) (t : Nat) (tl : Tile) : (s.setTile t tl).joins = s.joins := rfl
@[simp] theorem State.setTile_messages (s : State) (t : Nat) (tl : Tile) : (s.setTile t tl).messages = s.messages := rfl
@[simp] theorem State.setTile_peerOut (s : State) (t : Nat) (tl : Tile) : (s.setTile t tl).peerOut = s.peerOut := rfl
@[simp] theorem State.setTile_fences (s : State) (t : Nat) (tl : Tile) : (s.setTile t tl).fences = s.fences := rfl
@[simp] theorem State.setTile_moduleIndex (s : State) (t : Nat) (tl : Tile) : (s.setTile t tl).moduleIndex = s.moduleIndex := rfl
@[simp] theorem State.setTile_stencils (s : State) (t : Nat) (tl : Tile) : (s.setTile t tl).stencils = s.stencils := rfl
@[simp] theorem State.setTile_stencilCmds (s : State) (t : Nat) (tl : Tile) : (s.setTile t tl).stencilCmds = s.stencilCmds := rfl
@[simp] theorem State.setTile_flash (s : State) (t : Nat) (tl : Tile) : (s.setTile t tl).flash = s.flash := rfl
@[simp] theorem State.setTile_powered (s : State) (t : Nat) (tl : Tile) : (s.setTile t tl).powered = s.powered := rfl
@[simp] theorem State.setTile_linkUp (s : State) (t : Nat) (tl : Tile) : (s.setTile t tl).linkUp = s.linkUp := rfl
@[simp] theorem State.setTile_hostOut (s : State) (t : Nat) (tl : Tile) : (s.setTile t tl).hostOut = s.hostOut := rfl
@[simp] theorem State.setTile_lathImages (s : State) (t : Nat) (tl : Tile) : (s.setTile t tl).lathImages = s.lathImages := rfl
@[simp] theorem State.setTile_loaderStatus (s : State) (t : Nat) (tl : Tile) : (s.setTile t tl).loaderStatus = s.loaderStatus := rfl
@[simp] theorem State.setTile_attestError (s : State) (t : Nat) (tl : Tile) : (s.setTile t tl).attestError = s.attestError := rfl
@[simp] theorem State.setTile_flush (s : State) (t : Nat) (tl : Tile) : (s.setTile t tl).flush = s.flush := rfl
@[simp] theorem State.setTile_mscHits (s : State) (t : Nat) (tl : Tile) : (s.setTile t tl).mscHits = s.mscHits := rfl
@[simp] theorem State.setTile_mscMisses (s : State) (t : Nat) (tl : Tile) : (s.setTile t tl).mscMisses = s.mscMisses := rfl
@[simp] theorem State.setTile_sectorEnergy (s : State) (t : Nat) (tl : Tile) : (s.setTile t tl).sectorEnergy = s.sectorEnergy := rfl
@[simp] theorem State.setTile_refills (s : State) (t : Nat) (tl : Tile) : (s.setTile t tl).refills = s.refills := rfl
@[simp] theorem State.setTile_cycleBase (s : State) (t : Nat) (tl : Tile) : (s.setTile t tl).cycleBase = s.cycleBase := rfl
@[simp] theorem State.setTile_nsAdded (s : State) (t : Nat) (tl : Tile) : (s.setTile t tl).nsAdded = s.nsAdded := rfl
@[simp] theorem State.setTile_nsFloor (s : State) (t : Nat) (tl : Tile) : (s.setTile t tl).nsFloor = s.nsFloor := rfl
@[simp] theorem State.setTile_lastSlew (s : State) (t : Nat) (tl : Tile) : (s.setTile t tl).lastSlew = s.lastSlew := rfl
@[simp] theorem State.setTile_timeJoined (s : State) (t : Nat) (tl : Tile) : (s.setTile t tl).timeJoined = s.timeJoined := rfl
@[simp] theorem State.setTile_ticks (s : State) (t : Nat) (tl : Tile) : (s.setTile t tl).ticks = s.ticks := rfl
@[simp] theorem State.setTile_agenda (s : State) (t : Nat) (tl : Tile) : (s.setTile t tl).agenda = s.agenda := rfl
@[simp] theorem State.setTile_free (s : State) (t : Nat) (tl : Tile) : (s.setTile t tl).free = s.free := rfl
@[simp] theorem State.setTile_steps (s : State) (t : Nat) (tl : Tile) : (s.setTile t tl).steps = s.steps := rfl
@[simp] theorem State.setTile_cur (s : State) (t : Nat) (tl : Tile) : (s.setTile t tl).cur = s.cur := rfl

/-! ### setCtx -/

@[simp] theorem State.setCtx_variant (s : State) (t c : Nat) (cx : Ctx) : (s.setCtx t c cx).variant = s.variant := rfl
@[simp] theorem State.setCtx_phase (s : State) (t c : Nat) (cx : Ctx) : (s.setCtx t c cx).phase = s.phase := rfl
@[simp] theorem State.setCtx_bootCode (s : State) (t c : Nat) (cx : Ctx) : (s.setCtx t c cx).bootCode = s.bootCode := rfl
@[simp] theorem State.setCtx_bootCount (s : State) (t c : Nat) (cx : Ctx) : (s.setCtx t c cx).bootCount = s.bootCount := rfl
@[simp] theorem State.setCtx_mem (s : State) (t c : Nat) (cx : Ctx) : (s.setCtx t c cx).mem = s.mem := rfl
@[simp] theorem State.setCtx_accesses (s : State) (t c : Nat) (cx : Ctx) : (s.setCtx t c cx).accesses = s.accesses := rfl
@[simp] theorem State.setCtx_nextAccess (s : State) (t c : Nat) (cx : Ctx) : (s.setCtx t c cx).nextAccess = s.nextAccess := rfl
@[simp] theorem State.setCtx_outstanding (s : State) (t c : Nat) (cx : Ctx) : (s.setCtx t c cx).outstanding = s.outstanding := rfl
@[simp] theorem State.setCtx_writers (s : State) (t c : Nat) (cx : Ctx) : (s.setCtx t c cx).writers = s.writers := rfl
@[simp] theorem State.setCtx_groups (s : State) (t c : Nat) (cx : Ctx) : (s.setCtx t c cx).groups = s.groups := rfl
@[simp] theorem State.setCtx_domains (s : State) (t c : Nat) (cx : Ctx) : (s.setCtx t c cx).domains = s.domains := rfl
@[simp] theorem State.setCtx_keySlots (s : State) (t c : Nat) (cx : Ctx) : (s.setCtx t c cx).keySlots = s.keySlots := rfl
@[simp] theorem State.setCtx_tlb (s : State) (t c : Nat) (cx : Ctx) : (s.setCtx t c cx).tlb = s.tlb := rfl
@[simp] theorem State.setCtx_invals (s : State) (t c : Nat) (cx : Ctx) : (s.setCtx t c cx).invals = s.invals := rfl
@[simp] theorem State.setCtx_nextInval (s : State) (t c : Nat) (cx : Ctx) : (s.setCtx t c cx).nextInval = s.nextInval := rfl
@[simp] theorem State.setCtx_lpddrGib (s : State) (t c : Nat) (cx : Ctx) : (s.setCtx t c cx).lpddrGib = s.lpddrGib := rfl
@[simp] theorem State.setCtx_cxlGib (s : State) (t c : Nat) (cx : Ctx) : (s.setCtx t c cx).cxlGib = s.cxlGib := rfl
@[simp] theorem State.setCtx_periods (s : State) (t c : Nat) (cx : Ctx) : (s.setCtx t c cx).periods = s.periods := rfl
@[simp] theorem State.setCtx_firstDctl (s : State) (t c : Nat) (cx : Ctx) : (s.setCtx t c cx).firstDctl = s.firstDctl := rfl
@[simp] theorem State.setCtx_thermalHalt (s : State) (t c : Nat) (cx : Ctx) : (s.setCtx t c cx).thermalHalt = s.thermalHalt := rfl
@[simp] theorem State.setCtx_records (s : State) (t c : Nat) (cx : Ctx) : (s.setCtx t c cx).records = s.records := rfl
@[simp] theorem State.setCtx_nextRecord (s : State) (t c : Nat) (cx : Ctx) : (s.setCtx t c cx).nextRecord = s.nextRecord := rfl
@[simp] theorem State.setCtx_faultQueues (s : State) (t c : Nat) (cx : Ctx) : (s.setCtx t c cx).faultQueues = s.faultQueues := rfl
@[simp] theorem State.setCtx_ports (s : State) (t c : Nat) (cx : Ctx) : (s.setCtx t c cx).ports = s.ports := rfl
@[simp] theorem State.setCtx_routers (s : State) (t c : Nat) (cx : Ctx) : (s.setCtx t c cx).routers = s.routers := rfl
@[simp] theorem State.setCtx_ringLevels (s : State) (t c : Nat) (cx : Ctx) : (s.setCtx t c cx).ringLevels = s.ringLevels := rfl
@[simp] theorem State.setCtx_ringOut (s : State) (t c : Nat) (cx : Ctx) : (s.setCtx t c cx).ringOut = s.ringOut := rfl
@[simp] theorem State.setCtx_imageCache (s : State) (t c : Nat) (cx : Ctx) : (s.setCtx t c cx).imageCache = s.imageCache := rfl
@[simp] theorem State.setCtx_library (s : State) (t c : Nat) (cx : Ctx) : (s.setCtx t c cx).library = s.library := rfl
@[simp] theorem State.setCtx_providerKeys (s : State) (t c : Nat) (cx : Ctx) : (s.setCtx t c cx).providerKeys = s.providerKeys := rfl
@[simp] theorem State.setCtx_pool (s : State) (t c : Nat) (cx : Ctx) : (s.setCtx t c cx).pool = s.pool := rfl
@[simp] theorem State.setCtx_nextEntry (s : State) (t c : Nat) (cx : Ctx) : (s.setCtx t c cx).nextEntry = s.nextEntry := rfl
@[simp] theorem State.setCtx_launches (s : State) (t c : Nat) (cx : Ctx) : (s.setCtx t c cx).launches = s.launches := rfl
@[simp] theorem State.setCtx_insts (s : State) (t c : Nat) (cx : Ctx) : (s.setCtx t c cx).insts = s.insts := rfl
@[simp] theorem State.setCtx_resolved (s : State) (t c : Nat) (cx : Ctx) : (s.setCtx t c cx).resolved = s.resolved := rfl
@[simp] theorem State.setCtx_sched (s : State) (t c : Nat) (cx : Ctx) : (s.setCtx t c cx).sched = s.sched := rfl
@[simp] theorem State.setCtx_halts (s : State) (t c : Nat) (cx : Ctx) : (s.setCtx t c cx).halts = s.halts := rfl
@[simp] theorem State.setCtx_spares (s : State) (t c : Nat) (cx : Ctx) : (s.setCtx t c cx).spares = s.spares := rfl
@[simp] theorem State.setCtx_sectorCe (s : State) (t c : Nat) (cx : Ctx) : (s.setCtx t c cx).sectorCe = s.sectorCe := rfl
@[simp] theorem State.setCtx_sectorUe (s : State) (t c : Nat) (cx : Ctx) : (s.setCtx t c cx).sectorUe = s.sectorUe := rfl
@[simp] theorem State.setCtx_replaceReq (s : State) (t c : Nat) (cx : Ctx) : (s.setCtx t c cx).replaceReq = s.replaceReq := rfl
@[simp] theorem State.setCtx_management (s : State) (t c : Nat) (cx : Ctx) : (s.setCtx t c cx).management = s.management := rfl
@[simp] theorem State.setCtx_heldMessages (s : State) (t c : Nat) (cx : Ctx) : (s.setCtx t c cx).heldMessages = s.heldMessages := rfl
@[simp] theorem State.setCtx_queues (s : State) (t c : Nat) (cx : Ctx) : (s.setCtx t c cx).queues = s.queues := rfl
@[simp] theorem State.setCtx_seqs (s : State) (t c : Nat) (cx : Ctx) : (s.setCtx t c cx).seqs = s.seqs := rfl
@[simp] theorem State.setCtx_requests (s : State) (t c : Nat) (cx : Ctx) : (s.setCtx t c cx).requests = s.requests := rfl
@[simp] theorem State.setCtx_joins (s : State) (t c : Nat) (cx : Ctx) : (s.setCtx t c cx).joins = s.joins := rfl
@[simp] theorem State.setCtx_messages (s : State) (t c : Nat) (cx : Ctx) : (s.setCtx t c cx).messages = s.messages := rfl
@[simp] theorem State.setCtx_peerOut (s : State) (t c : Nat) (cx : Ctx) : (s.setCtx t c cx).peerOut = s.peerOut := rfl
@[simp] theorem State.setCtx_fences (s : State) (t c : Nat) (cx : Ctx) : (s.setCtx t c cx).fences = s.fences := rfl
@[simp] theorem State.setCtx_moduleIndex (s : State) (t c : Nat) (cx : Ctx) : (s.setCtx t c cx).moduleIndex = s.moduleIndex := rfl
@[simp] theorem State.setCtx_stencils (s : State) (t c : Nat) (cx : Ctx) : (s.setCtx t c cx).stencils = s.stencils := rfl
@[simp] theorem State.setCtx_stencilCmds (s : State) (t c : Nat) (cx : Ctx) : (s.setCtx t c cx).stencilCmds = s.stencilCmds := rfl
@[simp] theorem State.setCtx_flash (s : State) (t c : Nat) (cx : Ctx) : (s.setCtx t c cx).flash = s.flash := rfl
@[simp] theorem State.setCtx_powered (s : State) (t c : Nat) (cx : Ctx) : (s.setCtx t c cx).powered = s.powered := rfl
@[simp] theorem State.setCtx_linkUp (s : State) (t c : Nat) (cx : Ctx) : (s.setCtx t c cx).linkUp = s.linkUp := rfl
@[simp] theorem State.setCtx_hostOut (s : State) (t c : Nat) (cx : Ctx) : (s.setCtx t c cx).hostOut = s.hostOut := rfl
@[simp] theorem State.setCtx_lathImages (s : State) (t c : Nat) (cx : Ctx) : (s.setCtx t c cx).lathImages = s.lathImages := rfl
@[simp] theorem State.setCtx_loaderStatus (s : State) (t c : Nat) (cx : Ctx) : (s.setCtx t c cx).loaderStatus = s.loaderStatus := rfl
@[simp] theorem State.setCtx_attestError (s : State) (t c : Nat) (cx : Ctx) : (s.setCtx t c cx).attestError = s.attestError := rfl
@[simp] theorem State.setCtx_flush (s : State) (t c : Nat) (cx : Ctx) : (s.setCtx t c cx).flush = s.flush := rfl
@[simp] theorem State.setCtx_mscHits (s : State) (t c : Nat) (cx : Ctx) : (s.setCtx t c cx).mscHits = s.mscHits := rfl
@[simp] theorem State.setCtx_mscMisses (s : State) (t c : Nat) (cx : Ctx) : (s.setCtx t c cx).mscMisses = s.mscMisses := rfl
@[simp] theorem State.setCtx_sectorEnergy (s : State) (t c : Nat) (cx : Ctx) : (s.setCtx t c cx).sectorEnergy = s.sectorEnergy := rfl
@[simp] theorem State.setCtx_refills (s : State) (t c : Nat) (cx : Ctx) : (s.setCtx t c cx).refills = s.refills := rfl
@[simp] theorem State.setCtx_cycleBase (s : State) (t c : Nat) (cx : Ctx) : (s.setCtx t c cx).cycleBase = s.cycleBase := rfl
@[simp] theorem State.setCtx_nsAdded (s : State) (t c : Nat) (cx : Ctx) : (s.setCtx t c cx).nsAdded = s.nsAdded := rfl
@[simp] theorem State.setCtx_nsFloor (s : State) (t c : Nat) (cx : Ctx) : (s.setCtx t c cx).nsFloor = s.nsFloor := rfl
@[simp] theorem State.setCtx_lastSlew (s : State) (t c : Nat) (cx : Ctx) : (s.setCtx t c cx).lastSlew = s.lastSlew := rfl
@[simp] theorem State.setCtx_timeJoined (s : State) (t c : Nat) (cx : Ctx) : (s.setCtx t c cx).timeJoined = s.timeJoined := rfl
@[simp] theorem State.setCtx_ticks (s : State) (t c : Nat) (cx : Ctx) : (s.setCtx t c cx).ticks = s.ticks := rfl
@[simp] theorem State.setCtx_agenda (s : State) (t c : Nat) (cx : Ctx) : (s.setCtx t c cx).agenda = s.agenda := rfl
@[simp] theorem State.setCtx_free (s : State) (t c : Nat) (cx : Ctx) : (s.setCtx t c cx).free = s.free := rfl
@[simp] theorem State.setCtx_steps (s : State) (t c : Nat) (cx : Ctx) : (s.setCtx t c cx).steps = s.steps := rfl
@[simp] theorem State.setCtx_cur (s : State) (t c : Nat) (cx : Ctx) : (s.setCtx t c cx).cur = s.cur := rfl

/-! ### setWriter -/

@[simp] theorem State.setWriter_variant (s : State) (w : Nat) (x : Writer) : (s.setWriter w x).variant = s.variant := rfl
@[simp] theorem State.setWriter_phase (s : State) (w : Nat) (x : Writer) : (s.setWriter w x).phase = s.phase := rfl
@[simp] theorem State.setWriter_bootCode (s : State) (w : Nat) (x : Writer) : (s.setWriter w x).bootCode = s.bootCode := rfl
@[simp] theorem State.setWriter_bootCount (s : State) (w : Nat) (x : Writer) : (s.setWriter w x).bootCount = s.bootCount := rfl
@[simp] theorem State.setWriter_mem (s : State) (w : Nat) (x : Writer) : (s.setWriter w x).mem = s.mem := rfl
@[simp] theorem State.setWriter_tiles (s : State) (w : Nat) (x : Writer) : (s.setWriter w x).tiles = s.tiles := rfl
@[simp] theorem State.setWriter_accesses (s : State) (w : Nat) (x : Writer) : (s.setWriter w x).accesses = s.accesses := rfl
@[simp] theorem State.setWriter_nextAccess (s : State) (w : Nat) (x : Writer) : (s.setWriter w x).nextAccess = s.nextAccess := rfl
@[simp] theorem State.setWriter_outstanding (s : State) (w : Nat) (x : Writer) : (s.setWriter w x).outstanding = s.outstanding := rfl
@[simp] theorem State.setWriter_groups (s : State) (w : Nat) (x : Writer) : (s.setWriter w x).groups = s.groups := rfl
@[simp] theorem State.setWriter_domains (s : State) (w : Nat) (x : Writer) : (s.setWriter w x).domains = s.domains := rfl
@[simp] theorem State.setWriter_keySlots (s : State) (w : Nat) (x : Writer) : (s.setWriter w x).keySlots = s.keySlots := rfl
@[simp] theorem State.setWriter_tlb (s : State) (w : Nat) (x : Writer) : (s.setWriter w x).tlb = s.tlb := rfl
@[simp] theorem State.setWriter_invals (s : State) (w : Nat) (x : Writer) : (s.setWriter w x).invals = s.invals := rfl
@[simp] theorem State.setWriter_nextInval (s : State) (w : Nat) (x : Writer) : (s.setWriter w x).nextInval = s.nextInval := rfl
@[simp] theorem State.setWriter_lpddrGib (s : State) (w : Nat) (x : Writer) : (s.setWriter w x).lpddrGib = s.lpddrGib := rfl
@[simp] theorem State.setWriter_cxlGib (s : State) (w : Nat) (x : Writer) : (s.setWriter w x).cxlGib = s.cxlGib := rfl
@[simp] theorem State.setWriter_periods (s : State) (w : Nat) (x : Writer) : (s.setWriter w x).periods = s.periods := rfl
@[simp] theorem State.setWriter_firstDctl (s : State) (w : Nat) (x : Writer) : (s.setWriter w x).firstDctl = s.firstDctl := rfl
@[simp] theorem State.setWriter_thermalHalt (s : State) (w : Nat) (x : Writer) : (s.setWriter w x).thermalHalt = s.thermalHalt := rfl
@[simp] theorem State.setWriter_records (s : State) (w : Nat) (x : Writer) : (s.setWriter w x).records = s.records := rfl
@[simp] theorem State.setWriter_nextRecord (s : State) (w : Nat) (x : Writer) : (s.setWriter w x).nextRecord = s.nextRecord := rfl
@[simp] theorem State.setWriter_faultQueues (s : State) (w : Nat) (x : Writer) : (s.setWriter w x).faultQueues = s.faultQueues := rfl
@[simp] theorem State.setWriter_ports (s : State) (w : Nat) (x : Writer) : (s.setWriter w x).ports = s.ports := rfl
@[simp] theorem State.setWriter_routers (s : State) (w : Nat) (x : Writer) : (s.setWriter w x).routers = s.routers := rfl
@[simp] theorem State.setWriter_ringLevels (s : State) (w : Nat) (x : Writer) : (s.setWriter w x).ringLevels = s.ringLevels := rfl
@[simp] theorem State.setWriter_ringOut (s : State) (w : Nat) (x : Writer) : (s.setWriter w x).ringOut = s.ringOut := rfl
@[simp] theorem State.setWriter_imageCache (s : State) (w : Nat) (x : Writer) : (s.setWriter w x).imageCache = s.imageCache := rfl
@[simp] theorem State.setWriter_library (s : State) (w : Nat) (x : Writer) : (s.setWriter w x).library = s.library := rfl
@[simp] theorem State.setWriter_providerKeys (s : State) (w : Nat) (x : Writer) : (s.setWriter w x).providerKeys = s.providerKeys := rfl
@[simp] theorem State.setWriter_pool (s : State) (w : Nat) (x : Writer) : (s.setWriter w x).pool = s.pool := rfl
@[simp] theorem State.setWriter_nextEntry (s : State) (w : Nat) (x : Writer) : (s.setWriter w x).nextEntry = s.nextEntry := rfl
@[simp] theorem State.setWriter_launches (s : State) (w : Nat) (x : Writer) : (s.setWriter w x).launches = s.launches := rfl
@[simp] theorem State.setWriter_insts (s : State) (w : Nat) (x : Writer) : (s.setWriter w x).insts = s.insts := rfl
@[simp] theorem State.setWriter_resolved (s : State) (w : Nat) (x : Writer) : (s.setWriter w x).resolved = s.resolved := rfl
@[simp] theorem State.setWriter_sched (s : State) (w : Nat) (x : Writer) : (s.setWriter w x).sched = s.sched := rfl
@[simp] theorem State.setWriter_halts (s : State) (w : Nat) (x : Writer) : (s.setWriter w x).halts = s.halts := rfl
@[simp] theorem State.setWriter_spares (s : State) (w : Nat) (x : Writer) : (s.setWriter w x).spares = s.spares := rfl
@[simp] theorem State.setWriter_sectorCe (s : State) (w : Nat) (x : Writer) : (s.setWriter w x).sectorCe = s.sectorCe := rfl
@[simp] theorem State.setWriter_sectorUe (s : State) (w : Nat) (x : Writer) : (s.setWriter w x).sectorUe = s.sectorUe := rfl
@[simp] theorem State.setWriter_replaceReq (s : State) (w : Nat) (x : Writer) : (s.setWriter w x).replaceReq = s.replaceReq := rfl
@[simp] theorem State.setWriter_management (s : State) (w : Nat) (x : Writer) : (s.setWriter w x).management = s.management := rfl
@[simp] theorem State.setWriter_heldMessages (s : State) (w : Nat) (x : Writer) : (s.setWriter w x).heldMessages = s.heldMessages := rfl
@[simp] theorem State.setWriter_queues (s : State) (w : Nat) (x : Writer) : (s.setWriter w x).queues = s.queues := rfl
@[simp] theorem State.setWriter_seqs (s : State) (w : Nat) (x : Writer) : (s.setWriter w x).seqs = s.seqs := rfl
@[simp] theorem State.setWriter_requests (s : State) (w : Nat) (x : Writer) : (s.setWriter w x).requests = s.requests := rfl
@[simp] theorem State.setWriter_joins (s : State) (w : Nat) (x : Writer) : (s.setWriter w x).joins = s.joins := rfl
@[simp] theorem State.setWriter_messages (s : State) (w : Nat) (x : Writer) : (s.setWriter w x).messages = s.messages := rfl
@[simp] theorem State.setWriter_peerOut (s : State) (w : Nat) (x : Writer) : (s.setWriter w x).peerOut = s.peerOut := rfl
@[simp] theorem State.setWriter_fences (s : State) (w : Nat) (x : Writer) : (s.setWriter w x).fences = s.fences := rfl
@[simp] theorem State.setWriter_moduleIndex (s : State) (w : Nat) (x : Writer) : (s.setWriter w x).moduleIndex = s.moduleIndex := rfl
@[simp] theorem State.setWriter_stencils (s : State) (w : Nat) (x : Writer) : (s.setWriter w x).stencils = s.stencils := rfl
@[simp] theorem State.setWriter_stencilCmds (s : State) (w : Nat) (x : Writer) : (s.setWriter w x).stencilCmds = s.stencilCmds := rfl
@[simp] theorem State.setWriter_flash (s : State) (w : Nat) (x : Writer) : (s.setWriter w x).flash = s.flash := rfl
@[simp] theorem State.setWriter_powered (s : State) (w : Nat) (x : Writer) : (s.setWriter w x).powered = s.powered := rfl
@[simp] theorem State.setWriter_linkUp (s : State) (w : Nat) (x : Writer) : (s.setWriter w x).linkUp = s.linkUp := rfl
@[simp] theorem State.setWriter_hostOut (s : State) (w : Nat) (x : Writer) : (s.setWriter w x).hostOut = s.hostOut := rfl
@[simp] theorem State.setWriter_lathImages (s : State) (w : Nat) (x : Writer) : (s.setWriter w x).lathImages = s.lathImages := rfl
@[simp] theorem State.setWriter_loaderStatus (s : State) (w : Nat) (x : Writer) : (s.setWriter w x).loaderStatus = s.loaderStatus := rfl
@[simp] theorem State.setWriter_attestError (s : State) (w : Nat) (x : Writer) : (s.setWriter w x).attestError = s.attestError := rfl
@[simp] theorem State.setWriter_flush (s : State) (w : Nat) (x : Writer) : (s.setWriter w x).flush = s.flush := rfl
@[simp] theorem State.setWriter_mscHits (s : State) (w : Nat) (x : Writer) : (s.setWriter w x).mscHits = s.mscHits := rfl
@[simp] theorem State.setWriter_mscMisses (s : State) (w : Nat) (x : Writer) : (s.setWriter w x).mscMisses = s.mscMisses := rfl
@[simp] theorem State.setWriter_sectorEnergy (s : State) (w : Nat) (x : Writer) : (s.setWriter w x).sectorEnergy = s.sectorEnergy := rfl
@[simp] theorem State.setWriter_refills (s : State) (w : Nat) (x : Writer) : (s.setWriter w x).refills = s.refills := rfl
@[simp] theorem State.setWriter_cycleBase (s : State) (w : Nat) (x : Writer) : (s.setWriter w x).cycleBase = s.cycleBase := rfl
@[simp] theorem State.setWriter_nsAdded (s : State) (w : Nat) (x : Writer) : (s.setWriter w x).nsAdded = s.nsAdded := rfl
@[simp] theorem State.setWriter_nsFloor (s : State) (w : Nat) (x : Writer) : (s.setWriter w x).nsFloor = s.nsFloor := rfl
@[simp] theorem State.setWriter_lastSlew (s : State) (w : Nat) (x : Writer) : (s.setWriter w x).lastSlew = s.lastSlew := rfl
@[simp] theorem State.setWriter_timeJoined (s : State) (w : Nat) (x : Writer) : (s.setWriter w x).timeJoined = s.timeJoined := rfl
@[simp] theorem State.setWriter_ticks (s : State) (w : Nat) (x : Writer) : (s.setWriter w x).ticks = s.ticks := rfl
@[simp] theorem State.setWriter_agenda (s : State) (w : Nat) (x : Writer) : (s.setWriter w x).agenda = s.agenda := rfl
@[simp] theorem State.setWriter_free (s : State) (w : Nat) (x : Writer) : (s.setWriter w x).free = s.free := rfl
@[simp] theorem State.setWriter_steps (s : State) (w : Nat) (x : Writer) : (s.setWriter w x).steps = s.steps := rfl
@[simp] theorem State.setWriter_cur (s : State) (w : Nat) (x : Writer) : (s.setWriter w x).cur = s.cur := rfl

/-! ### setGroup -/

@[simp] theorem State.setGroup_variant (s : State) (l g : Nat) (x : Group) : (s.setGroup l g x).variant = s.variant := rfl
@[simp] theorem State.setGroup_phase (s : State) (l g : Nat) (x : Group) : (s.setGroup l g x).phase = s.phase := rfl
@[simp] theorem State.setGroup_bootCode (s : State) (l g : Nat) (x : Group) : (s.setGroup l g x).bootCode = s.bootCode := rfl
@[simp] theorem State.setGroup_bootCount (s : State) (l g : Nat) (x : Group) : (s.setGroup l g x).bootCount = s.bootCount := rfl
@[simp] theorem State.setGroup_mem (s : State) (l g : Nat) (x : Group) : (s.setGroup l g x).mem = s.mem := rfl
@[simp] theorem State.setGroup_tiles (s : State) (l g : Nat) (x : Group) : (s.setGroup l g x).tiles = s.tiles := rfl
@[simp] theorem State.setGroup_accesses (s : State) (l g : Nat) (x : Group) : (s.setGroup l g x).accesses = s.accesses := rfl
@[simp] theorem State.setGroup_nextAccess (s : State) (l g : Nat) (x : Group) : (s.setGroup l g x).nextAccess = s.nextAccess := rfl
@[simp] theorem State.setGroup_outstanding (s : State) (l g : Nat) (x : Group) : (s.setGroup l g x).outstanding = s.outstanding := rfl
@[simp] theorem State.setGroup_writers (s : State) (l g : Nat) (x : Group) : (s.setGroup l g x).writers = s.writers := rfl
@[simp] theorem State.setGroup_domains (s : State) (l g : Nat) (x : Group) : (s.setGroup l g x).domains = s.domains := rfl
@[simp] theorem State.setGroup_keySlots (s : State) (l g : Nat) (x : Group) : (s.setGroup l g x).keySlots = s.keySlots := rfl
@[simp] theorem State.setGroup_tlb (s : State) (l g : Nat) (x : Group) : (s.setGroup l g x).tlb = s.tlb := rfl
@[simp] theorem State.setGroup_invals (s : State) (l g : Nat) (x : Group) : (s.setGroup l g x).invals = s.invals := rfl
@[simp] theorem State.setGroup_nextInval (s : State) (l g : Nat) (x : Group) : (s.setGroup l g x).nextInval = s.nextInval := rfl
@[simp] theorem State.setGroup_lpddrGib (s : State) (l g : Nat) (x : Group) : (s.setGroup l g x).lpddrGib = s.lpddrGib := rfl
@[simp] theorem State.setGroup_cxlGib (s : State) (l g : Nat) (x : Group) : (s.setGroup l g x).cxlGib = s.cxlGib := rfl
@[simp] theorem State.setGroup_periods (s : State) (l g : Nat) (x : Group) : (s.setGroup l g x).periods = s.periods := rfl
@[simp] theorem State.setGroup_firstDctl (s : State) (l g : Nat) (x : Group) : (s.setGroup l g x).firstDctl = s.firstDctl := rfl
@[simp] theorem State.setGroup_thermalHalt (s : State) (l g : Nat) (x : Group) : (s.setGroup l g x).thermalHalt = s.thermalHalt := rfl
@[simp] theorem State.setGroup_records (s : State) (l g : Nat) (x : Group) : (s.setGroup l g x).records = s.records := rfl
@[simp] theorem State.setGroup_nextRecord (s : State) (l g : Nat) (x : Group) : (s.setGroup l g x).nextRecord = s.nextRecord := rfl
@[simp] theorem State.setGroup_faultQueues (s : State) (l g : Nat) (x : Group) : (s.setGroup l g x).faultQueues = s.faultQueues := rfl
@[simp] theorem State.setGroup_ports (s : State) (l g : Nat) (x : Group) : (s.setGroup l g x).ports = s.ports := rfl
@[simp] theorem State.setGroup_routers (s : State) (l g : Nat) (x : Group) : (s.setGroup l g x).routers = s.routers := rfl
@[simp] theorem State.setGroup_ringLevels (s : State) (l g : Nat) (x : Group) : (s.setGroup l g x).ringLevels = s.ringLevels := rfl
@[simp] theorem State.setGroup_ringOut (s : State) (l g : Nat) (x : Group) : (s.setGroup l g x).ringOut = s.ringOut := rfl
@[simp] theorem State.setGroup_imageCache (s : State) (l g : Nat) (x : Group) : (s.setGroup l g x).imageCache = s.imageCache := rfl
@[simp] theorem State.setGroup_library (s : State) (l g : Nat) (x : Group) : (s.setGroup l g x).library = s.library := rfl
@[simp] theorem State.setGroup_providerKeys (s : State) (l g : Nat) (x : Group) : (s.setGroup l g x).providerKeys = s.providerKeys := rfl
@[simp] theorem State.setGroup_pool (s : State) (l g : Nat) (x : Group) : (s.setGroup l g x).pool = s.pool := rfl
@[simp] theorem State.setGroup_nextEntry (s : State) (l g : Nat) (x : Group) : (s.setGroup l g x).nextEntry = s.nextEntry := rfl
@[simp] theorem State.setGroup_launches (s : State) (l g : Nat) (x : Group) : (s.setGroup l g x).launches = s.launches := rfl
@[simp] theorem State.setGroup_insts (s : State) (l g : Nat) (x : Group) : (s.setGroup l g x).insts = s.insts := rfl
@[simp] theorem State.setGroup_resolved (s : State) (l g : Nat) (x : Group) : (s.setGroup l g x).resolved = s.resolved := rfl
@[simp] theorem State.setGroup_sched (s : State) (l g : Nat) (x : Group) : (s.setGroup l g x).sched = s.sched := rfl
@[simp] theorem State.setGroup_halts (s : State) (l g : Nat) (x : Group) : (s.setGroup l g x).halts = s.halts := rfl
@[simp] theorem State.setGroup_spares (s : State) (l g : Nat) (x : Group) : (s.setGroup l g x).spares = s.spares := rfl
@[simp] theorem State.setGroup_sectorCe (s : State) (l g : Nat) (x : Group) : (s.setGroup l g x).sectorCe = s.sectorCe := rfl
@[simp] theorem State.setGroup_sectorUe (s : State) (l g : Nat) (x : Group) : (s.setGroup l g x).sectorUe = s.sectorUe := rfl
@[simp] theorem State.setGroup_replaceReq (s : State) (l g : Nat) (x : Group) : (s.setGroup l g x).replaceReq = s.replaceReq := rfl
@[simp] theorem State.setGroup_management (s : State) (l g : Nat) (x : Group) : (s.setGroup l g x).management = s.management := rfl
@[simp] theorem State.setGroup_heldMessages (s : State) (l g : Nat) (x : Group) : (s.setGroup l g x).heldMessages = s.heldMessages := rfl
@[simp] theorem State.setGroup_queues (s : State) (l g : Nat) (x : Group) : (s.setGroup l g x).queues = s.queues := rfl
@[simp] theorem State.setGroup_seqs (s : State) (l g : Nat) (x : Group) : (s.setGroup l g x).seqs = s.seqs := rfl
@[simp] theorem State.setGroup_requests (s : State) (l g : Nat) (x : Group) : (s.setGroup l g x).requests = s.requests := rfl
@[simp] theorem State.setGroup_joins (s : State) (l g : Nat) (x : Group) : (s.setGroup l g x).joins = s.joins := rfl
@[simp] theorem State.setGroup_messages (s : State) (l g : Nat) (x : Group) : (s.setGroup l g x).messages = s.messages := rfl
@[simp] theorem State.setGroup_peerOut (s : State) (l g : Nat) (x : Group) : (s.setGroup l g x).peerOut = s.peerOut := rfl
@[simp] theorem State.setGroup_fences (s : State) (l g : Nat) (x : Group) : (s.setGroup l g x).fences = s.fences := rfl
@[simp] theorem State.setGroup_moduleIndex (s : State) (l g : Nat) (x : Group) : (s.setGroup l g x).moduleIndex = s.moduleIndex := rfl
@[simp] theorem State.setGroup_stencils (s : State) (l g : Nat) (x : Group) : (s.setGroup l g x).stencils = s.stencils := rfl
@[simp] theorem State.setGroup_stencilCmds (s : State) (l g : Nat) (x : Group) : (s.setGroup l g x).stencilCmds = s.stencilCmds := rfl
@[simp] theorem State.setGroup_flash (s : State) (l g : Nat) (x : Group) : (s.setGroup l g x).flash = s.flash := rfl
@[simp] theorem State.setGroup_powered (s : State) (l g : Nat) (x : Group) : (s.setGroup l g x).powered = s.powered := rfl
@[simp] theorem State.setGroup_linkUp (s : State) (l g : Nat) (x : Group) : (s.setGroup l g x).linkUp = s.linkUp := rfl
@[simp] theorem State.setGroup_hostOut (s : State) (l g : Nat) (x : Group) : (s.setGroup l g x).hostOut = s.hostOut := rfl
@[simp] theorem State.setGroup_lathImages (s : State) (l g : Nat) (x : Group) : (s.setGroup l g x).lathImages = s.lathImages := rfl
@[simp] theorem State.setGroup_loaderStatus (s : State) (l g : Nat) (x : Group) : (s.setGroup l g x).loaderStatus = s.loaderStatus := rfl
@[simp] theorem State.setGroup_attestError (s : State) (l g : Nat) (x : Group) : (s.setGroup l g x).attestError = s.attestError := rfl
@[simp] theorem State.setGroup_flush (s : State) (l g : Nat) (x : Group) : (s.setGroup l g x).flush = s.flush := rfl
@[simp] theorem State.setGroup_mscHits (s : State) (l g : Nat) (x : Group) : (s.setGroup l g x).mscHits = s.mscHits := rfl
@[simp] theorem State.setGroup_mscMisses (s : State) (l g : Nat) (x : Group) : (s.setGroup l g x).mscMisses = s.mscMisses := rfl
@[simp] theorem State.setGroup_sectorEnergy (s : State) (l g : Nat) (x : Group) : (s.setGroup l g x).sectorEnergy = s.sectorEnergy := rfl
@[simp] theorem State.setGroup_refills (s : State) (l g : Nat) (x : Group) : (s.setGroup l g x).refills = s.refills := rfl
@[simp] theorem State.setGroup_cycleBase (s : State) (l g : Nat) (x : Group) : (s.setGroup l g x).cycleBase = s.cycleBase := rfl
@[simp] theorem State.setGroup_nsAdded (s : State) (l g : Nat) (x : Group) : (s.setGroup l g x).nsAdded = s.nsAdded := rfl
@[simp] theorem State.setGroup_nsFloor (s : State) (l g : Nat) (x : Group) : (s.setGroup l g x).nsFloor = s.nsFloor := rfl
@[simp] theorem State.setGroup_lastSlew (s : State) (l g : Nat) (x : Group) : (s.setGroup l g x).lastSlew = s.lastSlew := rfl
@[simp] theorem State.setGroup_timeJoined (s : State) (l g : Nat) (x : Group) : (s.setGroup l g x).timeJoined = s.timeJoined := rfl
@[simp] theorem State.setGroup_ticks (s : State) (l g : Nat) (x : Group) : (s.setGroup l g x).ticks = s.ticks := rfl
@[simp] theorem State.setGroup_agenda (s : State) (l g : Nat) (x : Group) : (s.setGroup l g x).agenda = s.agenda := rfl
@[simp] theorem State.setGroup_free (s : State) (l g : Nat) (x : Group) : (s.setGroup l g x).free = s.free := rfl
@[simp] theorem State.setGroup_steps (s : State) (l g : Nat) (x : Group) : (s.setGroup l g x).steps = s.steps := rfl
@[simp] theorem State.setGroup_cur (s : State) (l g : Nat) (x : Group) : (s.setGroup l g x).cur = s.cur := rfl

/-! ### setDomain -/

@[simp] theorem State.setDomain_variant (s : State) (d : Nat) (x : Domain) : (s.setDomain d x).variant = s.variant := rfl
@[simp] theorem State.setDomain_phase (s : State) (d : Nat) (x : Domain) : (s.setDomain d x).phase = s.phase := rfl
@[simp] theorem State.setDomain_bootCode (s : State) (d : Nat) (x : Domain) : (s.setDomain d x).bootCode = s.bootCode := rfl
@[simp] theorem State.setDomain_bootCount (s : State) (d : Nat) (x : Domain) : (s.setDomain d x).bootCount = s.bootCount := rfl
@[simp] theorem State.setDomain_mem (s : State) (d : Nat) (x : Domain) : (s.setDomain d x).mem = s.mem := rfl
@[simp] theorem State.setDomain_tiles (s : State) (d : Nat) (x : Domain) : (s.setDomain d x).tiles = s.tiles := rfl
@[simp] theorem State.setDomain_accesses (s : State) (d : Nat) (x : Domain) : (s.setDomain d x).accesses = s.accesses := rfl
@[simp] theorem State.setDomain_nextAccess (s : State) (d : Nat) (x : Domain) : (s.setDomain d x).nextAccess = s.nextAccess := rfl
@[simp] theorem State.setDomain_outstanding (s : State) (d : Nat) (x : Domain) : (s.setDomain d x).outstanding = s.outstanding := rfl
@[simp] theorem State.setDomain_writers (s : State) (d : Nat) (x : Domain) : (s.setDomain d x).writers = s.writers := rfl
@[simp] theorem State.setDomain_groups (s : State) (d : Nat) (x : Domain) : (s.setDomain d x).groups = s.groups := rfl
@[simp] theorem State.setDomain_keySlots (s : State) (d : Nat) (x : Domain) : (s.setDomain d x).keySlots = s.keySlots := rfl
@[simp] theorem State.setDomain_tlb (s : State) (d : Nat) (x : Domain) : (s.setDomain d x).tlb = s.tlb := rfl
@[simp] theorem State.setDomain_invals (s : State) (d : Nat) (x : Domain) : (s.setDomain d x).invals = s.invals := rfl
@[simp] theorem State.setDomain_nextInval (s : State) (d : Nat) (x : Domain) : (s.setDomain d x).nextInval = s.nextInval := rfl
@[simp] theorem State.setDomain_lpddrGib (s : State) (d : Nat) (x : Domain) : (s.setDomain d x).lpddrGib = s.lpddrGib := rfl
@[simp] theorem State.setDomain_cxlGib (s : State) (d : Nat) (x : Domain) : (s.setDomain d x).cxlGib = s.cxlGib := rfl
@[simp] theorem State.setDomain_periods (s : State) (d : Nat) (x : Domain) : (s.setDomain d x).periods = s.periods := rfl
@[simp] theorem State.setDomain_firstDctl (s : State) (d : Nat) (x : Domain) : (s.setDomain d x).firstDctl = s.firstDctl := rfl
@[simp] theorem State.setDomain_thermalHalt (s : State) (d : Nat) (x : Domain) : (s.setDomain d x).thermalHalt = s.thermalHalt := rfl
@[simp] theorem State.setDomain_records (s : State) (d : Nat) (x : Domain) : (s.setDomain d x).records = s.records := rfl
@[simp] theorem State.setDomain_nextRecord (s : State) (d : Nat) (x : Domain) : (s.setDomain d x).nextRecord = s.nextRecord := rfl
@[simp] theorem State.setDomain_faultQueues (s : State) (d : Nat) (x : Domain) : (s.setDomain d x).faultQueues = s.faultQueues := rfl
@[simp] theorem State.setDomain_ports (s : State) (d : Nat) (x : Domain) : (s.setDomain d x).ports = s.ports := rfl
@[simp] theorem State.setDomain_routers (s : State) (d : Nat) (x : Domain) : (s.setDomain d x).routers = s.routers := rfl
@[simp] theorem State.setDomain_ringLevels (s : State) (d : Nat) (x : Domain) : (s.setDomain d x).ringLevels = s.ringLevels := rfl
@[simp] theorem State.setDomain_ringOut (s : State) (d : Nat) (x : Domain) : (s.setDomain d x).ringOut = s.ringOut := rfl
@[simp] theorem State.setDomain_imageCache (s : State) (d : Nat) (x : Domain) : (s.setDomain d x).imageCache = s.imageCache := rfl
@[simp] theorem State.setDomain_library (s : State) (d : Nat) (x : Domain) : (s.setDomain d x).library = s.library := rfl
@[simp] theorem State.setDomain_providerKeys (s : State) (d : Nat) (x : Domain) : (s.setDomain d x).providerKeys = s.providerKeys := rfl
@[simp] theorem State.setDomain_pool (s : State) (d : Nat) (x : Domain) : (s.setDomain d x).pool = s.pool := rfl
@[simp] theorem State.setDomain_nextEntry (s : State) (d : Nat) (x : Domain) : (s.setDomain d x).nextEntry = s.nextEntry := rfl
@[simp] theorem State.setDomain_launches (s : State) (d : Nat) (x : Domain) : (s.setDomain d x).launches = s.launches := rfl
@[simp] theorem State.setDomain_insts (s : State) (d : Nat) (x : Domain) : (s.setDomain d x).insts = s.insts := rfl
@[simp] theorem State.setDomain_resolved (s : State) (d : Nat) (x : Domain) : (s.setDomain d x).resolved = s.resolved := rfl
@[simp] theorem State.setDomain_sched (s : State) (d : Nat) (x : Domain) : (s.setDomain d x).sched = s.sched := rfl
@[simp] theorem State.setDomain_halts (s : State) (d : Nat) (x : Domain) : (s.setDomain d x).halts = s.halts := rfl
@[simp] theorem State.setDomain_spares (s : State) (d : Nat) (x : Domain) : (s.setDomain d x).spares = s.spares := rfl
@[simp] theorem State.setDomain_sectorCe (s : State) (d : Nat) (x : Domain) : (s.setDomain d x).sectorCe = s.sectorCe := rfl
@[simp] theorem State.setDomain_sectorUe (s : State) (d : Nat) (x : Domain) : (s.setDomain d x).sectorUe = s.sectorUe := rfl
@[simp] theorem State.setDomain_replaceReq (s : State) (d : Nat) (x : Domain) : (s.setDomain d x).replaceReq = s.replaceReq := rfl
@[simp] theorem State.setDomain_management (s : State) (d : Nat) (x : Domain) : (s.setDomain d x).management = s.management := rfl
@[simp] theorem State.setDomain_heldMessages (s : State) (d : Nat) (x : Domain) : (s.setDomain d x).heldMessages = s.heldMessages := rfl
@[simp] theorem State.setDomain_queues (s : State) (d : Nat) (x : Domain) : (s.setDomain d x).queues = s.queues := rfl
@[simp] theorem State.setDomain_seqs (s : State) (d : Nat) (x : Domain) : (s.setDomain d x).seqs = s.seqs := rfl
@[simp] theorem State.setDomain_requests (s : State) (d : Nat) (x : Domain) : (s.setDomain d x).requests = s.requests := rfl
@[simp] theorem State.setDomain_joins (s : State) (d : Nat) (x : Domain) : (s.setDomain d x).joins = s.joins := rfl
@[simp] theorem State.setDomain_messages (s : State) (d : Nat) (x : Domain) : (s.setDomain d x).messages = s.messages := rfl
@[simp] theorem State.setDomain_peerOut (s : State) (d : Nat) (x : Domain) : (s.setDomain d x).peerOut = s.peerOut := rfl
@[simp] theorem State.setDomain_fences (s : State) (d : Nat) (x : Domain) : (s.setDomain d x).fences = s.fences := rfl
@[simp] theorem State.setDomain_moduleIndex (s : State) (d : Nat) (x : Domain) : (s.setDomain d x).moduleIndex = s.moduleIndex := rfl
@[simp] theorem State.setDomain_stencils (s : State) (d : Nat) (x : Domain) : (s.setDomain d x).stencils = s.stencils := rfl
@[simp] theorem State.setDomain_stencilCmds (s : State) (d : Nat) (x : Domain) : (s.setDomain d x).stencilCmds = s.stencilCmds := rfl
@[simp] theorem State.setDomain_flash (s : State) (d : Nat) (x : Domain) : (s.setDomain d x).flash = s.flash := rfl
@[simp] theorem State.setDomain_powered (s : State) (d : Nat) (x : Domain) : (s.setDomain d x).powered = s.powered := rfl
@[simp] theorem State.setDomain_linkUp (s : State) (d : Nat) (x : Domain) : (s.setDomain d x).linkUp = s.linkUp := rfl
@[simp] theorem State.setDomain_hostOut (s : State) (d : Nat) (x : Domain) : (s.setDomain d x).hostOut = s.hostOut := rfl
@[simp] theorem State.setDomain_lathImages (s : State) (d : Nat) (x : Domain) : (s.setDomain d x).lathImages = s.lathImages := rfl
@[simp] theorem State.setDomain_loaderStatus (s : State) (d : Nat) (x : Domain) : (s.setDomain d x).loaderStatus = s.loaderStatus := rfl
@[simp] theorem State.setDomain_attestError (s : State) (d : Nat) (x : Domain) : (s.setDomain d x).attestError = s.attestError := rfl
@[simp] theorem State.setDomain_flush (s : State) (d : Nat) (x : Domain) : (s.setDomain d x).flush = s.flush := rfl
@[simp] theorem State.setDomain_mscHits (s : State) (d : Nat) (x : Domain) : (s.setDomain d x).mscHits = s.mscHits := rfl
@[simp] theorem State.setDomain_mscMisses (s : State) (d : Nat) (x : Domain) : (s.setDomain d x).mscMisses = s.mscMisses := rfl
@[simp] theorem State.setDomain_sectorEnergy (s : State) (d : Nat) (x : Domain) : (s.setDomain d x).sectorEnergy = s.sectorEnergy := rfl
@[simp] theorem State.setDomain_refills (s : State) (d : Nat) (x : Domain) : (s.setDomain d x).refills = s.refills := rfl
@[simp] theorem State.setDomain_cycleBase (s : State) (d : Nat) (x : Domain) : (s.setDomain d x).cycleBase = s.cycleBase := rfl
@[simp] theorem State.setDomain_nsAdded (s : State) (d : Nat) (x : Domain) : (s.setDomain d x).nsAdded = s.nsAdded := rfl
@[simp] theorem State.setDomain_nsFloor (s : State) (d : Nat) (x : Domain) : (s.setDomain d x).nsFloor = s.nsFloor := rfl
@[simp] theorem State.setDomain_lastSlew (s : State) (d : Nat) (x : Domain) : (s.setDomain d x).lastSlew = s.lastSlew := rfl
@[simp] theorem State.setDomain_timeJoined (s : State) (d : Nat) (x : Domain) : (s.setDomain d x).timeJoined = s.timeJoined := rfl
@[simp] theorem State.setDomain_ticks (s : State) (d : Nat) (x : Domain) : (s.setDomain d x).ticks = s.ticks := rfl
@[simp] theorem State.setDomain_agenda (s : State) (d : Nat) (x : Domain) : (s.setDomain d x).agenda = s.agenda := rfl
@[simp] theorem State.setDomain_free (s : State) (d : Nat) (x : Domain) : (s.setDomain d x).free = s.free := rfl
@[simp] theorem State.setDomain_steps (s : State) (d : Nat) (x : Domain) : (s.setDomain d x).steps = s.steps := rfl
@[simp] theorem State.setDomain_cur (s : State) (d : Nat) (x : Domain) : (s.setDomain d x).cur = s.cur := rfl

/-! ### setPort -/

@[simp] theorem State.setPort_variant (s : State) (n : Nat) (x : IngressPort) : (s.setPort n x).variant = s.variant := rfl
@[simp] theorem State.setPort_phase (s : State) (n : Nat) (x : IngressPort) : (s.setPort n x).phase = s.phase := rfl
@[simp] theorem State.setPort_bootCode (s : State) (n : Nat) (x : IngressPort) : (s.setPort n x).bootCode = s.bootCode := rfl
@[simp] theorem State.setPort_bootCount (s : State) (n : Nat) (x : IngressPort) : (s.setPort n x).bootCount = s.bootCount := rfl
@[simp] theorem State.setPort_mem (s : State) (n : Nat) (x : IngressPort) : (s.setPort n x).mem = s.mem := rfl
@[simp] theorem State.setPort_tiles (s : State) (n : Nat) (x : IngressPort) : (s.setPort n x).tiles = s.tiles := rfl
@[simp] theorem State.setPort_accesses (s : State) (n : Nat) (x : IngressPort) : (s.setPort n x).accesses = s.accesses := rfl
@[simp] theorem State.setPort_nextAccess (s : State) (n : Nat) (x : IngressPort) : (s.setPort n x).nextAccess = s.nextAccess := rfl
@[simp] theorem State.setPort_outstanding (s : State) (n : Nat) (x : IngressPort) : (s.setPort n x).outstanding = s.outstanding := rfl
@[simp] theorem State.setPort_writers (s : State) (n : Nat) (x : IngressPort) : (s.setPort n x).writers = s.writers := rfl
@[simp] theorem State.setPort_groups (s : State) (n : Nat) (x : IngressPort) : (s.setPort n x).groups = s.groups := rfl
@[simp] theorem State.setPort_domains (s : State) (n : Nat) (x : IngressPort) : (s.setPort n x).domains = s.domains := rfl
@[simp] theorem State.setPort_keySlots (s : State) (n : Nat) (x : IngressPort) : (s.setPort n x).keySlots = s.keySlots := rfl
@[simp] theorem State.setPort_tlb (s : State) (n : Nat) (x : IngressPort) : (s.setPort n x).tlb = s.tlb := rfl
@[simp] theorem State.setPort_invals (s : State) (n : Nat) (x : IngressPort) : (s.setPort n x).invals = s.invals := rfl
@[simp] theorem State.setPort_nextInval (s : State) (n : Nat) (x : IngressPort) : (s.setPort n x).nextInval = s.nextInval := rfl
@[simp] theorem State.setPort_lpddrGib (s : State) (n : Nat) (x : IngressPort) : (s.setPort n x).lpddrGib = s.lpddrGib := rfl
@[simp] theorem State.setPort_cxlGib (s : State) (n : Nat) (x : IngressPort) : (s.setPort n x).cxlGib = s.cxlGib := rfl
@[simp] theorem State.setPort_periods (s : State) (n : Nat) (x : IngressPort) : (s.setPort n x).periods = s.periods := rfl
@[simp] theorem State.setPort_firstDctl (s : State) (n : Nat) (x : IngressPort) : (s.setPort n x).firstDctl = s.firstDctl := rfl
@[simp] theorem State.setPort_thermalHalt (s : State) (n : Nat) (x : IngressPort) : (s.setPort n x).thermalHalt = s.thermalHalt := rfl
@[simp] theorem State.setPort_records (s : State) (n : Nat) (x : IngressPort) : (s.setPort n x).records = s.records := rfl
@[simp] theorem State.setPort_nextRecord (s : State) (n : Nat) (x : IngressPort) : (s.setPort n x).nextRecord = s.nextRecord := rfl
@[simp] theorem State.setPort_faultQueues (s : State) (n : Nat) (x : IngressPort) : (s.setPort n x).faultQueues = s.faultQueues := rfl
@[simp] theorem State.setPort_routers (s : State) (n : Nat) (x : IngressPort) : (s.setPort n x).routers = s.routers := rfl
@[simp] theorem State.setPort_ringLevels (s : State) (n : Nat) (x : IngressPort) : (s.setPort n x).ringLevels = s.ringLevels := rfl
@[simp] theorem State.setPort_ringOut (s : State) (n : Nat) (x : IngressPort) : (s.setPort n x).ringOut = s.ringOut := rfl
@[simp] theorem State.setPort_imageCache (s : State) (n : Nat) (x : IngressPort) : (s.setPort n x).imageCache = s.imageCache := rfl
@[simp] theorem State.setPort_library (s : State) (n : Nat) (x : IngressPort) : (s.setPort n x).library = s.library := rfl
@[simp] theorem State.setPort_providerKeys (s : State) (n : Nat) (x : IngressPort) : (s.setPort n x).providerKeys = s.providerKeys := rfl
@[simp] theorem State.setPort_pool (s : State) (n : Nat) (x : IngressPort) : (s.setPort n x).pool = s.pool := rfl
@[simp] theorem State.setPort_nextEntry (s : State) (n : Nat) (x : IngressPort) : (s.setPort n x).nextEntry = s.nextEntry := rfl
@[simp] theorem State.setPort_launches (s : State) (n : Nat) (x : IngressPort) : (s.setPort n x).launches = s.launches := rfl
@[simp] theorem State.setPort_insts (s : State) (n : Nat) (x : IngressPort) : (s.setPort n x).insts = s.insts := rfl
@[simp] theorem State.setPort_resolved (s : State) (n : Nat) (x : IngressPort) : (s.setPort n x).resolved = s.resolved := rfl
@[simp] theorem State.setPort_sched (s : State) (n : Nat) (x : IngressPort) : (s.setPort n x).sched = s.sched := rfl
@[simp] theorem State.setPort_halts (s : State) (n : Nat) (x : IngressPort) : (s.setPort n x).halts = s.halts := rfl
@[simp] theorem State.setPort_spares (s : State) (n : Nat) (x : IngressPort) : (s.setPort n x).spares = s.spares := rfl
@[simp] theorem State.setPort_sectorCe (s : State) (n : Nat) (x : IngressPort) : (s.setPort n x).sectorCe = s.sectorCe := rfl
@[simp] theorem State.setPort_sectorUe (s : State) (n : Nat) (x : IngressPort) : (s.setPort n x).sectorUe = s.sectorUe := rfl
@[simp] theorem State.setPort_replaceReq (s : State) (n : Nat) (x : IngressPort) : (s.setPort n x).replaceReq = s.replaceReq := rfl
@[simp] theorem State.setPort_management (s : State) (n : Nat) (x : IngressPort) : (s.setPort n x).management = s.management := rfl
@[simp] theorem State.setPort_heldMessages (s : State) (n : Nat) (x : IngressPort) : (s.setPort n x).heldMessages = s.heldMessages := rfl
@[simp] theorem State.setPort_queues (s : State) (n : Nat) (x : IngressPort) : (s.setPort n x).queues = s.queues := rfl
@[simp] theorem State.setPort_seqs (s : State) (n : Nat) (x : IngressPort) : (s.setPort n x).seqs = s.seqs := rfl
@[simp] theorem State.setPort_requests (s : State) (n : Nat) (x : IngressPort) : (s.setPort n x).requests = s.requests := rfl
@[simp] theorem State.setPort_joins (s : State) (n : Nat) (x : IngressPort) : (s.setPort n x).joins = s.joins := rfl
@[simp] theorem State.setPort_messages (s : State) (n : Nat) (x : IngressPort) : (s.setPort n x).messages = s.messages := rfl
@[simp] theorem State.setPort_peerOut (s : State) (n : Nat) (x : IngressPort) : (s.setPort n x).peerOut = s.peerOut := rfl
@[simp] theorem State.setPort_fences (s : State) (n : Nat) (x : IngressPort) : (s.setPort n x).fences = s.fences := rfl
@[simp] theorem State.setPort_moduleIndex (s : State) (n : Nat) (x : IngressPort) : (s.setPort n x).moduleIndex = s.moduleIndex := rfl
@[simp] theorem State.setPort_stencils (s : State) (n : Nat) (x : IngressPort) : (s.setPort n x).stencils = s.stencils := rfl
@[simp] theorem State.setPort_stencilCmds (s : State) (n : Nat) (x : IngressPort) : (s.setPort n x).stencilCmds = s.stencilCmds := rfl
@[simp] theorem State.setPort_flash (s : State) (n : Nat) (x : IngressPort) : (s.setPort n x).flash = s.flash := rfl
@[simp] theorem State.setPort_powered (s : State) (n : Nat) (x : IngressPort) : (s.setPort n x).powered = s.powered := rfl
@[simp] theorem State.setPort_linkUp (s : State) (n : Nat) (x : IngressPort) : (s.setPort n x).linkUp = s.linkUp := rfl
@[simp] theorem State.setPort_hostOut (s : State) (n : Nat) (x : IngressPort) : (s.setPort n x).hostOut = s.hostOut := rfl
@[simp] theorem State.setPort_lathImages (s : State) (n : Nat) (x : IngressPort) : (s.setPort n x).lathImages = s.lathImages := rfl
@[simp] theorem State.setPort_loaderStatus (s : State) (n : Nat) (x : IngressPort) : (s.setPort n x).loaderStatus = s.loaderStatus := rfl
@[simp] theorem State.setPort_attestError (s : State) (n : Nat) (x : IngressPort) : (s.setPort n x).attestError = s.attestError := rfl
@[simp] theorem State.setPort_flush (s : State) (n : Nat) (x : IngressPort) : (s.setPort n x).flush = s.flush := rfl
@[simp] theorem State.setPort_mscHits (s : State) (n : Nat) (x : IngressPort) : (s.setPort n x).mscHits = s.mscHits := rfl
@[simp] theorem State.setPort_mscMisses (s : State) (n : Nat) (x : IngressPort) : (s.setPort n x).mscMisses = s.mscMisses := rfl
@[simp] theorem State.setPort_sectorEnergy (s : State) (n : Nat) (x : IngressPort) : (s.setPort n x).sectorEnergy = s.sectorEnergy := rfl
@[simp] theorem State.setPort_refills (s : State) (n : Nat) (x : IngressPort) : (s.setPort n x).refills = s.refills := rfl
@[simp] theorem State.setPort_cycleBase (s : State) (n : Nat) (x : IngressPort) : (s.setPort n x).cycleBase = s.cycleBase := rfl
@[simp] theorem State.setPort_nsAdded (s : State) (n : Nat) (x : IngressPort) : (s.setPort n x).nsAdded = s.nsAdded := rfl
@[simp] theorem State.setPort_nsFloor (s : State) (n : Nat) (x : IngressPort) : (s.setPort n x).nsFloor = s.nsFloor := rfl
@[simp] theorem State.setPort_lastSlew (s : State) (n : Nat) (x : IngressPort) : (s.setPort n x).lastSlew = s.lastSlew := rfl
@[simp] theorem State.setPort_timeJoined (s : State) (n : Nat) (x : IngressPort) : (s.setPort n x).timeJoined = s.timeJoined := rfl
@[simp] theorem State.setPort_ticks (s : State) (n : Nat) (x : IngressPort) : (s.setPort n x).ticks = s.ticks := rfl
@[simp] theorem State.setPort_agenda (s : State) (n : Nat) (x : IngressPort) : (s.setPort n x).agenda = s.agenda := rfl
@[simp] theorem State.setPort_free (s : State) (n : Nat) (x : IngressPort) : (s.setPort n x).free = s.free := rfl
@[simp] theorem State.setPort_steps (s : State) (n : Nat) (x : IngressPort) : (s.setPort n x).steps = s.steps := rfl
@[simp] theorem State.setPort_cur (s : State) (n : Nat) (x : IngressPort) : (s.setPort n x).cur = s.cur := rfl

/-! ### setKeySlot -/

@[simp] theorem State.setKeySlot_variant (s : State) (k : Nat) (x : KeySlot) : (s.setKeySlot k x).variant = s.variant := rfl
@[simp] theorem State.setKeySlot_phase (s : State) (k : Nat) (x : KeySlot) : (s.setKeySlot k x).phase = s.phase := rfl
@[simp] theorem State.setKeySlot_bootCode (s : State) (k : Nat) (x : KeySlot) : (s.setKeySlot k x).bootCode = s.bootCode := rfl
@[simp] theorem State.setKeySlot_bootCount (s : State) (k : Nat) (x : KeySlot) : (s.setKeySlot k x).bootCount = s.bootCount := rfl
@[simp] theorem State.setKeySlot_mem (s : State) (k : Nat) (x : KeySlot) : (s.setKeySlot k x).mem = s.mem := rfl
@[simp] theorem State.setKeySlot_tiles (s : State) (k : Nat) (x : KeySlot) : (s.setKeySlot k x).tiles = s.tiles := rfl
@[simp] theorem State.setKeySlot_accesses (s : State) (k : Nat) (x : KeySlot) : (s.setKeySlot k x).accesses = s.accesses := rfl
@[simp] theorem State.setKeySlot_nextAccess (s : State) (k : Nat) (x : KeySlot) : (s.setKeySlot k x).nextAccess = s.nextAccess := rfl
@[simp] theorem State.setKeySlot_outstanding (s : State) (k : Nat) (x : KeySlot) : (s.setKeySlot k x).outstanding = s.outstanding := rfl
@[simp] theorem State.setKeySlot_writers (s : State) (k : Nat) (x : KeySlot) : (s.setKeySlot k x).writers = s.writers := rfl
@[simp] theorem State.setKeySlot_groups (s : State) (k : Nat) (x : KeySlot) : (s.setKeySlot k x).groups = s.groups := rfl
@[simp] theorem State.setKeySlot_domains (s : State) (k : Nat) (x : KeySlot) : (s.setKeySlot k x).domains = s.domains := rfl
@[simp] theorem State.setKeySlot_tlb (s : State) (k : Nat) (x : KeySlot) : (s.setKeySlot k x).tlb = s.tlb := rfl
@[simp] theorem State.setKeySlot_invals (s : State) (k : Nat) (x : KeySlot) : (s.setKeySlot k x).invals = s.invals := rfl
@[simp] theorem State.setKeySlot_nextInval (s : State) (k : Nat) (x : KeySlot) : (s.setKeySlot k x).nextInval = s.nextInval := rfl
@[simp] theorem State.setKeySlot_lpddrGib (s : State) (k : Nat) (x : KeySlot) : (s.setKeySlot k x).lpddrGib = s.lpddrGib := rfl
@[simp] theorem State.setKeySlot_cxlGib (s : State) (k : Nat) (x : KeySlot) : (s.setKeySlot k x).cxlGib = s.cxlGib := rfl
@[simp] theorem State.setKeySlot_periods (s : State) (k : Nat) (x : KeySlot) : (s.setKeySlot k x).periods = s.periods := rfl
@[simp] theorem State.setKeySlot_firstDctl (s : State) (k : Nat) (x : KeySlot) : (s.setKeySlot k x).firstDctl = s.firstDctl := rfl
@[simp] theorem State.setKeySlot_thermalHalt (s : State) (k : Nat) (x : KeySlot) : (s.setKeySlot k x).thermalHalt = s.thermalHalt := rfl
@[simp] theorem State.setKeySlot_records (s : State) (k : Nat) (x : KeySlot) : (s.setKeySlot k x).records = s.records := rfl
@[simp] theorem State.setKeySlot_nextRecord (s : State) (k : Nat) (x : KeySlot) : (s.setKeySlot k x).nextRecord = s.nextRecord := rfl
@[simp] theorem State.setKeySlot_faultQueues (s : State) (k : Nat) (x : KeySlot) : (s.setKeySlot k x).faultQueues = s.faultQueues := rfl
@[simp] theorem State.setKeySlot_ports (s : State) (k : Nat) (x : KeySlot) : (s.setKeySlot k x).ports = s.ports := rfl
@[simp] theorem State.setKeySlot_routers (s : State) (k : Nat) (x : KeySlot) : (s.setKeySlot k x).routers = s.routers := rfl
@[simp] theorem State.setKeySlot_ringLevels (s : State) (k : Nat) (x : KeySlot) : (s.setKeySlot k x).ringLevels = s.ringLevels := rfl
@[simp] theorem State.setKeySlot_ringOut (s : State) (k : Nat) (x : KeySlot) : (s.setKeySlot k x).ringOut = s.ringOut := rfl
@[simp] theorem State.setKeySlot_imageCache (s : State) (k : Nat) (x : KeySlot) : (s.setKeySlot k x).imageCache = s.imageCache := rfl
@[simp] theorem State.setKeySlot_library (s : State) (k : Nat) (x : KeySlot) : (s.setKeySlot k x).library = s.library := rfl
@[simp] theorem State.setKeySlot_providerKeys (s : State) (k : Nat) (x : KeySlot) : (s.setKeySlot k x).providerKeys = s.providerKeys := rfl
@[simp] theorem State.setKeySlot_pool (s : State) (k : Nat) (x : KeySlot) : (s.setKeySlot k x).pool = s.pool := rfl
@[simp] theorem State.setKeySlot_nextEntry (s : State) (k : Nat) (x : KeySlot) : (s.setKeySlot k x).nextEntry = s.nextEntry := rfl
@[simp] theorem State.setKeySlot_launches (s : State) (k : Nat) (x : KeySlot) : (s.setKeySlot k x).launches = s.launches := rfl
@[simp] theorem State.setKeySlot_insts (s : State) (k : Nat) (x : KeySlot) : (s.setKeySlot k x).insts = s.insts := rfl
@[simp] theorem State.setKeySlot_resolved (s : State) (k : Nat) (x : KeySlot) : (s.setKeySlot k x).resolved = s.resolved := rfl
@[simp] theorem State.setKeySlot_sched (s : State) (k : Nat) (x : KeySlot) : (s.setKeySlot k x).sched = s.sched := rfl
@[simp] theorem State.setKeySlot_halts (s : State) (k : Nat) (x : KeySlot) : (s.setKeySlot k x).halts = s.halts := rfl
@[simp] theorem State.setKeySlot_spares (s : State) (k : Nat) (x : KeySlot) : (s.setKeySlot k x).spares = s.spares := rfl
@[simp] theorem State.setKeySlot_sectorCe (s : State) (k : Nat) (x : KeySlot) : (s.setKeySlot k x).sectorCe = s.sectorCe := rfl
@[simp] theorem State.setKeySlot_sectorUe (s : State) (k : Nat) (x : KeySlot) : (s.setKeySlot k x).sectorUe = s.sectorUe := rfl
@[simp] theorem State.setKeySlot_replaceReq (s : State) (k : Nat) (x : KeySlot) : (s.setKeySlot k x).replaceReq = s.replaceReq := rfl
@[simp] theorem State.setKeySlot_management (s : State) (k : Nat) (x : KeySlot) : (s.setKeySlot k x).management = s.management := rfl
@[simp] theorem State.setKeySlot_heldMessages (s : State) (k : Nat) (x : KeySlot) : (s.setKeySlot k x).heldMessages = s.heldMessages := rfl
@[simp] theorem State.setKeySlot_queues (s : State) (k : Nat) (x : KeySlot) : (s.setKeySlot k x).queues = s.queues := rfl
@[simp] theorem State.setKeySlot_seqs (s : State) (k : Nat) (x : KeySlot) : (s.setKeySlot k x).seqs = s.seqs := rfl
@[simp] theorem State.setKeySlot_requests (s : State) (k : Nat) (x : KeySlot) : (s.setKeySlot k x).requests = s.requests := rfl
@[simp] theorem State.setKeySlot_joins (s : State) (k : Nat) (x : KeySlot) : (s.setKeySlot k x).joins = s.joins := rfl
@[simp] theorem State.setKeySlot_messages (s : State) (k : Nat) (x : KeySlot) : (s.setKeySlot k x).messages = s.messages := rfl
@[simp] theorem State.setKeySlot_peerOut (s : State) (k : Nat) (x : KeySlot) : (s.setKeySlot k x).peerOut = s.peerOut := rfl
@[simp] theorem State.setKeySlot_fences (s : State) (k : Nat) (x : KeySlot) : (s.setKeySlot k x).fences = s.fences := rfl
@[simp] theorem State.setKeySlot_moduleIndex (s : State) (k : Nat) (x : KeySlot) : (s.setKeySlot k x).moduleIndex = s.moduleIndex := rfl
@[simp] theorem State.setKeySlot_stencils (s : State) (k : Nat) (x : KeySlot) : (s.setKeySlot k x).stencils = s.stencils := rfl
@[simp] theorem State.setKeySlot_stencilCmds (s : State) (k : Nat) (x : KeySlot) : (s.setKeySlot k x).stencilCmds = s.stencilCmds := rfl
@[simp] theorem State.setKeySlot_flash (s : State) (k : Nat) (x : KeySlot) : (s.setKeySlot k x).flash = s.flash := rfl
@[simp] theorem State.setKeySlot_powered (s : State) (k : Nat) (x : KeySlot) : (s.setKeySlot k x).powered = s.powered := rfl
@[simp] theorem State.setKeySlot_linkUp (s : State) (k : Nat) (x : KeySlot) : (s.setKeySlot k x).linkUp = s.linkUp := rfl
@[simp] theorem State.setKeySlot_hostOut (s : State) (k : Nat) (x : KeySlot) : (s.setKeySlot k x).hostOut = s.hostOut := rfl
@[simp] theorem State.setKeySlot_lathImages (s : State) (k : Nat) (x : KeySlot) : (s.setKeySlot k x).lathImages = s.lathImages := rfl
@[simp] theorem State.setKeySlot_loaderStatus (s : State) (k : Nat) (x : KeySlot) : (s.setKeySlot k x).loaderStatus = s.loaderStatus := rfl
@[simp] theorem State.setKeySlot_attestError (s : State) (k : Nat) (x : KeySlot) : (s.setKeySlot k x).attestError = s.attestError := rfl
@[simp] theorem State.setKeySlot_flush (s : State) (k : Nat) (x : KeySlot) : (s.setKeySlot k x).flush = s.flush := rfl
@[simp] theorem State.setKeySlot_mscHits (s : State) (k : Nat) (x : KeySlot) : (s.setKeySlot k x).mscHits = s.mscHits := rfl
@[simp] theorem State.setKeySlot_mscMisses (s : State) (k : Nat) (x : KeySlot) : (s.setKeySlot k x).mscMisses = s.mscMisses := rfl
@[simp] theorem State.setKeySlot_sectorEnergy (s : State) (k : Nat) (x : KeySlot) : (s.setKeySlot k x).sectorEnergy = s.sectorEnergy := rfl
@[simp] theorem State.setKeySlot_refills (s : State) (k : Nat) (x : KeySlot) : (s.setKeySlot k x).refills = s.refills := rfl
@[simp] theorem State.setKeySlot_cycleBase (s : State) (k : Nat) (x : KeySlot) : (s.setKeySlot k x).cycleBase = s.cycleBase := rfl
@[simp] theorem State.setKeySlot_nsAdded (s : State) (k : Nat) (x : KeySlot) : (s.setKeySlot k x).nsAdded = s.nsAdded := rfl
@[simp] theorem State.setKeySlot_nsFloor (s : State) (k : Nat) (x : KeySlot) : (s.setKeySlot k x).nsFloor = s.nsFloor := rfl
@[simp] theorem State.setKeySlot_lastSlew (s : State) (k : Nat) (x : KeySlot) : (s.setKeySlot k x).lastSlew = s.lastSlew := rfl
@[simp] theorem State.setKeySlot_timeJoined (s : State) (k : Nat) (x : KeySlot) : (s.setKeySlot k x).timeJoined = s.timeJoined := rfl
@[simp] theorem State.setKeySlot_ticks (s : State) (k : Nat) (x : KeySlot) : (s.setKeySlot k x).ticks = s.ticks := rfl
@[simp] theorem State.setKeySlot_agenda (s : State) (k : Nat) (x : KeySlot) : (s.setKeySlot k x).agenda = s.agenda := rfl
@[simp] theorem State.setKeySlot_free (s : State) (k : Nat) (x : KeySlot) : (s.setKeySlot k x).free = s.free := rfl
@[simp] theorem State.setKeySlot_steps (s : State) (k : Nat) (x : KeySlot) : (s.setKeySlot k x).steps = s.steps := rfl
@[simp] theorem State.setKeySlot_cur (s : State) (k : Nat) (x : KeySlot) : (s.setKeySlot k x).cur = s.cur := rfl

/-! ### setRouter -/

@[simp] theorem State.setRouter_variant (s : State) (n : Nat) (x : Router) : (s.setRouter n x).variant = s.variant := rfl
@[simp] theorem State.setRouter_phase (s : State) (n : Nat) (x : Router) : (s.setRouter n x).phase = s.phase := rfl
@[simp] theorem State.setRouter_bootCode (s : State) (n : Nat) (x : Router) : (s.setRouter n x).bootCode = s.bootCode := rfl
@[simp] theorem State.setRouter_bootCount (s : State) (n : Nat) (x : Router) : (s.setRouter n x).bootCount = s.bootCount := rfl
@[simp] theorem State.setRouter_mem (s : State) (n : Nat) (x : Router) : (s.setRouter n x).mem = s.mem := rfl
@[simp] theorem State.setRouter_tiles (s : State) (n : Nat) (x : Router) : (s.setRouter n x).tiles = s.tiles := rfl
@[simp] theorem State.setRouter_accesses (s : State) (n : Nat) (x : Router) : (s.setRouter n x).accesses = s.accesses := rfl
@[simp] theorem State.setRouter_nextAccess (s : State) (n : Nat) (x : Router) : (s.setRouter n x).nextAccess = s.nextAccess := rfl
@[simp] theorem State.setRouter_outstanding (s : State) (n : Nat) (x : Router) : (s.setRouter n x).outstanding = s.outstanding := rfl
@[simp] theorem State.setRouter_writers (s : State) (n : Nat) (x : Router) : (s.setRouter n x).writers = s.writers := rfl
@[simp] theorem State.setRouter_groups (s : State) (n : Nat) (x : Router) : (s.setRouter n x).groups = s.groups := rfl
@[simp] theorem State.setRouter_domains (s : State) (n : Nat) (x : Router) : (s.setRouter n x).domains = s.domains := rfl
@[simp] theorem State.setRouter_keySlots (s : State) (n : Nat) (x : Router) : (s.setRouter n x).keySlots = s.keySlots := rfl
@[simp] theorem State.setRouter_tlb (s : State) (n : Nat) (x : Router) : (s.setRouter n x).tlb = s.tlb := rfl
@[simp] theorem State.setRouter_invals (s : State) (n : Nat) (x : Router) : (s.setRouter n x).invals = s.invals := rfl
@[simp] theorem State.setRouter_nextInval (s : State) (n : Nat) (x : Router) : (s.setRouter n x).nextInval = s.nextInval := rfl
@[simp] theorem State.setRouter_lpddrGib (s : State) (n : Nat) (x : Router) : (s.setRouter n x).lpddrGib = s.lpddrGib := rfl
@[simp] theorem State.setRouter_cxlGib (s : State) (n : Nat) (x : Router) : (s.setRouter n x).cxlGib = s.cxlGib := rfl
@[simp] theorem State.setRouter_periods (s : State) (n : Nat) (x : Router) : (s.setRouter n x).periods = s.periods := rfl
@[simp] theorem State.setRouter_firstDctl (s : State) (n : Nat) (x : Router) : (s.setRouter n x).firstDctl = s.firstDctl := rfl
@[simp] theorem State.setRouter_thermalHalt (s : State) (n : Nat) (x : Router) : (s.setRouter n x).thermalHalt = s.thermalHalt := rfl
@[simp] theorem State.setRouter_records (s : State) (n : Nat) (x : Router) : (s.setRouter n x).records = s.records := rfl
@[simp] theorem State.setRouter_nextRecord (s : State) (n : Nat) (x : Router) : (s.setRouter n x).nextRecord = s.nextRecord := rfl
@[simp] theorem State.setRouter_faultQueues (s : State) (n : Nat) (x : Router) : (s.setRouter n x).faultQueues = s.faultQueues := rfl
@[simp] theorem State.setRouter_ports (s : State) (n : Nat) (x : Router) : (s.setRouter n x).ports = s.ports := rfl
@[simp] theorem State.setRouter_ringLevels (s : State) (n : Nat) (x : Router) : (s.setRouter n x).ringLevels = s.ringLevels := rfl
@[simp] theorem State.setRouter_ringOut (s : State) (n : Nat) (x : Router) : (s.setRouter n x).ringOut = s.ringOut := rfl
@[simp] theorem State.setRouter_imageCache (s : State) (n : Nat) (x : Router) : (s.setRouter n x).imageCache = s.imageCache := rfl
@[simp] theorem State.setRouter_library (s : State) (n : Nat) (x : Router) : (s.setRouter n x).library = s.library := rfl
@[simp] theorem State.setRouter_providerKeys (s : State) (n : Nat) (x : Router) : (s.setRouter n x).providerKeys = s.providerKeys := rfl
@[simp] theorem State.setRouter_pool (s : State) (n : Nat) (x : Router) : (s.setRouter n x).pool = s.pool := rfl
@[simp] theorem State.setRouter_nextEntry (s : State) (n : Nat) (x : Router) : (s.setRouter n x).nextEntry = s.nextEntry := rfl
@[simp] theorem State.setRouter_launches (s : State) (n : Nat) (x : Router) : (s.setRouter n x).launches = s.launches := rfl
@[simp] theorem State.setRouter_insts (s : State) (n : Nat) (x : Router) : (s.setRouter n x).insts = s.insts := rfl
@[simp] theorem State.setRouter_resolved (s : State) (n : Nat) (x : Router) : (s.setRouter n x).resolved = s.resolved := rfl
@[simp] theorem State.setRouter_sched (s : State) (n : Nat) (x : Router) : (s.setRouter n x).sched = s.sched := rfl
@[simp] theorem State.setRouter_halts (s : State) (n : Nat) (x : Router) : (s.setRouter n x).halts = s.halts := rfl
@[simp] theorem State.setRouter_spares (s : State) (n : Nat) (x : Router) : (s.setRouter n x).spares = s.spares := rfl
@[simp] theorem State.setRouter_sectorCe (s : State) (n : Nat) (x : Router) : (s.setRouter n x).sectorCe = s.sectorCe := rfl
@[simp] theorem State.setRouter_sectorUe (s : State) (n : Nat) (x : Router) : (s.setRouter n x).sectorUe = s.sectorUe := rfl
@[simp] theorem State.setRouter_replaceReq (s : State) (n : Nat) (x : Router) : (s.setRouter n x).replaceReq = s.replaceReq := rfl
@[simp] theorem State.setRouter_management (s : State) (n : Nat) (x : Router) : (s.setRouter n x).management = s.management := rfl
@[simp] theorem State.setRouter_heldMessages (s : State) (n : Nat) (x : Router) : (s.setRouter n x).heldMessages = s.heldMessages := rfl
@[simp] theorem State.setRouter_queues (s : State) (n : Nat) (x : Router) : (s.setRouter n x).queues = s.queues := rfl
@[simp] theorem State.setRouter_seqs (s : State) (n : Nat) (x : Router) : (s.setRouter n x).seqs = s.seqs := rfl
@[simp] theorem State.setRouter_requests (s : State) (n : Nat) (x : Router) : (s.setRouter n x).requests = s.requests := rfl
@[simp] theorem State.setRouter_joins (s : State) (n : Nat) (x : Router) : (s.setRouter n x).joins = s.joins := rfl
@[simp] theorem State.setRouter_messages (s : State) (n : Nat) (x : Router) : (s.setRouter n x).messages = s.messages := rfl
@[simp] theorem State.setRouter_peerOut (s : State) (n : Nat) (x : Router) : (s.setRouter n x).peerOut = s.peerOut := rfl
@[simp] theorem State.setRouter_fences (s : State) (n : Nat) (x : Router) : (s.setRouter n x).fences = s.fences := rfl
@[simp] theorem State.setRouter_moduleIndex (s : State) (n : Nat) (x : Router) : (s.setRouter n x).moduleIndex = s.moduleIndex := rfl
@[simp] theorem State.setRouter_stencils (s : State) (n : Nat) (x : Router) : (s.setRouter n x).stencils = s.stencils := rfl
@[simp] theorem State.setRouter_stencilCmds (s : State) (n : Nat) (x : Router) : (s.setRouter n x).stencilCmds = s.stencilCmds := rfl
@[simp] theorem State.setRouter_flash (s : State) (n : Nat) (x : Router) : (s.setRouter n x).flash = s.flash := rfl
@[simp] theorem State.setRouter_powered (s : State) (n : Nat) (x : Router) : (s.setRouter n x).powered = s.powered := rfl
@[simp] theorem State.setRouter_linkUp (s : State) (n : Nat) (x : Router) : (s.setRouter n x).linkUp = s.linkUp := rfl
@[simp] theorem State.setRouter_hostOut (s : State) (n : Nat) (x : Router) : (s.setRouter n x).hostOut = s.hostOut := rfl
@[simp] theorem State.setRouter_lathImages (s : State) (n : Nat) (x : Router) : (s.setRouter n x).lathImages = s.lathImages := rfl
@[simp] theorem State.setRouter_loaderStatus (s : State) (n : Nat) (x : Router) : (s.setRouter n x).loaderStatus = s.loaderStatus := rfl
@[simp] theorem State.setRouter_attestError (s : State) (n : Nat) (x : Router) : (s.setRouter n x).attestError = s.attestError := rfl
@[simp] theorem State.setRouter_flush (s : State) (n : Nat) (x : Router) : (s.setRouter n x).flush = s.flush := rfl
@[simp] theorem State.setRouter_mscHits (s : State) (n : Nat) (x : Router) : (s.setRouter n x).mscHits = s.mscHits := rfl
@[simp] theorem State.setRouter_mscMisses (s : State) (n : Nat) (x : Router) : (s.setRouter n x).mscMisses = s.mscMisses := rfl
@[simp] theorem State.setRouter_sectorEnergy (s : State) (n : Nat) (x : Router) : (s.setRouter n x).sectorEnergy = s.sectorEnergy := rfl
@[simp] theorem State.setRouter_refills (s : State) (n : Nat) (x : Router) : (s.setRouter n x).refills = s.refills := rfl
@[simp] theorem State.setRouter_cycleBase (s : State) (n : Nat) (x : Router) : (s.setRouter n x).cycleBase = s.cycleBase := rfl
@[simp] theorem State.setRouter_nsAdded (s : State) (n : Nat) (x : Router) : (s.setRouter n x).nsAdded = s.nsAdded := rfl
@[simp] theorem State.setRouter_nsFloor (s : State) (n : Nat) (x : Router) : (s.setRouter n x).nsFloor = s.nsFloor := rfl
@[simp] theorem State.setRouter_lastSlew (s : State) (n : Nat) (x : Router) : (s.setRouter n x).lastSlew = s.lastSlew := rfl
@[simp] theorem State.setRouter_timeJoined (s : State) (n : Nat) (x : Router) : (s.setRouter n x).timeJoined = s.timeJoined := rfl
@[simp] theorem State.setRouter_ticks (s : State) (n : Nat) (x : Router) : (s.setRouter n x).ticks = s.ticks := rfl
@[simp] theorem State.setRouter_agenda (s : State) (n : Nat) (x : Router) : (s.setRouter n x).agenda = s.agenda := rfl
@[simp] theorem State.setRouter_free (s : State) (n : Nat) (x : Router) : (s.setRouter n x).free = s.free := rfl
@[simp] theorem State.setRouter_steps (s : State) (n : Nat) (x : Router) : (s.setRouter n x).steps = s.steps := rfl
@[simp] theorem State.setRouter_cur (s : State) (n : Nat) (x : Router) : (s.setRouter n x).cur = s.cur := rfl

/-! ### setSched -/

@[simp] theorem State.setSched_variant (s : State) (d : Nat) (x : Sched) : (s.setSched d x).variant = s.variant := rfl
@[simp] theorem State.setSched_phase (s : State) (d : Nat) (x : Sched) : (s.setSched d x).phase = s.phase := rfl
@[simp] theorem State.setSched_bootCode (s : State) (d : Nat) (x : Sched) : (s.setSched d x).bootCode = s.bootCode := rfl
@[simp] theorem State.setSched_bootCount (s : State) (d : Nat) (x : Sched) : (s.setSched d x).bootCount = s.bootCount := rfl
@[simp] theorem State.setSched_mem (s : State) (d : Nat) (x : Sched) : (s.setSched d x).mem = s.mem := rfl
@[simp] theorem State.setSched_tiles (s : State) (d : Nat) (x : Sched) : (s.setSched d x).tiles = s.tiles := rfl
@[simp] theorem State.setSched_accesses (s : State) (d : Nat) (x : Sched) : (s.setSched d x).accesses = s.accesses := rfl
@[simp] theorem State.setSched_nextAccess (s : State) (d : Nat) (x : Sched) : (s.setSched d x).nextAccess = s.nextAccess := rfl
@[simp] theorem State.setSched_outstanding (s : State) (d : Nat) (x : Sched) : (s.setSched d x).outstanding = s.outstanding := rfl
@[simp] theorem State.setSched_writers (s : State) (d : Nat) (x : Sched) : (s.setSched d x).writers = s.writers := rfl
@[simp] theorem State.setSched_groups (s : State) (d : Nat) (x : Sched) : (s.setSched d x).groups = s.groups := rfl
@[simp] theorem State.setSched_domains (s : State) (d : Nat) (x : Sched) : (s.setSched d x).domains = s.domains := rfl
@[simp] theorem State.setSched_keySlots (s : State) (d : Nat) (x : Sched) : (s.setSched d x).keySlots = s.keySlots := rfl
@[simp] theorem State.setSched_tlb (s : State) (d : Nat) (x : Sched) : (s.setSched d x).tlb = s.tlb := rfl
@[simp] theorem State.setSched_invals (s : State) (d : Nat) (x : Sched) : (s.setSched d x).invals = s.invals := rfl
@[simp] theorem State.setSched_nextInval (s : State) (d : Nat) (x : Sched) : (s.setSched d x).nextInval = s.nextInval := rfl
@[simp] theorem State.setSched_lpddrGib (s : State) (d : Nat) (x : Sched) : (s.setSched d x).lpddrGib = s.lpddrGib := rfl
@[simp] theorem State.setSched_cxlGib (s : State) (d : Nat) (x : Sched) : (s.setSched d x).cxlGib = s.cxlGib := rfl
@[simp] theorem State.setSched_periods (s : State) (d : Nat) (x : Sched) : (s.setSched d x).periods = s.periods := rfl
@[simp] theorem State.setSched_firstDctl (s : State) (d : Nat) (x : Sched) : (s.setSched d x).firstDctl = s.firstDctl := rfl
@[simp] theorem State.setSched_thermalHalt (s : State) (d : Nat) (x : Sched) : (s.setSched d x).thermalHalt = s.thermalHalt := rfl
@[simp] theorem State.setSched_records (s : State) (d : Nat) (x : Sched) : (s.setSched d x).records = s.records := rfl
@[simp] theorem State.setSched_nextRecord (s : State) (d : Nat) (x : Sched) : (s.setSched d x).nextRecord = s.nextRecord := rfl
@[simp] theorem State.setSched_faultQueues (s : State) (d : Nat) (x : Sched) : (s.setSched d x).faultQueues = s.faultQueues := rfl
@[simp] theorem State.setSched_ports (s : State) (d : Nat) (x : Sched) : (s.setSched d x).ports = s.ports := rfl
@[simp] theorem State.setSched_routers (s : State) (d : Nat) (x : Sched) : (s.setSched d x).routers = s.routers := rfl
@[simp] theorem State.setSched_ringLevels (s : State) (d : Nat) (x : Sched) : (s.setSched d x).ringLevels = s.ringLevels := rfl
@[simp] theorem State.setSched_ringOut (s : State) (d : Nat) (x : Sched) : (s.setSched d x).ringOut = s.ringOut := rfl
@[simp] theorem State.setSched_imageCache (s : State) (d : Nat) (x : Sched) : (s.setSched d x).imageCache = s.imageCache := rfl
@[simp] theorem State.setSched_library (s : State) (d : Nat) (x : Sched) : (s.setSched d x).library = s.library := rfl
@[simp] theorem State.setSched_providerKeys (s : State) (d : Nat) (x : Sched) : (s.setSched d x).providerKeys = s.providerKeys := rfl
@[simp] theorem State.setSched_pool (s : State) (d : Nat) (x : Sched) : (s.setSched d x).pool = s.pool := rfl
@[simp] theorem State.setSched_nextEntry (s : State) (d : Nat) (x : Sched) : (s.setSched d x).nextEntry = s.nextEntry := rfl
@[simp] theorem State.setSched_launches (s : State) (d : Nat) (x : Sched) : (s.setSched d x).launches = s.launches := rfl
@[simp] theorem State.setSched_insts (s : State) (d : Nat) (x : Sched) : (s.setSched d x).insts = s.insts := rfl
@[simp] theorem State.setSched_resolved (s : State) (d : Nat) (x : Sched) : (s.setSched d x).resolved = s.resolved := rfl
@[simp] theorem State.setSched_halts (s : State) (d : Nat) (x : Sched) : (s.setSched d x).halts = s.halts := rfl
@[simp] theorem State.setSched_spares (s : State) (d : Nat) (x : Sched) : (s.setSched d x).spares = s.spares := rfl
@[simp] theorem State.setSched_sectorCe (s : State) (d : Nat) (x : Sched) : (s.setSched d x).sectorCe = s.sectorCe := rfl
@[simp] theorem State.setSched_sectorUe (s : State) (d : Nat) (x : Sched) : (s.setSched d x).sectorUe = s.sectorUe := rfl
@[simp] theorem State.setSched_replaceReq (s : State) (d : Nat) (x : Sched) : (s.setSched d x).replaceReq = s.replaceReq := rfl
@[simp] theorem State.setSched_management (s : State) (d : Nat) (x : Sched) : (s.setSched d x).management = s.management := rfl
@[simp] theorem State.setSched_heldMessages (s : State) (d : Nat) (x : Sched) : (s.setSched d x).heldMessages = s.heldMessages := rfl
@[simp] theorem State.setSched_queues (s : State) (d : Nat) (x : Sched) : (s.setSched d x).queues = s.queues := rfl
@[simp] theorem State.setSched_seqs (s : State) (d : Nat) (x : Sched) : (s.setSched d x).seqs = s.seqs := rfl
@[simp] theorem State.setSched_requests (s : State) (d : Nat) (x : Sched) : (s.setSched d x).requests = s.requests := rfl
@[simp] theorem State.setSched_joins (s : State) (d : Nat) (x : Sched) : (s.setSched d x).joins = s.joins := rfl
@[simp] theorem State.setSched_messages (s : State) (d : Nat) (x : Sched) : (s.setSched d x).messages = s.messages := rfl
@[simp] theorem State.setSched_peerOut (s : State) (d : Nat) (x : Sched) : (s.setSched d x).peerOut = s.peerOut := rfl
@[simp] theorem State.setSched_fences (s : State) (d : Nat) (x : Sched) : (s.setSched d x).fences = s.fences := rfl
@[simp] theorem State.setSched_moduleIndex (s : State) (d : Nat) (x : Sched) : (s.setSched d x).moduleIndex = s.moduleIndex := rfl
@[simp] theorem State.setSched_stencils (s : State) (d : Nat) (x : Sched) : (s.setSched d x).stencils = s.stencils := rfl
@[simp] theorem State.setSched_stencilCmds (s : State) (d : Nat) (x : Sched) : (s.setSched d x).stencilCmds = s.stencilCmds := rfl
@[simp] theorem State.setSched_flash (s : State) (d : Nat) (x : Sched) : (s.setSched d x).flash = s.flash := rfl
@[simp] theorem State.setSched_powered (s : State) (d : Nat) (x : Sched) : (s.setSched d x).powered = s.powered := rfl
@[simp] theorem State.setSched_linkUp (s : State) (d : Nat) (x : Sched) : (s.setSched d x).linkUp = s.linkUp := rfl
@[simp] theorem State.setSched_hostOut (s : State) (d : Nat) (x : Sched) : (s.setSched d x).hostOut = s.hostOut := rfl
@[simp] theorem State.setSched_lathImages (s : State) (d : Nat) (x : Sched) : (s.setSched d x).lathImages = s.lathImages := rfl
@[simp] theorem State.setSched_loaderStatus (s : State) (d : Nat) (x : Sched) : (s.setSched d x).loaderStatus = s.loaderStatus := rfl
@[simp] theorem State.setSched_attestError (s : State) (d : Nat) (x : Sched) : (s.setSched d x).attestError = s.attestError := rfl
@[simp] theorem State.setSched_flush (s : State) (d : Nat) (x : Sched) : (s.setSched d x).flush = s.flush := rfl
@[simp] theorem State.setSched_mscHits (s : State) (d : Nat) (x : Sched) : (s.setSched d x).mscHits = s.mscHits := rfl
@[simp] theorem State.setSched_mscMisses (s : State) (d : Nat) (x : Sched) : (s.setSched d x).mscMisses = s.mscMisses := rfl
@[simp] theorem State.setSched_sectorEnergy (s : State) (d : Nat) (x : Sched) : (s.setSched d x).sectorEnergy = s.sectorEnergy := rfl
@[simp] theorem State.setSched_refills (s : State) (d : Nat) (x : Sched) : (s.setSched d x).refills = s.refills := rfl
@[simp] theorem State.setSched_cycleBase (s : State) (d : Nat) (x : Sched) : (s.setSched d x).cycleBase = s.cycleBase := rfl
@[simp] theorem State.setSched_nsAdded (s : State) (d : Nat) (x : Sched) : (s.setSched d x).nsAdded = s.nsAdded := rfl
@[simp] theorem State.setSched_nsFloor (s : State) (d : Nat) (x : Sched) : (s.setSched d x).nsFloor = s.nsFloor := rfl
@[simp] theorem State.setSched_lastSlew (s : State) (d : Nat) (x : Sched) : (s.setSched d x).lastSlew = s.lastSlew := rfl
@[simp] theorem State.setSched_timeJoined (s : State) (d : Nat) (x : Sched) : (s.setSched d x).timeJoined = s.timeJoined := rfl
@[simp] theorem State.setSched_ticks (s : State) (d : Nat) (x : Sched) : (s.setSched d x).ticks = s.ticks := rfl
@[simp] theorem State.setSched_agenda (s : State) (d : Nat) (x : Sched) : (s.setSched d x).agenda = s.agenda := rfl
@[simp] theorem State.setSched_free (s : State) (d : Nat) (x : Sched) : (s.setSched d x).free = s.free := rfl
@[simp] theorem State.setSched_steps (s : State) (d : Nat) (x : Sched) : (s.setSched d x).steps = s.steps := rfl
@[simp] theorem State.setSched_cur (s : State) (d : Nat) (x : Sched) : (s.setSched d x).cur = s.cur := rfl

/-! ### setCmdQueue -/

@[simp] theorem State.setCmdQueue_variant (s : State) (q : Nat) (x : Queue) : (s.setCmdQueue q x).variant = s.variant := rfl
@[simp] theorem State.setCmdQueue_phase (s : State) (q : Nat) (x : Queue) : (s.setCmdQueue q x).phase = s.phase := rfl
@[simp] theorem State.setCmdQueue_bootCode (s : State) (q : Nat) (x : Queue) : (s.setCmdQueue q x).bootCode = s.bootCode := rfl
@[simp] theorem State.setCmdQueue_bootCount (s : State) (q : Nat) (x : Queue) : (s.setCmdQueue q x).bootCount = s.bootCount := rfl
@[simp] theorem State.setCmdQueue_mem (s : State) (q : Nat) (x : Queue) : (s.setCmdQueue q x).mem = s.mem := rfl
@[simp] theorem State.setCmdQueue_tiles (s : State) (q : Nat) (x : Queue) : (s.setCmdQueue q x).tiles = s.tiles := rfl
@[simp] theorem State.setCmdQueue_accesses (s : State) (q : Nat) (x : Queue) : (s.setCmdQueue q x).accesses = s.accesses := rfl
@[simp] theorem State.setCmdQueue_nextAccess (s : State) (q : Nat) (x : Queue) : (s.setCmdQueue q x).nextAccess = s.nextAccess := rfl
@[simp] theorem State.setCmdQueue_outstanding (s : State) (q : Nat) (x : Queue) : (s.setCmdQueue q x).outstanding = s.outstanding := rfl
@[simp] theorem State.setCmdQueue_writers (s : State) (q : Nat) (x : Queue) : (s.setCmdQueue q x).writers = s.writers := rfl
@[simp] theorem State.setCmdQueue_groups (s : State) (q : Nat) (x : Queue) : (s.setCmdQueue q x).groups = s.groups := rfl
@[simp] theorem State.setCmdQueue_domains (s : State) (q : Nat) (x : Queue) : (s.setCmdQueue q x).domains = s.domains := rfl
@[simp] theorem State.setCmdQueue_keySlots (s : State) (q : Nat) (x : Queue) : (s.setCmdQueue q x).keySlots = s.keySlots := rfl
@[simp] theorem State.setCmdQueue_tlb (s : State) (q : Nat) (x : Queue) : (s.setCmdQueue q x).tlb = s.tlb := rfl
@[simp] theorem State.setCmdQueue_invals (s : State) (q : Nat) (x : Queue) : (s.setCmdQueue q x).invals = s.invals := rfl
@[simp] theorem State.setCmdQueue_nextInval (s : State) (q : Nat) (x : Queue) : (s.setCmdQueue q x).nextInval = s.nextInval := rfl
@[simp] theorem State.setCmdQueue_lpddrGib (s : State) (q : Nat) (x : Queue) : (s.setCmdQueue q x).lpddrGib = s.lpddrGib := rfl
@[simp] theorem State.setCmdQueue_cxlGib (s : State) (q : Nat) (x : Queue) : (s.setCmdQueue q x).cxlGib = s.cxlGib := rfl
@[simp] theorem State.setCmdQueue_periods (s : State) (q : Nat) (x : Queue) : (s.setCmdQueue q x).periods = s.periods := rfl
@[simp] theorem State.setCmdQueue_firstDctl (s : State) (q : Nat) (x : Queue) : (s.setCmdQueue q x).firstDctl = s.firstDctl := rfl
@[simp] theorem State.setCmdQueue_thermalHalt (s : State) (q : Nat) (x : Queue) : (s.setCmdQueue q x).thermalHalt = s.thermalHalt := rfl
@[simp] theorem State.setCmdQueue_records (s : State) (q : Nat) (x : Queue) : (s.setCmdQueue q x).records = s.records := rfl
@[simp] theorem State.setCmdQueue_nextRecord (s : State) (q : Nat) (x : Queue) : (s.setCmdQueue q x).nextRecord = s.nextRecord := rfl
@[simp] theorem State.setCmdQueue_faultQueues (s : State) (q : Nat) (x : Queue) : (s.setCmdQueue q x).faultQueues = s.faultQueues := rfl
@[simp] theorem State.setCmdQueue_ports (s : State) (q : Nat) (x : Queue) : (s.setCmdQueue q x).ports = s.ports := rfl
@[simp] theorem State.setCmdQueue_routers (s : State) (q : Nat) (x : Queue) : (s.setCmdQueue q x).routers = s.routers := rfl
@[simp] theorem State.setCmdQueue_ringLevels (s : State) (q : Nat) (x : Queue) : (s.setCmdQueue q x).ringLevels = s.ringLevels := rfl
@[simp] theorem State.setCmdQueue_ringOut (s : State) (q : Nat) (x : Queue) : (s.setCmdQueue q x).ringOut = s.ringOut := rfl
@[simp] theorem State.setCmdQueue_imageCache (s : State) (q : Nat) (x : Queue) : (s.setCmdQueue q x).imageCache = s.imageCache := rfl
@[simp] theorem State.setCmdQueue_library (s : State) (q : Nat) (x : Queue) : (s.setCmdQueue q x).library = s.library := rfl
@[simp] theorem State.setCmdQueue_providerKeys (s : State) (q : Nat) (x : Queue) : (s.setCmdQueue q x).providerKeys = s.providerKeys := rfl
@[simp] theorem State.setCmdQueue_pool (s : State) (q : Nat) (x : Queue) : (s.setCmdQueue q x).pool = s.pool := rfl
@[simp] theorem State.setCmdQueue_nextEntry (s : State) (q : Nat) (x : Queue) : (s.setCmdQueue q x).nextEntry = s.nextEntry := rfl
@[simp] theorem State.setCmdQueue_launches (s : State) (q : Nat) (x : Queue) : (s.setCmdQueue q x).launches = s.launches := rfl
@[simp] theorem State.setCmdQueue_insts (s : State) (q : Nat) (x : Queue) : (s.setCmdQueue q x).insts = s.insts := rfl
@[simp] theorem State.setCmdQueue_resolved (s : State) (q : Nat) (x : Queue) : (s.setCmdQueue q x).resolved = s.resolved := rfl
@[simp] theorem State.setCmdQueue_sched (s : State) (q : Nat) (x : Queue) : (s.setCmdQueue q x).sched = s.sched := rfl
@[simp] theorem State.setCmdQueue_halts (s : State) (q : Nat) (x : Queue) : (s.setCmdQueue q x).halts = s.halts := rfl
@[simp] theorem State.setCmdQueue_spares (s : State) (q : Nat) (x : Queue) : (s.setCmdQueue q x).spares = s.spares := rfl
@[simp] theorem State.setCmdQueue_sectorCe (s : State) (q : Nat) (x : Queue) : (s.setCmdQueue q x).sectorCe = s.sectorCe := rfl
@[simp] theorem State.setCmdQueue_sectorUe (s : State) (q : Nat) (x : Queue) : (s.setCmdQueue q x).sectorUe = s.sectorUe := rfl
@[simp] theorem State.setCmdQueue_replaceReq (s : State) (q : Nat) (x : Queue) : (s.setCmdQueue q x).replaceReq = s.replaceReq := rfl
@[simp] theorem State.setCmdQueue_management (s : State) (q : Nat) (x : Queue) : (s.setCmdQueue q x).management = s.management := rfl
@[simp] theorem State.setCmdQueue_heldMessages (s : State) (q : Nat) (x : Queue) : (s.setCmdQueue q x).heldMessages = s.heldMessages := rfl
@[simp] theorem State.setCmdQueue_seqs (s : State) (q : Nat) (x : Queue) : (s.setCmdQueue q x).seqs = s.seqs := rfl
@[simp] theorem State.setCmdQueue_requests (s : State) (q : Nat) (x : Queue) : (s.setCmdQueue q x).requests = s.requests := rfl
@[simp] theorem State.setCmdQueue_joins (s : State) (q : Nat) (x : Queue) : (s.setCmdQueue q x).joins = s.joins := rfl
@[simp] theorem State.setCmdQueue_messages (s : State) (q : Nat) (x : Queue) : (s.setCmdQueue q x).messages = s.messages := rfl
@[simp] theorem State.setCmdQueue_peerOut (s : State) (q : Nat) (x : Queue) : (s.setCmdQueue q x).peerOut = s.peerOut := rfl
@[simp] theorem State.setCmdQueue_fences (s : State) (q : Nat) (x : Queue) : (s.setCmdQueue q x).fences = s.fences := rfl
@[simp] theorem State.setCmdQueue_moduleIndex (s : State) (q : Nat) (x : Queue) : (s.setCmdQueue q x).moduleIndex = s.moduleIndex := rfl
@[simp] theorem State.setCmdQueue_stencils (s : State) (q : Nat) (x : Queue) : (s.setCmdQueue q x).stencils = s.stencils := rfl
@[simp] theorem State.setCmdQueue_stencilCmds (s : State) (q : Nat) (x : Queue) : (s.setCmdQueue q x).stencilCmds = s.stencilCmds := rfl
@[simp] theorem State.setCmdQueue_flash (s : State) (q : Nat) (x : Queue) : (s.setCmdQueue q x).flash = s.flash := rfl
@[simp] theorem State.setCmdQueue_powered (s : State) (q : Nat) (x : Queue) : (s.setCmdQueue q x).powered = s.powered := rfl
@[simp] theorem State.setCmdQueue_linkUp (s : State) (q : Nat) (x : Queue) : (s.setCmdQueue q x).linkUp = s.linkUp := rfl
@[simp] theorem State.setCmdQueue_hostOut (s : State) (q : Nat) (x : Queue) : (s.setCmdQueue q x).hostOut = s.hostOut := rfl
@[simp] theorem State.setCmdQueue_lathImages (s : State) (q : Nat) (x : Queue) : (s.setCmdQueue q x).lathImages = s.lathImages := rfl
@[simp] theorem State.setCmdQueue_loaderStatus (s : State) (q : Nat) (x : Queue) : (s.setCmdQueue q x).loaderStatus = s.loaderStatus := rfl
@[simp] theorem State.setCmdQueue_attestError (s : State) (q : Nat) (x : Queue) : (s.setCmdQueue q x).attestError = s.attestError := rfl
@[simp] theorem State.setCmdQueue_flush (s : State) (q : Nat) (x : Queue) : (s.setCmdQueue q x).flush = s.flush := rfl
@[simp] theorem State.setCmdQueue_mscHits (s : State) (q : Nat) (x : Queue) : (s.setCmdQueue q x).mscHits = s.mscHits := rfl
@[simp] theorem State.setCmdQueue_mscMisses (s : State) (q : Nat) (x : Queue) : (s.setCmdQueue q x).mscMisses = s.mscMisses := rfl
@[simp] theorem State.setCmdQueue_sectorEnergy (s : State) (q : Nat) (x : Queue) : (s.setCmdQueue q x).sectorEnergy = s.sectorEnergy := rfl
@[simp] theorem State.setCmdQueue_refills (s : State) (q : Nat) (x : Queue) : (s.setCmdQueue q x).refills = s.refills := rfl
@[simp] theorem State.setCmdQueue_cycleBase (s : State) (q : Nat) (x : Queue) : (s.setCmdQueue q x).cycleBase = s.cycleBase := rfl
@[simp] theorem State.setCmdQueue_nsAdded (s : State) (q : Nat) (x : Queue) : (s.setCmdQueue q x).nsAdded = s.nsAdded := rfl
@[simp] theorem State.setCmdQueue_nsFloor (s : State) (q : Nat) (x : Queue) : (s.setCmdQueue q x).nsFloor = s.nsFloor := rfl
@[simp] theorem State.setCmdQueue_lastSlew (s : State) (q : Nat) (x : Queue) : (s.setCmdQueue q x).lastSlew = s.lastSlew := rfl
@[simp] theorem State.setCmdQueue_timeJoined (s : State) (q : Nat) (x : Queue) : (s.setCmdQueue q x).timeJoined = s.timeJoined := rfl
@[simp] theorem State.setCmdQueue_ticks (s : State) (q : Nat) (x : Queue) : (s.setCmdQueue q x).ticks = s.ticks := rfl
@[simp] theorem State.setCmdQueue_agenda (s : State) (q : Nat) (x : Queue) : (s.setCmdQueue q x).agenda = s.agenda := rfl
@[simp] theorem State.setCmdQueue_free (s : State) (q : Nat) (x : Queue) : (s.setCmdQueue q x).free = s.free := rfl
@[simp] theorem State.setCmdQueue_steps (s : State) (q : Nat) (x : Queue) : (s.setCmdQueue q x).steps = s.steps := rfl
@[simp] theorem State.setCmdQueue_cur (s : State) (q : Nat) (x : Queue) : (s.setCmdQueue q x).cur = s.cur := rfl

/-! ### setSequencer -/

@[simp] theorem State.setSequencer_variant (s : State) (c : Nat) (x : Sequencer) : (s.setSequencer c x).variant = s.variant := rfl
@[simp] theorem State.setSequencer_phase (s : State) (c : Nat) (x : Sequencer) : (s.setSequencer c x).phase = s.phase := rfl
@[simp] theorem State.setSequencer_bootCode (s : State) (c : Nat) (x : Sequencer) : (s.setSequencer c x).bootCode = s.bootCode := rfl
@[simp] theorem State.setSequencer_bootCount (s : State) (c : Nat) (x : Sequencer) : (s.setSequencer c x).bootCount = s.bootCount := rfl
@[simp] theorem State.setSequencer_mem (s : State) (c : Nat) (x : Sequencer) : (s.setSequencer c x).mem = s.mem := rfl
@[simp] theorem State.setSequencer_tiles (s : State) (c : Nat) (x : Sequencer) : (s.setSequencer c x).tiles = s.tiles := rfl
@[simp] theorem State.setSequencer_accesses (s : State) (c : Nat) (x : Sequencer) : (s.setSequencer c x).accesses = s.accesses := rfl
@[simp] theorem State.setSequencer_nextAccess (s : State) (c : Nat) (x : Sequencer) : (s.setSequencer c x).nextAccess = s.nextAccess := rfl
@[simp] theorem State.setSequencer_outstanding (s : State) (c : Nat) (x : Sequencer) : (s.setSequencer c x).outstanding = s.outstanding := rfl
@[simp] theorem State.setSequencer_writers (s : State) (c : Nat) (x : Sequencer) : (s.setSequencer c x).writers = s.writers := rfl
@[simp] theorem State.setSequencer_groups (s : State) (c : Nat) (x : Sequencer) : (s.setSequencer c x).groups = s.groups := rfl
@[simp] theorem State.setSequencer_domains (s : State) (c : Nat) (x : Sequencer) : (s.setSequencer c x).domains = s.domains := rfl
@[simp] theorem State.setSequencer_keySlots (s : State) (c : Nat) (x : Sequencer) : (s.setSequencer c x).keySlots = s.keySlots := rfl
@[simp] theorem State.setSequencer_tlb (s : State) (c : Nat) (x : Sequencer) : (s.setSequencer c x).tlb = s.tlb := rfl
@[simp] theorem State.setSequencer_invals (s : State) (c : Nat) (x : Sequencer) : (s.setSequencer c x).invals = s.invals := rfl
@[simp] theorem State.setSequencer_nextInval (s : State) (c : Nat) (x : Sequencer) : (s.setSequencer c x).nextInval = s.nextInval := rfl
@[simp] theorem State.setSequencer_lpddrGib (s : State) (c : Nat) (x : Sequencer) : (s.setSequencer c x).lpddrGib = s.lpddrGib := rfl
@[simp] theorem State.setSequencer_cxlGib (s : State) (c : Nat) (x : Sequencer) : (s.setSequencer c x).cxlGib = s.cxlGib := rfl
@[simp] theorem State.setSequencer_periods (s : State) (c : Nat) (x : Sequencer) : (s.setSequencer c x).periods = s.periods := rfl
@[simp] theorem State.setSequencer_firstDctl (s : State) (c : Nat) (x : Sequencer) : (s.setSequencer c x).firstDctl = s.firstDctl := rfl
@[simp] theorem State.setSequencer_thermalHalt (s : State) (c : Nat) (x : Sequencer) : (s.setSequencer c x).thermalHalt = s.thermalHalt := rfl
@[simp] theorem State.setSequencer_records (s : State) (c : Nat) (x : Sequencer) : (s.setSequencer c x).records = s.records := rfl
@[simp] theorem State.setSequencer_nextRecord (s : State) (c : Nat) (x : Sequencer) : (s.setSequencer c x).nextRecord = s.nextRecord := rfl
@[simp] theorem State.setSequencer_faultQueues (s : State) (c : Nat) (x : Sequencer) : (s.setSequencer c x).faultQueues = s.faultQueues := rfl
@[simp] theorem State.setSequencer_ports (s : State) (c : Nat) (x : Sequencer) : (s.setSequencer c x).ports = s.ports := rfl
@[simp] theorem State.setSequencer_routers (s : State) (c : Nat) (x : Sequencer) : (s.setSequencer c x).routers = s.routers := rfl
@[simp] theorem State.setSequencer_ringLevels (s : State) (c : Nat) (x : Sequencer) : (s.setSequencer c x).ringLevels = s.ringLevels := rfl
@[simp] theorem State.setSequencer_ringOut (s : State) (c : Nat) (x : Sequencer) : (s.setSequencer c x).ringOut = s.ringOut := rfl
@[simp] theorem State.setSequencer_imageCache (s : State) (c : Nat) (x : Sequencer) : (s.setSequencer c x).imageCache = s.imageCache := rfl
@[simp] theorem State.setSequencer_library (s : State) (c : Nat) (x : Sequencer) : (s.setSequencer c x).library = s.library := rfl
@[simp] theorem State.setSequencer_providerKeys (s : State) (c : Nat) (x : Sequencer) : (s.setSequencer c x).providerKeys = s.providerKeys := rfl
@[simp] theorem State.setSequencer_pool (s : State) (c : Nat) (x : Sequencer) : (s.setSequencer c x).pool = s.pool := rfl
@[simp] theorem State.setSequencer_nextEntry (s : State) (c : Nat) (x : Sequencer) : (s.setSequencer c x).nextEntry = s.nextEntry := rfl
@[simp] theorem State.setSequencer_launches (s : State) (c : Nat) (x : Sequencer) : (s.setSequencer c x).launches = s.launches := rfl
@[simp] theorem State.setSequencer_insts (s : State) (c : Nat) (x : Sequencer) : (s.setSequencer c x).insts = s.insts := rfl
@[simp] theorem State.setSequencer_resolved (s : State) (c : Nat) (x : Sequencer) : (s.setSequencer c x).resolved = s.resolved := rfl
@[simp] theorem State.setSequencer_sched (s : State) (c : Nat) (x : Sequencer) : (s.setSequencer c x).sched = s.sched := rfl
@[simp] theorem State.setSequencer_halts (s : State) (c : Nat) (x : Sequencer) : (s.setSequencer c x).halts = s.halts := rfl
@[simp] theorem State.setSequencer_spares (s : State) (c : Nat) (x : Sequencer) : (s.setSequencer c x).spares = s.spares := rfl
@[simp] theorem State.setSequencer_sectorCe (s : State) (c : Nat) (x : Sequencer) : (s.setSequencer c x).sectorCe = s.sectorCe := rfl
@[simp] theorem State.setSequencer_sectorUe (s : State) (c : Nat) (x : Sequencer) : (s.setSequencer c x).sectorUe = s.sectorUe := rfl
@[simp] theorem State.setSequencer_replaceReq (s : State) (c : Nat) (x : Sequencer) : (s.setSequencer c x).replaceReq = s.replaceReq := rfl
@[simp] theorem State.setSequencer_management (s : State) (c : Nat) (x : Sequencer) : (s.setSequencer c x).management = s.management := rfl
@[simp] theorem State.setSequencer_heldMessages (s : State) (c : Nat) (x : Sequencer) : (s.setSequencer c x).heldMessages = s.heldMessages := rfl
@[simp] theorem State.setSequencer_queues (s : State) (c : Nat) (x : Sequencer) : (s.setSequencer c x).queues = s.queues := rfl
@[simp] theorem State.setSequencer_requests (s : State) (c : Nat) (x : Sequencer) : (s.setSequencer c x).requests = s.requests := rfl
@[simp] theorem State.setSequencer_joins (s : State) (c : Nat) (x : Sequencer) : (s.setSequencer c x).joins = s.joins := rfl
@[simp] theorem State.setSequencer_messages (s : State) (c : Nat) (x : Sequencer) : (s.setSequencer c x).messages = s.messages := rfl
@[simp] theorem State.setSequencer_peerOut (s : State) (c : Nat) (x : Sequencer) : (s.setSequencer c x).peerOut = s.peerOut := rfl
@[simp] theorem State.setSequencer_fences (s : State) (c : Nat) (x : Sequencer) : (s.setSequencer c x).fences = s.fences := rfl
@[simp] theorem State.setSequencer_moduleIndex (s : State) (c : Nat) (x : Sequencer) : (s.setSequencer c x).moduleIndex = s.moduleIndex := rfl
@[simp] theorem State.setSequencer_stencils (s : State) (c : Nat) (x : Sequencer) : (s.setSequencer c x).stencils = s.stencils := rfl
@[simp] theorem State.setSequencer_stencilCmds (s : State) (c : Nat) (x : Sequencer) : (s.setSequencer c x).stencilCmds = s.stencilCmds := rfl
@[simp] theorem State.setSequencer_flash (s : State) (c : Nat) (x : Sequencer) : (s.setSequencer c x).flash = s.flash := rfl
@[simp] theorem State.setSequencer_powered (s : State) (c : Nat) (x : Sequencer) : (s.setSequencer c x).powered = s.powered := rfl
@[simp] theorem State.setSequencer_linkUp (s : State) (c : Nat) (x : Sequencer) : (s.setSequencer c x).linkUp = s.linkUp := rfl
@[simp] theorem State.setSequencer_hostOut (s : State) (c : Nat) (x : Sequencer) : (s.setSequencer c x).hostOut = s.hostOut := rfl
@[simp] theorem State.setSequencer_lathImages (s : State) (c : Nat) (x : Sequencer) : (s.setSequencer c x).lathImages = s.lathImages := rfl
@[simp] theorem State.setSequencer_loaderStatus (s : State) (c : Nat) (x : Sequencer) : (s.setSequencer c x).loaderStatus = s.loaderStatus := rfl
@[simp] theorem State.setSequencer_attestError (s : State) (c : Nat) (x : Sequencer) : (s.setSequencer c x).attestError = s.attestError := rfl
@[simp] theorem State.setSequencer_flush (s : State) (c : Nat) (x : Sequencer) : (s.setSequencer c x).flush = s.flush := rfl
@[simp] theorem State.setSequencer_mscHits (s : State) (c : Nat) (x : Sequencer) : (s.setSequencer c x).mscHits = s.mscHits := rfl
@[simp] theorem State.setSequencer_mscMisses (s : State) (c : Nat) (x : Sequencer) : (s.setSequencer c x).mscMisses = s.mscMisses := rfl
@[simp] theorem State.setSequencer_sectorEnergy (s : State) (c : Nat) (x : Sequencer) : (s.setSequencer c x).sectorEnergy = s.sectorEnergy := rfl
@[simp] theorem State.setSequencer_refills (s : State) (c : Nat) (x : Sequencer) : (s.setSequencer c x).refills = s.refills := rfl
@[simp] theorem State.setSequencer_cycleBase (s : State) (c : Nat) (x : Sequencer) : (s.setSequencer c x).cycleBase = s.cycleBase := rfl
@[simp] theorem State.setSequencer_nsAdded (s : State) (c : Nat) (x : Sequencer) : (s.setSequencer c x).nsAdded = s.nsAdded := rfl
@[simp] theorem State.setSequencer_nsFloor (s : State) (c : Nat) (x : Sequencer) : (s.setSequencer c x).nsFloor = s.nsFloor := rfl
@[simp] theorem State.setSequencer_lastSlew (s : State) (c : Nat) (x : Sequencer) : (s.setSequencer c x).lastSlew = s.lastSlew := rfl
@[simp] theorem State.setSequencer_timeJoined (s : State) (c : Nat) (x : Sequencer) : (s.setSequencer c x).timeJoined = s.timeJoined := rfl
@[simp] theorem State.setSequencer_ticks (s : State) (c : Nat) (x : Sequencer) : (s.setSequencer c x).ticks = s.ticks := rfl
@[simp] theorem State.setSequencer_agenda (s : State) (c : Nat) (x : Sequencer) : (s.setSequencer c x).agenda = s.agenda := rfl
@[simp] theorem State.setSequencer_free (s : State) (c : Nat) (x : Sequencer) : (s.setSequencer c x).free = s.free := rfl
@[simp] theorem State.setSequencer_steps (s : State) (c : Nat) (x : Sequencer) : (s.setSequencer c x).steps = s.steps := rfl
@[simp] theorem State.setSequencer_cur (s : State) (c : Nat) (x : Sequencer) : (s.setSequencer c x).cur = s.cur := rfl

/-! ### setStencil -/

@[simp] theorem State.setStencil_variant (s : State) (c : Nat) (x : Stencil) : (s.setStencil c x).variant = s.variant := rfl
@[simp] theorem State.setStencil_phase (s : State) (c : Nat) (x : Stencil) : (s.setStencil c x).phase = s.phase := rfl
@[simp] theorem State.setStencil_bootCode (s : State) (c : Nat) (x : Stencil) : (s.setStencil c x).bootCode = s.bootCode := rfl
@[simp] theorem State.setStencil_bootCount (s : State) (c : Nat) (x : Stencil) : (s.setStencil c x).bootCount = s.bootCount := rfl
@[simp] theorem State.setStencil_mem (s : State) (c : Nat) (x : Stencil) : (s.setStencil c x).mem = s.mem := rfl
@[simp] theorem State.setStencil_tiles (s : State) (c : Nat) (x : Stencil) : (s.setStencil c x).tiles = s.tiles := rfl
@[simp] theorem State.setStencil_accesses (s : State) (c : Nat) (x : Stencil) : (s.setStencil c x).accesses = s.accesses := rfl
@[simp] theorem State.setStencil_nextAccess (s : State) (c : Nat) (x : Stencil) : (s.setStencil c x).nextAccess = s.nextAccess := rfl
@[simp] theorem State.setStencil_outstanding (s : State) (c : Nat) (x : Stencil) : (s.setStencil c x).outstanding = s.outstanding := rfl
@[simp] theorem State.setStencil_writers (s : State) (c : Nat) (x : Stencil) : (s.setStencil c x).writers = s.writers := rfl
@[simp] theorem State.setStencil_groups (s : State) (c : Nat) (x : Stencil) : (s.setStencil c x).groups = s.groups := rfl
@[simp] theorem State.setStencil_domains (s : State) (c : Nat) (x : Stencil) : (s.setStencil c x).domains = s.domains := rfl
@[simp] theorem State.setStencil_keySlots (s : State) (c : Nat) (x : Stencil) : (s.setStencil c x).keySlots = s.keySlots := rfl
@[simp] theorem State.setStencil_tlb (s : State) (c : Nat) (x : Stencil) : (s.setStencil c x).tlb = s.tlb := rfl
@[simp] theorem State.setStencil_invals (s : State) (c : Nat) (x : Stencil) : (s.setStencil c x).invals = s.invals := rfl
@[simp] theorem State.setStencil_nextInval (s : State) (c : Nat) (x : Stencil) : (s.setStencil c x).nextInval = s.nextInval := rfl
@[simp] theorem State.setStencil_lpddrGib (s : State) (c : Nat) (x : Stencil) : (s.setStencil c x).lpddrGib = s.lpddrGib := rfl
@[simp] theorem State.setStencil_cxlGib (s : State) (c : Nat) (x : Stencil) : (s.setStencil c x).cxlGib = s.cxlGib := rfl
@[simp] theorem State.setStencil_periods (s : State) (c : Nat) (x : Stencil) : (s.setStencil c x).periods = s.periods := rfl
@[simp] theorem State.setStencil_firstDctl (s : State) (c : Nat) (x : Stencil) : (s.setStencil c x).firstDctl = s.firstDctl := rfl
@[simp] theorem State.setStencil_thermalHalt (s : State) (c : Nat) (x : Stencil) : (s.setStencil c x).thermalHalt = s.thermalHalt := rfl
@[simp] theorem State.setStencil_records (s : State) (c : Nat) (x : Stencil) : (s.setStencil c x).records = s.records := rfl
@[simp] theorem State.setStencil_nextRecord (s : State) (c : Nat) (x : Stencil) : (s.setStencil c x).nextRecord = s.nextRecord := rfl
@[simp] theorem State.setStencil_faultQueues (s : State) (c : Nat) (x : Stencil) : (s.setStencil c x).faultQueues = s.faultQueues := rfl
@[simp] theorem State.setStencil_ports (s : State) (c : Nat) (x : Stencil) : (s.setStencil c x).ports = s.ports := rfl
@[simp] theorem State.setStencil_routers (s : State) (c : Nat) (x : Stencil) : (s.setStencil c x).routers = s.routers := rfl
@[simp] theorem State.setStencil_ringLevels (s : State) (c : Nat) (x : Stencil) : (s.setStencil c x).ringLevels = s.ringLevels := rfl
@[simp] theorem State.setStencil_ringOut (s : State) (c : Nat) (x : Stencil) : (s.setStencil c x).ringOut = s.ringOut := rfl
@[simp] theorem State.setStencil_imageCache (s : State) (c : Nat) (x : Stencil) : (s.setStencil c x).imageCache = s.imageCache := rfl
@[simp] theorem State.setStencil_library (s : State) (c : Nat) (x : Stencil) : (s.setStencil c x).library = s.library := rfl
@[simp] theorem State.setStencil_providerKeys (s : State) (c : Nat) (x : Stencil) : (s.setStencil c x).providerKeys = s.providerKeys := rfl
@[simp] theorem State.setStencil_pool (s : State) (c : Nat) (x : Stencil) : (s.setStencil c x).pool = s.pool := rfl
@[simp] theorem State.setStencil_nextEntry (s : State) (c : Nat) (x : Stencil) : (s.setStencil c x).nextEntry = s.nextEntry := rfl
@[simp] theorem State.setStencil_launches (s : State) (c : Nat) (x : Stencil) : (s.setStencil c x).launches = s.launches := rfl
@[simp] theorem State.setStencil_insts (s : State) (c : Nat) (x : Stencil) : (s.setStencil c x).insts = s.insts := rfl
@[simp] theorem State.setStencil_resolved (s : State) (c : Nat) (x : Stencil) : (s.setStencil c x).resolved = s.resolved := rfl
@[simp] theorem State.setStencil_sched (s : State) (c : Nat) (x : Stencil) : (s.setStencil c x).sched = s.sched := rfl
@[simp] theorem State.setStencil_halts (s : State) (c : Nat) (x : Stencil) : (s.setStencil c x).halts = s.halts := rfl
@[simp] theorem State.setStencil_spares (s : State) (c : Nat) (x : Stencil) : (s.setStencil c x).spares = s.spares := rfl
@[simp] theorem State.setStencil_sectorCe (s : State) (c : Nat) (x : Stencil) : (s.setStencil c x).sectorCe = s.sectorCe := rfl
@[simp] theorem State.setStencil_sectorUe (s : State) (c : Nat) (x : Stencil) : (s.setStencil c x).sectorUe = s.sectorUe := rfl
@[simp] theorem State.setStencil_replaceReq (s : State) (c : Nat) (x : Stencil) : (s.setStencil c x).replaceReq = s.replaceReq := rfl
@[simp] theorem State.setStencil_management (s : State) (c : Nat) (x : Stencil) : (s.setStencil c x).management = s.management := rfl
@[simp] theorem State.setStencil_heldMessages (s : State) (c : Nat) (x : Stencil) : (s.setStencil c x).heldMessages = s.heldMessages := rfl
@[simp] theorem State.setStencil_queues (s : State) (c : Nat) (x : Stencil) : (s.setStencil c x).queues = s.queues := rfl
@[simp] theorem State.setStencil_seqs (s : State) (c : Nat) (x : Stencil) : (s.setStencil c x).seqs = s.seqs := rfl
@[simp] theorem State.setStencil_requests (s : State) (c : Nat) (x : Stencil) : (s.setStencil c x).requests = s.requests := rfl
@[simp] theorem State.setStencil_joins (s : State) (c : Nat) (x : Stencil) : (s.setStencil c x).joins = s.joins := rfl
@[simp] theorem State.setStencil_messages (s : State) (c : Nat) (x : Stencil) : (s.setStencil c x).messages = s.messages := rfl
@[simp] theorem State.setStencil_peerOut (s : State) (c : Nat) (x : Stencil) : (s.setStencil c x).peerOut = s.peerOut := rfl
@[simp] theorem State.setStencil_fences (s : State) (c : Nat) (x : Stencil) : (s.setStencil c x).fences = s.fences := rfl
@[simp] theorem State.setStencil_moduleIndex (s : State) (c : Nat) (x : Stencil) : (s.setStencil c x).moduleIndex = s.moduleIndex := rfl
@[simp] theorem State.setStencil_stencilCmds (s : State) (c : Nat) (x : Stencil) : (s.setStencil c x).stencilCmds = s.stencilCmds := rfl
@[simp] theorem State.setStencil_flash (s : State) (c : Nat) (x : Stencil) : (s.setStencil c x).flash = s.flash := rfl
@[simp] theorem State.setStencil_powered (s : State) (c : Nat) (x : Stencil) : (s.setStencil c x).powered = s.powered := rfl
@[simp] theorem State.setStencil_linkUp (s : State) (c : Nat) (x : Stencil) : (s.setStencil c x).linkUp = s.linkUp := rfl
@[simp] theorem State.setStencil_hostOut (s : State) (c : Nat) (x : Stencil) : (s.setStencil c x).hostOut = s.hostOut := rfl
@[simp] theorem State.setStencil_lathImages (s : State) (c : Nat) (x : Stencil) : (s.setStencil c x).lathImages = s.lathImages := rfl
@[simp] theorem State.setStencil_loaderStatus (s : State) (c : Nat) (x : Stencil) : (s.setStencil c x).loaderStatus = s.loaderStatus := rfl
@[simp] theorem State.setStencil_attestError (s : State) (c : Nat) (x : Stencil) : (s.setStencil c x).attestError = s.attestError := rfl
@[simp] theorem State.setStencil_flush (s : State) (c : Nat) (x : Stencil) : (s.setStencil c x).flush = s.flush := rfl
@[simp] theorem State.setStencil_mscHits (s : State) (c : Nat) (x : Stencil) : (s.setStencil c x).mscHits = s.mscHits := rfl
@[simp] theorem State.setStencil_mscMisses (s : State) (c : Nat) (x : Stencil) : (s.setStencil c x).mscMisses = s.mscMisses := rfl
@[simp] theorem State.setStencil_sectorEnergy (s : State) (c : Nat) (x : Stencil) : (s.setStencil c x).sectorEnergy = s.sectorEnergy := rfl
@[simp] theorem State.setStencil_refills (s : State) (c : Nat) (x : Stencil) : (s.setStencil c x).refills = s.refills := rfl
@[simp] theorem State.setStencil_cycleBase (s : State) (c : Nat) (x : Stencil) : (s.setStencil c x).cycleBase = s.cycleBase := rfl
@[simp] theorem State.setStencil_nsAdded (s : State) (c : Nat) (x : Stencil) : (s.setStencil c x).nsAdded = s.nsAdded := rfl
@[simp] theorem State.setStencil_nsFloor (s : State) (c : Nat) (x : Stencil) : (s.setStencil c x).nsFloor = s.nsFloor := rfl
@[simp] theorem State.setStencil_lastSlew (s : State) (c : Nat) (x : Stencil) : (s.setStencil c x).lastSlew = s.lastSlew := rfl
@[simp] theorem State.setStencil_timeJoined (s : State) (c : Nat) (x : Stencil) : (s.setStencil c x).timeJoined = s.timeJoined := rfl
@[simp] theorem State.setStencil_ticks (s : State) (c : Nat) (x : Stencil) : (s.setStencil c x).ticks = s.ticks := rfl
@[simp] theorem State.setStencil_agenda (s : State) (c : Nat) (x : Stencil) : (s.setStencil c x).agenda = s.agenda := rfl
@[simp] theorem State.setStencil_free (s : State) (c : Nat) (x : Stencil) : (s.setStencil c x).free = s.free := rfl
@[simp] theorem State.setStencil_steps (s : State) (c : Nat) (x : Stencil) : (s.setStencil c x).steps = s.steps := rfl
@[simp] theorem State.setStencil_cur (s : State) (c : Nat) (x : Stencil) : (s.setStencil c x).cur = s.cur := rfl

/-! ### setInst -/

@[simp] theorem State.setInst_variant (s : State) (x : Inst) : (s.setInst x).variant = s.variant := rfl
@[simp] theorem State.setInst_phase (s : State) (x : Inst) : (s.setInst x).phase = s.phase := rfl
@[simp] theorem State.setInst_bootCode (s : State) (x : Inst) : (s.setInst x).bootCode = s.bootCode := rfl
@[simp] theorem State.setInst_bootCount (s : State) (x : Inst) : (s.setInst x).bootCount = s.bootCount := rfl
@[simp] theorem State.setInst_mem (s : State) (x : Inst) : (s.setInst x).mem = s.mem := rfl
@[simp] theorem State.setInst_tiles (s : State) (x : Inst) : (s.setInst x).tiles = s.tiles := rfl
@[simp] theorem State.setInst_accesses (s : State) (x : Inst) : (s.setInst x).accesses = s.accesses := rfl
@[simp] theorem State.setInst_nextAccess (s : State) (x : Inst) : (s.setInst x).nextAccess = s.nextAccess := rfl
@[simp] theorem State.setInst_outstanding (s : State) (x : Inst) : (s.setInst x).outstanding = s.outstanding := rfl
@[simp] theorem State.setInst_writers (s : State) (x : Inst) : (s.setInst x).writers = s.writers := rfl
@[simp] theorem State.setInst_groups (s : State) (x : Inst) : (s.setInst x).groups = s.groups := rfl
@[simp] theorem State.setInst_domains (s : State) (x : Inst) : (s.setInst x).domains = s.domains := rfl
@[simp] theorem State.setInst_keySlots (s : State) (x : Inst) : (s.setInst x).keySlots = s.keySlots := rfl
@[simp] theorem State.setInst_tlb (s : State) (x : Inst) : (s.setInst x).tlb = s.tlb := rfl
@[simp] theorem State.setInst_invals (s : State) (x : Inst) : (s.setInst x).invals = s.invals := rfl
@[simp] theorem State.setInst_nextInval (s : State) (x : Inst) : (s.setInst x).nextInval = s.nextInval := rfl
@[simp] theorem State.setInst_lpddrGib (s : State) (x : Inst) : (s.setInst x).lpddrGib = s.lpddrGib := rfl
@[simp] theorem State.setInst_cxlGib (s : State) (x : Inst) : (s.setInst x).cxlGib = s.cxlGib := rfl
@[simp] theorem State.setInst_periods (s : State) (x : Inst) : (s.setInst x).periods = s.periods := rfl
@[simp] theorem State.setInst_firstDctl (s : State) (x : Inst) : (s.setInst x).firstDctl = s.firstDctl := rfl
@[simp] theorem State.setInst_thermalHalt (s : State) (x : Inst) : (s.setInst x).thermalHalt = s.thermalHalt := rfl
@[simp] theorem State.setInst_records (s : State) (x : Inst) : (s.setInst x).records = s.records := rfl
@[simp] theorem State.setInst_nextRecord (s : State) (x : Inst) : (s.setInst x).nextRecord = s.nextRecord := rfl
@[simp] theorem State.setInst_faultQueues (s : State) (x : Inst) : (s.setInst x).faultQueues = s.faultQueues := rfl
@[simp] theorem State.setInst_ports (s : State) (x : Inst) : (s.setInst x).ports = s.ports := rfl
@[simp] theorem State.setInst_routers (s : State) (x : Inst) : (s.setInst x).routers = s.routers := rfl
@[simp] theorem State.setInst_ringLevels (s : State) (x : Inst) : (s.setInst x).ringLevels = s.ringLevels := rfl
@[simp] theorem State.setInst_ringOut (s : State) (x : Inst) : (s.setInst x).ringOut = s.ringOut := rfl
@[simp] theorem State.setInst_imageCache (s : State) (x : Inst) : (s.setInst x).imageCache = s.imageCache := rfl
@[simp] theorem State.setInst_library (s : State) (x : Inst) : (s.setInst x).library = s.library := rfl
@[simp] theorem State.setInst_providerKeys (s : State) (x : Inst) : (s.setInst x).providerKeys = s.providerKeys := rfl
@[simp] theorem State.setInst_pool (s : State) (x : Inst) : (s.setInst x).pool = s.pool := rfl
@[simp] theorem State.setInst_nextEntry (s : State) (x : Inst) : (s.setInst x).nextEntry = s.nextEntry := rfl
@[simp] theorem State.setInst_launches (s : State) (x : Inst) : (s.setInst x).launches = s.launches := rfl
@[simp] theorem State.setInst_resolved (s : State) (x : Inst) : (s.setInst x).resolved = s.resolved := rfl
@[simp] theorem State.setInst_sched (s : State) (x : Inst) : (s.setInst x).sched = s.sched := rfl
@[simp] theorem State.setInst_halts (s : State) (x : Inst) : (s.setInst x).halts = s.halts := rfl
@[simp] theorem State.setInst_spares (s : State) (x : Inst) : (s.setInst x).spares = s.spares := rfl
@[simp] theorem State.setInst_sectorCe (s : State) (x : Inst) : (s.setInst x).sectorCe = s.sectorCe := rfl
@[simp] theorem State.setInst_sectorUe (s : State) (x : Inst) : (s.setInst x).sectorUe = s.sectorUe := rfl
@[simp] theorem State.setInst_replaceReq (s : State) (x : Inst) : (s.setInst x).replaceReq = s.replaceReq := rfl
@[simp] theorem State.setInst_management (s : State) (x : Inst) : (s.setInst x).management = s.management := rfl
@[simp] theorem State.setInst_heldMessages (s : State) (x : Inst) : (s.setInst x).heldMessages = s.heldMessages := rfl
@[simp] theorem State.setInst_queues (s : State) (x : Inst) : (s.setInst x).queues = s.queues := rfl
@[simp] theorem State.setInst_seqs (s : State) (x : Inst) : (s.setInst x).seqs = s.seqs := rfl
@[simp] theorem State.setInst_requests (s : State) (x : Inst) : (s.setInst x).requests = s.requests := rfl
@[simp] theorem State.setInst_joins (s : State) (x : Inst) : (s.setInst x).joins = s.joins := rfl
@[simp] theorem State.setInst_messages (s : State) (x : Inst) : (s.setInst x).messages = s.messages := rfl
@[simp] theorem State.setInst_peerOut (s : State) (x : Inst) : (s.setInst x).peerOut = s.peerOut := rfl
@[simp] theorem State.setInst_fences (s : State) (x : Inst) : (s.setInst x).fences = s.fences := rfl
@[simp] theorem State.setInst_moduleIndex (s : State) (x : Inst) : (s.setInst x).moduleIndex = s.moduleIndex := rfl
@[simp] theorem State.setInst_stencils (s : State) (x : Inst) : (s.setInst x).stencils = s.stencils := rfl
@[simp] theorem State.setInst_stencilCmds (s : State) (x : Inst) : (s.setInst x).stencilCmds = s.stencilCmds := rfl
@[simp] theorem State.setInst_flash (s : State) (x : Inst) : (s.setInst x).flash = s.flash := rfl
@[simp] theorem State.setInst_powered (s : State) (x : Inst) : (s.setInst x).powered = s.powered := rfl
@[simp] theorem State.setInst_linkUp (s : State) (x : Inst) : (s.setInst x).linkUp = s.linkUp := rfl
@[simp] theorem State.setInst_hostOut (s : State) (x : Inst) : (s.setInst x).hostOut = s.hostOut := rfl
@[simp] theorem State.setInst_lathImages (s : State) (x : Inst) : (s.setInst x).lathImages = s.lathImages := rfl
@[simp] theorem State.setInst_loaderStatus (s : State) (x : Inst) : (s.setInst x).loaderStatus = s.loaderStatus := rfl
@[simp] theorem State.setInst_attestError (s : State) (x : Inst) : (s.setInst x).attestError = s.attestError := rfl
@[simp] theorem State.setInst_flush (s : State) (x : Inst) : (s.setInst x).flush = s.flush := rfl
@[simp] theorem State.setInst_mscHits (s : State) (x : Inst) : (s.setInst x).mscHits = s.mscHits := rfl
@[simp] theorem State.setInst_mscMisses (s : State) (x : Inst) : (s.setInst x).mscMisses = s.mscMisses := rfl
@[simp] theorem State.setInst_sectorEnergy (s : State) (x : Inst) : (s.setInst x).sectorEnergy = s.sectorEnergy := rfl
@[simp] theorem State.setInst_refills (s : State) (x : Inst) : (s.setInst x).refills = s.refills := rfl
@[simp] theorem State.setInst_cycleBase (s : State) (x : Inst) : (s.setInst x).cycleBase = s.cycleBase := rfl
@[simp] theorem State.setInst_nsAdded (s : State) (x : Inst) : (s.setInst x).nsAdded = s.nsAdded := rfl
@[simp] theorem State.setInst_nsFloor (s : State) (x : Inst) : (s.setInst x).nsFloor = s.nsFloor := rfl
@[simp] theorem State.setInst_lastSlew (s : State) (x : Inst) : (s.setInst x).lastSlew = s.lastSlew := rfl
@[simp] theorem State.setInst_timeJoined (s : State) (x : Inst) : (s.setInst x).timeJoined = s.timeJoined := rfl
@[simp] theorem State.setInst_ticks (s : State) (x : Inst) : (s.setInst x).ticks = s.ticks := rfl
@[simp] theorem State.setInst_agenda (s : State) (x : Inst) : (s.setInst x).agenda = s.agenda := rfl
@[simp] theorem State.setInst_free (s : State) (x : Inst) : (s.setInst x).free = s.free := rfl
@[simp] theorem State.setInst_steps (s : State) (x : Inst) : (s.setInst x).steps = s.steps := rfl
@[simp] theorem State.setInst_cur (s : State) (x : Inst) : (s.setInst x).cur = s.cur := rfl

/-! ### setEngine -/

@[simp] theorem State.setEngine_variant (s : State) (t : Nat) (e : RowEngine) : (s.setEngine t e).variant = s.variant := rfl
@[simp] theorem State.setEngine_phase (s : State) (t : Nat) (e : RowEngine) : (s.setEngine t e).phase = s.phase := rfl
@[simp] theorem State.setEngine_bootCode (s : State) (t : Nat) (e : RowEngine) : (s.setEngine t e).bootCode = s.bootCode := rfl
@[simp] theorem State.setEngine_bootCount (s : State) (t : Nat) (e : RowEngine) : (s.setEngine t e).bootCount = s.bootCount := rfl
@[simp] theorem State.setEngine_mem (s : State) (t : Nat) (e : RowEngine) : (s.setEngine t e).mem = s.mem := rfl
@[simp] theorem State.setEngine_accesses (s : State) (t : Nat) (e : RowEngine) : (s.setEngine t e).accesses = s.accesses := rfl
@[simp] theorem State.setEngine_nextAccess (s : State) (t : Nat) (e : RowEngine) : (s.setEngine t e).nextAccess = s.nextAccess := rfl
@[simp] theorem State.setEngine_outstanding (s : State) (t : Nat) (e : RowEngine) : (s.setEngine t e).outstanding = s.outstanding := rfl
@[simp] theorem State.setEngine_writers (s : State) (t : Nat) (e : RowEngine) : (s.setEngine t e).writers = s.writers := rfl
@[simp] theorem State.setEngine_groups (s : State) (t : Nat) (e : RowEngine) : (s.setEngine t e).groups = s.groups := rfl
@[simp] theorem State.setEngine_domains (s : State) (t : Nat) (e : RowEngine) : (s.setEngine t e).domains = s.domains := rfl
@[simp] theorem State.setEngine_keySlots (s : State) (t : Nat) (e : RowEngine) : (s.setEngine t e).keySlots = s.keySlots := rfl
@[simp] theorem State.setEngine_tlb (s : State) (t : Nat) (e : RowEngine) : (s.setEngine t e).tlb = s.tlb := rfl
@[simp] theorem State.setEngine_invals (s : State) (t : Nat) (e : RowEngine) : (s.setEngine t e).invals = s.invals := rfl
@[simp] theorem State.setEngine_nextInval (s : State) (t : Nat) (e : RowEngine) : (s.setEngine t e).nextInval = s.nextInval := rfl
@[simp] theorem State.setEngine_lpddrGib (s : State) (t : Nat) (e : RowEngine) : (s.setEngine t e).lpddrGib = s.lpddrGib := rfl
@[simp] theorem State.setEngine_cxlGib (s : State) (t : Nat) (e : RowEngine) : (s.setEngine t e).cxlGib = s.cxlGib := rfl
@[simp] theorem State.setEngine_periods (s : State) (t : Nat) (e : RowEngine) : (s.setEngine t e).periods = s.periods := rfl
@[simp] theorem State.setEngine_firstDctl (s : State) (t : Nat) (e : RowEngine) : (s.setEngine t e).firstDctl = s.firstDctl := rfl
@[simp] theorem State.setEngine_thermalHalt (s : State) (t : Nat) (e : RowEngine) : (s.setEngine t e).thermalHalt = s.thermalHalt := rfl
@[simp] theorem State.setEngine_records (s : State) (t : Nat) (e : RowEngine) : (s.setEngine t e).records = s.records := rfl
@[simp] theorem State.setEngine_nextRecord (s : State) (t : Nat) (e : RowEngine) : (s.setEngine t e).nextRecord = s.nextRecord := rfl
@[simp] theorem State.setEngine_faultQueues (s : State) (t : Nat) (e : RowEngine) : (s.setEngine t e).faultQueues = s.faultQueues := rfl
@[simp] theorem State.setEngine_ports (s : State) (t : Nat) (e : RowEngine) : (s.setEngine t e).ports = s.ports := rfl
@[simp] theorem State.setEngine_routers (s : State) (t : Nat) (e : RowEngine) : (s.setEngine t e).routers = s.routers := rfl
@[simp] theorem State.setEngine_ringLevels (s : State) (t : Nat) (e : RowEngine) : (s.setEngine t e).ringLevels = s.ringLevels := rfl
@[simp] theorem State.setEngine_ringOut (s : State) (t : Nat) (e : RowEngine) : (s.setEngine t e).ringOut = s.ringOut := rfl
@[simp] theorem State.setEngine_imageCache (s : State) (t : Nat) (e : RowEngine) : (s.setEngine t e).imageCache = s.imageCache := rfl
@[simp] theorem State.setEngine_library (s : State) (t : Nat) (e : RowEngine) : (s.setEngine t e).library = s.library := rfl
@[simp] theorem State.setEngine_providerKeys (s : State) (t : Nat) (e : RowEngine) : (s.setEngine t e).providerKeys = s.providerKeys := rfl
@[simp] theorem State.setEngine_pool (s : State) (t : Nat) (e : RowEngine) : (s.setEngine t e).pool = s.pool := rfl
@[simp] theorem State.setEngine_nextEntry (s : State) (t : Nat) (e : RowEngine) : (s.setEngine t e).nextEntry = s.nextEntry := rfl
@[simp] theorem State.setEngine_launches (s : State) (t : Nat) (e : RowEngine) : (s.setEngine t e).launches = s.launches := rfl
@[simp] theorem State.setEngine_insts (s : State) (t : Nat) (e : RowEngine) : (s.setEngine t e).insts = s.insts := rfl
@[simp] theorem State.setEngine_resolved (s : State) (t : Nat) (e : RowEngine) : (s.setEngine t e).resolved = s.resolved := rfl
@[simp] theorem State.setEngine_sched (s : State) (t : Nat) (e : RowEngine) : (s.setEngine t e).sched = s.sched := rfl
@[simp] theorem State.setEngine_halts (s : State) (t : Nat) (e : RowEngine) : (s.setEngine t e).halts = s.halts := rfl
@[simp] theorem State.setEngine_spares (s : State) (t : Nat) (e : RowEngine) : (s.setEngine t e).spares = s.spares := rfl
@[simp] theorem State.setEngine_sectorCe (s : State) (t : Nat) (e : RowEngine) : (s.setEngine t e).sectorCe = s.sectorCe := rfl
@[simp] theorem State.setEngine_sectorUe (s : State) (t : Nat) (e : RowEngine) : (s.setEngine t e).sectorUe = s.sectorUe := rfl
@[simp] theorem State.setEngine_replaceReq (s : State) (t : Nat) (e : RowEngine) : (s.setEngine t e).replaceReq = s.replaceReq := rfl
@[simp] theorem State.setEngine_management (s : State) (t : Nat) (e : RowEngine) : (s.setEngine t e).management = s.management := rfl
@[simp] theorem State.setEngine_heldMessages (s : State) (t : Nat) (e : RowEngine) : (s.setEngine t e).heldMessages = s.heldMessages := rfl
@[simp] theorem State.setEngine_queues (s : State) (t : Nat) (e : RowEngine) : (s.setEngine t e).queues = s.queues := rfl
@[simp] theorem State.setEngine_seqs (s : State) (t : Nat) (e : RowEngine) : (s.setEngine t e).seqs = s.seqs := rfl
@[simp] theorem State.setEngine_requests (s : State) (t : Nat) (e : RowEngine) : (s.setEngine t e).requests = s.requests := rfl
@[simp] theorem State.setEngine_joins (s : State) (t : Nat) (e : RowEngine) : (s.setEngine t e).joins = s.joins := rfl
@[simp] theorem State.setEngine_messages (s : State) (t : Nat) (e : RowEngine) : (s.setEngine t e).messages = s.messages := rfl
@[simp] theorem State.setEngine_peerOut (s : State) (t : Nat) (e : RowEngine) : (s.setEngine t e).peerOut = s.peerOut := rfl
@[simp] theorem State.setEngine_fences (s : State) (t : Nat) (e : RowEngine) : (s.setEngine t e).fences = s.fences := rfl
@[simp] theorem State.setEngine_moduleIndex (s : State) (t : Nat) (e : RowEngine) : (s.setEngine t e).moduleIndex = s.moduleIndex := rfl
@[simp] theorem State.setEngine_stencils (s : State) (t : Nat) (e : RowEngine) : (s.setEngine t e).stencils = s.stencils := rfl
@[simp] theorem State.setEngine_stencilCmds (s : State) (t : Nat) (e : RowEngine) : (s.setEngine t e).stencilCmds = s.stencilCmds := rfl
@[simp] theorem State.setEngine_flash (s : State) (t : Nat) (e : RowEngine) : (s.setEngine t e).flash = s.flash := rfl
@[simp] theorem State.setEngine_powered (s : State) (t : Nat) (e : RowEngine) : (s.setEngine t e).powered = s.powered := rfl
@[simp] theorem State.setEngine_linkUp (s : State) (t : Nat) (e : RowEngine) : (s.setEngine t e).linkUp = s.linkUp := rfl
@[simp] theorem State.setEngine_hostOut (s : State) (t : Nat) (e : RowEngine) : (s.setEngine t e).hostOut = s.hostOut := rfl
@[simp] theorem State.setEngine_lathImages (s : State) (t : Nat) (e : RowEngine) : (s.setEngine t e).lathImages = s.lathImages := rfl
@[simp] theorem State.setEngine_loaderStatus (s : State) (t : Nat) (e : RowEngine) : (s.setEngine t e).loaderStatus = s.loaderStatus := rfl
@[simp] theorem State.setEngine_attestError (s : State) (t : Nat) (e : RowEngine) : (s.setEngine t e).attestError = s.attestError := rfl
@[simp] theorem State.setEngine_flush (s : State) (t : Nat) (e : RowEngine) : (s.setEngine t e).flush = s.flush := rfl
@[simp] theorem State.setEngine_mscHits (s : State) (t : Nat) (e : RowEngine) : (s.setEngine t e).mscHits = s.mscHits := rfl
@[simp] theorem State.setEngine_mscMisses (s : State) (t : Nat) (e : RowEngine) : (s.setEngine t e).mscMisses = s.mscMisses := rfl
@[simp] theorem State.setEngine_sectorEnergy (s : State) (t : Nat) (e : RowEngine) : (s.setEngine t e).sectorEnergy = s.sectorEnergy := rfl
@[simp] theorem State.setEngine_refills (s : State) (t : Nat) (e : RowEngine) : (s.setEngine t e).refills = s.refills := rfl
@[simp] theorem State.setEngine_cycleBase (s : State) (t : Nat) (e : RowEngine) : (s.setEngine t e).cycleBase = s.cycleBase := rfl
@[simp] theorem State.setEngine_nsAdded (s : State) (t : Nat) (e : RowEngine) : (s.setEngine t e).nsAdded = s.nsAdded := rfl
@[simp] theorem State.setEngine_nsFloor (s : State) (t : Nat) (e : RowEngine) : (s.setEngine t e).nsFloor = s.nsFloor := rfl
@[simp] theorem State.setEngine_lastSlew (s : State) (t : Nat) (e : RowEngine) : (s.setEngine t e).lastSlew = s.lastSlew := rfl
@[simp] theorem State.setEngine_timeJoined (s : State) (t : Nat) (e : RowEngine) : (s.setEngine t e).timeJoined = s.timeJoined := rfl
@[simp] theorem State.setEngine_ticks (s : State) (t : Nat) (e : RowEngine) : (s.setEngine t e).ticks = s.ticks := rfl
@[simp] theorem State.setEngine_agenda (s : State) (t : Nat) (e : RowEngine) : (s.setEngine t e).agenda = s.agenda := rfl
@[simp] theorem State.setEngine_free (s : State) (t : Nat) (e : RowEngine) : (s.setEngine t e).free = s.free := rfl
@[simp] theorem State.setEngine_steps (s : State) (t : Nat) (e : RowEngine) : (s.setEngine t e).steps = s.steps := rfl
@[simp] theorem State.setEngine_cur (s : State) (t : Nat) (e : RowEngine) : (s.setEngine t e).cur = s.cur := rfl

/-! ### setQuery -/

@[simp] theorem State.setQuery_variant (s : State) (t k : Nat) (q : SkimSlot) : (s.setQuery t k q).variant = s.variant := rfl
@[simp] theorem State.setQuery_phase (s : State) (t k : Nat) (q : SkimSlot) : (s.setQuery t k q).phase = s.phase := rfl
@[simp] theorem State.setQuery_bootCode (s : State) (t k : Nat) (q : SkimSlot) : (s.setQuery t k q).bootCode = s.bootCode := rfl
@[simp] theorem State.setQuery_bootCount (s : State) (t k : Nat) (q : SkimSlot) : (s.setQuery t k q).bootCount = s.bootCount := rfl
@[simp] theorem State.setQuery_mem (s : State) (t k : Nat) (q : SkimSlot) : (s.setQuery t k q).mem = s.mem := rfl
@[simp] theorem State.setQuery_accesses (s : State) (t k : Nat) (q : SkimSlot) : (s.setQuery t k q).accesses = s.accesses := rfl
@[simp] theorem State.setQuery_nextAccess (s : State) (t k : Nat) (q : SkimSlot) : (s.setQuery t k q).nextAccess = s.nextAccess := rfl
@[simp] theorem State.setQuery_outstanding (s : State) (t k : Nat) (q : SkimSlot) : (s.setQuery t k q).outstanding = s.outstanding := rfl
@[simp] theorem State.setQuery_writers (s : State) (t k : Nat) (q : SkimSlot) : (s.setQuery t k q).writers = s.writers := rfl
@[simp] theorem State.setQuery_groups (s : State) (t k : Nat) (q : SkimSlot) : (s.setQuery t k q).groups = s.groups := rfl
@[simp] theorem State.setQuery_domains (s : State) (t k : Nat) (q : SkimSlot) : (s.setQuery t k q).domains = s.domains := rfl
@[simp] theorem State.setQuery_keySlots (s : State) (t k : Nat) (q : SkimSlot) : (s.setQuery t k q).keySlots = s.keySlots := rfl
@[simp] theorem State.setQuery_tlb (s : State) (t k : Nat) (q : SkimSlot) : (s.setQuery t k q).tlb = s.tlb := rfl
@[simp] theorem State.setQuery_invals (s : State) (t k : Nat) (q : SkimSlot) : (s.setQuery t k q).invals = s.invals := rfl
@[simp] theorem State.setQuery_nextInval (s : State) (t k : Nat) (q : SkimSlot) : (s.setQuery t k q).nextInval = s.nextInval := rfl
@[simp] theorem State.setQuery_lpddrGib (s : State) (t k : Nat) (q : SkimSlot) : (s.setQuery t k q).lpddrGib = s.lpddrGib := rfl
@[simp] theorem State.setQuery_cxlGib (s : State) (t k : Nat) (q : SkimSlot) : (s.setQuery t k q).cxlGib = s.cxlGib := rfl
@[simp] theorem State.setQuery_periods (s : State) (t k : Nat) (q : SkimSlot) : (s.setQuery t k q).periods = s.periods := rfl
@[simp] theorem State.setQuery_firstDctl (s : State) (t k : Nat) (q : SkimSlot) : (s.setQuery t k q).firstDctl = s.firstDctl := rfl
@[simp] theorem State.setQuery_thermalHalt (s : State) (t k : Nat) (q : SkimSlot) : (s.setQuery t k q).thermalHalt = s.thermalHalt := rfl
@[simp] theorem State.setQuery_records (s : State) (t k : Nat) (q : SkimSlot) : (s.setQuery t k q).records = s.records := rfl
@[simp] theorem State.setQuery_nextRecord (s : State) (t k : Nat) (q : SkimSlot) : (s.setQuery t k q).nextRecord = s.nextRecord := rfl
@[simp] theorem State.setQuery_faultQueues (s : State) (t k : Nat) (q : SkimSlot) : (s.setQuery t k q).faultQueues = s.faultQueues := rfl
@[simp] theorem State.setQuery_ports (s : State) (t k : Nat) (q : SkimSlot) : (s.setQuery t k q).ports = s.ports := rfl
@[simp] theorem State.setQuery_routers (s : State) (t k : Nat) (q : SkimSlot) : (s.setQuery t k q).routers = s.routers := rfl
@[simp] theorem State.setQuery_ringLevels (s : State) (t k : Nat) (q : SkimSlot) : (s.setQuery t k q).ringLevels = s.ringLevels := rfl
@[simp] theorem State.setQuery_ringOut (s : State) (t k : Nat) (q : SkimSlot) : (s.setQuery t k q).ringOut = s.ringOut := rfl
@[simp] theorem State.setQuery_imageCache (s : State) (t k : Nat) (q : SkimSlot) : (s.setQuery t k q).imageCache = s.imageCache := rfl
@[simp] theorem State.setQuery_library (s : State) (t k : Nat) (q : SkimSlot) : (s.setQuery t k q).library = s.library := rfl
@[simp] theorem State.setQuery_providerKeys (s : State) (t k : Nat) (q : SkimSlot) : (s.setQuery t k q).providerKeys = s.providerKeys := rfl
@[simp] theorem State.setQuery_pool (s : State) (t k : Nat) (q : SkimSlot) : (s.setQuery t k q).pool = s.pool := rfl
@[simp] theorem State.setQuery_nextEntry (s : State) (t k : Nat) (q : SkimSlot) : (s.setQuery t k q).nextEntry = s.nextEntry := rfl
@[simp] theorem State.setQuery_launches (s : State) (t k : Nat) (q : SkimSlot) : (s.setQuery t k q).launches = s.launches := rfl
@[simp] theorem State.setQuery_insts (s : State) (t k : Nat) (q : SkimSlot) : (s.setQuery t k q).insts = s.insts := rfl
@[simp] theorem State.setQuery_resolved (s : State) (t k : Nat) (q : SkimSlot) : (s.setQuery t k q).resolved = s.resolved := rfl
@[simp] theorem State.setQuery_sched (s : State) (t k : Nat) (q : SkimSlot) : (s.setQuery t k q).sched = s.sched := rfl
@[simp] theorem State.setQuery_halts (s : State) (t k : Nat) (q : SkimSlot) : (s.setQuery t k q).halts = s.halts := rfl
@[simp] theorem State.setQuery_spares (s : State) (t k : Nat) (q : SkimSlot) : (s.setQuery t k q).spares = s.spares := rfl
@[simp] theorem State.setQuery_sectorCe (s : State) (t k : Nat) (q : SkimSlot) : (s.setQuery t k q).sectorCe = s.sectorCe := rfl
@[simp] theorem State.setQuery_sectorUe (s : State) (t k : Nat) (q : SkimSlot) : (s.setQuery t k q).sectorUe = s.sectorUe := rfl
@[simp] theorem State.setQuery_replaceReq (s : State) (t k : Nat) (q : SkimSlot) : (s.setQuery t k q).replaceReq = s.replaceReq := rfl
@[simp] theorem State.setQuery_management (s : State) (t k : Nat) (q : SkimSlot) : (s.setQuery t k q).management = s.management := rfl
@[simp] theorem State.setQuery_heldMessages (s : State) (t k : Nat) (q : SkimSlot) : (s.setQuery t k q).heldMessages = s.heldMessages := rfl
@[simp] theorem State.setQuery_queues (s : State) (t k : Nat) (q : SkimSlot) : (s.setQuery t k q).queues = s.queues := rfl
@[simp] theorem State.setQuery_seqs (s : State) (t k : Nat) (q : SkimSlot) : (s.setQuery t k q).seqs = s.seqs := rfl
@[simp] theorem State.setQuery_requests (s : State) (t k : Nat) (q : SkimSlot) : (s.setQuery t k q).requests = s.requests := rfl
@[simp] theorem State.setQuery_joins (s : State) (t k : Nat) (q : SkimSlot) : (s.setQuery t k q).joins = s.joins := rfl
@[simp] theorem State.setQuery_messages (s : State) (t k : Nat) (q : SkimSlot) : (s.setQuery t k q).messages = s.messages := rfl
@[simp] theorem State.setQuery_peerOut (s : State) (t k : Nat) (q : SkimSlot) : (s.setQuery t k q).peerOut = s.peerOut := rfl
@[simp] theorem State.setQuery_fences (s : State) (t k : Nat) (q : SkimSlot) : (s.setQuery t k q).fences = s.fences := rfl
@[simp] theorem State.setQuery_moduleIndex (s : State) (t k : Nat) (q : SkimSlot) : (s.setQuery t k q).moduleIndex = s.moduleIndex := rfl
@[simp] theorem State.setQuery_stencils (s : State) (t k : Nat) (q : SkimSlot) : (s.setQuery t k q).stencils = s.stencils := rfl
@[simp] theorem State.setQuery_stencilCmds (s : State) (t k : Nat) (q : SkimSlot) : (s.setQuery t k q).stencilCmds = s.stencilCmds := rfl
@[simp] theorem State.setQuery_flash (s : State) (t k : Nat) (q : SkimSlot) : (s.setQuery t k q).flash = s.flash := rfl
@[simp] theorem State.setQuery_powered (s : State) (t k : Nat) (q : SkimSlot) : (s.setQuery t k q).powered = s.powered := rfl
@[simp] theorem State.setQuery_linkUp (s : State) (t k : Nat) (q : SkimSlot) : (s.setQuery t k q).linkUp = s.linkUp := rfl
@[simp] theorem State.setQuery_hostOut (s : State) (t k : Nat) (q : SkimSlot) : (s.setQuery t k q).hostOut = s.hostOut := rfl
@[simp] theorem State.setQuery_lathImages (s : State) (t k : Nat) (q : SkimSlot) : (s.setQuery t k q).lathImages = s.lathImages := rfl
@[simp] theorem State.setQuery_loaderStatus (s : State) (t k : Nat) (q : SkimSlot) : (s.setQuery t k q).loaderStatus = s.loaderStatus := rfl
@[simp] theorem State.setQuery_attestError (s : State) (t k : Nat) (q : SkimSlot) : (s.setQuery t k q).attestError = s.attestError := rfl
@[simp] theorem State.setQuery_flush (s : State) (t k : Nat) (q : SkimSlot) : (s.setQuery t k q).flush = s.flush := rfl
@[simp] theorem State.setQuery_mscHits (s : State) (t k : Nat) (q : SkimSlot) : (s.setQuery t k q).mscHits = s.mscHits := rfl
@[simp] theorem State.setQuery_mscMisses (s : State) (t k : Nat) (q : SkimSlot) : (s.setQuery t k q).mscMisses = s.mscMisses := rfl
@[simp] theorem State.setQuery_sectorEnergy (s : State) (t k : Nat) (q : SkimSlot) : (s.setQuery t k q).sectorEnergy = s.sectorEnergy := rfl
@[simp] theorem State.setQuery_refills (s : State) (t k : Nat) (q : SkimSlot) : (s.setQuery t k q).refills = s.refills := rfl
@[simp] theorem State.setQuery_cycleBase (s : State) (t k : Nat) (q : SkimSlot) : (s.setQuery t k q).cycleBase = s.cycleBase := rfl
@[simp] theorem State.setQuery_nsAdded (s : State) (t k : Nat) (q : SkimSlot) : (s.setQuery t k q).nsAdded = s.nsAdded := rfl
@[simp] theorem State.setQuery_nsFloor (s : State) (t k : Nat) (q : SkimSlot) : (s.setQuery t k q).nsFloor = s.nsFloor := rfl
@[simp] theorem State.setQuery_lastSlew (s : State) (t k : Nat) (q : SkimSlot) : (s.setQuery t k q).lastSlew = s.lastSlew := rfl
@[simp] theorem State.setQuery_timeJoined (s : State) (t k : Nat) (q : SkimSlot) : (s.setQuery t k q).timeJoined = s.timeJoined := rfl
@[simp] theorem State.setQuery_ticks (s : State) (t k : Nat) (q : SkimSlot) : (s.setQuery t k q).ticks = s.ticks := rfl
@[simp] theorem State.setQuery_agenda (s : State) (t k : Nat) (q : SkimSlot) : (s.setQuery t k q).agenda = s.agenda := rfl
@[simp] theorem State.setQuery_free (s : State) (t k : Nat) (q : SkimSlot) : (s.setQuery t k q).free = s.free := rfl
@[simp] theorem State.setQuery_steps (s : State) (t k : Nat) (q : SkimSlot) : (s.setQuery t k q).steps = s.steps := rfl
@[simp] theorem State.setQuery_cur (s : State) (t k : Nat) (q : SkimSlot) : (s.setQuery t k q).cur = s.cur := rfl

/-! ### raise -/

@[simp] theorem State.raise_variant (s : State) (t c : Nat) (fl : FpFlags) : (s.raise t c fl).variant = s.variant := rfl
@[simp] theorem State.raise_phase (s : State) (t c : Nat) (fl : FpFlags) : (s.raise t c fl).phase = s.phase := rfl
@[simp] theorem State.raise_bootCode (s : State) (t c : Nat) (fl : FpFlags) : (s.raise t c fl).bootCode = s.bootCode := rfl
@[simp] theorem State.raise_bootCount (s : State) (t c : Nat) (fl : FpFlags) : (s.raise t c fl).bootCount = s.bootCount := rfl
@[simp] theorem State.raise_mem (s : State) (t c : Nat) (fl : FpFlags) : (s.raise t c fl).mem = s.mem := rfl
@[simp] theorem State.raise_accesses (s : State) (t c : Nat) (fl : FpFlags) : (s.raise t c fl).accesses = s.accesses := rfl
@[simp] theorem State.raise_nextAccess (s : State) (t c : Nat) (fl : FpFlags) : (s.raise t c fl).nextAccess = s.nextAccess := rfl
@[simp] theorem State.raise_outstanding (s : State) (t c : Nat) (fl : FpFlags) : (s.raise t c fl).outstanding = s.outstanding := rfl
@[simp] theorem State.raise_writers (s : State) (t c : Nat) (fl : FpFlags) : (s.raise t c fl).writers = s.writers := rfl
@[simp] theorem State.raise_groups (s : State) (t c : Nat) (fl : FpFlags) : (s.raise t c fl).groups = s.groups := rfl
@[simp] theorem State.raise_domains (s : State) (t c : Nat) (fl : FpFlags) : (s.raise t c fl).domains = s.domains := rfl
@[simp] theorem State.raise_keySlots (s : State) (t c : Nat) (fl : FpFlags) : (s.raise t c fl).keySlots = s.keySlots := rfl
@[simp] theorem State.raise_tlb (s : State) (t c : Nat) (fl : FpFlags) : (s.raise t c fl).tlb = s.tlb := rfl
@[simp] theorem State.raise_invals (s : State) (t c : Nat) (fl : FpFlags) : (s.raise t c fl).invals = s.invals := rfl
@[simp] theorem State.raise_nextInval (s : State) (t c : Nat) (fl : FpFlags) : (s.raise t c fl).nextInval = s.nextInval := rfl
@[simp] theorem State.raise_lpddrGib (s : State) (t c : Nat) (fl : FpFlags) : (s.raise t c fl).lpddrGib = s.lpddrGib := rfl
@[simp] theorem State.raise_cxlGib (s : State) (t c : Nat) (fl : FpFlags) : (s.raise t c fl).cxlGib = s.cxlGib := rfl
@[simp] theorem State.raise_periods (s : State) (t c : Nat) (fl : FpFlags) : (s.raise t c fl).periods = s.periods := rfl
@[simp] theorem State.raise_firstDctl (s : State) (t c : Nat) (fl : FpFlags) : (s.raise t c fl).firstDctl = s.firstDctl := rfl
@[simp] theorem State.raise_thermalHalt (s : State) (t c : Nat) (fl : FpFlags) : (s.raise t c fl).thermalHalt = s.thermalHalt := rfl
@[simp] theorem State.raise_records (s : State) (t c : Nat) (fl : FpFlags) : (s.raise t c fl).records = s.records := rfl
@[simp] theorem State.raise_nextRecord (s : State) (t c : Nat) (fl : FpFlags) : (s.raise t c fl).nextRecord = s.nextRecord := rfl
@[simp] theorem State.raise_faultQueues (s : State) (t c : Nat) (fl : FpFlags) : (s.raise t c fl).faultQueues = s.faultQueues := rfl
@[simp] theorem State.raise_ports (s : State) (t c : Nat) (fl : FpFlags) : (s.raise t c fl).ports = s.ports := rfl
@[simp] theorem State.raise_routers (s : State) (t c : Nat) (fl : FpFlags) : (s.raise t c fl).routers = s.routers := rfl
@[simp] theorem State.raise_ringLevels (s : State) (t c : Nat) (fl : FpFlags) : (s.raise t c fl).ringLevels = s.ringLevels := rfl
@[simp] theorem State.raise_ringOut (s : State) (t c : Nat) (fl : FpFlags) : (s.raise t c fl).ringOut = s.ringOut := rfl
@[simp] theorem State.raise_imageCache (s : State) (t c : Nat) (fl : FpFlags) : (s.raise t c fl).imageCache = s.imageCache := rfl
@[simp] theorem State.raise_library (s : State) (t c : Nat) (fl : FpFlags) : (s.raise t c fl).library = s.library := rfl
@[simp] theorem State.raise_providerKeys (s : State) (t c : Nat) (fl : FpFlags) : (s.raise t c fl).providerKeys = s.providerKeys := rfl
@[simp] theorem State.raise_pool (s : State) (t c : Nat) (fl : FpFlags) : (s.raise t c fl).pool = s.pool := rfl
@[simp] theorem State.raise_nextEntry (s : State) (t c : Nat) (fl : FpFlags) : (s.raise t c fl).nextEntry = s.nextEntry := rfl
@[simp] theorem State.raise_launches (s : State) (t c : Nat) (fl : FpFlags) : (s.raise t c fl).launches = s.launches := rfl
@[simp] theorem State.raise_insts (s : State) (t c : Nat) (fl : FpFlags) : (s.raise t c fl).insts = s.insts := rfl
@[simp] theorem State.raise_resolved (s : State) (t c : Nat) (fl : FpFlags) : (s.raise t c fl).resolved = s.resolved := rfl
@[simp] theorem State.raise_sched (s : State) (t c : Nat) (fl : FpFlags) : (s.raise t c fl).sched = s.sched := rfl
@[simp] theorem State.raise_halts (s : State) (t c : Nat) (fl : FpFlags) : (s.raise t c fl).halts = s.halts := rfl
@[simp] theorem State.raise_spares (s : State) (t c : Nat) (fl : FpFlags) : (s.raise t c fl).spares = s.spares := rfl
@[simp] theorem State.raise_sectorCe (s : State) (t c : Nat) (fl : FpFlags) : (s.raise t c fl).sectorCe = s.sectorCe := rfl
@[simp] theorem State.raise_sectorUe (s : State) (t c : Nat) (fl : FpFlags) : (s.raise t c fl).sectorUe = s.sectorUe := rfl
@[simp] theorem State.raise_replaceReq (s : State) (t c : Nat) (fl : FpFlags) : (s.raise t c fl).replaceReq = s.replaceReq := rfl
@[simp] theorem State.raise_management (s : State) (t c : Nat) (fl : FpFlags) : (s.raise t c fl).management = s.management := rfl
@[simp] theorem State.raise_heldMessages (s : State) (t c : Nat) (fl : FpFlags) : (s.raise t c fl).heldMessages = s.heldMessages := rfl
@[simp] theorem State.raise_queues (s : State) (t c : Nat) (fl : FpFlags) : (s.raise t c fl).queues = s.queues := rfl
@[simp] theorem State.raise_seqs (s : State) (t c : Nat) (fl : FpFlags) : (s.raise t c fl).seqs = s.seqs := rfl
@[simp] theorem State.raise_requests (s : State) (t c : Nat) (fl : FpFlags) : (s.raise t c fl).requests = s.requests := rfl
@[simp] theorem State.raise_joins (s : State) (t c : Nat) (fl : FpFlags) : (s.raise t c fl).joins = s.joins := rfl
@[simp] theorem State.raise_messages (s : State) (t c : Nat) (fl : FpFlags) : (s.raise t c fl).messages = s.messages := rfl
@[simp] theorem State.raise_peerOut (s : State) (t c : Nat) (fl : FpFlags) : (s.raise t c fl).peerOut = s.peerOut := rfl
@[simp] theorem State.raise_fences (s : State) (t c : Nat) (fl : FpFlags) : (s.raise t c fl).fences = s.fences := rfl
@[simp] theorem State.raise_moduleIndex (s : State) (t c : Nat) (fl : FpFlags) : (s.raise t c fl).moduleIndex = s.moduleIndex := rfl
@[simp] theorem State.raise_stencils (s : State) (t c : Nat) (fl : FpFlags) : (s.raise t c fl).stencils = s.stencils := rfl
@[simp] theorem State.raise_stencilCmds (s : State) (t c : Nat) (fl : FpFlags) : (s.raise t c fl).stencilCmds = s.stencilCmds := rfl
@[simp] theorem State.raise_flash (s : State) (t c : Nat) (fl : FpFlags) : (s.raise t c fl).flash = s.flash := rfl
@[simp] theorem State.raise_powered (s : State) (t c : Nat) (fl : FpFlags) : (s.raise t c fl).powered = s.powered := rfl
@[simp] theorem State.raise_linkUp (s : State) (t c : Nat) (fl : FpFlags) : (s.raise t c fl).linkUp = s.linkUp := rfl
@[simp] theorem State.raise_hostOut (s : State) (t c : Nat) (fl : FpFlags) : (s.raise t c fl).hostOut = s.hostOut := rfl
@[simp] theorem State.raise_lathImages (s : State) (t c : Nat) (fl : FpFlags) : (s.raise t c fl).lathImages = s.lathImages := rfl
@[simp] theorem State.raise_loaderStatus (s : State) (t c : Nat) (fl : FpFlags) : (s.raise t c fl).loaderStatus = s.loaderStatus := rfl
@[simp] theorem State.raise_attestError (s : State) (t c : Nat) (fl : FpFlags) : (s.raise t c fl).attestError = s.attestError := rfl
@[simp] theorem State.raise_flush (s : State) (t c : Nat) (fl : FpFlags) : (s.raise t c fl).flush = s.flush := rfl
@[simp] theorem State.raise_mscHits (s : State) (t c : Nat) (fl : FpFlags) : (s.raise t c fl).mscHits = s.mscHits := rfl
@[simp] theorem State.raise_mscMisses (s : State) (t c : Nat) (fl : FpFlags) : (s.raise t c fl).mscMisses = s.mscMisses := rfl
@[simp] theorem State.raise_sectorEnergy (s : State) (t c : Nat) (fl : FpFlags) : (s.raise t c fl).sectorEnergy = s.sectorEnergy := rfl
@[simp] theorem State.raise_refills (s : State) (t c : Nat) (fl : FpFlags) : (s.raise t c fl).refills = s.refills := rfl
@[simp] theorem State.raise_cycleBase (s : State) (t c : Nat) (fl : FpFlags) : (s.raise t c fl).cycleBase = s.cycleBase := rfl
@[simp] theorem State.raise_nsAdded (s : State) (t c : Nat) (fl : FpFlags) : (s.raise t c fl).nsAdded = s.nsAdded := rfl
@[simp] theorem State.raise_nsFloor (s : State) (t c : Nat) (fl : FpFlags) : (s.raise t c fl).nsFloor = s.nsFloor := rfl
@[simp] theorem State.raise_lastSlew (s : State) (t c : Nat) (fl : FpFlags) : (s.raise t c fl).lastSlew = s.lastSlew := rfl
@[simp] theorem State.raise_timeJoined (s : State) (t c : Nat) (fl : FpFlags) : (s.raise t c fl).timeJoined = s.timeJoined := rfl
@[simp] theorem State.raise_ticks (s : State) (t c : Nat) (fl : FpFlags) : (s.raise t c fl).ticks = s.ticks := rfl
@[simp] theorem State.raise_agenda (s : State) (t c : Nat) (fl : FpFlags) : (s.raise t c fl).agenda = s.agenda := rfl
@[simp] theorem State.raise_free (s : State) (t c : Nat) (fl : FpFlags) : (s.raise t c fl).free = s.free := rfl
@[simp] theorem State.raise_steps (s : State) (t c : Nat) (fl : FpFlags) : (s.raise t c fl).steps = s.steps := rfl
@[simp] theorem State.raise_cur (s : State) (t c : Nat) (fl : FpFlags) : (s.raise t c fl).cur = s.cur := rfl

/-! ### send -/

@[simp] theorem State.send_variant (s : State) (r : FaultRecord) : (s.send r).variant = s.variant := rfl
@[simp] theorem State.send_phase (s : State) (r : FaultRecord) : (s.send r).phase = s.phase := rfl
@[simp] theorem State.send_bootCode (s : State) (r : FaultRecord) : (s.send r).bootCode = s.bootCode := rfl
@[simp] theorem State.send_bootCount (s : State) (r : FaultRecord) : (s.send r).bootCount = s.bootCount := rfl
@[simp] theorem State.send_mem (s : State) (r : FaultRecord) : (s.send r).mem = s.mem := rfl
@[simp] theorem State.send_tiles (s : State) (r : FaultRecord) : (s.send r).tiles = s.tiles := rfl
@[simp] theorem State.send_accesses (s : State) (r : FaultRecord) : (s.send r).accesses = s.accesses := rfl
@[simp] theorem State.send_nextAccess (s : State) (r : FaultRecord) : (s.send r).nextAccess = s.nextAccess := rfl
@[simp] theorem State.send_outstanding (s : State) (r : FaultRecord) : (s.send r).outstanding = s.outstanding := rfl
@[simp] theorem State.send_writers (s : State) (r : FaultRecord) : (s.send r).writers = s.writers := rfl
@[simp] theorem State.send_groups (s : State) (r : FaultRecord) : (s.send r).groups = s.groups := rfl
@[simp] theorem State.send_domains (s : State) (r : FaultRecord) : (s.send r).domains = s.domains := rfl
@[simp] theorem State.send_keySlots (s : State) (r : FaultRecord) : (s.send r).keySlots = s.keySlots := rfl
@[simp] theorem State.send_tlb (s : State) (r : FaultRecord) : (s.send r).tlb = s.tlb := rfl
@[simp] theorem State.send_invals (s : State) (r : FaultRecord) : (s.send r).invals = s.invals := rfl
@[simp] theorem State.send_nextInval (s : State) (r : FaultRecord) : (s.send r).nextInval = s.nextInval := rfl
@[simp] theorem State.send_lpddrGib (s : State) (r : FaultRecord) : (s.send r).lpddrGib = s.lpddrGib := rfl
@[simp] theorem State.send_cxlGib (s : State) (r : FaultRecord) : (s.send r).cxlGib = s.cxlGib := rfl
@[simp] theorem State.send_periods (s : State) (r : FaultRecord) : (s.send r).periods = s.periods := rfl
@[simp] theorem State.send_firstDctl (s : State) (r : FaultRecord) : (s.send r).firstDctl = s.firstDctl := rfl
@[simp] theorem State.send_thermalHalt (s : State) (r : FaultRecord) : (s.send r).thermalHalt = s.thermalHalt := rfl
@[simp] theorem State.send_faultQueues (s : State) (r : FaultRecord) : (s.send r).faultQueues = s.faultQueues := rfl
@[simp] theorem State.send_ports (s : State) (r : FaultRecord) : (s.send r).ports = s.ports := rfl
@[simp] theorem State.send_routers (s : State) (r : FaultRecord) : (s.send r).routers = s.routers := rfl
@[simp] theorem State.send_ringLevels (s : State) (r : FaultRecord) : (s.send r).ringLevels = s.ringLevels := rfl
@[simp] theorem State.send_ringOut (s : State) (r : FaultRecord) : (s.send r).ringOut = s.ringOut := rfl
@[simp] theorem State.send_imageCache (s : State) (r : FaultRecord) : (s.send r).imageCache = s.imageCache := rfl
@[simp] theorem State.send_library (s : State) (r : FaultRecord) : (s.send r).library = s.library := rfl
@[simp] theorem State.send_providerKeys (s : State) (r : FaultRecord) : (s.send r).providerKeys = s.providerKeys := rfl
@[simp] theorem State.send_pool (s : State) (r : FaultRecord) : (s.send r).pool = s.pool := rfl
@[simp] theorem State.send_nextEntry (s : State) (r : FaultRecord) : (s.send r).nextEntry = s.nextEntry := rfl
@[simp] theorem State.send_launches (s : State) (r : FaultRecord) : (s.send r).launches = s.launches := rfl
@[simp] theorem State.send_insts (s : State) (r : FaultRecord) : (s.send r).insts = s.insts := rfl
@[simp] theorem State.send_resolved (s : State) (r : FaultRecord) : (s.send r).resolved = s.resolved := rfl
@[simp] theorem State.send_sched (s : State) (r : FaultRecord) : (s.send r).sched = s.sched := rfl
@[simp] theorem State.send_halts (s : State) (r : FaultRecord) : (s.send r).halts = s.halts := rfl
@[simp] theorem State.send_spares (s : State) (r : FaultRecord) : (s.send r).spares = s.spares := rfl
@[simp] theorem State.send_sectorCe (s : State) (r : FaultRecord) : (s.send r).sectorCe = s.sectorCe := rfl
@[simp] theorem State.send_sectorUe (s : State) (r : FaultRecord) : (s.send r).sectorUe = s.sectorUe := rfl
@[simp] theorem State.send_replaceReq (s : State) (r : FaultRecord) : (s.send r).replaceReq = s.replaceReq := rfl
@[simp] theorem State.send_management (s : State) (r : FaultRecord) : (s.send r).management = s.management := rfl
@[simp] theorem State.send_heldMessages (s : State) (r : FaultRecord) : (s.send r).heldMessages = s.heldMessages := rfl
@[simp] theorem State.send_queues (s : State) (r : FaultRecord) : (s.send r).queues = s.queues := rfl
@[simp] theorem State.send_seqs (s : State) (r : FaultRecord) : (s.send r).seqs = s.seqs := rfl
@[simp] theorem State.send_requests (s : State) (r : FaultRecord) : (s.send r).requests = s.requests := rfl
@[simp] theorem State.send_joins (s : State) (r : FaultRecord) : (s.send r).joins = s.joins := rfl
@[simp] theorem State.send_messages (s : State) (r : FaultRecord) : (s.send r).messages = s.messages := rfl
@[simp] theorem State.send_peerOut (s : State) (r : FaultRecord) : (s.send r).peerOut = s.peerOut := rfl
@[simp] theorem State.send_fences (s : State) (r : FaultRecord) : (s.send r).fences = s.fences := rfl
@[simp] theorem State.send_moduleIndex (s : State) (r : FaultRecord) : (s.send r).moduleIndex = s.moduleIndex := rfl
@[simp] theorem State.send_stencils (s : State) (r : FaultRecord) : (s.send r).stencils = s.stencils := rfl
@[simp] theorem State.send_stencilCmds (s : State) (r : FaultRecord) : (s.send r).stencilCmds = s.stencilCmds := rfl
@[simp] theorem State.send_flash (s : State) (r : FaultRecord) : (s.send r).flash = s.flash := rfl
@[simp] theorem State.send_powered (s : State) (r : FaultRecord) : (s.send r).powered = s.powered := rfl
@[simp] theorem State.send_linkUp (s : State) (r : FaultRecord) : (s.send r).linkUp = s.linkUp := rfl
@[simp] theorem State.send_hostOut (s : State) (r : FaultRecord) : (s.send r).hostOut = s.hostOut := rfl
@[simp] theorem State.send_lathImages (s : State) (r : FaultRecord) : (s.send r).lathImages = s.lathImages := rfl
@[simp] theorem State.send_loaderStatus (s : State) (r : FaultRecord) : (s.send r).loaderStatus = s.loaderStatus := rfl
@[simp] theorem State.send_attestError (s : State) (r : FaultRecord) : (s.send r).attestError = s.attestError := rfl
@[simp] theorem State.send_flush (s : State) (r : FaultRecord) : (s.send r).flush = s.flush := rfl
@[simp] theorem State.send_mscHits (s : State) (r : FaultRecord) : (s.send r).mscHits = s.mscHits := rfl
@[simp] theorem State.send_mscMisses (s : State) (r : FaultRecord) : (s.send r).mscMisses = s.mscMisses := rfl
@[simp] theorem State.send_sectorEnergy (s : State) (r : FaultRecord) : (s.send r).sectorEnergy = s.sectorEnergy := rfl
@[simp] theorem State.send_refills (s : State) (r : FaultRecord) : (s.send r).refills = s.refills := rfl
@[simp] theorem State.send_cycleBase (s : State) (r : FaultRecord) : (s.send r).cycleBase = s.cycleBase := rfl
@[simp] theorem State.send_nsAdded (s : State) (r : FaultRecord) : (s.send r).nsAdded = s.nsAdded := rfl
@[simp] theorem State.send_nsFloor (s : State) (r : FaultRecord) : (s.send r).nsFloor = s.nsFloor := rfl
@[simp] theorem State.send_lastSlew (s : State) (r : FaultRecord) : (s.send r).lastSlew = s.lastSlew := rfl
@[simp] theorem State.send_timeJoined (s : State) (r : FaultRecord) : (s.send r).timeJoined = s.timeJoined := rfl
@[simp] theorem State.send_ticks (s : State) (r : FaultRecord) : (s.send r).ticks = s.ticks := rfl
@[simp] theorem State.send_agenda (s : State) (r : FaultRecord) : (s.send r).agenda = s.agenda := rfl
@[simp] theorem State.send_free (s : State) (r : FaultRecord) : (s.send r).free = s.free := rfl
@[simp] theorem State.send_steps (s : State) (r : FaultRecord) : (s.send r).steps = s.steps := rfl
@[simp] theorem State.send_cur (s : State) (r : FaultRecord) : (s.send r).cur = s.cur := rfl

/-! ### haltCtx -/

@[simp] theorem State.haltCtx_variant (s : State) (t c k : Nat) (fi : FaultInfo) : (s.haltCtx t c k fi).variant = s.variant := rfl
@[simp] theorem State.haltCtx_phase (s : State) (t c k : Nat) (fi : FaultInfo) : (s.haltCtx t c k fi).phase = s.phase := rfl
@[simp] theorem State.haltCtx_bootCode (s : State) (t c k : Nat) (fi : FaultInfo) : (s.haltCtx t c k fi).bootCode = s.bootCode := rfl
@[simp] theorem State.haltCtx_bootCount (s : State) (t c k : Nat) (fi : FaultInfo) : (s.haltCtx t c k fi).bootCount = s.bootCount := rfl
@[simp] theorem State.haltCtx_mem (s : State) (t c k : Nat) (fi : FaultInfo) : (s.haltCtx t c k fi).mem = s.mem := rfl
@[simp] theorem State.haltCtx_accesses (s : State) (t c k : Nat) (fi : FaultInfo) : (s.haltCtx t c k fi).accesses = s.accesses := rfl
@[simp] theorem State.haltCtx_nextAccess (s : State) (t c k : Nat) (fi : FaultInfo) : (s.haltCtx t c k fi).nextAccess = s.nextAccess := rfl
@[simp] theorem State.haltCtx_outstanding (s : State) (t c k : Nat) (fi : FaultInfo) : (s.haltCtx t c k fi).outstanding = s.outstanding := rfl
@[simp] theorem State.haltCtx_writers (s : State) (t c k : Nat) (fi : FaultInfo) : (s.haltCtx t c k fi).writers = s.writers := rfl
@[simp] theorem State.haltCtx_groups (s : State) (t c k : Nat) (fi : FaultInfo) : (s.haltCtx t c k fi).groups = s.groups := rfl
@[simp] theorem State.haltCtx_domains (s : State) (t c k : Nat) (fi : FaultInfo) : (s.haltCtx t c k fi).domains = s.domains := rfl
@[simp] theorem State.haltCtx_keySlots (s : State) (t c k : Nat) (fi : FaultInfo) : (s.haltCtx t c k fi).keySlots = s.keySlots := rfl
@[simp] theorem State.haltCtx_tlb (s : State) (t c k : Nat) (fi : FaultInfo) : (s.haltCtx t c k fi).tlb = s.tlb := rfl
@[simp] theorem State.haltCtx_invals (s : State) (t c k : Nat) (fi : FaultInfo) : (s.haltCtx t c k fi).invals = s.invals := rfl
@[simp] theorem State.haltCtx_nextInval (s : State) (t c k : Nat) (fi : FaultInfo) : (s.haltCtx t c k fi).nextInval = s.nextInval := rfl
@[simp] theorem State.haltCtx_lpddrGib (s : State) (t c k : Nat) (fi : FaultInfo) : (s.haltCtx t c k fi).lpddrGib = s.lpddrGib := rfl
@[simp] theorem State.haltCtx_cxlGib (s : State) (t c k : Nat) (fi : FaultInfo) : (s.haltCtx t c k fi).cxlGib = s.cxlGib := rfl
@[simp] theorem State.haltCtx_periods (s : State) (t c k : Nat) (fi : FaultInfo) : (s.haltCtx t c k fi).periods = s.periods := rfl
@[simp] theorem State.haltCtx_firstDctl (s : State) (t c k : Nat) (fi : FaultInfo) : (s.haltCtx t c k fi).firstDctl = s.firstDctl := rfl
@[simp] theorem State.haltCtx_thermalHalt (s : State) (t c k : Nat) (fi : FaultInfo) : (s.haltCtx t c k fi).thermalHalt = s.thermalHalt := rfl
@[simp] theorem State.haltCtx_faultQueues (s : State) (t c k : Nat) (fi : FaultInfo) : (s.haltCtx t c k fi).faultQueues = s.faultQueues := rfl
@[simp] theorem State.haltCtx_ports (s : State) (t c k : Nat) (fi : FaultInfo) : (s.haltCtx t c k fi).ports = s.ports := rfl
@[simp] theorem State.haltCtx_routers (s : State) (t c k : Nat) (fi : FaultInfo) : (s.haltCtx t c k fi).routers = s.routers := rfl
@[simp] theorem State.haltCtx_ringLevels (s : State) (t c k : Nat) (fi : FaultInfo) : (s.haltCtx t c k fi).ringLevels = s.ringLevels := rfl
@[simp] theorem State.haltCtx_ringOut (s : State) (t c k : Nat) (fi : FaultInfo) : (s.haltCtx t c k fi).ringOut = s.ringOut := rfl
@[simp] theorem State.haltCtx_imageCache (s : State) (t c k : Nat) (fi : FaultInfo) : (s.haltCtx t c k fi).imageCache = s.imageCache := rfl
@[simp] theorem State.haltCtx_library (s : State) (t c k : Nat) (fi : FaultInfo) : (s.haltCtx t c k fi).library = s.library := rfl
@[simp] theorem State.haltCtx_providerKeys (s : State) (t c k : Nat) (fi : FaultInfo) : (s.haltCtx t c k fi).providerKeys = s.providerKeys := rfl
@[simp] theorem State.haltCtx_pool (s : State) (t c k : Nat) (fi : FaultInfo) : (s.haltCtx t c k fi).pool = s.pool := rfl
@[simp] theorem State.haltCtx_nextEntry (s : State) (t c k : Nat) (fi : FaultInfo) : (s.haltCtx t c k fi).nextEntry = s.nextEntry := rfl
@[simp] theorem State.haltCtx_launches (s : State) (t c k : Nat) (fi : FaultInfo) : (s.haltCtx t c k fi).launches = s.launches := rfl
@[simp] theorem State.haltCtx_insts (s : State) (t c k : Nat) (fi : FaultInfo) : (s.haltCtx t c k fi).insts = s.insts := rfl
@[simp] theorem State.haltCtx_resolved (s : State) (t c k : Nat) (fi : FaultInfo) : (s.haltCtx t c k fi).resolved = s.resolved := rfl
@[simp] theorem State.haltCtx_sched (s : State) (t c k : Nat) (fi : FaultInfo) : (s.haltCtx t c k fi).sched = s.sched := rfl
@[simp] theorem State.haltCtx_halts (s : State) (t c k : Nat) (fi : FaultInfo) : (s.haltCtx t c k fi).halts = s.halts := rfl
@[simp] theorem State.haltCtx_spares (s : State) (t c k : Nat) (fi : FaultInfo) : (s.haltCtx t c k fi).spares = s.spares := rfl
@[simp] theorem State.haltCtx_sectorCe (s : State) (t c k : Nat) (fi : FaultInfo) : (s.haltCtx t c k fi).sectorCe = s.sectorCe := rfl
@[simp] theorem State.haltCtx_sectorUe (s : State) (t c k : Nat) (fi : FaultInfo) : (s.haltCtx t c k fi).sectorUe = s.sectorUe := rfl
@[simp] theorem State.haltCtx_replaceReq (s : State) (t c k : Nat) (fi : FaultInfo) : (s.haltCtx t c k fi).replaceReq = s.replaceReq := rfl
@[simp] theorem State.haltCtx_management (s : State) (t c k : Nat) (fi : FaultInfo) : (s.haltCtx t c k fi).management = s.management := rfl
@[simp] theorem State.haltCtx_heldMessages (s : State) (t c k : Nat) (fi : FaultInfo) : (s.haltCtx t c k fi).heldMessages = s.heldMessages := rfl
@[simp] theorem State.haltCtx_queues (s : State) (t c k : Nat) (fi : FaultInfo) : (s.haltCtx t c k fi).queues = s.queues := rfl
@[simp] theorem State.haltCtx_seqs (s : State) (t c k : Nat) (fi : FaultInfo) : (s.haltCtx t c k fi).seqs = s.seqs := rfl
@[simp] theorem State.haltCtx_requests (s : State) (t c k : Nat) (fi : FaultInfo) : (s.haltCtx t c k fi).requests = s.requests := rfl
@[simp] theorem State.haltCtx_joins (s : State) (t c k : Nat) (fi : FaultInfo) : (s.haltCtx t c k fi).joins = s.joins := rfl
@[simp] theorem State.haltCtx_messages (s : State) (t c k : Nat) (fi : FaultInfo) : (s.haltCtx t c k fi).messages = s.messages := rfl
@[simp] theorem State.haltCtx_peerOut (s : State) (t c k : Nat) (fi : FaultInfo) : (s.haltCtx t c k fi).peerOut = s.peerOut := rfl
@[simp] theorem State.haltCtx_fences (s : State) (t c k : Nat) (fi : FaultInfo) : (s.haltCtx t c k fi).fences = s.fences := rfl
@[simp] theorem State.haltCtx_moduleIndex (s : State) (t c k : Nat) (fi : FaultInfo) : (s.haltCtx t c k fi).moduleIndex = s.moduleIndex := rfl
@[simp] theorem State.haltCtx_stencils (s : State) (t c k : Nat) (fi : FaultInfo) : (s.haltCtx t c k fi).stencils = s.stencils := rfl
@[simp] theorem State.haltCtx_stencilCmds (s : State) (t c k : Nat) (fi : FaultInfo) : (s.haltCtx t c k fi).stencilCmds = s.stencilCmds := rfl
@[simp] theorem State.haltCtx_flash (s : State) (t c k : Nat) (fi : FaultInfo) : (s.haltCtx t c k fi).flash = s.flash := rfl
@[simp] theorem State.haltCtx_powered (s : State) (t c k : Nat) (fi : FaultInfo) : (s.haltCtx t c k fi).powered = s.powered := rfl
@[simp] theorem State.haltCtx_linkUp (s : State) (t c k : Nat) (fi : FaultInfo) : (s.haltCtx t c k fi).linkUp = s.linkUp := rfl
@[simp] theorem State.haltCtx_hostOut (s : State) (t c k : Nat) (fi : FaultInfo) : (s.haltCtx t c k fi).hostOut = s.hostOut := rfl
@[simp] theorem State.haltCtx_lathImages (s : State) (t c k : Nat) (fi : FaultInfo) : (s.haltCtx t c k fi).lathImages = s.lathImages := rfl
@[simp] theorem State.haltCtx_loaderStatus (s : State) (t c k : Nat) (fi : FaultInfo) : (s.haltCtx t c k fi).loaderStatus = s.loaderStatus := rfl
@[simp] theorem State.haltCtx_attestError (s : State) (t c k : Nat) (fi : FaultInfo) : (s.haltCtx t c k fi).attestError = s.attestError := rfl
@[simp] theorem State.haltCtx_flush (s : State) (t c k : Nat) (fi : FaultInfo) : (s.haltCtx t c k fi).flush = s.flush := rfl
@[simp] theorem State.haltCtx_mscHits (s : State) (t c k : Nat) (fi : FaultInfo) : (s.haltCtx t c k fi).mscHits = s.mscHits := rfl
@[simp] theorem State.haltCtx_mscMisses (s : State) (t c k : Nat) (fi : FaultInfo) : (s.haltCtx t c k fi).mscMisses = s.mscMisses := rfl
@[simp] theorem State.haltCtx_sectorEnergy (s : State) (t c k : Nat) (fi : FaultInfo) : (s.haltCtx t c k fi).sectorEnergy = s.sectorEnergy := rfl
@[simp] theorem State.haltCtx_refills (s : State) (t c k : Nat) (fi : FaultInfo) : (s.haltCtx t c k fi).refills = s.refills := rfl
@[simp] theorem State.haltCtx_cycleBase (s : State) (t c k : Nat) (fi : FaultInfo) : (s.haltCtx t c k fi).cycleBase = s.cycleBase := rfl
@[simp] theorem State.haltCtx_nsAdded (s : State) (t c k : Nat) (fi : FaultInfo) : (s.haltCtx t c k fi).nsAdded = s.nsAdded := rfl
@[simp] theorem State.haltCtx_nsFloor (s : State) (t c k : Nat) (fi : FaultInfo) : (s.haltCtx t c k fi).nsFloor = s.nsFloor := rfl
@[simp] theorem State.haltCtx_lastSlew (s : State) (t c k : Nat) (fi : FaultInfo) : (s.haltCtx t c k fi).lastSlew = s.lastSlew := rfl
@[simp] theorem State.haltCtx_timeJoined (s : State) (t c k : Nat) (fi : FaultInfo) : (s.haltCtx t c k fi).timeJoined = s.timeJoined := rfl
@[simp] theorem State.haltCtx_ticks (s : State) (t c k : Nat) (fi : FaultInfo) : (s.haltCtx t c k fi).ticks = s.ticks := rfl
@[simp] theorem State.haltCtx_agenda (s : State) (t c k : Nat) (fi : FaultInfo) : (s.haltCtx t c k fi).agenda = s.agenda := rfl
@[simp] theorem State.haltCtx_free (s : State) (t c k : Nat) (fi : FaultInfo) : (s.haltCtx t c k fi).free = s.free := rfl
@[simp] theorem State.haltCtx_steps (s : State) (t c k : Nat) (fi : FaultInfo) : (s.haltCtx t c k fi).steps = s.steps := rfl
@[simp] theorem State.haltCtx_cur (s : State) (t c k : Nat) (fi : FaultInfo) : (s.haltCtx t c k fi).cur = s.cur := rfl

end Sys2Proof.Machine
end

