-- ==== Sys2Proof/Tests/Slice0.lean ====
section
/-! SUPPORT. Tests of the model: words and their fields, the checks of well-formedness, single steps, and for each statement states and operands that meet its hypotheses. Expected
values are the spec's own examples or are worked out by hand from the rule named. -/

namespace Sys2Proof.Tests

open Sys2Proof Sys2Proof.Machine

set_option Elab.async false

/-! ### Building small cases -/

/-- A slot with every field zero. -/
def blank : Slot :=
  { pmask := 0, pval := 0, quant := false, q0 := .none, q1 := .none, ty := .none, pk := false, dst := .none, sa := .none, sb := .none, sc := .none,
    predReg := 0, predOp := .none, adv := 0, imm := 0 }

/-- An operand that a position takes; data sources are d0, d1 and d2, the destination is d3. -/
def operand (k : Fin 8) : Pos → Opnd
  | .unused => .none
  | .source => .d k
  | .address => .d k
  | .offset => .d k
  | .pred => .p k
  | .inEp => .i 0
  | .token => .i 0
  | .condIn => .ci 0
  | .dest => .d 3
  | .predDest => .p 3
  | .regDest => .d 3
  | .outEp => .o 0
  | .outNul => .nul
  | .condOut => .co 0

/-- A type of a class. -/
def aType : TyClass → Ty
  | .n => .none
  | .w => .s32
  | .s => .s32
  | .z => .z32
  | .wf => .s32
  | .f => .f32
  | .m => .bf16
  | .p => .s16
  | .a => .z32
  | .z64 => .z64
  | .f32 => .f32
  | .fb => .f32
  | .noi => .z32

/-- An instruction of a constructor with an immediate, its other fields as its line of the opcode map wants them. -/
def sample (mk : Slot → Instr) (imm : Nat := 0) : Instr :=
  match toCode (mk blank) with
  | none => mk blank
  | some (opc, sub, _) =>
    match opRow opc sub with
    | none => mk blank
    | some row =>
      mk { blank with ty := aType row.types, dst := operand 3 row.d, sa := if opc = 0x81 ∧ sub = 2 ∧ imm % 4 ≠ 1 then .zr else operand 0 row.a, sb := operand 1 row.b, sc := operand 2 row.c, imm := BitVec.ofNat 32 imm }

/-- A word decodes to an instruction. -/
def readsAs (w : SlotWord) (i : Instr) : Bool :=
  match decode w with
  | .ok j => j == i
  | .error _ => false

/-- A word is refused with a status. -/
def refusedAs (w : SlotWord) (st : LoadStatus) : Bool :=
  match decode w with
  | .ok _ => false
  | .error e => e == st

/-- A beat of a payload. -/
def beat (payload : V512) : Beat := { payload := payload, mask := 0xFFFF, tag := 0, vc := 0, poison := false }

/-- The context of the cases: privileged, with endpoints 0 bound to links, a beat and a condition token waiting. -/
def testCtx (d0 d1 d2 : V512) : Ctx :=
  let w : CtxWord :=
    { CtxWord.clean with
      valid := true, priv := true, slots := 1, ibind := set8 CtxWord.clean.ibind 0 (.link 0 0), obind := set8 CtxWord.clean.obind 0 (.link 0 0),
      cibind := set4 CtxWord.clean.cibind 0 (some 0), cobind := set4 CtxWord.clean.cobind 0 (some 0) }
  let c := Ctx.loaded w []
  { c with d := set8 (set8 (set8 c.d 0 d0) 1 d1) 2 d2, p := set8 c.p 1 0x00FF, ins := set8 c.ins 0 [beat 5], cins := set4 c.cins 0 [true] }

/-- The state of the cases: the device is ready, domain 0 owns the module, and the cursor is at slot 0 of the context of tile 0. -/
def ready (d0 d1 d2 : V512 := 0) : State :=
  let s := State.reset.setDomain 0 { State.reset.domain 0 with shape := ⟨0, 0, 4, 4⟩ }
  { s.setCtx 0 0 (testCtx d0 d1 d2) with phase := 8 }

/-- A well-formed instruction that fires in a state, with a firing that meets a condition. -/
def meets (s : State) (i : Instr) (p : Firing → Bool := fun _ => true) : Bool := i.wf && (s.firingOf i).any p

/-- The instructions of a list each fire in a state. -/
def allFire (s : State) (is : List Instr) : Bool := is.all fun i => meets s i

/-- The state after an instruction. -/
def after (i : Instr) (s : State) : State :=
  match exec i s with
  | .next t => t
  | _ => s

/-- Bytes at places of an image: (offset, length, value). -/
def placed (xs : List (Nat × Nat × Nat)) : Nat := xs.foldl (fun acc x => acc + x.2.2 % 2 ^ (8 * x.2.1) * 2 ^ (8 * x.1)) 0

/-! ### Words of the spec's worked encodings -/

theorem test_word_fadd : readsAs 0x00000000004000962008100000430202#128 (.fadd { blank with
    pmask := 2, pval := 2, quant := true, q0 := .beats 0 1, ty := .f32, dst := .o 0, sa := .i 0, sb := .d 1, adv := 1 }) = true := by decide +kernel

/-- R141's example. -/
theorem test_word_adds : readsAs 0x00000000008B01920A490800004A0000#128 (.adds { blank with
    q0 := .beats 1 1, ty := .s32, dst := .d 2, sa := .d 0, sb := .i 1, predReg := 3, predOp := .set, adv := 2 }) = true := by decide +kernel

theorem test_word_chn : readsAs 0x00000010000028120F00138000000101#128 (.chn { blank with
    pmask := 1, pval := 1, dst := .d 7, sa := .d 0, sb := .zr, sc := .d 2, imm := 0x10 }) = true := by decide +kernel

theorem test_word_mrow : readsAs 0x00000005004000060002180000420000#128 (.mrow { blank with q0 := .beats 0 1, sa := .i 0, adv := 1, imm := 5 }) = true := by decide +kernel

theorem test_word_ldw : readsAs 0x00000000004001828809280000420000#128 (.ldw { blank with
    q0 := .beats 0 1, ty := .f32, dst := .d 0, sa := .d 2, sb := .i 0, adv := 1 }) = true := by decide +kernel

theorem test_word_hcpy : readsAs 0x0000000100000002CE00300000000000#128 (.hcpy { blank with dst := .d 6, sa := .d 3, imm := 1 }) = true := by decide +kernel

theorem test_word_cnxt : readsAs 0x00000010000E00002000A20000440101#128 (.cnxt { blank with
    pmask := 1, pval := 1, q0 := .free 0 1, dst := .o 0, predReg := 6, predOp := .set, imm := 0x10 }) = true := by decide +kernel

theorem test_word_creq : readsAs 0x00000001000000024D00400000000404#128 (.creq { blank with pmask := 4, pval := 4, dst := .d 5, sa := .d 1, imm := 1 }) = true := by decide +kernel

theorem test_word_gmsk : readsAs 0x00000000000000B28E01380000001010#128 (.gmsk { blank with
    pmask := 16, pval := 16, dst := .d 6, sa := .d 2, sb := .d 3 }) = true := by decide +kernel

theorem test_word_tlbir : readsAs 0x00000000000000920C00408000000202#128 (.tlbir { blank with pmask := 2, pval := 2, dst := .d 4, sa := .d 0, sb := .d 1 }) = true := by decide +kernel

theorem test_word_trap : readsAs 0x0000002A000000000002000000002020#128 (.trap { blank with pmask := 0x20, pval := 0x20, imm := 0x2A }) = true := by decide +kernel

theorem test_word_qapp : readsAs 0x00000000000A00920A00310000010206#128 (.qapp { blank with
    pmask := 6, pval := 2, quant := true, dst := .d 2, sa := .d 0, sb := .d 1, predReg := 2, predOp := .set }) = true := by decide +kernel

theorem test_word_st : readsAs 0x00000000004A01820A68A80000430206#128 (.st { blank with
    pmask := 6, pval := 2, quant := true, q0 := .beats 0 1, ty := .z32, dst := .d 2, sa := .d 0, sb := .i 0, predReg := 2, predOp := .set, adv := 1 }) = true := by decide +kernel

/-! ### Words of the other families, put together from the fields of R37: OPC at 39, SUB at 47, TYPE at 51, DST at 56, SA at 62, SB at 68, SC at 74, IMM at 96 -/

/-- A word of these fields. -/
def wordOf (opc sub ty dst sa sb sc imm : Nat) : SlotWord :=
  BitVec.ofNat 128 (opc * 2 ^ 39 + sub * 2 ^ 47 + ty * 2 ^ 51 + dst * 2 ^ 56 + sa * 2 ^ 62 + sb * 2 ^ 68 + sc * 2 ^ 74 + imm * 2 ^ 96)

theorem test_words_integer :
    readsAs (wordOf 0x11 3 9 0x08 0x09 0x0A 0x0B 0) (.mad { blank with ty := .s32, dst := .d 0, sa := .d 1, sb := .d 2, sc := .d 3 }) = true ∧
    readsAs (wordOf 0x12 1 13 0x08 0x09 0x0A 0 0) (.divz { blank with ty := .z32, dst := .d 0, sa := .d 1, sb := .d 2 }) = true ∧
    readsAs (wordOf 0x13 0 9 0x08 0x09 0x0A 0 0) (.min { blank with ty := .s32, dst := .d 0, sa := .d 1, sb := .d 2 }) = true ∧
    readsAs (wordOf 0x14 4 13 0x08 0x09 0x0A 0 0) (.andn { blank with ty := .z32, dst := .d 0, sa := .d 1, sb := .d 2 }) = true ∧
    readsAs (wordOf 0x15 1 13 0x09 0x08 0x02 0 8) (.shr { blank with ty := .z32, dst := .d 1, sa := .d 0, sb := .imm, imm := 8 }) = true ∧
    readsAs (wordOf 0x16 2 13 0x09 0x08 0 0 0) (.brev { blank with ty := .z32, dst := .d 1, sa := .d 0 }) = true ∧
    readsAs (wordOf 0x17 0 13 0x09 0x08 0 0 (4 + 8 * 64)) (.bfx { blank with ty := .z32, dst := .d 1, sa := .d 0, imm := 4 + 8 * 64 }) = true ∧
    readsAs (wordOf 0x18 2 9 0x13 0x08 0x09 0 0) (.cmplt { blank with ty := .s32, dst := .p 3, sa := .d 0, sb := .d 1 }) = true ∧
    readsAs (wordOf 0x19 3 14 0x0C 0x08 0x09 0 0xFFFFC003) (.lea { blank with ty := .z64, dst := .d 4, sa := .d 0, sb := .d 1, imm := 0xFFFFC003 }) = true ∧
    readsAs (wordOf 0x1A 3 13 0x0C 0x09 0 0 4) (.scan { blank with ty := .z32, dst := .d 4, sa := .d 1, imm := 4 }) = true ∧
    readsAs (wordOf 0x1B 0 13 0x0D 0x09 0 0 0) (.redadd { blank with ty := .z32, dst := .d 5, sa := .d 1 }) = true := by decide +kernel

theorem test_words_float :
    readsAs (wordOf 0x21 1 1 0x08 0x09 0 0 0) (.fsqrt { blank with ty := .f32, dst := .d 0, sa := .d 1 }) = true ∧
    readsAs (wordOf 0x22 1 1 0x13 0x08 0x09 0 0) (.fcmplt { blank with ty := .f32, dst := .p 3, sa := .d 0, sb := .d 1 }) = true ∧
    readsAs (wordOf 0x23 3 1 0x08 0x09 0 0 0) (.fsig { blank with ty := .f32, dst := .d 0, sa := .d 1 }) = true ∧
    readsAs (wordOf 0x24 1 2 0x08 0x09 0 0 0) (.cvt .f32 { blank with ty := .bf16, dst := .d 0, sa := .d 1 }) = true ∧
    readsAs (wordOf 0x25 2 2 0x08 0x09 0x0A 0 0) (.pack { blank with ty := .bf16, dst := .d 0, sa := .d 1, sb := .d 2 }) = true ∧
    readsAs (wordOf 0x26 0 0 0x0B 0 0 0 0x3F) (.fflg { blank with dst := .d 3, imm := 0x3F }) = true ∧
    readsAs (wordOf 0x27 1 0 0x05 0 0 0 0) (.chnw { blank with dst := .nul }) = true := by decide +kernel

theorem test_words_control :
    readsAs (wordOf 0x31 1 0 0 0x08 0x09 0 1) (.skim { blank with sa := .d 0, sb := .d 1, imm := 1 }) = true ∧
    readsAs (wordOf 0x40 2 0 0x12 0x12 0x13 0 0) (.pand { blank with dst := .p 2, sa := .p 2, sb := .p 3 }) = true ∧
    readsAs (wordOf 0x41 0 0 0x20 0x08 0x11 0x21 0) (.steer { blank with dst := .o 0, sa := .d 0, sb := .p 1, sc := .o 1 }) = true ∧
    readsAs (wordOf 0x42 1 0 0x14 0x2A 0 0 0) (.crcv { blank with dst := .p 4, sa := .ci 2 }) = true ∧
    readsAs (wordOf 0x43 5 0 0x23 0 0 0 6) (.tagset { blank with dst := .o 3, imm := 6 }) = true ∧
    readsAs (wordOf 0x51 2 13 0x05 0x08 0x09 0 0) (.stfe { blank with ty := .z32, dst := .nul, sa := .d 0, sb := .d 1 }) = true ∧
    readsAs (wordOf 0x52 7 14 0x08 0x09 0x0A 0x0B 0) (.acas { blank with ty := .z64, dst := .d 0, sa := .d 1, sb := .d 2, sc := .d 3 }) = true ∧
    readsAs (wordOf 0x53 5 0 0x08 0 0 0 0) (.wnul { blank with dst := .d 0 }) = true ∧
    readsAs (wordOf 0x54 0 0 0x08 0 0 0 0) (.fenceD { blank with dst := .d 0 }) = true ∧
    readsAs (wordOf 0x61 3 0 0x08 0 0 0 0) (.nfen { blank with dst := .d 0 }) = true ∧
    readsAs (wordOf 0x81 2 0 0 0x08 0x09 0 1) (.ksltLoad { blank with sa := .d 0, sb := .d 1, imm := 1 }) = true ∧
    readsAs (wordOf 0x81 3 0 0 0x08 0 0 3) (.dctlSwitch { blank with sa := .d 0, imm := 3 }) = true ∧
    readsAs (wordOf 0x82 0 0 0x08 0 0 0 2) (.ecnt { blank with dst := .d 0, imm := 2 }) = true ∧
    readsAs (wordOf 0x83 0 0 0x08 0x09 0 0 0) (.frec { blank with dst := .d 0, sa := .d 1 }) = true := by decide +kernel

/-! ### Words and terms that are refused, one for each check -/

/-- R71: reserved bits, and pairs that the map does not give. -/
theorem test_refused_word : refusedAs 0x400000000000000000000000#128 .reservedBit = true ∧ refusedAs (wordOf 0x10 6 9 0x08 0x09 0x0A 0 0) .undefOpcode = true ∧
    refusedAs (wordOf 0x0F 0 0 0 0 0 0 0) .undefOpcode = true := by decide +kernel

/-- R39, R47: codes with no operand or condition. -/
theorem test_refused_codes : refusedAs (wordOf 0x10 0 9 0x3F 0x08 0x09 0 0) .badOperand = true ∧
    refusedAs (wordOf 0 0 0 0 0 0 0 0 + BitVec.ofNat 128 (3 * 2 ^ 17 + 8 * 2 ^ 22)) .badGuard = true ∧
    refusedAs (wordOf 0 0 0 0 0 0 0 0 + BitVec.ofNat 128 (1 * 2 ^ 22)) .badGuard = true := by decide +kernel

theorem test_illFormed_type : (sample (fun f => .add { f with ty := .f32 })).wf = false ∧ (sample (fun f => .abs { f with ty := .z32 })).wf = false ∧
    (sample (fun f => .cvt .f32 { f with ty := .f32 })).wf = false := by decide +kernel

/-- R48, R49, R69, R211: PRED_REG without an update, PK where it may not stand, an update without a destination, the ADV bit of SKQ's endpoint. -/
theorem test_illFormed_form : (sample (fun f => .add { f with predReg := 3 })).wf = false ∧ (sample (fun f => .add { f with pk := true })).wf = false ∧
    (sample (fun f => .nop { f with predOp := .set })).wf = false ∧ (sample (fun f => .skq { f with adv := 1 })).wf = false ∧
    (sample (fun f => .tagset { f with predOp := .set })).wf = false := by decide +kernel

/-- R39, R40, R42, R49, R135, R256: operands out of place. -/
theorem test_illFormed_operand : (sample (fun f => .add { f with sa := .none })).wf = false ∧ (sample (fun f => .add { f with sc := .d 0 })).wf = false ∧
    (sample (fun f => .add { f with sa := .htag })).wf = false ∧ (sample (fun f => .cmpeq { f with predOp := .set, predReg := 3 })).wf = false ∧
    (sample (fun f => .ld { f with sa := .imm })).wf = false ∧ (sample (fun f => .chn { f with dst := .o 0, imm := 16 })).wf = false := by decide +kernel

/-- R334, R335: STEER to one endpoint twice, MERGE of one endpoint with itself. -/
theorem test_illFormed_choice : (sample (fun f => .steer { f with dst := .o 1, sc := .o 1 })).wf = false ∧
    (sample (fun f => .merge { f with sa := .i 2, sb := .i 2 })).wf = false := by decide +kernel

/-- R138: parameters out of range, and an immediate that nothing reads. -/
theorem test_illFormed_imm : (sample .bfx (30 + 4 * 64)).wf = false ∧ (sample .bcst 16).wf = false ∧ (sample .add 1).wf = false ∧ (sample .frnd 5).wf = false ∧
    (sample .ccfg (5 * 4)).wf = false ∧ (sample .advc 0).wf = false ∧ (sample .mclr (127 + 2 * 128)).wf = false := by decide +kernel

/-- R72: a predicate value outside the mask, a condition of no beats. -/
theorem test_illFormed_guard : (sample (fun f => .nop { f with pmask := 1, pval := 2 })).wf = false ∧ (sample (fun f => .nop { f with q0 := .beats 0 0 })).wf = false := by
  decide +kernel

/-- An instruction under another's immediate (R456, R458). -/
theorem test_illFormed_pair : (sample .ksltLoad 0).wf = false ∧ (sample .dctlSwitch 2).wf = false ∧ (sample .creqReplace 0).wf = false := by decide +kernel


/-! ### Steps -/

/-- The context of tile 0 after one step that fires a word after reset satisfies a condition. -/
def stepCtx (w : SlotWord) (p : Ctx → Bool) : Bool :=
  match step (State.reset.withFetchWord 128 w.toNat) with
  | .next t => p (t.ctx 0 0)
  | _ => false

/-- MOVI.z32 d2, 7 (R151). -/
theorem test_step_movi : stepCtx (wordOf 0x19 1 13 0x0A 0 0 0 7) (fun c => lane 32 (at8 c.d 2) 15 == 7) = true := by decide +kernel

/-- TRAP code=0x2A halts its context (R477). -/
theorem test_step_trap : stepCtx (wordOf 0 4 0 0 0 0 0 0x2A) (fun c => c.run == .halted && (c.halt.map fun h : HaltInfo => h.cls) == some 15) = true := by decide +kernel

/-- A load of an address that no page table maps halts its context with the translation fault MISS (R449, R468). -/
theorem test_step_ld_unmapped : stepCtx (wordOf 0x50 0 13 0x08 0x09 0x01 0 0)
    (fun c => c.run == .halted && (c.halt.map fun h : HaltInfo => (h.cls, h.cause)) == some (4, 1)) = true := by decide +kernel

/-- The hypotheses of StepRunsDecoded: an element whose arbiter picks a slot that decodes, an element with nothing eligible, an event. -/
theorem witness_StepRunsDecoded :
    (let s := (State.reset.withFetchWord 128 0).takeTurn
     s.1 = .element 0 ∧ ((s.2.wake 0).useWitnesses 0).arbitrate 0 = some (0, 0) ∧ (match ((s.2.wake 0).useWitnesses 0).slotInstr 0 0 0 with | .ok i => i == .nop blank | .error _ => false) = true) ∧
    (let s := { State.reset with agenda := [.element 0] }.takeTurn
     s.1 = .element 0 ∧ ((s.2.wake 0).useWitnesses 0).arbitrate 0 = none) ∧
    { ready with agenda := [.event .hostLinkEnumeration] }.takeTurn.1 = .event .hostLinkEnumeration := by decide +kernel

theorem witness_WordsDecode : bits (BitVec.ofNat 128 (2 ^ 94)).toNat 94 2 ≠ 0 := by decide +kernel

theorem witness_EncodedInstructionDecodes : (sample .add).wf = true ∧ (encode (sample .add)).isSome = true ∧ (sample .frsmKill).wf = true ∧
    (encode (sample .frsmKill)).isSome = true ∧ (sample .ksltLoad 1).wf = true ∧ (encode (sample .ksltLoad 1)).isSome = true := by decide +kernel

theorem witness_DecodedWordEncodes : readsAs 0x00000000004000962008100000430202#128 (.fadd { blank with
    pmask := 2, pval := 2, quant := true, q0 := .beats 0 1, ty := .f32, dst := .o 0, sa := .i 0, sb := .d 1, adv := 1 }) = true := by decide +kernel

/-- The invariant holds at reset, and a step from there has a next state. -/
theorem witness_StepKeepsInvariant : (State.reset.withFetchWord 128 0).inv = true ∧
    (match step (State.reset.withFetchWord 128 0) with | .next _ => true | _ => false) = true := by decide +kernel

/-! ### Eligibility and faults -/

/-- The parts of an instruction's slot: its fields and its line of the map. -/
def parts (i : Instr) : Option (OpRow × Slot) :=
  match toCode i with
  | none => none
  | some (opc, sub, f) => (opRow opc sub).map fun r => (r, f)

def isReady (s : State) (i : Instr) : Bool := (parts i).any fun p => readyCommon i p.1 p.2 s 0 0 0 && readyOwn i s 0 0 0

/-- A queue condition that does not hold; an instruction whose own condition does not; and each reason why nothing fires. -/
theorem witness_IneligibleSlotWaits :
    isReady ready (sample fun f => .nop { f with q0 := .beats 1 1 }) = false ∧ isReady ready (sample .cnxt) = false ∧
    ((ready.setCtx 0 0 { ready.ctx 0 0 with run := .retired }).ctx 0 0).run ≠ .runnable ∧ (ready.ctx 0 1).word.valid = false ∧
    ((ready.setCtx 0 0 { ready.ctx 0 0 with held := true }).ctx 0 0).held = true ∧ State.reset.phase ≠ 8 := by decide +kernel

/-- The state of the cases with a poisoned beat at i0. -/
def poisoned : State := ready.setCtx 0 0 { ready.ctx 0 0 with ins := set8 (ready.ctx 0 0).ins 0 [{ beat 5 with poison := true }] }

def mov_i0 : Instr := sample fun f => .mov { f with sa := .i 0, adv := 1 }

theorem witness_FaultStopsFiring : isReady poisoned mov_i0 = true ∧
    ((parts mov_i0).any fun p => match readOperands mov_i0 p.1 p.2 poisoned 0 0 0 with | .error e => e == .poison | .ok _ => false) = true := by decide +kernel

/-- The fault halts the context, and its beat stays. -/
theorem test_poison_halts : (match exec mov_i0 poisoned with
    | .next t => (t.ctx 0 0).run == .halted && ((at8 (t.ctx 0 0).ins 0).length == 1) && (t.records.map fun r => (r.cls, r.cause)) == [(6, 2)]
    | _ => false) = true := by decide +kernel

theorem witness_ArbiterPicksFirst : ((State.reset.withFetchWord 128 0).setCtx 0 1 (Ctx.loaded (ready.ctx 0 0).word [0])).arbitrate 0 = some (0, 0) ∧
    State.reset.arbitrate 0 = none := by decide +kernel

/-! ### Lane instructions -/

theorem witness_IntegerArithmetic : allFire ready
    [sample .add, sample .sub, sample .adds, sample .subs, sample .neg, sample .abs, sample .mul, sample .mulh, sample .mulhz, sample .mad, sample .divs, sample .divz,
     sample .rems, sample .remz, sample .min, sample .minz, sample .max, sample .maxz] = true := by decide +kernel

theorem witness_BitsAndShifts : allFire ready
    [sample .and, sample .or, sample .xor, sample .not, sample .andn, sample .shl, sample .shr, sample .sra, sample .rol, sample .clz, sample .popc, sample .brev,
     sample .bfx (31 + 1 * 64), sample .bfi (0 + 32 * 64)] = true := by decide +kernel

theorem witness_ComparesAndMoves : allFire ready
    [sample .cmpeq, sample .cmpne, sample .cmplt, sample .cmple, sample .cmpltz, sample .cmplez, sample .mov, sample .movi 5, sample .sel, sample .lea 0xFFFFC003] = true := by
  decide +kernel

theorem witness_LaneMovement : allFire ready
    [sample .shuf, sample .bcst 15, sample .idx, sample .scan 7, sample .redadd, sample .redmin, sample .redmax, sample .redand, sample .redor] = true := by decide +kernel

theorem witness_FloatInstructions : allFire ready
    [sample .fadd, sample .fsub, sample .fmul, sample .ffma, sample .fmin, sample .fmax, sample .fabs, sample .fneg, sample .fscl, sample .frnd 12, sample .fdiv,
     sample .fsqrt, sample .frsq, sample .frcp, sample .fex2, sample .flg2, sample .ftnh, sample .fsig, sample .fgum, sample .fcmpeq, sample .fcmplt, sample .fcmple,
     sample .fcmpun, sample fun f => .fadd { f with ty := .bf16, pk := true }] = true := by decide +kernel

theorem witness_ConversionsFlagsNoise : allFire ready
    [sample (.cvt .f32), sample .cbenc, sample .cbdec, sample .pack, sample .unpk 1, sample .fnoi, sample .fflg 0x3F] = true := by decide +kernel

/-- R141's example: the sums of ADDS.s32 in lanes 0 to 2. -/
theorem test_adds : (match exec (sample fun f => .adds { f with predReg := 4, predOp := .set })
      (ready (packLanes 32 [0x7FFFFFF0, 0xFFFFFFFB, 0x80000000]) (packLanes 32 [0x20, 3, 0xFFFFFFFF])) with
    | .next t => (List.range 3).map (lane 32 (at8 (t.ctx 0 0).d 3)) == [0x7FFFFFFF, 0xFFFFFFFE, 0x80000000] && (at8 (t.ctx 0 0).p 4) == 5
    | _ => false) = true := by decide +kernel

/-- R143's examples in .s32: -7 / 2, 7 / -2, the least value / -1, and a division by zero, with C in the exceptional lanes. -/
theorem test_divs : (match exec (sample fun f => .divs { f with predReg := 4, predOp := .set })
      (ready (packLanes 32 [2 ^ 32 - 7, 7, 0x80000000, 7]) (packLanes 32 [2, 2 ^ 32 - 2, 2 ^ 32 - 1, 0, 1, 1, 1, 1, 1, 1, 1, 1, 1, 1, 1, 1])) with
    | .next t => (List.range 4).map (lane 32 (at8 (t.ctx 0 0).d 3)) == [2 ^ 32 - 3, 2 ^ 32 - 3, 0x80000000, 2 ^ 32 - 1] && (at8 (t.ctx 0 0).p 4) == 0xC
    | _ => false) = true := by decide +kernel

/-- R158's example: an exclusive prefix sum. -/
theorem test_scan : (match exec (sample .scan 4) (ready (packLanes 32 [0, 1, 0, 1, 1, 0, 1])) with
    | .next t => lanesOf 32 16 (at8 (t.ctx 0 0).d 3) == [0, 0, 1, 1, 2, 3, 3, 4, 4, 4, 4, 4, 4, 4, 4, 4]
    | _ => false) = true := by decide +kernel

/-- R157's example: compaction. -/
theorem test_idx : (match exec (sample .idx) (ready (packLanes 32 [100, 101, 102, 103, 104, 105, 106, 107]) (packLanes 32 [0, 1, 0, 1, 1, 0, 1])) with
    | .next t => (List.range 5).map (lane 32 (at8 (t.ctx 0 0).d 3)) == [101, 103, 104, 106, 0]
    | _ => false) = true := by decide +kernel

/-- R153's example of LEA. -/
theorem test_lea : (match exec (sample .lea 0xFFFFC003) (ready (packLanes 64 [0x10000000000]) (packLanes 64 [5])) with
    | .next t => lane 64 (at8 (t.ctx 0 0).d 3) 0 == 0xFFFFFFFFE8
    | _ => false) = true := by decide +kernel

/-- 1.0 + 2^-24 rounds to even and is inexact (R111, R121). -/
theorem test_fadd : (match exec (sample .fadd) (ready (packLanes 32 [0x3F800000]) (packLanes 32 [0x33800000])) with
    | .next t => lane 32 (at8 (t.ctx 0 0).d 3) 0 == 0x3F800000 && (t.ctx 0 0).flags != 0
    | _ => false) = true := by decide +kernel


/-! ### Chains, row engine, skim unit -/

/-- Stage words of R187's SiLU chain: FSIG.f32 of X, FMUL.f32 by X, CVT.bf16.f32. -/
def siluStages : List Stage := ([0x82647, 0x442441, 0x44249] : List Nat).map fun w => stageOf w

/-- The state of the cases with a chain descriptor and with page 0 of address space 0 in the element's translation cache, mapped onto the pad of tile 0. -/
def mapped (d0 d1 d2 : V512 := 0) : State :=
  let s := ready d0 d1 d2
  let tl := s.tile 0
  { s.setTile 0 { tl with chains := set4 tl.chains 0 siluStages } with
    tlb := [{ cache := 0, domain := 0, asid := 0, page := 0, leaf := { r := true, w := true, a := true, e := true, mt := .normal, key := 0, frame := 0 } }] }

theorem witness_StreamingChains_chn :
    meets mapped (sample .chn 16) (fun fr => fr.any && (chainMisaligned (mapped.stages fr.t 0) (fr.a64 0) (fr.b64 0) (lane 64 fr.cc.val 0)).isNone) = true ∧
    meets (mapped 2) (sample .chn 16) (fun fr => fr.any && chainMisaligned ((mapped 2).stages fr.t 0) (fr.a64 0) (fr.b64 0) (lane 64 fr.cc.val 0) == some 2) = true ∧
    meets ready (sample .chnw) = true ∧
    meets (ready.setCtx 0 0 { ready.ctx 0 0 with chainFault := some (6, 1, 0, 0, 0) }) (sample .chnw) = true := by decide +kernel

/-- A chain of one group, from 0 and a second base into 64. -/
def aRun (x : Nat := 0) (y : Nat := 0) (z : Nat := 64) : ChainRun :=
  { desc := 0, ctx := 0, slot := 0, flags := 0, next := 0, groups := 1, x := x, y := y, z := z, number := 1, order := 1, fence := 0, reads := [], write := none }

/-- Tile 0 with stages and chains, its context retired, so that no slot fires. -/
def chaining (sts : List Stage) (runs : List ChainRun) : State :=
  let s := mapped.setCtx 0 0 { mapped.ctx 0 0 with run := .retired }
  let tl := s.tile 0
  s.setTile 0 { tl with chains := set4 tl.chains 0 sts, queue := runs }

/-- Stages that read no stream, and stages that read both. -/
def constStages : List Stage := [{ opc := 0x20, sub := 0, ty := .f32, pk := false, a := .const, b := .const, c := .unused, const := 0 }]
def bothStages : List Stage := [{ opc := 0x20, sub := 0, ty := .f32, pk := false, a := .x, b := .y, c := .unused, const := 0 }]

/-- The fault of a stream's group of 16 lanes. -/
def groupFault (s : State) (need : Need) (ty : Ty) (base : Nat) : Option FaultInfo :=
  accessFault ty need anyTier false nullWitness (planLanes s 0 (groupLanes ty base 0 16)).1

theorem witness_StreamingChains_reads :
    (let s := chaining siluStages [aRun]
     s.elementRuns 0 = true ∧ (s.ctx 0 0).held = false ∧ (chainStreams (s.stages 0 0) aRun).length = 1 ∧
       ((chainStreams (s.stages 0 0) aRun).all fun x => (groupFault s { r := true } x.2.1 x.2.2).isNone) = true) ∧
    (chainStreams bothStages aRun).length = 2 ∧
    ([0, 2 ^ 16].all fun y => (chainStreams bothStages (aRun 0 y)).map (fun x => (groupFault (chaining bothStages [aRun 0 y]) { r := true } x.2.1 x.2.2).isSome) ==
      [false, y != 0]) = true ∧
    ((chainStreams siluStages (aRun (2 ^ 16))).all fun x => (groupFault (chaining siluStages [aRun (2 ^ 16)]) { r := true } x.2.1 x.2.2).isSome) = true ∧
    meets (chaining [] (List.replicate 4 aRun)) (sample .chn 16) = false ∧ ((chaining [] (List.replicate 4 aRun)).tile 0).queue.length = 4 := by decide +kernel

/-- A group whose reads have come in, or whose read met poison. -/
def readIn (z : Nat) : State := (List.range 4).foldl (fun s g => after (.accessPerform 1 g) s) (after (.chainGroup 0) (chaining bothStages [aRun 0 0 z]))

theorem witness_StreamingChains_writes :
    ([constStages, bothStages].all fun sts => let s := chaining sts [aRun]
      s.arbitrate 0 == none && (groupFault s { w := true } .f32 64).isNone && (groupFault s { w := true } .f32 (2 ^ 16)).isSome) = true ∧ chainStreams constStages aRun = [] ∧
    (let s := (List.range 4).foldl (fun s g => after (.accessPerform 2 g) s) (readIn 64)
     ((s.tile 0).queue.head?.any fun r => r.reads.length == 2 && readsDone s r && r.reads.all fun x => (s.accesses.find? fun a => a.id == x.2).all fun a => a.poisonAt.isNone) = true ∧
       s.arbitrate 0 = none ∧
       (({ s with accesses := s.accesses.map fun a => { a with poisonAt := some 0 } } : State).accesses.all fun a => a.poisonAt == some 0) = true ∧ s.accesses.length = 2) ∧
    ((readIn 64).tile 0).queue.any (fun r => !readsDone (readIn 64) r) = true ∧ ({ readIn 64 with phase := 7 } : State).elementRuns 0 = false ∧
    (State.reset.withFetchWord 128 0).arbitrate 0 = some (0, 0) ∧
    ¬ (1 < aRun.groups) ∧ aRun.next < aRun.groups ∧ (chaining constStages [{ aRun with write := some 9 }]).accesses = [] ∧
    (after (.chainGroup 0) (chaining constStages [aRun])).accesses.any (fun a => a.id == 1) = true ∧
    ((after (.chainGroup 0) (chaining constStages [aRun])).tile 0).queue.any (fun r => r.write == some 1 && decide (r.groups ≤ r.next)) = true := by decide +kernel

/-- A row engine with a mode and a panel. -/
def moded (s : State) : State :=
  s.setEngine 0 { (s.tile 0).engine with mode := some { ty := .bf16, prod := false, afmt := 0 }, kact := 32, nact := 32, panelValid := true }

/-- A row engine that holds the state of another instance. -/
def foreign : State :=
  let tl := mapped.tile 0
  mapped.setTile 0 { tl with row := { RowEngine.clean 5 with dirty := true } }

theorem witness_RowEngineRuns_loads :
    meets (ready (packLanes 32 [32 + 32 * 128])) (sample .mset) (fun fr => fr.any && decide (lane 32 fr.a.val 0 % 128 ≤ 32) && lane 32 fr.a.val 0 / 2 ^ 13 == 0) = true ∧
    meets (ready (packLanes 32 [2 ^ 13])) (sample .mset) (fun fr => fr.any && lane 32 fr.a.val 0 / 2 ^ 13 != 0) = true ∧
    allFire ready [sample .mldb, sample .mcbt, sample .mprd, sample .mclr (127 + 128), sample .mclr (0 + 128 * 128)] = true ∧
    ownerFault (foreign.tile 0) = true ∧
    allFire foreign [sample .mset, sample .mldb, sample .mcbt, sample .mprd, sample .mrow 5, sample .mspl 128, sample .mfil 128, sample .mclr 128, sample .mout] = true := by
  decide +kernel

theorem witness_RowEngineRuns_rows :
    meets (moded ready) (sample .mrow 5) (fun fr => fr.any && !ownerFault ((moded ready).tile 0)) = true ∧ ((moded ready).tile 0).engine.mode.isSome = true ∧
    ((moded ready).tile 0).engine.panelValid = true ∧ (ready.tile 0).engine.mode = none ∧ allFire ready [sample .mrow 255] = true ∧
    allFire (moded ready) [sample .mout (5 + 2 ^ 10), sample .mout (5 + 256), sample .mout (127 + 128)] = true ∧ ((moded ready).tile 0).engine.poisoned 5 = false ∧
    (let e := { (ready.tile 0).engine with rowPoison := 0x20 }
     ((ready.setEngine 0 e).tile 0).engine.poisoned 5 = true ∧ meets (ready.setEngine 0 e) (sample .mout 5) = true) ∧
    meets (ready) (sample fun f => .mrow { f with sa := .i 0, adv := 1 }) = true := by decide +kernel

/-- MSPL and MFIL of two rows at an address that the cache maps; a range that is not aligned to 128 bytes, and one that leaves its page. -/
theorem witness_RowEngineRuns_transfers :
    meets mapped (sample .mspl 256) (fun fr => fr.any &&
      let plan := (planLanes mapped fr.t [{ lane := 0, va := fr.a64 0, nib := 0 }]).1
      (rangeFault { w := true } (fr.a64 0) 256 plan).isNone && (plan.head?.bind Planned.leaf?).isSome) = true ∧
    meets mapped (sample .mfil 256) (fun fr => fr.any &&
      let plan := (planLanes mapped fr.t [{ lane := 0, va := fr.a64 0, nib := 0 }]).1
      (rangeFault { r := true } (fr.a64 0) 256 plan).isNone && (plan.head?.bind Planned.leaf?).isSome) = true ∧
    meets (mapped 64) (sample .mspl 256) (fun fr => fr.any && fr.a64 0 % 128 != 0) = true ∧
    meets (mapped 0xFF80) (sample .mfil 256) (fun fr => fr.any && decide (2 ^ 16 < fr.a64 0 % 2 ^ 16 + 256)) = true := by decide +kernel

/-- A transfer of row 5 whose one access has one granule left, which it reads or writes. -/
def lastPiece (fill : Bool) : State :=
  let op : PieceOp := if fill then .load [] else .store 7 0xFF false false
  let p : Piece := { gran := 4, va := 64, key := 0, mt := .normal, op := op }
  let tl := ready.tile 0
  { ready.setTile 0 { tl with xfer := some { fill := fill, rows := [(9, 5)] } } with
    accesses := [{ Access.blank ready 0 0 0 with id := 9, origin := .rowXfer, pieces := [p] }] }

theorem witness_RowEngineRuns_ends :
    ([true, false].all fun fill => let s := lastPiece fill
      (s.tile 0).xfer.any (fun x => x.fill == fill && x.rows == [(9, 5)]) && (s.accesses.find? fun a => a.id = 9).any (fun a => a.tile == 0 && a.origin == .rowXfer &&
        a.backs.isEmpty && a.returns.isEmpty && a.pieces.length == 1 && a.pieces.all fun p => s.mayPerform a p && tierOf (16 * p.gran) != 8)) = true ∧
    ((after (sample .mrow 5) (moded ready)).tile 0).steps.length = 1 ∧ (ready.tile 0).steps = [] ∧
    (let s := ready.setEngine 0 { ((moded ready).tile 0).engine with panelValid := false }
     meets s (sample .mrow 5) (fun fr => fr.any && !ownerFault (s.tile 0)) = true ∧ (s.tile 0).engine.mode.isSome = true ∧ (s.tile 0).engine.panelValid = false) ∧
    ([(Instr.mspl, 256), (.mfil, 256)].all fun p => let s := mapped (2 ^ 16)
      meets s (sample p.1 p.2) (fun fr => fr.any && (rangeFault { r := true } (fr.a64 0) 256 (planLanes s fr.t [{ lane := 0, va := fr.a64 0, nib := 0 }]).1).isSome) &&
      meets (mapped.setCtx 0 0 { mapped.ctx 0 0 with ins := set8 (mapped.ctx 0 0).ins 0 [{ beat 5 with mask := 0 }] }) (sample (fun f => p.1 { f with sa := .i 0 }) p.2)
        (fun fr => !fr.any)) = true := by decide +kernel

/-- A query header of one row of 64 dimensions, with the null witness. -/
def header : V512 := BitVec.ofNat 512 (1 * 2 ^ 16 + 64 * 2 ^ 32 + 0xF000000000000000 * 2 ^ 448)

/-- A state with beats at i0. -/
def withBeats (s : State) (bs : List V512) : State := s.setCtx 0 0 { s.ctx 0 0 with ins := set8 (s.ctx 0 0).ins 0 (bs.map beat) }

/-- A drained query in slot 0. -/
def query : SkimSlot := { SkimSlot.clean with occupied := true, hdr := header, q := List.replicate 64 0, work := Attn.fresh 1 64, carried := Attn.fresh 1 64 }

def withQuery (s : State) (q : SkimSlot) : State := s.setQuery 0 0 q

/-- A header of a partial token of shard 0 for `query`. -/
def partialBeat : V512 := BitVec.ofNat 512 (1 * 2 ^ 32 + 64 * 2 ^ 40)

theorem witness_SkimUnitRuns_firings :
    meets (withBeats ready [header]) (sample .skq 2) (fun fr => headerOk fr.a.val) = true ∧
    meets (withBeats ready [0]) (sample .skq) (fun fr => !headerOk fr.a.val) = true ∧
    meets (withQuery (mapped 0 (packLanes 64 [256 * 2 ^ 32])) query) (sample .skim) (fun fr =>
      !passMisformed 64 fr.a.val fr.b.val && (match (planPass (withQuery (mapped 0 (packLanes 64 [256 * 2 ^ 32])) query) fr.t fr.c fr.slot header fr.a.val fr.b.val fr.e).1 with
        | .ok _ => true | .error _ => false)) = true ∧
    meets (withQuery ready { query with poison := true }) (sample .skim) = true ∧
    meets (withQuery (ready 1) query) (sample .skim) (fun fr => passMisformed 64 fr.a.val fr.b.val) = true ∧
    forwardSlot ((withQuery ready query).tile 0) = some 0 ∧ allFire (withQuery ready query) [sample .skfw, sample .skfn 0, sample .skfn 8] = true ∧
    allFire (withQuery ready { query with poison := true }) [sample .skfw, sample .skfn] = true := by decide +kernel

/-- SKMG of the next shard, of a shard out of turn, and of one that does not fit the slot. -/
theorem witness_SkimUnitRuns_merge :
    meets (withBeats (withQuery ready query) [0, partialBeat]) (sample .skmg) (fun _ =>
      (beatField partialBeat 0 4 == query.nextShard.toNat) && (beatField partialBeat 4 1 == hdrRows header) && (beatField partialBeat 5 2 == hdrDim header)) = true ∧
    meets (withBeats (withQuery ready query) [0, partialBeat + 1]) (sample .skmg) (fun _ => beatField (partialBeat + 1) 0 4 != query.nextShard.toNat) = true ∧
    meets (withBeats (withQuery ready query) [0, 0]) (sample .skmg) (fun _ => (beatField 0 0 4 == query.nextShard.toNat) && (beatField 0 4 1 != hdrRows header)) = true := by
  decide +kernel

theorem witness_SkimUnitRuns_work :
    (let q := { query with due := 2 }
     ((withBeats (withQuery ready q) [7]).query 0 0).merge = none ∧ ((withBeats (withQuery ready q) [7]).query 0 0).due ≠ 0 ∧
       at8 ((withBeats (withQuery ready q) [7]).ctx 0 q.drainCtx).ins q.drainEp = [beat 7]) ∧
    (let m : MergeRun := { ctx := 0, ep := 0, slotNo := 0, beats := [], due := 8, poison := false }
     ((withBeats (withQuery ready { query with merge := some m }) [7]).query 0 0).merge = some m ∧ m.due ≠ 0) ∧
    checkHolds [] = false ∧ checkHolds [0xFFFFFFFF#512 <<< 416] = false := by decide +kernel

/-- Tile 0 with a query in slot 0 and one queued pass, whose access has or has not read everything. -/
def passing (access : Option Access) (held : Bool := false) (vas : V512 := 0) : State :=
  let s := withQuery (mapped.setCtx 0 0 { mapped.ctx 0 0 with held := held }) query
  let tl := s.tile 0
  { s.setTile 0 { tl with passes := [{ slot := 0, a := vas, b := packLanes 64 [256 * 2 ^ 32], ctx := 0, slotNo := 0, e := 0xFFFF, access := access.map (·.id) }] } with
    accesses := access.toList }

def passRead : Access := { Access.blank ready 0 0 0 with id := 7, origin := .skim }

/-- A pass whose headers hold, one whose generation is another, one that met poison, one that still reads, one that was abandoned. -/
theorem witness_SkimUnitRuns_passes :
    (let s := passing (some passRead)
     (s.tile 0).passes.map (fun p : Pass => p.access) = [some 7] ∧ (s.accesses.find? fun a => a.id = 7) = some passRead ∧ passRead.pieces = [] ∧ passRead.poisonAt = none) ∧
    headerFault (passImage passRead) (hdrDim header) 0 = none ∧ headerFault (passImage passRead) (hdrDim header) 5 = some 2 ∧
    ({ passRead with poisonAt := some 64 } : Access).poisonAt = some 64 ∧ ({ passRead with pieces := [{ gran := 4, va := 64, key := 0, mt := .normal, op := .load [] }] } : Access).pieces ≠ [] ∧
    ((passing none true).ctx 0 0).held = true ∧ ((passing none).ctx 0 0).held = false ∧
    (match (planPass (passing none) 0 0 0 header 0 (packLanes 64 [2 ^ 32]) 0xFFFF).1 with | .ok _ => true | .error _ => false) = true ∧
    (match (planPass (passing none) 0 0 0 header (packLanes 64 [2 ^ 20]) (packLanes 64 [2 ^ 32]) 0xFFFF).1 with | .ok _ => false | .error _ => true) = true := by decide +kernel

/-- Tokens merged whole and damaged; a token being sent, sent whole and drained, with and without a place at its endpoint. -/
theorem witness_SkimUnitRuns_tokens :
    (let m : MergeRun := { ctx := 0, ep := 0, slotNo := 0, beats := sealToken [0], due := 0, poison := false }
     ((withQuery ready { query with merge := some m }).query 0 0).merge = some m ∧ checkHolds m.beats = true ∧ ({ m with poison := true } : MergeRun).poison = true) ∧
    (let em : Emit := { beats := [7], tag := 0, ctx := 0, ep := 0, free := true }
     let s := withQuery ready { query with emit := some em }
     (s.query 0 0).emit = some em ∧ runPlace s 0 0 0 = true ∧ (at8 (s.ctx 0 0).word.obind 0).buf? = none ∧ at8 (s.ctx 0 0).outs 0 = [] ∧
       runPlace (s.setCtx 0 0 { s.ctx 0 0 with outs := set8 (s.ctx 0 0).outs 0 (List.replicate 8 (.full (beat 1))) }) 0 0 0 = false) ∧
    ((withQuery ready query).query 0 0).emit = none ∧ ((withQuery ready query).query 0 0).due = 0 ∧ ((withQuery ready query).query 0 0).merge = none ∧
    hdrHops header 0 = 0 ∧ beatField header 1 1 = 0 ∧ beatField (BitVec.ofNat 512 (7 * 2 ^ 8)) 1 1 = 7 ∧ beatField (BitVec.ofNat 512 (3 * 2 ^ 8)) 1 1 < 6 := by decide +kernel

/-! ### Triggers -/

theorem witness_PredicateInstructions : allFire ready
    [sample .nop, sample .pset, sample .pclr, sample .pand, sample .por, sample .pxor, sample .pnot, sample .pmov, sample .pany, sample .pall] = true := by decide +kernel

theorem witness_SteerAndMerge : allFire ready
    [sample .steer, sample fun f => .steer { f with dst := .o 0, sc := .nul }, sample fun f => .steer { f with dst := .nul, sc := .o 0 }, sample .merge,
     sample fun f => .merge { f with sa := .i 0, sc := .p 1, adv := 1 }, sample .csnd, sample .crcv] = true ∧
    (let f : Slot := { blank with sa := .i 0, sb := .i 1, sc := .p 1, pmask := 2, pval := 2, adv := 3 }
     (List.range 16).all (fun l => !(guardMask (ready.ctx 0 0) f).getLsbD l || (at8 (ready.ctx 0 0).p 1).getLsbD l) = true ∧ guardMask (ready.ctx 0 0) f = 0x00FF ∧
       advMask (.merge f) (ready.ctx 0 0) f = 1) := by decide +kernel

/-- A circular buffer of four slots of 64 bytes with two of them filled, bound to i1 and o1. -/
def buffered (fe : Bool) : State :=
  let s := ready
  let b : Buffer := { base := 0, slots := 4, size := 64, fe := fe, cp := 3, pp := 5, wc := 1 }
  let tl := s.tile 0
  let c := s.ctx 0 0
  let s1 := (s.setTile 0 { tl with buffers := set16 tl.buffers 2 (some b) }).setCtx 0 0
    { c with word := { c.word with ibind := set8 c.word.ibind 1 (.buffer 2), obind := set8 c.word.obind 1 (.buffer 2) } }
  s1

/-- In full/empty mode the head slot 3 and slot 0 are full. -/
def bufferedFull : State :=
  let s := (buffered true).setCtx 0 0 { (ready.ctx 0 0) with word := ((buffered true).ctx 0 0).word }
  let tl := s.tile 0
  let s1 := s.setTile 0 { tl with buffers := ((buffered true).tile 0).buffers }
  { s1 with mem := ([0, 1, 2, 3, 12, 13, 14, 15] : List Nat).foldl (fun m g => m.setFull g true) s1.mem }

theorem witness_Endpoints_pointers :
    meets (buffered false) (sample (fun f => .advc { f with sa := .i 1 }) 2) (fun fr => fr.any && (namedBuffer (buffered false) 0 0 fr.f.sa).isSome) = true ∧
    meets (buffered false) (sample (fun f => .advp { f with dst := .o 1 }) 2) (fun fr => fr.any && (namedBuffer (buffered false) 0 0 fr.f.dst).isSome) = true ∧
    meets bufferedFull (sample (fun f => .advc { f with sa := .i 1 }) 2) (fun fr => fr.any) = true ∧
    meets (buffered false) (sample (fun f => .drop { f with sa := .i 1 })) (fun fr => fr.any && (namedBuffer (buffered false) 0 0 fr.f.sa).isSome) = true ∧
    meets ready (sample .drop) (fun fr => fr.any && (namedBuffer ready 0 0 fr.f.sa).isNone) = true ∧ meets ready (sample .tagset 7) (fun fr => fr.any) = true := by decide +kernel

/-- The state of the cases with a beat of no lanes at i0: a slot that reads it fires with an empty E. -/
def noLanes (s : State) : State := s.setCtx 0 0 { s.ctx 0 0 with ins := set8 (s.ctx 0 0).ins 0 [{ beat 5 with mask := 0 }] }

/-- An instruction whose guard p2 is 0 in some lanes fires; one with QUANT 0 and p2 clear does not: E is empty through a beat of no lanes alone (R44, R45). -/
theorem witness_noLanes : meets (noLanes ready) (sample fun f => .chn { f with sa := .i 0, imm := 16 }) (fun fr => !fr.any) = true ∧
    meets (noLanes ready) (sample fun f => .ld { f with sb := .i 0 }) (fun fr => !fr.any) = true := by decide +kernel

theorem witness_Endpoints_reads : meets ready (sample .qstat) = true ∧ meets (buffered false) (sample fun f => .qstat { f with sa := .i 1 }) = true ∧
    (at8 (ready.ctx 0 0).word.ibind 0).buf? = none ∧ meets ready (sample .qpeek) (fun fr => (peekedBeat ready 0 0 fr.f.sa 0).any fun b => !b.poison) = true ∧
    meets poisoned (sample .qpeek) (fun fr => (peekedBeat poisoned 0 0 fr.f.sa 0).any fun b => b.poison) = true := by decide +kernel

/-- ADVC of more slots than are filled, ADVP of more than are free; a beat for an endpoint bound to a buffer, which has none of its own. -/
theorem witness_Endpoints_buffers :
    (let s := buffered false
     (namedBuffer s 0 0 (.i 1)).any (fun b => decide (filledSlots s 0 b.2 < 3)) = true ∧ (namedBuffer s 0 0 (.o 1)).any (fun b => decide (b.2.freeSlots < 3)) = true ∧
       (sample (fun f => .advc { f with sa := .i 1 }) 3).wf = true ∧ (sample (fun f => .advp { f with dst := .o 1 }) 3).wf = true ∧
       meets s (sample fun f => .mov { f with dst := .o 1 }) = true ∧ at8 (s.ctx 0 0).outs 1 = []) ∧
    meets ready (sample fun f => .qpeek { f with dst := .o 0 }) (fun fr => (at8 (ready.ctx fr.t fr.c).word.obind 0).buf?.isNone) = true := by decide +kernel

/-- ADVC of two slots from CP 3 of four slots leaves CP 5, and in full/empty mode empties the granules of slots 3 and 0 (R337). -/
theorem test_advc : (match exec (sample (fun f => .advc { f with sa := .i 1 }) 2) bufferedFull with
    | .next t => ((at16 (t.tile 0).buffers 2).map (·.cp)) == some 5 && t.mem.full == []
    | _ => false) = true := by decide +kernel

theorem witness_FilledAndFreeMakeUpSlots : (let b : Buffer := { base := 0, slots := 4, size := 64, fe := false, cp := 7, pp := 3, wc := 0 }
    b.fe = false ∧ 0 < b.slots ∧ b.cp < 2 * b.slots ∧ b.pp < 2 * b.slots ∧ b.spanned ≤ b.slots ∧ ({ b with fe := true } : Buffer).fe = true) := by decide

/-- A chain of two levels with starts 1 and 4, counts 2 and 5, strides 3 and 6 (R345's example), at a position. -/
def counting (p0 p1 : BitVec 32) : Counter :=
  { state := .active, levels := 2, wrap := false, start := #v[1, 4, 0, 0], count := #v[2, 5, 0, 0], stride := #v[3, 6, 0, 0], pos := #v[p0, p1, 0, 0], n := 2 * p1 + p0 }

theorem witness_CounterChains : meets (ready (packLanes 32 [1, 2, 3, 4, 5, 6])) (sample .ccfg 8) (fun fr => fr.any) = true ∧
    meets (ready.setCounter 0 0 (counting 0 0)) (sample .cnxt 16) = true ∧ meets ready (sample .crst) (fun fr => fr.any) = true ∧
    meets ready (sample .crst 7) (fun fr => fr.any) = true ∧ (counting 1 2).isFinal = false ∧ (counting 1 2).isLast 1 = false ∧ (counting 1 2).isLast 0 = true ∧ (counting 1 4).isFinal = true ∧
    ({ counting 1 4 with wrap := true } : Counter).isFinal = true ∧ meets (noLanes ready) (sample (fun f => .ccfg { f with sa := .i 0 }) 8) (fun fr => !fr.any) = true ∧
    (ready.counter 0 0).state ≠ .active ∧ ((ready.setCounter 0 0 (counting 0 0)).counter 0 0).state ≠ .free ∧ (sample .ccfg 8).wf = true ∧ (sample .cnxt 16).wf = true := by decide +kernel

/-- The example's tuple N = 3: indices 4 and 10, LAST 0x0D (R344). -/
theorem test_cnxt : (match exec (sample .cnxt 16) (ready.setCounter 0 0 (counting 1 1)) with
    | .next t => (List.range 6).map (lane 32 (at8 (t.ctx 0 0).d 3)) == [4, 10, 0, 0, 3, 0x0D] && (t.counter 0 0) == counting 0 2
    | _ => false) = true := by decide +kernel

/-! ### Memory -/

/-- A fault of the lanes of a load or store in a state. -/
def laneFault (s : State) (form : Firing → LoadForm) (fr : Firing) : Option FaultInfo :=
  accessFault fr.f.ty (form fr).need (form fr).tier (s.standing fr.t (form fr).wit == .malformed) (form fr).wit (planLanes s fr.t (form fr).lanes).1

def ldForm (fr : Firing) : LoadForm :=
  { need := { r := true }, tier := anyTier, wit := nullWitness, gather := false, op := .load, lanes := fr.contiguous (wrap 64 (fr.a64 0 + sgn 64 (fr.b64 0))) }

/-- Null witnesses in lane 1 of d0 and lane 0 of d1. -/
def nullA : V512 := BitVec.ofNat 512 (0xF000000000000000 * 2 ^ 64)
def nullB : V512 := 0xF000000000000000

theorem witness_LoadsFire : meets mapped (sample .ld) (fun fr => fr.any && (laneFault mapped ldForm fr).isNone) = true ∧
    meets ready (sample .ld) (fun fr => fr.any && (laneFault ready ldForm fr).isSome) = true ∧
    meets ready (sample fun f => .ld { f with dst := .nul }) (fun fr => fr.any && (laneFault ready ldForm fr).any fun fi => fi.cls == 4) = true ∧
    allFire (mapped 0 nullB) [sample .ldw, sample .ldfeClr, sample .ldfeKeep] = true ∧ allFire (mapped nullA) [sample .ldx] = true := by decide +kernel

theorem witness_StoresFire : meets mapped (sample .st) (fun fr => fr.any &&
      (accessFault fr.f.ty { w := true } anyTier false nullWitness (planLanes mapped fr.t (fr.contiguous (fr.a64 0))).1).isNone) = true ∧
    meets (mapped 2) (sample .st) (fun fr => (accessFault fr.f.ty { w := true } anyTier false nullWitness (planLanes (mapped 2) fr.t (fr.contiguous (fr.a64 0))).1).isSome) = true ∧
    allFire (mapped nullA) [sample .stx] = true ∧ allFire mapped [sample .stfe, sample .pft] = true := by decide +kernel

/-- Atomics whose return array is at 64. -/
theorem witness_AtomicsFire : ([Instr.aadd, .amin, .amax, .aand, .aor, .axor, .aswp, .acas, .afadd].all fun mk =>
    meets (mapped (packLanes 64 [0, 64])) (sample mk) (fun fr => fr.any &&
      (let s := mapped (packLanes 64 [0, 64])
       let plan := planLanes s fr.t (fr.contiguous (fr.a64 0))
       let back := if fr.a64 1 = 0 ∨ fr.a64 1 % 64 ≠ 0 then [] else (planLanes plan.2 fr.t (fr.contiguous (fr.a64 1))).1
       (atomicFault (accessFault fr.f.ty { a := true } atomicTier false nullWitness plan.1) (returnFault (fr.a64 1) fr.lowLane back)).isNone))) = true ∧
    meets (mapped (packLanes 64 [2, 64])) (sample .aadd) (fun fr => (accessFault fr.f.ty { a := true } atomicTier false nullWitness
      (planLanes (mapped (packLanes 64 [2, 64])) fr.t (fr.contiguous (fr.a64 0))).1).isSome) = true := by decide +kernel

/-- A store that has fired and whose first granule may be performed. -/
def stored : State := after (sample .st) (mapped 0 (packLanes 32 [0x11, 0x22, 0x33, 0x44, 0x55]))

theorem witness_AccessesPerform :
    (stored.accesses.find? fun a => a.id = 1).any (fun a => !a.atOnce && (a.pieces.find? fun p => p.gran = 0).any (fun p => stored.mayPerform a p)) = true ∧
    (let s := after (sample .ldfeKeep) mapped
     (s.accesses.find? fun a => a.id = 1).any (fun a => a.atOnce && !a.pieces.all (fun p => s.mayPerform a p))) = true ∧
    (let s := after (.accessPerform 1 0) (after (sample .aadd) (mapped (packLanes 64 [0, 64])))
     (s.accesses.find? fun a => a.id = 1).any (fun a => (a.returns.find? fun p => p.gran = 4).isSome)) = true ∧
    (let s := (List.range 4).foldl (fun s g => after (.accessPerform 1 g) s) (after (sample .ld) mapped)
     (s.accesses.find? fun a => a.id = 1).any (fun a => a.pieces.isEmpty && a.poisonAt.isNone) && s.outstanding.length == 1) = true := by decide +kernel

/-- A store is performed and a load of the same addresses brings the bytes back (R226, R269, R272). -/
theorem test_store_load : (let s := (List.range 4).foldl (fun s g => after (.accessPerform 1 g) s) stored
    let l := (List.range 4).foldl (fun s g => after (.accessPerform 2 g) s) (after (sample .ld) (s.setCtx 0 0 (ready.ctx 0 0)))
    let t := after (.loadDataReturn 2) l
    lane 32 (at8 (t.ctx 0 0).d 3) 4 == 0x55 && s.mem.byte 4 == 0x22 && t.accesses.length == 0) = true := by decide +kernel

/-- A piece of an access to a granule of tile 0's pad. -/
def aPiece (gran : Nat) (op : PieceOp) (mt : MemType := .normal) : Piece := { gran := gran, va := 16 * gran, key := 0, mt := mt, op := op }

/-- Two accesses of tile 0's context in flight, the first fired before the second, behind fewer fences. -/
def inOrder (p q : Piece) : State :=
  { ready with
    accesses := [{ Access.blank ready 0 0 0 with id := 1, order := 1, number := 1, pieces := [p] }, { Access.blank ready 0 0 0 with id := 2, order := 2, number := 2, pieces := [q], fence := 1 }] }

def aStore (gran : Nat) (mt : MemType := .normal) : Piece := aPiece gran (.store 7 0xFF false false) mt

/-- An atomic of one lane, with its return array at 64. -/
def lone : State :=
  let s := mapped (packLanes 64 [0, 64])
  after (sample fun f => .aadd { f with pmask := 2, pval := 2 }) (s.setCtx 0 0 { s.ctx 0 0 with p := set8 (s.ctx 0 0).p 1 1 })

theorem witness_AccessesPerform_waits :
    (let s := inOrder (aStore 4) (aStore 4)
     (s.accesses.find? fun a => a.id = 2).any (fun a => !a.atOnce && !s.mayPerform a (aStore 4) && s.accesses.all fun b => b.id == 2 || (b.before a && b.writer == a.writer &&
       decide (b.fence < a.fence) && b.ctx == a.ctx))) = true ∧ (aStore 4 .strong).mt = .strong ∧ (aStore 4 .device).mt = .device ∧
    (let s := { ready with accesses := [{ Access.blank ready 0 0 0 with id := 1, number := 1, pieces := [aStore 4] }] }
     (s.accesses.find? fun a => a.id = 1).any (fun a => s.mayPerform a (aStore 4) && a.pieces == [aStore 4] && s.chainsOf a == []) = true ∧
       (s.outstanding.find? fun o => o.id = 1) = none ∧ tierOf (16 * 4) ≠ 8 ∧ ingressGranule 4 = false) := by decide +kernel

theorem witness_AccessesPerform_kinds :
    (let s := after (sample .ld) mapped
     (s.accesses.find? fun a => a.id = 1).any (fun a => !a.atOnce && a.number == 0 && a.poisonAt.isNone && a.origin == .slot && a.pieces.length == 4 &&
       a.pieces.all fun p => s.mayPerform a p && !s.mem.isPoison p.gran) = true ∧ s.accesses.length = 1 ∧
     (s.outstanding.find? fun o => o.id = 1).any (fun o => !o.quiet) = true ∧ ({ s with mem := s.mem.setPoison 0 true } : State).mem.isPoison 0 = true) ∧
    (lone.accesses.find? fun a => a.id = 1).any (fun a => !a.atOnce && a.backs.length == 1 && a.returns.isEmpty && a.pieces.all fun p => lone.mayPerform a p && match p.op with
      | .atomic .add .s32 [l] => l.at'.lane == 0 && l.at'.width == 32 && a.backs.all fun k => k.target == 0 && k.lane == 0 && k.width == 32 && decide (k.off + k.width ≤ 128)
      | _ => false) = true ∧
    (let s := { after (sample .ldfeClr) mapped with mem := ([0, 1, 2, 3] : List Nat).foldl (fun m g => m.setFull g true) mapped.mem }
     (s.accesses.find? fun a => a.id = 1).any (fun a => a.origin == .slot && a.pieces.length == 4 && a.pieces.all fun p => s.mayPerform a p) = true) ∧
    (let s := after (.accessPerform 1 0) lone
     (s.accesses.find? fun a => a.id = 1).any (fun a => a.pieces.isEmpty && a.backs.isEmpty && a.returns.length == 1 && a.returns.all fun p => s.mayPerform a p) = true ∧
       (s.outstanding.find? fun o => o.id = 1) = none ∧
       let e : Access := { Access.blank s 0 0 0 with id := 5, order := 0, number := 1, pieces := [aStore 4] }
       (s.accesses.find? fun a => a.id = 1).any (fun a => a.returns.all fun p => !({ s with accesses := e :: s.accesses } : State).mayPerform a p) = true) := by decide +kernel

/-- A store to the pad of tile 2 with a link of the domain down and with none, one to the vault; the link is between two sites of the domain. -/
theorem witness_AccessesPerform_cutOff :
    (let p := aStore (padPA 2 0 / 16)
     let s := inOrder p (aStore 4)
     let u : State := { s with routers := [(0, { Router.clean with link := [(1, .down)] })] }
     (s.accesses.find? fun a => a.id = 1).any (fun a => a.pieces == [p] && s.mayPerform a p && !s.cutOff a p && u.mayPerform a p && u.cutOff a p &&
       !u.cutOff a (aStore (2 ^ 44))) = true ∧ padTile p.gran = some 2 ∧ s.tileDomain 2 = some 0 ∧ s.siteDomain 0 = some 0 ∧ s.beyond 0 1 = some 1 ∧ s.siteDomain 1 = some 0) := by
  decide +kernel

theorem witness_MemoryReadsBack : Memory.empty.wf = true ∧ (Memory.empty.setByte 5 7).wf = true ∧ (Memory.empty.setByte 5 7).byte 5 = 7 := by decide +kernel

/-! ### Witnesses -/

theorem witness_WitnessInstructions : meets (ready nullB nullB) (sample .wmrg) (fun fr => fr.any && (ready.standing 0 (BitVec.ofNat 64 (fr.a64 0)) != .malformed) &&
      merge ready 0 (BitVec.ofNat 64 (fr.a64 0)) (BitVec.ofNat 64 (fr.b64 0)) == .done nullWitness) = true ∧
    ([Instr.wlft, .wlftH].all fun mk => meets (ready (packLanes 64 [0xF000000000000000, 8])) (sample mk) (fun fr => fr.any &&
      lift ready 0 (BitVec.ofNat 64 (fr.a64 0)) 8 == .done nullWitness)) = true ∧
    meets (ready nullB) (sample .wrdy) (fun fr => ready.standing 0 (BitVec.ofNat 64 (fr.a64 0)) == .satisfied) = true ∧
    meets (ready nullB) (sample .wwt) = true ∧
    allFire (ready 0x9000000000000000) [sample .wmrg, sample .wlft, sample .wlftH, sample .wrdy, sample .wwt] = true ∧
    ready.standing 0 0x9000000000000000 = .malformed ∧ allFire (ready nullB) [sample .wlft, sample .wlftH] = true ∧ allFire ready [sample .wnul, sample .fenceD] = true ∧
    meets (noLanes ready) (sample fun f => .wrdy { f with sa := .i 0 }) (fun fr => !fr.any) = true := by decide +kernel

theorem witness_WitnessStandings : (0xF000000000000000 : W64).toNat / 2 ^ 60 = 15 ∧ (0x9000000000000000 : W64).toNat / 2 ^ 60 = 9 ∧ (0xE000000000000000 : W64).toNat / 2 ^ 60 = 14 ∧
    ready.isWriter 4950 = true ∧ ready.isWriter 5000 = false ∧ ready.pf 0 ≤ (ready.writer 0).issued ∧
    (let w : W64 := BitVec.ofNat 64 (2 * 2 ^ 60 + 9 * 2 ^ 40)
     w.toNat / 2 ^ 60 = 2 ∧ ready.groupOf 0 2 ≠ some (w.toNat / 2 ^ 40 % 2 ^ 16)) := by decide +kernel

theorem witness_DeliveriesWriteDestinations :
    (let o : Outstanding := { id := 1, tile := 0, ctx := 0, slot := 0, dst := .o 0, e := 0xFFFF, w := 32, n := 16, predReg := 0, predOp := .none, witness := none, quiet := false }
     let s := ready.setCtx 0 0 { ready.ctx 0 0 with outs := set8 (ready.ctx 0 0).outs 0 [.held 1 3] }
     (o.w = 32 ∨ o.w = 64) ∧ o.n = 512 / o.w ∧ (at8 (s.ctx 0 0).word.obind 0).buf? = none ∧ at8 (s.ctx 0 0).outs 0 = [.held o.id 3]) := by decide +kernel

/-! ### Basic control -/

theorem witness_ControlInstructions : allFire ready [sample .retire, sample .time, sample .sread 7, sample .sread 256] = true ∧ meets ready (sample .retire) (fun fr => fr.any) = true := by
  decide +kernel

theorem witness_TrapsHalt : meets ready (sample .trap 0xFFFF) (fun fr => fr.any) = true ∧
    (let s := { ready with faultQueues := SMap.set ready.faultQueues 0 { ready.faultQueue 0 with brkpEn := true } }
     (s.faultQueue ((s.tileDomain 0).getD 0)).brkpEn = true ∧ meets s (sample .brkp 1) (fun fr => fr.any) = true) ∧
    (ready.faultQueue 0).brkpEn = false ∧ meets ready (sample .brkp 1) = true ∧
    meets (ready.setCtx 0 0 { ready.ctx 0 0 with brkpPass := some 0 }) (sample .brkp) = true := by decide +kernel


/-! ### Engine queues -/

/-- The state with context 0 of tile 0 owning a queue. -/
def owning (q : Nat) (s : State) : State :=
  s.setTile 0 { s.tile 0 with mirrors := [{ queue := q, tail := 0, permits := 64, ctx := 0 }] }

/-- The state with the sequencer of column 0 owning queue 0. -/
def sequenced (s : State) : State := s.setSequencer 0 { Sequencer.clean with mirrors := [(0, 0, 64)] }

/-- The state with domain 0 on one sector alone. -/
def oneSector (s : State) : State := s.setDomain 0 { s.domain 0 with shape := ⟨0, 0, 1, 1⟩ }

def hawkCommands : List (Slot → Instr) := [.hcpy, .hred, .ha2a, .hcol, .hfng]
def nearCommands : List (Slot → Instr) := [.nzer, .ncpy, .ncmp, .nfen]

theorem witness_CommandsAppend_inline :
    (hawkCommands.all fun mk => meets (owning 0 ready) (sample mk) (fun fr => fr.any && inlineQueue (owning 0 ready) 0 0 false == some 0)) = true ∧
    (nearCommands.all fun mk => meets (owning 256 ready) (sample mk) (fun fr => fr.any && inlineQueue (owning 256 ready) 0 0 true == some 256)) = true ∧
    (hawkCommands.all fun mk => meets (oneSector ready) (sample mk 0x1C) (fun fr => fr.any && inlineQueue (oneSector ready) 0 0x1C false == none)) = true ∧
    ((hawkCommands ++ nearCommands).all fun mk => meets ready (sample mk) (fun fr => fr.any && (ready.mirror? 0 0 0).isNone)) = true ∧
    meets (noLanes ready) (sample fun f => .hcpy { f with sa := .i 0 }) (fun fr => !fr.any) = true := by decide +kernel

theorem witness_CommandsAppend_chain :
    (let s := owning 3 (ready (packLanes 64 [64, 0]) (3 + 2 * 2 ^ 16))
     meets s (sample .qapp) (fun fr => fr.any && fr.b64 0 == 3 + 2 * 2 ^ 16 && (s.mirror? 0 0 3).isSome && s.standing 0 0 != .malformed)) = true ∧
    meets (ready 0 272) (sample .qapp) (fun fr => fr.any && fr.b64 0 == 272) = true ∧
    meets (ready 0 (3 + 2 ^ 16)) (sample .qapp) (fun fr => fr.any && (ready.mirror? 0 0 3).isNone) = true ∧
    meets (owning 3 (ready 8 (3 + 2 ^ 16))) (sample .qapp) (fun fr => fr.any && fr.a64 0 % 64 == 8) = true ∧
    meets (owning 3 (ready (packLanes 64 [64, 0x9000000000000000]) (3 + 2 ^ 16))) (sample .qapp)
      (fun fr => fr.any && ready.standing 0 (BitVec.ofNat 64 (fr.a64 1)) == .malformed) = true ∧
    meets (noLanes ready) (sample fun f => .qapp { f with sa := .i 0 }) (fun fr => !fr.any) = true := by decide +kernel

/-- HCPY of IMM 5, engine 1 of the column east of the origin: one command under number 1, its CMD set to 1, and the witness of the append in lane 0 (R236,
R237, R289, R296). -/
theorem test_append : (let s := after (sample .hcpy 5) (owning 5 (ready 0xAB00))
    ((s.cmdQueue 5).commands.map fun c : Command => (c.number, c.source)) == [(1, .inline 0xAB01)] &&
      lane 64 (at8 (s.ctx 0 0).d 3) 0 == 4613 * 2 ^ 40 + 1 && ((s.mirror? 0 0 5).map fun m : Mirror => m.permits) == some 63) = true := by decide +kernel

theorem witness_QueueRequestsAndTables_requests :
    meets (ready 7) (sample .qseq) (fun fr => fr.any && ready.sees 0 (fr.a64 0)) = true ∧
    meets (ready 272) (sample .qseq) (fun fr => fr.any && !ready.sees 0 (fr.a64 0)) = true ∧
    ([0, 1].all fun imm => meets (ready 0x0005) (sample .qfen imm) (fun fr => fr.any && (fenceQueues fr.a.val).all (ready.sees 0))) = true ∧
    meets (ready 0x012C) (sample .qfen) (fun fr => fr.any && !(fenceQueues fr.a.val).all (ready.sees 0)) = true ∧
    ([Instr.qseq, Instr.qfen].all fun mk => meets (noLanes ready) (sample fun f => mk { f with sa := .i 0 }) (fun fr => !fr.any)) = true ∧
    (let s := after (sample .qseq) (ready 7)
     (s.requests.find? fun r => r.id = 1).map (fun r : Request => r.kind) = some (.qseq 7) ∧ (s.outstanding.find? fun o => o.id = 1).isSome = true) ∧
    (let s := after (sample .qfen 1) (ready 0x0005)
     (s.requests.find? fun r => r.id = 1).map (fun r : Request => r.kind) = some (.qfen true [5, 0] []) ∧ (s.outstanding.find? fun o => o.id = 1).isSome = true) ∧
    (let s := after (.queueReply 1 0) (after (.queueReply 1 5) (after (sample .qfen) (ready 0x0005)))
     (s.requests.find? fun r => r.id = 1).map (fun r : Request => (match r.kind with
       | .qfen false [] ws => (match mergeAll s 0 ws nullWitness with | .done _ => true | .waiting => false)
       | _ => false)) = some true ∧ (s.outstanding.find? fun o => o.id = 1).isSome = true) := by decide +kernel

theorem witness_QueueRequestsAndTables_tables :
    meets (sequenced (ready (packLanes 64 [64, 1]))) (sample .dtab 2048) (fun fr => fr.any && fr.a64 1 == 1 && ((sequenced ready).seqPermits 0 0).isSome &&
      ready.standing 0 (BitVec.ofNat 64 (fr.a64 2)) != .malformed && ready.standing 0 (BitVec.ofNat 64 (fr.b64 0)) != .malformed) = true ∧
    (let s := sequenced (mapped (packLanes 64 [64, 1]) (packLanes 64 [0, 64]))
     meets s (sample .dtab) (fun fr => fr.any && fr.b64 1 == 64 &&
      (let ps := (planLanes s fr.t ((rangePages (fr.b64 0) (fr.b64 1)).map fun va => { lane := 0xFFFF, va := va, nib := 0 })).1
       accessFault .z64 { r := true } feTier (s.standing fr.t (BitVec.ofNat 64 (fr.a64 2)) == .malformed) (BitVec.ofNat 64 (fr.a64 2)) ps == none))) = true ∧
    meets (ready (packLanes 64 [64, 65])) (sample .dtab) (fun fr => fr.any && fr.a64 1 == 65) = true ∧
    meets (sequenced ready) (sample .sqit 8) (fun fr => fr.any && ((sequenced ready).seqPermits 0 (queueOfSel 0 0)).isSome) = true ∧
    meets ready (sample .sqit 8) (fun fr => fr.any && (ready.seqPermits 0 (queueOfSel 0 0)).isNone) = true ∧
    ([Instr.dtab, Instr.sqit].all fun mk => meets (noLanes (sequenced ready)) (sample fun f => mk { f with sa := .i 0, imm := 8 }) (fun fr => !fr.any)) = true := by
  decide +kernel

/-- Joined witnesses of two foreign writers that have issued nothing yet wait (R244); the stops of DTAB, one by one. -/
theorem witness_QueueRequestsAndTables_waits :
    (let w (x : Nat) : W64 := localWitness x 1
     match mergeAll ready 0 [w 5, w 300] nullWitness with
     | .waiting => true
     | .done _ => false) = true ∧
    (let s (a b : V512) := sequenced (mapped a b)
     let dt (s : State) (imm : Nat) (p : Firing → Bool) : Bool := meets s (sample .dtab imm) fun fr => fr.any && p fr
     let fi (s : State) (fr : Firing) : Option FaultInfo :=
       accessFault .z64 { r := true } feTier (s.standing fr.t (BitVec.ofNat 64 (fr.a64 2)) == .malformed) (BitVec.ofNat 64 (fr.a64 2))
         (planLanes s fr.t ((rangePages (fr.b64 0) (fr.b64 1)).map fun va => { lane := 0xFFFF, va := va, nib := 0 })).1
     dt (s (packLanes 64 [64, 0]) 0) 0 (fun fr => fr.a64 1 < 1) && dt (s (packLanes 64 [64, 1]) (packLanes 64 [0, 8])) 0 (fun fr => fr.b64 1 % 16 != 0) &&
     dt (ready (packLanes 64 [64, 1])) 2048 (fun fr => (ready.seqPermits 0 0).isNone && fr.a64 1 == 1) &&
     dt (s (packLanes 64 [8, 1]) 0) 2048 (fun fr => fr.a64 0 % 64 == 8) && dt (s (packLanes 64 [64, 1]) (packLanes 64 [8, 16])) 0 (fun fr => fr.b64 0 % 16 == 8) &&
     dt (s (packLanes 64 [64, 1, 0x9000000000000000]) 0) 2048 (fun fr => ready.standing fr.t (BitVec.ofNat 64 (fr.a64 2)) == .malformed) &&
     dt (s (packLanes 64 [64, 1]) 0x9000000000000000) 2048 (fun fr => ready.standing fr.t (BitVec.ofNat 64 (fr.b64 0)) == .malformed) &&
     (let u := s (packLanes 64 [64, 1]) (packLanes 64 [2 ^ 20, 16]); dt u 0 fun fr => (fi u fr).isSome)) = true := by decide +kernel

/-! ### Engines -/

/-- Queue 0 with one command of an inline record, at rest: no record taken, or the record taken and being performed as given. -/
def engaged (q : Nat) (rec' : V512) (run : Option EngineRun) (s : State := ready) : State :=
  s.setCmdQueue q { Queue.clean with
    attached := true, owed := 1, commands := [{ number := 1, source := .inline rec', iter := none, record := run.map fun _ => rec', run := run, told := false }] }

def chained (addr : Nat) (wit : W64) : State :=
  ready.setCmdQueue 0 { Queue.clean with
    attached := true, commands := [{ number := 1, source := .chain (some addr) wit 1, iter := none, record := none, run := none, told := false }] }

theorem witness_CommandsBeginAndEnd :
    ((engaged 0 1 none).headCommand 0).any (fun c => c.record.isNone && c.run.isNone && c.source == .inline 1) = true ∧
    ((chained 8 0).headCommand 0).any (fun c => c.record.isNone && c.run.isNone && c.source == .chain (some 8) 0 1) = true ∧
    ((chained 64 0x9000000000000000).headCommand 0).isSome = true ∧ (chained 64 0x9000000000000000).standing (writerOfQueue 0) 0x9000000000000000 = .malformed ∧
    ((chained 64 nullWitness).headCommand 0).isSome = true ∧ (chained 64 nullWitness).standing (writerOfQueue 0) nullWitness = .satisfied ∧
    ([0, 3].all fun st => let s := engaged 0 1 (some { EngineRun.start 1 with status := some st })
      (s.headCommand 0).any fun c => c.statusAt.isNone && !s.engineBusy 0 && (c.run.bind fun r : EngineRun => r.status) == some st) = true ∧
    (let s := owning 0 (engaged 0 1 none)
     (s.cmdQueue 0).seq = false ∧ (s.cmdQueue 0).attached = true ∧ 0 < (s.cmdQueue 0).owed ∧ (s.mirror? (s.cmdQueue 0).owner 0 0).isSome = true) := by decide +kernel

/-- A unit's cache with page 0 readable and writable. -/
def paged (cache : Nat) (s : State) : State :=
  { s with tlb := [{ cache := cache, domain := 0, asid := 0, page := 0, leaf := { r := true, w := true, a := true, e := true, mt := .normal, key := 0, frame := 0 } }] }

/-- The whole record of a command in memory on the way, or decided with a status. -/
def recordRead (run : EngineRun) (rec' : Option V512 := none) : State :=
  ready.setCmdQueue 0 { Queue.clean with
    attached := true, commands := [{ number := 1, source := .chain (some 64) nullWitness 1, iter := none, record := rec', run := some run, told := false }] }

/-- An access of queue 0's engine, with or without pieces left. -/
def engineAccess (pieces : List Piece) (bad : Option Nat) : Access :=
  { Access.blank ready 4608 0 0 with id := 9, order := 9, origin := .queue 0, pieces := pieces, poisonAt := bad }

theorem witness_CommandsBeginAndEnd_records :
    (let w := localWitness 4608 1
     let s := (chained 64 w).setWriter 4608 { (ready.writer 4608) with issued := 1 }
     (s.headCommand 0).isSome = true ∧ s.standing 4608 w = .pending) ∧
    (∀ va ∈ granulesOf 64 64, ((enginePage (paged (cacheOfQueue 0) (chained 64 nullWitness)) 0 va false false).1.toOption).isSome = true) ∧
    (granulesOf 64 64 = [] ++ 64 :: [80, 96, 112] ∧ (match (enginePage (chained 64 nullWitness) 0 64 false false).1 with | .error (4, 64) => true | _ => false) = true) ∧
    (let s (b : Bool) (bad : Option Nat) : State := { recordRead { EngineRun.start 0 with reading := some 9 } with accesses := [engineAccess (if b then [aStore 0] else []) bad] }
     (s true none).engineBusy 0 = true ∧ (s false none).engineBusy 0 = false ∧ ((s false none).accesses.find? fun a => a.id = 9).any (fun a => a.poisonAt.isNone) = true ∧
       ((s false (some 64)).accesses.find? fun a => a.id = 9).any (fun a => a.poisonAt == some 64) = true) := by decide +kernel

theorem witness_CommandsBeginAndEnd_completion :
    ([0, 3].all fun st => let s := recordRead { EngineRun.start 1 with status := some st } (some 1)
      (s.headCommand 0).any (fun c => c.statusAt == some 124 && (c.run.map fun r : EngineRun => (r.status, r.stored)) == some (some st, false)) && !s.engineBusy 0 &&
      granulesOf 124 2 == [112] && ((enginePage (paged (cacheOfQueue 0) s) 0 112 true false).1.toOption).isSome &&
      (match (enginePage s 0 112 true false).1 with | .error (4, 112) => true | _ => false)) = true ∧
    (let s := { recordRead { EngineRun.start 1 with status := some 0, stored := true } (some 1) with accesses := [engineAccess [aStore 0] none] }
     s.engineBusy 0 = true ∧ (s.headCommand 0).any (fun c => (c.run.map fun r : EngineRun => (r.status.isSome, r.stored)) == some (true, true)) = true) ∧
    (let cx := ready.ctx 0 0
     let s := ready.setCtx 0 0 { cx with word := { cx.word with ibind := set8 cx.word.ibind 2 .sequencer } }
     let k : SeqToken := { queue := 3, number := 1, index := 0, status := 0, permit := false, gen := 0, dest := { inst := 0, place := 0, tile := 0, ctx := 0 } }
     let u := s.setSequencer 0 { Sequencer.clean with tokens := [k] }
     u.seqs.length = 1 ∧ (match u.tokenPlace 0 k.dest with | .to t => t == 0 | _ => false) = true ∧ seqEndpoint (u.ctx 0 0) = some 2 ∧ (at8 (u.ctx 0 0).ins 2).length < 8 ∧ (u.ctx 0 0).held = false ∧
       (u.ctx 0 0).run ≠ .retired ∧ (u.cmdQueue 3).owed = 0) := by decide +kernel

/-- The head command of a queue may make a move. -/
def movesNow (s : State) (q cmd : Nat) : Bool :=
  (s.headCommand q).any fun c => match c.record, c.run with
    | some rec', some r => recCmd rec' == cmd && r.status == none && !s.engineBusy q && r.record == rec'
    | _, _ => false

/-- A command of a kind before its first move, with IN_WIT and without, and after it. -/
theorem witness_EnginesMove_kinds :
    ([(0, 1), (0, 2), (256, 0x11), (256, 0x12), (0, 5), (256, 0x13), (256, 0x14), (0, 3), (0, 4)].all fun p =>
      let rec' : V512 := BitVec.ofNat 512 p.2
      movesNow (engaged p.1 rec' (some (EngineRun.start rec'))) p.1 p.2 && movesNow (engaged p.1 rec' (some { EngineRun.start rec' with started := true })) p.1 p.2 &&
      movesNow (engaged p.1 (rec' + 256) (some (EngineRun.start (rec' + 256)))) p.1 p.2 && (recWord (rec' + 256) 0).testBit 8 && !(recWord rec' 0).testBit 8) = true := by
  decide +kernel

/-- A digest of one byte read, the end of a comparison, a fence behind a fill in flight and behind none, and the phases of the others are reached by their
runs' fields alone; a message of another module and one of this. -/
theorem witness_EnginesMove_cases :
    (let rec' : V512 := packLanes 64 [5, 0, 0, 1]
     movesNow (engaged 0 rec' (some { EngineRun.start rec' with started := true, phase := 1 })) 0 5 && 0 < recLen rec') = true ∧
    (let rec' : V512 := packLanes 64 [0x13, 0, 0, 16]
     (EngineRun.start rec').pos < recLen rec' ∧ recLen rec' ≤ ({ EngineRun.start rec' with pos := 16 } : EngineRun).pos) ∧
    (let a : Access :=
      { id := 9, order := 9, writer := 0, tile := 0, ctx := 0, slot := 0, origin := .slot, number := 1, tags := [], fence := 0, asid := 0, cache := 0,
        pieces := [{ gran := 2 ^ 45, va := 0, key := 0, mt := .normal, op := .store 0 0 false false }], results := [], poisonAt := none, backs := [], returns := [],
        e := 0, a := 0, b := 0, stalls := false, given := nullWitness }
     let s := { engaged 256 0x14 (some { EngineRun.start 0x14 with started := true, phase := 1, fence := [9] }) with accesses := [a] }
     movesNow s 256 0x14 = true ∧ (∃ a ∈ s.accesses, a.id ∈ [9] ∧ (a.pieces.any fun p => p.nearSector 0) = true)) ∧
    (let m : PeerMsg := { module' := 1, engine := 0, gen := 0, body := .written }
     m.module' ≠ ready.moduleIndex ∧ ({ ready with messages := [(0, m)] } : State).messages = (0, m) :: []) ∧
    pairBelow (pairValue 0x3F800000) (pairValue 0x40000000) = true := by decide +kernel

/-- An all-to-all of two ranks of which queue 0's engine is rank 0, under GEN 7, in a phase; its table: engine 0 sends rank 0 and rank 1 so many bytes. -/
def exchange (phase : Nat) (step : Nat := 0) : EngineRun :=
  { EngineRun.start (packLanes 64 [3, 0, 0, 2 + 7 * 2 ^ 32]) with started := true, phase := phase, step := step }

def ranks (a b : Nat) (engine : Nat := 0) : Nat := engine + 2 ^ 64 + a * 2 ^ 128 + b * 2 ^ 192

/-- A message of rank 1's engine, of this module. -/
def fromOne (body : PeerBody) : PeerMsg := { module' := 0, engine := 1, gen := 7, body := body }

theorem witness_EnginesMove_allToAll :
    (let p := recWord (exchange 1).record 3 % 2 ^ 16
     let rank := recWord (exchange 1).record 3 / 2 ^ 16 % 2 ^ 16
     p == 2 && rank == 0 && ready.moduleIndex == 0 &&
     ranks 0 0 3 % 2 ^ 8 == 3 && ranks 0 0 % 2 ^ 8 == 0 && ranks 0 0 / 2 ^ 8 % 2 ^ 19 == 0 && ([0, 1].all fun k => ranks 16 32 / 2 ^ (64 * k + 27) % 2 ^ 37 == 0) &&
     ranks 0 8 / 2 ^ (64 * (p + 1)) % 16 == 8 && ([0, 1].all fun k => ranks 16 32 / 2 ^ (64 * (p + k)) % 16 == 0) &&
     ranks 16 32 / 2 ^ (64 * (p + 0)) % 2 ^ 64 == 16 && ranks 16 32 / 2 ^ (64 * (p + 1)) % 2 ^ 64 == 32 && ranks 0 0 / 2 ^ (64 * (p + 0)) % 2 ^ 64 == 0 &&
     (([0, 1].filter fun k => k != rank) == [1])) = true ∧
    ([PeerBody.count 16, .block 5, .written].all fun b => fromRank { exchange 2 with table := ranks 16 32 } 1 (fromOne b)) = true ∧
    (let s (ms : List PeerMsg) := ready.setCmdQueue 0 { Queue.clean with inbox := ms }
     ((s []).cmdQueue 0).inbox = [] ∧ ((s [fromOne (.count 16)]).cmdQueue 0).inbox = [fromOne (.count 16)] ∧ ((s [fromOne .written]).cmdQueue 0).inbox = fromOne .written :: []) ∧
    (let r := { exchange 5 with counts := [0, 16] }
     ([1].filter fun k => r.counts.getD k 0 != 0 && !r.fence.contains k) = [1] ∧
       ([1].filter fun k => ({ r with fence := [1] } : EngineRun).counts.getD k 0 != 0 && !({ r with fence := [1] } : EngineRun).fence.contains k) = []) := by decide +kernel

/-- Steps of a graph: kind, source, destination and length in a graph of spans 64; a kind 5 or 3 names engine 2 of module 0 and tag 9. -/
def aStep (kind src dst len : Nat) : Nat := kind + (if kind = 2 ∨ kind = 5 then 2 ^ 4 + 9 * 2 ^ 8 else 0) + (if 3 ≤ kind then 9 * 2 ^ 16 + 2 * 2 ^ 32 else 0) + src * 2 ^ 64 + dst * 2 ^ 128 + len * 2 ^ 192

def aGraph : Nat := 1 + 64 * 2 ^ 64 + 64 * 2 ^ 128

theorem witness_EnginesMove_replay :
    ([1, 2, 3, 4, 5].all fun k => stepStatus aGraph (aStep k 0 0 16) == none && stepStatus aGraph (aStep k 48 48 16) == none) = true ∧
    ([(aStep 0 0 0 16, 1), (aStep 6 0 0 16, 1), (aStep 2 0 0 16 + 8 * 2 ^ 4, 1), (aStep 1 0 0 16 + 2 ^ 12, 2), (aStep 1 64 0 0, 3), (aStep 4 0 64 0, 3), (aStep 1 48 0 32, 3), (aStep 3 8 0 16, 3)].all
      fun p => stepStatus aGraph p.1 == some p.2) = true ∧
    (aGraph / 2 ^ 16 % 2 ^ 48 = 0 ∧ aGraph / 2 ^ 192 % 2 ^ 320 = 0 ∧ aGraph % 2 ^ 16 = 1 ∧ (aGraph + 4096) % 2 ^ 16 = 4097 ∧ (aGraph + 2 ^ 16) / 2 ^ 16 % 2 ^ 48 ≠ 0) ∧
    (let m (body : PeerBody) : PeerMsg := { module' := 0, engine := 2, gen := 0, body := body }
     let x := aStep 5 0 0 16
     0 = recWord (EngineRun.start 4).record 3 % 2 ^ 32 ∧ (m (.ready 9)).engine = x / 2 ^ 32 % 2 ^ 8 ∧ (m (.ready 9)).module' = x / 2 ^ 40 % 2 ^ 19 ∧ x / 2 ^ 16 % 2 ^ 16 = 9 ∧
       x / 2 ^ 192 % 2 ^ 40 = 16 ∧ x % 16 = 5 ∧ aStep 3 0 0 16 % 16 = 3 ∧ (m (.chunk 9 16 5)).body = .chunk 9 16 5 ∧ (m (.chunk 9 32 5)).body = .chunk 9 32 5) := by
  decide +kernel

/-- What a page answers an engine: readable, absent, of device tier, and outside a near engine's vault; a poisoned translation entry. -/
theorem witness_EnginesMove_pages :
    (let s := paged (cacheOfQueue 0) ready
     (match (translate s (cacheOfQueue 0) ((s.queueDomain 0).getD 0) (s.cmdQueue 0).asid 0).1 with | .leaf l => l.e && l.w && l.r && l.tier == 0 | _ => false) = true ∧
     (match (translate s (cacheOfQueue 0) ((s.queueDomain 0).getD 0) (s.cmdQueue 0).asid (2 ^ 20)).1 with | .fault _ => true | _ => false) = true ∧
     (match (enginePage s 0 0 false false).1, (enginePage s 0 (2 ^ 20) false false).1, (enginePage s 0 0 false true).1 with
      | .ok _, .error (4, _), .error (4, 0) => true
      | _, _, _ => false) = true) ∧
    (let r := EngineRun.start 1
     min 16 (16 - r.pos) = 16 ∧ min 0 (16 - r.pos) = 0 ∧ r.reading = none ∧
       (({ ready with accesses := [engineAccess [] none] } : State).accesses.find? fun a => a.id = 9).any (fun a => a.poisonAt.isNone) = true) ∧
    (pairBelow (pairValue 0x40000000) (pairValue 0x3F800000) = false ∧ pairBelow (pairValue 0x3F800000) (pairValue (0x3F800000 + 2 ^ 32)) = false ∧
      pairBelow (pairValue (0x3F800000 + 2 ^ 32)) (pairValue 0x3F800000) = false) := by decide +kernel

/-- A sequencer with entries 1 and 2 for queue 0, whose witness is satisfied, and a program of two iterations. -/
def programmed : State :=
  let e (n : Nat) : TableEntry := { entry := n, queue := 0, first := 64, count := 1, wit := nullWitness, cond := .witness nullWitness }
  ready.setSequencer 0 { Sequencer.clean with table := [e 2, e 1], mirrors := [(0, 0, 64)],
                                              programs := [{ queue := 0, template := 1, iters := 2, next := 0, dest := { inst := 0, place := 0, tile := 0, ctx := 0 } }] }

theorem witness_SequencerAppends :
    ((programmed.sequencer 0).table.find? fun x => x.entry == 1).any (fun e => programmed.entryReady 0 e && e.count ≤ 64 &&
      (programmed.sequencer 0).table.all fun x => !(x.queue == e.queue && x.entry < e.entry)) = true ∧
    programmed.seqPermits 0 0 = some 64 ∧ programmed.programStopped 0 = false ∧ ((programmed.sequencer 0).programs.find? fun p => p.queue == 0).isSome = true ∧
    (after (.sequencerIterationAppend 0 0) programmed).seqPermits 0 0 = some 63 := by decide +kernel

/-- An entry that is ready behind a lower one, without permits, kept ready, not ready; of a range that is full and one that is not; a sequencer that may append
nothing. -/
theorem witness_SequencerAppends_waits :
    (let e (n : Nat) (c : EntryCond) : TableEntry := { entry := n, queue := 0, first := 64, count := 1, wit := nullWitness, cond := c, ready := false }
     let s (es : List TableEntry) (permits : Nat) := ready.setSequencer 0 { Sequencer.clean with table := es, mirrors := [(0, 0, permits)] }
     let done := e 2 (.witness nullWitness)
     let u := s [done, e 1 (.witness nullWitness)] 64
     (u.entryReady 0 done = true ∧ ∃ x ∈ (u.sequencer 0).table, x.queue = 0 ∧ x.entry < 2 ∧ u.entryReady 0 x = true) ∧
     ((s [done] 0).seqPermits 0 0 = some 0 ∧ (s [done] 0).entryReady 0 done = true ∧ done.count = 1) ∧
     ((s [{ e 2 (.full [(4, 1)]) with ready := true }] 64).entryReady 0 (e 2 (.full [(4, 1)])) = false) ∧
     (({ ready with mem := ready.mem.setFull 4 true } : State).entryReady 0 (e 2 (.full [(4, 1)])) = true) ∧
     ready.seqPermits 0 0 = none ∧ ((s [] 64).sequencer 0).programs = [] ∧
     ((let k : Command := { number := 1, source := .inline 1, iter := some { index := 0, dest := { inst := 0, place := 0, tile := 0, ctx := 0 }, col := 0, gen := 0 }, record := none, run := none, told := false }
       programmed.setCmdQueue 0 { Queue.clean with stopped := true, commands := [k] }).programStopped 0) = true) := by decide +kernel

theorem witness_QueueControl : queueAsk (2 ^ 17) = .attach ∧ queueAsk 0 = .detach ∧ queueAsk (2 ^ 19) = .retry ∧ queueAsk (2 ^ 20) = .skip ∧
    ready.fromLath .host (ready.queueDomain 0) = false ∧ ready.fromLath (.element 0 0) (ready.queueDomain 0) = true ∧
    (let s := owning 0 (engaged 0 1 none)
     (s.cmdQueue 0).attached = true ∧ (s.cmdQueue 0).seq = false ∧ s.fromLath (.element 0 0) (s.queueDomain 0) = true) ∧
    (let s := engaged 0 1 none (ready.setCmdQueue 0 Queue.clean)
     let t := s.setCmdQueue 0 { s.cmdQueue 0 with stopped := true }
     (t.cmdQueue 0).stopped = true ∧ (t.cmdQueue 0).commands ≠ [] ∧ t.fromLath (.element 0 0) (t.queueDomain 0) = true) ∧
    (ready.cmdQueue 0).attached = false ∧ (0 : Nat) < ready.tileCount ∧ ready.tileDomain 0 = ready.queueDomain 0 ∧ (ready.tile 0).mirrors.length < 8 := by decide +kernel

/-! ### Stencil engines -/

def stencilInstrs : List ((Slot → Instr) × Nat) :=
  [(.gini, 0), (.gadv, 1), (.gmsk, 2), (.gfrk, 3), (.gcmt, 4), (.grbk, 5), (.gsav, 6), (.grst, 7), (.gsta, 8)]

theorem witness_StencilCommandsSent :
    (stencilInstrs.all fun p => meets ready (sample p.1) (fun fr => fr.any && fr.a64 0 / 2 ^ 16 == 0 && ready.domainOf (sectorOfColumn 0) == ready.tileDomain 0) &&
      meets (ready (2 ^ 16)) (sample p.1) (fun fr => fr.any && fr.a64 0 / 2 ^ 16 != 0) &&
      meets (noLanes ready) (sample fun f => p.1 { f with sa := .i 0 }) (fun fr => !fr.any)) = true ∧
    meets (ready (packLanes 64 [0, 0, 8])) (sample .gini) (fun fr => fr.any && fr.a64 2 % 64 == 8) = true ∧
    ([Instr.gmsk, Instr.gsav, Instr.grst].all fun mk => meets (ready 0 8) (sample mk) (fun fr => fr.any && fr.b64 0 % 64 == 8)) = true := by decide +kernel

/-- A command for grammar context 0 of column 0, arrived under number 1 or still on its way, and what the context holds. -/
def stencilled (sub : Nat) (a b : V512) (number : Option Nat) (g : Grammar) (s : State := ready) : State :=
  { s with
    stencils := [(0, { Stencil.clean with contexts := [(0, g)] })],
    stencilCmds := [{ id := 7, column := 0, sub := sub, a := a, b := b, e := 0xFFFF, tile := 0, ctx := 0, slot := 0, asid := 0, number := number }] }

def aConf : GConf := { state := 0, ended := false, dead := false, depth := 0, pages := [] }

/-- A context that is READY at position 2 with a history from 0. -/
def aGrammar : Grammar := { Grammar.clean with cstate := .ready, commit := some aConf, commitPos := 2, hist := [aConf, aConf] }

def commandOf (s : State) : StencilCmd := s.stencilCmds.headD { id := 0, column := 0, sub := 0, a := 0, b := 0, e := 0, tile := 0, ctx := 0, slot := 0, asid := 0, number := none }

theorem witness_StencilCommandsPerformed :
    (let s := stencilled 8 0 0 none aGrammar
     (s.stencilCmds.find? fun c => c.column = 0 ∧ c.id = 7).any (fun c => c.number.isNone) = true) ∧
    (let s := { stencilled 3 (packLanes 64 [0, nullWitness.toNat]) (packLanes 64 [16]) (some 1) aGrammar with
        outstanding := [{ id := 7, tile := 0, ctx := 0, slot := 0, dst := .d 3, e := 0xFFFF, w := 64, n := 8, predReg := 0, predOp := .none, witness := none, quiet := false }] }
     (s.stencilCmds.find? fun c => c.column = 0 ∧ c.id = 7).any (fun c => c.number == some 1) = true ∧ s.phase = 8 ∧ s.standing 4864 nullWitness ≠ .pending ∧
       (commandOf s).rangeBad = false ∧ (s.grammarOf (commandOf s)).cstate = .ready ∧ (s.grammarOf (commandOf s)).commit = some aConf ∧
       s.outstanding.length = 1 ∧ ∀ x ∈ s.outstanding, x.id = 7 ∧ x.w = 64 ∧ x.dst = .d 3 ∧ x.predOp = .none ∧ x.e.getLsbD 0 = true ∧ x.e.getLsbD 2 = true) ∧
    (commandOf (stencilled 3 0 (packLanes 64 [17]) (some 1) aGrammar)).rangeBad = true ∧
    (let s := stencilled 3 (packLanes 64 [0, 0x9000000000000000]) 0 (some 1) aGrammar
     (commandOf s).rangeBad = false ∧ s.standing 4864 0x9000000000000000 = .malformed) ∧
    (let s := stencilled 1 0 0 (some 1) Grammar.clean
     (commandOf s).rangeBad = false ∧ (s.grammarOf (commandOf s)).cstate ≠ .ready ∧ s.standing 4864 0 ≠ .malformed) ∧
    ([1, 3].all fun pos => let c := commandOf (stencilled 5 (packLanes 64 [0, 0, 2 ^ 16 + pos * 2 ^ 32]) 0 (some 1) aGrammar)
      !c.rangeBad && (lane 64 c.a 2).testBit 16 && lane 64 c.a 2 / 2 ^ 32 == pos) = true ∧
    ([2, 3].all fun pos => let c := commandOf (stencilled 4 (packLanes 64 [0, 0, pos * 2 ^ 32]) 0 (some 1) aGrammar)
      !c.rangeBad && lane 64 c.a 2 / 2 ^ 32 == pos) = true ∧
    (let s := stencilled 4 (packLanes 64 [0, 0, 2 * 2 ^ 32]) 0 (some 1) { aGrammar with nodes := Vector.replicate 16 (some aConf) }
     ((pathNodes (commandOf s).a).all fun n => ((s.grammarOf (commandOf s)).node n).any fun g => !g.dead) = true) ∧
    (ready.variant.stencil = true ∧ ready.fromLath (.element 0 0) (ready.domainOf (sectorOfColumn 0)) = true ∧ (ready.stencil 0).contexts = []) ∧
    ready.fromLath .host (ready.domainOf (sectorOfColumn 0)) = false ∧
    (∃ k ∈ ((stencilled 3 0 0 none aGrammar).stencil 0).contexts, k.2.cstate ≠ .free) := by decide +kernel

/-! ### Stencil commands on an image in memory -/

/-- A grammar image of one state, one class and one token (R419-R422). -/
def anImage : Nat := 0x4000000000000000000000000000000000000000000000000000000000000000000000000000000000000000000000000000000000000000000000000000000000000000000000000000000000000000001000000000000000000000000800000000000000000000000000000000100000000000000000000000100000000000000010000000000010001000000014d474a46

theorem test_anImage : anImage = placed [(0, 4, 0x4D474A46), (4, 2, 1), (8, 2, 1), (10, 2, 1), (16, 4, 1), (24, 4, 1), (36, 4, 1), (52, 4, 128), (64, 8, 256), (128 + 18, 1, 4)] := by decide +kernel

/-- Page tables of ASID 0 of domain 0 in the vault of column 0: virtual page 0 is the vault's page 16; the bytes from 0x8000 of that page are a grammar image of one
state, one class and one token, which is its end-of-sequence token and is accepted (R419-R422, R446, R447); those from 0x4000 are save areas (R436). -/
def tabled : State :=
  let page (k : Nat) : Nat := (2 ^ 32 + k) * 2 ^ 16
  let table (k : Nat) : Nat := 3 + (2 ^ 32 + k) * 2 ^ 20
  let m := ((((ready.mem.write (page 0) 8 (1 + (2 ^ 32 + 8) * 2 ^ 20)).write (page 8) 8 (table 9)).write (page 9) 8 (table 10)).write (page 10) 8 (table 11)).write
    (page 11) 8 (0x3D + (2 ^ 32 + 16) * 2 ^ 20)
  ({ ready with mem := m.write (page 16 + 0x8000) 160 anImage } : State).setDomain 0 { ready.domain 0 with asidTable := 2 ^ 32 }

/-- The digest of those 256 bytes, by SHAKE256 of FIPS 202. -/
def aDigest : Nat := 55502313608319729796401718516684768241

theorem test_walk : walk tabled 0 0 0x1234 = .leaf { r := true, w := true, a := true, e := true, mt := .normal, key := 0, frame := 2 ^ 32 + 16 } := by decide +kernel

/-- A walk within page 0 ends as at its start. -/
theorem walk_page (s : State) (d asid : Nat) {va : Nat} (h : va < 65536) : walk s d asid va = walk s d asid 0 := by
  have e (i n : Nat) (hi : 65536 ≤ 2 ^ i) : bits va i n = bits 0 i n := by
    simp only [bits, Nat.div_eq_of_lt (Nat.lt_of_lt_of_le h hi), Nat.zero_div]
  simp only [walk, e 57 7 (by decide), e 55 2 (by decide), e 42 13 (by decide), e 29 13 (by decide), e 16 13 (by decide)]

/-- Writes within that page are issued. -/
theorem tabled_writes (e : GEnv) (h : e.s = tabled) (hd : e.d = 0) (ha : e.asid = 0) (va len data : Nat) :
    ∀ gs, (∀ g ∈ gs, g < 65536) → ∃ ps, e.writes va len data gs = .ok ps
  | [], _ => ⟨[], rfl⟩
  | g :: gs, hg => by
    obtain ⟨ps, hp⟩ := tabled_writes e h hd ha va len data gs fun x hx => hg x (List.mem_cons_of_mem _ hx)
    have hl : e.page g true = .ok { r := true, w := true, a := true, e := true, mt := .normal, key := 0, frame := 2 ^ 32 + 16 } := by
      rw [GEnv.page, h, hd, ha, walk_page _ _ _ (hg g (List.mem_cons_self ..)), ← walk_page tabled 0 0 (va := 0x1234) (by decide), test_walk]
      rfl
    simp only [GEnv.writes, hl, hp]
    exact ⟨_, rfl⟩

theorem test_imageReads : ((⟨tabled, 0, 0, 0x8000⟩ : GEnv).at' 0 128).toOption = some (anImage % 2 ^ 1024) ∧
    ((⟨tabled, 0, 0, 0x8000⟩ : GEnv).at' 0 256).toOption = some anImage ∧ headerGood (anImage % 2 ^ 1024) = true ∧ (headerOf (anImage % 2 ^ 1024)).len = 256 ∧
    (match (⟨tabled, 0, 0, 0x10000⟩ : GEnv).verify 5, (⟨tabled, 0, 0, 0x4000⟩ : GEnv).verify 5 with
     | .error (8, 0x10000), .error (6, 0) => true
     | _, _ => false) = true := by decide +kernel

theorem test_digest : shakeBytes ((List.range 256).map fun k => bits anImage (8 * k) 8) 16 = aDigest := by decide +kernel

theorem ok_of_toOption {α : Type} {x : G α} {v : α} (h : x.toOption = some v) : x = .ok v := by
  cases x with
  | ok y => rw [Option.some.inj h]
  | error e => cases h

/-- The image is verified under its digest. -/
theorem test_verify : (⟨tabled, 0, 0, 0x8000⟩ : GEnv).verify aDigest = .ok (headerOf (anImage % 2 ^ 1024)) := by
  obtain ⟨h1, h2, h3, h4, -⟩ := test_imageReads
  simp only [GEnv.verify, ok_of_toOption h1, h3, h4, ok_of_toOption h2, test_digest, Bool.not_true, Bool.false_eq_true, if_false, if_true]

/-- A command of the tabled state, its witness null. -/
def onTables (sub a2 b0 : Nat) (g : Grammar) (b1 : Nat := 0) : State :=
  stencilled sub (packLanes 64 [0, nullWitness.toNat, a2]) (packLanes 64 [b0, b1]) (some 1) g tabled

/-- A context of the tabled image, its node 0 as given. -/
def onImage (node : Option GConf) (va : Nat := 0x8000) : Grammar := { aGrammar with imageVa := va, nodes := Vector.replicate 16 node }

theorem witness_StencilCommandsPerformed_passes :
    ([onTables 0 0x8000 aDigest Grammar.clean (aDigest / 2 ^ 64), onTables 0 0x10000 5 Grammar.clean, onTables 7 0 0x10000 Grammar.clean, onTables 1 0 0 (onImage none),
      onTables 1 0 0 (onImage (some { aConf with dead := true })), onTables 1 0 0 (onImage (some aConf) 0x10000), onTables 1 0 0 (onImage (some aConf)),
      onTables 2 0 0 (onImage none), onTables 2 0 0 (onImage (some aConf)), onTables 3 0 16 (onImage none), onTables 3 0 1 (onImage none), onTables 5 1 0 (onImage (some aConf)),
      onTables 5 (2 ^ 16 + 2 ^ 32) 0 (onImage (some aConf)), onTables 4 (2 * 2 ^ 32) 0 (onImage (some aConf)), onTables 4 (2 * 2 ^ 32) 0 (onImage (some { aConf with dead := true })),
      onTables 6 0 0 (onImage none) 64, onTables 6 0 0 { onImage none with commit := none } 64].all fun s =>
      let c := commandOf s
      !c.rangeBad && !contextRange s c && ((s.grammarOf c).cstate == .free || !tokenBad s c) && s.standing 4864 (BitVec.ofNat 64 (lane 64 c.a 1)) == .satisfied) = true := by
  decide +kernel

theorem witness_StencilCommandsPerformed_restore :
    (let e : GEnv := ⟨tabled, 0, 0, 0⟩
     let good (x : Nat) : Bool := x / 2 ^ 210 % 2 ^ 6 == 0 && x / 2 ^ 216 % 2 ^ 8 == 0 && x / 2 ^ 288 % 2 ^ 224 == 0 && decide (x / 2 ^ 224 % 2 ^ 32 ≤ 65536)
     let area (state depth : Nat) : Nat := 0x8000 + aDigest * 2 ^ 64 + state * 2 ^ 192 + depth * 2 ^ 224
     (match e.read 0x10000 64, e.read 0x4000 64 with
      | .error (8, 0x10000), .ok 0 => true
      | _, _ => false) = true ∧
     good (2 ^ 210) = false ∧ good (area 0 0) = true ∧ good (area 1 0) = true ∧ good (area 0 1) = true ∧ area 1 0 / 2 ^ 192 % 2 ^ 16 = 1 ∧ area 0 1 / 2 ^ 224 % 2 ^ 32 = 1 ∧
     (match e.read 0x4040 (2 * 0), e.read 0x4040 (2 * 1) with
      | .ok _, .ok _ => true
      | _, _ => false) = true ∧ (tabled.stencil 0).freePages = []) := by decide +kernel

theorem witness_StencilCommandsPerformed_nodes :
    (let s := onTables 1 0 0 (onImage (some aConf))
     (match (gEnv s (commandOf s) 0x8000).header, s.stackOf 0 aConf, (gEnv s (commandOf s) 0x10000).header with
      | .ok h, .ok [], .error _ => h.vocab == 1
      | _, _, _ => false) = true) ∧
    (let s := onTables 2 0 0 (onImage (some aConf))
     (match liveMask s (commandOf s) aConf with
      | .ok r => r.mask == 1 && r.walked == 0
      | .error _ => false) = true) ∧
    (let s := onTables 2 0 0 (onImage (some aConf) 0x10000)
     (match liveMask s (commandOf s) aConf with
      | .ok _ => false
      | .error _ => true) = true) ∧
    (let e : GEnv := ⟨tabled, 0, 0, 0x8000⟩
     (match e.writes 0x10000 32768 0 [0x10000] with
      | .error (8, 0x10000) => true
      | _ => false) = true) := by decide +kernel

/-- A command with its result at hand; one whose writes are in flight; one behind another of its tile. -/
theorem witness_StencilCommandsPerformed_order :
    (let s := stencilled 6 0 0 (some 1) aGrammar
     let c := { commandOf s with result := some (0, 0, [64]) }
     let a : Access := { Access.blank ready 4864 0 0 with id := 9, order := 9, origin := .stencil 0 c.context, pieces := [aStore 4] }
     (∀ x ∈ s.stencilCmds, ∀ m, x.number = some m → 1 ≤ m) ∧ ({ s with stencilCmds := [c] } : State).accesses = [] ∧
       (∃ b ∈ ({ s with accesses := [a] } : State).accesses, b.origin = .stencil 0 c.context ∧ b.pieces ≠ []) ∧
       (∃ x ∈ ({ s with stencilCmds := [{ c with id := 6, number := none }, { c with number := none }] } : State).stencilCmds, x.tile = 0 ∧ x.number = none ∧ ¬ 7 ≤ x.id)) ∧
    (let s := (stencilled 3 (packLanes 64 [0, (localWitness 4864 2).toNat]) 0 (some 1) aGrammar).setWriter 4864 { ready.writer 4864 with issued := 2 }
     s.standing 4864 (BitVec.ofNat 64 (lane 64 (commandOf s).a 1)) = .pending) ∧
    (let s := stencilled 3 (packLanes 64 [0, nullWitness.toNat]) 0 (some 1) aGrammar
     let begun : State := { s with stencilCmds := s.stencilCmds ++ (List.range 4).map fun k => { commandOf s with id := 8 + k, number := some (2 + k), startedNs := some 0 } }
     (commandOf s).startedNs = none ∧ s.standing 4864 (BitVec.ofNat 64 (lane 64 (commandOf s).a 1)) = .satisfied ∧
       (s.stencilCmds.filter fun x => x.column == 0 && x.startedNs.isSome).length < 4 ∧ (begun.stencilCmds.filter fun x => x.column == 0 && x.startedNs.isSome).length = 4 ∧
       ({ commandOf s with startedNs := some 0 } : StencilCmd).startedNs.isSome = true) ∧
    (let s := stencilled 4 (packLanes 64 [0, nullWitness.toNat, 3 * 2 ^ 32]) 0 (some 1) aGrammar
     contextRange s (commandOf s) = true) ∧
    (let s := onTables 1 0 1 (onImage (some aConf))
     tokenBad s (commandOf s) = true) := by decide +kernel

/-! ### Requests, launches, placement -/

/-- An image of a level with one input port and, at x = 4 of its region or at its one site, one context of one slot, which retires: header, port record, tile record (R88-R90). -/
def tinyBlank (level : Nat := 0) (dir : Nat := 0) : StoredImage :=
  let x := if level = 0 then 0 else 4
  { id := 0, len := 128 + 8 + 272 + 64,
    val := placed [(0, 4, 0x49434A46), (4, 2, 1), (8, 1, level), (11, 1, 1), (12, 2, 1), (18, 1, 1), (20, 4, 8 + 272 + 64), (128 + 2, 1, x), (128 + 5, 1, dir),
      (128 + 6, 1, 3),
      (136, 1, x), (136 + 8, 4, 272 + 64), (136 + 16, 4, 5), (136 + 272, 16, (wordOf 0x00 1 0 0 0 0 0 0).toNat)] }

/-- An image under its digest. -/
def named (im : StoredImage) : StoredImage := { id := BitVec.ofNat 128 (shakeBytes im.signedBytes 16), len := im.len, val := im.val }

theorem signedBytes_of_val {a b : StoredImage} (h : a.val = b.val) : a.signedBytes = b.signedBytes := by simp only [StoredImage.signedBytes, StoredImage.at, h]

/-- Every check of an image, but that of its digest, of an image that bears no signature and no router records. -/
def cleanButDigest (v : Variant) (dims : Nat × Nat) (im : StoredImage) : Bool :=
  let g := im.parse.1
  (headerFails im).isEmpty && (recordFails im g im.parse.2).isEmpty && (g.tiles.flatMap (TileRec.fails g ⟨v.layers, dims.1, dims.2⟩ v)).isEmpty && g.routers.isEmpty &&
  !((g.lath && !g.signed) || (g.signed && !false)) && !decide (v.layers < g.layers) &&
  !(decide (4 ≤ im.at 6 1) || im.at 7 1 != 0 || im.at 19 1 != 0 || im.at 28 4 != 0 || im.at 64 64 != 0 || (g.signed && im.at (128 + g.body + 3325) 3 != 0) ||
    g.ports.any fun p => p.rsv != 0)

/-- Under its digest, such an image is accepted. -/
theorem loadCheck_named {v : Variant} {dims : Nat × Nat} {im : StoredImage} (h : cleanButDigest v dims (named im) = true) :
    loadCheck v dims false (named im) = none := by
  have id' : BitVec.ofNat 128 (shakeBytes (named im).signedBytes 16) = (named im).id := by
    rw [signedBytes_of_val (a := named im) (b := im) (by simp only [named])]; simp only [named]
  simp only [cleanButDigest, Bool.and_eq_true, Bool.not_eq_true', List.isEmpty_iff] at h
  obtain ⟨⟨⟨⟨⟨⟨hdr, rcs⟩, til⟩, rts⟩, sig⟩, lay⟩, rsv⟩ := h
  simp only [loadCheck, hdr, rcs, til, rts, sig, lay, rsv, id', bne_self_eq_false]
  rfl

theorem test_loader : loadCheck ready.variant (12, 12) false (named tinyBlank) = none ∧ loadCheck ready.variant (12, 12) false (named (tinyBlank 3)) = none :=
  ⟨loadCheck_named (by decide +kernel), loadCheck_named (by decide +kernel)⟩

/-- Instance 5 of domain 0, on tile 1, at a depth. -/
def anEntry : PoolEntry :=
  { id := 9, domain := 0, config := 0, deadline := 0, energy := 0, drop := false, attach := false, preemptible := false, resident := false, user := 0,
    completion := 0, feed := none, request := some 1, tile := 0, ctx := 0, depth := 1, parent := 0, replaces := false, pred := none, deferred := false }

def anInst (tile depth : Nat) : Inst :=
  { domain := 0, number := 5, config := 0, level := 0, ox := siteX tile, oy := siteY tile, oz := 0, tiles := [tile], region := [tile], reserve := none, depth := depth, parent := 0,
    asid := 0, entryWit := nullWitness, trigger := none, entry := anEntry, attached := [], late := false, released := false, killed := false, predFailed := false,
    placedNs := 0, lastWits := [], phase := .running, save := none, closed := false, energy := 0 }

/-- The state with a tile held by instance 5. -/
def inhabited (tile depth : Nat) (s : State) : State := { s.setTile tile { s.tile tile with inst := 5 } with insts := [anInst tile depth] }

theorem witness_RequestsEnterThePool :
    ([(Instr.creq, 0), (Instr.creqReplace, 8)].all fun p =>
      meets ready (sample p.1 p.2) (fun fr => fr.any && ((ready.tileInst 0).map fun x : Inst => x.depth).getD 0 < 8) &&
      meets (inhabited 0 8 ready) (sample p.1 p.2) (fun fr => fr.any && ((inhabited 0 8 ready).tileInst fr.t).any fun x => x.depth == 8) &&
      meets (noLanes ready) (sample (fun f => p.1 { f with sa := .i 0 }) p.2) (fun fr => !fr.any)) = true ∧
    (let s := { after (sample .creq) ready with resolved := [(1, [0x23, 0, 0, 0])] }
     (s.resolved.find? fun r => r.1 = 1).isSome = true ∧ (s.outstanding.find? fun o => o.id = 1).isSome = true) := by decide +kernel

theorem witness_ReleaseAndTrigger :
    ([Instr.crel, Instr.etrg].all fun mk => meets (noLanes ready) (sample fun f => mk { f with sa := .i 0 }) (fun fr => !fr.any)) = true ∧
    meets (ready 6) (sample .crel) (fun fr => fr.any && ((ready 6).inst? 0 (fr.a64 0)).isNone) = true ∧
    (let s := inhabited 0 1 ready
     meets s (sample .crel) (fun fr => fr.any && fr.a64 0 == 0 && (s.inst? 0 5).isSome && s.below 0 5 9 5)) = true ∧
    (let s := inhabited 0 1 ready
     (s.inst? 0 5).any (fun x => x.phase == .running && x.tiles == [0]) = true ∧ s.below 0 5 9 5 = true ∧ (s.ctx 0 0).word.valid = true) ∧
    meets (ready 0x9000000000000000) (sample .etrg) (fun fr => fr.any && ready.standing fr.t (BitVec.ofNat 64 (fr.a64 0)) == .malformed) = true ∧
    (let s := inhabited 0 1 (ready (BitVec.ofNat 512 nullWitness.toNat))
     meets s (sample .etrg) (fun fr => fr.any && s.standing fr.t (BitVec.ofNat 64 (fr.a64 0)) != .malformed &&
       (match lift s fr.t (BitVec.ofNat 64 (fr.a64 0)) 4 with | .done _ => true | .waiting => false) && (s.tileInst fr.t).any fun x => x.trigger.isNone)) = true ∧
    (let s := ready (BitVec.ofNat 512 nullWitness.toNat)
     meets s (sample .etrg) (fun fr => fr.any && (match lift s fr.t (BitVec.ofNat 64 (fr.a64 0)) 4 with | .done _ => true | .waiting => false) && (s.tileInst fr.t).isNone)) = true := by
  decide +kernel

/-- A request for an image of level 5 in a domain of one sector; a request whose instance is away, or has gone. -/
theorem witness_RequestsEnterThePool_whole :
    (let s := { oneSector ready with library := [tinyBlank 5] }
     s.image? 0 0 = some (tinyBlank 5) ∧ headerFails (tinyBlank 5) = [] ∧ (tinyBlank 5).at 8 1 = 5 ∧ (s.sectorsOf 0).length ≠ 16 ∧ (ready.sectorsOf 0).length = 16 ∧
       headerFails (tinyBlank 0) = [] ∧ (tinyBlank 0).at 8 1 ≠ 5 ∧ meets s (sample .creq) (fun fr => fr.any && fr.a64 0 == 0 && fr.a64 1 == 0) = true) ∧
    (let u := { after (sample .creq) ready with resolved := [(1, [0x23, 0, 0, 0])] }
     let st : SavedTile := { x := 0, y := 0, z := 0, from' := 0, tile := ready.tile 0, haltWit := nullWitness, matrix := none, pad := [], padFull := [], padPoison := [],
                             creqs := u.outstanding.map fun o => (o, 9) }
     let im : SaveImage := { evicted := true, origin := 0, tiles := [st], vaults := [], routers := [], address := 0, key := 0, fence := nullWitness }
     u.savedRequest 1 = false ∧ ({ u with insts := [{ anInst 0 1 with phase := .saved, save := some im }] } : State).savedRequest 1 = true ∧
       (({ u with outstanding := [] } : State).outstanding.find? fun o => o.id = 1) = none) := by decide +kernel

/-- An ETRG whose witness, another writer's, is not yet known to the unit, and one of an instance that has fired one; a lath's own request; a request by another. -/
theorem witness_ReleaseAndTrigger_waits :
    (let s := (inhabited 0 1 (ready (BitVec.ofNat 512 (localWitness 5 1).toNat))).setWriter 5 { ready.writer 5 with issued := 1 }
     (match s.peekOperands (sample .etrg) 0 0 0 with
      | some (.ok fr) => fr.any && s.standing fr.t (BitVec.ofNat 64 (fr.a64 0)) != .malformed && (match lift s fr.t (BitVec.ofNat 64 (fr.a64 0)) 4 with
        | .waiting => true
        | .done _ => false)
      | _ => false) = true) ∧
    (let s := { inhabited 0 1 ready with insts := [{ anInst 0 1 with trigger := some nullWitness }] }
     (s.tileInst 0).any (fun x => x.trigger.isSome) = true) ∧
    (let s := { inhabited 1 1 (ready 5) with insts := [anInst 1 1] }
     s.belowLath 0 9 5 = true ∧ meets s (sample .crel) (fun fr => fr.any && fr.a64 0 == 5 && (s.tileInst fr.t).isNone) = true) := by decide +kernel

/-- Port 0 of domain 0 enabled at tile 1, holding a beat. -/
def arrived (b : V512) (due : Nat := 0) (goal : FeedTarget := .discard) (discarding : Bool := false) (s : State := ready) : State :=
  s.setPort 0 { s.port 0 with domain := 0, enable := true, entryTile := 1, buffer := [b], due := due, target := goal, discarding := discarding }

/-- A launch packet of an image not known, with a number of data beats (R352). -/
def packet (beats : Nat) (flags : Nat := 0) : V512 := BitVec.ofNat 512 (1 + flags * 2 ^ 8 + beats * 2 ^ 32)

theorem witness_LaunchesArrive_packets :
    (beatField (packet 2) 0 1 = 1 ∧ (let s := arrived (packet 2)
      (s.port 0).buffer = [packet 2] ∧ (s.port 0).due = 0 ∧ (s.port 0).discarding = false ∧ badPacket s 0 (packet 2) (packetEntry s 0 0 (packet 2)) = false ∧
        (packetEntry s 0 0 (packet 2)).attach = false ∧ s.poolFree 0 ≠ 0)) ∧
    (let s := arrived (packet 2) 0 .discard false { ready with pool := List.replicate 4096 anEntry }
     s.poolFree 0 = 0 ∧ badPacket s 0 (packet 2) (packetEntry s 0 0 (packet 2)) = false) ∧
    (let s := arrived (packet 2 8)
     badPacket s 0 (packet 2 8) (packetEntry s 0 0 (packet 2 8)) = true) := by decide +kernel

theorem witness_LaunchesArrive_beats :
    (let s := arrived 7 1
     (s.port 0).due ≠ 0 ∧ (s.port 0).target = .discard) ∧ ((arrived 7 1 (.entry 0 9)).port 0).target = .entry 0 9 ∧
    beatField 0xA5 0 1 = 0xA5 ∧ beatField 0x33 0 1 ≠ 0xA5 ∧ ((arrived 0x33 0 .discard true).port 0).discarding = true ∧ ((arrived 0x33).port 0).discarding = false := by
  decide +kernel

/-- A packet for an image of level 5 in a domain of one sector; one that attaches; one whose image has no input port or not the one it names. -/
theorem witness_LaunchesArrive_other :
    (let s := { oneSector (arrived (packet 2)) with library := [tinyBlank 5] }
     let e := packetEntry s 0 0 (packet 2)
     badPacket s 0 (packet 2) e = false ∧ (s.refusedAtOnce e).isSome = true ∧ e.completion = 0) ∧
    (let b := packet 1 2
     let s := { inhabited 1 1 (arrived b) with insts := [{ anInst 1 1 with entry := { anEntry with attach := true } }], library := [tinyBlank 0] }
     let e := packetEntry s 0 0 b
     badPacket s 0 b e = false ∧ e.attach = true ∧ (s.entryWitness e).isSome = true ∧ (s.attachTo 0 e.config).isSome = true) ∧
    (let b := packet 1 2 + 2 ^ 448
     let full : List PoolEntry := List.replicate 4096 anEntry
     let s := { inhabited 1 1 (arrived b) with
       insts := [{ anInst 1 1 with entry := { anEntry with attach := true } }], library := [tinyBlank 0], launches := [{ id := 3, domain := 0, user := 1, fate := .pending }], pool := full }
     let e := packetEntry s 0 0 b
     badPacket s 0 b e = false ∧ s.entryWitness e = none ∧ s.refusedAtOnce e = none ∧ s.poolFree 0 = 0 ∧ e.attach = true ∧ (s.attachTo 0 e.config).isSome = true) ∧
    (let s := { ready with library := [tinyBlank 0] }
     let e (b : V512) : PoolEntry := packetEntry s 0 0 b
     (s.image? 0 0).any (fun im => (headerFails im).isEmpty && (im.portRecs.filter fun p => p.role = 0).length == 1) = true ∧
       badPacket s 0 (packet 1 + 2 ^ 16) (e (packet 1 + 2 ^ 16)) = true ∧ badPacket s 0 (packet 1) (e (packet 1)) = false) ∧
    (beatField (packet 1 + 2 ^ 448) 56 8 = 1 ∧ beatField (packet 1 + 2 ^ 320 * 64) 40 8 = 64) := by decide +kernel

/-- A data beat of a placed launch: the instance's image is known and has an input port, on a direction. -/
def fed (dir : Nat) (way : Option (Nat × Nat) := none) (s : State := ready) : State :=
  let u := { inhabited 1 1 (arrived 7 1 (.port 0 5 0) false s) with library := [tinyBlank 0 dir] }
  u.setPort 0 { u.port 0 with way := way }

theorem witness_LaunchesArrive_linked :
    ([(0, none), (5, none), (5, some (siteOfTile 1, 5))].all fun p => let s := fed p.1 p.2
      (s.port 0).target == .port 0 5 0 && (s.inst? 0 5).any (fun x : Inst => x.config == 0 && !x.away && !s.behindAttached 0 x &&
      (s.image? 0 0).any fun im => (im.portRecs.find? fun r => r.role == 0 && r.port == 0).any fun r => r.vc < 32 && r.dir == p.1 &&
        siteKeyAbs (x.ox + r.x) (x.oy + r.y) (x.oz + r.z) == siteKeyAbs (siteX (s.port 0).entryTile) (siteY (s.port 0).entryTile) 0 &&
        (p.2.isNone → (s.feedEntry 0 0 (x.ox + r.x) (x.oy + r.y) (x.oz + r.z) r.dir (r.vc % 32)).isSome) &&
        ((s.openFeed 0).port 0).way.any fun w => (((s.openFeed 0).router w.1).buf w.2 (r.vc % 32)).length < 4)) = true := by
  decide +kernel

/-- A way whose buffer is full; an image that cannot be reached; an instance that is away; one behind the beats of an attached launch. -/
theorem witness_LaunchesArrive_held :
    (let s := (fed 5 (some (siteOfTile 1, 5))).setRouter (siteOfTile 1) { Router.clean with ins := [(32 * 5 + 3, List.replicate 4 (beat 7))] }
     ((s.router (siteOfTile 1)).buf 5 3).length = 4) ∧
    (let s := fed 0 none
     let x := anInst 1 1
     let im : SaveImage := { evicted := true, origin := 1, tiles := [], vaults := [], routers := [], address := 0, key := 0, fence := nullWitness }
     let u := { s with insts := [{ x with phase := .saved, save := some im }] }
     (u.inst? 0 5).any (fun x : Inst => x.away) = true) ∧
    (let s := fed 5 none
     let x := { anInst 1 1 with entry := { anEntry with feed := some (1, 0, 1) }, attached := [({ anEntry with feed := some (0, 0, 1) }, false)] }
     let u := s.setPort 1 { s.port 1 with domain := 0, enable := true, target := .port 0 5 0, due := 1 }
     u.behindAttached 0 x = true ∧ u.behindAttached 1 x = false ∧ s.behindAttached 0 x = false ∧ x.launchAt 1 = 0 ∧ x.launchAt 0 = 1 ∧
       (let r : Router := { Router.clean with words := [{ inPort := 5, inVc := 3, outSet := 64, outVc := none, inst := feedMark 1 }], ins := [(32 * 5 + 3, [beat 7])] }
        (s.setRouter (siteOfTile 1) r).behindAttached 0 x = true)) ∧
    (let s := { fed 5 none with insts := [{ anInst 1 1 with entry := { anEntry with resident := true } }] }
     (s.inst? 0 5).any (fun x : Inst => x.entry.resident && x.phase != .retired) = true ∧ (s.port 0).due = 1) := by decide +kernel

/-- A pool with one entry, and the library that has or has not its image. -/
def pending (e : PoolEntry) (lib : List StoredImage) : State := { oneSector ready with pool := [e], library := lib }

theorem witness_PlacementScans_scan :
    (let s := pending anEntry []
     s.poolOf 0 = [anEntry] ∧ anEntry.resident = false ∧ anEntry.replaces = false ∧ anEntry.request.isSome = true ∧ s.insts = [] ∧ (s.domain 0).busy = false ∧
       s.image? 0 anEntry.config = none ∧ s.entryWitness anEntry = some (nullWitness, false) ∧ anEntry.attach = false) ∧
    (let e := { anEntry with pred := some 3 }
     (({ pending e [] with launches := [{ id := 3, domain := 0, user := 0, fate := .pending }] } : State).entryWitness e) = none) ∧
    (let s := pending { anEntry with resident := true } []
     ((s.poolOf 0).find? (·.resident)).isSome = true) ∧ (∀ e ∈ (pending anEntry []).poolOf 0, e.resident = false) ∧
    (let s := ready.setSched 0 { Sched.clean with window := 1 }
     ((s.schedOf 0).window ≠ 0) ∧ ({ s with ticks := 48000 } : State).ns ≥ 1000) := by decide +kernel

/-- An image that the loader refuses; one that it accepts, with and without the energy; a domain with a free tile and one without. -/
theorem witness_PlacementScans_loader :
    (let bad : StoredImage := { id := 0, len := 0, val := 0 }
     (pending anEntry [bad]).image? 0 anEntry.config = some bad ∧ (loadCheck ready.variant (12, 12) ((pending anEntry [bad]).signatureOk 0 bad) bad).isSome = true) ∧
    ((oneSector ready).neverFits 0 (tinyBlank 0).parse.1 = false ∧ 0 ≤ anEntry.deadline ∧ (oneSector ready).ns ≤ anEntry.deadline ∧
      ({ ready with variant := { ready.variant with layers4 := false } }.findRegion 0 1 (tinyBlank 0).parse.1).isSome = true) ∧
    (let sc : Sched := { Sched.clean with budget := 5, reserved := 5 }
     sc.budget < sc.reserved + min 1 sc.budget ∧ ¬ (sc.budget < sc.reserved + min 0 sc.budget)) ∧
    (ready.setDomain 0 Domain.clean).neverFits 0 (tinyBlank 3).parse.1 = false ∧ ((ready.setDomain 0 Domain.clean).findRegion 0 1 (tinyBlank 3).parse.1).isNone = true := by decide +kernel

theorem witness_PlacementScans_image : ∀ level ∈ [0, 3], let im := named (tinyBlank level)
    (pending { anEntry with config := im.id } [im]).image? 0 im.id = some im ∧ loadCheck ready.variant ((pending { anEntry with config := im.id } [im]).domain 0).shape.sites false im = none := by
  intro level hl
  refine ⟨by simp [pending, State.image?, oneSector, ready, State.setDomain, State.setCtx, State.setTile, State.reset], ?_⟩
  simp only [List.mem_cons, List.not_mem_nil, or_false] at hl
  rcases hl with rfl | rfl
  · exact test_loader.1
  · exact test_loader.2

/-- The resident instance of the domain, with an entry that one below it has asked for and one that none has; an entry that comes with data beats, one that is late. -/
theorem witness_PlacementScans_resident :
    (let r := { anInst 1 1 with entry := { anEntry with resident := true } }
     let s := { pending { anEntry with parent := 5 } [] with insts := [r] }
     (s.residentInst 0).any (fun x => x.number == 5) = true ∧ s.below 0 5 9 5 = true ∧ s.below 0 5 9 0 = false ∧ r.phase ≠ .retired ∧ r.away = false) ∧
    ((ready.setPort 0 { ready.port 0 with target := .entry 0 9, due := 1 }).residentInst 0 = none ∧ ({ anEntry with feed := some (0, 0, 1) } : PoolEntry).feed.isSome = true) ∧
    (let s := { pending { anEntry with deadline := 1, drop := true } [] with ticks := 48000 }
     1 < s.ns ∧ (1 : Nat) ≠ 2 ^ 64 - 1) := by decide +kernel

/-- Entries are scanned in the order of their deadlines, and of their arrival where these are equal (R361). -/
theorem witness_PlacementScans_order :
    (let e (k dl : Nat) : PoolEntry := { anEntry with id := k, deadline := dl, request := none }
     let s := { oneSector ready with pool := [e 1 7, e 2 3, e 3 7, e 4 3] }
     ((scanOrder (s.poolOf 0)).map fun x => x.id) = [2, 4, 1, 3] ∧ (s.domain 0).busy = false ∧ s.residentInst 0 = none ∧ s.insts = [] ∧
       ((s.poolOf 0).all fun x => !x.resident && !x.replaces && decide (x.domain < 16)) = true ∧ s.heldMessages = [] ∧ s.inFallback 0 = false ∧
       (pending { anEntry with resident := true } []).inFallback 0 = true) := by decide +kernel

/-! ### Pre-emption and restore -/

/-- Instance 5 on tile 0 in a phase, with or without a save image, and the halt that names it. -/
def halted (phase : Phase) (save : Option SaveImage) (s : State := ready) : State :=
  let x := { anInst 0 1 with phase := phase, save := save }
  { s.setTile 0 { s.tile 0 with inst := 5 } with insts := [x], halts := [(0, 5)], library := [tinyBlank] }

def aSaved : SaveImage :=
  { evicted := false, origin := 0, vaults := [], routers := [], address := 0x1000000000000, key := 0, fence := nullWitness,
    tiles := [{ x := 0, y := 0, z := 0, from' := 0, tile := Tile.clean, haltWit := nullWitness, matrix := none, pad := [], padFull := [], padPoison := [], creqs := [] }] }

/-- Tile 0 with a dirty row engine of owner 6, where instance 6 is saved and a context has halted on it. -/
def disowned : State :=
  let s := halted .running none
  let tl := { s.tile 0 with row := { RowEngine.clean 6 with dirty := true } }
  let h : HaltInfo := { HaltInfo.first with serial := 1, record := 1, cls := 8, cause := 4 }
  { s.setTile 0 (tl.setCtx 0 { tl.ctx 0 with run := .halted, halt := some h }) with
    insts := [anInst 0 1, { anInst 0 1 with number := 6, phase := .saved, save := some aSaved }] }

theorem witness_PreemptionAndRestore :
    (((halted .running none).inst? 0 (SMap.get (halted .running none).halts 0 0)).any fun x => x.phase == .running && (halted .running none).instTiles x == [0]) = true ∧
    ready.inst? 0 (SMap.get ready.halts 0 0) = none ∧
    (let s := halted .halting none
     (s.inst? 0 5).any (fun x => x.phase == .halting && (s.instTiles x).all fun t => s.tileSettled t) = true) ∧
    (let s := halted .restoring (some aSaved)
     (s.inst? 0 5).any (fun x => x.phase == .restoring && x.save.any fun im => im.tiles.all fun st => s.standing (s.lathTile 0) st.haltWit == .satisfied) = true) ∧
    (let s := halted .saved (some aSaved)
     (s.inst? 0 5).any (fun x => x.phase == .saved && x.save.any (fun im => !im.evicted) && (s.image? 0 x.config).isSome) = true) ∧
    ownerFault (disowned.tile 0) = true ∧ ownerHalted (disowned.tile 0) = true ∧ disowned.tileDomain 0 = some 0 ∧
    (disowned.inst? 0 (disowned.tile 0).row.owner).any (fun x => x.save.any fun im => im.tiles.any fun st => st.from' == 0) = true ∧
    ready.refills.contains (0, 0) = false := by decide +kernel

/-- A region that may be closed and evicted, and each thing that it waits for. -/
theorem witness_PreemptionAndRestore_quiesced :
    (let s := halted .halting none
     let x := { anInst 0 1 with phase := .halting }
     let s0 := (s.endDrain x).drainRegion x
     let busy : Access := { Access.blank s 0 0 0 with id := 1, order := 1, number := 1, pieces := [aStore 4] }
     let level2 : State := { s with insts := [{ x with level := 2 }, { anInst 1 1 with number := 6, parent := 5 }] }
     s.inst? 0 5 = some x ∧ ((s.instTiles x).all fun t => s.tileSettled t) = true ∧ ({ s with accesses := [busy] } : State).tileSettled 0 = false ∧
       s0.holdsImage 0 (saveInst s0 x true (2 ^ 48) 0 nullWitness) = true ∧ s0.holdsImage 0 (saveInst s0 x true (2 ^ 48 + 4) 0 nullWitness) = false ∧
       s0.mayEvict x = true ∧ s0.fenceHolds x nullWitness = true ∧ level2.mayEvict { x with level := 2 } = false) := by
  decide +kernel

/-- The keys under which images may be written; the queues that an instance of a column asks about, and fences that cover them or not. -/
theorem witness_PreemptionAndRestore_fences :
    (let x := { anInst 0 1 with phase := .halting, level := 2, region := [0] }
     let used (n : Nat) : State := (ready.setWriter (writerOfQueue 0) { Writer.clean with issued := n }).setWriter 0 { Writer.clean with issued := 1 }
     let fence := localWitness 0 1
     let fenced (covers : List W64) : State := { used 1 with fences := [{ domain := 0, wit := fence, covers := covers }] }
     let last := localWitness (writerOfQueue 0) 1
     let dest (tier slot : Nat) : SaveAt := { address := tier * 2 ^ 48, slot := slot, fence := nullWitness }
     ready.keyAt 0 (dest 1 0) = some 0 ∧ ready.keyAt 0 (dest 3 3) = none ∧
       (ready.setKeySlot 3 { KeySlot.clean with state := .loaded, ident := 6 }).keyAt 0 (dest 3 3) = some 6 ∧
       (used 0).targeting x = [] ∧ (used 1).targeting x = [0] ∧ (used 0).fenceHolds x nullWitness = true ∧ (used 1).fenceHolds x nullWitness = false ∧
       (fenced [last]).fenceHolds x fence = true ∧ (fenced []).fenceHolds x fence = false ∧ (used 1).fenceHolds x fence = false ∧ (0 : Nat) % 16 = 0) := by
  decide +kernel

/-- An evicted instance whose region is free, one for which none is, one moved that may not be; one whose HALT_WIT is not satisfied; one saved in place. -/
theorem witness_PreemptionAndRestore_restore :
    (let im := { aSaved with evicted := true }
     let s := (halted .saved (some im)).setTile 0 (ready.tile 0)
     let x := { anInst 0 1 with entry := { anEntry with feed := some (0, 0, 0) } }
     let g := tinyBlank.parse.1
     ((s.restoreRegion x g im false).any fun rg => (s.reload x g rg).isSome) = true ∧ im.tiles.length = 1 ∧ aSaved.evicted = false ∧ (5 : W64) ≠ im.fence ∧
       ((s.setDomain 0 Domain.clean).restoreRegion x (tinyBlank 3).parse.1 im false).isNone = true) ∧
    (let st : SavedTile := { x := 0, y := 0, z := 0, from' := 0, tile := Tile.clean, haltWit := localWitness 4604 1, matrix := none, pad := [], padFull := [], padPoison := [], creqs := [] }
     ready.standing (ready.lathTile 0) st.haltWit ≠ .satisfied) ∧
    (let s := halted .saved (some aSaved)
     (List.range 8).all (fun c => (s.ctx 0 c).reissues.isEmpty && (s.ctx 0 c).halt.isNone) = true) := by decide +kernel

/-- A dirty engine of a saved instance whose image has its section; a token parked behind an evicted page, one being refilled and one at hand. -/
theorem witness_PreemptionAndRestore_spills :
    (let row := { RowEngine.clean 6 with dirty := true }
     let st : SavedTile := { x := 0, y := 0, z := 0, from' := 0, tile := { Tile.clean with inst := 6, row := row }, haltWit := nullWitness, matrix := none, pad := [], padFull := [],
                             padPoison := [], creqs := [] }
     let im := { aSaved with tiles := [st] }
     (im.dirty.findIdx? fun st => st.from' == 0) = some 0) ∧
    (disowned.inst? 0 7).isNone = true ∧
    (let tl := ready.tile 0
     let s := mapped.setTile 0 { tl with skim := tl.skim.set 0 { tl.skim[0] with occupied := true } }
     let u (k : Nat) : State := { s with mem := s.mem.setByte 7 (BitVec.ofNat 8 k) }
     (((s.tile 0).skim.toList[0]?.map fun q => q.occupied) = some true ∧ (u 3).shardState 0 0 = some 3 ∧ (u 4).shardState 0 0 = some 4 ∧ (u 0).shardState 0 0 = some 0 ∧
       ({ u 3 with refills := [(0, 0)] } : State).refills.contains (0, 0) = true ∧ (s.query 0 0).occupied = true ∧ (ready.query 0 0).occupied = false ∧
       ({ u 3 with refills := [(0, 0)] } : State).refillStands (0, 0) = true ∧ (u 4).refillStands (0, 0) = false ∧ forwardSlot (s.tile 0) = some 0 ∧
       forwardSlot ((s.park 0 0).tile 0) = none)) := by decide +kernel

/-- An evicted instance placed where it was and elsewhere, one that gives its region up for a move and one that may not, and a replacement taken while it was saved. -/
theorem witness_PreemptionAndRestore_moves :
    (let im := { aSaved with evicted := true }
     let x := { anInst 0 1 with phase := .saved, region := [0], entry := { anEntry with feed := some (0, 0, 0) } }
     let g := tinyBlank.parse.1
     let s := (halted .saved (some im)).setTile 0 (ready.tile 0)
     let u := halted .saved (some aSaved)
     ((s.restoreRegion x g im true).any fun rg => (s.reload x g rg).isSome) = true ∧ moveWitness s x im.fence (im.tiles.map (·.haltWit)) = .done nullWitness ∧
       ((s.setDomain 0 Domain.clean).restoreRegion x (tinyBlank 3).parse.1 im true).isNone = true ∧
       ((u.liftRegion x aSaved nullWitness).any fun r => r.2.2.tiles.length == 1 && (r.1.restoreRegion r.2.1 g r.2.2 true).any fun rg => (r.1.reload r.2.1 g rg).isSome) = true ∧
       (let v : State := { u with insts := u.insts ++ [{ anInst 1 1 with number := 6, parent := 5 }] }
        (v.liftRegion x aSaved nullWitness).isNone = true) ∧
       moveWitness s x (localWitness 5 1) [localWitness 300 1] = .waiting ∧ ({ anEntry with taken := true, parent := 5 } : PoolEntry).taken = true) := by decide +kernel

/-! ### Translations and keys -/

/-- An invalidation of domain 0 that no cache has applied, and entries that it names and does not name. -/
def invalidating : State :=
  let e (page : Nat) : TlbEntry := { cache := 0, domain := 0, asid := 0, page := page, leaf := { r := true, w := true, a := true, e := true, mt := .normal, key := 0, frame := 0 } }
  { ready with
    tlb := [e 1, e 9], invals := [{ id := 1, tile := 0, ctx := 0, count := 1, domain := 0, asid := none, page := 0, pages := 4, applied := [], old := [] }] }

theorem witness_InvalidationsDrain :
    meets (ready (packLanes 64 [0, 0, nullWitness.toNat])) (sample .tlbir) (fun fr => fr.any && fr.a64 0 % 2 ^ 16 == 0 && fr.b64 0 == 0 &&
      ready.standing fr.t (BitVec.ofNat 64 (fr.a64 2)) != .malformed) = true ∧
    meets (ready (packLanes 64 [1, 0, nullWitness.toNat])) (sample .tlbir) (fun fr => fr.any && fr.a64 0 % 2 ^ 16 == 1) = true ∧
    meets (ready (packLanes 64 [0, 0, nullWitness.toNat]) (2 ^ 16 + 1)) (sample .tlbir) (fun fr => fr.any && (fr.b64 0).testBit 16 && fr.b64 0 % 2 ^ 16 != 0) = true ∧
    meets (ready (packLanes 64 [0, 0, 0x9000000000000000])) (sample .tlbir) (fun fr => fr.any &&
      ready.standing fr.t (BitVec.ofNat 64 (fr.a64 2)) == .malformed) = true ∧
    meets (noLanes ready) (sample fun f => .tlbir { f with sa := .i 0 }) (fun fr => !fr.any) = true ∧
    (invalidating.invals.find? fun v => v.id = 1).any (fun v => !v.applied.contains 0 && invalidating.cacheDomain 0 == some v.domain) = true ∧
    meets ready (sample .tlbsy) (fun fr => fr.any) = true ∧
    (let s := after (sample .tlbsy) ready
     (s.requests.find? fun r => r.id = 1).any (fun r => r.kind == .tlbsy 0 []) = true ∧ s.allDrained [] = true ∧ (s.outstanding.find? fun o => o.id = 1).isSome = true) ∧
    invalidating.allDrained [1] = false ∧
    meets (ready (packLanes 64 [0, 1])) (sample .tlbir) (fun fr => fr.any && fr.a64 1 % 2 ^ 16 == 1) = true ∧ meets (ready 0 (2 ^ 17)) (sample .tlbir) (fun fr => fr.b64 0 / 2 ^ 17 == 1) = true ∧
    (invalidating.invals.find? fun v => v.id = 2) = none ∧ (invalidating.setDomain 0 Domain.clean).cacheDomain 0 = none ∧
    ((after (.tlbInvalidateApply 1 0) invalidating).invals.find? fun v => v.id = 1).any (fun v => v.applied.contains 0) = true := by decide +kernel

/-- Key slot 3 in a state, for domain 0. -/
def keyed (st : KeyState) (s : State := ready) : State := s.setKeySlot 3 { KeySlot.clean with state := st }

/-- Context 0 of a tile that no lath owns, or that of the root lath without its privilege, is neither root nor owner. -/
def common (s : State) : State := s.setCtx 0 0 { s.ctx 0 0 with word := { (s.ctx 0 0).word with priv := false } }

def ksltInstrs : List ((Slot → Instr) × Nat) := [(.ksltAssign, 0), (.ksltLoad, 1), (.ksltGenerate, 2), (.ksltClear, 3)]

theorem witness_KeySlots :
    ready.fromRoot (.element 0 0) = true ∧ ready.fromLath (.element 0 0) (some 0) = true ∧ (common ready).fromRoot (.element 0 0) = false ∧
    (ksltInstrs.all fun p => meets (noLanes ready) (sample (fun f => p.1 { f with sb := .i 0 }) p.2) (fun fr => !fr.any)) = true ∧
    (let m (st : KeyState) (p : (Slot → Instr) × Nat) : Bool := meets (keyed st (ready 1 3)) (sample p.1 p.2) (fun fr => fr.any && fr.b64 0 % 256 == 3)
     (ksltInstrs.all fun p => m .unassigned p && m .empty p && m .loaded p) = true) ∧
    (ksltInstrs.all fun p => meets (common (keyed .empty (ready 1 3))) (sample p.1 p.2) (fun fr => fr.any && fr.b64 0 % 256 == 3)) = true ∧
    meets (keyed .empty (ready 0 3)) (sample .ksltLoad 1) (fun fr => fr.any && fr.a.val.extractLsb' 0 256 == fr.a.val.extractLsb' 256 256) = true ∧
    (ready.keySlot 3).state ≠ .clearing ∧ ((keyed .clearing).keySlot 3).state = .clearing ∧ (keyed .clearing).keyInUse 0 = false ∧
    (let s : State := { keyed .clearing with accesses := [{ Access.blank ready 0 0 0 with pieces := [{ aStore 4 with key := 6 }] }] }
     (s.setKeySlot 3 { KeySlot.clean with state := .clearing, ident := 6, byRoot := true }).keyInUse 6 = true) := by decide +kernel

/-! ### Domains and device registers -/

/-- Domain 1 at a step towards a target, with the sectors that have joined. -/
def resizing (step : Nat) (shape target : Shape) (d0 : V512 := 1) (joined : List Nat := []) : State :=
  (ready d0).setDomain 1 { Domain.clean with step := step, shape := shape, target := target, joined := joined } |>.setDomain 0 { ready.domain 0 with shape := ⟨0, 0, 1, 1⟩ }

def dctlInstrs : List ((Slot → Instr) × Nat) := [(.dctlDefine, 0), (.dctlQuiesce, 1), (.dctlScrub, 2), (.dctlSwitch, 3), (.dctlReload, 4)]

/-- The word of a shape of domain 1: one sector at x = 3 (R458). -/
def shapeWord : V512 := BitVec.ofNat 512 (1 + 3 * 2 ^ 4 + 1 * 2 ^ 8 + 1 * 2 ^ 11)

theorem witness_DomainsResize_checks :
    (dctlInstrs.all fun p =>
      meets (noLanes ready) (sample (fun f => p.1 { f with sa := .i 0 }) p.2) (fun fr => !fr.any) &&
      meets (common ready) (sample p.1 p.2) (fun fr => fr.any && !(common ready).fromRoot (.element 0 0)) &&
      meets (resizing 9 ⟨0, 0, 0, 0⟩ ⟨0, 0, 0, 0⟩) (sample p.1 p.2) (fun fr => fr.any && fr.a64 0 % 16 == 1 && ((resizing 9 ⟨0, 0, 0, 0⟩ ⟨0, 0, 0, 0⟩).domain 1).step == 9) &&
      meets (resizing p.2 ⟨0, 0, 0, 0⟩ ⟨0, 0, 0, 0⟩ (shapeWord + 2 ^ 14)) (sample p.1 p.2) (fun fr => fr.any && fr.a64 0 / 2 ^ 14 != 0 &&
        (p.2 != 0 || !(resizing p.2 ⟨0, 0, 0, 0⟩ ⟨0, 0, 0, 0⟩).badShape 1 (shapeOf (fr.a64 0)) false))) = true ∧
    (resizing 0 ⟨0, 0, 0, 0⟩ ⟨0, 0, 0, 0⟩).fromRoot (.element 0 0) = true ∧
    meets (resizing 0 ⟨0, 0, 0, 0⟩ ⟨0, 0, 0, 0⟩ (shapeWord - 3 * 2 ^ 4)) (sample .dctlDefine) (fun fr => fr.any &&
      (resizing 0 ⟨0, 0, 0, 0⟩ ⟨0, 0, 0, 0⟩).badShape 1 (shapeOf (fr.a64 0)) false) = true := by decide +kernel

theorem witness_DomainsResize_steps :
    meets (resizing 0 ⟨0, 0, 0, 0⟩ ⟨0, 0, 0, 0⟩ shapeWord) (sample .dctlDefine) (fun fr => fr.any && fr.a64 0 / 2 ^ 14 == 0 &&
      !(resizing 0 ⟨0, 0, 0, 0⟩ ⟨0, 0, 0, 0⟩).badShape 1 (shapeOf (fr.a64 0)) false) = true ∧
    ([⟨3, 0, 1, 1⟩, ⟨0, 0, 0, 0⟩].all fun t => meets (resizing 1 ⟨3, 0, 1, 1⟩ t) (sample .dctlQuiesce 1) (fun fr => fr.any && fr.a64 0 / 2 ^ 14 == 0)) = true ∧
    (resizing 1 ⟨3, 0, 1, 1⟩ ⟨0, 0, 0, 0⟩).insts = [] ∧ (resizing 1 ⟨3, 0, 1, 1⟩ ⟨0, 0, 0, 0⟩).quiet 1 = true ∧
    (engaged 12 1 none (resizing 1 ⟨3, 0, 1, 1⟩ ⟨0, 0, 0, 0⟩)).quiet 1 = true ∧ (engaged 24 1 none (resizing 1 ⟨3, 0, 1, 1⟩ ⟨0, 0, 0, 0⟩)).quiet 1 = false ∧
    meets (resizing 2 ⟨3, 0, 1, 1⟩ ⟨0, 0, 0, 0⟩) (sample .dctlScrub 2) (fun fr => fr.any) = true ∧
    (let s := after (.tlbInvalidateApply 1 0) (after (sample .dctlScrub 2) (resizing 2 ⟨3, 0, 1, 1⟩ ⟨0, 0, 0, 0⟩))
     (s.requests.find? fun r => r.id = 1).any (fun r => match r.kind with | .scrub d v => d == 1 && v == 1 | _ => false) = true ∧
       ({ s with invals := [] } : State).allDrained [1] = true) ∧
    meets (resizing 3 ⟨0, 0, 0, 0⟩ ⟨0, 0, 1, 1⟩) (sample .dctlSwitch 3) (fun fr => fr.any) = true ∧
    ((resizing 3 ⟨0, 0, 0, 0⟩ ⟨0, 0, 1, 1⟩).domain 1).joining = [0] ∧ (resizing 3 ⟨0, 0, 0, 0⟩ ⟨0, 0, 1, 1⟩).domainOf 0 = some 0 ∧
    meets (resizing 3 ⟨0, 0, 0, 0⟩ ⟨3, 0, 1, 1⟩) (sample .dctlSwitch 3) (fun fr => fr.any) = true ∧ (resizing 3 ⟨0, 0, 0, 0⟩ ⟨3, 0, 1, 1⟩).domainOf 3 = none ∧
    meets (resizing 4 ⟨3, 0, 1, 1⟩ ⟨3, 0, 1, 1⟩) (sample .dctlReload 4) (fun fr => fr.any) = true ∧
    meets (resizing 4 ⟨3, 0, 1, 1⟩ ⟨3, 0, 1, 1⟩ 1 [3]) (sample .dctlReload 4) (fun fr => fr.any) = true ∧
    (let s := resizing 4 ⟨3, 0, 1, 1⟩ ⟨3, 0, 1, 1⟩ 1 [3]
     (s.lathFail 1 (s.domain 1).shape (s.lathImage 1)).isSome = true) := by decide +kernel

/-- A sector that leaves with an instance running on it; a domain dissolved or made by SWITCH, with a key slot of it. -/
theorem witness_DomainsResize_leaving :
    (let s := resizing 1 ⟨3, 0, 1, 1⟩ ⟨0, 0, 0, 0⟩
     let t := ((List.range s.tileCount).find? fun t => sectorOf t == 3 && !isLathTile t).getD 0
     let u := { s.setTile t { s.tile t with inst := 5 } with insts := [{ anInst t 1 with domain := 1 }] }
     (u.inst? 1 5).any (fun x => x.phase == .running && x.region == [t]) = true ∧ (u.domain 1).leaving.contains (sectorOf t) = true ∧ (u.domain 1).resetting = false) ∧
    (let s := resizing 3 ⟨3, 0, 1, 1⟩ ⟨0, 0, 0, 0⟩
     (s.domain 1).target.w = 0 ∧ (s.domain 1).shape.w ≠ 0 ∧ (s.domain 1).joining = [] ∧ (s.domain 1).leaving = [3] ∧ sectorOfColumn 6 = 3 ∧
       (s.setKeySlot 7 { KeySlot.clean with domain := 1, state := .empty }).keySlot 7 = { KeySlot.clean with domain := 1, state := .empty }) ∧
    (let s := resizing 3 ⟨0, 0, 0, 0⟩ ⟨3, 0, 1, 1⟩
     (s.domain 1).shape.w = 0 ∧ (s.domain 1).target.w ≠ 0 ∧ writerSector 4870 = some 3 ∧ 4870 ∈ s.writerList) := by decide +kernel

/-- A lath image, signed, of the tile of tinyBlank (R85, R88, R93). -/
def aLathImage : StoredImage := { tinyBlank 3 with len := tinyBlank.len + 3328, val := (tinyBlank 3).val + 3 * 2 ^ 48 + 3328 * 2 ^ 192 }

/-- An image under its digest whose signature verifies is accepted when its other checks find nothing. -/
theorem loadCheck_signed {v : Variant} {dims : Nat × Nat} {im : StoredImage} (hdr : headerFails (named im) = [])
    (rcs : recordFails (named im) (named im).parse.1 (named im).parse.2 = []) (til : (named im).parse.1.tiles.flatMap (TileRec.fails (named im).parse.1 ⟨v.layers, dims.1, dims.2⟩ v) = [])
    (rts : (named im).parse.1.routers = []) (sgn : (named im).parse.1.signed = true) (lay : v.layers < (named im).parse.1.layers ↔ False)
    (rsv : (decide (4 ≤ (named im).at 6 1) || (named im).at 7 1 != 0 || (named im).at 19 1 != 0 || (named im).at 28 4 != 0 || (named im).at 64 64 != 0 ||
      (true && (named im).at (128 + (named im).parse.1.body + 3325) 3 != 0) || (named im).parse.1.ports.any fun p => p.rsv != 0) = false) :
    loadCheck v dims true (named im) = none := by
  have id' : BitVec.ofNat 128 (shakeBytes (named im).signedBytes 16) = (named im).id := by
    rw [signedBytes_of_val (a := named im) (b := im) (by simp only [named])]; simp only [named]
  simp only [loadCheck, hdr, rcs, til, rts, sgn, lay, rsv, id', bne_self_eq_false, Bool.not_true, Bool.and_false]
  rfl

theorem lathFail_none {s : State} {d : Nat} {sh : Shape} {im : StoredImage} (h : loadCheck s.variant sh.sites (s.signatureOk d im) im = none)
    (l : im.parse.1.lath = true) (r : sh.holds im.parse.1 = true) : s.lathFail d sh (some im) = none := by
  have e : s.lathFail d sh (some im) = (match loadCheck s.variant sh.sites (s.signatureOk d im) im with
    | some fl => some fl.status.code
    | none => if im.parse.1.lath = false then some (LoadStatus.code .badHeader) else if sh.holds im.parse.1 then none else some (LoadStatus.code .noRegion)) := rfl
  rw [e, h]
  exact (if_neg (by rw [l]; decide)).trans (if_pos r)

/-- Domain 1 at its RELOAD with that image. -/
def reloading : State := { resizing 4 ⟨3, 0, 1, 1⟩ ⟨3, 0, 1, 1⟩ 1 [3] with lathImages := [(1, named aLathImage)] }

/-- That image is one that a RELOAD finds nothing against, where its signature verifies (log 8: whether one does is no value of the model's). -/
theorem witness_DomainsResize_reload (h : reloading.signatureOk 1 (named aLathImage) = true) :
    reloading.lathImage 1 = some (named aLathImage) ∧ reloading.lathFail 1 (reloading.domain 1).shape (some (named aLathImage)) = none := by
  have dims : (reloading.domain 1).shape.sites = (12, 12) := by decide +kernel
  have lath : (named aLathImage).parse.1.lath = true := by decide +kernel
  have ok : loadCheck reloading.variant (12, 12) true (named aLathImage) = none :=
    loadCheck_signed (im := aLathImage) (v := reloading.variant) (dims := (12, 12)) (by decide +kernel) (by decide +kernel) (by decide +kernel) (by decide +kernel)
      (by decide +kernel) (by decide +kernel) (by decide +kernel)
  have held : (reloading.domain 1).shape.holds (named aLathImage).parse.1 = true := by decide +kernel
  exact ⟨by simp [State.lathImage, reloading], lathFail_none (by rw [dims, h]; exact ok) lath held⟩

theorem witness_DeviceRegisters_places : tierOf (8 * 2 ^ 48) = 8 ∧ tierOf 0 ≠ 8 ∧ regAt (2 ^ 47) = none ∧ (regAt 0).isSome = true ∧
    (regAt 0).any (fun r => ready.mayRead (.element 0 0) r) = true ∧ (regAt 4096).any (fun r => !(resizing 4 ⟨3, 0, 1, 1⟩ ⟨3, 0, 1, 1⟩).mayRead (.element 3718 0) r) = true := by
  decide +kernel

theorem witness_DeviceRegisters_issuers : ready.fromLath .host (some 0) = false ∧ ready.fromRoot .host = false ∧ ready.fromLath (.element 0 0) (some 0) = true ∧
    ready.fromRoot (.element 0 0) = true ∧ SMap.get ready.halts 0 0 = 0 ∧ ((inhabited 0 1 ready).inst? 0 5).isSome = true ∧ SMap.get (halted .halting none).halts 0 0 ≠ 0 ∧
    (ready.inst? 0 5).isSome = false ∧ ready.firstDctl = false ∧ ready.flush = none ∧ ({ ready with flush := some (1, false) } : State).flush.isSome = true := by decide +kernel

/-- A value of DOM_CTL at its lowest divider and level, the next ones outside; of DOM_TRUST with 64 entries and with 65; of ENERGY_CTL with a window and without. -/
theorem witness_DeviceRegisters_values :
    (let v : BitVec 64 := BitVec.ofNat 64 (2 ^ 36 * 2 + 2 ^ 40)
     v.toNat / 2 ^ 36 % 16 = 2 ∧ v.toNat / 2 ^ 40 % 4 = 1) ∧
    (let v : BitVec 64 := BitVec.ofNat 64 (2 ^ 36 * 8 + 3 * 2 ^ 40)
     v.toNat / 2 ^ 36 % 16 = 8 ∧ v.toNat / 2 ^ 40 % 4 = 3) ∧
    (BitVec.ofNat 64 (2 ^ 36) : BitVec 64).toNat / 2 ^ 36 % 16 = 1 ∧ (BitVec.ofNat 64 (64 * 2 ^ 36) : BitVec 64).toNat / 2 ^ 36 % 128 = 64 ∧
    (BitVec.ofNat 64 (65 * 2 ^ 36) : BitVec 64).toNat / 2 ^ 36 % 128 = 65 ∧ (BitVec.ofNat 64 (2 ^ 32) : BitVec 64).toNat / 2 ^ 32 % 2 ^ 16 = 1 ∧
    (4607 * 2 ^ 5 : BitVec 64).toNat / 2 ^ 5 % 2 ^ 13 = 4607 ∧ (4608 * 2 ^ 5 : BitVec 64).toNat / 2 ^ 5 % 2 ^ 13 = 4608 ∧
    ({ ready with mem := ready.mem.setByte 40 1 } : State).attestOp 0 0 = 1 ∧ ready.attestOp 0 0 ≠ 1 ∧ attestAnswer ready 0 (2 ^ 51) = none ∧
    (attestAnswer ready 0 0).isSome = true := by decide +kernel

/-- Shares and a far range that DOM_SHARE takes, none and some; shares above 64 with those of the others, a base and a size above their ends, and a range in a far memory
of which the domain has no share. -/
theorem witness_DeviceRegisters_shares :
    (let total (get : Domain → Nat) : Nat := ((List.range 16).filter (· != 1)).foldl (fun acc k => acc + get (ready.domain k)) 0
     let f (h l c base size : Nat) : List Nat := [h, l, c, base, size]
     let fields (v : Nat) : List Nat := [v % 128, v / 2 ^ 7 % 128, v / 2 ^ 14 % 128, v / 2 ^ 21 % 2 ^ 15, v / 2 ^ 36 % 2 ^ 15]
     fields (64 + 64 * 2 ^ 7 + 64 * 2 ^ 14 + 16383 * 2 ^ 21 + 16384 * 2 ^ 36) = f 64 64 64 16383 16384 ∧ fields (1 * 2 ^ 36 + 2 ^ 7) = f 0 1 0 0 1 ∧
       fields (1 * 2 ^ 36) = f 0 0 0 0 1 ∧ fields (65 + 2 ^ 21 * 16384 + 2 ^ 36 * 16385) = f 65 0 0 16384 16385 ∧
       fields (2 ^ 7 + 1024 * 2 ^ 21 + 1 * 2 ^ 36) = f 0 1 0 1024 1 ∧ total (·.shareHost) ≤ 64 ∧ total (·.shareLpddr) ≤ 64 ∧ total (·.shareCxl) ≤ 64) := by decide +kernel

/-- Epoch periods that stay in order and ones that do not, the shortest and one shorter. -/
theorem witness_DeviceRegisters_epochs : ([2, 3, 4, 5, 6, 7].all fun k => at9 (set9 ready.periods 2 64) k ≤ at9 (set9 ready.periods 2 64) (k + 1)) = true ∧
    ([2, 3, 4, 5, 6, 7].any fun k => at9 (set9 ready.periods 2 0xFFFF) (k + 1) < at9 (set9 ready.periods 2 0xFFFF) k) = true ∧
    (16 : BitVec 64).toNat % 2 ^ 16 = 16 ∧ (15 : BitVec 64).toNat % 2 ^ 16 = 15 := by decide +kernel

/-! ### Energy, faults, recovery -/

theorem witness_EnergyCounters : ([0, 1, 2].all fun k => meets ready (sample .ecnt k) (fun fr => fr.any)) = true := by decide +kernel

/-- A record of tile 2, halting or not, that is on its way. -/
def aRecord (halted : Bool) : FaultRecord := { ready.unitRecord 2 6 1 0 0 with ctx := 0, halted := halted }

/-- Domain 0 with a fault queue that holds records. -/
def queueing (n : Nat) (s : State := ready) : State :=
  { s with faultQueues := SMap.set s.faultQueues 0 { s.faultQueue 0 with records := List.replicate n (aRecord false) } }

theorem witness_FaultQueues :
    ((({ ready with records := [aRecord true] } : State).nextRecordFor 0 [aRecord true] []).isSome = true ∧ ready.route (aRecord true) = .queue 0 ∧ (ready.faultQueue 0).records.length < 1024) ∧
    (let s := ready.setCtx 2 0 { ready.ctx 2 0 with halt := some { HaltInfo.first with record := (aRecord true).number, cls := 6, cause := 1 } }
     (s.ctx 2 0).halt.any (fun h => h.record == (aRecord true).number) = true) ∧
    ((queueing 1024).nextRecordFor 0 [aRecord false] []).isSome = true ∧ ((queueing 1024).nextRecordFor 0 [aRecord true] []).isNone = true ∧
    (let r := { aRecord true with source := 0 }
     ready.route r = .management ∧ (ready.nextRecordFor 0 [r] []).isSome = true) ∧
    meets (queueing 1 (ready 3)) (sample .frec) (fun fr => fr.any && fr.a64 0 / 8 == 0 && fr.a64 0 % 4 == 3) = true ∧
    meets (queueing 1 (ready 4)) (sample .frec) (fun fr => fr.any && (fr.a64 0).testBit 2) = true ∧
    meets (queueing 1 (ready 8)) (sample .frec) (fun fr => fr.any && fr.a64 0 / 8 == 1) = true ∧
    meets (noLanes (queueing 1)) (sample fun f => .frec { f with sa := .i 0 }) (fun fr => !fr.any) = true ∧
    (ready.faultQueue ((ready.tileDomain ready.cur.tile).getD 0)).records = [] ∧
    (let r := { aRecord true with source := 0 }
     let s := { ready.setCtx 0 1 { ready.ctx 0 1 with halt := some { HaltInfo.first with record := r.number } } with records := [r] }
     s.route r = .management ∧ (s.nextRecordFor 0 s.records []).isSome = true ∧ (s.ctx r.source 1).halt.isSome = true) ∧
    (ready.nextRecordFor 0 ready.records []).isNone = true ∧ (aRecord true).source < 2 ^ 16 ∧ (aRecord true).ctx < 2 ^ 8 ∧ (aRecord true).slot < 2 ^ 8 ∧ (aRecord true).cls < 2 ^ 8 ∧
    (aRecord true).cause < 2 ^ 8 ∧ (aRecord true).serial < 2 ^ 64 := by decide +kernel

/-- Context 1 of tile 2 halted under SERIAL 4, with a re-arm witness or none. -/
def stopped (rearm : Option W64) (s : State) : State :=
  let w := (testCtx 0 0 0).word
  s.setCtx 2 1 { Ctx.loaded { w with priv := false } [] with
    run := .halted, halt := some { HaltInfo.first with serial := 4, record := 1, cls := 6, cause := 1, rearm := rearm } }

/-- The word of FRSM that names context 1 of tile 2 with an action. -/
def frsmWord (action : Nat) : Nat := 2 + 1 * 2 ^ 13 + action * 2 ^ 16

def frsmInstrs : List ((Slot → Instr) × Nat) := [(.frsmRetry, 0), (.frsmRetire, 0), (.frsmKill, 0)]

theorem witness_Rearming :
    (frsmInstrs.all fun p =>
      meets (noLanes ready) (sample (fun f => p.1 { f with sa := .i 0 }) p.2) (fun fr => !fr.any) &&
      meets (ready (2 ^ 18)) (sample p.1 p.2) (fun fr => fr.any && fr.a64 0 / 2 ^ 18 != 0) &&
      meets (ready (packLanes 64 [0, 0, 0x9000000000000000])) (sample p.1 p.2) (fun fr => fr.any && ready.standing fr.t (BitVec.ofNat 64 (fr.a64 2)) == .malformed)) = true ∧
    ([((Instr.frsmRetry), 0, 0), (.frsmRetry, 0, 1), (.frsmRetry, 0, 2), (.frsmRetire, 0, 1), (.frsmKill, 0, 2)].all fun p =>
      let s (serial : Nat) := stopped none (inhabited 2 1 (ready (packLanes 64 [frsmWord p.2.2, serial, nullWitness.toNat])))
      meets (s 9) (sample p.1 p.2.1) (fun fr => fr.any && ((s 9).frsmTarget fr (frsmAsk fr)).isNone && fr.a64 0 / 2 ^ 16 % 4 == p.2.2) &&
      meets (s 4) (sample p.1 p.2.1) (fun fr => fr.any && ((s 4).frsmTarget fr (frsmAsk fr)).isSome && ((s 4).tile (fr.a64 0 % 2 ^ 13)).inst == 5)) = true ∧
    (let s := stopped (some nullWitness) ready
     (s.noteLift 2 nullWitness).standing 2 nullWitness = .satisfied ∧ (s.ctx 2 1).run = .halted ∧ (s.ctx 2 1).halt.any (fun h => h.rearm == some nullWitness && h.reissue.isEmpty && h.skimSlots.isEmpty) = true ∧
       ∀ k, k < 8 → k ≠ 1 → (s.ctx 2 k).halt = none) ∧
    ((stopped (some 1) ready).noteLift 2 1).standing 2 1 = .pending := by decide +kernel

/-- Action 3; RETIRE and KILL with another action than their own; a KILL of a context of no instance; a context of the root lath, and one of another domain. -/
theorem witness_Rearming_other :
    meets (ready (packLanes 64 [frsmWord 3, 0, nullWitness.toNat])) (sample .frsmRetry) (fun fr => fr.any && fr.a64 0 / 2 ^ 16 % 4 == 3) = true ∧
    ([(Instr.frsmRetire), .frsmKill].all fun mk => meets (ready (packLanes 64 [frsmWord 0, 0, nullWitness.toNat])) (sample mk) (fun fr => fr.any && fr.a64 0 / 2 ^ 16 % 4 == 0)) = true ∧
    (let s := stopped none (ready (packLanes 64 [frsmWord 2, 4, nullWitness.toNat]))
     meets s (sample .frsmKill) (fun fr => fr.any && (s.frsmTarget fr (frsmAsk fr)).isSome && (s.tile (fr.a64 0 % 2 ^ 13)).inst == 0) = true) ∧
    ready.rootCtx 2 1 = false ∧ ready.rootCtx 0 0 = true := by decide +kernel

/-- A router of site 0 whose east link has a beat to send, after a number of failed attempts. -/
def linked (attempts : Nat) (st : LinkState := .full) : State :=
  ready.setRouter 0 { Router.clean with staged := [(32, [beat 7])], attempts := [(1, attempts)], link := [(1, st)] }

/-- Context 0 of tile 2 with a beat in o0, bound to the link east on channel 0, and its router with beats at a port. -/
def sending (n : Nat) : State :=
  let c := testCtx 0 0 0
  let s := ready.setCtx 2 0 { c with word := { c.word with obind := set8 c.word.obind 0 (.link 1 0) }, outs := set8 c.outs 0 [.full (beat 7)] }
  s.setRouter (siteOfTile 2) { Router.clean with ins := [(32 * 6, List.replicate n (beat 1))] }

/-- A router of a site with a beat at its west port on channel 0 and routing words. -/
def routing (site : Nat) (ws : List RWord) (s : State := ready) : State := s.setRouter site { Router.clean with words := ws, ins := [(32 * 3, [beat 7])] }

def aWord (out : Nat) : RWord := { inPort := 3, inVc := 0, outSet := BitVec.ofNat 7 out, outVc := none, inst := 0 }

/-- Tile 2 with a context that hears port W on channel 0 and holds beats. -/
def hearing (n : Nat) : State :=
  let c := testCtx 0 0 0
  routing (siteOfTile 2) [aWord 64]
    (ready.setCtx 2 0 { c with word := { c.word with ibind := set8 c.word.ibind 0 (.link 3 0) }, ins := set8 c.ins 0 (List.replicate n (beat 1)) })

theorem witness_HardwareErrors : (State.sectorOfGranule 0).isSome = true ∧ tierOf (16 * 0) = 0 ∧ tierOf (16 * (2 * 2 ^ 44)) = 2 ∧ tierOf (16 * (5 * 2 ^ 44)) = 5 ∧
    ready.mayRetire 2 9 = false ∧ ready.mayRetire 2 3 = true ∧
    0 < ready.sparesOf (columnOf 2) ∧ ({ ready with spares := [(0, 0)] } : State).sparesOf (columnOf 2) = 0 ∧ ({ ready with spares := [(0, 0)] } : State).mayRetire 2 3 = true ∧
    ((linked 0).router 0).waiting 1 = true ∧ ((linked 0).router 0).linkState 1 = .full ∧ SMap.get ((linked 0).router 0).attempts 1 0 < 16 ∧
    16 ≤ SMap.get ((linked 16).router 0).attempts 1 0 ∧ ((linked 16 .degraded).router 0).linkState 1 ≠ .down ∧ ((linked 0 .down).router 0).linkState 1 = .down ∧
    (ready.router 0).waiting 1 = false := by decide +kernel

/-- Each place that an error may strike; a tile out of service already; the stores to its register that a root lath may make and may not. -/
theorem witness_HardwareErrors_places :
    (let s := hearing 1
     ([CheckPlace.granule 0 true, .router (siteOfTile 2) 3 0 0, .input 2 0 0 0, .output 2 0 0 0, .skim 2 1, .element 2 0, .copy 2].all s.hasPlace) = true ∧
       ((s.router (siteOfTile 2)).buf 3 0)[0]? = some (beat 7) ∧ (at8 (s.ctx 2 0).ins 0)[0]? = some (beat 1) ∧
       ([CheckPlace.granule 0 true, .element 2 0].all fun p => (s.placeSector p).isSome && (placeTile p).isSome) = true ∧ placeTile (.element 2 1) = some 2) ∧
    (ready.sliceOf (3 * 2 ^ 44) = some 0 ∧ ready.sliceOf 0 = none ∧
      ((ready.setDomain 0 { ready.domain 0 with shareHost := 1, farBase := 0, farSize := 1 }).sliceOf (4 * 2 ^ 44)).isSome = true) ∧
    ((at8 ((sending 0).ctx 2 0).outs 0)[0]? = some (.full (beat 7))) ∧
    (let s := ready.setTile 2 { ready.tile 2 with health := { (ready.tile 2).health with retired := true, reason := 1 } }
     s.mayRetire 2 5 = true ∧ (s.tile 2).health.retired = true) ∧
    (ready.fromRoot (.element 0 0) = true ∧ (1 + 3 * 2 ^ 28 : BitVec 64).toNat.testBit 0 = true ∧ (1 + 3 * 2 ^ 28 : BitVec 64).toNat / 2 ^ 28 % 16 = 3 ∧
      ready.fromRoot .host = false ∧ (2 : BitVec 64).toNat.testBit 0 = false) ∧
    (let s := ready.setCtx 2 0 (testCtx 0 0 0)
     (s.ctx 2 0).word.valid = true ∧ (s.ctx 2 0).run = .runnable) ∧
    ready.beyond 0 1 = some 1 ∧ holderOf 0 < ready.tileCount := by decide +kernel

theorem witness_ThermalControl : ready.domainOf 0 = some 0 ∧ (ready.domain 0).clamp = false ∧
    ((ready.setDomain 0 { ready.domain 0 with clamp := true }).domain 0).clamp = true ∧ ready.thermalHalt = false ∧ ready.phase = 8 ∧ (ready.domain 0).shape.w ≠ 0 ∧
    ({ ready with thermalHalt := true } : State).thermalHalt = true ∧ (ready.setDomain 0 Domain.clean).domainOf 0 = none ∧ State.reset.phase ≠ 8 := by decide +kernel

/-! ### Fabric -/

theorem witness_FabricMovesBeats_out :
    ([0, 4].all fun n => let s := sending n
      at8 (s.ctx 2 0).outs 0 == [.full (beat 7)] && at8 (s.ctx 2 0).word.obind 0 == .link 1 0 && !s.heldBack 2 0 0 && ((s.tile 2).skim.toList.all fun k => k.emit.isNone) &&
      ((s.router (siteOfTile 2)).buf 6 0).length == n) = true ∧ at8 (ready.ctx 2 0).outs 0 = [] := by decide +kernel

theorem witness_FabricMovesBeats_route :
    ((routing 1 []).router 1).buf 3 0 = [beat 7] ∧ routeOf (routing 1 []) 1 3 0 (beat 7) = none ∧ routeOf (routing 1 [aWord 1]) 1 3 0 (beat 7) = some (1, 0) ∧
    (routing 1 [aWord 1]).portSpace 1 0 0 = true ∧ (routing 1 [aWord 1]).openEnd 1 0 0 = false ∧
    (let s := (routing 1 [aWord 1]).setRouter 49 { Router.clean with ins := [(32 * 2, List.replicate 4 (beat 1))] }
     routeOf s 1 3 0 (beat 7) = some (1, 0) ∧ s.portSpace 1 0 0 = false) ∧
    ([0, 8].all fun n => let s := hearing n
      routeOf s (siteOfTile 2) 3 0 (beat 7) == some (64, 0) && elementAtSite (siteOfTile 2) == some 2 && receiver (s.tile 2) 3 0 none 0 == some (0, 0) && (s.ctx 2 0).run == .runnable &&
      (at8 (s.ctx 2 0).ins 0).length == n) = true := by decide +kernel

/-- A beat held back; one bound to a ring of the module and to one beyond it. -/
theorem witness_FabricMovesBeats_rings :
    (let c := testCtx 0 0 0
     let s (level : Fin 6) := ready.setCtx 2 0 { c with word := { c.word with obind := set8 c.word.obind 0 (.ring level 0), ibind := set8 c.word.ibind 1 (.ring level 0) }, outs := set8 c.outs 0 [.full (beat 7)] }
     at8 ((s 2).ctx 2 0).outs 0 = [.full (beat 7)] ∧ at8 ((s 2).ctx 2 0).word.obind 0 = .ring 2 0 ∧ ready.ringPort 3 0 = some 1 ∧ ready.ringPort 5 1 = some 31 ∧
       ({ ready with ringLevels := Vector.replicate 32 4 } : State).ringPort 3 0 = none ∧ ready.ringLevels.toList[0]? = some 3 ∧
       receiver ((s 3).tile 2) 7 0 (some 3) 0 = some (0, 1) ∧ ((s 3).ctx 2 0).run ≠ .retired ∧ (at8 ((s 3).ctx 2 0).ins 1).length < 8 ∧ elementAtSite (siteOfTile 2) = some 2 ∧
       elementAtSite 1 = none ∧ ((s 3).setCtx 2 0 { (s 3).ctx 2 0 with ins := set8 ((s 3).ctx 2 0).ins 1 (List.replicate 8 (beat 1)) } |>.ctx 2 0 |> fun c => (at8 c.ins 1).length) = 8) := by
  decide +kernel

/-- A beat for more than one port; one that no binding of the element takes; one for a retired context; one for a port whose path ends there; one held back for a link
that is asked for. -/
theorem witness_FabricMovesBeats_ends :
    routeOf (routing 1 [aWord 3]) 1 3 0 (beat 7) = some (3, 0) ∧ routeOf (routing (siteOfTile 2) [aWord 64]) (siteOfTile 2) 3 0 (beat 7) = some (64, 0) ∧
    receiver ((routing (siteOfTile 2) [aWord 64]).tile 2) 3 0 none 0 = none ∧
    (let s := (hearing 0).setCtx 2 0 { (hearing 0).ctx 2 0 with run := .retired }
     receiver (s.tile 2) 3 0 none 0 = some (0, 0) ∧ (s.ctx 2 0).run = .retired) ∧
    (let s := (routing 1 [aWord 1]).setRouter 1 { (routing 1 [aWord 1]).router 1 with unlinked := [(0, 0)] }
     routeOf s 1 3 0 (beat 7) = some (BitVec.ofNat 7 (2 ^ 0), 0) ∧ s.openEnd 1 0 0 = true) ∧
    (let s := { sending 0 with pool := [{ anEntry with tile := 2 }], library := [tinyBlank] }
     s.heldBack 2 0 0 = true) := by decide +kernel

/-- Condition tokens: a token at the west port of a router on channel 0. -/
def conditioned (ctl : List RWord) (n : Nat) : State :=
  let c := testCtx 0 0 0
  let s := ready.setCtx 2 0 { c with cins := set4 c.cins 0 (List.replicate n true) }
  s.setRouter (siteOfTile 2) { Router.clean with ctl := ctl, cins := [(16 * 3, [true])] }

theorem witness_FabricMovesBeats_links :
    ([LinkState.full, .down].all fun st => let s := linked 0 st
      s.beyond 0 1 == some 1 && (vcOrder (SMap.get (s.router 0).last 1 31)).find? (fun v => !((s.router 0).staging 1 v).isEmpty) == some 0 &&
      (s.router 0).staging 1 0 == [beat 7] && (s.router 0).linkState 1 == st) = true ∧
    ([0, 8].all fun n => let s := conditioned [aWord 64] n
      ((s.takeCond (siteOfTile 2) 3 0).map fun x => x.1) == some true && condSink (s.tile 2) 0 == some (0, 0) && (at4 (s.ctx 2 0).cins 0).length == n) = true ∧
    (let s := conditioned [] 0
     (s.takeCond (siteOfTile 2) 3 0).isSome = true ∧ ((s.router (siteOfTile 2)).ctl.find? fun w => w.inPort == 3 && w.inVc == 0) = none) ∧
    (let c := testCtx 0 0 0
     let s := ready.setCtx 2 0 { c with couts := set4 c.couts 0 [true, false] }
     elementAtSite (siteOfTile 2) = some 2 ∧ condSource (s.tile 2) 0 = some (0, 0) ∧ (s.router (siteOfTile 2)).cbuf 6 0 = [] ∧
       at4 (s.ctx 2 0).couts 0 = [true, false]) := by decide +kernel

/-- A condition token for a link that may take it, that is down, whose neighbour is full, and whose turn is another channel's. -/
theorem witness_FabricMovesBeats_control :
    (let w (ch : Nat) : RWord := { inPort := 3, inVc := ch, outSet := BitVec.ofNat 7 (2 ^ 1), outVc := none, inst := 0 }
     let s := ready.setRouter 0 { Router.clean with ctl := [w 0, w 1], cins := [(16 * 3, [true]), (16 * 3 + 1, [false])] }
     let down := s.setRouter 0 { s.router 0 with link := [(1, .down)] }
     let full := s.setRouter 1 { Router.clean with cins := [(16 * opposite 1, List.replicate 4 true)] }
     let next := s.setRouter 0 { s.router 0 with clast := [(1, 0)] }
     (s.takeCond 0 3 0).isSome = true ∧ s.beyond 0 1 = some 1 ∧ s.condTurn 0 1 = some 0 ∧ ((s.router 1).cbuf (opposite 1) 0).length < 4 ∧ (s.router 0).linkState 1 ≠ .down ∧
       (let gone := s.setRouter 0 { s.router 0 with unlinked := [(1, 0)] }
        gone.openEnd 0 1 0 = true ∧ gone.condTurn 0 1 = some 0 ∧ (gone.setRouter 0 { gone.router 0 with clast := [(1, 0)] }).condTurn 0 1 = some 1) ∧
       s.openEnd 0 1 0 = false ∧ (down.router 0).linkState 1 = .down ∧ ((full.router 1).cbuf (opposite 1) 0).length = 4 ∧ next.condTurn 0 1 = some 1 ∧ (ready.router 0).cbuf 3 0 = []) := by decide +kernel

/-! ### Epochs -/

/-- The group of tile 0 at level 1 as given, and writer 0's view of it. -/
def grouped (g : Group) (view : Nat) : State :=
  (ready.setGroup 1 0 g).setWriter 0 { Writer.clean with views := set9 Writer.clean.views 1 view }

theorem witness_EpochsCloseInOrder :
    groupExists 1 0 = true ∧ ready.phase = 8 ∧ ready.members 1 0 = [0] ∧ ready.isWriter 0 = true ∧ ready.groupOf 0 1 = some 0 ∧ ready.groupOf 1 1 ≠ some 0 ∧ ready.isWriter 1 = true ∧
    (let s := grouped { Group.clean with hasten := true } 1
     (s.group 1 0).hasten = true ∧ s.view 0 1 = (s.group 1 0).opened) ∧
    (let s := grouped { Group.clean with opened := 2 } 1
     s.view 0 1 ≠ (s.group 1 0).opened) ∧
    (let s := grouped { Group.clean with opened := 3 } 3
     (s.group 1 0).closed + 1 < s.view 0 1 ∧ (s.group 1 0).closed + 1 < (s.group 1 0).opened ∧ s.accesses = []) ∧
    ¬ ((ready.group 1 0).hasten = true ∨ (ready.group 1 0).lastOpen < (ready.group 2 (columnOf 0)).lastOpen) ∧
    (stored.accesses.any fun a => decide (a.writer = 0) && a.owes && a.tags.any fun p => p.1 == 1 && decide (p.2 ≤ (stored.group 1 0).closed + 1)) = true := by decide +kernel

/-! ### Boot, host link, time -/

def found : BootFindings := { power := false, thermal := false, puf := false }

/-- The boot at a phase, with what the flash holds. -/
def booting (phase : Nat) (f : Flash → Flash := id) : State := { State.reset with phase := phase, flash := f State.reset.flash }

theorem witness_BootSequence : State.reset.powered = true ∧ State.reset.phase = 0 ∧ State.reset.flash.readable = true ∧ found.reading = false ∧ found.power = false ∧
    State.reset.flash.repairSigned = true ∧ State.reset.flash.configSigned = true ∧ State.reset.flash.rootLath = none ∧ 8 ≤ ready.phase ∧
    (booting 0 fun f => { f with readable := false }).flash.readable = false ∧ (booting 1 fun f => { f with repairSigned := false }).flash.repairSigned = false ∧
    (booting 1 fun f => { f with configSigned := false }).flash.configSigned = false ∧ (booting 5).phase = 5 := by decide

/-- A column whose two spares replace its first two failed tiles, not the third (R16); a root lath image that is refused, and one that is to be loaded. -/
theorem witness_BootSequence_repairs :
    (let ts := ((List.range State.reset.tileCount).filter fun t => columnOf t == 0).take 3
     let s := booting 2 fun f => { f with failed := ts }
     ts.length = 3 ∧ s.sparesOf 0 = 2 ∧ (ts.map fun t => ((s.flash.failed.eraseDups.takeWhile (· != t)).filter fun k => columnOf k == columnOf t).length) = [0, 1, 2]) ∧
    (let bad : StoredImage := { id := 0, len := 0, val := 0 }
     ((booting 5).lathFail 0 ⟨0, 0, 4, 4⟩ (some bad)).isSome = true ∧ (booting 6 fun f => { f with rootLath := some bad }).flash.rootLath = some bad) := by decide +kernel

/-- From reset the boot goes through phases 0 to 5 and stops with CODE 5: the flash of reset holds no root lath (R33, log 3). -/
theorem test_boot : (let s := (List.range 6).foldl (fun s _ => after (.bootSequence found) s) State.reset
    s.phase == 15 && s.bootCode == 5 && s.management == [.boot 6 5]) = true := by decide +kernel

theorem witness_HostLinkAndTime : ready.linkUp = false ∧ ({ ready with linkUp := true } : State).linkUp = true ∧ ({ State.reset with linkUp := true } : State).phase ≠ 8 ∧
    ready.inv = true ∧ tierOf (8 * 2 ^ 48) = 8 ∧ tierOf 5 < 2 ∧
    (∀ k, k < 4 → ready.mem.isPoison ((5 + k) / 16) = false ∧ ready.mem.keyOf ((5 + k) / 16) = 0 ∧ tierOf (5 + k) < 8 ∧ ready.backed (5 + k) = true) ∧
    ready.backed (2 ^ 47) = false ∧ (tierOf (mailboxPA 0) = 9 ∧ mailboxPA 0 % 2 ^ 48 / 0x10000 = 0x10000 ∧ ready.backed (mailboxPA 0) = true) ∧ ({ ready with mem := ready.mem.setPoison 0 true } : State).mem.isPoison (5 / 16) = true ∧
    (let s := ready.setPort 0 { ready.port 0 with enable := true, entryTile := 1 }
     s.portEnabled 0 = true ∧ (s.port 0).buffer.length < 64) ∧ ready.portEnabled 0 = false ∧ ready.timeJoined = false ∧
    (let s := { ready with timeJoined := true, ticks := 4800 }
     s.timeJoined = true ∧ s.lastSlew + 4800 ≤ s.ticks) ∧ ready.ticks < ready.lastSlew + 4800 := by decide +kernel

/-- A host write of two words whose first byte is inside a word: one word is covered whole (R225). -/
theorem test_hostWords : ((8 - 3 % 8) % 8, (16 - (8 - 3 % 8) % 8) / 8) = (5, 1) := by decide

end Sys2Proof.Tests
end

section
/-! SUPPORT. Numbers of n bytes in memory, one byte more at a time (R7), and that canonical cell lists with the same bytes are the same list: memory reads
back as last written (O28). -/

namespace Sys2Proof.Machine

open Sys2Proof

/-! ### A number of n bytes -/

theorem Memory.write_succ (m : Memory) (a n x : Nat) :
    m.write a (n + 1) x = (m.write a n x).setByte (a + n) (BitVec.ofNat 8 (x / 256 ^ n)) := by
  simp [Memory.write, List.range_succ]

/-- What follows a number's highest byte moves up by its length. -/
theorem foldr_bytes_from (f : Nat → Nat) (n top : Nat) :
    (List.range n).foldr (fun k acc => f k + 256 * acc) top = (List.range n).foldr (fun k acc => f k + 256 * acc) 0 + 256 ^ n * top := by
  induction n generalizing top with
  | zero => simp
  | succ n ih =>
    simp only [List.range_succ, List.foldr_append, List.foldr_cons, List.foldr_nil]
    rw [ih (f n + 256 * top), ih (f n + 256 * 0)]
    ring

theorem Memory.read_succ (m : Memory) (a n : Nat) : m.read a (n + 1) = m.read a n + 256 ^ n * (m.byte (a + n)).toNat := by
  have h := foldr_bytes_from (fun k => (m.byte (a + k)).toNat) n ((m.byte (a + n)).toNat + 256 * 0)
  simpa [Memory.read, List.range_succ] using h

/-- A number read depends on its own bytes only. -/
theorem Memory.read_congr {m k : Memory} {a n : Nat} (h : ∀ j, a ≤ j → j < a + n → m.byte j = k.byte j) : m.read a n = k.read a n := by
  induction n with
  | zero => rfl
  | succ n ih => rw [Memory.read_succ, Memory.read_succ, ih fun j h1 h2 => h j h1 (by omega), h (a + n) (by omega) (by omega)]

/-- A number of n bytes reads back modulo 2^(8n) (R7). -/
theorem Memory.read_write_same (m : Memory) (a n x : Nat) : (m.write a n x).read a n = x % 2 ^ (8 * n) := by
  induction n with
  | zero => simp [Memory.read, Nat.mod_one]
  | succ n ih =>
    have low : (m.write a (n + 1) x).read a n = x % 2 ^ (8 * n) := by
      rw [← ih, Memory.write_succ]
      exact Memory.read_congr fun j _ h2 => by rw [Memory.byte_setByte, if_neg (by omega)]
    have high : ((m.write a (n + 1) x).byte (a + n)).toNat = x / 256 ^ n % 256 := by simp [Memory.write_succ]
    have base : (256 : Nat) ^ n = 2 ^ (8 * n) := by rw [pow_mul]; norm_num
    rw [Memory.read_succ, low, high, base, Nat.mul_add 8 n 1, pow_add, Nat.mod_mul, mul_one, show (2 : Nat) ^ 8 = 256 from rfl]

/-! ### Canonical cell lists -/

theorem cellRead_below {lo k : Nat} {cs : List Host.Cell} (hc : cellsFrom lo cs = true) (hk : k < lo) : cellRead cs k = Memory.blank := by
  induction cs generalizing lo with
  | nil => rfl
  | cons x rest ih =>
    simp only [cellsFrom, Bool.and_eq_true, decide_eq_true_eq] at hc
    rw [cellRead, if_neg (by omega), ih hc.2 (by omega)]

/-- The first cell of a canonical list holds a byte that is not blank, and the rest begins above it. -/
theorem cellsFrom_cons {lo : Nat} {x : Host.Cell} {rest : List Host.Cell} :
    cellsFrom lo (x :: rest) = true ↔ lo ≤ x.1 ∧ x.2 ≠ Memory.blank ∧ cellsFrom (x.1 + 1) rest = true := by
  simp [cellsFrom, and_assoc]

/-- The first address of a canonical list is not above that of another with the same bytes. -/
theorem cellsFrom_head_le {lo hi : Nat} {x : Host.Cell} {xs ys : List Host.Cell} (hx : cellsFrom lo (x :: xs) = true) (hy : cellsFrom hi ys = true)
    (h : ∀ a, cellRead (x :: xs) a = cellRead ys a) : hi ≤ x.1 := by
  by_contra hlt
  have hr : cellRead (x :: xs) x.1 = x.2 := by simp [cellRead]
  exact (cellsFrom_cons.mp hx).2.1 (by rw [← hr, h, cellRead_below hy (by omega)])

/-- A canonical list is determined by the bytes that it reads as. -/
theorem cells_ext {lo : Nat} {xs ys : List Host.Cell} (hx : cellsFrom lo xs = true) (hy : cellsFrom lo ys = true)
    (h : ∀ a, cellRead xs a = cellRead ys a) : xs = ys := by
  induction xs generalizing lo ys with
  | nil =>
    cases ys with
    | nil => rfl
    | cons y ys =>
      have := cellsFrom_head_le hy (hi := y.1 + 1) (ys := []) rfl fun a => (h a).symm
      omega
  | cons x xs ih =>
    cases ys with
    | nil =>
      have := cellsFrom_head_le hx (hi := x.1 + 1) (ys := []) rfl h
      omega
    | cons y ys =>
      obtain ⟨hlx, hbx, hrx⟩ := cellsFrom_cons.mp hx
      obtain ⟨hly, hby, hry⟩ := cellsFrom_cons.mp hy
      have hxy : y.1 ≤ x.1 := cellsFrom_head_le hx (cellsFrom_cons.mpr ⟨le_refl _, hby, hry⟩) h
      have hyx : x.1 ≤ y.1 := cellsFrom_head_le hy (cellsFrom_cons.mpr ⟨le_refl _, hbx, hrx⟩) fun a => (h a).symm
      obtain ⟨i, b⟩ := x
      obtain ⟨j, d⟩ := y
      obtain rfl : i = j := Nat.le_antisymm hyx hxy
      have hb : b = d := by simpa [cellRead] using h i
      have hrest : ∀ a, cellRead xs a = cellRead ys a := by
        intro a
        by_cases ha : i = a
        · rw [cellRead_below hrx (by omega), cellRead_below hry (by omega)]
        · simpa [cellRead, ha] using h a
      rw [hb, ih hrx hry hrest]

/-- Settles O28: by induction on the number of bytes, and on two canonical lists with the same bytes. -/
theorem memoryReadsBack : Obligations.MemoryReadsBack := by
  unfold Obligations.MemoryReadsBack
  refine ⟨Memory.byte_setByte, Memory.read_write_same, Memory.byte_write_other, fun m a n x => Memory.wf_write a n x, ?_⟩
  intro m k hm hk h
  exact cells_ext ((Memory.wf_iff m).mp hm).1 ((Memory.wf_iff k).mp hk).1 h

end Sys2Proof.Machine
end

section
/-! SUPPORT. What every operation that writes no memory leaves: memory (R226). One lemma for each operation of the state, in the order of the model's files;
an operation that also answers with a value, or may answer with none, has its lemma about the state that it answers with. -/

namespace Sys2Proof.Machine

open Sys2Proof

/-! ### Shapes -/

/-- A fold of operations that each leave memory leaves it. -/
theorem foldl_mem {α : Type} {f : State → α → State} (hf : ∀ s x, (f s x).mem = s.mem) (xs : List α) (s : State) : (xs.foldl f s).mem = s.mem :=
  List.foldlRecOn xs f (motive := fun u => u.mem = s.mem) rfl fun u hu x _ => (hf u x).trans hu

/-- The same of a fold that carries a value beside the state. -/
theorem foldl_fst_mem {α β : Type} {f : State × β → α → State × β} (hf : ∀ p x, (f p x).1.mem = p.1.mem) (xs : List α) (p : State × β) :
    (xs.foldl f p).1.mem = p.1.mem :=
  List.foldlRecOn xs f (motive := fun q => q.1.mem = p.1.mem) rfl fun q hq x _ => (hf q x).trans hq

/-- The state of an answer that has been taken apart. -/
theorem snd_mem {α : Type} {x : α × State} {a : α} {s s1 : State} (hx : x.2.mem = s.mem) (h : x = (a, s1)) : s1.mem = s.mem := by
  rw [← hx, h]

theorem Kept.mem {t c : Nat} {s s' : State} (h : Kept t c s s') : s'.mem = s.mem := by
  have := congrArg State.mem h.rest
  exact this

/-- What holds of the memory that a firing's body leaves; nothing of one that stops or does nothing. -/
def Fired.Leaves (P : Memory → Prop) : Fired → Prop
  | .done u => P u.mem
  | .doneThen u _ => P u.mem
  | .stop _ => True
  | .idle => True

@[simp] theorem Fired.leaves_done (P : Memory → Prop) (u : State) : (Fired.done u).Leaves P ↔ P u.mem := Iff.rfl
@[simp] theorem Fired.leaves_doneThen (P : Memory → Prop) (u : State) (fi : FaultInfo) : (Fired.doneThen u fi).Leaves P ↔ P u.mem := Iff.rfl
@[simp] theorem Fired.leaves_stop (P : Memory → Prop) (fi : FaultInfo) : (Fired.stop fi).Leaves P := trivial
@[simp] theorem Fired.leaves_idle (P : Memory → Prop) : Fired.idle.Leaves P := trivial

theorem Fired.Leaves.of_done {P : Memory → Prop} {b : Fired} {u : State} (hb : b.Leaves P) (h : b = .done u) : P u.mem := by
  rw [h] at hb
  exact hb

/-! ### Ops -/

@[simp] theorem State.report_mem (s : State) (t c slot : Nat) (fi : FaultInfo) : (s.report t c slot fi).mem = s.mem := rfl

/-! ### Translate -/

@[simp] theorem State.noteEdge_mem (s : State) (sec : Nat) : (s.noteEdge sec).mem = s.mem := rfl
@[simp] theorem State.noteCycles_mem (s : State) (secs : List Nat) : (s.noteCycles secs).mem = s.mem :=
  foldl_mem (fun _ _ => by simp) _ _

@[simp] theorem State.countLookups_mem (s : State) (sec n : Nat) : (s.countLookups sec n).mem = s.mem := rfl
@[simp] theorem State.lookUp_mem (s : State) (gs : List Nat) : (s.lookUp gs).mem = s.mem :=
  foldl_mem (fun _ _ => by split <;> simp) _ _

@[simp] theorem State.countWalk_mem (s : State) (d asid va : Nat) : (s.countWalk d asid va).mem = s.mem := by
  unfold State.countWalk
  dsimp only
  split <;> simp

@[simp] theorem translate_mem (s : State) (cache d asid va : Nat) : (translate s cache d asid va).2.mem = s.mem := by
  unfold translate
  dsimp only
  repeat' split
  all_goals simp


/-! ### Witness -/

@[simp] theorem State.noteLift_mem (s : State) (u : Nat) (w : W64) : (s.noteLift u w).mem = s.mem := by
  unfold State.noteLift
  dsimp only
  repeat' split
  all_goals simp


/-! ### Issue -/

@[simp] theorem State.takeNumber_mem (s : State) (w : Nat) : (s.takeNumber w).2.mem = s.mem := rfl
@[simp] theorem State.takeNumbers_mem (s : State) (w count : Nat) : (s.takeNumbers w count).2.mem = s.mem := rfl
@[simp] theorem State.recordTag_mem (s : State) (w n : Nat) : (s.recordTag w n).mem = s.mem := rfl
@[simp] theorem State.issue_mem (s : State) (a : Access) : (s.issue a).mem = s.mem := (Kept.issue 0 0 s a).mem
@[simp] theorem writeBuffer_mem (s : State) (t c slot k : Nat) (v : V512) : (writeBuffer s t c slot k v).mem = s.mem :=
  (Kept.writeBuffer t c slot k s v).mem

@[simp] theorem drainBuffer_mem (t c slot n k : Nat) (ps : List Place) (s : State) : (drainBuffer t c slot n k ps s).mem = s.mem :=
  (drainBuffer_keeps t c slot n k ps s).1.mem

@[simp] theorem State.setOuts_mem (s : State) (t c slot n : Nat) (ps : List Place) : (s.setOuts t c slot n ps).mem = s.mem :=
  (setOuts_keeps s t c slot n ps).1.mem

@[simp] theorem State.sendBeat_mem (s : State) (t c slot n : Nat) (payload : V512) (mask : Mask) : (s.sendBeat t c slot n payload mask).mem = s.mem := by
  simp [State.sendBeat]

@[simp] theorem State.sendTagged_mem (s : State) (t c slot n : Nat) (payload : V512) (mask : Mask) (tag : BitVec 3) :
    (s.sendTagged t c slot n payload mask tag).mem = s.mem := by
  simp [State.sendTagged]

@[simp] theorem State.holdPlace_mem (s : State) (t c slot n id : Nat) : (s.holdPlace t c slot n id).mem = s.mem := by
  simp [State.holdPlace]

@[simp] theorem State.writeDest_mem (s : State) (t c slot : Nat) (dst : Opnd) (w : Nat) (e : Mask) (vals : List Nat) :
    (s.writeDest t c slot dst w e vals).mem = s.mem := (writeDest_keeps s t c slot dst w e vals).mem

@[simp] theorem State.writePred_mem (s : State) (t c : Nat) (dst : Opnd) (e cond : Mask) : (s.writePred t c dst e cond).mem = s.mem :=
  (writePred_keeps s t c dst e cond).mem

@[simp] theorem State.updatePred_mem (s : State) (t c : Nat) (op : PredOp) (reg : Fin 8) (e cond : Mask) :
    (s.updatePred t c op reg e cond).mem = s.mem := (updatePred_keeps s t c op reg e cond).mem


/-! ### MemLanes -/

@[simp] theorem planLanes_mem (s : State) (t : Nat) (rs : List LaneReq) : (planLanes s t rs).2.mem = s.mem := by
  induction rs generalizing s with
  | nil => rfl
  | cons r rest ih => simp [planLanes, ih]


/-! ### Fire -/

@[simp] theorem State.afterFiring_mem (s : State) (t c : Nat) (adv : BitVec 8) : (s.afterFiring t c adv).mem = s.mem := rfl
@[simp] theorem applyLanes_mem (s : State) (fr : Firing) (r : LaneResult) : (applyLanes s fr r).mem = s.mem := (applyLanes_keeps s fr r).mem

/-! ### Arbiter -/

@[simp] theorem State.useGiven_mem (s : State) (t c slot : Nat) : (s.useGiven t c slot).mem = s.mem := by
  unfold State.useGiven
  repeat' split
  all_goals simp

@[simp] theorem State.usePass_mem (s : State) (t : Nat) : (s.usePass t).mem = s.mem := by
  unfold State.usePass
  repeat' split
  all_goals simp

@[simp] theorem State.useWitnesses_mem (s : State) (t : Nat) : (s.useWitnesses t).mem = s.mem := by
  unfold State.useWitnesses
  refine (foldl_mem (fun s c => ?_) _ _).trans (s.usePass_mem t)
  split
  · exact foldl_mem (fun s k => s.useGiven_mem t c k) _ _
  · rfl


/-! ### MemAccess -/

@[simp] theorem State.noteScope_mem (s : State) (t c : Nat) (w : W64) : (s.noteScope t c w).mem = s.mem := by
  unfold State.noteScope
  split <;> rfl

@[simp] theorem State.expect_mem (s : State) (t c slot : Nat) (o : Outstanding) : (s.expect t c slot o).mem = s.mem := by
  unfold State.expect
  split <;> simp

@[simp] theorem startLoad_mem (s : State) (fr : Firing) (wit : W64) (pieces : List Piece) : (startLoad s fr wit pieces).mem = s.mem := by
  simp [startLoad]

theorem loadBody_mem (s : State) (fr : Firing) (lf : LoadForm) : (loadBody s fr lf).Leaves (· = s.mem) := by
  unfold loadBody
  dsimp only
  repeat' split
  all_goals simp

@[simp] theorem startStore_mem (s : State) (fr : Firing) (mk : Access → Access) : (startStore s fr mk).mem = s.mem := by
  unfold startStore
  dsimp only
  split <;> simp

theorem storeBody_mem (s : State) (fr : Firing) (sf : StoreForm) : (storeBody s fr sf).Leaves (· = s.mem) := by
  unfold storeBody
  dsimp only
  repeat' split
  all_goals simp


/-! ### Skim -/

@[simp] theorem State.spoil_mem (s : State) (t k c slotNo : Nat) (fi : FaultInfo) : (s.spoil t k c slotNo fi).mem = s.mem := rfl
@[simp] theorem State.setTaken_mem (s : State) (t c n : Nat) (b : Bool) : (s.setTaken t c n b).mem = s.mem := rfl
theorem takeBeat_mem {s u : State} {t c n : Nat} {b : Beat} (h : takeBeat s t c n = some (b, u)) : u.mem = s.mem := by
  unfold takeBeat at h
  dsimp only at h
  split at h
  · cases h
  · cases h; rfl

@[simp] theorem planPass_mem (s : State) (t c slotNo : Nat) (h a b : V512) (e : Mask) : (planPass s t c slotNo h a b e).2.mem = s.mem := by
  unfold planPass
  dsimp only
  split <;> simp

@[simp] theorem State.unpark_mem (s : State) (t k : Nat) : (s.unpark t k).mem = s.mem := rfl
@[simp] theorem State.endPass_mem (s : State) (t : Nat) (p : Pass) : (s.endPass t p).mem = s.mem := rfl
@[simp] theorem State.startEmit_mem (s : State) (t k c n : Nat) (beats : List V512) (free : Bool) : (s.startEmit t k c n beats free).mem = s.mem := rfl
@[simp] theorem State.emptyQuery_mem (s : State) (t k : Nat) : (s.emptyQuery t k).mem = s.mem := by
  unfold State.emptyQuery
  dsimp only
  repeat' split
  all_goals simp

@[simp] theorem State.settleEmit_mem (s : State) (t k : Nat) : (s.settleEmit t k).mem = s.mem := by
  unfold State.settleEmit
  dsimp only
  repeat' split
  all_goals simp


/-! ### EngineOps -/

@[simp] theorem State.append_mem (s : State) (q : Nat) (cs : List (RecSource × Option Iteration)) : (s.append q cs).mem = s.mem := rfl
@[simp] theorem State.chargeMirror_mem (s : State) (t q count : Nat) : (s.chargeMirror t q count).mem = s.mem := rfl
@[simp] theorem State.chargeSeq_mem (s : State) (col q count : Nat) : (s.chargeSeq col q count).mem = s.mem := rfl
@[simp] theorem State.returnPermit_mem (s : State) (q : Nat) : (s.returnPermit q).mem = s.mem := by
  unfold State.returnPermit
  dsimp only
  repeat' split
  all_goals simp

@[simp] theorem State.dropJoins_mem (s : State) : (s.dropJoins).mem = s.mem := rfl
@[simp] theorem State.setHead_mem (s : State) (q : Nat) (c : Command) : (s.setHead q c).mem = s.mem := rfl
@[simp] theorem State.setRun_mem (s : State) (q : Nat) (r : EngineRun) : (s.setRun q r).mem = s.mem := by
  unfold State.setRun
  split <;> rfl

@[simp] theorem State.endWith_mem (s : State) (q : Nat) (r : EngineRun) (st : Nat) : (s.endWith q r st).mem = s.mem := by
  simp [State.endWith]

@[simp] theorem State.endAt_mem (s : State) (q : Nat) (r : EngineRun) (x : Nat × Nat) : (s.endAt q r x).mem = s.mem := by
  simp [State.endAt]

@[simp] theorem enginePage_mem (s : State) (q va : Nat) (write near : Bool) : (enginePage s q va write near).2.mem = s.mem := by
  unfold enginePage
  dsimp only
  repeat' split
  all_goals simp

@[simp] theorem readPieces_mem (q : Nat) (near : Bool) (ks : List (Nat × Nat)) (s : State) : (readPieces q near ks s).2.mem = s.mem := by
  induction ks generalizing s with
  | nil => rfl
  | cons k rest ih =>
    unfold readPieces
    have page := enginePage_mem s q k.2 false near
    split
    · next h => exact snd_mem page h
    · next s1 h =>
      have hs1 := snd_mem page h
      have read := ih s1
      split
      · next h' => exact (snd_mem read h').trans hs1
      · next h' => exact (snd_mem read h').trans hs1

@[simp] theorem writePieces_mem (q : Nat) (near : Bool) (va len data : Nat) (gs : List Nat) (s : State) :
    (writePieces q near va len data gs s).2.mem = s.mem := by
  induction gs generalizing s with
  | nil => rfl
  | cons g rest ih =>
    unfold writePieces
    have page := enginePage_mem s q g true near
    split
    · next h => exact snd_mem page h
    · next s1 h =>
      have hs1 := snd_mem page h
      have write := ih s1
      split
      · next h' => exact (snd_mem write h').trans hs1
      · next h' => exact (snd_mem write h').trans hs1

@[simp] theorem State.engineRead_mem (s : State) (q : Nat) (near : Bool) (r : EngineRun) (ranges : List (Nat × Nat)) :
    (s.engineRead q near r ranges).mem = s.mem := by
  unfold State.engineRead
  dsimp only
  split
  · next h => simp [snd_mem (readPieces_mem _ _ _ _) h]
  · next h => simp [snd_mem (readPieces_mem _ _ _ _) h]

@[simp] theorem State.engineWrite_mem (s : State) (q number : Nat) (near : Bool) (r : EngineRun) (va len data : Nat) :
    (s.engineWrite q number near r va len data).mem = s.mem := by
  unfold State.engineWrite
  split
  · next h => simp [snd_mem (writePieces_mem _ _ _ _ _ _ _) h]
  · next h => simp [snd_mem (writePieces_mem _ _ _ _ _ _ _) h]

@[simp] theorem State.takeRead_mem (s : State) (id : Nat) : (s.takeRead id).2.mem = s.mem := by
  unfold State.takeRead
  dsimp only
  repeat' split
  all_goals rfl

@[simp] theorem State.jobMove_mem (s : State) (q number : Nat) (near : Bool) (r : EngineRun) (j : Job) : (s.jobMove q number near r j).mem = s.mem := by
  unfold State.jobMove
  dsimp only
  split
  · simp
  · split
    · split
      · next h => simp [snd_mem (s.takeRead_mem _) h]
      · next h => simp [snd_mem (s.takeRead_mem _) h]
    · split <;> simp

@[simp] theorem State.gather_mem (s : State) (q : Nat) (r : EngineRun) (va len n next : Nat) : (s.gather q r va len n next).mem = s.mem := by
  unfold State.gather
  dsimp only
  split
  · split
    · next h => simp [snd_mem (s.takeRead_mem _) h]
    · next h => simp [snd_mem (s.takeRead_mem _) h]
  · split <;> simp


/-! ### Sched -/

theorem storeThrough_mem {s u : State} {t d asid va : Nat} {beats : List V512} (h : storeThrough s t d asid va beats = some u) : u.mem = s.mem := by
  unfold storeThrough at h
  dsimp only at h
  split at h
  · split at h
    · cases h
    · cases h; simp
  · cases h

@[simp] theorem State.complete_mem (s : State) (e : PoolEntry) (o : Outcome') : (s.complete e o).mem = s.mem := by
  unfold State.complete
  dsimp only
  split
  · rfl
  · split
    · next h => exact storeThrough_mem h
    · rfl

@[simp] theorem State.setFate_mem (s : State) (id : Nat) (f : Fate) : (s.setFate id f).mem = s.mem := rfl
@[simp] theorem State.meter_mem (s : State) (d sec n : Nat) : (s.meter d sec n).mem = s.mem := rfl
@[simp] theorem State.abandonEngine_mem (s : State) (n t : Nat) : (s.abandonEngine n t).mem = s.mem := by
  unfold State.abandonEngine
  dsimp only
  split <;> simp

@[simp] theorem State.dropFeed_mem (s : State) (port : Nat) : (s.dropFeed port).mem = s.mem := rfl
@[simp] theorem State.dropQuietFeeds_mem (s : State) (d : Nat) : (s.dropQuietFeeds d).mem = s.mem :=
  foldl_mem (fun _ _ => by split <;> rfl) _ _

@[simp] theorem State.loadRouter_mem (s : State) (r : RouterRec) (ox oy inst : Nat) : (s.loadRouter r ox oy inst).mem = s.mem := rfl
theorem State.addWord_mem {s u : State} {x y z : Nat} {w : RWord} (h : s.addWord x y z w = some u) : u.mem = s.mem := by
  unfold State.addWord at h
  dsimp only at h
  repeat' split at h
  all_goals cases h
  all_goals rfl

theorem State.addPath_mem {s u : State} {d inst vc want : Nat} {hs : List Hop} (h : s.addPath d inst vc want hs = some u) : u.mem = s.mem := by
  induction hs generalizing s vc with
  | nil =>
    unfold State.addPath at h
    split at h
    · cases h; rfl
    · cases h
  | cons hop rest ih =>
    unfold State.addPath at h
    dsimp only at h
    split at h
    · cases h
    · split at h
      · cases h
      · next hw => exact (ih h).trans (State.addWord_mem hw)

theorem State.layPath_mem {s u : State} {d inst vc want x y z p tx ty tz dir : Nat} (h : s.layPath d inst vc want x y z p tx ty tz dir = some u) :
    u.mem = s.mem := by
  obtain ⟨way, _, hw⟩ := List.exists_of_findSome?_eq_some h
  split at hw
  · cases hw
  · exact State.addPath_mem hw

theorem State.linkIn_mem {s u : State} {d inst t dir vc tx ty tz tdir tvc : Nat} (h : s.linkIn d inst t dir vc tx ty tz tdir tvc = some u) :
    u.mem = s.mem := by
  unfold State.linkIn at h
  dsimp only at h
  split at h
  · cases h
  · split at h
    · split at h
      · cases h; rfl
      · exact State.addPath_mem h
    · exact State.layPath_mem h

theorem State.linkOut_mem {s u : State} {d inst sx sy sz sdir svc t dir vc : Nat} (h : s.linkOut d inst sx sy sz sdir svc t dir vc = some u) :
    u.mem = s.mem := by
  unfold State.linkOut at h
  dsimp only at h
  split at h
  · cases h
  · split at h
    · split at h
      · cases h; rfl
      · exact State.addWord_mem h
    · exact State.layPath_mem h

@[simp] theorem State.lendPort_mem (s : State) (inst site dir vc : Nat) : (s.lendPort inst site dir vc).mem = s.mem := by
  unfold State.lendPort
  dsimp only
  split <;> simp

@[simp] theorem State.markUnlinked_mem (s : State) (x y z dir vc : Nat) : (s.markUnlinked x y z dir vc).mem = s.mem := by
  unfold State.markUnlinked
  dsimp only
  split <;> simp

theorem State.linkRequestPort_mem {s u : State} {d inst : Nat} {rg : Region} {t c : Nat} {p : PortRec}
    (h : s.linkRequestPort d inst rg t c p = some u) : u.mem = s.mem := by
  unfold State.linkRequestPort at h
  dsimp only at h
  split at h
  · split at h
    · simpa using State.linkIn_mem h
    · cases h; rfl
  · split at h
    · simpa using State.linkOut_mem h
    · cases h; rfl

theorem State.linkRequest_mem {s u : State} {d inst : Nat} {rg : Region} {t c : Nat} {ps : List PortRec}
    (h : s.linkRequest d inst rg t c ps = some u) : u.mem = s.mem := by
  induction ps generalizing s with
  | nil => cases h; rfl
  | cons p rest ih =>
    unfold State.linkRequest at h
    split at h
    · cases h
    · next hp => exact (ih h).trans (State.linkRequestPort_mem hp)

@[simp] theorem State.openPorts_mem (s : State) (rg : Region) (ports : List PortRec) : (s.openPorts rg ports).mem = s.mem :=
  foldl_mem (fun _ _ => by simp) _ _

@[simp] theorem State.freeTile_mem (s : State) (t : Nat) : (s.freeTile t).mem = s.mem := rfl
@[simp] theorem State.dropWords_mem (s : State) (x : Inst) : (s.dropWords x).mem = s.mem := rfl
@[simp] theorem State.reclaim_mem (s : State) (x : Inst) : (s.reclaim x).mem = s.mem := by
  unfold State.reclaim
  dsimp only
  split
  · rfl
  · simpa using foldl_mem (fun s t => by split <;> simp) _ _


/-! ### Control -/

@[simp] theorem write64_mem (s : State) (fr : Firing) (vals : List Nat) : (write64 s fr vals).mem = s.mem := by
  simp [write64]


/-! ### Place -/

@[simp] theorem State.resolve_mem (s : State) (e : PoolEntry) (status inst placed : Nat) (late : Bool) (fail : LoadFail) :
    (s.resolve e status inst placed late fail).mem = s.mem := by
  unfold State.resolve
  split <;> rfl

@[simp] theorem State.dropEntry_mem (s : State) (e : PoolEntry) : (s.dropEntry e).mem = s.mem := rfl
@[simp] theorem State.dropWaiting_mem (s : State) (e : PoolEntry) : (s.dropWaiting e).mem = s.mem := by
  unfold State.dropWaiting
  split
  · rfl
  · split
    · rfl
    · exact foldl_mem (fun s p => by dsimp only; split <;> simp) _ _

@[simp] theorem State.retarget_mem (s : State) (from' goal : FeedTarget) : (s.retarget from' goal).mem = s.mem := rfl
@[simp] theorem State.refuse_mem (s : State) (e : PoolEntry) (status : Nat) (late predFailed : Bool) (fail : LoadFail) :
    (s.refuse e status late predFailed fail).mem = s.mem := by
  simp [State.refuse]

@[simp] theorem State.pushBeat_mem (s : State) (site port vc : Nat) (b : Beat) : (s.pushBeat site port vc b).mem = s.mem := rfl
theorem State.layFeed_mem {s u : State} {d port tx ty tz dir vc : Nat} (h : s.layFeed d port tx ty tz dir vc = some u) : u.mem = s.mem :=
  State.layPath_mem h

theorem State.feedEntry_mem {s u : State} {d port tx ty tz dir vc site port' : Nat} (h : s.feedEntry d port tx ty tz dir vc = some (u, site, port')) :
    u.mem = s.mem := by
  unfold State.feedEntry at h
  dsimp only at h
  split at h
  · cases h; rfl
  · split at h
    · next hl => cases h; exact State.layFeed_mem hl
    · split at h
      · cases h
      · split at h
        · cases h; rfl
        · obtain ⟨s1, hl, hs⟩ := Option.map_eq_some_iff.mp h
          cases hs
          simpa using State.layFeed_mem hl

@[simp] theorem State.openFeed_mem (s : State) (port : Nat) : (s.openFeed port).mem = s.mem := by
  unfold State.openFeed
  dsimp only
  split
  · split
    · rfl
    · split
      · rfl
      · split
        · rfl
        · split
          · rfl
          · next h =>
            split at h
            · cases h
            · simpa using State.feedEntry_mem h
  · rfl

@[simp] theorem State.attachEntry_mem (s : State) (e : PoolEntry) (x : Inst) (predFailed : Bool) : (s.attachEntry e x predFailed).mem = s.mem := by
  unfold State.attachEntry
  dsimp only
  split
  · simp
  · split
    · simp
    · next h =>
      split at h
      · cases h; simp
      · simpa using State.linkRequest_mem h

@[simp] theorem State.unplaced_mem (s : State) (d reason : Nat) : (s.unplaced d reason).mem = s.mem := rfl
@[simp] theorem State.measureLoad_mem (s : State) (d : Nat) (g : Image) (id : BitVec 128) : (s.measureLoad d g id).mem = s.mem := by
  unfold State.measureLoad
  split <;> rfl

@[simp] theorem State.noteDelivered_mem (s : State) (port : Nat) (x : Inst) : (s.noteDelivered port x).mem = s.mem := by
  unfold State.noteDelivered
  split <;> rfl

@[simp] theorem State.deliver_mem (s : State) (o : Outstanding) (vals : List Nat) : (s.deliver o vals).mem = s.mem := by
  unfold State.deliver
  split <;> simp


/-! ### Engines -/

theorem State.sendToken_mem {s u : State} {col : Nat} {k : SeqToken} (h : s.sendToken col k = some u) : u.mem = s.mem := by
  unfold State.sendToken at h
  dsimp only at h
  repeat' split at h
  all_goals cases h
  all_goals simp

@[simp] theorem flushList_mem (col : Nat) (ks kept : List SeqToken) (s : State) : (flushList col ks kept s).2.mem = s.mem := by
  induction ks generalizing kept s with
  | nil => rfl
  | cons k rest ih =>
    unfold flushList
    split
    · exact ih _ _
    · split
      · next h => exact (ih _ _).trans (State.sendToken_mem h)
      · exact ih _ _

@[simp] theorem State.flushTokens_mem (s : State) (col : Nat) : (s.flushTokens col).mem = s.mem := by
  simp [State.flushTokens]

@[simp] theorem State.flushQueue_mem (s : State) (q : Nat) : (s.flushQueue q).mem = s.mem :=
  foldl_mem (fun _ _ => by simp) _ _

@[simp] theorem State.tell_mem (s : State) (q : Nat) (c : Command) (it : Iteration) (status : Nat) (permit : Bool) :
    (s.tell q c it status permit).mem = s.mem := by
  simp [State.tell]

@[simp] theorem State.owePermit_mem (s : State) (q : Nat) (c : Command) (status : Nat) : (s.owePermit q c status).mem = s.mem := by
  unfold State.owePermit
  dsimp only
  repeat' split
  all_goals simp

@[simp] theorem State.commandDone_mem (s : State) (q : Nat) (c : Command) (status : Nat) : (s.commandDone q c status).mem = s.mem := by
  simp [State.commandDone]

@[simp] theorem State.stopQueue_mem (s : State) (q : Nat) (c : Command) (r : EngineRun) (status : Nat) : (s.stopQueue q c r status).mem = s.mem := by
  unfold State.stopQueue
  dsimp only
  repeat' split
  all_goals simp

@[simp] theorem State.haveRecord_mem (s : State) (q : Nat) (c : Command) (rec' : V512) : (s.haveRecord q c rec').mem = s.mem := rfl
@[simp] theorem jobCommand_mem (q : Nat) (near : Bool) (j : EngineRun → Job) (s : State) (number : Nat) (r : EngineRun) :
    (jobCommand q near j s number r).mem = s.mem := by
  unfold jobCommand
  repeat' split
  all_goals simp

@[simp] theorem State.sendPeer_mem (s : State) (q toModule toEngine gen : Nat) (body : PeerBody) : (s.sendPeer q toModule toEngine gen body).mem = s.mem := by
  unfold State.sendPeer
  split <;> rfl

@[simp] theorem State.hold_mem (s : State) (q : Nat) (m : PeerMsg) : (s.hold q m).mem = s.mem := rfl
@[simp] theorem State.setInbox_mem (s : State) (q : Nat) (box : List PeerMsg) : (s.setInbox q box).mem = s.mem := rfl
@[simp] theorem State.sendRank_mem (s : State) (q : Nat) (r : EngineRun) (k : Nat) (body : PeerBody) : (s.sendRank q r k body).mem = s.mem := by
  simp [State.sendRank]

@[simp] theorem a2aSendMove_mem (s : State) (q : Nat) (r : EngineRun) : (a2aSendMove s q r).mem = s.mem := by
  unfold a2aSendMove
  dsimp only
  repeat' split
  all_goals simp

@[simp] theorem a2aReceiveMove_mem (s : State) (q : Nat) (r : EngineRun) : (a2aReceiveMove s q r).mem = s.mem := by
  unfold a2aReceiveMove
  dsimp only
  repeat' split
  all_goals simp

@[simp] theorem allToAllMove_mem (q : Nat) (s : State) (number : Nat) (r : EngineRun) : (allToAllMove q s number r).mem = s.mem := by
  unfold allToAllMove
  dsimp only
  repeat' split
  all_goals simp [foldl_mem]

@[simp] theorem graphStep_mem (s : State) (q : Nat) (r : EngineRun) : (graphStep s q r).mem = s.mem := by
  unfold graphStep
  dsimp only
  repeat' split
  all_goals simp

@[simp] theorem graphReceive_mem (s : State) (q : Nat) (r : EngineRun) : (graphReceive s q r).mem = s.mem := by
  unfold graphReceive
  dsimp only
  repeat' split
  all_goals simp

@[simp] theorem replayMove_mem (q : Nat) (s : State) (number : Nat) (r : EngineRun) : (replayMove q s number r).mem = s.mem := by
  unfold replayMove
  repeat' split
  all_goals simp

@[simp] theorem State.useCondition_mem (s : State) (col : Nat) (e : TableEntry) : (s.useCondition col e).mem = s.mem := by
  unfold State.useCondition
  split <;> simp

@[simp] theorem State.noteReady_mem (s : State) (col : Nat) : (s.noteReady col).mem = s.mem := rfl
@[simp] theorem State.noteAllReady_mem (s : State) : (s.noteAllReady).mem = s.mem :=
  foldl_mem (fun _ _ => by simp) _ _


/-! ### Memory -/

theorem atomicBody_mem (op : AtomicOp) (s : State) (fr : Firing) : (atomicBody op s fr).Leaves (· = s.mem) := by
  unfold atomicBody
  dsimp only
  split
  · simp
  · split
    · simp
    · split <;> simp

@[simp] theorem deliverWitness_mem (s : State) (fr : Firing) (w : W64) : (deliverWitness s fr w).mem = s.mem := by
  simp [deliverWitness]

@[simp] theorem malformed_leaves (P : Memory → Prop) (w : W64) : (malformed w).Leaves P := trivial
theorem liftBody_mem (hasten : Bool) (s : State) (fr : Firing) : (liftBody hasten s fr).Leaves (· = s.mem) := by
  unfold liftBody
  dsimp only
  repeat' split
  all_goals simp


/-! ### Queues -/

@[simp] theorem queueOwner_leaves (P : Memory → Prop) : queueOwner.Leaves P := trivial
@[simp] theorem queueRange_leaves (P : Memory → Prop) : queueRange.Leaves P := trivial
@[simp] theorem State.appendWitness_mem (s : State) (fr : Firing) (q : Nat) : (s.appendWitness fr q).mem = s.mem := by
  simp [State.appendWitness]

@[simp] theorem State.elementAppend_mem (s : State) (fr : Firing) (q : Nat) (cs : List RecSource) : (s.elementAppend fr q cs).mem = s.mem := by
  simp [State.elementAppend]

theorem inlineBody_mem (cmd : Nat) (near : Bool) (s : State) (fr : Firing) : (inlineBody cmd near s fr).Leaves (· = s.mem) := by
  unfold inlineBody
  repeat' split
  all_goals simp

@[simp] theorem State.request_mem (s : State) (fr : Firing) (kind : RequestKind) : (s.request fr kind).mem = s.mem := by
  simp [State.request]

theorem qseqBody_mem (s : State) (fr : Firing) : (qseqBody s fr).Leaves (· = s.mem) := by
  unfold qseqBody
  dsimp only
  repeat' split
  all_goals simp

theorem qfenBody_mem (s : State) (fr : Firing) : (qfenBody s fr).Leaves (· = s.mem) := by
  unfold qfenBody
  dsimp only
  repeat' split
  all_goals simp

@[simp] theorem State.setRequest_mem (s : State) (r : Request) : (s.setRequest r).mem = s.mem := rfl
@[simp] theorem State.dropRequest_mem (s : State) (id : Nat) : (s.dropRequest id).mem = s.mem := rfl
@[simp] theorem State.reachQueue_mem (s : State) (r : Request) (q : Nat) : (s.reachQueue r q).mem = s.mem := by
  unfold State.reachQueue
  dsimp only
  repeat' split
  all_goals simp

@[simp] theorem State.noteFence_mem (s : State) (r : Request) (o : Outstanding) (w : W64) : (s.noteFence r o w).mem = s.mem := by
  unfold State.noteFence
  dsimp only
  repeat' split
  all_goals simp

@[simp] theorem State.detach_mem (s : State) (q : Nat) : (s.detach q).mem = s.mem := by
  unfold State.detach
  dsimp only
  repeat' split
  all_goals simp

@[simp] theorem State.attach_mem (s : State) (q v : Nat) : (s.attach q v).mem = s.mem := by
  unfold State.attach
  dsimp only
  repeat' split
  all_goals simp

@[simp] theorem State.retryQueue_mem (s : State) (q : Nat) : (s.retryQueue q).mem = s.mem := by
  unfold State.retryQueue
  dsimp only
  repeat' split
  all_goals simp

@[simp] theorem skipChain_mem (q head status fuel : Nat) (s : State) : (skipChain q head status fuel s).mem = s.mem := by
  induction fuel generalizing s with
  | zero => rfl
  | succ fuel ih =>
    unfold skipChain
    repeat' split
    all_goals simp [ih]

@[simp] theorem State.skipQueue_mem (s : State) (q : Nat) : (s.skipQueue q).mem = s.mem := by
  unfold State.skipQueue
  dsimp only
  repeat' split
  all_goals simp

@[simp] theorem State.storeQueueCtl_mem (s : State) (src : Issuer) (q : Nat) (value : BitVec 64) : (s.storeQueueCtl src q value).mem = s.mem := by
  unfold State.storeQueueCtl
  repeat' split
  all_goals simp


/-! ### Epochs -/

@[simp] theorem State.storeEpochPeriod_mem (s : State) (src : Issuer) (lvl : Nat) (value : BitVec 64) : (s.storeEpochPeriod src lvl value).mem = s.mem := by
  unfold State.storeEpochPeriod
  dsimp only
  split <;> simp

@[simp] theorem State.storeMscf_mem (s : State) (src : Issuer) (value : BitVec 64) : (s.storeMscf src value).mem = s.mem := by
  unfold State.storeMscf
  split <;> rfl


/-! ### Health -/

@[simp] theorem State.countCe_mem (s : State) (sec tile : Option Nat) : (s.countCe sec tile).mem = s.mem := by
  unfold State.countCe
  dsimp only
  repeat' split
  all_goals simp

@[simp] theorem State.countUe_mem (s : State) (sec : Option Nat) : (s.countUe sec).mem = s.mem := by
  unfold State.countUe
  split <;> rfl

@[simp] theorem State.logicError_mem (s : State) (t struck : Nat) : (s.logicError t struck).mem = s.mem := rfl

/-! ### Fabric -/

@[simp] theorem State.routeRecord_mem (s : State) (site cause port ch : Nat) : (s.routeRecord site cause port ch).mem = s.mem := rfl
@[simp] theorem State.routeMiss_mem (s : State) (site port ch : Nat) : (s.routeMiss site port ch).mem = s.mem := rfl
@[simp] theorem State.present_mem (s : State) (site t port vc : Nat) (b : Beat) : (s.present site t port vc b).mem = s.mem := by
  unfold State.present
  dsimp only
  repeat' split
  all_goals simp

@[simp] theorem State.sendCopy_mem (s : State) (site port vc : Nat) (b : Beat) : (s.sendCopy site port vc b).mem = s.mem := by
  unfold State.sendCopy
  split <;> rfl

@[simp] theorem State.sendOnLink_mem (s : State) (site port : Nat) : (s.sendOnLink site port).mem = s.mem := by
  unfold State.sendOnLink
  dsimp only
  repeat' split
  all_goals simp

@[simp] theorem State.ringArrive_mem (s : State) (site port : Nat) (rb : RingBeat) : (s.ringArrive site port rb).mem = s.mem := by
  unfold State.ringArrive
  dsimp only
  repeat' split
  all_goals simp

@[simp] theorem State.linkRecord_mem (s : State) (site cause port : Nat) : (s.linkRecord site cause port).mem = s.mem := rfl
theorem State.takeCond_mem {s u : State} {site port ch : Nat} {b : Bool} (h : s.takeCond site port ch = some (b, u)) : u.mem = s.mem := by
  unfold State.takeCond at h
  dsimp only at h
  split at h
  · cases h
  · cases h; rfl

@[simp] theorem State.injectCond_mem (s : State) (site ch : Nat) : (s.injectCond site ch).mem = s.mem := by
  unfold State.injectCond
  dsimp only
  repeat' split
  all_goals simp

@[simp] theorem State.presentCond_mem (s : State) (site t ch : Nat) (b : Bool) : (s.presentCond site t ch b).mem = s.mem := by
  unfold State.presentCond
  dsimp only
  repeat' split
  all_goals simp

@[simp] theorem State.hopCond_mem (s : State) (site port ch : Nat) : (s.hopCond site port ch).mem = s.mem := by
  unfold State.hopCond
  dsimp only
  split
  · rfl
  · next h =>
    have taken := State.takeCond_mem h
    split
    · simpa using taken
    · simp only [apply_ite State.mem]
      refine ite_eq_iff'.mpr ⟨fun _ => rfl, fun _ => (foldl_mem (fun s p => ?_) _ _).trans ?_⟩
      · split <;> simp
      · split <;> simpa using taken


/-! ### StencilOps -/

@[simp] theorem State.setGrammar_mem (s : State) (c k : Nat) (g : Grammar) : (s.setGrammar c k g).mem = s.mem := rfl

/-! ### Stencil -/

theorem stencilBody_mem (sub : Nat) (s : State) (fr : Firing) : (stencilBody sub s fr).Leaves (· = s.mem) := by
  unfold stencilBody
  dsimp only
  repeat' split
  all_goals simp

@[simp] theorem State.putGrammar_mem (s : State) (c : StencilCmd) (g : Grammar) : (s.putGrammar c g).mem = s.mem := rfl
@[simp] theorem State.stencilWrite_mem (s : State) (c : StencilCmd) (ps : List Piece) : (s.stencilWrite c ps).mem = s.mem := by
  simp [State.stencilWrite]

@[simp] theorem ends_s (s : State) (st : Nat × Nat) (lanes : List Nat) : (ends s st lanes).s = s := rfl
@[simp] theorem performGini_mem (s : State) (c : StencilCmd) : (performGini s c).s.mem = s.mem := by
  unfold performGini
  dsimp only
  split <;> simp

@[simp] theorem deadNode_mem (s : State) (c : StencilCmd) (status : Nat) : (deadNode s c status).s.mem = s.mem := rfl
@[simp] theorem performGmsk_mem (s : State) (c : StencilCmd) : (performGmsk s c).s.mem = s.mem := by
  unfold performGmsk
  dsimp only
  split
  · rfl
  · split
    · rfl
    · split <;> simp

@[simp] theorem performGfrk_mem (s : State) (c : StencilCmd) : (performGfrk s c).s.mem = s.mem := by
  unfold performGfrk
  dsimp only
  split <;> simp

@[simp] theorem performGcmt_mem (s : State) (c : StencilCmd) : (performGcmt s c).s.mem = s.mem := by
  unfold performGcmt
  dsimp only
  split <;> simp

@[simp] theorem performGrbk_mem (s : State) (c : StencilCmd) : (performGrbk s c).s.mem = s.mem := by
  unfold performGrbk
  dsimp only
  split <;> simp

@[simp] theorem performGsav_mem (s : State) (c : StencilCmd) : (performGsav s c).s.mem = s.mem := by
  unfold performGsav
  dsimp only
  repeat' split
  all_goals simp

@[simp] theorem State.completeStencil_mem (s : State) (c : StencilCmd) (status bad : Nat) (out : List Nat) :
    (s.completeStencil c status bad out).mem = s.mem := by
  unfold State.completeStencil
  dsimp only
  repeat' split
  all_goals simp

@[simp] theorem State.countReads_mem (s : State) (c : StencilCmd) : (s.countReads c).mem = s.mem := by
  unfold State.countReads
  exact (foldl_mem (fun s sec => s.countLookups_mem sec _) _ _).trans (s.countWalk_mem _ _ _)

@[simp] theorem State.storeStencilCtl_mem (s : State) (src : Issuer) (c : Nat) (value : BitVec 64) : (s.storeStencilCtl src c value).mem = s.mem := by
  unfold State.storeStencilCtl
  dsimp only
  split <;> simp


/-! ### Preempt -/

@[simp] theorem State.releasePlace_mem (s : State) (o : Outstanding) : (s.releasePlace o).2.mem = s.mem := by
  unfold State.releasePlace
  split <;> simp

@[simp] theorem State.cancelLoad_mem (s : State) (o : Outstanding) (keep : Bool) : (s.cancelLoad o keep).2.mem = s.mem := by
  unfold State.cancelLoad
  dsimp only
  split <;> simp

@[simp] theorem State.rehold_mem (s : State) (t c id : Nat) (dst : Opnd) (r : Reissue) : (s.rehold t c id dst r).mem = s.mem := by
  unfold State.rehold
  split <;> simp

@[simp] theorem State.unhold_mem (s : State) (t c : Nat) (dst : Opnd) (r : Reissue) : (s.unhold t c dst r).mem = s.mem := by
  unfold State.unhold
  split <;> simp

theorem requestBody_mem (i : Instr) (s : State) (fr : Firing) : (requestBody i s fr).Leaves (· = s.mem) := by
  unfold requestBody
  split
  · exact qseqBody_mem s fr
  · exact qfenBody_mem s fr
  all_goals simp [stencilBody_mem]

@[simp] theorem State.reissue_mem (s : State) (t c : Nat) (r : Reissue) : (s.reissue t c r).mem = s.mem := by
  unfold State.reissue
  dsimp only
  split
  · rfl
  · split
    · rfl
    · split
      · split
        · next h => simpa using (requestBody_mem _ _ _).of_done h
        · simp
        · rfl
      · split
        · next h => simpa using (loadBody_mem _ _ _).of_done h
        · simp
        · rfl

@[simp] theorem State.cancelLoads_mem (s : State) (t : Nat) : (s.cancelLoads t).mem = s.mem :=
  foldl_mem (fun _ _ => by simp) _ _

@[simp] theorem State.haltTile_mem (s : State) (t : Nat) : (s.haltTile t).mem = s.mem := by
  simp [State.haltTile]

@[simp] theorem State.haltInst_mem (s : State) (x : Inst) : (s.haltInst x).mem = s.mem :=
  foldl_mem (fun _ _ => by simp) _ _

@[simp] theorem State.arrive_mem (s : State) (g : Straggler) : (s.arrive g).mem = s.mem := by
  unfold State.arrive
  refine (foldl_mem (fun _ _ => by simp) _ _).trans ?_
  split <;> simp

@[simp] theorem State.drainBeats_mem (s : State) (x : Inst) : (s.drainBeats x).mem = s.mem := by
  unfold State.drainBeats
  refine foldl_fst_mem (fun p g => ?_) _ _
  dsimp only
  split <;> simp

@[simp] theorem State.drainConds_mem (s : State) (x : Inst) : (s.drainConds x).mem = s.mem := by
  unfold State.drainConds
  refine foldl_fst_mem (fun p g => ?_) _ _
  dsimp only
  split
  · rfl
  · exact foldl_mem (fun _ _ => by simp) _ _

@[simp] theorem State.drainRegion_mem (s : State) (x : Inst) : (s.drainRegion x).mem = s.mem := by
  simp [State.drainRegion]

@[simp] theorem State.vacateTile_mem (s : State) (t : Nat) : (s.vacateTile t).mem = s.mem := rfl
@[simp] theorem State.vacate_mem (s : State) (x : Inst) : (s.vacate x).mem = s.mem :=
  foldl_mem (fun _ _ => by split <;> simp) _ _

@[simp] theorem State.endDrain_mem (s : State) (x : Inst) : (s.endDrain x).mem = s.mem :=
  foldl_mem (fun _ _ => by simp) _ _

@[simp] theorem State.renumberChains_mem (s : State) (t : Nat) : (s.renumberChains t).mem = s.mem := by
  unfold State.renumberChains
  exact List.foldlRecOn (s.tile t).queue _ (motive := fun p : List ChainRun × State => p.2.mem = s.mem) rfl fun p hp r _ => hp

@[simp] theorem State.reattach_mem (s : State) (old t : Nat) (ms : List Mirror) : (s.reattach old t ms).mem = s.mem :=
  foldl_mem (fun _ _ => by dsimp only; split <;> simp) _ _

@[simp] theorem State.renewHalts_mem (s : State) (t : Nat) : (s.renewHalts t).mem = s.mem :=
  foldl_mem (fun _ _ => by dsimp only; split <;> rfl) _ _

@[simp] theorem State.moveCreqs_mem (s : State) (st : SavedTile) (t : Nat) : (s.moveCreqs st t).mem = s.mem := rfl
@[simp] theorem State.restoreRouters_mem (s : State) (rg : Region) (rs : List (Nat × Nat × Nat × Router)) : (s.restoreRouters rg rs).mem = s.mem :=
  foldl_mem (fun _ _ => by simp) _ _

theorem State.reload_mem {s u : State} {x : Inst} {g : Image} {rg : Region} (h : s.reload x g rg = some u) : u.mem = s.mem := by
  unfold State.reload at h
  dsimp only at h
  have opened : ∀ s1 : State, (State.openPorts (g.routers.foldl (fun s r => s.loadRouter r rg.ox rg.oy x.number)
      (rg.tiles.foldl (fun s t => s.setTile t { s.tile t with inst := x.number, asid := x.asid }) s1)) rg g.ports).mem = s1.mem := fun s1 => by
    rw [State.openPorts_mem, foldl_mem fun s r => s.loadRouter_mem r _ _ _, foldl_mem fun s t => s.setTile_mem t _]
  split at h
  · cases h
    exact (opened _).trans (State.dropQuietFeeds_mem _ _)
  · exact (State.linkRequest_mem h).trans ((opened _).trans (State.dropQuietFeeds_mem _ _))

@[simp] theorem State.reissueAll_mem (s : State) (x : Inst) : (s.reissueAll x).mem = s.mem :=
  foldl_mem (fun _ _ => foldl_mem (fun _ _ => (foldl_mem (fun _ _ => by simp) _ _).trans (by simp)) _ _) _ _

@[simp] theorem State.releaseCtxs_mem (s : State) (x : Inst) : (s.releaseCtxs x).mem = s.mem :=
  foldl_mem (fun _ _ => by simp) _ _

theorem State.liftRegion_mem {s : State} {x : Inst} {im : SaveImage} {fence : W64} {r : State × Inst × SaveImage}
    (h : s.liftRegion x im fence = some r) : r.1.mem = s.mem := by
  unfold State.liftRegion at h
  dsimp only at h
  split at h
  · cases h
  · cases h; simp

@[simp] theorem State.answerReplaced_mem (s : State) (x : Inst) : (s.answerReplaced x).mem = s.mem :=
  foldl_mem (fun _ _ => by simp) _ _

@[simp] theorem State.drainChains_mem (s : State) (x : Inst) (old new : Image) : (s.drainChains x old new).mem = s.mem :=
  foldl_mem (fun _ _ => by dsimp only; split <;> simp) _ _

@[simp] theorem State.noteQuiesce_mem (s : State) (d : Nat) : (s.noteQuiesce d).mem = s.mem := by
  unfold State.noteQuiesce
  dsimp only
  split <;> simp

@[simp] theorem State.preemptFor_mem (s : State) (d : Nat) (es : List PoolEntry) : (s.preemptFor d es).mem = s.mem := by
  unfold State.preemptFor
  dsimp only
  repeat' split
  all_goals simp

@[simp] theorem State.park_mem (s : State) (t k : Nat) : (s.park t k).mem = s.mem := rfl
@[simp] theorem State.answerRefills_mem (s : State) : (s.answerRefills).mem = s.mem := rfl

/-! ### Faults -/

@[simp] theorem State.tellSerial_mem (s : State) (r : FaultRecord) (serial : Nat) : (s.tellSerial r serial).mem = s.mem := by
  unfold State.tellSerial
  split <;> rfl

@[simp] theorem State.enqueue_mem (s : State) (d : Nat) (r : FaultRecord) : (s.enqueue d r).mem = s.mem := by
  unfold State.enqueue
  dsimp only
  split <;> simp

@[simp] theorem State.postRecord_mem (s : State) (r : FaultRecord) : (s.postRecord r).mem = s.mem := by
  simp [State.postRecord]

@[simp] theorem State.storeFaultCtl_mem (s : State) (src : Issuer) (d : Nat) (value : BitVec 64) : (s.storeFaultCtl src d value).mem = s.mem := by
  unfold State.storeFaultCtl
  split <;> rfl

@[simp] theorem State.resume_mem (s : State) (t c : Nat) (h : HaltInfo) : (s.resume t c h).mem = s.mem := by
  unfold State.resume
  exact (foldl_mem (fun _ _ => by simp) _ _).trans ((foldl_mem (fun _ _ => by simp) _ _).trans rfl)

@[simp] theorem State.useRearm_mem (s : State) (t c : Nat) : (s.useRearm t c).mem = s.mem := by
  unfold State.useRearm
  split <;> simp

@[simp] theorem State.wake_mem (s : State) (t : Nat) : (s.wake t).mem = s.mem :=
  foldl_mem (fun _ _ => by dsimp only; split <;> simp) _ _


/-! ### Domains -/

@[simp] theorem deliverCount_mem (s : State) (fr : Firing) (n : Nat) (cond : Bool) : (deliverCount s fr n cond).mem = s.mem := by
  simp [deliverCount]

@[simp] theorem domainFault_leaves (P : Memory → Prop) (cause : Nat) : (domainFault cause).Leaves P := trivial
@[simp] theorem State.applyInval_mem (s : State) (v : Invalidation) (cache : Nat) : (s.applyInval v cache).mem = s.mem := rfl
@[simp] theorem State.sweepInvals_mem (s : State) : (s.sweepInvals).mem = s.mem := rfl
@[simp] theorem keyFaultStop_leaves (P : Memory → Prop) (cause : Nat) : (keyFaultStop cause).Leaves P := trivial
@[simp] theorem State.fillSlot_mem (s : State) (k : Nat) (key : BitVec 512) : (s.fillSlot k key).mem = s.mem := rfl
@[simp] theorem State.startClear_mem (s : State) (k : Nat) (byRoot : Bool) : (s.startClear k byRoot).mem = s.mem := rfl
@[simp] theorem State.storeEnergyCtl_mem (s : State) (src : Issuer) (d : Nat) (value : BitVec 64) : (s.storeEnergyCtl src d value).mem = s.mem := by
  unfold State.storeEnergyCtl
  dsimp only
  split <;> simp


/-! ### Resize -/

/-- A step of DCTL leaves what its effect leaves (R458). -/
theorem dctlBody_leaves {P : Memory → Prop} (stepNo : Nat) {s : State} (fr : Firing) {run : State → Nat → Fired} (hs : P s.mem)
    (hr : ∀ d, (run { s with firstDctl := true } d).Leaves P) : (dctlBody stepNo s fr run).Leaves P := by
  unfold dctlBody
  dsimp only
  repeat' split
  all_goals simp [hs, hr]

@[simp] theorem State.newDomain_mem (s : State) (d : Nat) (target : Shape) : (s.newDomain d target).mem = s.mem := rfl
@[simp] theorem State.evictInst_mem (s : State) (d : Nat) (x : Inst) : (s.evictInst d x).mem = s.mem := by
  unfold State.evictInst
  split <;> simp

@[simp] theorem State.scrubQueue_mem (s : State) (q : Nat) : (s.scrubQueue q).mem = s.mem := by
  simp [State.scrubQueue]

@[simp] theorem State.joinScope_mem (s : State) (d : Nat) (secs : List Nat) : (s.joinScope d secs).mem = s.mem :=
  foldl_mem (fun _ _ => by simp) _ _

@[simp] theorem State.clearPools_mem (s : State) (secs : List Nat) : (s.clearPools secs).mem = s.mem := rfl
@[simp] theorem State.storeDomCtl_mem (s : State) (src : Issuer) (d : Nat) (value : BitVec 64) : (s.storeDomCtl src d value).mem = s.mem := by
  unfold State.storeDomCtl
  dsimp only
  split <;> simp

@[simp] theorem State.storeDomShare_mem (s : State) (src : Issuer) (d : Nat) (value : BitVec 64) : (s.storeDomShare src d value).mem = s.mem := by
  unfold State.storeDomShare
  dsimp only
  split <;> simp

@[simp] theorem State.storeDomTrust_mem (s : State) (src : Issuer) (d : Nat) (value : BitVec 64) : (s.storeDomTrust src d value).mem = s.mem := by
  unfold State.storeDomTrust
  dsimp only
  split <;> simp


/-! ### Registers -/

@[simp] theorem State.storeIngressCtl_mem (s : State) (src : Issuer) (n : Nat) (value : BitVec 64) : (s.storeIngressCtl src n value).mem = s.mem := by
  unfold State.storeIngressCtl
  dsimp only
  split <;> simp

@[simp] theorem State.storeHaltCtl_mem (s : State) (src : Issuer) (d : Nat) (value : BitVec 64) : (s.storeHaltCtl src d value).mem = s.mem := by
  unfold State.storeHaltCtl
  split <;> rfl


/-! ### Boot -/

@[simp] theorem State.stopBoot_mem (s : State) (phase code : Nat) : (s.stopBoot phase code).mem = s.mem := rfl
@[simp] theorem State.repairTile_mem (s : State) (t : Nat) : (s.repairTile t).mem = s.mem := by
  unfold State.repairTile
  dsimp only
  split <;> simp

@[simp] theorem State.applyRepair_mem (s : State) : (s.applyRepair).mem = s.mem :=
  foldl_mem (fun _ _ => by simp) _ _

@[simp] theorem State.takeConfig_mem (s : State) : (s.takeConfig).mem = s.mem := rfl
@[simp] theorem State.thermalRecord_mem (s : State) (d cause sensor tenths : Nat) : (s.thermalRecord d cause sensor tenths).mem = s.mem := rfl
@[simp] theorem State.clampAll_mem (s : State) (ds : List Nat) (on : Bool) : (s.clampAll ds on).mem = s.mem := by
  unfold State.clampAll
  exact (foldl_mem (fun _ _ => by simp) _ _).trans (s.noteCycles_mem _)

@[simp] theorem State.hostBeat_mem (s : State) (n off : Nat) (data : List Byte) : (s.hostBeat n off data).mem = s.mem := by
  unfold State.hostBeat
  dsimp only
  repeat' split
  all_goals simp


/-! ### Float -/


/-! ### Chains -/

@[simp] theorem State.setQueue_mem (s : State) (t : Nat) (q : List ChainRun) : (s.setQueue t q).mem = s.mem := rfl
@[simp] theorem chainFaulted_mem (s : State) (t : Nat) (run : ChainRun) (fi : FaultInfo) : (chainFaulted s t run fi).mem = s.mem := rfl
theorem issueReads_mem {s u : State} {t : Nat} {run : ChainRun} {n : Nat} {streams : List (Nat × Ty × Nat)} {ids : List (Nat × Nat)}
    (h : issueReads s t run n streams = .ok (u, ids)) : u.mem = s.mem := by
  induction streams generalizing s ids with
  | nil => cases h; rfl
  | cons x rest ih =>
    unfold issueReads at h
    dsimp only at h
    split at h
    · cases h
    · split at h
      · cases h
      · next hr => cases h; simpa using ih hr

@[simp] theorem writeGroup_mem (s : State) (t : Nat) (run : ChainRun) (sts : List Stage) : (writeGroup s t run sts).mem = s.mem := by
  unfold writeGroup
  dsimp only
  split <;> simp

@[simp] theorem chainCompleted_mem (s : State) (t : Nat) (run : ChainRun) : (chainCompleted s t run).mem = s.mem := rfl
@[simp] theorem startGroup_mem (s : State) (t : Nat) (run : ChainRun) (sts : List Stage) : (startGroup s t run sts).mem = s.mem := by
  unfold startGroup
  split
  · simp
  · next h => simpa using issueReads_mem h
  · next h => simpa using issueReads_mem h


/-! ### Integer -/


/-! ### Matrix -/

@[simp] theorem issueRows_mem (t : Nat) (mk : State → Nat → Access) (rows : List Nat) (s : State) : (issueRows t mk rows s).2.mem = s.mem := by
  induction rows generalizing s with
  | nil => rfl
  | cons r rest ih => simp [issueRows, ih]

@[simp] theorem State.setXfer_mem (s : State) (t : Nat) (x : RowXfer) : (s.setXfer t x).mem = s.mem := rfl
@[simp] theorem State.finishXfer_mem (s : State) (t : Nat) : (s.finishXfer t).mem = s.mem := by
  unfold State.finishXfer
  dsimp only
  repeat' split
  all_goals simp


/-! ### Perform -/

@[simp] theorem State.performed_mem (s : State) (g : Nat) : (s.performed g).mem = s.mem := by
  simp [State.performed]

@[simp] theorem State.putAccess_mem (s : State) (a : Access) : (s.putAccess a).mem = s.mem := rfl
@[simp] theorem State.deliverStore_mem (s : State) (id : Nat) : (s.deliverStore id).mem = s.mem := by
  unfold State.deliverStore
  dsimp only
  repeat' split
  all_goals simp

@[simp] theorem State.settleAccess_mem (s : State) (a : Access) : (s.settleAccess a).mem = s.mem := by
  unfold State.settleAccess
  repeat' split
  all_goals simp

@[simp] theorem State.meetPoison_mem (s : State) (a : Access) (lane : Nat) : (s.meetPoison a lane).mem = s.mem := by
  unfold State.meetPoison
  repeat' split
  all_goals simp


/-! ### Triggers -/

@[simp] theorem applyPred_mem (s : State) (fr : Firing) (c : Mask) : (applyPred s fr c).mem = s.mem := by
  simp [applyPred]

@[simp] theorem steerTo_mem (s : State) (fr : Firing) (dst : Opnd) (lanes : Mask) : (steerTo s fr dst lanes).mem = s.mem := by
  unfold steerTo
  repeat' split
  all_goals simp

@[simp] theorem State.setBuffer_mem (s : State) (t k : Nat) (b : Buffer) : (s.setBuffer t k b).mem = s.mem := rfl
@[simp] theorem State.setCounter_mem (s : State) (t k : Nat) (ch : Counter) : (s.setCounter t k ch).mem = s.mem := rfl

/-! ### Step -/

@[simp] theorem State.takeTurn_mem (s : State) : s.takeTurn.2.mem = s.mem := by
  unfold State.takeTurn
  dsimp only
  split <;> rfl


end Sys2Proof.Machine
end

section
/-! SUPPORT. Every operation that writes memory keeps its canonical form: the operations on memory that Laws/Memory.lean does not name, then those of the
state in the order of the model's files (R92, R226, R231, R359, R376-R385, R458, R463, R479, R486). -/

namespace Sys2Proof.Machine

open Sys2Proof

/-! ### Operations on memory -/

/-- The canonical form as a proposition that `simp` does not take apart. -/
def Memory.Canonical (m : Memory) : Prop := m.wf = true

theorem Memory.wf_clearPoison {m : Memory} (g n : Nat) (h : m.wf = true) : (m.clearPoison g n).wf = true :=
  Memory.wf_foldl _ (fun _ _ => Memory.wf_setPoison _ _) _ _ h

theorem Memory.wf_putSection {m : Memory} (key at' n : Nat) (cs : List Host.Cell) (full : NSet) (h : m.wf = true) :
    (m.putSection key at' n cs full).wf = true :=
  Memory.wf_putBlob _ _ _ (Memory.wf_putRange _ _ _ _ h)

theorem Memory.wf_putMatrix {m : Memory} (im : SaveImage) (t : Nat) (row : RowEngine) (h : m.wf = true) : (m.putMatrix im t row).wf = true := by
  unfold Memory.putMatrix
  split
  · exact h
  · exact Memory.wf_putBlob _ _ _ (Memory.wf_putBlob _ _ _ h)

theorem Memory.wf_remapTable (go : Nat → Option Nat) (level frame : Nat) {m : Memory} (h : m.wf = true) :
    (m.remapTable go level frame).wf = true := by
  induction level generalizing frame m with
  | zero =>
    refine Memory.wf_foldl _ (fun m pa hm => ?_) _ _ h
    dsimp only
    split
    · split
      · exact Memory.wf_write _ _ _ hm
      · exact hm
    · exact hm
  | succ level ih =>
    refine Memory.wf_foldl _ (fun m pa hm => ?_) _ _ h
    dsimp only
    split
    · exact ih _ hm
    · exact hm

theorem State.writeMem_wf {s : State} (p : Piece) (data mask : BitVec 128) (full poison : Bool) (h : s.mem.Canonical) :
    (s.writeMem p data mask full poison).Canonical := by
  have written := Memory.wf_setKey p.gran p.key
    (Memory.wf_setGranule p.gran ((s.granuleAs p.key p.gran &&& ~~~mask) ||| (data &&& mask)) (BitVec.allOnes 128) h)
  have marked : ∀ b c : Bool, ∀ m : Memory, m.wf = true → (if b then m.setPoison p.gran true else if c then m.setPoison p.gran false else m).wf = true := by
    intro b c m hm
    split
    · exact Memory.wf_setPoison _ _ hm
    · split
      · exact Memory.wf_setPoison _ _ hm
      · exact hm
  have hm := marked poison (decide (mask = BitVec.allOnes 128)) _ written
  simp only [decide_eq_true_eq] at hm
  unfold State.writeMem
  dsimp only
  split
  · exact Memory.wf_setFull _ _ hm
  · exact hm

/-! ### Shapes -/

/-- A fold of operations that each keep the canonical form keeps it. -/
theorem foldl_wf {α : Type} {f : State → α → State} (hf : ∀ s x, s.mem.Canonical → (f s x).mem.Canonical) (xs : List α) {s : State}
    (h : s.mem.Canonical) : (xs.foldl f s).mem.Canonical :=
  List.foldlRecOn xs f (motive := fun u => u.mem.Canonical) h fun u hu x _ => hf u x hu

/-! ### Sched: mailboxes, instances, retirement -/

theorem State.postMail_wf {s u : State} {msg : V512} (h : s.mem.Canonical) (hu : s.postMail msg = some u) : u.mem.Canonical := by
  unfold State.postMail at hu
  dsimp only at hu
  split at hu
  · cases hu
  · cases hu
    exact Memory.wf_write _ _ _ (Memory.wf_clearPoison _ _ (Memory.wf_write _ _ _ h))

theorem State.flushMail_wf {s : State} (h : s.mem.Canonical) : s.flushMail.mem.Canonical := by
  unfold State.flushMail
  split
  · exact h
  · refine foldl_wf (fun s m hs => ?_) _ h
    split
    · next hu => exact (State.postMail_wf hs hu :)
    · exact hs

theorem State.tidyMail_wf {s : State} (d : Nat) (h : s.mem.Canonical) : (s.tidyMail d).mem.Canonical := by
  unfold State.tidyMail
  split
  · exact State.flushMail_wf h
  · exact h

/-- Telling launches of their end, and noting their fates, leaves memory. -/
theorem tellLaunches_mem (ls : List (PoolEntry × Nat)) (o : PoolEntry × Nat → Outcome') (w : W64) (told : Bool) (s : State) :
    (if told then ls.foldl (fun s e => s.complete e.1 (o e)) s
     else ls.foldl (fun s e => s.setFate e.1.id (.released w)) (ls.foldl (fun s e => s.complete e.1 (o e)) s)).mem = s.mem := by
  split
  · rw [foldl_mem (by simp)]
  · rw [foldl_mem (by simp), foldl_mem (by simp)]

theorem State.closeInst_wf {s : State} (x : Inst) (h : s.mem.Canonical) : (s.closeInst x).mem.Canonical := by
  unfold State.closeInst
  dsimp only
  split
  · exact h
  · split
    · exact h
    · split
      · refine State.flushMail_wf ?_
        rw [State.setDomain_mem, tellLaunches_mem]
        exact h
      · rw [tellLaunches_mem]
        exact h

theorem State.noteRetired_wf {s : State} (t : Nat) (h : s.mem.Canonical) : (s.noteRetired t).mem.Canonical := by
  unfold State.noteRetired
  dsimp only
  split
  · exact h
  · split
    · exact h
    · split
      · exact State.closeInst_wf _ h
      · exact h

theorem State.retireCtx_wf {s : State} (t c : Nat) (h : s.mem.Canonical) : (s.retireCtx t c).mem.Canonical := by
  unfold State.retireCtx
  dsimp only
  split
  · exact h
  · exact State.noteRetired_wf t h

theorem State.retireAll_wf {s : State} (x : Inst) (h : s.mem.Canonical) : (s.retireAll x).mem.Canonical := by
  unfold State.retireAll
  dsimp only
  split
  · refine State.closeInst_wf _ (foldl_wf (fun s t hs => ?_) _ (foldl_wf (fun s st hs => by simpa using hs) _ h))
    split
    · exact foldl_wf (fun s c hs => by split <;> exact hs) _ hs
    · exact hs
  · exact foldl_wf (fun s t hs => foldl_wf (fun s c hs => State.retireCtx_wf t c hs) _ hs) _ h

theorem State.releaseInst_wf {s : State} (d n : Nat) (killed : Bool) (h : s.mem.Canonical) : (s.releaseInst d n killed).mem.Canonical := by
  unfold State.releaseInst
  refine foldl_wf (fun s x hs => ?_) _ (foldl_wf (fun s x hs => by exact hs) _ h)
  split
  · exact State.retireAll_wf _ hs
  · exact hs

theorem State.loadImage_wf {s : State} (g : Image) (rg : Region) (inst asid : Nat) (h : s.mem.Canonical) : (s.loadImage g rg inst asid).mem.Canonical := by
  have placed : ∀ (s1 : State) (ts : List Nat) (rs : List TileRec) (ws : List RouterRec), s1.mem.Canonical →
      (ws.foldl (fun s r => s.loadRouter r rg.ox rg.oy inst) (rs.foldl (fun s r => s.setTile (tileAt (rg.ox + r.x) (rg.oy + r.y) (rg.oz + r.z))
        ((s.tile (tileAt (rg.ox + r.x) (rg.oy + r.y) (rg.oz + r.z))).load r inst asid))
        (ts.foldl (fun s t => s.setTile t { s.tile t with inst := inst, asid := asid }) s1))).mem.Canonical :=
    fun s1 ts rs ws hs => foldl_wf (fun _ _ hs => by exact hs) _ (foldl_wf (fun _ _ hs => by exact hs) _ (foldl_wf (fun _ _ hs => by exact hs) _ hs))
  have pads := Memory.wf_foldl (fun m t => m.emptyRange (padPA t 0 / 16) 16384) (fun _ _ hm => Memory.wf_emptyRange _ _ hm) rg.tiles _
    (placed s rg.tiles g.tiles g.routers h)
  unfold State.loadImage
  refine Memory.wf_foldl _ (fun m r hm => Memory.wf_loadData _ _ hm) _ _ ?_
  split
  · exact Memory.wf_foldl _ (fun _ _ hm => Memory.wf_emptyRange _ _ hm) _ _ pads
  · exact pads

theorem State.placeEntry_wf {s : State} (e : PoolEntry) (g : Image) (rg : Region) (asid : Nat) (wit : W64) (predFailed late : Bool)
    (h : s.mem.Canonical) : (s.placeEntry e g rg asid wit predFailed late).mem.Canonical := by
  unfold State.placeEntry
  dsimp only
  split
  · simpa using h
  · next s3 hl =>
    have loaded : s3.mem.Canonical := by
      split at hl
      · cases hl
        simpa using State.loadImage_wf _ _ _ _ (by simpa using h)
      · rw [State.linkRequest_mem hl]
        simpa using State.loadImage_wf _ _ _ _ (by simpa using h)
    split <;> simpa using loaded

theorem State.tryPlace_wf {s : State} (asid : Nat) (e : PoolEntry) (h : s.mem.Canonical) : (s.tryPlace asid e).mem.Canonical := by
  unfold State.tryPlace
  dsimp only
  repeat' split
  all_goals simp [h, State.placeEntry_wf]

theorem State.sweep_wf {s : State} (d : Nat) (h : s.mem.Canonical) : (s.sweep d).mem.Canonical := by
  refine foldl_wf (fun s x hs => ?_) _ h
  have closed := State.closeInst_wf x hs
  dsimp only
  split
  · simpa using closed
  · exact closed

/-! ### Health: a tile taken out of service, errors that strike -/

theorem State.retireTile_wf {s : State} (t reason : Nat) (h : s.mem.Canonical) : (s.retireTile t reason).mem.Canonical := by
  unfold State.retireTile
  dsimp only
  split
  · exact h
  · split
    · exact Memory.wf_zeroRange _ _ h
    · exact State.flushMail_wf h

theorem State.poisonAll_wf {s : State} (gs : List Nat) (source : Nat) (scrub : Bool) (g : Nat) (h : s.mem.Canonical) :
    (s.poisonAll gs source scrub g).mem.Canonical := by
  have marked := Memory.wf_foldl (fun m k => m.setPoison k true) (fun _ _ hm => Memory.wf_setPoison _ _ hm) gs _ h
  unfold State.poisonAll
  dsimp only
  split <;> exact marked

theorem State.strike_wf {s : State} (p : CheckPlace) (h : s.mem.Canonical) : (s.strike p).mem.Canonical := by
  cases p with
  | granule g scrub => exact State.poisonAll_wf _ _ _ _ h
  | slice g scrub => exact State.poisonAll_wf _ _ _ _ h
  | router | input | output | skim | copy => exact h
  | element t struck => simpa [State.strike] using h

/-! ### Stencil: the stacks of a page pool -/

theorem State.writeStack_wf {s : State} (col : Nat) (pages stack which : List Nat) (h : s.mem.Canonical) :
    (s.writeStack col pages stack which).mem.Canonical := by
  refine Memory.wf_foldl _ (fun m k hm => ?_) _ _ h
  have written := Memory.wf_setFull (symbolPA col pages k / 16) true (Memory.wf_write (symbolPA col pages k) 2 (stack.reverse.getD k 0) hm)
  dsimp only
  split
  · exact Memory.wf_setPoison _ _ written
  · exact written

theorem State.keepWalk_wf {s : State} (c : StencilCmd) (old : GConf) (w : GWalk) (fresh : Nat → Bool) (h : s.mem.Canonical) :
    (s.keepWalk c old w fresh).mem.Canonical :=
  State.writeStack_wf _ _ _ _ h

theorem performGadv_wf {s : State} (c : StencilCmd) (h : s.mem.Canonical) : (performGadv s c).s.mem.Canonical := by
  unfold performGadv
  dsimp only
  repeat' split
  all_goals simp [h, State.keepWalk_wf]

theorem performGrst_wf {s : State} (c : StencilCmd) (h : s.mem.Canonical) : (performGrst s c).s.mem.Canonical := by
  unfold performGrst
  dsimp only
  repeat' split
  case h_2.isFalse => exact State.writeStack_wf _ _ _ _ h
  all_goals exact h

theorem performStencil_wf {s : State} (c : StencilCmd) (h : s.mem.Canonical) : (performStencil s c).s.mem.Canonical := by
  unfold performStencil
  dsimp only
  split
  · exact h
  · split
    · exact h
    · split
      · exact h
      · split
        · simpa using h
        · exact performGrst_wf c h
        · exact h
        · split
          · exact h
          · split
            · exact performGadv_wf c h
            all_goals simpa using h

theorem State.finishStencil_wf {s : State} (c : StencilCmd) (h : s.mem.Canonical) : (s.finishStencil c).mem.Canonical := by
  have performed : (performStencil (s.countReads c) c).s.mem.Canonical := performStencil_wf c (by simpa using h)
  unfold State.finishStencil
  dsimp only
  split
  · exact performed
  · simpa using performed

/-! ### Preempt: save images, restores, replacements -/

theorem State.writeSave_wf {s : State} (x : Inst) (im : SaveImage) (h : s.mem.Canonical) : (s.writeSave x im).mem.Canonical := by
  have blob := Memory.wf_putBlob im.key im.address (saveBlob x im) h
  unfold State.writeSave
  dsimp only
  split
  · exact blob
  · exact Memory.wf_foldl _ (fun _ _ hm => Memory.wf_putSection _ _ _ _ _ hm) _ _
      (Memory.wf_foldl _ (fun _ _ hm => Memory.wf_putSection _ _ _ _ _ hm) _ _ blob)

theorem State.spillEngine_wf {s : State} (t : Nat) (h : s.mem.Canonical) : (s.spillEngine t).mem.Canonical := by
  unfold State.spillEngine
  dsimp only
  split
  · exact h
  · split
    · exact h
    · exact Memory.wf_putMatrix _ _ _ h

theorem State.restoreEngine_wf {s : State} (x : Inst) (st : SavedTile) (t : Nat) (h : s.mem.Canonical) : (s.restoreEngine x st t).mem.Canonical := by
  have spilt : ∀ (b : Bool) (u : Nat) (s1 : State), s1.mem.Canonical → (if b then s1.spillEngine u else s1).mem.Canonical := by
    intro b u s1 h1
    split
    · exact State.spillEngine_wf u h1
    · exact h1
  unfold State.restoreEngine
  dsimp only
  split
  · exact h
  · split
    · exact spilt _ _ _ (spilt _ _ _ h)
    · exact spilt _ _ _ (spilt _ _ _ h)

theorem State.restoreTile_wf {s : State} (x : Inst) (rg : Region) (st : SavedTile) (h : s.mem.Canonical) : (s.restoreTile x rg st).mem.Canonical := by
  have pad : ∀ lo, (s.mem.putPad lo st.pad st.padFull st.padPoison).Canonical := fun lo => Memory.wf_putSaved _ _ _ _ _ h
  unfold State.restoreTile
  dsimp only
  split
  · exact h
  · rw [State.renewHalts_mem, State.reattach_mem]
    refine State.restoreEngine_wf _ _ _ ?_
    split
    · exact pad _
    · rw [State.renumberChains_mem]
      exact pad _

theorem State.restoreVaults_wf {s : State} (rg : Region) (vs : List (List Host.Cell × NSet × NSet)) (h : s.mem.Canonical) :
    (s.restoreVaults rg vs).mem.Canonical :=
  foldl_wf (fun _ _ hs => by exact Memory.wf_putSaved _ _ _ _ _ hs) _ h

theorem State.remapPages_wf {s : State} (x : Inst) (rg : Region) (im : SaveImage) (h : s.mem.Canonical) : (s.remapPages x rg im).mem.Canonical := by
  unfold State.remapPages
  dsimp only
  split
  · exact h
  · exact Memory.wf_remapTable _ _ _ h

theorem State.placeSaved_wf {s u : State} {x : Inst} {g : Image} {im : SaveImage} {move : Bool} (h : s.mem.Canonical)
    (hu : s.placeSaved x g im move = some u) : u.mem.Canonical := by
  unfold State.placeSaved at hu
  dsimp only at hu
  split at hu
  · cases hu
  · split at hu
    · next hl =>
      cases hu
      rw [State.reissueAll_mem, State.setInst_mem]
      refine State.remapPages_wf _ _ _ (State.restoreVaults_wf _ _ ?_)
      rw [State.restoreRouters_mem]
      refine foldl_wf (fun _ _ hs => by exact State.restoreTile_wf _ _ _ hs) _ ?_
      rw [State.setInst_mem, State.reload_mem hl]
      exact h
    · cases hu

theorem State.restoreInst_wf {s : State} (x : Inst) (g : Image) (im : SaveImage) (move : Bool) (fence : W64) (h : s.mem.Canonical) :
    (s.restoreInst x g im move fence).mem.Canonical := by
  have placed : ∀ (s1 s2 : State) y im1 b, s1.mem.Canonical → s2.mem.Canonical → ((s1.placeSaved y g im1 b).getD s2).mem.Canonical := by
    intro s1 s2 y im1 b h1 h2
    cases hp : s1.placeSaved y g im1 b with
    | none => exact h2
    | some u => exact State.placeSaved_wf h1 hp
  unfold State.restoreInst
  dsimp only
  split
  · exact placed _ _ _ _ _ h h
  · split
    · split
      · exact h
      · next hl => exact placed _ _ _ _ _ (by rw [State.liftRegion_mem hl]; exact h) h
    · rw [State.reissueAll_mem, foldl_mem (fun s t => s.renewHalts_mem t), State.setInst_mem]
      exact h

theorem State.replaceModes_wf {s : State} (x : Inst) (im : SaveImage) (g : Image) (config : BitVec 128) (h : s.mem.Canonical) :
    (s.replaceModes x im g config).mem.Canonical := by
  have blob := Memory.wf_putBlob im.key (im.address + 8) ⟨16, config.toNat⟩ h
  unfold State.replaceModes
  dsimp only
  split
  · exact blob
  · exact foldl_wf (fun _ _ hs => by exact hs) _ blob

theorem State.replaceStep_wf {s : State} (e : PoolEntry) (h : s.mem.Canonical) : (s.replaceStep e).mem.Canonical := by
  unfold State.replaceStep
  dsimp only
  repeat' split
  all_goals simp [h, State.replaceModes_wf]

/-! ### Faults: a context's retirement by a lath -/

theorem State.frsmEffect_wf {s : State} (k : FrsmAsk) (hi : HaltInfo) (h : s.mem.Canonical) : (s.frsmEffect k hi).mem.Canonical := by
  unfold State.frsmEffect
  dsimp only
  split
  · simpa using h
  · exact State.retireCtx_wf _ _ h
  · split
    · exact h
    · exact State.releaseInst_wf _ _ _ h
  · exact h

/-! ### Resize and boot: sectors wiped, lath images loaded -/

theorem State.scrubSector_wf {s : State} (sec : Nat) (h : s.mem.Canonical) : (s.scrubSector sec).mem.Canonical := by
  have detached : ∀ (qs : SMap Queue) (own : Nat × Queue → Bool),
      (qs.foldl (fun s q => if own q then s.scrubQueue q.1 else s.detach q.1) s).mem.Canonical := by
    intro qs own
    rw [foldl_mem fun s q => by split <;> simp]
    exact h
  unfold State.scrubSector
  dsimp only
  refine Memory.wf_zeroRange _ _ (Memory.wf_foldl _ (fun _ _ hm => Memory.wf_zeroRange _ _ hm) _ _ (Memory.wf_foldl _ (fun m t hm => ?_) _ _ (detached _ _)))
  split
  · exact Memory.wf_zeroRange _ _ hm
  · exact hm

theorem State.loadLath_wf {s : State} (d : Nat) (g : Image) (secs : List Nat) (h : s.mem.Canonical) : (s.loadLath d g secs).mem.Canonical :=
  foldl_wf (fun _ _ hs => by simpa using State.loadImage_wf _ _ _ _ hs) _ h

theorem State.bootPhase_wf {s u : State} {found : BootFindings} {n : Nat} (h : s.mem.Canonical) (hu : s.bootPhase found n = .ok u) : u.mem.Canonical := by
  unfold State.bootPhase at hu
  dsimp only at hu
  split at hu
  · split at hu
    · cases hu; exact h
    · cases hu
  · split at hu
    · cases hu
    · split at hu
      · cases hu
      · cases hu; exact h
  · cases hu; simpa using h
  · cases hu; exact Memory.wf_zeroRange _ _ h
  · split at hu
    · cases hu
    · cases hu; exact h
  · split at hu
    · cases hu
    · cases hu; exact h
  · split at hu
    · cases hu
    · cases hu
      rw [State.measureLoad_mem]
      exact State.loadLath_wf _ _ _ (Memory.wf_putBlob _ _ _ h)
  · cases hu; exact h

@[simp] theorem State.restart_mem (s : State) : s.restart.mem = s.mem := by
  unfold State.restart
  dsimp only
  split <;> rfl

/-! ### Registers and the host link -/

theorem State.storeAttestCtl_wf {s : State} (src : Issuer) (d : Nat) (value : BitVec 64) (h : s.mem.Canonical) :
    (s.storeAttestCtl src d value).mem.Canonical := by
  unfold State.storeAttestCtl
  split
  · exact h
  · split
    · exact h
    · exact Memory.wf_cleanRange _ _ (Memory.wf_write _ _ _ h)

theorem State.storeTileHealth_wf {s : State} (src : Issuer) (t : Nat) (value : BitVec 64) (h : s.mem.Canonical) :
    (s.storeTileHealth src t value).mem.Canonical := by
  unfold State.storeTileHealth
  dsimp only
  split
  · exact State.retireTile_wf _ _ h
  · exact h

theorem State.storeReg_wf {s : State} (src : Issuer) (r : Reg) (value : BitVec 64) (h : s.mem.Canonical) : (s.storeReg src r value).mem.Canonical := by
  cases r
  case attestCtl d => exact State.storeAttestCtl_wf src d value h
  case tileHealth t => exact State.storeTileHealth_wf src t value h
  all_goals simpa [State.storeReg] using h

theorem State.storeRegister_wf {s : State} (src : Issuer) (off : Nat) (value : BitVec 64) (h : s.mem.Canonical) :
    (s.storeRegister src off value).mem.Canonical := by
  unfold State.storeRegister
  split
  · exact h
  · exact State.storeReg_wf _ _ _ h

theorem State.hostStore_wf {s : State} (pa : Nat) (data : List Byte) (h : s.mem.Canonical) : (s.hostStore pa data).mem.Canonical := by
  unfold State.hostStore
  split
  · exact h
  · exact Memory.wf_cleanRange _ _ (Memory.wf_foldl _ (fun _ _ hm => Memory.wf_setByte _ _ hm) _ _ (Memory.wf_underKey _ _ _ h))

theorem State.hostWords_wf {s : State} (off : Nat) (data : List Byte) (h : s.mem.Canonical) : (s.hostWords off data).mem.Canonical :=
  foldl_wf (fun _ _ hs => by exact State.storeRegister_wf _ _ _ hs) _ h

theorem State.hostWrite_wf {s : State} (pa : Nat) (data : List Byte) (h : s.mem.Canonical) : (s.hostWrite pa data).mem.Canonical := by
  unfold State.hostWrite
  dsimp only
  split
  · exact State.hostWords_wf _ _ h
  · split
    · simpa using h
    · split
      · exact State.flushMail_wf (State.hostStore_wf _ _ h)
      · exact State.hostStore_wf _ _ h

/-! ### Accesses performed, circular buffers -/

theorem State.writeWords_wf {s : State} (a : Access) (g : Nat) (data mask : BitVec 128) (h : s.mem.Canonical) : (s.writeWords a g data mask).mem.Canonical := by
  unfold State.writeWords
  dsimp only
  split
  · refine State.storeRegister_wf _ _ _ ?_
    split
    · exact State.storeRegister_wf _ _ _ h
    · exact h
  · split
    · exact State.storeRegister_wf _ _ _ h
    · exact h

theorem State.writeGranule_wf {s : State} (a : Access) (p : Piece) (data mask : BitVec 128) (full poison : Bool) (h : s.mem.Canonical) :
    (s.writeGranule a p data mask full poison).mem.Canonical := by
  have written := State.writeMem_wf p data mask full poison h
  unfold State.writeGranule
  dsimp only
  split
  · exact State.writeWords_wf _ _ _ _ h
  · split
    · exact h
    · split
      · simpa using written
      · exact written

theorem State.performPiece_wf {s : State} (a : Access) (p : Piece) (h : s.mem.Canonical) : (s.performPiece a p).1.mem.Canonical := by
  unfold State.performPiece
  dsimp only
  split
  · simpa using h
  · have cleared : (s.performed p.gran).mem.Canonical := by simpa using h
    dsimp only
    split
    · exact Memory.wf_setFull _ _ cleared
    · exact cleared
  · simpa using State.writeGranule_wf _ _ _ _ _ _ h
  · split
    · dsimp only
      split <;> simpa using h
    · simpa using State.writeGranule_wf _ _ _ _ _ _ h

theorem State.performAll_wf {s : State} (a : Access) (ps : List Piece) (h : s.mem.Canonical) : (s.performAll a ps).mem.Canonical := by
  have performed : (ps.foldl (fun acc p => acc.1.performPiece acc.2 p) (s, a)).1.mem.Canonical :=
    List.foldlRecOn ps _ (motive := fun acc : State × Access => acc.1.mem.Canonical) h fun acc hacc p _ => State.performPiece_wf _ p hacc
  unfold State.performAll
  dsimp only
  split <;> simpa using performed

theorem State.markSlots_wf {s : State} (t : Nat) (b : Buffer) (k count : Nat) (full : Bool) (h : s.mem.Canonical) :
    (s.markSlots t b k count full).mem.Canonical := by
  unfold State.markSlots
  split
  · exact Memory.wf_foldl _ (fun m j hm => Memory.wf_foldl _ (fun m g hm => Memory.wf_setFull _ _ hm) _ _ hm) _ _ h
  · exact h

end Sys2Proof.Machine
end


section
/-! SUPPORT. What one step leaves of memory: every instruction and every event either does not touch memory or writes it through the
model's own operations, which keep the canonical form. -/

namespace Sys2Proof.Machine

open Sys2Proof

/-- The memory of the next state satisfies `P`, when there is a next state. -/
def Leaves (P : Memory → Prop) : Host.Outcome State Fault Refusal → Prop
  | .next u => P u.mem
  | .fault _ => True
  | .refused _ => True

@[simp] theorem leaves_next (P : Memory → Prop) (u : State) : Leaves P (.next u) ↔ P u.mem := Iff.rfl
@[simp] theorem leaves_fault (P : Memory → Prop) (r : Fault) : Leaves P (.fault r) := trivial
@[simp] theorem leaves_refused (P : Memory → Prop) (r : Refusal) : Leaves P (.refused r) := trivial

theorem Fired.Leaves.of_eq {P : Memory → Prop} {m : Memory} {b : Fired} (hm : P m) (hb : b.Leaves (· = m)) : b.Leaves P := by
  cases b with
  | done u =>
    obtain rfl : u.mem = m := hb
    exact hm
  | doneThen u fi =>
    obtain rfl : u.mem = m := hb
    exact hm
  | stop fi => trivial
  | idle => trivial

section
variable {P : Memory → Prop} {s : State} {i : Instr}

/-- A firing leaves of memory what its body leaves of it: readiness, the operands, the record of a fault and the advance of the streams do not touch memory. -/
theorem fire_leaves {body : State → Firing → Fired} (hs : P s.mem) (hb : ∀ fr, (body s fr).Leaves P) : Leaves P (fire i body s) := by
  unfold fire
  split
  · exact hs
  split
  · exact hs
  dsimp only
  split
  · exact hs
  split
  · simpa using hs
  next fr _ =>
    split
    · simpa using hs
    have left := hb fr
    split
    all_goals simp_all

theorem fireLanes_leaves {g : State → Firing → LaneResult} (hs : P s.mem) : Leaves P (fireLanes i g s) :=
  fire_leaves hs fun _ => by simpa using hs

theorem fireInt_leaves {g : Bool → Nat → Int → Int → Int → Nat × Bool} (hs : P s.mem) : Leaves P (fireInt i g s) := fireLanes_leaves hs
theorem fireBits_leaves {g : Slot → Nat → Nat → Nat → Nat} (hs : P s.mem) : Leaves P (fireBits i g s) := fireLanes_leaves hs
theorem fireCmp_leaves {g : Int → Int → Bool} (hs : P s.mem) : Leaves P (fireCmp i g s) := fireInt_leaves hs
theorem fireWhole_leaves {g : Firing → List Nat} (hs : P s.mem) : Leaves P (fireWhole i g s) := fireLanes_leaves hs
theorem fireReduce_leaves {o : Fold} (hs : P s.mem) : Leaves P (fireReduce i o s) := fireWhole_leaves hs
theorem fireFloat_leaves {g : Slot → Fmt → Nat → Nat → Nat → FRes} (hs : P s.mem) : Leaves P (fireFloat i g s) := fireLanes_leaves hs
theorem fireFcmp_leaves {which : Nat} (hs : P s.mem) : Leaves P (fireFcmp i which s) := fireLanes_leaves hs

theorem firePred_leaves {g : Firing → Mask} (hs : P s.mem) : Leaves P (firePred i g s) :=
  fire_leaves hs fun _ => by simpa using hs

theorem fireMatrix_leaves {body : State → Firing → RowEngine → Fired} (hs : P s.mem) (hb : ∀ fr e, (body s fr e).Leaves P) :
    Leaves P (fireMatrix i body s) :=
  fire_leaves hs fun fr => by
    split
    · simpa using hs
    split
    · trivial
    · exact hb fr _

theorem fireRequest_leaves (hs : P s.mem) : Leaves P (fireRequest i s) :=
  fire_leaves hs fun fr => by
    dsimp only
    repeat' split
    all_goals simp [hs]

/-- A move of the head command leaves of memory what the body of that kind of command leaves of it. -/
theorem engineMove_leaves {q cmd : Nat} {body : State → Nat → EngineRun → State} (hs : P s.mem) (hb : ∀ n r, (body s n r).mem = s.mem) :
    Leaves P (engineMove q cmd body s) := by
  unfold engineMove
  repeat' split
  all_goals simp [hs, hb]

theorem queueCtlEvent_leaves {ask : QueueAsk} {src : Issuer} {q : Nat} {value : BitVec 64} (hs : P s.mem) :
    Leaves P (queueCtlEvent ask src q value s) := by
  unfold queueCtlEvent
  repeat' split
  all_goals simp [hs]

/-! ### Instructions and events that do not touch memory -/

theorem execFflg_leaves {f : Slot} (hs : P s.mem) : Leaves P (execFflg f s) :=
  fire_leaves hs fun fr => by
    split <;> simp [hs]

theorem execChn_leaves {f : Slot} (hs : P s.mem) : Leaves P (execChn f s) :=
  fire_leaves hs fun fr => by
    dsimp only
    repeat' split
    all_goals simp [hs]

theorem execChnw_leaves {f : Slot} (hs : P s.mem) : Leaves P (execChnw f s) :=
  fire_leaves hs fun fr => by
    dsimp only
    repeat' split
    all_goals simp [hs]

theorem execMset_leaves {f : Slot} (hs : P s.mem) : Leaves P (execMset f s) :=
  fireMatrix_leaves hs fun _ _ => by
    dsimp only
    split
    · trivial
    · exact hs

theorem execMldb_leaves {f : Slot} (hs : P s.mem) : Leaves P (execMldb f s) :=
  fireMatrix_leaves hs fun _ _ => hs

theorem execMcbt_leaves {f : Slot} (hs : P s.mem) : Leaves P (execMcbt f s) :=
  fireMatrix_leaves hs fun _ _ => hs

theorem execMprd_leaves {f : Slot} (hs : P s.mem) : Leaves P (execMprd f s) :=
  fireMatrix_leaves hs fun _ _ => hs

theorem execMrow_leaves {f : Slot} (hs : P s.mem) : Leaves P (execMrow f s) :=
  fireMatrix_leaves hs fun fr e => by
    dsimp only
    repeat' split
    all_goals simp [hs]

theorem execMout_leaves {f : Slot} (hs : P s.mem) : Leaves P (execMout f s) :=
  fireMatrix_leaves hs fun fr e => by
    dsimp only
    repeat' split
    all_goals simp [hs]

theorem execMclr_leaves {f : Slot} (hs : P s.mem) : Leaves P (execMclr f s) :=
  fireMatrix_leaves hs fun fr e => by simp [hs]

theorem execMspl_leaves {f : Slot} (hs : P s.mem) : Leaves P (execMspl f s) :=
  fireMatrix_leaves hs fun fr e => by
    dsimp only
    split <;> simp [hs]

theorem execMfil_leaves {f : Slot} (hs : P s.mem) : Leaves P (execMfil f s) :=
  fireMatrix_leaves hs fun fr e => by
    dsimp only
    split <;> simp [hs]

theorem execRowStepComplete_leaves {t : Nat} (hs : P s.mem) : Leaves P (execRowStepComplete t s) := by
  unfold execRowStepComplete
  dsimp only
  split <;> simp [hs]

theorem execSkq_leaves {f : Slot} (hs : P s.mem) : Leaves P (execSkq f s) :=
  fire_leaves hs fun fr => by
    dsimp only
    split <;> simp [hs]

theorem execSkim_leaves {f : Slot} (hs : P s.mem) : Leaves P (execSkim f s) :=
  fire_leaves hs fun fr => by
    dsimp only
    split
    · trivial
    split
    · trivial
    split
    · trivial
    · next planned => simpa [snd_mem (planPass_mem ..) planned] using hs

theorem execSkfw_leaves {f : Slot} (hs : P s.mem) : Leaves P (execSkfw f s) :=
  fire_leaves hs fun fr => by
    dsimp only
    repeat' split
    all_goals simp [hs]

theorem execSkfn_leaves {f : Slot} (hs : P s.mem) : Leaves P (execSkfn f s) :=
  fire_leaves hs fun fr => by
    dsimp only
    repeat' split
    all_goals simp [hs]

theorem execSkmg_leaves {f : Slot} (hs : P s.mem) : Leaves P (execSkmg f s) :=
  fire_leaves hs fun fr => by
    dsimp only
    repeat' split
    all_goals simp [hs]

theorem execSkimBeatDrain_leaves {t k : Nat} (hs : P s.mem) : Leaves P (execSkimBeatDrain t k s) := by
  unfold execSkimBeatDrain
  dsimp only
  split
  all_goals
    split
    · exact hs
    · split
      · exact hs
      · next b s1 taken =>
        have kept : P s1.mem := (takeBeat_mem taken).symm ▸ hs
        rw [leaves_next]
        split <;> simpa using kept

theorem execSkimPass_leaves {t : Nat} (hs : P s.mem) : Leaves P (execSkimPass t s) := by
  unfold execSkimPass
  split
  · exact hs
  dsimp only
  split
  · split
    · exact hs
    split
    all_goals
      next planned => simpa [snd_mem (planPass_mem ..) planned] using hs
  · repeat' split
    all_goals simp [hs]

theorem execSkimMerge_leaves {t k : Nat} (hs : P s.mem) : Leaves P (execSkimMerge t k s) := by
  unfold execSkimMerge
  dsimp only
  repeat' split
  all_goals simp [hs]

theorem execSkimBeatEmit_leaves {t k : Nat} (hs : P s.mem) : Leaves P (execSkimBeatEmit t k s) := by
  unfold execSkimBeatEmit
  dsimp only
  repeat' split
  all_goals simp [hs]

theorem execNop_leaves {f : Slot} (hs : P s.mem) : Leaves P (execNop f s) :=
  fire_leaves hs fun fr => by simp [hs]

theorem execTime_leaves {f : Slot} (hs : P s.mem) : Leaves P (execTime f s) :=
  fire_leaves hs fun fr => by simp [hs]

theorem execSread_leaves {f : Slot} (hs : P s.mem) : Leaves P (execSread f s) :=
  fire_leaves hs fun fr => by
    split <;> simp [hs]

theorem execTrap_leaves {f : Slot} (hs : P s.mem) : Leaves P (execTrap f s) :=
  fire_leaves hs fun fr => by
    split <;> simp [hs]

theorem execBrkp_leaves {f : Slot} (hs : P s.mem) : Leaves P (execBrkp f s) :=
  fire_leaves hs fun fr => by
    dsimp only
    repeat' split
    all_goals simp [hs]

theorem execSteer_leaves {f : Slot} (hs : P s.mem) : Leaves P (execSteer f s) :=
  fire_leaves hs fun fr => by simp [hs]

theorem execMerge_leaves {f : Slot} (hs : P s.mem) : Leaves P (execMerge f s) :=
  fire_leaves hs fun fr => by simp [hs]

theorem execCsnd_leaves {f : Slot} (hs : P s.mem) : Leaves P (execCsnd f s) :=
  fire_leaves hs fun fr => by
    split <;> simp [hs]

theorem execCrcv_leaves {f : Slot} (hs : P s.mem) : Leaves P (execCrcv f s) :=
  fire_leaves hs fun fr => by
    split <;> simp [hs]

theorem execQstat_leaves {f : Slot} (hs : P s.mem) : Leaves P (execQstat f s) :=
  fire_leaves hs fun fr => by simp [hs]

theorem execQpeek_leaves {f : Slot} (hs : P s.mem) : Leaves P (execQpeek f s) :=
  fire_leaves hs fun fr => by
    dsimp only
    repeat' split
    all_goals simp [hs]

theorem execTagset_leaves {f : Slot} (hs : P s.mem) : Leaves P (execTagset f s) :=
  fire_leaves hs fun fr => by
    dsimp only
    repeat' split
    all_goals simp [hs]

theorem execCcfg_leaves {f : Slot} (hs : P s.mem) : Leaves P (execCcfg f s) :=
  fire_leaves hs fun fr => by
    split <;> simp [hs]

theorem execCnxt_leaves {f : Slot} (hs : P s.mem) : Leaves P (execCnxt f s) :=
  fire_leaves hs fun fr => by
    split <;> simp [hs]

theorem execCrst_leaves {f : Slot} (hs : P s.mem) : Leaves P (execCrst f s) :=
  fire_leaves hs fun fr => by
    split <;> simp [hs]

theorem execPft_leaves {f : Slot} (hs : P s.mem) : Leaves P (execPft f s) :=
  fire_leaves hs fun fr => by simp [hs]

theorem execLoadDataReturn_leaves {access : Nat} (hs : P s.mem) : Leaves P (execLoadDataReturn access s) := by
  unfold execLoadDataReturn
  dsimp only
  repeat' split
  all_goals simp [hs]

theorem execWmrg_leaves {f : Slot} (hs : P s.mem) : Leaves P (execWmrg f s) :=
  fire_leaves hs fun fr => by
    dsimp only
    repeat' split
    all_goals simp [hs]

theorem execWrdy_leaves {f : Slot} (hs : P s.mem) : Leaves P (execWrdy f s) :=
  fire_leaves hs fun fr => by
    dsimp only
    repeat' split
    all_goals simp [hs]

theorem execWwt_leaves {f : Slot} (hs : P s.mem) : Leaves P (execWwt f s) :=
  fire_leaves hs fun fr => by
    dsimp only
    repeat' split
    all_goals simp [hs]

theorem execWnul_leaves {f : Slot} (hs : P s.mem) : Leaves P (execWnul f s) :=
  fire_leaves hs fun fr => by simp [hs]

theorem execFenceD_leaves {f : Slot} (hs : P s.mem) : Leaves P (execFenceD f s) :=
  fire_leaves hs fun fr => by
    split <;> simp [hs]

theorem execNfen_leaves {f : Slot} (hs : P s.mem) : Leaves P (execNfen f s) :=
  fire_leaves hs fun _ => Fired.Leaves.of_eq hs (inlineBody_mem ..)

theorem execQapp_leaves {f : Slot} (hs : P s.mem) : Leaves P (execQapp f s) :=
  fire_leaves hs fun fr => by
    dsimp only
    repeat' split
    all_goals simp [hs]

theorem execQueueReply_leaves {request q : Nat} (hs : P s.mem) : Leaves P (execQueueReply request q s) := by
  unfold execQueueReply
  repeat' split
  all_goals simp [hs]

theorem execDtab_leaves {f : Slot} (hs : P s.mem) : Leaves P (execDtab f s) :=
  fire_leaves hs fun fr => by
    dsimp only
    repeat' split
    all_goals simp [hs]

theorem execSqit_leaves {f : Slot} (hs : P s.mem) : Leaves P (execSqit f s) :=
  fire_leaves hs fun fr => by
    dsimp only
    repeat' split
    all_goals simp [hs]

theorem execDependencyEntryAppend_leaves {col entry : Nat} (hs : P s.mem) : Leaves P (execDependencyEntryAppend col entry s) := by
  unfold execDependencyEntryAppend
  dsimp only
  repeat' split
  all_goals simp [hs]

theorem execSequencerIterationAppend_leaves {col q : Nat} (hs : P s.mem) : Leaves P (execSequencerIterationAppend col q s) := by
  unfold execSequencerIterationAppend
  dsimp only
  repeat' split
  all_goals simp [hs]

theorem execEngineRecordRead_leaves {q : Nat} (hs : P s.mem) : Leaves P (execEngineRecordRead q s) := by
  unfold execEngineRecordRead
  split
  · trivial
  split
  · exact hs
  next c _ =>
    rcases c.record with _ | rec'
    · rcases c.run with _ | r
      · rcases c.source with rec' | ⟨_ | a, w, n⟩
        · simpa using hs
        · exact hs
        · dsimp only
          split
          · simpa using hs
          · split <;> simpa using hs
      · dsimp only
        split
        · exact hs
        split
        · exact hs
        split
        all_goals
          next took => simpa [snd_mem (s.takeRead_mem _) took] using hs
    · rcases c.run with _ | r
      · simpa using hs
      · exact hs

theorem execHawkCopy_leaves {q : Nat} (hs : P s.mem) : Leaves P (execHawkCopy q s) :=
  engineMove_leaves hs fun n r => by simp

theorem execHawkReduce_leaves {q : Nat} (hs : P s.mem) : Leaves P (execHawkReduce q s) :=
  engineMove_leaves hs fun n r => by simp

theorem execHawkAllToAll_leaves {q : Nat} (hs : P s.mem) : Leaves P (execHawkAllToAll q s) :=
  engineMove_leaves hs fun n r => by simp

theorem execHawkCollectiveReplay_leaves {q : Nat} (hs : P s.mem) : Leaves P (execHawkCollectiveReplay q s) :=
  engineMove_leaves hs fun n r => by simp

theorem execHawkFingerprint_leaves {q : Nat} (hs : P s.mem) : Leaves P (execHawkFingerprint q s) :=
  engineMove_leaves hs fun n r => by
    dsimp only
    repeat' split
    all_goals simp

theorem execNearDramZero_leaves {q : Nat} (hs : P s.mem) : Leaves P (execNearDramZero q s) :=
  engineMove_leaves hs fun n r => by simp

theorem execNearDramCopy_leaves {q : Nat} (hs : P s.mem) : Leaves P (execNearDramCopy q s) :=
  engineMove_leaves hs fun n r => by simp

theorem execNearDramCompare_leaves {q : Nat} (hs : P s.mem) : Leaves P (execNearDramCompare q s) :=
  engineMove_leaves hs fun n r => by
    dsimp only
    split
    · simp
    split
    · split
      all_goals
        next took => simp [snd_mem (s.takeRead_mem _) took]
    · split <;> simp

theorem execNearDramFence_leaves {q : Nat} (hs : P s.mem) : Leaves P (execNearDramFence q s) :=
  engineMove_leaves hs fun n r => by
    dsimp only
    repeat' split
    all_goals simp

theorem execEnginePeerMessage_leaves {q : Nat} {msg : Option PeerMsg} (hs : P s.mem) : Leaves P (execEnginePeerMessage q msg s) := by
  unfold execEnginePeerMessage
  repeat' split
  all_goals simp [hs]

theorem execEngineCommandCompletion_leaves {q : Nat} (hs : P s.mem) : Leaves P (execEngineCommandCompletion q s) := by
  unfold execEngineCommandCompletion
  split
  · trivial
  split
  · exact hs
  split
  · exact hs
  split
  · exact hs
  split
  · exact hs
  split
  · split
    all_goals
      next written => simpa [snd_mem (writePieces_mem ..) written] using hs
  · split <;> simpa using hs

theorem execPermitReturn_leaves {q : Nat} (hs : P s.mem) : Leaves P (execPermitReturn q s) := by
  unfold execPermitReturn
  dsimp only
  repeat' split
  all_goals simp [hs]

theorem execCreqResolve_leaves {request : Nat} (hs : P s.mem) : Leaves P (execCreqResolve request s) := by
  unfold execCreqResolve
  repeat' split
  all_goals simp [hs]

theorem execEtrg_leaves {f : Slot} (hs : P s.mem) : Leaves P (execEtrg f s) :=
  fire_leaves hs fun fr => by
    dsimp only
    repeat' split
    case h_3.isFalse =>
      rw [Fired.leaves_done, foldl_mem (fun _ _ => by simp)]
      simpa using hs
    all_goals simp [hs]

theorem execTlbir_leaves {f : Slot} (hs : P s.mem) : Leaves P (execTlbir f s) :=
  fire_leaves hs fun fr => by
    dsimp only
    repeat' split
    all_goals simp [hs]

theorem execTlbInvalidateApply_leaves {invalidation cache : Nat} (hs : P s.mem) : Leaves P (execTlbInvalidateApply invalidation cache s) := by
  unfold execTlbInvalidateApply
  repeat' split
  all_goals simp [hs]

theorem execTlbsy_leaves {f : Slot} (hs : P s.mem) : Leaves P (execTlbsy f s) :=
  fire_leaves hs fun fr => by
    split <;> simp [hs]

theorem execKsltAssign_leaves {f : Slot} (hs : P s.mem) : Leaves P (execKsltAssign f s) :=
  fire_leaves hs fun fr => by
    dsimp only
    repeat' split
    all_goals simp [hs]

theorem execKsltLoad_leaves {f : Slot} (hs : P s.mem) : Leaves P (execKsltLoad f s) :=
  fire_leaves hs fun fr => by
    dsimp only
    repeat' split
    all_goals simp [hs]

theorem execKsltGenerate_leaves {f : Slot} (hs : P s.mem) : Leaves P (execKsltGenerate f s) :=
  fire_leaves hs fun fr => by
    dsimp only
    repeat' split
    all_goals simp [hs]

theorem execKsltClear_leaves {f : Slot} (hs : P s.mem) : Leaves P (execKsltClear f s) :=
  fire_leaves hs fun fr => by
    dsimp only
    repeat' split
    all_goals simp [hs]

theorem execKeyClearEnd_leaves {k : Nat} (hs : P s.mem) : Leaves P (execKeyClearEnd k s) := by
  unfold execKeyClearEnd
  dsimp only
  repeat' split
  all_goals simp [hs]

theorem execDctlDefine_leaves {f : Slot} (hs : P s.mem) : Leaves P (execDctlDefine f s) :=
  fire_leaves hs fun fr => dctlBody_leaves _ fr hs fun d => by
    dsimp only
    split <;> simpa using hs

theorem execDctlScrub_leaves {f : Slot} (hs : P s.mem) : Leaves P (execDctlScrub f s) :=
  fire_leaves hs fun fr => dctlBody_leaves 2 fr hs fun _ => by simpa using hs

theorem execEcnt_leaves {f : Slot} (hs : P s.mem) : Leaves P (execEcnt f s) :=
  fire_leaves hs fun fr => by
    split <;> simp [hs]

theorem execFrec_leaves {f : Slot} (hs : P s.mem) : Leaves P (execFrec f s) :=
  fire_leaves hs fun fr => by
    dsimp only
    repeat' split
    all_goals simp [hs]

theorem execChainGroup_leaves {t : Nat} (hs : P s.mem) : Leaves P (execChainGroup t s) := by
  unfold execChainGroup
  dsimp only
  repeat' split
  all_goals simp [hs]

theorem execOutputBeatDepart_leaves {t c n : Nat} (hs : P s.mem) : Leaves P (execOutputBeatDepart t c n s) := by
  unfold execOutputBeatDepart
  dsimp only
  repeat' split
  all_goals simp [hs]

theorem execLinkBeatSend_leaves {site : Nat} {port : LinkEnd} (hs : P s.mem) : Leaves P (execLinkBeatSend site port s) := by
  unfold execLinkBeatSend
  repeat' split
  all_goals simp [hs]

theorem execRouterRoute_leaves {site port vc : Nat} (hs : P s.mem) : Leaves P (execRouterRoute site port vc s) := by
  unfold execRouterRoute
  split
  · trivial
  dsimp only
  split
  · exact hs
  split
  · simpa using hs
  · split
    all_goals
      split
      · exact hs
      · rw [leaves_next, foldl_mem (fun _ _ => by simp)]
        simpa using hs

theorem execConditionTokenHop_leaves {site port ch : Nat} (hs : P s.mem) : Leaves P (execConditionTokenHop site port ch s) := by
  unfold execConditionTokenHop
  dsimp only
  repeat' split
  all_goals simp [hs]

theorem execLinkRetry_leaves {site port : Nat} (hs : P s.mem) : Leaves P (execLinkRetry site port s) := by
  unfold execLinkRetry
  dsimp only
  repeat' split
  all_goals simp [hs]

theorem execLinkDegraded_leaves {site port : Nat} (hs : P s.mem) : Leaves P (execLinkDegraded site port s) := by
  unfold execLinkDegraded
  dsimp only
  repeat' split
  all_goals simp [hs]

theorem execRingDown_leaves {port : Nat} (hs : P s.mem) : Leaves P (execRingDown port s) := by
  unfold execRingDown
  split <;> simp [hs]

theorem execLogicError_leaves {t struck : Nat} (hs : P s.mem) : Leaves P (execLogicError t struck s) := by
  unfold execLogicError
  split <;> simp [hs]

theorem execEpochOpen_leaves {lvl g : Nat} (hs : P s.mem) : Leaves P (execEpochOpen lvl g s) := by
  unfold execEpochOpen
  dsimp only
  repeat' split
  all_goals simp [hs]

theorem execEpochAcknowledge_leaves {lvl g w : Nat} (hs : P s.mem) : Leaves P (execEpochAcknowledge lvl g w s) := by
  unfold execEpochAcknowledge
  dsimp only
  repeat' split
  all_goals simp [hs]

theorem execEpochClose_leaves {lvl g : Nat} (hs : P s.mem) : Leaves P (execEpochClose lvl g s) := by
  unfold execEpochClose
  dsimp only
  repeat' split
  all_goals simp [hs]

theorem execClosurePulseReceipt_leaves {lvl g w : Nat} (hs : P s.mem) : Leaves P (execClosurePulseReceipt lvl g w s) := by
  unfold execClosurePulseReceipt
  dsimp only
  repeat' split
  all_goals simp [hs]

theorem execEpochPeriodWrite_leaves {src : Issuer} {level : Nat} {value : BitVec 64} (hs : P s.mem) : Leaves P (execEpochPeriodWrite src level value s) := by
  unfold execEpochPeriodWrite
  split <;> simp [hs]

theorem execMscfFlush_leaves {src : Issuer} {value : BitVec 64} (hs : P s.mem) : Leaves P (execMscfFlush src value s) := by
  simp [execMscfFlush, hs]

theorem execMscFlushComplete_leaves (hs : P s.mem) : Leaves P (execMscFlushComplete s) := by
  simp [execMscFlushComplete, hs]

theorem execLaunchPacket_leaves {port : Nat} (hs : P s.mem) : Leaves P (execLaunchPacket port s) := by
  unfold execLaunchPacket
  dsimp only
  repeat' split
  all_goals simp [hs]

theorem execLaunchDataBeat_leaves {port : Nat} (hs : P s.mem) : Leaves P (execLaunchDataBeat port s) := by
  unfold execLaunchDataBeat
  dsimp only
  repeat' split
  all_goals simp [hs]

theorem execResynchronisationBeat_leaves {port : Nat} (hs : P s.mem) : Leaves P (execResynchronisationBeat port s) := by
  unfold execResynchronisationBeat
  dsimp only
  repeat' split
  all_goals simp [hs]

theorem execUndelimitableBeat_leaves {port : Nat} (hs : P s.mem) : Leaves P (execUndelimitableBeat port s) := by
  unfold execUndelimitableBeat
  dsimp only
  repeat' split
  all_goals simp [hs]

theorem execEnergyWindow_leaves {d : Nat} (hs : P s.mem) : Leaves P (execEnergyWindow d s) := by
  unfold execEnergyWindow
  dsimp only
  repeat' split
  all_goals simp [hs]

theorem execEnergyCtlWrite_leaves {src : Issuer} {d : Nat} {value : BitVec 64} (hs : P s.mem) : Leaves P (execEnergyCtlWrite src d value s) := by
  unfold execEnergyCtlWrite
  split <;> simp [hs]

theorem execPreemption_leaves {d : Nat} (hs : P s.mem) : Leaves P (execPreemption d s) := by
  unfold execPreemption
  repeat' split
  all_goals simp [hs]

theorem execRefillRequest_leaves {t at' : Nat} (hs : P s.mem) : Leaves P (execRefillRequest t at' s) := by
  unfold execRefillRequest
  dsimp only
  repeat' split
  all_goals simp [hs]

theorem execFaultRecordEnqueue_leaves {d : Nat} (hs : P s.mem) : Leaves P (execFaultRecordEnqueue d s) := by
  unfold execFaultRecordEnqueue
  repeat' split
  all_goals simp [hs]

theorem execThermalClamp_leaves {sector sensor tenths : Nat} (hs : P s.mem) : Leaves P (execThermalClamp sector sensor tenths s) := by
  unfold execThermalClamp
  repeat' split
  all_goals simp [hs]

theorem execThermalClampRelease_leaves {d : Nat} (hs : P s.mem) : Leaves P (execThermalClampRelease d s) := by
  unfold execThermalClampRelease
  repeat' split
  all_goals simp [hs]

theorem execThermalHalt_leaves {sensor tenths : Nat} (hs : P s.mem) : Leaves P (execThermalHalt sensor tenths s) := by
  rw [execThermalHalt, leaves_next]
  split
  · exact hs
  · rw [foldl_mem (fun _ _ => by simp)]
    exact hs

theorem execThermalResume_leaves {sensor tenths : Nat} (hs : P s.mem) : Leaves P (execThermalResume sensor tenths s) := by
  rw [execThermalResume, leaves_next]
  split
  · exact hs
  · rw [foldl_mem (fun _ _ => by simp)]
    simpa using hs

theorem execHostRequestRefused_leaves {access : HostAccess} (hs : P s.mem) : Leaves P (execHostRequestRefused access s) := by
  unfold execHostRequestRefused
  repeat' split
  all_goals simp [hs]

theorem execIngressCtlWrite_leaves {src : Issuer} {port : Nat} {value : BitVec 64} (hs : P s.mem) : Leaves P (execIngressCtlWrite src port value s) := by
  unfold execIngressCtlWrite
  split <;> simp [hs]

theorem execDomCtlWrite_leaves {src : Issuer} {d : Nat} {value : BitVec 64} (hs : P s.mem) : Leaves P (execDomCtlWrite src d value s) := by
  unfold execDomCtlWrite
  split <;> simp [hs]

theorem execDomShareWrite_leaves {src : Issuer} {d : Nat} {value : BitVec 64} (hs : P s.mem) : Leaves P (execDomShareWrite src d value s) := by
  unfold execDomShareWrite
  split <;> simp [hs]

theorem execDomTrustWrite_leaves {src : Issuer} {d : Nat} {value : BitVec 64} (hs : P s.mem) : Leaves P (execDomTrustWrite src d value s) := by
  unfold execDomTrustWrite
  split <;> simp [hs]

theorem execStencilCtlWrite_leaves {src : Issuer} {column : Nat} {value : BitVec 64} (hs : P s.mem) : Leaves P (execStencilCtlWrite src column value s) := by
  unfold execStencilCtlWrite
  split <;> simp [hs]

theorem execDeviceTimeSlew_leaves {forward : Bool} {ns : Nat} (hs : P s.mem) : Leaves P (execDeviceTimeSlew forward ns s) := by
  unfold execDeviceTimeSlew
  dsimp only
  repeat' split
  all_goals simp [hs]

theorem execPrecisionTimeMeasurement_leaves (hs : P s.mem) : Leaves P (execPrecisionTimeMeasurement s) := by
  unfold execPrecisionTimeMeasurement
  split <;> simp [hs]

theorem execHostLinkEnumeration_leaves (hs : P s.mem) : Leaves P (execHostLinkEnumeration s) := by
  simp [execHostLinkEnumeration, hs]

end

/-! ### Instructions and events that write memory -/

section
variable {s : State}

theorem execRetire_leaves {f : Slot} (hs : s.mem.Canonical) : Leaves Memory.Canonical (execRetire f s) :=
  fire_leaves hs fun fr => by
    split
    · exact State.retireCtx_wf _ _ hs
    · exact hs

theorem execAdvc_leaves {f : Slot} (hs : s.mem.Canonical) : Leaves Memory.Canonical (execAdvc f s) :=
  fire_leaves hs fun fr => by
    dsimp only
    repeat' split
    all_goals simp [hs, State.markSlots_wf]

theorem execAdvp_leaves {f : Slot} (hs : s.mem.Canonical) : Leaves Memory.Canonical (execAdvp f s) :=
  fire_leaves hs fun fr => by
    dsimp only
    repeat' split
    all_goals simp [hs, State.markSlots_wf]

theorem execDrop_leaves {f : Slot} (hs : s.mem.Canonical) : Leaves Memory.Canonical (execDrop f s) :=
  fire_leaves hs fun fr => by
    dsimp only
    repeat' split
    all_goals simp [hs, State.markSlots_wf]

theorem execAccessPerform_leaves {access granule : Nat} (hs : s.mem.Canonical) : Leaves Memory.Canonical (execAccessPerform access granule s) := by
  unfold execAccessPerform
  repeat' split
  all_goals simp [hs, State.performAll_wf]

theorem execAtomicReturnWrite_leaves {access granule : Nat} (hs : s.mem.Canonical) :
    Leaves Memory.Canonical (execAtomicReturnWrite access granule s) := by
  unfold execAtomicReturnWrite
  dsimp only
  repeat' split
  all_goals simp [hs, State.writeGranule_wf]

theorem execStencilCommandCompletion_leaves {col command : Nat} (hs : s.mem.Canonical) :
    Leaves Memory.Canonical (execStencilCommandCompletion col command s) := by
  unfold execStencilCommandCompletion
  dsimp only
  repeat' split
  all_goals simp [hs, State.finishStencil_wf]

theorem execCrel_leaves {f : Slot} (hs : s.mem.Canonical) : Leaves Memory.Canonical (execCrel f s) :=
  fire_leaves hs fun fr => by
    dsimp only
    repeat' split
    all_goals simp [hs, State.releaseInst_wf]

theorem execTlbsyDrained_leaves {request : Nat} (hs : s.mem.Canonical) : Leaves Memory.Canonical (execTlbsyDrained request s) := by
  unfold execTlbsyDrained
  dsimp only
  split
  · exact hs
  split
  · split
    · exact hs
    split <;> simpa using hs
  · split
    · exact hs
    · exact foldl_wf (fun _ _ hm => by exact State.scrubSector_wf _ hm) _ (by simpa using hs)
  · exact hs

theorem execDctlQuiesce_leaves {f : Slot} (hs : s.mem.Canonical) : Leaves Memory.Canonical (execDctlQuiesce f s) :=
  fire_leaves hs fun fr => dctlBody_leaves _ fr hs fun d => by
    dsimp only
    rw [Fired.leaves_done, State.noteQuiesce_mem]
    split
    · exact foldl_wf (fun _ _ hm => by exact State.releaseInst_wf _ _ _ hm) _ hs
    · rw [foldl_mem (fun _ _ => by simp)]
      exact hs

theorem execDctlSwitch_leaves {f : Slot} (hs : s.mem.Canonical) : Leaves Memory.Canonical (execDctlSwitch f s) :=
  fire_leaves hs fun fr => dctlBody_leaves _ fr hs fun d => by
    dsimp only
    split
    · trivial
    split
    · rw [Fired.leaves_done, foldl_mem (fun _ _ => by split <;> simp)]
      simpa using hs
    split
    · refine Memory.wf_putBlob _ _ _ ?_
      change Memory.Canonical _
      simpa using hs
    · simpa using hs

theorem execDctlReload_leaves {f : Slot} (hs : s.mem.Canonical) : Leaves Memory.Canonical (execDctlReload f s) :=
  fire_leaves hs fun fr => dctlBody_leaves _ fr hs fun d => by
    dsimp only
    split
    · exact hs
    split
    · simpa using State.loadLath_wf _ _ _ (by exact hs)
    · exact hs

theorem execLinkDown_leaves {site port : Nat} (hs : s.mem.Canonical) : Leaves Memory.Canonical (execLinkDown site port s) := by
  unfold execLinkDown
  dsimp only
  split
  · trivial
  split
  · exact hs
  · refine foldl_wf (fun s t hm => ?_) _ (by simpa using hs)
    split
    · exact State.retireTile_wf _ _ hm
    · exact hm

theorem execPoisonNotice_leaves {access granule : Nat} (hs : s.mem.Canonical) : Leaves Memory.Canonical (execPoisonNotice access granule s) := by
  unfold execPoisonNotice
  dsimp only
  repeat' split
  all_goals simp [hs, State.writeGranule_wf]

theorem execPendingPoolScan_leaves {d asid : Nat} (hs : s.mem.Canonical) : Leaves Memory.Canonical (execPendingPoolScan d asid s) := by
  have swept : ((s.sweep d).noteQuiesce d).mem.Canonical := by simpa using State.sweep_wf d hs
  unfold execPendingPoolScan
  dsimp only
  split
  · trivial
  split
  · exact swept
  · have replaced := foldl_wf (fun _ e hm => by exact State.replaceStep_wf e hm)
      ((((s.sweep d).noteQuiesce d).poolOf d).filter (·.replaces)) swept
    refine State.tidyMail_wf _ ?_
    rw [State.noteAllReady_mem, State.preemptFor_mem]
    exact foldl_wf (fun _ e hm => by exact State.tryPlace_wf _ e hm) _ replaced

theorem execFallbackEnter_leaves {d asid : Nat} (hs : s.mem.Canonical) : Leaves Memory.Canonical (execFallbackEnter d asid s) := by
  have swept := State.sweep_wf d hs
  unfold execFallbackEnter
  dsimp only
  split
  · trivial
  split
  · exact swept
  split
  · exact swept
  · exact State.tidyMail_wf _ (by simpa using State.tryPlace_wf _ _ swept)

theorem execRegionQuiesced_leaves {d : Nat} {evict : Bool} {dest : SaveAt} (hs : s.mem.Canonical) :
    Leaves Memory.Canonical (execRegionQuiesced d evict dest s) := by
  unfold execRegionQuiesced
  dsimp only
  repeat' split
  all_goals simp [hs, State.writeSave_wf]

theorem execSaveImageRestore_leaves {d number : Nat} {move : Bool} {fence : W64} (hs : s.mem.Canonical) :
    Leaves Memory.Canonical (execSaveImageRestore d number move fence s) := by
  unfold execSaveImageRestore
  dsimp only
  repeat' split
  all_goals simp [hs, State.restoreInst_wf]

theorem execMatrixOwnerSpill_leaves {t : Nat} (hs : s.mem.Canonical) : Leaves Memory.Canonical (execMatrixOwnerSpill t s) := by
  unfold execMatrixOwnerSpill
  split
  · trivial
  · rw [leaves_next]
    split
    · exact State.spillEngine_wf _ hs
    · exact hs

theorem execPowerRemove_leaves (hs : s.mem.Canonical) : Leaves Memory.Canonical (execPowerRemove s) := by
  simpa [execPowerRemove] using hs

theorem execBootSequence_leaves {found : BootFindings} (hs : s.mem.Canonical) : Leaves Memory.Canonical (execBootSequence found s) := by
  unfold execBootSequence
  dsimp only
  split
  · exact hs
  split
  · simpa using hs
  split
  · simpa using hs
  split
  · simpa using hs
  · next booted =>
    have kept := State.bootPhase_wf hs booted
    exact kept

theorem execManagementPortReset_leaves (hs : s.mem.Canonical) : Leaves Memory.Canonical (execManagementPortReset s) := by
  simpa [execManagementPortReset] using hs

theorem execAttestReport_leaves {src : Issuer} {d : Nat} {value : BitVec 64} (hs : s.mem.Canonical) :
    Leaves Memory.Canonical (execAttestReport src d value s) := by
  unfold execAttestReport
  split
  · trivial
  · rw [leaves_next]
    split
    · exact State.storeAttestCtl_wf _ _ _ hs
    · exact hs

theorem execAttestPublicKey_leaves {src : Issuer} {d : Nat} {value : BitVec 64} (hs : s.mem.Canonical) :
    Leaves Memory.Canonical (execAttestPublicKey src d value s) := by
  unfold execAttestPublicKey
  split
  · trivial
  · rw [leaves_next]
    split
    · exact State.storeAttestCtl_wf _ _ _ hs
    · exact hs

theorem execTileRetire_leaves {t reason : Nat} (hs : s.mem.Canonical) : Leaves Memory.Canonical (execTileRetire t reason s) := by
  unfold execTileRetire
  split
  · trivial
  · rw [leaves_next]
    split
    · exact State.retireTile_wf _ _ hs
    · exact hs

theorem execScrubPass_leaves {place : CheckPlace} {corrected uncorrectable : Bool} (hs : s.mem.Canonical) :
    Leaves Memory.Canonical (execScrubPass place corrected uncorrectable s) := by
  unfold execScrubPass
  repeat' split
  all_goals simp [hs, State.strike_wf]

theorem execRegisterWrite_leaves {src : Issuer} {address : Nat} {value : BitVec 64} (hs : s.mem.Canonical) :
    Leaves Memory.Canonical (execRegisterWrite src address value s) := by
  rw [execRegisterWrite, leaves_next]
  split
  · exact State.storeRegister_wf _ _ _ hs
  · exact hs

theorem execHostLinkAccess_leaves {access : HostAccess} (hs : s.mem.Canonical) : Leaves Memory.Canonical (execHostLinkAccess access s) := by
  unfold execHostLinkAccess
  split
  · exact hs
  split
  · simpa using hs
  · simpa using State.hostWrite_wf _ _ hs

theorem fireFrsm_leaves {i : Instr} {only : Option Nat} (hs : s.mem.Canonical) : Leaves Memory.Canonical (fireFrsm i only s) :=
  fire_leaves hs fun fr => by
    dsimp only
    repeat' split
    all_goals simp [hs, State.frsmEffect_wf]

/-- Every instruction and every event keeps memory canonical. -/
theorem exec_keeps_canonical (i : Instr) (hs : s.mem.Canonical) : Leaves Memory.Canonical (exec i s) := by
  unfold exec
  cases i with
  | add | sub | adds | subs | neg | abs | mul | mulh | mulhz | mad | divs | divz | rems | remz | min | max | minz | maxz => exact fireInt_leaves hs
  | and | or | xor | not | andn | shl | shr | sra | rol | clz | popc | brev | bfx | bfi | mov | movi | lea => exact fireBits_leaves hs
  | cmpeq | cmpne | cmplt | cmple | cmpltz | cmplez => exact fireCmp_leaves hs
  | sel | shuf | bcst | scan => exact fireWhole_leaves hs
  | idx | cvt | cbenc | cbdec | pack | unpk | fnoi => exact fireLanes_leaves hs
  | redadd | redmin | redmax | redand | redor => exact fireReduce_leaves hs
  | fadd | fsub | fmul | ffma | fmin | fmax | fabs | fneg | fscl | frnd | fdiv | fsqrt | frsq | frcp | fex2 | flg2 | ftnh | fsig | fgum =>
    exact fireFloat_leaves hs
  | fcmpeq | fcmplt | fcmple | fcmpun => exact fireFcmp_leaves hs
  | fflg => exact execFflg_leaves hs
  | chn => exact execChn_leaves hs
  | chnw => exact execChnw_leaves hs
  | mset => exact execMset_leaves hs
  | mldb => exact execMldb_leaves hs
  | mcbt => exact execMcbt_leaves hs
  | mprd => exact execMprd_leaves hs
  | mrow => exact execMrow_leaves hs
  | mout => exact execMout_leaves hs
  | mclr => exact execMclr_leaves hs
  | mspl => exact execMspl_leaves hs
  | mfil => exact execMfil_leaves hs
  | rowStepComplete => exact execRowStepComplete_leaves hs
  | skq => exact execSkq_leaves hs
  | skim => exact execSkim_leaves hs
  | skfw => exact execSkfw_leaves hs
  | skfn => exact execSkfn_leaves hs
  | skmg => exact execSkmg_leaves hs
  | skimBeatDrain => exact execSkimBeatDrain_leaves hs
  | skimPass => exact execSkimPass_leaves hs
  | skimMerge => exact execSkimMerge_leaves hs
  | skimBeatEmit => exact execSkimBeatEmit_leaves hs
  | nop => exact execNop_leaves hs
  | retire => exact execRetire_leaves hs
  | time => exact execTime_leaves hs
  | sread => exact execSread_leaves hs
  | trap => exact execTrap_leaves hs
  | brkp => exact execBrkp_leaves hs
  | pset | pclr | pand | por | pxor | pnot | pmov | pany | pall => exact firePred_leaves hs
  | steer => exact execSteer_leaves hs
  | merge => exact execMerge_leaves hs
  | csnd => exact execCsnd_leaves hs
  | crcv => exact execCrcv_leaves hs
  | advc => exact execAdvc_leaves hs
  | advp => exact execAdvp_leaves hs
  | qstat => exact execQstat_leaves hs
  | qpeek => exact execQpeek_leaves hs
  | drop => exact execDrop_leaves hs
  | tagset => exact execTagset_leaves hs
  | ccfg => exact execCcfg_leaves hs
  | cnxt => exact execCnxt_leaves hs
  | crst => exact execCrst_leaves hs
  | ld | ldw | ldx | ldfeClr | ldfeKeep => exact fire_leaves hs fun _ => Fired.Leaves.of_eq hs (loadBody_mem ..)
  | st | stx | stfe => exact fire_leaves hs fun _ => Fired.Leaves.of_eq hs (storeBody_mem ..)
  | pft => exact execPft_leaves hs
  | aadd | amin | amax | aand | aor | axor | aswp | acas | afadd => exact fire_leaves hs fun _ => Fired.Leaves.of_eq hs (atomicBody_mem ..)
  | accessPerform => exact execAccessPerform_leaves hs
  | atomicReturnWrite => exact execAtomicReturnWrite_leaves hs
  | loadDataReturn => exact execLoadDataReturn_leaves hs
  | wmrg => exact execWmrg_leaves hs
  | wlft | wlftH => exact fire_leaves hs fun _ => Fired.Leaves.of_eq hs (liftBody_mem ..)
  | wrdy => exact execWrdy_leaves hs
  | wwt => exact execWwt_leaves hs
  | wnul => exact execWnul_leaves hs
  | fenceD => exact execFenceD_leaves hs
  | hcpy | hred | ha2a | hcol | hfng | nzer | ncpy | ncmp => exact fire_leaves hs fun _ => Fired.Leaves.of_eq hs (inlineBody_mem ..)
  | nfen => exact execNfen_leaves hs
  | qapp => exact execQapp_leaves hs
  | qfen => exact fire_leaves hs fun _ => Fired.Leaves.of_eq hs (qfenBody_mem ..)
  | qseq => exact fire_leaves hs fun _ => Fired.Leaves.of_eq hs (qseqBody_mem ..)
  | queueReply => exact execQueueReply_leaves hs
  | dtab => exact execDtab_leaves hs
  | sqit => exact execSqit_leaves hs
  | dependencyEntryAppend => exact execDependencyEntryAppend_leaves hs
  | sequencerIterationAppend => exact execSequencerIterationAppend_leaves hs
  | engineRecordRead => exact execEngineRecordRead_leaves hs
  | hawkCopy => exact execHawkCopy_leaves hs
  | hawkReduce => exact execHawkReduce_leaves hs
  | hawkAllToAll => exact execHawkAllToAll_leaves hs
  | hawkCollectiveReplay => exact execHawkCollectiveReplay_leaves hs
  | hawkFingerprint => exact execHawkFingerprint_leaves hs
  | nearDramZero => exact execNearDramZero_leaves hs
  | nearDramCopy => exact execNearDramCopy_leaves hs
  | nearDramCompare => exact execNearDramCompare_leaves hs
  | nearDramFence => exact execNearDramFence_leaves hs
  | enginePeerMessage => exact execEnginePeerMessage_leaves hs
  | engineCommandCompletion => exact execEngineCommandCompletion_leaves hs
  | permitReturn => exact execPermitReturn_leaves hs
  | queueCtlAttach | queueCtlDetach | queueCtlRetry | queueCtlSkip => exact queueCtlEvent_leaves hs
  | gini | gadv | gmsk | gfrk | gcmt | grbk | gsav | grst | gsta => exact fire_leaves hs fun _ => Fired.Leaves.of_eq hs (stencilBody_mem ..)
  | stencilCommandCompletion => exact execStencilCommandCompletion_leaves hs
  | creq | creqReplace => exact fireRequest_leaves hs
  | creqResolve => exact execCreqResolve_leaves hs
  | crel => exact execCrel_leaves hs
  | etrg => exact execEtrg_leaves hs
  | tlbir => exact execTlbir_leaves hs
  | tlbInvalidateApply => exact execTlbInvalidateApply_leaves hs
  | tlbsy => exact execTlbsy_leaves hs
  | tlbsyDrained => exact execTlbsyDrained_leaves hs
  | ksltAssign => exact execKsltAssign_leaves hs
  | ksltLoad => exact execKsltLoad_leaves hs
  | ksltGenerate => exact execKsltGenerate_leaves hs
  | ksltClear => exact execKsltClear_leaves hs
  | keyClearEnd => exact execKeyClearEnd_leaves hs
  | dctlDefine => exact execDctlDefine_leaves hs
  | dctlQuiesce => exact execDctlQuiesce_leaves hs
  | dctlScrub => exact execDctlScrub_leaves hs
  | dctlSwitch => exact execDctlSwitch_leaves hs
  | dctlReload => exact execDctlReload_leaves hs
  | ecnt => exact execEcnt_leaves hs
  | frec => exact execFrec_leaves hs
  | frsmRetry | frsmRetire | frsmKill => exact fireFrsm_leaves hs
  | chainGroup => exact execChainGroup_leaves hs
  | outputBeatDepart => exact execOutputBeatDepart_leaves hs
  | linkBeatSend => exact execLinkBeatSend_leaves hs
  | routerRoute => exact execRouterRoute_leaves hs
  | conditionTokenHop => exact execConditionTokenHop_leaves hs
  | linkRetry => exact execLinkRetry_leaves hs
  | linkDegraded => exact execLinkDegraded_leaves hs
  | linkDown => exact execLinkDown_leaves hs
  | poisonNotice => exact execPoisonNotice_leaves hs
  | ringDown => exact execRingDown_leaves hs
  | logicError => exact execLogicError_leaves hs
  | epochOpen => exact execEpochOpen_leaves hs
  | epochAcknowledge => exact execEpochAcknowledge_leaves hs
  | epochClose => exact execEpochClose_leaves hs
  | closurePulseReceipt => exact execClosurePulseReceipt_leaves hs
  | epochPeriodWrite => exact execEpochPeriodWrite_leaves hs
  | mscfFlush => exact execMscfFlush_leaves hs
  | mscFlushComplete => exact execMscFlushComplete_leaves hs
  | launchPacket => exact execLaunchPacket_leaves hs
  | launchDataBeat => exact execLaunchDataBeat_leaves hs
  | resynchronisationBeat => exact execResynchronisationBeat_leaves hs
  | undelimitableBeat => exact execUndelimitableBeat_leaves hs
  | pendingPoolScan => exact execPendingPoolScan_leaves hs
  | fallbackEnter => exact execFallbackEnter_leaves hs
  | energyWindow => exact execEnergyWindow_leaves hs
  | energyCtlWrite => exact execEnergyCtlWrite_leaves hs
  | preemption => exact execPreemption_leaves hs
  | regionQuiesced => exact execRegionQuiesced_leaves hs
  | saveImageRestore => exact execSaveImageRestore_leaves hs
  | matrixOwnerSpill => exact execMatrixOwnerSpill_leaves hs
  | refillRequest => exact execRefillRequest_leaves hs
  | faultRecordEnqueue => exact execFaultRecordEnqueue_leaves hs
  | thermalClamp => exact execThermalClamp_leaves hs
  | thermalClampRelease => exact execThermalClampRelease_leaves hs
  | thermalHalt => exact execThermalHalt_leaves hs
  | thermalResume => exact execThermalResume_leaves hs
  | powerRemove => exact execPowerRemove_leaves hs
  | bootSequence => exact execBootSequence_leaves hs
  | managementPortReset => exact execManagementPortReset_leaves hs
  | hostRequestRefused => exact execHostRequestRefused_leaves hs
  | ingressCtlWrite => exact execIngressCtlWrite_leaves hs
  | domCtlWrite => exact execDomCtlWrite_leaves hs
  | domShareWrite => exact execDomShareWrite_leaves hs
  | domTrustWrite => exact execDomTrustWrite_leaves hs
  | stencilCtlWrite => exact execStencilCtlWrite_leaves hs
  | attestReport => exact execAttestReport_leaves hs
  | attestPublicKey => exact execAttestPublicKey_leaves hs
  | tileRetire => exact execTileRetire_leaves hs
  | scrubPass => exact execScrubPass_leaves hs
  | deviceTimeSlew => exact execDeviceTimeSlew_leaves hs
  | precisionTimeMeasurement => exact execPrecisionTimeMeasurement_leaves hs
  | registerWrite => exact execRegisterWrite_leaves hs
  | hostLinkAccess => exact execHostLinkAccess_leaves hs
  | hostLinkEnumeration => exact execHostLinkEnumeration_leaves hs

theorem exec_next_canonical {i : Instr} {u : State} (hs : s.mem.Canonical) (next : exec i s = .next u) : u.mem.Canonical := by
  have left := exec_keeps_canonical i hs
  rw [next] at left
  exact left

/-- An element's turn keeps memory canonical: waking contexts, lifting witnesses and arbitration do not touch memory. -/
theorem elementStep_keeps_canonical {t : Nat} {u : State} (hs : s.mem.Canonical) (next : elementStep t s = .next u) : u.mem.Canonical := by
  have hm : ((s.wake t).useWitnesses t).mem.Canonical := by simpa using hs
  unfold elementStep at next
  dsimp only at next
  split at next
  · rw [← Host.Outcome.next.inj next]
    exact hm
  split at next
  · nomatch next
  · refine exec_next_canonical ?_ next
    dsimp only
    exact hm

theorem step_keeps_canonical {u : State} (hs : s.mem.Canonical) (next : step s = .next u) : u.mem.Canonical := by
  have hm : s.takeTurn.2.mem.Canonical := by simpa using hs
  unfold step at next
  dsimp only at next
  split at next
  · exact elementStep_keeps_canonical hm next
  · exact exec_next_canonical hm next

end

/-- Settles O6: each instruction and each event leaves memory as it was or writes it through operations that keep the canonical form. -/
theorem stepKeepsInvariant : Obligations.StepKeepsInvariant :=
  fun _ _ hs next => step_keeps_canonical hs next

end Sys2Proof.Machine
end


section
/-! SUPPORT. The device registers: when a store is performed, when it is discarded, and what it leaves. -/

namespace Sys2Proof.Machine

open Sys2Proof

/-! ### Fields of a stored word -/

theorem bits_eq_mod (x n : Nat) : bits x 0 n = x % 2 ^ n := by
  simp [bits]

theorem bitAt_eq_testBit (x k : Nat) : bitAt x k = x.testBit k := by
  simp [bitAt, Nat.testBit_eq_decide_div_mod_eq, beq_eq_decide]

/-- The number whose bit k is set for each k below n that a condition holds of. -/
def maskWhere (c : Nat → Bool) (n : Nat) : Nat := (List.range n).foldl (fun acc k => if c k then acc + 2 ^ k else acc) 0

theorem maskWhere_succ (c : Nat → Bool) (n : Nat) : maskWhere c (n + 1) = if c n then maskWhere c n + 2 ^ n else maskWhere c n := by
  simp [maskWhere, List.range_succ]

theorem maskWhere_lt (c : Nat → Bool) (n : Nat) : maskWhere c n < 2 ^ n := by
  induction n with
  | zero => exact Nat.one_pos
  | succ n ih =>
    rw [maskWhere_succ, pow_succ]
    split <;> omega

theorem testBit_maskWhere (c : Nat → Bool) {n k : Nat} (hk : k < n) : (maskWhere c n).testBit k = c k := by
  induction n with
  | zero => omega
  | succ n ih =>
    have top : (maskWhere c n).testBit n = false := Nat.testBit_lt_two_pow (maskWhere_lt c n)
    rw [maskWhere_succ, Nat.add_comm _ (2 ^ n)]
    obtain hlt | rfl := Nat.lt_succ_iff_lt_or_eq.mp hk
    · split
      · rw [Nat.testBit_two_pow_add_gt hlt, ih hlt]
      · exact ih hlt
    · split
      next set => rw [Nat.testBit_two_pow_add_eq, top, set, Bool.not_false]
      next clear => rw [top, Bool.eq_false_of_not_eq_true clear]

/-! ### Clock edges noted before a divider changes -/

theorem State.noteCycles_unchanged (s : State) (secs : List Nat) : (s.noteCycles secs).tiles = s.tiles ∧ (s.noteCycles secs).domains = s.domains :=
  List.foldlRecOn secs State.noteEdge (motive := fun u => u.tiles = s.tiles ∧ u.domains = s.domains) ⟨rfl, rfl⟩ fun _ hu _ _ => by exact hu

theorem State.noteCycles_domain (s : State) (secs : List Nat) (d : Nat) : (s.noteCycles secs).domain d = s.domain d := by
  rw [State.domain, (s.noteCycles_unchanged secs).2, State.domain]

/-! ### Places and reading -/

theorem regAt_low {off : Nat} (h : off < 32) :
    regAt off = some .devFeature ∨ regAt off = some .bootStatus ∨ regAt off = some .deviceTime ∨ regAt off = some .farMem := by
  unfold regAt
  rw [if_pos h]
  split
  · simp
  split
  · simp
  split <;> simp

section
variable {s : State} {src : Issuer} {v : BitVec 64}

theorem State.storeRegister_of_regAt {off : Nat} {r : Reg} (h : regAt off = some r) : s.storeRegister src off v = s.storeReg src r v := by
  rw [State.storeRegister, h]

theorem State.storeRegister_discarded {off : Nat} (h : regAt off = none ∨ off < 32) : s.storeRegister src off v = s := by
  obtain absent | low := h
  · rw [State.storeRegister, absent]
  · obtain h | h | h | h := regAt_low low <;> rw [State.storeRegister_of_regAt h, State.storeReg]

theorem State.loadRegister_of_regAt {off : Nat} {r : Reg} (h : regAt off = some r) :
    s.loadRegister src off = if s.mayRead src r then s.regValue r else 0 := by
  rw [State.loadRegister, h]

/-! ### Registers of a domain, stored to by its lath -/

theorem State.storeDomCtl_discarded {d : Nat} (h : s.fromLath src (some d) = false ∨ v.toNat / 2 ^ 36 % 16 < 2 ∨ 8 < v.toNat / 2 ^ 36 % 16 ∨
    v.toNat / 2 ^ 40 % 4 = 0 ∨ v.toNat / 2 ^ 40 % 4 = 3) : s.storeDomCtl src d v = s := by
  rw [State.storeDomCtl, if_pos]
  simp only [Bool.or_eq_true, Bool.not_eq_true', decide_eq_true_eq, beq_iff_eq]
  simpa [bits, or_assoc] using h

theorem State.storeDomCtl_performed {d : Nat} (lath : s.fromLath src (some d) = true) (low : 2 ≤ v.toNat / 2 ^ 36 % 16)
    (high : v.toNat / 2 ^ 36 % 16 ≤ 8) (level : v.toNat / 2 ^ 40 % 4 = 1 ∨ v.toNat / 2 ^ 40 % 4 = 2) :
    s.storeDomCtl src d v = (s.noteCycles (s.domain d).shape.sectors).setDomain d
      { s.domain d with asidTable := v.toNat % 2 ^ 36, div := v.toNat / 2 ^ 36 % 16, reserveLevel := v.toNat / 2 ^ 40 % 4 } := by
  rw [State.storeDomCtl, if_neg]
  · simp [bits, State.noteCycles_domain]
  · simp only [Bool.or_eq_true, Bool.not_eq_true', decide_eq_true_eq, beq_iff_eq, lath]
    simp only [bits, Nat.reducePow, Bool.true_eq_false, false_or] at *
    omega

theorem State.storeDomTrust_discarded {d : Nat} (h : s.fromLath src (some d) = false ∨ 64 < v.toNat / 2 ^ 36 % 128) :
    s.storeDomTrust src d v = s := by
  rw [State.storeDomTrust, if_pos]
  simp only [Bool.or_eq_true, decide_eq_true_eq]
  simpa [bits] using h

theorem State.storeDomTrust_performed {d : Nat} (lath : s.fromLath src (some d) = true) (count : v.toNat / 2 ^ 36 % 128 ≤ 64) :
    s.storeDomTrust src d v = s.setDomain d { s.domain d with trustTable := v.toNat % 2 ^ 36, trustCount := v.toNat / 2 ^ 36 % 128 } := by
  rw [State.storeDomTrust, if_neg]
  · simp [bits]
  · simp only [Bool.or_eq_true, decide_eq_true_eq]
    simpa [bits, lath] using count

theorem State.storeEnergyCtl_discarded {d : Nat} (h : s.fromLath src (some d) = false ∨ v.toNat / 2 ^ 32 % 2 ^ 16 = 0) :
    s.storeEnergyCtl src d v = s := by
  rw [State.storeEnergyCtl, if_pos]
  simpa [bits] using h

theorem State.storeEnergyCtl_performed {d : Nat} (lath : s.fromLath src (some d) = true) (window : v.toNat / 2 ^ 32 % 2 ^ 16 ≠ 0) :
    s.storeEnergyCtl src d v =
      { s.setSched d { s.schedOf d with budget := v.toNat % 2 ^ 32, window := v.toNat / 2 ^ 32 % 2 ^ 16, windowStart := s.ns, reserved := 0, used := 0 } with
        pool := s.pool.map fun e => if e.domain = d then { e with deferred := false } else e } := by
  rw [State.storeEnergyCtl, if_neg]
  · simp [bits]
  · simpa [bits, lath] using window

theorem State.storeHaltCtl_discarded {d : Nat} (h : s.fromLath src (some d) = false ∨ SMap.get s.halts d 0 ≠ 0 ∨ (s.inst? d v.toNat).isSome = false) :
    s.storeHaltCtl src d v = s := by
  rw [State.storeHaltCtl, if_pos]
  simpa [or_assoc] using h

theorem State.storeHaltCtl_performed {d : Nat} (lath : s.fromLath src (some d) = true) (idle : SMap.get s.halts d 0 = 0)
    (inst : (s.inst? d v.toNat).isSome = true) : s.storeHaltCtl src d v = { s with halts := SMap.set s.halts d v.toNat } := by
  rw [State.storeHaltCtl, if_neg]
  simp [lath, idle, Option.isSome_iff_ne_none.mp inst]

theorem State.storeFaultCtl_discarded {d : Nat} (h : s.fromLath src (some d) = false) : s.storeFaultCtl src d v = s := by
  simp [State.storeFaultCtl, h]

theorem State.storeFaultCtl_performed {d : Nat} (lath : s.fromLath src (some d) = true) :
    s.storeFaultCtl src d v = { s with faultQueues := SMap.set s.faultQueues d { s.faultQueue d with brkpEn := v.toNat.testBit 0 } } := by
  simp [State.storeFaultCtl, lath, bitAt_eq_testBit]

theorem State.storeAttestCtl_discarded {d : Nat} (h : s.fromLath src (some d) = false) : s.storeAttestCtl src d v = s := by
  simp [State.storeAttestCtl, h]

theorem State.storeAttestCtl_refused {d : Nat} (lath : s.fromLath src (some d) = true) (refused : attestAnswer s d (v.toNat % 2 ^ 52) = none) :
    s.storeAttestCtl src d v = { s with attestError := NSet.insert s.attestError d } := by
  rw [State.storeAttestCtl, bits_eq_mod, refused]
  simp [lath]

theorem State.storeAttestCtl_answered {d dest : Nat} {out : Blob} (lath : s.fromLath src (some d) = true)
    (answered : attestAnswer s d (v.toNat % 2 ^ 52) = some (dest, out)) :
    (s.storeAttestCtl src d v).mem = (s.mem.write dest out.len out.val).cleanRange dest out.len := by
  rw [State.storeAttestCtl, bits_eq_mod, answered]
  simp [lath]

/-! ### Registers of the root lath -/

theorem State.storeIngressCtl_discarded {n : Nat} (h : s.fromRoot src = false ∨ 4607 < v.toNat / 2 ^ 5 % 2 ^ 13) : s.storeIngressCtl src n v = s := by
  rw [State.storeIngressCtl, if_pos]
  simp only [Bool.or_eq_true, decide_eq_true_eq]
  simpa [bits] using h

theorem State.storeIngressCtl_performed {n : Nat} (root : s.fromRoot src = true) (tile : v.toNat / 2 ^ 5 % 2 ^ 13 ≤ 4607) :
    s.storeIngressCtl src n v =
      s.setPort n { s.port n with domain := v.toNat % 16, enable := v.toNat.testBit 4, entryTile := v.toNat / 2 ^ 5 % 2 ^ 13 } := by
  rw [State.storeIngressCtl, if_neg]
  · simp [bits, bitAt_eq_testBit]
  · simp only [Bool.or_eq_true, decide_eq_true_eq]
    simpa [bits, root] using tile

/-- What the shares of the other domains add up to. -/
def State.otherShares (s : State) (d : Nat) (get : Domain → Nat) : Nat :=
  ((List.range 16).filter (· != d)).foldl (fun acc k => acc + get (s.domain k)) 0

/-- A store to DOM_SHARE that its rule allows: no total of shares passes 64, the far-memory range ends in range, and no share that it uses is 0 (R443, R444). -/
structure ShareAllowed (s : State) (d v : Nat) : Prop where
  host : v % 128 + s.otherShares d (·.shareHost) ≤ 64
  lpddr : v / 2 ^ 7 % 128 + s.otherShares d (·.shareLpddr) ≤ 64
  cxl : v / 2 ^ 14 % 128 + s.otherShares d (·.shareCxl) ≤ 64
  base : v / 2 ^ 21 % 2 ^ 15 ≤ 16383
  size : v / 2 ^ 36 % 2 ^ 15 ≤ 16384
  used : v / 2 ^ 36 % 2 ^ 15 ≠ 0 → (v / 2 ^ 7 % 128 = 0 → 1024 ≤ v / 2 ^ 21 % 2 ^ 15) ∧
    (v / 2 ^ 14 % 128 = 0 → v / 2 ^ 21 % 2 ^ 15 + v / 2 ^ 36 % 2 ^ 15 ≤ 1024)

theorem starved_eq_false_iff (lpddr cxl base size : Nat) : starved lpddr cxl base size = false ↔
    (size ≠ 0 → (lpddr = 0 → 1024 ≤ base) ∧ (cxl = 0 → base + size ≤ 1024)) := by
  simp [starved]

theorem State.storeDomShare_performed {d : Nat} (root : s.fromRoot src = true) (allowed : ShareAllowed s d v.toNat) :
    s.storeDomShare src d v = s.setDomain d { s.domain d with
      shareHost := v.toNat % 128, shareLpddr := v.toNat / 2 ^ 7 % 128, shareCxl := v.toNat / 2 ^ 14 % 128, farBase := v.toNat / 2 ^ 21 % 2 ^ 15,
      farSize := v.toNat / 2 ^ 36 % 2 ^ 15 } := by
  obtain ⟨host, lpddr, cxl, base, size, used⟩ := allowed
  have fed := (starved_eq_false_iff _ _ _ _).mpr used
  rw [State.storeDomShare, if_neg]
  · simp [bits]
  · simp only [Bool.or_eq_true, decide_eq_true_eq, Bool.not_eq_true', not_or, Nat.not_lt, Bool.not_eq_true, root]
    simp only [bits, Nat.reducePow] at *
    exact ⟨⟨⟨⟨by decide, ⟨by rwa [Nat.div_one], lpddr⟩, cxl⟩, base⟩, size⟩, fed⟩

theorem State.storeDomShare_discarded {d : Nat} (h : s.fromRoot src = true → ¬ ShareAllowed s d v.toNat) : s.storeDomShare src d v = s := by
  rw [State.storeDomShare, if_pos]
  by_contra guard
  simp only [Bool.or_eq_true, decide_eq_true_eq, Bool.not_eq_true', not_or, Nat.not_lt, Bool.not_eq_true, Bool.not_eq_false,
    starved_eq_false_iff] at guard
  simp only [bits, Nat.reducePow, Nat.div_one] at guard
  obtain ⟨⟨⟨⟨root, ⟨host, lpddr⟩, cxl⟩, base⟩, size⟩, used⟩ := guard
  exact h root { host, lpddr, cxl, base, size, used }

/-! ### Registers of the module -/

theorem rises_iff (p : Vector Nat 9) : rises p = true ↔ ∀ k, 2 ≤ k → k ≤ 7 → at9 p k ≤ at9 p (k + 1) := by
  simp only [rises, List.all_eq_true, List.mem_range, decide_eq_true_eq]
  constructor
  · intro h k low high
    obtain ⟨j, rfl⟩ := Nat.exists_eq_add_of_le' low
    exact h j (by omega)
  · exact fun h j _ => h (j + 2) (by omega) (by omega)

theorem State.storeEpochPeriod_discarded {l : Nat}
    (h : s.fromRoot src = false ∨ s.firstDctl = true ∨ 5 < l ∨ v.toNat % 2 ^ 16 < 16 ∨ (∃ k, 2 ≤ k ∧ k ≤ 7 ∧
      at9 (set9 s.periods l (v.toNat % 2 ^ 16)) (k + 1) < at9 (set9 s.periods l (v.toNat % 2 ^ 16)) k)) : s.storeEpochPeriod src l v = s := by
  rw [State.storeEpochPeriod, if_pos]
  have falling : (∃ k, 2 ≤ k ∧ k ≤ 7 ∧ at9 (set9 s.periods l (v.toNat % 2 ^ 16)) (k + 1) < at9 (set9 s.periods l (v.toNat % 2 ^ 16)) k) →
      rises (set9 s.periods l (v.toNat % 2 ^ 16)) = false := by
    rintro ⟨k, hk, hk', falls⟩
    exact Bool.eq_false_iff.mpr fun up => Nat.not_lt.mpr ((rises_iff _).mp up k hk hk') falls
  rw [bits_eq_mod]
  obtain h | h | h | h | h := h
  · exact .inr (.inr (.inl h))
  · exact .inr (.inr (.inr (.inl h)))
  · exact .inr (.inl h)
  · exact .inr (.inr (.inr (.inr (.inl h))))
  · exact .inr (.inr (.inr (.inr (.inr (falling h)))))

theorem State.storeEpochPeriod_performed {l : Nat} (low : 2 ≤ l) (high : l ≤ 5) (root : s.fromRoot src = true) (early : s.firstDctl = false)
    (least : 16 ≤ v.toNat % 2 ^ 16)
    (up : ∀ k, 2 ≤ k → k ≤ 7 → at9 (set9 s.periods l (v.toNat % 2 ^ 16)) k ≤ at9 (set9 s.periods l (v.toNat % 2 ^ 16)) (k + 1)) :
    s.storeEpochPeriod src l v = { s with periods := set9 s.periods l (v.toNat % 2 ^ 16) } := by
  rw [State.storeEpochPeriod, if_neg]
  · simp only [bits_eq_mod]
  · rw [bits_eq_mod, (rises_iff _).mpr up, root, early]
    simp only [Bool.true_eq_false, Bool.false_eq_true, false_or, or_false]
    omega

/-- The cache slices that a store of `v` to MSCF names and that belong to the issuer's domain (R234). -/
def State.flushMask (s : State) (src : Issuer) (v : Nat) : Nat :=
  maskWhere (fun k => v.testBit k && s.domainOf k == s.issuerDomain src && (s.issuerDomain src).isSome) 16

theorem State.storeMscf_discarded (h : s.flush.isSome = true) : s.storeMscf src v = s := by
  obtain ⟨f, hf⟩ := Option.isSome_iff_exists.mp h
  rw [State.storeMscf, hf]

theorem State.storeMscf_performed (h : s.flush = none) :
    s.storeMscf src v = { s with flush := some (s.flushMask src v.toNat, v.toNat.testBit 16) } := by
  rw [State.storeMscf, h]
  simp only [bitAt_eq_testBit, State.flushMask, maskWhere]

/-- While a flush is in progress, MSCF reads BUSY (R234). -/
theorem State.loadMscf_busy {mask : Nat} {inv : Bool} (hm : mask < 2 ^ 16) (h : s.flush = some (mask, inv)) : s.loadMscf.testBit 63 = true := by
  have low : mask + inv.toNat * 2 ^ 16 < 2 ^ 63 := by
    have := Bool.toNat_le inv
    omega
  rw [State.loadMscf, h]
  dsimp only
  rw [Nat.add_comm, Nat.testBit_two_pow_add_eq, Nat.testBit_lt_two_pow low, Bool.not_false]

/-- A store exceeds what DOM_SHARE allows: a total of shares passes 64, the far-memory range ends out of range, or a share that it uses is 0 (R443, R444). -/
theorem not_shareAllowed_of_exceeds {d n : Nat}
    (h : 64 < n % 128 + s.otherShares d (·.shareHost) ∨ 64 < n / 2 ^ 7 % 128 + s.otherShares d (·.shareLpddr) ∨
      64 < n / 2 ^ 14 % 128 + s.otherShares d (·.shareCxl) ∨ 16383 < n / 2 ^ 21 % 2 ^ 15 ∨ 16384 < n / 2 ^ 36 % 2 ^ 15 ∨
      (n / 2 ^ 36 % 2 ^ 15 ≠ 0 ∧ ((n / 2 ^ 7 % 128 = 0 ∧ n / 2 ^ 21 % 2 ^ 15 < 1024) ∨
        (n / 2 ^ 14 % 128 = 0 ∧ 1024 < n / 2 ^ 21 % 2 ^ 15 + n / 2 ^ 36 % 2 ^ 15)))) : ¬ ShareAllowed s d n := by
  rintro ⟨host, lpddr, cxl, base, size, used⟩
  obtain h | h | h | h | h | ⟨far, h | h⟩ := h
  · exact Nat.not_lt.mpr host h
  · exact Nat.not_lt.mpr lpddr h
  · exact Nat.not_lt.mpr cxl h
  · exact Nat.not_lt.mpr base h
  · exact Nat.not_lt.mpr size h
  · exact Nat.not_lt.mpr ((used far).1 h.1) h.2
  · exact Nat.not_lt.mpr ((used far).2 h.1) h.2

/-! ### The events that store -/

theorem exec_domCtlWrite {d : Nat} (hd : d < 16) : exec (.domCtlWrite src d v) s = .next (s.storeDomCtl src d v) :=
  if_neg (Nat.not_le.mpr hd)

theorem exec_domTrustWrite {d : Nat} (hd : d < 16) : exec (.domTrustWrite src d v) s = .next (s.storeDomTrust src d v) :=
  if_neg (Nat.not_le.mpr hd)

theorem exec_domShareWrite {d : Nat} (hd : d < 16) : exec (.domShareWrite src d v) s = .next (s.storeDomShare src d v) :=
  if_neg (Nat.not_le.mpr hd)

theorem exec_energyCtlWrite {d : Nat} (hd : d < 16) : exec (.energyCtlWrite src d v) s = .next (s.storeEnergyCtl src d v) :=
  if_neg (Nat.not_le.mpr hd)

theorem exec_attestReport {d : Nat} (hd : d < 16) :
    exec (.attestReport src d v) s = .next (if s.attestOp d v ≠ 1 then s.storeAttestCtl src d v else s) :=
  if_neg (Nat.not_le.mpr hd)

theorem exec_attestPublicKey {d : Nat} (hd : d < 16) :
    exec (.attestPublicKey src d v) s = .next (if s.attestOp d v = 1 then s.storeAttestCtl src d v else s) :=
  if_neg (Nat.not_le.mpr hd)

theorem exec_ingressCtlWrite {n : Nat} (hn : n < 32) : exec (.ingressCtlWrite src n v) s = .next (s.storeIngressCtl src n v) :=
  if_neg (Nat.not_le.mpr hn)

theorem exec_epochPeriodWrite {l : Nat} (low : 2 ≤ l) (high : l ≤ 8) : exec (.epochPeriodWrite src l v) s = .next (s.storeEpochPeriod src l v) :=
  if_neg (by omega)

theorem exec_domCtlWrite_performed {d : Nat} (hd : d < 16) (lath : s.fromLath src (some d) = true) (low : 2 ≤ v.toNat / 2 ^ 36 % 16)
    (high : v.toNat / 2 ^ 36 % 16 ≤ 8) (level : v.toNat / 2 ^ 40 % 4 = 1 ∨ v.toNat / 2 ^ 40 % 4 = 2) :
    ∃ u, exec (.domCtlWrite src d v) s = .next u ∧ u.mem = s.mem ∧ u.tiles = s.tiles ∧ (∀ e, e ≠ d → u.domain e = s.domain e) ∧
      u.domain d = { s.domain d with asidTable := v.toNat % 2 ^ 36, div := v.toNat / 2 ^ 36 % 16, reserveLevel := v.toNat / 2 ^ 40 % 4 } := by
  refine ⟨_, (exec_domCtlWrite hd).trans (congrArg _ (State.storeDomCtl_performed lath low high level)), ?_, ?_, fun e other => ?_, ?_⟩
  · simp
  · exact (s.noteCycles_unchanged _).1
  · rw [State.domain, State.setDomain, SMap.get_set_other _ other]
    exact s.noteCycles_domain _ e
  · rw [State.domain, State.setDomain, SMap.get_set_same]

theorem exec_energyCtlWrite_performed {d : Nat} (hd : d < 16) (lath : s.fromLath src (some d) = true) (window : v.toNat / 2 ^ 32 % 2 ^ 16 ≠ 0) :
    ∃ u, exec (.energyCtlWrite src d v) s = .next u ∧ u.mem = s.mem ∧ (u.schedOf d).budget = v.toNat % 2 ^ 32 ∧
      (u.schedOf d).window = v.toNat / 2 ^ 32 % 2 ^ 16 ∧ (u.schedOf d).windowStart = s.ns ∧ (u.schedOf d).reserved = 0 ∧ (u.schedOf d).used = 0 ∧
      u.pool = s.pool.map fun e => if e.domain = d then { e with deferred := false } else e := by
  refine ⟨_, (exec_energyCtlWrite hd).trans (congrArg _ (State.storeEnergyCtl_performed lath window)), rfl, ?_⟩
  rw [State.schedOf, State.setSched, SMap.get_set_same]
  exact ⟨rfl, rfl, rfl, rfl, rfl, rfl⟩

theorem exec_mscfFlush : exec (.mscfFlush src v) s = .next (s.storeMscf src v) := rfl

theorem exec_registerWrite {a : Nat} :
    exec (.registerWrite src a v) s = .next (if tierOf a = 8 ∧ a % 8 = 0 then s.storeRegister src (a % 2 ^ 48) v else s) := rfl

end

/-- Settles O50: each store is performed exactly as the lemma of its register says, and discarded otherwise. -/
theorem deviceRegisters : Obligations.DeviceRegisters := by
  unfold Obligations.DeviceRegisters
  refine ⟨?_, ?_, ?_, ?_, ?_, ?_, ?_, ?_, ?_, ?_, ?_⟩
  · intro s src a v tier aligned
    rw [exec_registerWrite, if_pos ⟨tier, aligned⟩]
  · intro s src a v tier
    rw [exec_registerWrite, if_neg fun h => tier h.1]
  · exact fun s src off v h => State.storeRegister_discarded h
  · exact fun s src v k => ⟨rfl, rfl, rfl, rfl, rfl, rfl⟩
  · exact fun s src off r v h => State.storeRegister_of_regAt h
  · intro s src off r h closed
    simp [State.loadRegister_of_regAt h, closed]
  · intro s src off r h opened
    simp [State.loadRegister_of_regAt h, opened]
  · intro s src d v hd
    refine ⟨fun no => ?_, fun no => ?_, fun lath => ?_, fun root => ?_⟩
    · rw [exec_domCtlWrite hd, exec_domTrustWrite hd, exec_energyCtlWrite hd, exec_attestReport hd, exec_attestPublicKey hd,
        State.storeDomCtl_discarded (.inl no), State.storeDomTrust_discarded (.inl no), State.storeEnergyCtl_discarded (.inl no),
        State.storeAttestCtl_discarded no, State.storeHaltCtl_discarded (.inl no), State.storeFaultCtl_discarded no, ite_self, ite_self]
      exact ⟨rfl, rfl, rfl, rfl, rfl, rfl, rfl⟩
    · refine ⟨?_, fun n hn => ?_⟩
      · rw [exec_domShareWrite hd, State.storeDomShare_discarded fun yes => absurd yes (Bool.not_eq_true _ ▸ no)]
      · rw [exec_ingressCtlWrite hn, State.storeIngressCtl_discarded (.inl no)]
    · refine ⟨fun low high level => ?_, fun bad => ?_, fun count => ?_, fun count => ?_, fun window => ?_, fun window => ?_, fun idle inst => ?_,
        fun busy => ?_, State.storeFaultCtl_performed lath, fun key => ?_, fun report => ?_, State.storeAttestCtl_refused lath,
        fun dest out => State.storeAttestCtl_answered lath⟩
      · exact exec_domCtlWrite_performed hd lath low high level
      · rw [exec_domCtlWrite hd, State.storeDomCtl_discarded (.inr bad)]
      · rw [exec_domTrustWrite hd, State.storeDomTrust_performed lath count]
      · rw [exec_domTrustWrite hd, State.storeDomTrust_discarded (.inr count)]
      · exact exec_energyCtlWrite_performed hd lath window
      · rw [exec_energyCtlWrite hd, State.storeEnergyCtl_discarded (.inr window)]
      · exact State.storeHaltCtl_performed lath idle inst
      · exact State.storeHaltCtl_discarded (.inr busy)
      · rw [exec_attestPublicKey hd, exec_attestReport hd, if_pos key, if_neg (not_not_intro key)]
        exact ⟨rfl, rfl⟩
      · rw [exec_attestPublicKey hd, exec_attestReport hd, if_neg report, if_pos report]
        exact ⟨rfl, rfl⟩
    · refine ⟨fun n hn tile => ?_, fun n hn tile => ?_, fun host lpddr cxl base size used => ?_, fun exceeds => ?_⟩
      · rw [exec_ingressCtlWrite hn, State.storeIngressCtl_performed root tile]
      · rw [exec_ingressCtlWrite hn, State.storeIngressCtl_discarded (.inr tile)]
      · rw [exec_domShareWrite hd, State.storeDomShare_performed root { host, lpddr, cxl, base, size, used }]
      · rw [exec_domShareWrite hd, State.storeDomShare_discarded fun _ => not_shareAllowed_of_exceeds exceeds]
  · intro s src l v low high
    refine ⟨fun bad => ?_, fun root early inModule least up => ?_⟩
    · rw [exec_epochPeriodWrite low high, State.storeEpochPeriod_discarded bad]
    · rw [exec_epochPeriodWrite low high, State.storeEpochPeriod_performed low inModule root early least up]
  · intro s src v
    refine ⟨fun busy => ?_, fun idle => ?_⟩
    · rw [exec_mscfFlush, State.storeMscf_discarded busy]
    · refine ⟨_, s.flushMask src v.toNat, ?_, rfl, State.loadMscf_busy (maskWhere_lt _ _) rfl, maskWhere_lt _ _, fun k hk => testBit_maskWhere _ hk⟩
      rw [exec_mscfFlush, State.storeMscf_performed idle]
  · exact fun s => ⟨rfl, rfl⟩

end Sys2Proof.Machine
end

section
/-! SUPPORT. The state after reset (R35, R236, R240, R243), and what a fold over the state leaves of one of its fields. -/

namespace Sys2Proof.Machine

open Sys2Proof

/-- A fold of operations that each leave a part of the state leaves it. -/
theorem foldl_leaves {α β : Type} {part : State → β} {f : State → α → State} (hf : ∀ s x, part (f s x) = part s) (xs : List α) (s : State) :
    part (xs.foldl f s) = part s :=
  List.foldlRecOn xs f (motive := fun u => part u = part s) rfl fun u hu x _ => (hf u x).trans hu

@[simp] theorem State.domain_setDomain_same (s : State) (d : Nat) (x : Domain) : (s.setDomain d x).domain d = x :=
  SMap.get_set_same _ _ _ _

theorem State.domain_setDomain_other (s : State) {d e : Nat} (h : e ≠ d) (x : Domain) : (s.setDomain d x).domain e = s.domain e :=
  SMap.get_set_other _ h _ _

@[simp] theorem at9_replicate {α : Type} (a : α) (l : Nat) : at9 (Vector.replicate 9 a) l = a := by
  simp [at9]

theorem at9_set9 {α : Type} (v : Vector α 9) (n k : Nat) (a : α) : at9 (set9 v n a) k = if k % 9 = n % 9 then a else at9 v k := by
  unfold at9 set9
  split
  next h => simp [h]
  next h => exact Vector.getElem_set_ne (h := fun e => h e.symm) ..

theorem reset_period {l : Nat} (low : 2 ≤ l) (high : l ≤ 5) : at9 State.reset.periods l = 2 ^ (l + 4) := by
  interval_cases l <;> rfl

/-- Settles O5: the maps of reset list nothing, so that every unit holds its clean value. -/
theorem resetState : Obligations.ResetState := by
  unfold Obligations.ResetState
  refine ⟨rfl, rfl, rfl, rfl, fun l => reset_period, fun w => rfl, fun l g => ⟨rfl, rfl⟩, fun w l => ⟨?_, ?_⟩, fun k => rfl, fun n => rfl,
    fun d => rfl, rfl, rfl⟩
  · exact at9_replicate 1 l
  · exact at9_replicate 0 l

end Sys2Proof.Machine
end


section
/-! SUPPORT. Thermal control (R29-R31): what a clamp and a round of thermal records leave. -/

namespace Sys2Proof.Machine

open Sys2Proof

/-! ### What depends on the shapes of the domains alone -/

section
variable {s u : State} (shapes : ∀ d, (u.domain d).shape = (s.domain d).shape)
include shapes

theorem State.domainOf_of_shapes (sec : Nat) : u.domainOf sec = s.domainOf sec := by
  simp only [State.domainOf, shapes]

theorem State.lathTile_of_shapes (d : Nat) : u.lathTile d = s.lathTile d := by
  simp only [State.lathTile, State.sectorsOf, shapes]

end

theorem State.mem_liveDomains (s : State) (d : Nat) : d ∈ s.liveDomains ↔ d < 16 ∧ (s.domain d).shape.w ≠ 0 := by
  simp [State.liveDomains]

/-! ### Clamps -/

/-- The state apart from what a change of clamps touches: the domains and the noted clock edges. -/
def State.asideClamps (s : State) : State := { s with domains := [], cycleBase := [] }

theorem State.setDomain_asideClamps (s : State) (d : Nat) (x : Domain) : (s.setDomain d x).asideClamps = s.asideClamps := rfl

theorem State.noteEdge_asideClamps (s : State) (sec : Nat) : (s.noteEdge sec).asideClamps = s.asideClamps := rfl

theorem State.clampAll_asideClamps (s : State) (ds : List Nat) (on : Bool) : (s.clampAll ds on).asideClamps = s.asideClamps :=
  (foldl_leaves (fun s d => s.setDomain_asideClamps d _) ds _).trans (foldl_leaves State.noteEdge_asideClamps _ s)

theorem foldl_setClamp_domain (on : Bool) (ds : List Nat) (s : State) (d : Nat) :
    (ds.foldl (fun s d => s.setDomain d { s.domain d with clamp := on }) s).domain d =
      if d ∈ ds then { s.domain d with clamp := on } else s.domain d := by
  induction ds generalizing s with
  | nil => simp
  | cons e rest ih =>
    rw [List.foldl_cons, ih]
    by_cases hd : d = e
    · subst hd; simp
    · simp [State.domain_setDomain_other s hd, hd]

theorem State.clampAll_domain (s : State) (ds : List Nat) (on : Bool) (d : Nat) :
    (s.clampAll ds on).domain d = if d ∈ ds then { s.domain d with clamp := on } else s.domain d := by
  rw [State.clampAll, foldl_setClamp_domain, State.noteCycles_domain]

theorem State.clampAll_shape (s : State) (ds : List Nat) (on : Bool) (d : Nat) : ((s.clampAll ds on).domain d).shape = (s.domain d).shape := by
  rw [State.clampAll_domain]
  split <;> rfl

/-- A clamp holds the divider at 8 at least (R29). -/
theorem State.divider_of_clamp {s : State} {sec d : Nat} (owner : s.domainOf sec = some d) (clamped : (s.domain d).clamp = true) : 8 ≤ s.divider sec := by
  rw [State.divider, owner]
  simp [clamped]

/-! ### Thermal records -/

/-- A thermal record to the lath of each of some domains. -/
def State.thermalRecords (s : State) (ds : List Nat) (cause sensor tenths : Nat) : State :=
  ds.foldl (fun s d => s.thermalRecord d cause sensor tenths) s

/-- The state apart from what the sending of a record touches. -/
def State.asideRecords (s : State) : State := { s with records := [], nextRecord := 0 }

theorem State.thermalRecord_asideRecords (s : State) (d cause sensor tenths : Nat) :
    (s.thermalRecord d cause sensor tenths).asideRecords = s.asideRecords := rfl

theorem State.thermalRecords_asideRecords (s : State) (ds : List Nat) (cause sensor tenths : Nat) :
    (s.thermalRecords ds cause sensor tenths).asideRecords = s.asideRecords :=
  foldl_leaves (fun s d => s.thermalRecord_asideRecords d cause sensor tenths) ds s

/-- Records that are on their way stay so while others are sent. -/
theorem State.thermalRecords_records_mono (s : State) (ds : List Nat) (cause sensor tenths : Nat) :
    s.records ⊆ (s.thermalRecords ds cause sensor tenths).records :=
  List.foldlRecOn ds _ (motive := fun u : State => s.records ⊆ u.records) (List.Subset.refl _) fun _ hu _ _ _ hr =>
    List.mem_append_left _ (hu hr)

theorem State.thermalRecords_sent (s : State) {ds : List Nat} (cause sensor tenths : Nat) {d : Nat} (hd : d ∈ ds) :
    ∃ r ∈ (s.thermalRecords ds cause sensor tenths).records, r.source = s.lathTile d ∧ r.cls = 18 ∧ r.cause = cause := by
  induction ds generalizing s with
  | nil => cases hd
  | cons e rest ih =>
    obtain rfl | later := List.mem_cons.mp hd
    · exact ⟨_, State.thermalRecords_records_mono (s.thermalRecord d cause sensor tenths) rest cause sensor tenths (List.mem_append_right _ List.mem_cons_self),
        rfl, rfl, rfl⟩
    · exact ih (s.thermalRecord e cause sensor tenths) later

/-! ### The events -/

/-- The state that a thermal halt leaves before its records are sent. -/
def State.thermallyHalted (s : State) : State := { s with thermalHalt := true }

/-- The state that a resume leaves before its records are sent. -/
def State.thermallyResumed (s : State) : State := { s.clampAll s.liveDomains true with thermalHalt := false }

section
variable {s : State} {sensor tenths : Nat}

theorem exec_thermalClamp_unowned {sec : Nat} (hs : sec < 16) (owner : s.domainOf sec = none) : exec (.thermalClamp sec sensor tenths) s = .next s := by
  change execThermalClamp sec sensor tenths s = _
  rw [execThermalClamp, if_neg (Nat.not_le.mpr hs), owner]

theorem exec_thermalClamp_owned {sec d : Nat} (hs : sec < 16) (owner : s.domainOf sec = some d) :
    exec (.thermalClamp sec sensor tenths) s = .next (if (s.domain d).clamp then s else (s.clampAll [d] true).thermalRecord d 1 sensor tenths) := by
  change execThermalClamp sec sensor tenths s = _
  rw [execThermalClamp, if_neg (Nat.not_le.mpr hs), owner]

theorem exec_thermalClampRelease {d : Nat} (hd : d < 16) :
    exec (.thermalClampRelease d) s = .next (if (s.domain d).clamp && !s.thermalHalt then s.clampAll [d] false else s) :=
  if_neg (Nat.not_le.mpr hd)

theorem exec_thermalHalt : exec (.thermalHalt sensor tenths) s =
    .next (if s.thermalHalt || s.phase != 8 then s else s.thermallyHalted.thermalRecords s.liveDomains 2 sensor tenths) := rfl

theorem exec_thermalResume : exec (.thermalResume sensor tenths) s =
    .next (if !s.thermalHalt then s else s.thermallyResumed.thermalRecords s.liveDomains 3 sensor tenths) := rfl

theorem elementRuns_of_thermalHalt (h : s.thermalHalt = true) (t : Nat) : s.elementRuns t = false := by
  simp [State.elementRuns, h]

theorem exec_thermalClamp_clamps {sec d : Nat} (hs : sec < 16) (owner : s.domainOf sec = some d) (free : (s.domain d).clamp = false) :
    ∃ u r, exec (.thermalClamp sec sensor tenths) s = .next u ∧ u.mem = s.mem ∧ u.tiles = s.tiles ∧ u.domain d = { s.domain d with clamp := true } ∧
      8 ≤ u.divider sec ∧ u.records = s.records ++ [r] ∧ r.source = s.lathTile d ∧ r.cls = 18 ∧ r.cause = 1 ∧ ∀ e, e ≠ d → u.domain e = s.domain e := by
  have frame := s.clampAll_asideClamps [d] true
  have clamped : (s.clampAll [d] true).domain d = { s.domain d with clamp := true } := by simp [State.clampAll_domain]
  refine ⟨(s.clampAll [d] true).thermalRecord d 1 sensor tenths, _, ?_, (congrArg State.mem frame :), (congrArg State.tiles frame :), clamped, ?_,
    congrArg (· ++ [_]) (congrArg State.records frame :), State.lathTile_of_shapes (s.clampAll_shape [d] true) d, rfl, rfl, fun e other => ?_⟩
  · rw [exec_thermalClamp_owned hs owner, free, if_neg Bool.false_ne_true]
  · refine State.divider_of_clamp (d := d) ?_ (congrArg Domain.clamp clamped)
    exact (State.domainOf_of_shapes (s.clampAll_shape [d] true) sec).trans owner
  · exact (s.clampAll_domain [d] true e).trans (if_neg (mt List.mem_singleton.mp other))

theorem exec_thermalClampRelease_releases {d : Nat} (hd : d < 16) (clamped : (s.domain d).clamp = true) (running : s.thermalHalt = false) :
    ∃ u, exec (.thermalClampRelease d) s = .next u ∧ u.mem = s.mem ∧ u.tiles = s.tiles ∧ u.records = s.records ∧
      u.domain d = { s.domain d with clamp := false } := by
  have frame := s.clampAll_asideClamps [d] false
  refine ⟨s.clampAll [d] false, ?_, (congrArg State.mem frame :), (congrArg State.tiles frame :), (congrArg State.records frame :), ?_⟩
  · simp [exec_thermalClampRelease hd, clamped, running]
  · simp [State.clampAll_domain]

theorem exec_thermalHalt_halts (ready : s.phase = 8) (running : s.thermalHalt = false) :
    ∃ u, exec (.thermalHalt sensor tenths) s = .next u ∧ u.thermalHalt = true ∧ u.mem = s.mem ∧ u.tiles = s.tiles ∧ u.accesses = s.accesses ∧
      (∀ t, u.elementRuns t = false) ∧ (∀ d, d < 16 → (s.domain d).shape.w ≠ 0 → ∃ r ∈ u.records, r.source = s.lathTile d ∧ r.cls = 18 ∧ r.cause = 2) := by
  have frame := s.thermallyHalted.thermalRecords_asideRecords s.liveDomains 2 sensor tenths
  have halted := (congrArg State.thermalHalt frame :)
  refine ⟨s.thermallyHalted.thermalRecords s.liveDomains 2 sensor tenths, ?_, halted, (congrArg State.mem frame :),
    (congrArg State.tiles frame :), (congrArg State.accesses frame :), elementRuns_of_thermalHalt halted,
    fun d hd live => ?_⟩
  · simp only [exec_thermalHalt, ready, running, bne_self_eq_false, Bool.or_self, Bool.false_eq_true, if_false]
  · exact s.thermallyHalted.thermalRecords_sent 2 sensor tenths ((s.mem_liveDomains d).mpr ⟨hd, live⟩)

theorem exec_thermalResume_resumes (halted : s.thermalHalt = true) :
    ∃ u, exec (.thermalResume sensor tenths) s = .next u ∧ u.thermalHalt = false ∧ u.mem = s.mem ∧ u.tiles = s.tiles ∧
      ∀ d, d < 16 → (s.domain d).shape.w ≠ 0 → (u.domain d).clamp = true ∧ ∃ r ∈ u.records, r.source = s.lathTile d ∧ r.cls = 18 ∧ r.cause = 3 := by
  have frame := s.thermallyResumed.thermalRecords_asideRecords s.liveDomains 3 sensor tenths
  have clamps := s.clampAll_asideClamps s.liveDomains true
  refine ⟨s.thermallyResumed.thermalRecords s.liveDomains 3 sensor tenths, ?_, (congrArg State.thermalHalt frame :),
    Eq.trans (congrArg State.mem frame :) (congrArg State.mem clamps :),
    Eq.trans (congrArg State.tiles frame :) (congrArg State.tiles clamps :), fun d hd live => ?_⟩
  · simp only [exec_thermalResume, halted, Bool.not_true, Bool.false_eq_true, if_false]
  · have member := (s.mem_liveDomains d).mpr ⟨hd, live⟩
    obtain ⟨r, sent, source, cls, cause⟩ := s.thermallyResumed.thermalRecords_sent 3 sensor tenths member
    refine ⟨?_, r, sent, source.trans (State.lathTile_of_shapes (s.clampAll_shape _ true) d), cls, cause⟩
    have kept := congrArg (fun u : State => (u.domain d).clamp) frame
    refine kept.trans ((congrArg Domain.clamp (s.clampAll_domain s.liveDomains true d)).trans ?_)
    rw [if_pos member]

end

/-- Settles O55: each event leaves the state where it does not apply, and otherwise sets clamps and sends records as its own lemma says. -/
theorem thermalControl : Obligations.ThermalControl := by
  unfold Obligations.ThermalControl
  refine ⟨?_, ?_, ?_, ?_, ?_, ?_, ?_, ?_⟩
  · exact fun s sec sensor x d hs owner free => exec_thermalClamp_clamps hs owner free
  · rintro s sec sensor x hs (unowned | ⟨d, owner, clamped⟩)
    · exact exec_thermalClamp_unowned hs unowned
    · rw [exec_thermalClamp_owned hs owner, if_pos clamped]
  · intro s d hd idle
    rw [exec_thermalClampRelease hd, if_neg]
    simpa [or_iff_not_imp_left] using idle
  · intro s sensor x idle
    rw [exec_thermalHalt, if_pos]
    simpa [or_comm] using idle
  · intro s sensor x running
    rw [exec_thermalResume, running]
    rfl
  · exact fun s d hd clamped running => exec_thermalClampRelease_releases hd clamped running
  · exact fun s sensor x ready running => exec_thermalHalt_halts ready running
  · exact fun s sensor x halted => exec_thermalResume_resumes halted

end Sys2Proof.Machine
end


section
/-! SUPPORT. The boot (R32-R36): what each phase performs or stops with, the repair map (R16), and the two restarts (R31, R373). -/

namespace Sys2Proof.Machine

open Sys2Proof

/-! ### The repair map -/

/-- A failed tile that a spare of its column serves. -/
def Tile.spared (tl : Tile) : Tile := { tl with health := { tl.health with spare := true } }

/-- A failed tile that finds no spare in its column. -/
def Tile.outOfService (tl : Tile) : Tile := { tl with health := { tl.health with retired := true, bootRetired := true, reason := 1 } }

theorem State.repairTile_of_spare {s : State} {t : Nat} (h : 0 < s.sparesOf (columnOf t)) :
    s.repairTile t = { s.setTile t (s.tile t).spared with spares := SMap.set s.spares (columnOf t) (s.sparesOf (columnOf t) - 1) } := by
  rw [State.repairTile, if_pos h]
  rfl

theorem State.repairTile_of_no_spare {s : State} {t : Nat} (h : s.sparesOf (columnOf t) = 0) : s.repairTile t = s.setTile t (s.tile t).outOfService := by
  rw [State.repairTile, if_neg (Nat.not_lt.mpr h.le)]
  rfl

theorem State.tile_repairTile_same (s : State) (t : Nat) :
    (s.repairTile t).tile t = if 0 < s.sparesOf (columnOf t) then (s.tile t).spared else (s.tile t).outOfService := by
  split
  next h =>
    rw [State.repairTile_of_spare h]
    exact tile_setTile_same s t _
  next h =>
    rw [State.repairTile_of_no_spare (Nat.eq_zero_of_not_pos h)]
    exact tile_setTile_same s t _

theorem State.tile_repairTile_other (s : State) {t k : Nat} (h : k ≠ t) : (s.repairTile t).tile k = s.tile k := by
  obtain none | left := Nat.eq_zero_or_pos (s.sparesOf (columnOf t))
  · rw [State.repairTile_of_no_spare none]
    exact tile_setTile_other s h _
  · rw [State.repairTile_of_spare left]
    exact tile_setTile_other s h _

theorem State.sparesOf_repairTile (s : State) (t c : Nat) :
    (s.repairTile t).sparesOf c = if columnOf t = c then s.sparesOf c - 1 else s.sparesOf c := by
  obtain none | left := Nat.eq_zero_or_pos (s.sparesOf (columnOf t))
  · rw [State.repairTile_of_no_spare none]
    split
    next h => subst h; rw [none]; exact none
    next => rfl
  · rw [State.repairTile_of_spare left]
    split
    next h => subst h; exact SMap.get_set_same _ _ _ _
    next h => exact SMap.get_set_other _ (Ne.symm h) _ _

theorem foldl_repairTile_other (ts : List Nat) (s : State) {t : Nat} (h : t ∉ ts) : (ts.foldl State.repairTile s).tile t = s.tile t := by
  induction ts generalizing s with
  | nil => rfl
  | cons k rest ih =>
    obtain ⟨hk, hrest⟩ := not_or.mp (mt List.mem_cons.mpr h)
    rw [List.foldl_cons, ih _ hrest, State.tile_repairTile_other s hk]

/-- Each failed tile of a column takes one of its spares while one is left (R16). -/
theorem foldl_repairTile_sparesOf (ts : List Nat) (s : State) (c : Nat) :
    (ts.foldl State.repairTile s).sparesOf c = s.sparesOf c - (ts.filter fun k => columnOf k == c).length := by
  induction ts generalizing s with
  | nil => rfl
  | cons k rest ih =>
    rw [List.foldl_cons, ih, State.sparesOf_repairTile, List.filter_cons]
    by_cases h : columnOf k = c
    · rw [if_pos h, if_pos (beq_iff_eq.mpr h), List.length_cons]
      omega
    · rw [if_neg h, if_neg (mt beq_iff_eq.mp h)]

theorem nodup_eraseDups (ts : List Nat) : ts.eraseDups.Nodup := by
  induction h : ts.length using Nat.strong_induction_on generalizing ts with
  | _ n ih =>
    cases ts with
    | nil => exact List.nodup_nil
    | cons t rest =>
      have shorter : (rest.filter fun k => !k == t).length < n := h ▸ Nat.lt_succ_of_le (List.length_filter_le _ _)
      rw [List.eraseDups_cons, List.nodup_cons]
      exact ⟨by simp, ih _ shorter _ rfl⟩

theorem takeWhile_ne_append {t : Nat} {before after : List Nat} (h : t ∉ before) : (before ++ t :: after).takeWhile (· != t) = before := by
  rw [List.takeWhile_append_of_pos, List.takeWhile_cons_of_neg, List.append_nil]
  · simp
  · exact fun k hk => bne_iff_ne.mpr fun e => h (e ▸ hk)

/-- What becomes of a failed tile depends on how many failed tiles of its column come before it (R16). -/
theorem State.applyRepair_tile (s : State) {t : Nat} (failed : t ∈ s.flash.failed) :
    s.applyRepair.tile t =
      if ((s.flash.failed.eraseDups.takeWhile (· != t)).filter fun k => columnOf k == columnOf t).length < s.sparesOf (columnOf t) then (s.tile t).spared
      else (s.tile t).outOfService := by
  obtain ⟨before, after, parts, first⟩ := List.eq_append_cons_of_mem (List.mem_eraseDups.mpr failed)
  have once : t ∉ after := by
    have distinct := nodup_eraseDups s.flash.failed
    rw [parts] at distinct
    exact (List.nodup_append.mp distinct).2.1.notMem
  rw [State.applyRepair, parts, takeWhile_ne_append first, List.foldl_append, List.foldl_cons, foldl_repairTile_other _ _ once, State.tile_repairTile_same,
    foldl_repairTile_sparesOf, foldl_repairTile_other _ _ first]
  simp only [Nat.sub_pos_iff_lt]

theorem State.applyRepair_tile_sound (s : State) {t : Nat} (sound : t ∉ s.flash.failed) : s.applyRepair.tile t = s.tile t :=
  foldl_repairTile_other _ s (mt List.mem_eraseDups.mp sound)

/-! ### Memory zeroed -/

theorem Memory.isFull_zeroRange {m : Memory} {lo n g : Nat} (low : lo / 16 ≤ g) (high : g < (lo + n) / 16) : (m.zeroRange lo n).isFull g = false := by
  simp [Memory.isFull, Memory.zeroRange, low, high]

theorem Memory.isPoison_zeroRange {m : Memory} {lo n g : Nat} (low : lo / 16 ≤ g) (high : g < (lo + n) / 16) : (m.zeroRange lo n).isPoison g = false := by
  simp [Memory.isPoison, Memory.zeroRange, low, high]

/-! ### The root lath -/

@[simp] theorem State.markUnlinked_domains (s : State) (x y z dir vc : Nat) : (s.markUnlinked x y z dir vc).domains = s.domains := by
  unfold State.markUnlinked
  dsimp only
  split <;> rfl

theorem State.loadRouter_domains (s : State) (r : RouterRec) (ox oy inst : Nat) : (s.loadRouter r ox oy inst).domains = s.domains := rfl

@[simp] theorem State.loadImage_domains (s : State) (g : Image) (rg : Region) (inst asid : Nat) : (s.loadImage g rg inst asid).domains = s.domains :=
  (foldl_leaves (fun s r => s.loadRouter_domains r rg.ox rg.oy inst) g.routers _).trans
    ((foldl_leaves (fun s _ => s.setTile_domains _ _) g.tiles _).trans (foldl_leaves (fun s t => s.setTile_domains t _) rg.tiles s))

@[simp] theorem State.openPorts_domains (s : State) (rg : Region) (ports : List PortRec) : (s.openPorts rg ports).domains = s.domains :=
  foldl_leaves (fun s _ => s.markUnlinked_domains _ _ _ _ _) _ s

theorem State.loadLath_domains (s : State) (d : Nat) (g : Image) (secs : List Nat) : (s.loadLath d g secs).domains = s.domains :=
  foldl_leaves (part := State.domains) (fun s gr => by simp) _ s

theorem State.loadLath_domain (s : State) (d : Nat) (g : Image) (secs : List Nat) (e : Nat) : (s.loadLath d g secs).domain e = s.domain e := by
  rw [State.domain, State.loadLath_domains, State.domain]

/-- A load changes nothing of its domain but the measurement (R464). -/
theorem State.measureLoad_domain (s : State) (d : Nat) (g : Image) (id : BitVec 128) :
    ∃ m, (s.measureLoad d g id).domain d = { s.domain d with measure := m } := by
  unfold State.measureLoad
  split
  · exact ⟨_, rfl⟩
  · exact ⟨_, State.domain_setDomain_same _ _ _⟩

/-! ### Phases -/

section
variable {s : State} {found : BootFindings}

theorem exec_bootSequence_idle (h : s.powered = false ∨ 8 ≤ s.phase) : exec (.bootSequence found) s = .next s := by
  change execBootSequence found s = _
  rw [execBootSequence, if_pos]
  simpa using h

variable (on : s.powered = true) (early : s.phase < 8)
include on early

theorem exec_bootSequence_power (power : found.power = true) : exec (.bootSequence found) s = .next (s.stopBoot (s.faultPhase found) 6) := by
  change execBootSequence found s = _
  simp [execBootSequence, on, Nat.not_le.mpr early, power]

theorem exec_bootSequence_thermal (power : found.power = false) (thermal : found.thermal = true) :
    exec (.bootSequence found) s = .next (s.stopBoot (s.faultPhase found) 7) := by
  change execBootSequence found s = _
  simp [execBootSequence, on, Nat.not_le.mpr early, power, thermal]

variable (power : found.power = false) (thermal : found.thermal = false)
include power thermal

theorem exec_bootSequence_stops {n code : Nat} (phase : s.phase + 1 = n) (stops : s.bootPhase found n = .error code) :
    exec (.bootSequence found) s = .next (s.stopBoot n code) := by
  change execBootSequence found s = _
  simp [execBootSequence, on, Nat.not_le.mpr early, power, thermal, phase, stops]

theorem exec_bootSequence_performs {n : Nat} {u : State} (phase : s.phase + 1 = n) (performs : s.bootPhase found n = .ok u) :
    exec (.bootSequence found) s = .next { u with phase := n } := by
  change execBootSequence found s = _
  simp [execBootSequence, on, Nat.not_le.mpr early, power, thermal, phase, performs]

end

/-! ### What a phase finds -/

section
variable {s : State} {found : BootFindings}

theorem State.bootPhase_one : s.bootPhase found 1 = if s.flash.readable then .ok s else .error 1 := rfl

theorem State.bootPhase_two : s.bootPhase found 2 =
    if !s.flash.repairSigned then .error 2 else if !s.flash.configSigned then .error 3 else .ok s.takeConfig := rfl

theorem State.bootPhase_three : s.bootPhase found 3 = .ok s.applyRepair := rfl

theorem State.bootPhase_four : s.bootPhase found 4 = .ok { s with mem := s.mem.zeroRange 0 (2 * 2 ^ 48) } := rfl

theorem State.bootPhase_five : s.bootPhase found 5 = if found.puf then .error 4 else .ok s := rfl

/-- The image of the root lath read from the flash. -/
def State.rootLathRead (s : State) : State :=
  { s with lathImages := (s.flash.rootLath.map fun im => (0, im)).toList ++ s.lathImages.filter fun x => x.1 != 0 }

theorem State.lathFail_rootLathRead (d : Nat) (sh : Shape) (im : Option StoredImage) : s.rootLathRead.lathFail d sh im = s.lathFail d sh im := by
  cases im <;> rfl

theorem State.lathFail_none (d : Nat) (sh : Shape) : s.lathFail d sh none = some 0x23 := rfl

theorem State.bootPhase_six : s.bootPhase found 6 =
    if (s.lathFail 0 ⟨0, 0, 4, 4⟩ s.flash.rootLath).isSome then .error 5 else .ok s.rootLathRead := by
  rw [← State.lathFail_rootLathRead]
  rfl

theorem State.lathImage_rootLathRead {im : StoredImage} (h : s.flash.rootLath = some im) : s.rootLathRead.lathImage 0 = some im := by
  simp [State.lathImage, State.rootLathRead, h]

/-- Domain 0 given the whole device, with the record of its mailbox page (R36, R357). -/
def State.rootDomain (s : State) : State := { s.setDomain 0 bootDomain with mem := s.mem.putBlob 0 (mailboxPA 0) ⟨32, 0⟩ }

theorem State.rootDomain_domain (s : State) : s.rootDomain.domain 0 = bootDomain := by
  have domains : s.rootDomain.domains = SMap.set s.domains 0 bootDomain := rfl
  rw [State.domain, domains, SMap.get_set_same]

/-- The state that the load of the root lath leaves. -/
def State.rootLathLoaded (s : State) (im : StoredImage) : State := (s.rootDomain.loadLath 0 im.parse.1 [0]).measureLoad 0 im.parse.1 im.id

theorem State.bootPhase_seven_none (h : s.flash.rootLath = none) : s.bootPhase found 7 = .error 5 := by
  rw [State.bootPhase, h]

theorem State.bootPhase_seven_some {im : StoredImage} (h : s.flash.rootLath = some im) : s.bootPhase found 7 = .ok (s.rootLathLoaded im) := by
  rw [State.bootPhase, h]
  rfl

theorem State.bootPhase_eight : s.bootPhase found 8 = .ok s := rfl

theorem State.rootLathLoaded_domain (im : StoredImage) : ∃ m, (s.rootLathLoaded im).domain 0 = { bootDomain with measure := m } := by
  obtain ⟨m, hm⟩ := (s.rootDomain.loadLath 0 im.parse.1 [0]).measureLoad_domain 0 im.parse.1 im.id
  rw [State.loadLath_domain, State.rootDomain_domain] at hm
  exact ⟨m, hm⟩

end

/-! ### The phases that do more than go on -/

section
variable {s : State} {found : BootFindings} (on : s.powered = true) (power : found.power = false) (thermal : found.thermal = false)
include on power thermal

theorem exec_bootSequence_takes_config (phase : s.phase = 1) (repairSigned : s.flash.repairSigned = true) (configSigned : s.flash.configSigned = true) :
    ∃ u, exec (.bootSequence found) s = .next u ∧ u.phase = 2 ∧ u.mem = s.mem ∧ u.tiles = s.tiles ∧ u.lpddrGib = s.flash.lpddrGib ∧
      u.cxlGib = s.flash.cxlGib ∧ u.providerKeys = s.flash.providerKeys ∧ u.moduleIndex = s.flash.moduleIndex ∧
      u.ringLevels = s.flash.ringLevels.getD ringDefault ∧ at9 u.periods 6 = s.flash.podPeriod ∧ at9 u.periods 7 = s.flash.spanPeriod ∧
      at9 u.periods 8 = s.flash.systemPeriod ∧ ∀ l, 2 ≤ l → l ≤ 5 → at9 u.periods l = at9 s.periods l := by
  have performs : s.bootPhase found 2 = .ok s.takeConfig := by simp [State.bootPhase_two, repairSigned, configSigned]
  refine ⟨_, exec_bootSequence_performs on (by omega) power thermal (by omega) performs, rfl, rfl, rfl, rfl, rfl, rfl, rfl, rfl, ?_, ?_, ?_, fun l low high => ?_⟩
  · simp [State.takeConfig, at9_set9]
  · simp [State.takeConfig, at9_set9]
  · simp [State.takeConfig, at9_set9]
  · have h : l % 9 = l := Nat.mod_eq_of_lt (by omega)
    simp only [State.takeConfig, at9_set9, h]
    rw [if_neg (by omega), if_neg (by omega), if_neg (by omega)]

theorem exec_bootSequence_repairs (phase : s.phase = 2) :
    ∃ u, exec (.bootSequence found) s = .next u ∧ u.phase = 3 ∧ u.mem = s.mem ∧ (∀ t, t ∉ s.flash.failed → u.tile t = s.tile t) ∧
      ∀ t ∈ s.flash.failed,
        let before := ((s.flash.failed.eraseDups.takeWhile (· != t)).filter fun k => columnOf k == columnOf t).length
        (before < s.sparesOf (columnOf t) → u.tile t = { s.tile t with health := { (s.tile t).health with spare := true } }) ∧
        (s.sparesOf (columnOf t) ≤ before →
          u.tile t = { s.tile t with health := { (s.tile t).health with retired := true, bootRetired := true, reason := 1 } }) := by
  refine ⟨_, exec_bootSequence_performs on (by omega) power thermal (by omega) State.bootPhase_three, rfl, s.applyRepair_mem,
    fun t sound => s.applyRepair_tile_sound sound, fun t failed => ⟨fun left => ?_, fun none => ?_⟩⟩
  · exact (s.applyRepair_tile failed).trans (if_pos left)
  · exact (s.applyRepair_tile failed).trans (if_neg (Nat.not_lt.mpr none))

theorem exec_bootSequence_zeroes (phase : s.phase = 3) :
    ∃ u, exec (.bootSequence found) s = .next u ∧ u.phase = 4 ∧ u.tiles = s.tiles ∧ (∀ a, a < 2 * 2 ^ 48 → u.mem.byte a = 0) ∧
      (∀ a, 2 * 2 ^ 48 ≤ a → u.mem.byte a = s.mem.byte a) ∧ ∀ g, g < 2 ^ 45 → u.mem.isFull g = false ∧ u.mem.isPoison g = false := by
  refine ⟨_, exec_bootSequence_performs on (by omega) power thermal (by omega) State.bootPhase_four, rfl, rfl, fun a low => ?_, fun a high => ?_,
    fun g low => ⟨?_, ?_⟩⟩
  · exact (s.mem.byte_zeroRange _ _ a).trans (if_pos ⟨Nat.zero_le a, by omega⟩)
  · exact (s.mem.byte_zeroRange _ _ a).trans (if_neg (by omega))
  · exact Memory.isFull_zeroRange (Nat.zero_le g) (by omega)
  · exact Memory.isPoison_zeroRange (Nat.zero_le g) (by omega)

theorem exec_bootSequence_reads_root_lath (phase : s.phase = 5) (sound : s.lathFail 0 ⟨0, 0, 4, 4⟩ s.flash.rootLath = none) :
    ∃ u, exec (.bootSequence found) s = .next u ∧ u.phase = 6 ∧ u.mem = s.mem ∧ u.tiles = s.tiles ∧ u.lathImage 0 = s.flash.rootLath := by
  cases image : s.flash.rootLath with
  | none => rw [image] at sound; cases sound
  | some im =>
    have performs : s.bootPhase found 6 = .ok s.rootLathRead := by simp [State.bootPhase_six, sound]
    exact ⟨_, exec_bootSequence_performs on (by omega) power thermal (by omega) performs, rfl, rfl, rfl, State.lathImage_rootLathRead image⟩

theorem exec_bootSequence_loads_root_lath (phase : s.phase = 6) {im : StoredImage} (image : s.flash.rootLath = some im) :
    ∃ u, exec (.bootSequence found) s = .next u ∧ u.phase = 7 ∧ (u.domain 0).shape = ⟨0, 0, 4, 4⟩ ∧
      (u.domain 0).shareHost = 64 ∧ (u.domain 0).shareLpddr = 64 ∧ (u.domain 0).shareCxl = 64 ∧ (u.domain 0).farSize = 16384 ∧ (u.domain 0).asidTable = 0 ∧
      u = { s.rootLathLoaded im with phase := 7 } := by
  obtain ⟨m, domain⟩ := s.rootLathLoaded_domain im
  have booted : ({ s.rootLathLoaded im with phase := 7 } : State).domain 0 = { bootDomain with measure := m } := domain
  refine ⟨_, exec_bootSequence_performs on (by omega) power thermal (by omega) (State.bootPhase_seven_some image), rfl, ?_, ?_, ?_, ?_, ?_, ?_, rfl⟩
  all_goals rw [booted]; rfl

end

/-! ### The two restarts -/

section
variable {s : State}

theorem State.restart_bootCount : s.restart.bootCount = min (s.bootCount + 1) 0xFFFF := by
  cases h : s.powered <;> simp [State.restart, h]

theorem State.restart_flash : s.restart.flash = s.flash := by
  cases h : s.powered <;> simp [State.restart, h]

/-- Device time goes on over a restart with power on (R373). -/
theorem State.restart_ns_powered (h : s.powered = true) : s.restart.ns = s.ns := by
  simp [State.restart, h, State.ns]

/-- Device time begins anew at a power-good (R373). -/
theorem State.restart_ns_unpowered (h : s.powered = false) : s.restart.ns = 0 := by
  simp [State.restart, h, State.ns]

theorem exec_managementPortReset : exec .managementPortReset s = .next s.restart := rfl

/-- The state that a loss of power leaves. -/
def State.powerRemoved (s : State) : State := { State.restart { s with powered := false } with bootCount := s.bootCount, powered := false }

theorem exec_powerRemove : exec .powerRemove s = .next s.powerRemoved := rfl

end

/-- Settles O58: each phase performs or stops as its own lemma says, and the two restarts keep what lies outside the stack. -/
theorem bootSequence : Obligations.BootSequence := by
  unfold Obligations.BootSequence
  refine ⟨fun s found idle => exec_bootSequence_idle idle, ?_, fun s phase code => ⟨rfl, rfl, rfl, rfl⟩, fun s => ?_, fun s => ?_⟩
  · intro s found on early at'
    refine ⟨fun power => exec_bootSequence_power on early power, fun power thermal => exec_bootSequence_thermal on early power thermal, fun power thermal => ?_⟩
    have stops {n code : Nat} := exec_bootSequence_stops (n := n) (code := code) on early power thermal
    have performs {n : Nat} {u : State} := exec_bootSequence_performs (n := n) (u := u) on early power thermal
    refine ⟨fun phase readable => ?_, fun phase unreadable => ?_, fun phase unsigned => ?_, fun phase signed unsigned => ?_,
      exec_bootSequence_takes_config on power thermal, exec_bootSequence_repairs on power thermal, exec_bootSequence_zeroes on power thermal,
      fun phase => ?_, fun phase missing => ?_, fun phase refused => ?_, exec_bootSequence_reads_root_lath on power thermal,
      fun phase missing => ?_, fun phase im => exec_bootSequence_loads_root_lath on power thermal phase, fun phase => ?_⟩
    · exact performs (n := 1) (by omega) (by simp [State.bootPhase_one, readable])
    · exact stops (by omega) (by simp [State.bootPhase_one, unreadable])
    · exact stops (by omega) (by simp [State.bootPhase_two, unsigned])
    · exact stops (by omega) (by simp [State.bootPhase_two, signed, unsigned])
    · split
      next failed => exact stops (by omega) (by simp [State.bootPhase_five, failed])
      next sound => exact performs (n := 5) (by omega) (by simp [State.bootPhase_five, sound])
    · exact stops (by omega) (by simp [State.bootPhase_six, missing, State.lathFail_none])
    · exact stops (by omega) (by simp [State.bootPhase_six, refused])
    · exact stops (by omega) (State.bootPhase_seven_none missing)
    · exact performs (n := 8) (by omega) State.bootPhase_eight
  · exact ⟨s.restart, exec_managementPortReset, rfl, State.restart_bootCount, State.restart_mem s, State.restart_flash, rfl, rfl, rfl, rfl, rfl,
      State.restart_ns_powered, State.restart_ns_unpowered⟩
  · exact ⟨s.powerRemoved, exec_powerRemove, rfl, rfl, rfl, rfl, rfl, State.restart_ns_unpowered (s := { s with powered := false }) rfl,
      State.restart_mem { s with powered := false }, fun found => exec_bootSequence_idle (.inl rfl)⟩

end Sys2Proof.Machine
end


section
/-! SUPPORT. Bytes of a granule (R7, R226), and bytes written under no key into what stands there (R455, R481). -/

namespace Sys2Proof.Machine

open Sys2Proof

/-! ### Bytes of a number read -/

theorem Memory.read_cons (m : Memory) (a n : Nat) : m.read a (n + 1) = (m.byte a).toNat + 256 * m.read (a + 1) n := by
  simp [Memory.read, List.range_succ_eq_map, List.foldr_map, Nat.add_assoc, Nat.add_comm 1]

theorem Memory.read_lt (m : Memory) (a n : Nat) : m.read a n < 256 ^ n := by
  induction n generalizing a with
  | zero => exact Nat.one_pos
  | succ n ih =>
    have rest := ih (a + 1)
    have first := (m.byte a).isLt
    rw [Memory.read_cons, pow_succ]
    omega

theorem Memory.read_byte (m : Memory) (a : Nat) {n k : Nat} (h : k < n) : BitVec.ofNat 8 (m.read a n / 256 ^ k) = m.byte (a + k) := by
  induction k generalizing a n with
  | zero =>
    obtain ⟨j, rfl⟩ := Nat.exists_eq_add_of_lt h
    apply BitVec.eq_of_toNat_eq
    rw [Nat.zero_add, Memory.read_cons]
    have first := (m.byte a).isLt
    simp only [BitVec.toNat_ofNat, pow_zero, Nat.div_one, Nat.add_zero]
    omega
  | succ k ih =>
    obtain ⟨j, rfl⟩ : ∃ j, n = j + 1 := ⟨n - 1, by omega⟩
    have first := (m.byte a).isLt
    rw [Memory.read_cons, pow_succ', ← Nat.div_div_eq_div_mul, Nat.add_mul_div_left _ _ (by decide), Nat.div_eq_of_lt first, Nat.zero_add,
      ih (a + 1) (by omega), Nat.add_assoc, Nat.add_comm 1]

theorem Memory.granule_byte (m : Memory) (a : Nat) : BitVec.ofNat 8 ((m.granule (a / 16)).toNat / 256 ^ (a % 16)) = m.byte a := by
  have whole : (m.granule (a / 16)).toNat = m.read (16 * (a / 16)) 16 := by
    rw [Memory.granule, BitVec.toNat_ofNat]
    exact Nat.mod_eq_of_lt (m.read_lt _ 16)
  rw [whole, Memory.read_byte _ _ (Nat.mod_lt a (by decide)), Nat.div_add_mod]

/-! ### Marks beside the bytes -/

theorem Memory.write_keys (m : Memory) (a n x : Nat) : (m.write a n x).keys = m.keys :=
  List.foldlRecOn _ _ (motive := fun u : Memory => u.keys = m.keys) rfl fun _ hu _ _ => by exact hu

theorem Memory.write_poison (m : Memory) (a n x : Nat) : (m.write a n x).poison = m.poison :=
  List.foldlRecOn _ _ (motive := fun u : Memory => u.poison = m.poison) rfl fun _ hu _ _ => by exact hu

theorem SMap.get_filter {α : Type} (m : SMap α) (keep : Nat → Bool) (k : Nat) (dflt : α) :
    SMap.get (m.filter fun e => keep e.1) k dflt = if keep k then SMap.get m k dflt else dflt := by
  induction m with
  | nil => simp [SMap.get]
  | cons x rest ih =>
    obtain ⟨j, a⟩ := x
    by_cases kept : keep j = true
    · by_cases h : j = k
      · subst h; simp [SMap.get, kept]
      · simp [SMap.get, kept, h, ih]
    · by_cases h : j = k
      · subst h; simp [kept, ih]
      · simp [SMap.get, kept, h, ih]

theorem Memory.keyOf_setKey_zero (m : Memory) (g h : Nat) : (m.setKey g 0).keyOf h = if h = g then 0 else m.keyOf h := by
  refine (SMap.get_filter m.keys (fun j => j != g) h 0).trans ?_
  by_cases e : h = g <;> simp [e, Memory.keyOf]

theorem Memory.keyOf_setKeys_zero (m : Memory) (g n h : Nat) : (m.setKeys g n 0).keyOf h = if g ≤ h ∧ h < g + n then 0 else m.keyOf h := by
  refine (SMap.get_filter m.keys (fun j => !(decide (g ≤ j) && decide (j < g + n))) h 0).trans ?_
  by_cases e : g ≤ h ∧ h < g + n
  · simp [e]
  · rw [if_neg e, if_pos]
    · rfl
    · simpa [or_iff_not_imp_left] using e

theorem Memory.isPoison_cleanRange (m : Memory) (lo n g : Nat) :
    (m.cleanRange lo n).isPoison g = (m.isPoison g && !(decide (lo ≤ 16 * g) && decide (16 * g + 16 ≤ lo + n))) := by
  rw [Memory.isPoison, Memory.cleanRange, Bool.eq_iff_iff]
  simp [Memory.isPoison, List.mem_filter]

/-! ### A range under no key -/

/-- A granule brought under no key: its bytes are those that it reads as. -/
def Memory.plain (m : Memory) (g : Nat) : Memory := if m.keyOf g = 0 then m else (m.write (16 * g) 16 (m.readAs 0 g).toNat).setKey g 0

theorem Memory.underKey_zero (m : Memory) (lo n : Nat) : m.underKey 0 lo n =
    if n = 0 then m else ((m.plain (lo / 16)).plain ((lo + n - 1) / 16)).setKeys (lo / 16) ((lo + n - 1) / 16 + 1 - lo / 16) 0 := rfl

theorem Memory.plain_poison (m : Memory) (g : Nat) : (m.plain g).poison = m.poison := by
  unfold Memory.plain
  split
  · rfl
  · exact m.write_poison _ _ _

/-- Bytes of a granule that is under no key stay as they are. -/
theorem Memory.plain_unkeyed {m : Memory} {a : Nat} (g : Nat) (h : m.keyOf (a / 16) = 0) :
    (m.plain g).byte a = m.byte a ∧ (m.plain g).keyOf (a / 16) = 0 := by
  unfold Memory.plain
  split
  next => exact ⟨rfl, h⟩
  next keyed =>
    have other : a / 16 ≠ g := fun e => keyed (e ▸ h)
    refine ⟨?_, ?_⟩
    · rw [Memory.byte_setKey, Memory.byte_write_other _ _ _ _ _ (by omega)]
    · rw [Memory.keyOf_setKey_zero, if_neg other, Memory.keyOf, Memory.write_keys]
      exact h

theorem Memory.byte_underKey_unkeyed {m : Memory} {a : Nat} (lo n : Nat) (h : m.keyOf (a / 16) = 0) : (m.underKey 0 lo n).byte a = m.byte a := by
  rw [Memory.underKey_zero]
  split
  next => rfl
  next =>
    obtain ⟨byte, key⟩ := Memory.plain_unkeyed (lo / 16) h
    rw [Memory.byte_setKeys, (Memory.plain_unkeyed _ key).1, byte]

theorem Memory.underKey_poison (m : Memory) (lo n : Nat) : (m.underKey 0 lo n).poison = m.poison := by
  rw [Memory.underKey_zero]
  split
  · rfl
  · exact (Memory.plain_poison _ _).trans (Memory.plain_poison _ _)

theorem Memory.keyOf_underKey_zero (m : Memory) {lo n a : Nat} (low : lo ≤ a) (high : a < lo + n) : (m.underKey 0 lo n).keyOf (a / 16) = 0 := by
  rw [Memory.underKey_zero, if_neg (by omega), Memory.keyOf_setKeys_zero, if_pos (by omega)]

/-! ### Bytes put one by one -/

/-- Bytes put into memory from an address. -/
def Memory.putBytes (m : Memory) (pa : Nat) (data : List (Byte × Nat)) : Memory := data.foldl (fun m b => m.setByte (pa + b.2) b.1) m

theorem Memory.putBytes_keys (m : Memory) (pa : Nat) (data : List (Byte × Nat)) : (m.putBytes pa data).keys = m.keys :=
  List.foldlRecOn data _ (motive := fun u : Memory => u.keys = m.keys) rfl fun _ hu _ _ => by exact hu

theorem Memory.putBytes_poison (m : Memory) (pa : Nat) (data : List (Byte × Nat)) : (m.putBytes pa data).poison = m.poison :=
  List.foldlRecOn data _ (motive := fun u : Memory => u.poison = m.poison) rfl fun _ hu _ _ => by exact hu

theorem Memory.byte_putBytes (m : Memory) (pa n : Nat) (data : List Byte) (a : Nat) :
    (m.putBytes pa (data.zipIdx n)).byte a = if pa + n ≤ a ∧ a < pa + n + data.length then data.getD (a - (pa + n)) 0 else m.byte a := by
  induction data generalizing m n with
  | nil =>
    rw [if_neg (by simp)]
    rfl
  | cons b rest ih =>
    refine (ih (m.setByte (pa + n) b) (n + 1)).trans ?_
    rw [Memory.byte_setByte, List.length_cons]
    obtain below | rfl | above := Nat.lt_trichotomy a (pa + n)
    · rw [if_neg (by omega), if_neg (by omega), if_neg (by omega)]
    · rw [if_neg (by omega), if_pos rfl, if_pos (by omega), Nat.sub_self, List.getD_cons_zero]
    · obtain ⟨j, rfl⟩ := Nat.exists_eq_add_of_lt above
      have index : pa + n + j + 1 - (pa + n) = j + 1 := by omega
      have index' : pa + n + j + 1 - (pa + (n + 1)) = j := by omega
      rw [if_neg (by omega : ¬ pa + n + j + 1 = pa + n), index, index', List.getD_cons_succ]
      by_cases inside : j < rest.length
      · rw [if_pos (by omega), if_pos (by omega)]
      · rw [if_neg (by omega), if_neg (by omega)]

/-! ### A write of bytes by the host -/

section
variable {s : State} {pa : Nat} {data : List Byte}

theorem State.hostStore_unbacked (h : s.backed pa = false) : s.hostStore pa data = s := if_pos h

theorem State.hostStore_tiles : (s.hostStore pa data).tiles = s.tiles := by
  unfold State.hostStore
  split <;> rfl

variable (backed : s.backed pa = true)
include backed

theorem State.hostStore_mem : (s.hostStore pa data).mem = ((s.mem.underKey 0 pa data.length).putBytes pa data.zipIdx).cleanRange pa data.length := by
  rw [State.hostStore, if_neg (by simp [backed])]
  rfl

theorem State.hostStore_byte_outside {a : Nat} (outside : a < pa ∨ pa + data.length ≤ a) :
    (s.hostStore pa data).mem.byte a = (s.mem.underKey 0 pa data.length).byte a := by
  rw [State.hostStore_mem backed, Memory.byte_cleanRange, Memory.byte_putBytes, if_neg (by omega)]

theorem State.hostStore_byte {k : Nat} (h : k < data.length) : (s.hostStore pa data).mem.byte (pa + k) = data.getD k 0 := by
  rw [State.hostStore_mem backed, Memory.byte_cleanRange, Memory.byte_putBytes, if_pos (by omega), Nat.add_zero, Nat.add_sub_cancel_left]

theorem State.hostStore_keyOf {k : Nat} (h : k < data.length) : (s.hostStore pa data).mem.keyOf ((pa + k) / 16) = 0 := by
  rw [State.hostStore_mem backed]
  have keys : (((s.mem.underKey 0 pa data.length).putBytes pa data.zipIdx).cleanRange pa data.length).keys = (s.mem.underKey 0 pa data.length).keys :=
    Memory.putBytes_keys _ _ _
  rw [Memory.keyOf, keys]
  exact s.mem.keyOf_underKey_zero (Nat.le_add_right pa k) (Nat.add_lt_add_left h pa)

theorem State.hostStore_isPoison (g : Nat) :
    (s.hostStore pa data).mem.isPoison g = (s.mem.isPoison g && !(decide (pa ≤ 16 * g) && decide (16 * g + 16 ≤ pa + data.length))) := by
  rw [State.hostStore_mem backed, Memory.isPoison_cleanRange, Memory.isPoison, Memory.putBytes_poison, Memory.underKey_poison, Memory.isPoison]

end

end Sys2Proof.Machine
end


section
/-! SUPPORT. The host link (R21, R36, R225, R351, R357, R482) and device time (R373): what each access reads and writes. -/

namespace Sys2Proof.Machine

open Sys2Proof

/-! ### Lookups -/

/-- Registers and windows lie behind no cache slice (R233). -/
theorem State.sliceOf_window {g : Nat} (h : 8 ≤ tierOf (16 * g)) (s : State) : s.sliceOf g = none := by
  unfold State.sliceOf
  dsimp only
  split
  · omega
  · omega
  · omega
  · rfl

theorem State.lookUp_windows (s : State) {gs : List Nat} (h : ∀ g ∈ gs, 8 ≤ tierOf (16 * g)) : s.lookUp gs = s :=
  List.foldlRecOn gs _ (motive := fun u => u = s) rfl fun u hu g hg => by rw [State.sliceOf_window (h g hg), hu]

theorem State.le_of_mem_hostGranules {s : State} {pa n g : Nat} (h : g ∈ s.hostGranules pa n) : pa / 16 ≤ g := by
  unfold State.hostGranules at h
  split at h
  · cases h
  · obtain ⟨j, -, rfl⟩ := List.mem_map.mp h
    exact Nat.le_add_right _ _

theorem State.lookUp_hostGranules_window {pa : Nat} (h : 8 ≤ tierOf pa) (s u : State) (n : Nat) : u.lookUp (s.hostGranules pa n) = u :=
  u.lookUp_windows fun g hg => by
    have := State.le_of_mem_hostGranules hg
    simp only [tierOf] at *
    omega

theorem State.hostGranules_unbacked {s : State} {pa : Nat} (h : s.backed pa = false) (n : Nat) : s.hostGranules pa n = [] := if_pos (.inr h)

@[simp] theorem State.lookUp_tiles (s : State) (gs : List Nat) : (s.lookUp gs).tiles = s.tiles := by
  unfold State.lookUp
  exact foldl_leaves (part := State.tiles) (fun s g => by split <;> rfl) gs s

@[simp] theorem State.lookUp_hostOut (s : State) (gs : List Nat) : (s.lookUp gs).hostOut = s.hostOut := by
  unfold State.lookUp
  exact foldl_leaves (part := State.hostOut) (fun s g => by split <;> rfl) gs s

/-! ### What the host reads -/

section
variable {s : State} {pa len : Nat}

theorem State.hostByte_memory {a : Nat} (tier : tierOf a < 8) (backed : s.backed a = true) (key : s.mem.keyOf (a / 16) = 0) : s.hostByte a = s.mem.byte a := by
  unfold State.hostByte
  dsimp only
  rw [if_neg (by omega), if_neg, State.granuleAs, Memory.readAs, if_pos key, Memory.granule_byte]
  simp only [backed, Bool.true_eq_false, or_false, not_and]
  omega

theorem State.hostByte_register {k : Nat} (tier : tierOf pa = 8) (aligned : pa % 8 = 0) (h : k < 8) :
    s.hostByte (pa + k) = BitVec.ofNat 8 (s.loadRegister .host (pa % 2 ^ 48) / 256 ^ k) := by
  have tier' : tierOf (pa + k) = 8 := by simp only [tierOf] at *; omega
  have word : (pa + k) % 2 ^ 48 / 8 * 8 = pa % 2 ^ 48 := by simp only [tierOf] at *; omega
  have index : (pa + k) % 2 ^ 48 % 8 = k := by omega
  unfold State.hostByte
  dsimp only
  rw [if_pos tier', word, index]

theorem any_range_poison_iff :
    ((List.range (len + 15)).any fun k => decide (k < len) && s.mem.isPoison ((pa + k) / 16)) = true ↔ ∃ k, k < len ∧ s.mem.isPoison ((pa + k) / 16) = true := by
  simp only [List.any_eq_true, List.mem_range, Bool.and_eq_true, decide_eq_true_eq]
  exact ⟨fun ⟨k, _, h⟩ => ⟨k, h⟩, fun ⟨k, h⟩ => ⟨k, by omega, h⟩⟩

theorem State.hostRead_poisoned (tier : tierOf pa ≠ 8) (h : ∃ k, k < len ∧ s.mem.isPoison ((pa + k) / 16) = true) : s.hostRead pa len = .poisoned := by
  rw [State.hostRead, if_pos ⟨tier, any_range_poison_iff.mpr h⟩]

theorem State.hostRead_clean (h : tierOf pa = 8 ∨ ∀ k, k < len → s.mem.isPoison ((pa + k) / 16) = false) :
    s.hostRead pa len = .data ((List.range len).map fun k => s.hostByte (pa + k)) := by
  rw [State.hostRead, if_neg]
  rintro ⟨tier, poisoned⟩
  obtain ⟨k, hk, hp⟩ := any_range_poison_iff.mp poisoned
  obtain register | clean := h
  · exact tier register
  · rw [clean k hk] at hp
    cases hp

theorem State.hostRead_memory (h : ∀ k, k < len → s.mem.isPoison ((pa + k) / 16) = false ∧ s.mem.keyOf ((pa + k) / 16) = 0 ∧ tierOf (pa + k) < 8 ∧
    s.backed (pa + k) = true) : s.hostRead pa len = .data ((List.range len).map fun k => s.mem.byte (pa + k)) := by
  rw [State.hostRead_clean (.inr fun k hk => (h k hk).1)]
  refine congrArg HostReply.data (List.map_congr_left fun k hk => ?_)
  obtain ⟨_, key, tier, backed⟩ := h k (List.mem_range.mp hk)
  exact State.hostByte_memory tier backed key

theorem State.hostRead_register (tier : tierOf pa = 8) (aligned : pa % 8 = 0) :
    s.hostRead pa 8 = .data ((List.range 8).map fun k => BitVec.ofNat 8 (s.loadRegister .host (pa % 2 ^ 48) / 256 ^ k)) := by
  rw [State.hostRead_clean (.inl tier)]
  exact congrArg HostReply.data (List.map_congr_left fun k hk => State.hostByte_register tier aligned (List.mem_range.mp hk))

end

/-! ### What the host writes -/

section
variable {s : State} {pa : Nat} {data : List Byte}

theorem State.hostWrite_registers (tier : tierOf pa = 8) : s.hostWrite pa data = s.hostWords (pa % 2 ^ 48) data := if_pos tier

/-- A write of one aligned word stores one register (R225). -/
theorem State.hostWords_word {off : Nat} (aligned : off % 8 = 0) (word : data.length = 8) :
    s.hostWords off data = s.storeRegister .host off (BitVec.ofNat 64 (leBytes data)) := by
  have whole : data.take 8 = data := List.take_of_length_le word.le
  simp [State.hostWords, aligned, word, whole]

theorem State.hostWrite_window {n off : Nat} (port : n < 32) (inside : off < 0x10000) :
    s.hostWrite (9 * 2 ^ 48 + n * 0x10000 + off) data = s.hostBeat n off data := by
  have tier : tierOf (9 * 2 ^ 48 + n * 0x10000 + off) = 9 := by simp only [tierOf]; omega
  have place : (9 * 2 ^ 48 + n * 0x10000 + off) % 2 ^ 48 = n * 0x10000 + off := by omega
  have window : (n * 0x10000 + off) / 0x10000 = n := by omega
  have offset : (n * 0x10000 + off) % 0x10000 = off := (Nat.mul_add_mod' n _ off).trans (Nat.mod_eq_of_lt inside)
  unfold State.hostWrite
  dsimp only
  rw [place, window, offset, if_neg (by omega), if_pos (by omega)]

theorem State.hostWrite_bytes (tier : tierOf pa ≠ 8) (window : tierOf pa = 9 → 32 * 0x10000 ≤ pa % 2 ^ 48) :
    s.hostWrite pa data = if tierOf pa = 9 ∧ pa % 2 ^ 48 / 0x10000 = 0x10000 then (s.hostStore pa data).flushMail else s.hostStore pa data := by
  unfold State.hostWrite
  dsimp only
  rw [if_neg tier, if_neg fun h => Nat.not_lt.mpr (window h.1) h.2]

theorem State.backed_window (h : tierOf pa = 9) : s.backed pa = true := by
  simp [State.backed, h]

theorem State.hostBeat_taken {n : Nat} (size : data.length = 64) (enabled : s.portEnabled n = true) (room : (s.port n).buffer.length < 64) :
    s.hostBeat n 0 data =
      (s.takeNumber (4944 + n / 4)).2.setPort n { s.port n with buffer := (s.port n).buffer ++ [BitVec.ofNat 512 (leBytes data)] } := by
  simp [State.hostBeat, size, enabled, Nat.not_le.mpr room]

theorem State.hostBeat_dropped {n off : Nat} (h : off % 64 ≠ 0 ∨ data.length ≠ 64 ∨ s.portEnabled n = false ∨ 64 ≤ (s.port n).buffer.length) :
    s.hostBeat n off data = s := by
  unfold State.hostBeat
  dsimp only
  split
  next => rfl
  next taken => rw [if_pos (by tauto)]

end

/-! ### The events -/

section
variable {s : State} {access : HostAccess} {pa len : Nat} {data : List Byte}

theorem earlyAccess_read : earlyAccess (.read pa len) = true ↔ 8 * 2 ^ 48 ≤ pa ∧ pa + len ≤ 8 * 2 ^ 48 + 16 := by
  simp [earlyAccess]

theorem earlyAccess_write : earlyAccess (.write pa data) = true ↔ 8 * 2 ^ 48 ≤ pa ∧ pa + data.length ≤ 8 * 2 ^ 48 + 16 := by
  simp [earlyAccess]

theorem exec_hostLinkAccess_closed (h : s.linkUp = false ∨ (s.phase ≠ 8 ∧ earlyAccess access = false)) : exec (.hostLinkAccess access) s = .next s :=
  if_pos h

theorem exec_hostRequestRefused_idle (h : s.phase = 8 ∨ earlyAccess access = true ∨ s.linkUp = false) : exec (.hostRequestRefused access) s = .next s :=
  if_pos h

theorem exec_hostRequestRefused_read (up : s.linkUp = true) (early : s.phase ≠ 8) (refused : ¬ earlyAccess (.read pa len) = true) :
    exec (.hostRequestRefused (.read pa len)) s = .next { s with hostOut := s.hostOut ++ [.unsupported] } :=
  if_neg (by simp [up, early, refused])

theorem exec_hostRequestRefused_write (up : s.linkUp = true) (early : s.phase ≠ 8) (refused : ¬ earlyAccess (.write pa data) = true) :
    exec (.hostRequestRefused (.write pa data)) s = .next s :=
  if_neg (by simp [up, early, refused])

/-- The state that a read of the host leaves before its lookups are counted. -/
def State.hostAnswered (s : State) (pa len : Nat) : State := { s with hostOut := s.hostOut ++ [s.hostRead pa len], free := s.free + 1 }

theorem exec_hostLinkAccess_read (up : s.linkUp = true) (admitted : s.phase = 8 ∨ earlyAccess (.read pa len) = true) :
    exec (.hostLinkAccess (.read pa len)) s = .next ((s.hostAnswered pa len).lookUp (s.hostGranules pa len)) :=
  if_neg <| by
    rintro (down | ⟨early, closed⟩)
    · exact Bool.false_ne_true (down.symm.trans up)
    · exact admitted.elim early fun open' => Bool.false_ne_true (closed.symm.trans open')

theorem exec_hostLinkAccess_write (up : s.linkUp = true) (ready : s.phase = 8) :
    exec (.hostLinkAccess (.write pa data)) s = .next ((s.hostWrite pa data).lookUp (s.hostGranules pa data.length)) :=
  if_neg (by simp [up, ready])

/-- A read of the host is answered with what stands there, or with a poisoned TLP (R225, R351, R482). -/
theorem exec_hostLinkAccess_read_answers (up : s.linkUp = true) (admitted : s.phase = 8 ∨ earlyAccess (.read pa len) = true) :
    ∃ u r, exec (.hostLinkAccess (.read pa len)) s = .next u ∧ u.mem = s.mem ∧ u.tiles = s.tiles ∧ u.hostOut = s.hostOut ++ [r] ∧
      (tierOf pa ≠ 8 → (∀ k, k < len → s.mem.isPoison ((pa + k) / 16) = false ∧ s.mem.keyOf ((pa + k) / 16) = 0 ∧ tierOf (pa + k) < 8 ∧
        s.backed (pa + k) = true) → r = .data ((List.range len).map fun k => s.mem.byte (pa + k))) ∧
      (tierOf pa ≠ 8 → (∃ k, k < len ∧ s.mem.isPoison ((pa + k) / 16) = true) → r = .poisoned) ∧
      (tierOf pa = 8 → pa % 8 = 0 → len = 8 → r = .data ((List.range 8).map fun k => BitVec.ofNat 8 (s.loadRegister .host (pa % 2 ^ 48) / 256 ^ k))) := by
  refine ⟨_, s.hostRead pa len, exec_hostLinkAccess_read up admitted, State.lookUp_mem _ _, State.lookUp_tiles _ _, State.lookUp_hostOut _ _,
    fun _ => State.hostRead_memory, State.hostRead_poisoned, ?_⟩
  rintro tier aligned rfl
  exact State.hostRead_register tier aligned

variable (up : s.linkUp = true) (ready : s.phase = 8)
include up ready

theorem exec_hostLinkAccess_write_registers (tier : tierOf pa = 8) :
    exec (.hostLinkAccess (.write pa data)) s = .next (s.hostWords (pa % 2 ^ 48) data) := by
  rw [exec_hostLinkAccess_write up ready, State.hostWrite_registers tier, State.lookUp_hostGranules_window tier.ge]

theorem exec_hostLinkAccess_write_bytes (tier : tierOf pa ≠ 8) (window : tierOf pa = 9 → 32 * 0x10000 ≤ pa % 2 ^ 48) (backed : s.backed pa = true) :
    ∃ u : State,
      exec (.hostLinkAccess (.write pa data)) s =
        .next ((if tierOf pa = 9 ∧ pa % 2 ^ 48 / 0x10000 = 0x10000 then u.flushMail else u).lookUp (s.hostGranules pa data.length)) ∧ u.tiles = s.tiles ∧
      (∀ k, k < data.length → u.mem.byte (pa + k) = data.getD k 0 ∧ u.mem.keyOf ((pa + k) / 16) = 0) ∧
      (∀ a, (a / 16 < pa / 16 ∨ pa + data.length ≤ a / 16 * 16) → u.mem.byte a = s.mem.byte a) ∧
      (∀ a, (a < pa ∨ pa + data.length ≤ a) → s.mem.keyOf (a / 16) = 0 → u.mem.byte a = s.mem.byte a) ∧
      ∀ g, u.mem.isPoison g = (s.mem.isPoison g && !(decide (pa ≤ 16 * g) && decide (16 * g + 16 ≤ pa + data.length))) := by
  refine ⟨s.hostStore pa data, ?_, State.hostStore_tiles, fun k hk => ⟨State.hostStore_byte backed hk, State.hostStore_keyOf backed hk⟩,
    fun a outside => ?_, fun a outside key => ?_, State.hostStore_isPoison backed⟩
  · rw [exec_hostLinkAccess_write up ready, State.hostWrite_bytes tier window]
  · rw [State.hostStore_byte_outside backed (by omega), Memory.byte_underKey_other _ _ _ _ _ outside]
  · rw [State.hostStore_byte_outside backed outside, Memory.byte_underKey_unkeyed _ _ key]

theorem exec_hostLinkAccess_write_unbacked (tier : tierOf pa ≠ 8) (window : tierOf pa = 9 → 32 * 0x10000 ≤ pa % 2 ^ 48) (unbacked : s.backed pa = false) :
    exec (.hostLinkAccess (.write pa data)) s = .next s := by
  have noWindow : ¬ (tierOf pa = 9 ∧ pa % 2 ^ 48 / 0x10000 = 0x10000) := fun h => Bool.false_ne_true (unbacked.symm.trans (State.backed_window h.1))
  rw [exec_hostLinkAccess_write up ready, State.hostWrite_bytes tier window, if_neg noWindow, State.hostStore_unbacked unbacked,
    State.hostGranules_unbacked unbacked]
  rfl

theorem exec_hostLinkAccess_write_window {n off : Nat} (port : n < 32) (inside : off < 0x10000) :
    exec (.hostLinkAccess (.write (9 * 2 ^ 48 + n * 0x10000 + off) data)) s = .next (s.hostBeat n off data) := by
  have tier : 8 ≤ tierOf (9 * 2 ^ 48 + n * 0x10000 + off) := by simp only [tierOf]; omega
  rw [exec_hostLinkAccess_write up ready, State.hostWrite_window port inside, State.lookUp_hostGranules_window tier]

/-- A beat of an enabled ingress window with room is taken under the ingress writer's next number (R21, R351). -/
theorem exec_hostLinkAccess_write_beat {n : Nat} (port : n < 32) (size : data.length = 64) (enabled : s.portEnabled n = true)
    (room : (s.port n).buffer.length < 64) :
    ∃ u, exec (.hostLinkAccess (.write (9 * 2 ^ 48 + n * 0x10000) data)) s = .next u ∧ u.mem = s.mem ∧ u.tiles = s.tiles ∧
      (u.port n).buffer = (s.port n).buffer ++ [BitVec.ofNat 512 (leBytes data)] ∧
      (u.writer (4944 + n / 4)).issued = (s.writer (4944 + n / 4)).issued + 1 := by
  have taken := exec_hostLinkAccess_write_window (data := data) up ready port (off := 0) (by decide)
  rw [State.hostBeat_taken size enabled room] at taken
  refine ⟨_, taken, rfl, rfl, ?_, ?_⟩
  · exact congrArg IngressPort.buffer (SMap.get_set_same _ _ _ _)
  · exact congrArg Writer.issued (SMap.get_set_same _ _ _ _)

end

/-! ### Device time -/

/-- The state whose device time has been moved: it keeps the time that it had as the least (R373). -/
def State.timeMoved (s : State) (by' : Int) : State := { s with nsAdded := s.nsAdded + by', nsFloor := s.ns, lastSlew := s.ticks }

theorem State.ns_le_timeMoved (s : State) (by' : Int) : s.ns ≤ (s.timeMoved by').ns := le_max_left _ _

section
variable {s : State} {forward : Bool} {ns : Nat}

theorem not_joins_iff : ¬ (forward = true ∧ s.timeJoined = false) ↔ s.timeJoined = true ∨ forward = false := by
  cases forward <;> simp

theorem exec_deviceTimeSlew_joins (h : forward = true ∧ s.timeJoined = false) :
    exec (.deviceTimeSlew forward ns) s = .next { s.timeMoved ns with timeJoined := true } := if_pos h

theorem exec_deviceTimeSlew_waits (h : s.timeJoined = true ∨ forward = false) (early : 1 < ns ∨ s.ticks < s.lastSlew + 4800) :
    exec (.deviceTimeSlew forward ns) s = .next s := by
  change execDeviceTimeSlew forward ns s = _
  rw [execDeviceTimeSlew, if_neg (not_joins_iff.mpr h), if_pos early]

theorem exec_deviceTimeSlew_slews (h : s.timeJoined = true ∨ forward = false) (step : ns ≤ 1) (due : s.lastSlew + 4800 ≤ s.ticks) :
    exec (.deviceTimeSlew forward ns) s = .next (s.timeMoved (if forward then ns else -(ns : Int))) := by
  change execDeviceTimeSlew forward ns s = _
  rw [execDeviceTimeSlew, if_neg (not_joins_iff.mpr h), if_neg (by omega)]
  rfl

theorem exec_deviceTimeSlew : ∃ u, exec (.deviceTimeSlew forward ns) s = .next u ∧ u.mem = s.mem ∧ u.tiles = s.tiles ∧ s.ns ≤ u.ns ∧
    (forward = true → s.timeJoined = false → u.nsAdded = s.nsAdded + ns ∧ u.timeJoined = true) ∧
    ((s.timeJoined = true ∨ forward = false) → (1 < ns ∨ s.ticks < s.lastSlew + 4800) → u = s) ∧
    ((s.timeJoined = true ∨ forward = false) → ns ≤ 1 → s.lastSlew + 4800 ≤ s.ticks → u.nsAdded = if forward then s.nsAdded + ns else s.nsAdded - ns) := by
  by_cases joins : forward = true ∧ s.timeJoined = false
  · have notJoined : ¬ (s.timeJoined = true ∨ forward = false) := fun h => not_joins_iff.mpr h joins
    exact ⟨_, exec_deviceTimeSlew_joins joins, rfl, rfl, s.ns_le_timeMoved ns, fun _ _ => ⟨rfl, rfl⟩, fun h => absurd h notJoined,
      fun h => absurd h notJoined⟩
  · have joined := not_joins_iff.mp joins
    by_cases early : 1 < ns ∨ s.ticks < s.lastSlew + 4800
    · exact ⟨s, exec_deviceTimeSlew_waits joined early, rfl, rfl, le_rfl, fun h h' => absurd ⟨h, h'⟩ joins, fun _ _ => rfl, fun _ _ _ => by omega⟩
    · refine ⟨_, exec_deviceTimeSlew_slews joined (by omega) (by omega), rfl, rfl, s.ns_le_timeMoved _, fun h h' => absurd ⟨h, h'⟩ joins,
        fun _ h => absurd h early, fun _ _ _ => ?_⟩
      cases forward <;> rfl

end

/-- Settles O59: each access and each move of device time does what its own lemma says. -/
theorem hostLinkAndTime : Obligations.HostLinkAndTime := by
  unfold Obligations.HostLinkAndTime
  refine ⟨fun s => rfl, fun s a down => ⟨?_, ?_⟩, fun s a ready => ?_, fun s pa len up early closed => ⟨?_, ?_⟩, fun s pa data up early closed => ⟨?_, ?_⟩,
    fun s pa len up admitted => ?_, fun s pa data up ready => ⟨?_, ?_, ?_, ?_, ?_, ?_⟩, fun s => rfl, fun s forward ns => exec_deviceTimeSlew⟩
  · exact exec_hostLinkAccess_closed (.inl down)
  · exact exec_hostRequestRefused_idle (.inr (.inr down))
  · exact exec_hostRequestRefused_idle (.inl ready)
  · exact exec_hostLinkAccess_closed (.inr ⟨early, Bool.eq_false_of_not_eq_true (mt earlyAccess_read.mp closed)⟩)
  · exact exec_hostRequestRefused_read up early (mt earlyAccess_read.mp closed)
  · exact exec_hostLinkAccess_closed (.inr ⟨early, Bool.eq_false_of_not_eq_true (mt earlyAccess_write.mp closed)⟩)
  · exact exec_hostRequestRefused_write up early (mt earlyAccess_write.mp closed)
  · exact exec_hostLinkAccess_read_answers up (admitted.imp_right earlyAccess_read.mpr)
  · intro tier aligned word
    rw [exec_hostLinkAccess_write_registers up ready tier, State.hostWords_word (by omega) word]
  · intro tier skip
    have place : pa % 2 ^ 48 % 8 = pa % 8 := by omega
    rw [exec_hostLinkAccess_write_registers up ready tier, State.hostWords, place]
  · exact exec_hostLinkAccess_write_bytes up ready
  · exact exec_hostLinkAccess_write_unbacked up ready
  · rintro n port rfl size enabled room
    exact exec_hostLinkAccess_write_beat up ready port size enabled room
  · rintro n off port inside rfl dropped
    rw [exec_hostLinkAccess_write_window up ready port inside, State.hostBeat_dropped dropped]

end Sys2Proof.Machine
end

section
/-! SUPPORT. The slot word as a row of fields (R37): reading the fields of a word and packing them undo each other, and so do the codes of the fields (R38, R39,
R47, R48, R69). Encoding and decoding are inverse to each other (O3, O4). -/

namespace Sys2Proof

open Machine

/-! ### Numbers as rows of fields -/

/-- The number whose lowest fields are the first of a list, each of its width. -/
def packFields : List Nat → List Nat → Nat
  | n :: ns, v :: vs => v + 2 ^ n * packFields ns vs
  | _, _ => 0

/-- The fields of the given widths of a number, the lowest first. -/
def readFields : List Nat → Nat → List Nat
  | [], _ => []
  | n :: ns, x => x % 2 ^ n :: readFields ns (x / 2 ^ n)

theorem packFields_readFields (ns : List Nat) (x : Nat) : packFields ns (readFields ns x) = x % 2 ^ ns.sum := by
  induction ns generalizing x with
  | nil => simp [packFields, Nat.mod_one]
  | cons n ns ih => rw [readFields, packFields, ih, List.sum_cons, pow_add, Nat.mod_mul]

theorem readFields_packFields {ns vs : List Nat} (fits : List.Forall₂ (fun n v => v < 2 ^ n) ns vs) : readFields ns (packFields ns vs) = vs := by
  induction fits with
  | nil => rfl
  | cons hv _ ih => rw [packFields, readFields, Nat.add_mul_mod_self_left, Nat.mod_eq_of_lt hv, Nat.add_mul_div_left _ _ (by positivity), Nat.div_eq_of_lt hv,
      Nat.zero_add, ih]

theorem packFields_lt {ns vs : List Nat} (fits : List.Forall₂ (fun n v => v < 2 ^ n) ns vs) : packFields ns vs < 2 ^ ns.sum := by
  induction fits with
  | nil => simp [packFields]
  | @cons n v ns vs hv _ ih =>
    rw [packFields, List.sum_cons, pow_add]
    calc v + 2 ^ n * packFields ns vs < 2 ^ n * (packFields ns vs + 1) := by rw [Nat.mul_add]; omega
      _ ≤ 2 ^ n * 2 ^ ns.sum := Nat.mul_le_mul_left _ ih

/-! ### The fields of a slot word -/

/-- The widths of R37, from bit 0: the guard with its two queue conditions, OPC, SUB, TYPE, PK, DST, A, B, C, PRED_REG, PRED_OP, ADV, the reserved bits, IMM. -/
def wordWidths : List Nat := [8, 8, 1, 2, 3, 6, 2, 3, 6, 8, 4, 4, 1, 6, 6, 6, 6, 3, 3, 8, 2, 32]

theorem wordWidths_sum : wordWidths.sum = 128 := rfl

/-- The fields of the word of a slot under an (OPC, SUB) pair. -/
def slotFields (opc sub : Nat) (f : Slot) : List Nat :=
  [f.pmask.toNat, f.pval.toNat, f.quant.toNat, (qcondFields f.q0).1, (qcondFields f.q0).2.1, (qcondFields f.q0).2.2, (qcondFields f.q1).1, (qcondFields f.q1).2.1,
   (qcondFields f.q1).2.2, opc, sub, f.ty.code, f.pk.toNat, f.dst.code, f.sa.code, f.sb.code, f.sc.code, f.predReg.val, f.predOp.code, f.adv.toNat, 0, f.imm.toNat]

theorem encodeSlot_eq_packFields (opc sub : Nat) (f : Slot) : encodeSlot opc sub f = BitVec.ofNat 128 (packFields wordWidths (slotFields opc sub f)) := by
  refine congrArg (BitVec.ofNat 128) ?_
  simp only [packFields, wordWidths, slotFields]
  omega

theorem readFields_word (w : Nat) : readFields wordWidths w =
    [bits w 0 8, bits w 8 8, bits w 16 1, bits w 17 2, bits w 19 3, bits w 22 6, bits w 28 2, bits w 30 3, bits w 33 6, bits w 39 8, bits w 47 4, bits w 51 4,
     bits w 55 1, bits w 56 6, bits w 62 6, bits w 68 6, bits w 74 6, bits w 80 3, bits w 83 3, bits w 86 8, bits w 94 2, bits w 96 32] := by
  simp only [readFields, wordWidths, bits, Nat.div_div_eq_div_mul, ← pow_add, Nat.reduceAdd, pow_zero, Nat.div_one]

/-! ### The codes of the fields -/

theorem Ty.ofCode_code (t : Ty) : Ty.ofCode t.code = some t := by cases t <;> rfl

theorem Ty.code_of_ofCode {c : Nat} {t : Ty} (h : Ty.ofCode c = some t) : t.code = c := by
  unfold Ty.ofCode at h
  split at h <;> cases h <;> rfl

theorem PredOp.ofCode_code (o : PredOp) : PredOp.ofCode o.code = some o := by cases o <;> rfl

theorem PredOp.code_of_ofCode {c : Nat} {o : PredOp} (h : PredOp.ofCode c = some o) : o.code = c := by
  unfold PredOp.ofCode at h
  split at h <;> cases h <;> rfl

theorem Opnd.ofCode_code (o : Opnd) : Opnd.ofCode o.code = some o := by
  cases o with
  | none | zr | imm | lix | htag | nul => rfl
  | d n | p n | i n | o n | ci n | co n => revert n; decide

theorem Opnd.code_of_ofCode {c : Nat} {o : Opnd} (h : Opnd.ofCode c = some o) : o.code = c := by
  unfold Opnd.ofCode at h
  repeat' split at h
  all_goals cases h
  all_goals simp only [Opnd.code]; omega

theorem Opnd.code_lt (o : Opnd) : o.code < 2 ^ 6 := by
  cases o <;> simp only [Opnd.code] <;> omega

theorem qcondOfFields_fields (q : QCond) : qcondOfFields (qcondFields q).1 (qcondFields q).2.1 (qcondFields q).2.2 = some q := by
  cases q with
  | none => rfl
  | beats ep k | free ep k => simp [qcondOfFields, qcondFields, Nat.mod_eq_of_lt ep.isLt]
  | tag ep t => simp [qcondOfFields, qcondFields, Nat.mod_eq_of_lt ep.isLt, t.isLt]

/-- A condition holds its three fields whole. -/
theorem qcondFields_of_ofFields {kind ep val : Nat} {q : QCond} (hkind : kind < 2 ^ 2) (hep : ep < 2 ^ 3) (hval : val < 2 ^ 6)
    (h : qcondOfFields kind ep val = some q) : qcondFields q = (kind, ep, val) := by
  obtain rfl | rfl | rfl | rfl : kind = 0 ∨ kind = 1 ∨ kind = 2 ∨ kind = 3 := by omega
  · simp only [qcondOfFields] at h
    split at h
    · next zero => cases h; simp [qcondFields, zero]
    · cases h
  · cases h; simpa [qcondFields] using And.intro hep hval
  · cases h; simpa [qcondFields] using And.intro hep hval
  · simp only [qcondOfFields] at h
    split at h
    · next small => cases h; simpa [qcondFields] using And.intro hep small
    · cases h

theorem qcondFields_lt (q : QCond) : (qcondFields q).1 < 2 ^ 2 ∧ (qcondFields q).2.1 < 2 ^ 3 ∧ (qcondFields q).2.2 < 2 ^ 6 := by
  cases q <;> simp only [qcondFields] <;> omega

/-- An instruction that the map names has the pair that it is named by (R69). -/
theorem toCode_ofCode {opc sub imm : Nat} {mk : Slot → Instr} (h : ofCode opc sub imm = some mk) (f : Slot) : toCode (mk f) = some (opc, sub, f) := by
  unfold ofCode at h
  repeat' split at h
  all_goals cases h
  all_goals rfl

/-! ### Instructions and their pairs -/

/-- The pair of an instruction fits its fields. -/
theorem toCode_lt {i : Instr} {opc sub : Nat} {f : Slot} (h : toCode i = some (opc, sub, f)) : opc < 2 ^ 8 ∧ sub < 2 ^ 4 := by
  cases i <;> simp only [toCode, Option.some.injEq, Prod.mk.injEq, reduceCtorEq] at h
  all_goals obtain ⟨rfl, rfl, -⟩ := h
  case cvt src _ => cases src <;> decide
  all_goals decide

/-- The instructions of FREC and FRSM, whose word does not tell the rows of FRSM apart (R475). -/
theorem toCode_faults {i : Instr} {sub : Nat} {f : Slot} (h : toCode i = some (0x83, sub, f)) :
    i = .frec f ∨ i = .frsmRetry f ∨ i = .frsmRetire f ∨ i = .frsmKill f := by
  cases i <;> simp only [toCode, Option.some.injEq, Prod.mk.injEq, reduceCtorEq, Nat.reduceEqDiff, false_and] at h
  all_goals obtain ⟨-, -, rfl⟩ := h
  all_goals simp

/-! ### The slot of a word -/

theorem ofNat_of_bits {n lo w : Nat} {v : BitVec n} (h : bits w lo n = v.toNat) : BitVec.ofNat n (w / 2 ^ lo) = v :=
  BitVec.eq_of_toNat_eq (by rw [BitVec.toNat_ofNat, ← h, bits])

theorem toNat_bitAt (w k : Nat) : (bitAt w k).toNat = bits w k 1 := by
  rw [bitAt, bits, pow_one]
  rcases Nat.mod_two_eq_zero_or_one (w / 2 ^ k) with h | h <;> rw [h] <;> rfl

theorem bitAt_of_bits {k w : Nat} {b : Bool} (h : bits w k 1 = b.toNat) : bitAt w k = b := by
  rw [← toNat_bitAt] at h
  revert h
  cases bitAt w k <;> cases b <;> decide

theorem bits_lt (w lo n : Nat) : bits w lo n < 2 ^ n := Nat.mod_lt _ (by positivity)

theorem slotFields_fit {opc sub : Nat} (hopc : opc < 2 ^ 8) (hsub : sub < 2 ^ 4) (f : Slot) :
    List.Forall₂ (fun n v => v < 2 ^ n) wordWidths (slotFields opc sub f) := by
  have htype : f.ty.code < 2 ^ 4 := by cases f.ty <;> decide
  have hpred : f.predOp.code < 2 ^ 3 := by cases f.predOp <;> decide
  simp only [wordWidths, slotFields, List.forall₂_cons, List.Forall₂.nil, and_true]
  exact ⟨f.pmask.isLt, f.pval.isLt, f.quant.toNat_lt, (qcondFields_lt f.q0).1, (qcondFields_lt f.q0).2.1, (qcondFields_lt f.q0).2.2, (qcondFields_lt f.q1).1,
    (qcondFields_lt f.q1).2.1, (qcondFields_lt f.q1).2.2, hopc, hsub, htype, f.pk.toNat_lt, f.dst.code_lt, f.sa.code_lt, f.sb.code_lt, f.sc.code_lt,
    f.predReg.isLt, hpred, f.adv.isLt, by decide, f.imm.isLt⟩

/-- The word of a slot holds its fields. -/
theorem readFields_encodeSlot {opc sub : Nat} (hopc : opc < 2 ^ 8) (hsub : sub < 2 ^ 4) (f : Slot) :
    readFields wordWidths (encodeSlot opc sub f).toNat = slotFields opc sub f := by
  have fits := slotFields_fit hopc hsub f
  have short := wordWidths_sum ▸ packFields_lt fits
  rw [encodeSlot_eq_packFields, BitVec.toNat_ofNat, Nat.mod_eq_of_lt short, readFields_packFields fits]

/-- A word that holds the fields of a slot is the slot's word: its fields are all of its bits. -/
theorem encodeSlot_of_fields {w : SlotWord} {opc sub : Nat} {f : Slot} (h : readFields wordWidths w.toNat = slotFields opc sub f) : encodeSlot opc sub f = w := by
  rw [encodeSlot_eq_packFields, ← h, packFields_readFields, wordWidths_sum, Nat.mod_eq_of_lt w.isLt, BitVec.ofNat_toNat, BitVec.setWidth_eq]

/-- The codes that the fields of a word must have for the word to name a slot. -/
structure NamesSlot (w : Nat) (f : Slot) : Prop where
  reserved : bits w 94 2 = 0
  ty : Ty.ofCode (bits w 51 4) = some f.ty
  predOp : PredOp.ofCode (bits w 83 3) = some f.predOp
  dst : Opnd.ofCode (bits w 56 6) = some f.dst
  sa : Opnd.ofCode (bits w 62 6) = some f.sa
  sb : Opnd.ofCode (bits w 68 6) = some f.sb
  sc : Opnd.ofCode (bits w 74 6) = some f.sc
  q0 : qcondOfFields (bits w 17 2) (bits w 19 3) (bits w 22 6) = some f.q0
  q1 : qcondOfFields (bits w 28 2) (bits w 30 3) (bits w 33 6) = some f.q1
  slot : slotOfWord w f.ty f.predOp = f

/-- A word names a slot just when it holds the slot's fields. -/
theorem fields_iff {w opc sub : Nat} {f : Slot} :
    readFields wordWidths w = slotFields opc sub f ↔ bits w 39 8 = opc ∧ bits w 47 4 = sub ∧ bits w 96 32 = f.imm.toNat ∧ NamesSlot w f := by
  constructor
  · intro h
    simp only [readFields_word, slotFields, List.cons.injEq, and_true] at h
    obtain ⟨hpmask, hpval, hquant, hkind0, hep0, hval0, hkind1, hep1, hval1, hopc, hsub, hty, hpk, hdst, hsa, hsb, hsc, hreg, hop, hadv, hreserved, himm⟩ := h
    have q0 : qcondOfFields (bits w 17 2) (bits w 19 3) (bits w 22 6) = some f.q0 := by rw [hkind0, hep0, hval0, qcondOfFields_fields]
    have q1 : qcondOfFields (bits w 28 2) (bits w 30 3) (bits w 33 6) = some f.q1 := by rw [hkind1, hep1, hval1, qcondOfFields_fields]
    have dst : Opnd.ofCode (bits w 56 6) = some f.dst := by rw [hdst, Opnd.ofCode_code]
    have sa : Opnd.ofCode (bits w 62 6) = some f.sa := by rw [hsa, Opnd.ofCode_code]
    have sb : Opnd.ofCode (bits w 68 6) = some f.sb := by rw [hsb, Opnd.ofCode_code]
    have sc : Opnd.ofCode (bits w 74 6) = some f.sc := by rw [hsc, Opnd.ofCode_code]
    refine ⟨hopc, hsub, himm, hreserved, by rw [hty, Ty.ofCode_code], by rw [hop, PredOp.ofCode_code], dst, sa, sb, sc, q0, q1, ?_⟩
    have pmask : BitVec.ofNat 8 w = f.pmask := by simpa using ofNat_of_bits hpmask
    simp only [slotOfWord, pmask, ofNat_of_bits hpval, bitAt_of_bits hquant, q0, q1, bitAt_of_bits hpk, dst, sa, sb, sc, ofNat_of_bits hadv, ofNat_of_bits himm,
      hreg, Option.getD_some]
  · rintro ⟨rfl, rfl, -, h⟩
    have q0 := qcondFields_of_ofFields (bits_lt ..) (bits_lt ..) (bits_lt ..) h.q0
    have q1 := qcondFields_of_ofFields (bits_lt ..) (bits_lt ..) (bits_lt ..) h.q1
    have slot := h.slot
    rw [readFields_word, slotFields, q0, q1, h.reserved, Ty.code_of_ofCode h.ty, PredOp.code_of_ofCode h.predOp, Opnd.code_of_ofCode h.dst, Opnd.code_of_ofCode h.sa,
      Opnd.code_of_ofCode h.sb, Opnd.code_of_ofCode h.sc, ← slot]
    simp [slotOfWord, toNat_bitAt, bits]

/-! ### What the decoder accepts -/

theorem slotStatus_eq_ok {opc sub : Nat} {row : OpRow} {f : Slot} : slotStatus opc sub row f = .ok ↔
    (row.types.has f.ty && cvtTypesOk opc sub f.ty) = true ∧ formOk opc row f = true ∧ operandsOk opc sub row f = true ∧ guardOk f = true := by
  unfold slotStatus
  cases hty : row.types.has f.ty && cvtTypesOk opc sub f.ty
  · simp
  cases hform : formOk opc row f
  · simp
  cases hops : operandsOk opc sub row f
  · simp
  cases guardOk f <;> simp

/-- The decoder reads from the word of a slot the instruction that the map names for its pair, if the slot passes the checks (R71, R74). -/
theorem decode_of_fields {w : SlotWord} {opc sub : Nat} {f : Slot} {row : OpRow} {mk : Slot → Instr}
    (fields : readFields wordWidths w.toNat = slotFields opc sub f) (hmk : ofCode opc sub f.imm.toNat = some mk) (hrow : opRow opc sub = some row)
    (ok : slotStatus opc sub row f = .ok) : decode w = .ok (mk f) := by
  obtain ⟨rfl, rfl, himm, names⟩ := fields_iff.mp fields
  obtain ⟨types, form, operands, guard⟩ := slotStatus_eq_ok.mp ok
  simp only [decode, himm, hmk, hrow, names.reserved, names.ty, names.predOp, names.slot, names.dst, names.sa, names.sb, names.sc, names.q0, names.q1, types, form,
    operands, guard, Option.isNone_some, Bool.not_true, Bool.or_self, Bool.false_eq_true, if_false, ne_eq, not_true_eq_false]

/-- Whatever the decoder accepts is the word of a slot that passes the checks. -/
theorem fields_of_decode {w : SlotWord} {i : Instr} (h : decode w = .ok i) : ∃ opc sub f row mk, readFields wordWidths w.toNat = slotFields opc sub f ∧
    ofCode opc sub f.imm.toNat = some mk ∧ opRow opc sub = some row ∧ slotStatus opc sub row f = .ok ∧ i = mk f := by
  unfold decode at h
  simp only at h
  repeat' split at h
  all_goals cases h
  next reserved _ _ mk row hmk hrow _ ty hty types _ predOp hop form known operands conds guard =>
    simp only [Bool.or_eq_true, not_or, Option.isNone_iff_eq_none, Option.ne_none_iff_exists'] at known conds
    obtain ⟨⟨⟨⟨dst, hdst⟩, sa, hsa⟩, sb, hsb⟩, sc, hsc⟩ := known
    obtain ⟨⟨q0, hq0⟩, q1, hq1⟩ := conds
    have himm : (slotOfWord w.toNat ty predOp).imm.toNat = bits w.toNat 96 32 := by simp [slotOfWord, bits]
    have names : NamesSlot w.toNat (slotOfWord w.toNat ty predOp) :=
      { reserved := not_not.mp reserved, ty := hty, predOp := hop, slot := rfl
        dst := by simp [slotOfWord, hdst], sa := by simp [slotOfWord, hsa], sb := by simp [slotOfWord, hsb], sc := by simp [slotOfWord, hsc]
        q0 := by simp [slotOfWord, hq0], q1 := by simp [slotOfWord, hq1] }
    exact ⟨_, _, slotOfWord w.toNat ty predOp, row, mk, fields_iff.mpr ⟨rfl, rfl, himm.symm, names⟩, himm ▸ hmk, hrow,
      slotStatus_eq_ok.mpr ⟨by simpa [slotOfWord] using types, by simpa using form, by simpa using operands, by simpa using guard⟩, rfl⟩

/-! ### The obligations -/

theorem encode_eq_some {i : Instr} {w : SlotWord} (h : encode i = some w) : ∃ opc sub f, toCode i = some (opc, sub, f) ∧ w = encodeSlot opc sub f := by
  unfold encode at h
  split at h
  · cases h
  · next opc sub f code => exact ⟨opc, sub, f, code, (Option.some.inj h).symm⟩

/-- What the well-formedness of a slot instruction rests on. -/
theorem wf_of_toCode {i : Instr} {opc sub : Nat} {f : Slot} (code : toCode i = some (opc, sub, f)) :
    i.wf = true ↔ ∃ row mk, opRow opc sub = some row ∧ slotStatus opc sub row f = .ok ∧ ofCode opc sub f.imm.toNat = some mk ∧ (mk f = i ∨ opc = 0x83) := by
  simp only [Instr.wf, code]
  cases opRow opc sub with
  | none => simp
  | some row => cases ofCode opc sub f.imm.toNat <;> simp

/-- The instruction that the decoder reads from the word of an instruction: the three rows of FRSM share one word (R475). -/
def asRead : Instr → Instr
  | .frsmRetire f => .frsmRetry f
  | .frsmKill f => .frsmRetry f
  | i => i

theorem asRead_of_code {i : Instr} {opc sub : Nat} {f : Slot} (code : toCode i = some (opc, sub, f)) (other : opc ≠ 0x83) : asRead i = i := by
  unfold asRead
  split
  · cases code; exact absurd rfl other
  · cases code; exact absurd rfl other
  · rfl

/-- The map names for the pair of a well-formed instruction the one that is read from its word. -/
theorem mk_eq_asRead {i : Instr} {opc sub : Nat} {f : Slot} {mk : Slot → Instr} (code : toCode i = some (opc, sub, f))
    (hmk : ofCode opc sub f.imm.toNat = some mk) (named : mk f = i ∨ opc = 0x83) : mk f = asRead i := by
  by_cases fault : opc = 0x83
  · subst fault
    obtain rfl | rfl | rfl | rfl := toCode_faults code <;> cases code <;> cases hmk <;> rfl
  · rw [asRead_of_code code fault, named.resolve_right fault]

/-- Settles O3: the word holds the fields of the slot, and the decoder reads the slot that a word's fields name. -/
theorem encodedInstructionDecodes : Obligations.EncodedInstructionDecodes := by
  intro i w wf enc
  obtain ⟨opc, sub, f, code, rfl⟩ := encode_eq_some enc
  obtain ⟨row, mk, hrow, ok, hmk, named⟩ := (wf_of_toCode code).mp wf
  obtain ⟨hopc, hsub⟩ := toCode_lt code
  rw [decode_of_fields (readFields_encodeSlot hopc hsub f) hmk hrow ok, mk_eq_asRead code hmk named]
  rfl

/-- Settles O4: what the decoder accepts is the word of a slot, which the fields determine. -/
theorem decodedWordEncodes : Obligations.DecodedWordEncodes := by
  intro w i h
  obtain ⟨opc, sub, f, row, mk, fields, hmk, hrow, ok, rfl⟩ := fields_of_decode h
  have code := toCode_ofCode hmk f
  exact ⟨(wf_of_toCode code).mpr ⟨row, mk, hrow, ok, hmk, .inl rfl⟩, by simp only [encode, code, encodeSlot_of_fields fields]⟩

/-- A reserved bit refuses a word before any other check (R71, R75). -/
theorem decode_reserved {w : SlotWord} (h : bits w.toNat 94 2 ≠ 0) : decode w = .error .reservedBit := by
  simp only [decode, if_pos h]

/-- A word that encodes a well-formed instruction, not one of FRSM's, decodes to it. -/
theorem decode_encode {i : Instr} {w : SlotWord} (wf : i.wf = true) (enc : encode i = some w) (own : asRead i = i) : decode w = .ok i :=
  (encodedInstructionDecodes i w wf enc).trans (congrArg Except.ok own)

/-- Settles O2: each word is that of a well-formed instruction, and the check of the reserved bits is the first. -/
theorem wordsDecode : Obligations.WordsDecode :=
  ⟨⟨decode_encode (by decide) (by decide) rfl, decode_encode (by decide) (by decide) rfl, decode_encode (by decide) (by decide) rfl⟩,
    fun _ h => decode_reserved h⟩

end Sys2Proof
end

section
/-! SUPPORT. One step of the machine: whose turn it is, and what an element's turn executes (O1). -/

namespace Sys2Proof.Machine

open Sys2Proof

theorem State.takeTurn_listed {s : State} {turn : Turn} {rest : List Turn} (h : s.agenda = turn :: rest) :
    s.takeTurn = (turn, { s with steps := s.steps + 1, ticks := s.ticks + Config.elapsed s.steps, agenda := rest }) := by
  simp only [State.takeTurn, h]

theorem step_element {s : State} {t : Nat} (h : s.takeTurn.1 = .element t) : step s = elementStep t s.takeTurn.2 := by
  simp only [step, h]

theorem step_event {s : State} {i : Instr} (h : s.takeTurn.1 = .event i) : step s = exec i s.takeTurn.2 := by
  simp only [step, h]

theorem elementStep_idle {t : Nat} {s : State} (h : ((s.wake t).useWitnesses t).arbitrate t = none) : elementStep t s = .next ((s.wake t).useWitnesses t) := by
  unfold elementStep
  dsimp only
  rw [h]

theorem elementStep_runs {t c slot : Nat} {i : Instr} {s : State} (h : ((s.wake t).useWitnesses t).arbitrate t = some (c, slot))
    (word : ((s.wake t).useWitnesses t).slotInstr t c slot = .ok i) :
    elementStep t s = exec i { (s.wake t).useWitnesses t with cur := { tile := t, ctx := c, slot := slot } } := by
  unfold elementStep
  dsimp only
  rw [h]
  dsimp only
  rw [word]

/-- Settles O1: the turn taken is an element's, whose arbiter picks a slot or none, or an event's. -/
theorem stepRunsDecoded : Obligations.StepRunsDecoded :=
  ⟨fun _ _ _ => State.takeTurn_listed, fun _ _ _ _ _ turn picked word => (step_element turn).trans (elementStep_runs picked word),
    fun _ _ turn idle => (step_element turn).trans (elementStep_idle idle), fun _ _ => step_event⟩

end Sys2Proof.Machine
end

section
/-! SUPPORT. Stencil instructions at their firing (R427): what a firing with no lane of E leaves, what waiting for a result leaves, and the three outcomes of a
stencil instruction (O40). -/

namespace Sys2Proof.Machine

open Sys2Proof

/-! ### States that hold the same tiles -/

/-- No read of a tile tells the two states apart, and beside the tiles they are equal: a context written back as it was leaves such a state. -/
structure SameTiles (s t : State) : Prop where
  tile : ∀ k, t.tile k = s.tile k
  rest : { t with tiles := s.tiles } = s

theorem SameTiles.refl (s : State) : SameTiles s s := ⟨fun _ => rfl, rfl⟩

theorem SameTiles.trans {s t u : State} (h : SameTiles s t) (h' : SameTiles t u) : SameTiles s u :=
  ⟨fun k => (h'.tile k).trans (h.tile k), (congrArg (fun x : State => { x with tiles := s.tiles }) h'.rest).trans h.rest⟩

theorem SameTiles.ctx {s t : State} (h : SameTiles s t) (k c : Nat) : t.ctx k c = s.ctx k c := by
  rw [State.ctx, State.ctx, h.tile]

theorem set8_at8 {α : Type} (v : Vector α 8) (n : Nat) : set8 v n (at8 v n) = v := by
  simp [set8, at8]

theorem SameTiles.setCtx_self (s : State) (t c : Nat) : SameTiles s (s.setCtx t c (s.ctx t c)) := by
  refine ⟨fun k => ?_, rfl⟩
  by_cases hk : k = t
  · subst hk
    simp [State.setCtx, State.ctx, Tile.setCtx, Tile.ctx, set8_at8]
  · exact tile_setCtx_other s hk c _

theorem SameTiles.setTile {s t : State} (h : SameTiles s t) (k : Nat) (tl : Tile) : SameTiles (s.setTile k tl) (t.setTile k tl) := by
  refine ⟨fun j => ?_, congrArg (fun x : State => { x with tiles := (s.setTile k tl).tiles }) h.rest⟩
  by_cases hj : j = k
  · subst hj; simp
  · rw [tile_setTile_other _ hj, tile_setTile_other _ hj, h.tile]

theorem SameTiles.finished {s t : State} (h : SameTiles s t) (i : Instr) (s0 : State) (fr : Firing) :
    SameTiles (s.finished i s0 fr) (t.finished i s0 fr) := by
  unfold State.finished State.afterFiring State.raise State.setCtx
  simp only [tile_setTile_same, h.ctx, h.tile]
  exact (h.setTile _ _).setTile _ _

/-- The effect of a lane result speaks of tiles by what is read of them. -/
theorem LaneEffect.congr {i : Instr} {s : State} {fr : Firing} {val : Nat → Nat} {c : Nat → Bool} {fl : Nat → FpFlags} {t t' : State} (h : SameTiles t t')
    (eff : LaneEffect i s fr val c fl t') : LaneEffect i s fr val c fl t := by
  have outside : t = { t' with tiles := t.tiles } := h.rest.symm
  obtain ⟨dest, keeps, pred, flags, ins, sent, outs, ctx, siblings, tile, last, tiles, rest, quiet⟩ := eff
  simp only [h.ctx, h.tile] at dest keeps pred flags ins sent outs ctx siblings tile last tiles quiet
  refine ⟨dest, keeps, pred, flags, ins, sent, outs, ctx, siblings, tile, last, tiles, ?_, fun none => ⟨?_, (quiet none).2⟩⟩
  · exact (congrArg (fun x : State => { x with tiles := s.tiles, accesses := s.accesses, nextAccess := s.nextAccess, writers := s.writers }) outside).trans rest
  · exact (congrArg (fun x : State => { x with tiles := s.tiles }) outside).trans (quiet none).1

/-! ### No lane of E -/

theorem predOp_apply_empty (op : PredOp) (w : Nat) (cond p : Mask) : PredOp.apply op (widenMask w 0) cond p = p := by
  refine BitVec.eq_of_getLsbD_eq fun b hb => ?_
  rw [predOp_bit _ _ _ _ hb, widenMask, maskOf_bit _ hb]
  simp [laneOn]

theorem updatePred_empty (s : State) (t c : Nat) (op : PredOp) (reg : Fin 8) (w : Nat) (cond : Mask) :
    SameTiles s (s.updatePred t c op reg (widenMask w 0) cond) := by
  unfold State.updatePred
  simp only
  split
  · exact SameTiles.refl s
  · rw [predOp_apply_empty, Ctx.setP, set8_at8]
    exact SameTiles.setCtx_self s t c

theorem raise_zero (s : State) (t c : Nat) : SameTiles s (s.raise t c 0) := by
  have same : (s.ctx t c).flags ||| 0 = (s.ctx t c).flags := BitVec.or_zero
  rw [State.raise, same]
  exact SameTiles.setCtx_self s t c

/-- With no lane of E a lane result leaves what writing its destination leaves (R45): predicates and flags are written back as they were. -/
theorem applyLanes_empty {fr : Firing} (s : State) (he : fr.e = 0) (hd : ∀ k, fr.f.dst ≠ .p k) :
    SameTiles (s.writeDest fr.t fr.c fr.slot fr.f.dst fr.w 0 []) (applyLanes s fr ⟨[], [], []⟩) := by
  have pred : ∀ (u : State) (e cond : Mask), u.writePred fr.t fr.c fr.f.dst e cond = u := by
    intro u e cond
    unfold State.writePred
    split
    · next k dst => exact absurd dst (hd k)
    · rfl
  rw [applyLanes, pred, he]
  exact (updatePred_empty ..).trans (raise_zero ..)

/-- A firing with no lane of E that writes its destination so has the effect of a result of no lanes (R45). -/
theorem writeDest_empty_effect {i : Instr} {s : State} {fr : Firing} (place : fr.t = s.cur.tile ∧ fr.c = s.cur.ctx) (hw : fr.w = 32 ∨ fr.w = 64)
    (he : fr.e = 0) (hd : ∀ k, fr.f.dst ≠ .p k) :
    LaneEffect i s fr (fun _ => 0) (fun _ => false) (fun _ => 0) ((s.writeDest fr.t fr.c fr.slot fr.f.dst fr.w 0 []).finished i s fr) :=
  LaneEffect.congr ((applyLanes_empty s he hd).finished i s fr)
    (applyLanes_effect ⟨[], [], []⟩ _ _ _ place hw (fun _ _ => rfl) (fun _ _ => rfl) (by simp [flagsOver, Firing.gather]))

/-- A form of 32-bit lanes has no lane of E only when E is empty. -/
theorem e_of_any_false {fr : Firing} (hw : fr.w = 32) (h : fr.any = false) : fr.e = 0 := by
  refine BitVec.eq_of_getLsbD_eq fun b hb => ?_
  have lane := List.any_eq_false.mp h b (by simp [Firing.n, hw, hb])
  simpa [Firing.on, laneOn, hw] using lane

/-! ### A result that comes later -/

theorem Kept.outstanding {t c : Nat} {s s' : State} (h : Kept t c s s') : s'.outstanding = s.outstanding := by
  have := congrArg State.outstanding h.rest
  exact this

theorem Kept.stencils {t c : Nat} {s s' : State} (h : Kept t c s s') : s'.stencils = s.stencils := by
  have := congrArg State.stencils h.rest
  exact this

theorem Kept.stencilCmds {t c : Nat} {s s' : State} (h : Kept t c s s') : s'.stencilCmds = s.stencilCmds := by
  have := congrArg State.stencilCmds h.rest
  exact this

/-- Waiting for a result changes no more of the firing's context than its output endpoints (R262, R263). -/
theorem expect_keeps (s : State) (t c slot : Nat) (o : Outstanding) : ∃ u outs, s.expect t c slot o = { u with outstanding := u.outstanding ++ [o] } ∧
    Kept t c s u ∧ u.ctx t c = { s.ctx t c with outs := outs } := by
  unfold State.expect
  split
  · next n dst =>
    obtain ⟨kept, outs, hctx⟩ := setOuts_keeps s t c slot n.val (at8 (s.ctx t c).outs n.val ++ [.held o.id (at8 (s.ctx t c).tags n.val)])
    exact ⟨_, _, rfl, kept, hctx⟩
  · exact ⟨s, (s.ctx t c).outs, rfl, Kept.refl t c s, rfl⟩

/-- A firing whose effects leave its registers, predicates, flags and inputs has the registers that statements name. -/
theorem sameRegisters_finished {i : Instr} {s u : State} {fr : Firing} (place : fr.t = s.cur.tile ∧ fr.c = s.cur.ctx)
    (h : ∃ outs, u.ctx fr.t fr.c = { s.ctx fr.t fr.c with outs := outs }) : SameRegisters i s (u.finished i s fr) fr := by
  obtain ⟨ht, hc⟩ := place
  obtain ⟨outs, hctx⟩ := h
  have last : (u.finished i s fr).ctx fr.t fr.c =
      ({ s.ctx fr.t fr.c with outs := outs, flags := (s.ctx fr.t fr.c).flags ||| fr.decodeFlags } : Ctx).consume (advMask i (s.ctx fr.t fr.c) fr.f) := by
    rw [State.finished, ← ht, ← hc, afterFiring_ctx, raise_ctx, hctx]
  rw [SameRegisters, last]
  exact ⟨fun k => ⟨rfl, rfl, at8_consume _ _ k⟩, rfl⟩

/-! ### Stencil instructions -/

/-- A stencil instruction: the row of opcode 0x70 that it has, and what it does at its firing (R427). -/
structure IsStencil (mk : Slot → Instr) (sub : Nat) : Prop where
  fires : ∀ f s, exec (mk f) s = fire (mk f) (stencilBody sub) s
  code : ∀ f, toCode (mk f) = some (0x70, sub, f)
  width : ∀ f, formWidth (mk f) f = f.ty.laneWidth

/-- The selector of a firing names bits that are reserved, or a column outside its domain (R427). -/
def Firing.badSelector (s : State) (fr : Firing) : Prop :=
  fr.a64 0 / 2 ^ 16 ≠ 0 ∨ s.domainOf (sectorOfColumn (fr.a64 0 / 2 ^ 6 % 64)) ≠ s.tileDomain fr.t

/-- The address that a stencil instruction's operands give, 0 where they give none (R429). -/
def Firing.stencilAddress (fr : Firing) (sub : Nat) : Nat := if sub = 0 then fr.a64 2 else if sub = 2 ∨ sub = 6 ∨ sub = 7 then fr.b64 0 else 0

/-- The command that a stencil instruction sends. -/
def Firing.stencilCmd (fr : Firing) (s : State) (sub : Nat) : StencilCmd :=
  { id := s.nextAccess, column := fr.a64 0 / 2 ^ 6 % 64, sub := sub, a := fr.a.val, b := fr.b.val, e := fr.e, tile := fr.t, ctx := fr.c, slot := fr.slot,
    asid := (s.tile fr.t).asid, number := none }

/-- The destination of a stencil instruction, which waits for the command's result. -/
def Firing.stencilResult (fr : Firing) (s : State) : Outstanding :=
  { id := s.nextAccess, tile := fr.t, ctx := fr.c, slot := fr.slot, dst := fr.f.dst, e := fr.e, w := 64, n := 8, predReg := fr.f.predReg,
    predOp := fr.f.predOp, witness := none, quiet := false }

/-- The command sent: only GINI has no destination that waits for it. -/
def State.sendStencil (s : State) (sub : Nat) (fr : Firing) : State :=
  let s1 := if sub = 0 then s else s.expect fr.t fr.c fr.slot (fr.stencilResult s)
  { s1 with nextAccess := s.nextAccess + 1, stencilCmds := s1.stencilCmds ++ [fr.stencilCmd s sub] }

theorem selectorColumn_eq (fr : Firing) : selectorColumn fr.a.val = fr.a64 0 / 2 ^ 6 % 64 := by
  simp only [selectorColumn, bits, Firing.a64, lane]
  omega

theorem badSelector_iff {s : State} {fr : Firing} : fr.badSelector s ↔
    bits (fr.a64 0) 16 48 ≠ 0 ∨ s.domainOf (sectorOfColumn (selectorColumn fr.a.val)) ≠ s.tileDomain fr.t := by
  have reserved : bits (fr.a64 0) 16 48 = fr.a64 0 / 2 ^ 16 := by
    simp only [bits, Firing.a64, lane]
    omega
  rw [Firing.badSelector, reserved, selectorColumn_eq]

/-- Only an address that the operands give can be misaligned. -/
theorem misaligned_stencilAddress (sub : Nat) (fr : Firing) :
    ((Machine.stencilAddress sub fr.a.val fr.b.val).bind fun x => if x % 64 ≠ 0 then some x else none) =
      if fr.stencilAddress sub % 64 ≠ 0 then some (fr.stencilAddress sub) else none := by
  unfold Machine.stencilAddress Firing.stencilAddress
  split
  · rfl
  · rfl
  · rfl
  · rfl
  · next h0 h2 h6 h7 =>
    rw [if_neg h0, if_neg (not_or.mpr ⟨h2, not_or.mpr ⟨h6, h7⟩⟩)]
    rfl

theorem stencilBody_empty {sub : Nat} {s : State} {fr : Firing} (h : fr.any = false) :
    stencilBody sub s fr = .done (s.writeDest fr.t fr.c fr.slot fr.f.dst 64 0 []) := by
  simp [stencilBody, h]

theorem stencilBody_range {sub : Nat} {s : State} {fr : Firing} (h : fr.any = true) (bad : fr.badSelector s) : stencilBody sub s fr =
    .stop { cls := 11, cause := 11, detail := BitVec.ofNat 128 (fr.a64 0 % 64 + fr.a64 0 / 64 % 64 * 2 ^ 8) } := by
  rw [badSelector_iff] at bad
  simp only [stencilBody, h, Bool.not_true, Bool.false_eq_true, if_false, if_pos bad]
  rw [selectorColumn_eq]
  simp [bits]

theorem stencilBody_align {sub : Nat} {s : State} {fr : Firing} (h : fr.any = true) (good : ¬ fr.badSelector s) (odd : fr.stencilAddress sub % 64 ≠ 0) :
    stencilBody sub s fr = .stop { cls := 3, cause := 1, address := fr.stencilAddress sub } := by
  rw [badSelector_iff] at good
  simp only [stencilBody, h, Bool.not_true, Bool.false_eq_true, if_false, if_neg good, misaligned_stencilAddress, if_pos odd]

theorem stencilBody_sends {sub : Nat} {s : State} {fr : Firing} (h : fr.any = true) (good : ¬ fr.badSelector s) (even : fr.stencilAddress sub % 64 = 0) :
    stencilBody sub s fr = .done (s.sendStencil sub fr) := by
  rw [badSelector_iff] at good
  simp only [stencilBody, h, Bool.not_true, Bool.false_eq_true, if_false, if_neg good, misaligned_stencilAddress, if_neg (not_not.mpr even)]
  rw [selectorColumn_eq]
  rfl

section
variable {mk : Slot → Instr} {sub : Nat}

/-- What the opcode map says of the stencil rows: TYPE is 0, A is read, and the destination takes no predicate. -/
theorem opRow_stencil {row : OpRow} (h : opRow 0x70 sub = some row) : row.types = .n ∧ row.a.reads = true ∧ ∀ k, row.d.takes (.p k) = false := by
  simp only [opRow] at h
  split at h <;> cases h <;> exact ⟨rfl, rfl, fun _ => rfl⟩

variable (st : IsStencil mk sub) {f : Slot} {s : State} {fr : Firing}
include st

theorem IsStencil.reads (firing : s.firingOf (mk f) = some fr) : readsSources (mk f) = true := by
  obtain ⟨opc, opSub, g, row, code, hrow, -⟩ := firingOf_some firing
  rw [st.code] at code
  cases code
  simp only [readsSources, st.code, hrow, (opRow_stencil hrow).2.1, Bool.true_or]

/-- The slot of a well-formed stencil instruction has 32-bit lanes and no predicate destination. -/
theorem IsStencil.slot (wf : (mk f).wf = true) (firing : s.firingOf (mk f) = some fr) : fr.w = 32 ∧ ∀ k, fr.f.dst ≠ .p k := by
  obtain ⟨row, _, hrow, ok, -⟩ := (wf_of_toCode (st.code f)).mp wf
  obtain ⟨types, -, operands, -⟩ := slotStatus_eq_ok.mp ok
  obtain ⟨htypes, -, hd⟩ := opRow_stencil hrow
  obtain ⟨hf, hw⟩ := firingOf_slot (st.code f) firing
  rw [htypes] at types
  have ty : f.ty = .none := by simpa [TyClass.has] using (Bool.and_eq_true_iff.mp types).1
  refine ⟨by rw [hw, st.width, ty]; rfl, fun k dst => ?_⟩
  rw [hf] at dst
  simp [operandsOk, dst, hd] at operands

theorem IsStencil.halts {cond : State → Firing → Prop} {info : State → Firing → FaultInfo} (body : ∀ s fr, cond s fr → stencilBody sub s fr = .stop (info s fr)) :
    Halts mk true cond info := by
  intro f s fr _ firing holds
  rw [st.fires, fire_of _ firing, body s fr holds, st.reads firing]

/-- With no lane of E nothing is sent (R45). -/
theorem IsStencil.empty : LaneSpecOn mk (fun _ fr => fr.any = false) (fun s _ => s) Firing.as64 (fun _ _ _ => 0) (fun _ _ _ => false) (fun _ _ _ => 0) := by
  intro f s fr wf firing none
  obtain ⟨width, noPred⟩ := st.slot wf firing
  obtain ⟨ht, hc, -⟩ := firingOf_place firing
  refine ⟨_, by rw [st.fires, fire_of _ firing, stencilBody_empty none], ?_⟩
  exact writeDest_empty_effect (fr := fr.as64) ⟨ht, hc⟩ (.inr rfl) (e_of_any_false (fr := fr) width none) noPred

end

/-- What a state with a command sent keeps: another context's and other units' state, and the registers of the firing's context. -/
theorem sendStencil_keeps (s : State) (sub : Nat) (fr : Firing) : ∃ u outs, Kept fr.t fr.c s u ∧ u.ctx fr.t fr.c = { s.ctx fr.t fr.c with outs := outs } ∧
    s.sendStencil sub fr = { u with
      outstanding := if sub = 0 then s.outstanding else s.outstanding ++ [fr.stencilResult s], nextAccess := s.nextAccess + 1,
      stencilCmds := s.stencilCmds ++ [fr.stencilCmd s sub] } := by
  by_cases gini : sub = 0
  · refine ⟨s, (s.ctx fr.t fr.c).outs, Kept.refl .., rfl, ?_⟩
    simp only [State.sendStencil, if_pos gini]
  · obtain ⟨u, outs, eq, kept, hctx⟩ := expect_keeps s fr.t fr.c fr.slot (fr.stencilResult s)
    refine ⟨u, outs, kept, hctx, ?_⟩
    simp only [State.sendStencil, if_neg gini, eq, kept.outstanding, kept.stencilCmds]

theorem IsStencil.sends {mk : Slot → Instr} {sub : Nat} (st : IsStencil mk sub) {f : Slot} {s : State} {fr : Firing} (firing : s.firingOf (mk f) = some fr)
    (any : fr.any = true) (good : ¬ fr.badSelector s) (even : fr.stencilAddress sub % 64 = 0) :
    ∃ t, exec (mk f) s = .next t ∧ SameRegisters (mk f) s t fr ∧ t.mem = s.mem ∧ t.stencils = s.stencils ∧ (∀ k, k ≠ fr.t → t.tile k = s.tile k) ∧
      t.stencilCmds = s.stencilCmds ++ [fr.stencilCmd s sub] ∧ (sub = 0 → t.outstanding = s.outstanding) ∧ (sub ≠ 0 → AwaitEffect (mk f) s fr t) := by
  obtain ⟨ht, hc, -⟩ := firingOf_place firing
  obtain ⟨u, outs, kept, hctx, eq⟩ := sendStencil_keeps s sub fr
  have regs : SameRegisters (mk f) s ((s.sendStencil sub fr).finished (mk f) s fr) fr := sameRegisters_finished ⟨ht, hc⟩ ⟨outs, by rw [eq]; exact hctx⟩
  have tiles : ∀ k, k ≠ fr.t → ((s.sendStencil sub fr).finished (mk f) s fr).tile k = s.tile k := by
    intro k hk
    rw [ht] at hk
    rw [State.finished, (afterFiring_keeps _ _ _ _).tiles k hk, (raise_keeps _ _ _ _).tiles k hk, eq]
    exact kept.tiles k (ht ▸ hk)
  refine ⟨_, by rw [st.fires, fire_of _ firing, stencilBody_sends any good even], regs, ?_, ?_, tiles, ?_, ?_, ?_⟩
  · rw [eq]; exact kept.mem
  · rw [eq]; exact kept.stencils
  · rw [eq]; rfl
  · intro gini
    rw [eq]
    exact if_pos gini
  · intro waits
    have outstanding : ((s.sendStencil sub fr).finished (mk f) s fr).outstanding = s.outstanding ++ [fr.stencilResult s] := by rw [eq]; exact if_neg waits
    exact ⟨regs, ⟨_, outstanding, rfl, rfl, rfl, rfl, rfl, rfl, rfl, rfl⟩, by rw [eq]; exact kept.mem, tiles⟩

/-- Settles O40: each stencil instruction sends nothing, halts or sends its command, as its operands say. -/
theorem stencilCommandsSent : Obligations.StencilCommandsSent := by
  intro p hp
  have st : IsStencil p.1 p.2 := by
    simp only [List.mem_cons, List.not_mem_nil, or_false] at hp
    obtain rfl | rfl | rfl | rfl | rfl | rfl | rfl | rfl | rfl := hp <;> exact ⟨fun _ _ => rfl, fun _ => rfl, fun _ => rfl⟩
  exact ⟨st.empty, st.halts fun _ _ ⟨any, bad⟩ => stencilBody_range any bad, st.halts fun _ _ ⟨any, good, odd⟩ => stencilBody_align any good odd,
    fun _ _ _ _ firing any good even => st.sends firing any good even⟩

end Sys2Proof.Machine
end

section
/-! SUPPORT. The fabric (R314-R330): what is read of a router after a write, the beats that leave endpoints, cross routers and links, and the condition tokens
(O56). -/

namespace Sys2Proof.Machine

open Sys2Proof

/-! ### Reads after writes -/

@[simp] theorem router_setRouter_same (s : State) (site : Nat) (r : Router) : (s.setRouter site r).router site = r := by
  simp [State.router, State.setRouter]

theorem router_setRouter_other (s : State) {site k : Nat} (h : k ≠ site) (r : Router) : (s.setRouter site r).router k = s.router k := by
  simp [State.router, State.setRouter, SMap.get_set_other _ h]

@[simp] theorem tile_setRouter (s : State) (site : Nat) (r : Router) (k : Nat) : (s.setRouter site r).tile k = s.tile k := rfl

@[simp] theorem ctx_setRouter (s : State) (site : Nat) (r : Router) (t c : Nat) : (s.setRouter site r).ctx t c = s.ctx t c := rfl

@[simp] theorem router_setCtx (s : State) (t c : Nat) (cx : Ctx) (site : Nat) : (s.setCtx t c cx).router site = s.router site := rfl

@[simp] theorem at4_set4_same {α : Type} (v : Vector α 4) (n : Nat) (a : α) : at4 (set4 v n a) n = a := by
  simp [at4, set4]

@[simp] theorem SMap.get_erase_same {α : Type} (m : SMap α) (k : Nat) (dflt : α) : SMap.get (SMap.erase m k) k dflt = dflt := by
  induction m with
  | nil => rfl
  | cons x rest ih =>
    obtain ⟨j, a⟩ := x
    by_cases h : j = k
    · simpa [SMap.erase, h] using ih
    · simpa [SMap.erase, SMap.get, h] using ih

@[simp] theorem buf_pushBeat_same (s : State) (site port vc : Nat) (b : Beat) :
    ((s.pushBeat site port vc b).router site).buf port vc = (s.router site).buf port vc ++ [b] := by
  simp [State.pushBeat, Router.buf]

theorem router_pushBeat_other (s : State) {site k : Nat} (h : k ≠ site) (port vc : Nat) (b : Beat) : (s.pushBeat site port vc b).router k = s.router k :=
  router_setRouter_other s h _

/-! ### Leaving an endpoint (R316, R318, R388) -/

/-- The state without the beat at the front of an output endpoint. -/
def State.tookFront (s : State) (t c n : Nat) (rest : List Place) : State := s.setCtx t c { s.ctx t c with outs := set8 (s.ctx t c).outs n rest }

/-- A beat taken into the local port of its tile's router, or kept back while that holds four beats of the channel (R318). -/
def State.departLocal (s : State) (t c n : Nat) (rest : List Place) (vc : Nat) (b : Beat) : State :=
  if 4 ≤ ((s.router (siteOfTile t)).buf 6 vc).length then s
  else (((s.tookFront t c n rest).pushBeat (siteOfTile t) 6 vc b).settleEmit t 0).settleEmit t 1

theorem settleEmit_idle {s : State} {t k : Nat} (h : (s.query t k).emit = none) : s.settleEmit t k = s := by
  simp only [State.settleEmit, h]

theorem query_emit_none {s : State} {t : Nat} (quiet : ∀ k ∈ (s.tile t).skim.toList, k.emit = none) (k : Nat) : (s.query t k).emit = none := by
  unfold State.query Tile.query
  split
  · exact quiet _ (by simp)
  · exact quiet _ (by simp)

/-- With no token being sent a skim unit has nothing to settle. -/
theorem settle_quiet {s : State} {t : Nat} (quiet : ∀ k ∈ (s.tile t).skim.toList, k.emit = none) : (s.settleEmit t 0).settleEmit t 1 = s := by
  rw [settleEmit_idle (query_emit_none quiet 0), settleEmit_idle (query_emit_none quiet 1)]

theorem tookFront_skim (s : State) (t c n : Nat) (rest : List Place) : ((s.tookFront t c n rest).tile t).skim = (s.tile t).skim := by
  simp [State.tookFront, State.setCtx, Tile.setCtx]

section
variable {s : State} {t c n : Nat} {b : Beat} {rest : List Place} (here : t < s.tileCount)
include here

theorem exec_outputBeatDepart_empty (empty : at8 (s.ctx t c).outs n = []) : exec (.outputBeatDepart t c n) s = .next s := by
  simp only [exec, execOutputBeatDepart, if_neg (not_le.mpr here), empty]

variable (front : at8 (s.ctx t c).outs n = .full b :: rest)
include front

theorem exec_outputBeatDepart_held {dir : Fin 6} {vc : Fin 32} (bind : at8 (s.ctx t c).word.obind n = .link dir vc) (held : s.heldBack t c n = true) :
    exec (.outputBeatDepart t c n) s = .next s := by
  simp only [exec, execOutputBeatDepart, if_neg (not_le.mpr here), front, bind, held, if_true]

theorem exec_outputBeatDepart_link {dir : Fin 6} {vc : Fin 32} (bind : at8 (s.ctx t c).word.obind n = .link dir vc) (free : s.heldBack t c n = false) :
    exec (.outputBeatDepart t c n) s = .next (s.departLocal t c n rest vc.val { b with dir := some dir }) := by
  simp only [exec, execOutputBeatDepart, if_neg (not_le.mpr here), front, bind, free, Bool.false_eq_true, if_false]
  rfl

theorem exec_outputBeatDepart_innerRing {level : Fin 6} {vc : Fin 32} (bind : at8 (s.ctx t c).word.obind n = .ring level vc) (inner : level.val < 3) :
    exec (.outputBeatDepart t c n) s = .next (s.departLocal t c n rest vc.val { b with ring := some level }) := by
  simp only [exec, execOutputBeatDepart, if_neg (not_le.mpr here), front, bind, if_pos inner]
  rfl

theorem exec_outputBeatDepart_noPort {level : Fin 6} {vc : Fin 32} (bind : at8 (s.ctx t c).word.obind n = .ring level vc) (outer : 3 ≤ level.val)
    (none : s.ringPort level vc.val = none) : exec (.outputBeatDepart t c n) s = .next s := by
  simp only [exec, execOutputBeatDepart, if_neg (not_le.mpr here), front, bind, if_neg (not_lt.mpr outer), none]

variable (quiet : ∀ k ∈ (s.tile t).skim.toList, k.emit = none)
include quiet

theorem exec_outputBeatDepart_ringPort {level : Fin 6} {vc : Fin 32} {p : Nat} (bind : at8 (s.ctx t c).word.obind n = .ring level vc) (outer : 3 ≤ level.val)
    (port : s.ringPort level vc.val = some p) :
    exec (.outputBeatDepart t c n) s = .next { s.tookFront t c n rest with ringOut := s.ringOut ++ [(p, b)] } := by
  simp only [exec, execOutputBeatDepart, if_neg (not_le.mpr here), front, bind, if_neg (not_lt.mpr outer), port]
  exact congrArg Host.Outcome.next (settle_quiet (s := { s.tookFront t c n rest with ringOut := s.ringOut ++ [(p, b)] })
    ((tookFront_skim s t c n rest).symm ▸ quiet))

end

theorem departLocal_full {s : State} {t vc : Nat} (full : 4 ≤ ((s.router (siteOfTile t)).buf 6 vc).length) (c n : Nat) (rest : List Place) (b : Beat) :
    s.departLocal t c n rest vc b = s := if_pos full

theorem departLocal_room {s : State} {t vc : Nat} (quiet : ∀ k ∈ (s.tile t).skim.toList, k.emit = none)
    (room : ((s.router (siteOfTile t)).buf 6 vc).length < 4) (c n : Nat) (rest : List Place) (b : Beat) :
    s.departLocal t c n rest vc b = (s.tookFront t c n rest).pushBeat (siteOfTile t) 6 vc b := by
  rw [State.departLocal, if_neg (not_le.mpr room)]
  exact settle_quiet (s := (s.tookFront t c n rest).pushBeat (siteOfTile t) 6 vc b) ((tookFront_skim s t c n rest).symm ▸ quiet)

/-- A port that serves a ring level is an odd port of it (R26, R388). -/
theorem ringPort_some {s : State} {level : Fin 6} {ch p : Nat} (h : s.ringPort level ch = some p) :
    p < 32 ∧ p % 2 = 1 ∧ s.ringLevels.toList[p]? = some level := by
  have served := List.mem_of_getElem? h
  simpa using served

/-! ### Routing (R59, R316, R317, R320, R321) -/

/-- A token presented to an element with one more beat at an input endpoint. -/
def State.gotBeat (s : State) (t c n : Nat) (b : Beat) : State := s.setCtx t c { s.ctx t c with ins := set8 (s.ctx t c).ins n (at8 (s.ctx t c).ins n ++ [b]) }

@[simp] theorem ins_gotBeat (s : State) (t c n : Nat) (b : Beat) : at8 ((s.gotBeat t c n b).ctx t c).ins n = at8 (s.ctx t c).ins n ++ [b] := by
  simp [State.gotBeat]

section
variable {s : State} {t port vc c n : Nat} {b : Beat}

theorem localSpace_none (h : receiver (s.tile t) port vc b.ring b.tag = none) : localSpace (s.tile t) port vc b = true := by
  simp only [localSpace, h]

theorem localSpace_some (h : receiver (s.tile t) port vc b.ring b.tag = some (c, n)) :
    localSpace (s.tile t) port vc b = ((s.ctx t c).run == .retired || decide ((at8 (s.ctx t c).ins n).length < 8)) := by
  simp only [localSpace, h]
  rfl

theorem present_none (site : Nat) (h : receiver (s.tile t) port vc b.ring b.tag = none) : s.present site t port vc b = s.routeRecord site 2 port vc := by
  simp only [State.present, h]

theorem present_retired (site : Nat) (h : receiver (s.tile t) port vc b.ring b.tag = some (c, n)) (retired : (s.ctx t c).run = .retired) :
    s.present site t port vc b = s := by
  simp only [State.present, h, retired, beq_self_eq_true, if_true]

theorem present_taken (site : Nat) (h : receiver (s.tile t) port vc b.ring b.tag = some (c, n)) (runs : (s.ctx t c).run ≠ .retired) :
    s.present site t port vc b = s.gotBeat t c n b := by
  simp only [State.present, h, beq_eq_false_iff_ne.mpr runs, Bool.false_eq_true, if_false]
  rfl

end

theorem beyond_congr {s u : State} (variant : u.variant = s.variant) (site port : Nat) : u.beyond site port = s.beyond site port := by
  have sites : u.siteCount = s.siteCount := by simp only [State.siteCount, variant]
  unfold State.beyond
  rw [sites]

/-- Whether a port leads to nothing is a matter of the device and of the declared port records. -/
theorem openEnd_congr {s u : State} {site : Nat} (variant : u.variant = s.variant) (unlinked : (u.router site).unlinked = (s.router site).unlinked) (port vc : Nat) :
    u.openEnd site port vc = s.openEnd site port vc := by
  rw [State.openEnd, State.openEnd, unlinked, beyond_congr variant]

/-- What copies of a beat leave on the ports of a router that lead somewhere: one more copy staged at each, and nothing else changed. -/
structure Staged (s u : State) (site vc : Nat) (b : Beat) (ports : List Nat) : Prop where
  rest : ∃ rs, u = { s with routers := rs }
  router : ∃ m, u.router site = { s.router site with staged := m }
  staging : ∀ p, (u.router site).staging p vc = if p ∈ ports then (s.router site).staging p vc ++ [b] else (s.router site).staging p vc

theorem staging_sendCopy {s : State} {site port vc : Nat} {b : Beat} (leads : s.openEnd site port vc = false) (p : Nat) :
    ((s.sendCopy site port vc b).router site).staging p vc =
      if p = port then (s.router site).staging p vc ++ [b] else (s.router site).staging p vc := by
  simp only [State.sendCopy, leads, Bool.false_eq_true, if_false, router_setRouter_same, Router.staging]
  split
  · next h => subst h; simp
  · next h => exact SMap.get_set_other _ (by simp only [inKey]; omega) _ _

theorem sendCopies {site vc : Nat} {b : Beat} : ∀ {ports : List Nat} {s : State}, ports.Nodup → (∀ p ∈ ports, s.openEnd site p vc = false) →
    Staged s (ports.foldl (fun s p => s.sendCopy site p vc b) s) site vc b ports
  | [], s, _, _ => ⟨⟨s.routers, rfl⟩, ⟨(s.router site).staged, rfl⟩, fun p => by simp⟩
  | port :: ports, s, nodup, leads => by
    obtain ⟨fresh, nodup⟩ := List.nodup_cons.mp nodup
    have first := leads port (by simp)
    have sent : s.sendCopy site port vc b = s.setRouter site
        { s.router site with staged := SMap.set (s.router site).staged (inKey port vc) ((s.router site).staging port vc ++ [b]) } := by
      simp only [State.sendCopy, first, Bool.false_eq_true, if_false]
    obtain ⟨⟨rs, rest⟩, ⟨m, router⟩, staging⟩ := sendCopies (s := s.sendCopy site port vc b) nodup fun p hp => by
      rw [← leads p (by simp [hp])]
      exact openEnd_congr (by rw [sent]; rfl) (by rw [sent, router_setRouter_same]) p vc
    refine ⟨⟨rs, ?_⟩, ⟨m, ?_⟩, fun p => ?_⟩
    · rw [List.foldl_cons, rest, sent]
      rfl
    · rw [List.foldl_cons, router, sent, router_setRouter_same]
    · rw [List.foldl_cons, staging, staging_sendCopy first]
      by_cases hp : p = port
      · subst hp; simp [fresh]
      · simp [hp]

/-- The state without the beat at the head of a router port's channel. -/
def State.tookBeat (s : State) (site port vc : Nat) (rest : List Beat) : State :=
  s.setRouter site { s.router site with ins := SMap.set (s.router site).ins (inKey port vc) rest }

@[simp] theorem buf_tookBeat (s : State) (site port vc : Nat) (rest : List Beat) : ((s.tookBeat site port vc rest).router site).buf port vc = rest := by
  simp [State.tookBeat, Router.buf]

theorem router_tookBeat (s : State) (site port vc : Nat) (rest : List Beat) : (s.tookBeat site port vc rest).router site =
    { s.router site with ins := SMap.set (s.router site).ins (inKey port vc) rest } := router_setRouter_same ..

/-- The ports that a routing word's set names. -/
def outPorts (outs : BitVec 7) : List Nat := (List.range 6).filter fun p => outs.getLsbD p

theorem mem_outPorts {outs : BitVec 7} {p : Nat} : p ∈ outPorts outs ↔ p < 6 ∧ outs.getLsbD p = true := by
  simp [outPorts]

theorem outPorts_nodup (outs : BitVec 7) : (outPorts outs).Nodup := List.nodup_range.filter _

/-- A routed beat as its copies carry it. -/
def Beat.routed (b : Beat) (vc : Nat) : Beat := { b with vc := ⟨vc % 32, Nat.mod_lt _ (by decide)⟩, dir := none }

/-- The copies of a beat sent to the ports of its word. -/
def State.copies (s : State) (site vc : Nat) (b : Beat) (outs : BitVec 7) : State := (outPorts outs).foldl (fun s p => s.sendCopy site p vc b) s

section
variable {s : State} {site port vc : Nat} {b : Beat} {rest : List Beat} (inside : site < s.siteCount ∧ port < 7 ∧ vc < 32)
include inside

theorem present_port : ¬ (site ≥ s.siteCount ∨ port ≥ 7 ∨ vc ≥ 32) := by omega

theorem exec_routerRoute_empty (empty : (s.router site).buf port vc = []) : exec (.routerRoute site port vc) s = .next s := by
  simp only [exec, execRouterRoute, if_neg (present_port inside), empty]

variable (head : (s.router site).buf port vc = b :: rest)
include head

theorem exec_routerRoute_miss (none : routeOf s site port vc b = none) :
    exec (.routerRoute site port vc) s = .next ((s.tookBeat site port vc rest).routeMiss site port vc) := by
  simp only [exec, execRouterRoute, if_neg (present_port inside), head, none]
  rfl

variable {outs : BitVec 7} {ovc : Nat} (word : routeOf s site port vc b = some (outs, ovc))
include word

theorem exec_routerRoute_blocked {p : Nat} (hp : p ∈ outPorts outs) (full : s.portSpace site p ovc = false) : exec (.routerRoute site port vc) s = .next s := by
  have blocked : ((outPorts outs).all fun p => s.portSpace site p ovc) = false := List.all_eq_false.mpr ⟨p, hp, by simp [full]⟩
  rw [outPorts] at blocked
  simp only [exec, execRouterRoute, if_neg (present_port inside), head, word, blocked, Bool.false_and, Bool.not_false, if_true]

variable (free : ∀ p ∈ outPorts outs, s.portSpace site p ovc = true)
include free

theorem exec_routerRoute_links (nowhere : outs.getLsbD 6 = false ∨ elementAtSite site = none) :
    exec (.routerRoute site port vc) s = .next ((s.tookBeat site port vc rest).copies site ovc (b.routed ovc) outs) := by
  have space := List.all_eq_true.mpr free
  have here : (if outs.getLsbD 6 then elementAtSite site else none) = none := by
    rcases nowhere with h | h <;> simp only [h, Bool.false_eq_true, if_false, ite_self]
  rw [outPorts] at space
  simp only [exec, execRouterRoute, if_neg (present_port inside), head, word, here, space, Bool.and_true, Bool.not_true, Bool.false_eq_true, if_false]
  rfl

theorem exec_routerRoute_element {t : Nat} (bit : outs.getLsbD 6 = true) (element : elementAtSite site = some t) :
    exec (.routerRoute site port vc) s = .next (if localSpace (s.tile t) port ovc b = true
      then ((s.tookBeat site port vc rest).present site t port ovc (b.routed ovc)).copies site ovc (b.routed ovc) outs else s) := by
  have space := List.all_eq_true.mpr free
  have here : (if outs.getLsbD 6 then elementAtSite site else none) = some t := by rw [if_pos bit, element]
  rw [outPorts] at space
  simp only [exec, execRouterRoute, if_neg (present_port inside), head, word, here, space, Bool.true_and]
  cases localSpace (s.tile t) port ovc b <;> rfl

end

/-- The copies of a beat that its router port has given up: one at each port of its word, and beside the routers nothing changes. -/
theorem copies_tookBeat {s v : State} {site port vc ovc : Nat} {rest : List Beat} {outs : BitVec 7} (b : Beat) (variant : v.variant = s.variant)
    (router : v.router site = (s.tookBeat site port vc rest).router site) (leads : ∀ p ∈ outPorts outs, s.openEnd site p ovc = false) :
    ∃ u rs, v.copies site ovc b outs = u ∧ u = { v with routers := rs } ∧ (u.router site).buf port vc = rest ∧
      ∀ p, p < 6 → (u.router site).staging p ovc = if outs.getLsbD p then (s.router site).staging p ovc ++ [b] else (s.router site).staging p ovc := by
  obtain ⟨⟨rs, only⟩, ⟨m, routed⟩, staging⟩ := sendCopies (b := b) (s := v) (outPorts_nodup outs) fun p hp => by
    rw [← leads p hp]
    exact openEnd_congr variant (by rw [router, router_tookBeat]) p ovc
  refine ⟨_, rs, rfl, only, ?_, fun p hp => ?_⟩
  · rw [State.copies, routed, router]
    exact buf_tookBeat ..
  · rw [State.copies, staging, router, router_tookBeat]
    simp only [mem_outPorts, hp, true_and]
    rfl

/-- A record of a route is the next record, and nothing else changes (R470, R472). -/
theorem routeRecord_eq (s : State) (site cause port ch : Nat) : ∃ r, s.routeRecord site cause port ch = s.send r ∧ r.source = holderOf site ∧ r.cls = 1 ∧ r.cause = cause :=
  ⟨_, rfl, rfl, rfl, rfl⟩

/-- A routing miss counts and sends a record (R59). -/
theorem routeMiss_eq (s : State) (site port ch : Nat) : ∃ r, s.routeMiss site port ch =
    (s.setRouter site { s.router site with miss := (s.router site).miss + 1 }).send r ∧ r.source = holderOf site ∧ r.cls = 1 ∧ r.cause = 1 :=
  ⟨_, rfl, rfl, rfl, rfl⟩

theorem outPorts_single {p : Nat} (hp : p < 6) : outPorts (BitVec.ofNat 7 (2 ^ p)) = [p] := by
  interval_cases p <;> rfl

/-- A beat whose only port leads to nothing is a routing miss (R321). -/
theorem copies_openEnd {s : State} {site vc p : Nat} (hp : p < 6) (nothing : s.openEnd site p vc = true) (b : Beat) :
    s.copies site vc b (BitVec.ofNat 7 (2 ^ p)) = s.routeMiss site p vc := by
  rw [State.copies, outPorts_single hp, List.foldl_cons, List.foldl_nil, State.sendCopy, if_pos nothing]

/-! ### Links (R320, R388) -/

section
variable {s : State} {site port : Nat} (inside : site < s.siteCount ∧ port < 6)
include inside

theorem exec_linkBeatSend_link : exec (.linkBeatSend site (.link port)) s = .next (s.sendOnLink site port) := by
  have absent : ¬ (site ≥ s.siteCount ∨ port ≥ 6) := by omega
  simp only [exec, execLinkBeatSend, if_neg absent]

/-- A link with no beat to send sends none. -/
theorem exec_linkBeatSend_idle (idle : (s.router site).waiting port = false) : exec (.linkBeatSend site (.link port)) s = .next s := by
  have none : (vcOrder (SMap.get (s.router site).last port 31)).find? (fun vc => !((s.router site).staging port vc).isEmpty) = none := by
    refine List.find?_eq_none.mpr fun vc hvc => ?_
    obtain ⟨k, -, rfl⟩ := List.mem_map.mp hvc
    exact List.any_eq_false.mp idle _ (List.mem_range.mpr (Nat.mod_lt _ (by decide)))
  rw [exec_linkBeatSend_link inside, State.sendOnLink]
  simp only [none]
  cases s.beyond site port <;> rfl

variable {next vc : Nat} {b : Beat} {rest : List Beat} (beyond : s.beyond site port = some next)
  (turn : (vcOrder (SMap.get (s.router site).last port 31)).find? (fun v => !((s.router site).staging port v).isEmpty) = some vc)
include beyond turn

theorem exec_linkBeatSend_down (down : (s.router site).linkState port = .down) : exec (.linkBeatSend site (.link port)) s = .next s := by
  rw [exec_linkBeatSend_link inside, State.sendOnLink]
  simp only [beyond, turn, down, beq_self_eq_true, if_true]

theorem exec_linkBeatSend_sends (up : (s.router site).linkState port ≠ .down) (head : (s.router site).staging port vc = b :: rest) :
    exec (.linkBeatSend site (.link port)) s = .next ((s.setRouter site
      { s.router site with staged := SMap.set (s.router site).staged (inKey port vc) rest, last := SMap.set (s.router site).last port vc,
                           attempts := SMap.erase (s.router site).attempts port }).pushBeat next (opposite port) vc b) := by
  rw [exec_linkBeatSend_link inside, State.sendOnLink]
  simp only [beyond, turn, beq_eq_false_iff_ne.mpr up, Bool.false_eq_true, if_false, head]

end

section
variable {s : State} {site port : Nat} (inside : site < s.siteCount ∧ port < 32) (rb : RingBeat)
include inside

theorem exec_linkBeatSend_ring : exec (.linkBeatSend site (.ring port rb)) s = .next (s.ringArrive site port rb) := by
  have absent : ¬ (site ≥ s.siteCount ∨ port ≥ 32) := by omega
  simp only [exec, execLinkBeatSend, if_neg absent]

/-- Beats leave by odd ring ports, and enter the module where an element stands. -/
theorem exec_linkBeatSend_noEntry (none : port % 2 = 1 ∨ elementAtSite site = none) : exec (.linkBeatSend site (.ring port rb)) s = .next s := by
  rw [exec_linkBeatSend_ring inside, State.ringArrive]
  rcases none with odd | empty
  · split
    · simp only [show ¬ port % 2 = 0 by omega, false_and, if_false]
    · rfl
  · simp only [empty]

/-- A beat of a ring as an endpoint takes it. -/
def beatOfRing (rb : RingBeat) (level : Fin 6) : Beat :=
  { payload := rb.payload, mask := rb.mask, tag := rb.tag, vc := rb.channel, poison := false, ring := some level }

variable {t c n : Nat} {level : Fin 6} (even : port % 2 = 0) (element : elementAtSite site = some t) (served : s.ringLevels.toList[port]? = some level)
  (takes : receiver (s.tile t) (7 + port) rb.channel.val (some level) rb.tag = some (c, n)) (runs : (s.ctx t c).run ≠ .retired)
include even element served takes runs

theorem exec_linkBeatSend_arrives : exec (.linkBeatSend site (.ring port rb)) s =
    .next (if (at8 (s.ctx t c).ins n).length < 8 then s.gotBeat t c n (beatOfRing rb level) else s) := by
  have takes' : receiver (s.tile t) (7 + port) rb.channel.val (beatOfRing rb level).ring (beatOfRing rb level).tag = some (c, n) := takes
  have space : localSpace (s.tile t) (7 + port) rb.channel.val (beatOfRing rb level) = decide ((at8 (s.ctx t c).ins n).length < 8) := by
    rw [localSpace_some takes', beq_eq_false_iff_ne.mpr runs, Bool.false_or]
  rw [exec_linkBeatSend_ring inside, State.ringArrive]
  simp only [element, served]
  rw [← beatOfRing, space, present_taken site takes' runs]
  simp only [even, true_and, decide_eq_true_eq]

end

/-! ### Condition tokens (R330) -/

theorem takeCond_none {s : State} {site port ch : Nat} (empty : (s.router site).cbuf port ch = []) : s.takeCond site port ch = none := by
  simp only [State.takeCond, empty]

theorem takeCond_some {s s1 : State} {site port ch : Nat} {b : Bool} (h : s.takeCond site port ch = some (b, s1)) :
    s1 = s.setRouter site { s.router site with cins := SMap.set (s.router site).cins (16 * port + ch) ((s.router site).cbuf port ch).tail } := by
  unfold State.takeCond at h
  simp only at h
  split at h
  · cases h
  · next b' rest buf => cases h; rw [buf, List.tail_cons]

/-- The words of a router that a condition token can match. -/
def State.condWord (s : State) (site port ch : Nat) : Option RWord := (s.router site).ctl.find? fun w => w.inPort == port && w.inVc == ch

section
variable {s s1 : State} {site port ch : Nat} {b : Bool}

theorem exec_conditionTokenHop (inside : site < s.siteCount ∧ port < 6 ∧ ch < 16) :
    exec (.conditionTokenHop site port ch) s = .next (s.hopCond site port ch) := by
  have absent : ¬ (site ≥ s.siteCount ∨ port ≥ 7 ∨ ch ≥ 16) := by omega
  simp only [exec, execConditionTokenHop, if_neg absent, if_neg (show port ≠ 6 by omega)]

theorem hopCond_empty (empty : (s.router site).cbuf port ch = []) : s.hopCond site port ch = s := by
  simp only [State.hopCond, takeCond_none empty]

variable (take : s.takeCond site port ch = some (b, s1))
include take

theorem hopCond_miss (none : s.condWord site port ch = none) : s.hopCond site port ch = s1.routeMiss site port ch := by
  rw [State.condWord] at none
  simp only [State.hopCond, take, none]

variable {w : RWord} (word : s.condWord site port ch = some w)
include word

omit take in
/-- A control word that a token matches keeps its channel, or rewrites it (R57). -/
theorem condWord_channel : w.outVc.getD w.inVc = w.outVc.getD ch := by
  have own := List.find?_some word
  simp only [Bool.and_eq_true, beq_iff_eq] at own
  rw [own.2]

/-- A token for the element alone: it waits for a place at the endpoint (R330). -/
theorem hopCond_element {t c n : Nat} (only : w.outSet = BitVec.ofNat 7 64) (element : elementAtSite site = some t)
    (sink : condSink (s.tile t) (w.outVc.getD ch) = some (c, n)) (runs : (s.ctx t c).run ≠ .retired) :
    s.hopCond site port ch = if (at4 (s.ctx t c).cins n).length < 8 then
      (s1.setRouter site (s1.router site)).setCtx t c { s.ctx t c with cins := set4 (s.ctx t c).cins n (at4 (s.ctx t c).cins n ++ [b]) } else s := by
  have links : w.links = [] := by rw [RWord.links, only]; rfl
  have here : w.here site = some t := by rw [RWord.here, only, element]; rfl
  have tiles : ∀ k, s1.tile k = s.tile k := by rw [takeCond_some take]; exact fun _ => rfl
  have space : s.condFree site w = decide ((at4 (s.ctx t c).cins n).length < 8) := by
    simp only [State.condFree, links, here, List.all_nil, Bool.true_and, condWord_channel word, condSpace, sink]
    change ((s.ctx t c).run == .retired || _) = _
    rw [beq_eq_false_iff_ne.mpr runs, Bool.false_or]
    rfl
  rw [State.condWord] at word
  simp only [State.hopCond, take, word, links, here, space, List.foldl_nil, Bool.not_true, Bool.or_false, Bool.not_eq_true', decide_eq_false_iff_not]
  by_cases room : (at4 (s.ctx t c).cins n).length < 8
  · have ctx : ∀ k j, (s1.setRouter site (s1.router site)).ctx k j = s.ctx k j := fun k j => by rw [ctx_setRouter, State.ctx, State.ctx, tiles]
    rw [if_pos room, if_neg (not_not.mpr room)]
    simp only [State.presentCond, tile_setRouter, tiles, sink, ctx, beq_eq_false_iff_ne.mpr runs, Bool.false_eq_true, if_false]
  · rw [if_neg room, if_pos room]

variable {p : Nat} (hp : p < 6) (only : w.outSet = BitVec.ofNat 7 (2 ^ p))
include hp only

omit take word in
theorem links_single : w.links = [p] ∧ w.here site = none := by
  rw [RWord.links, RWord.here, only]
  interval_cases p <;> exact ⟨rfl, rfl⟩

/-- What a link's turn leaves of the router that a token has left. -/
def tokenLeft (s1 : State) (site p och : Nat) : State :=
  s1.setRouter site { s1.router site with clast := SMap.set (s1.router site).clast p och }

omit word only hp in
theorem openEnd_tokenLeft (q vc och : Nat) : (tokenLeft s1 site q och).openEnd site p vc = s.openEnd site p vc := by
  have left := takeCond_some take
  exact openEnd_congr (by rw [left]; rfl) (by rw [tokenLeft, router_setRouter_same, left, router_setRouter_same]) p vc

/-- A token for a port that leads to nothing is a miss at its turn (R18, R321). -/
theorem hopCond_openEnd (nothing : s.openEnd site p (w.outVc.getD ch) = true) : s.hopCond site port ch =
    if s.condTurn site p = some (w.outVc.getD ch) then (tokenLeft s1 site p (w.outVc.getD ch)).routeMiss site p (w.outVc.getD ch) else s := by
  obtain ⟨links, here⟩ := links_single (site := site) hp only
  have across : s.across site p (w.outVc.getD ch) = none := if_pos nothing
  have across1 : (tokenLeft s1 site p (w.outVc.getD ch)).across site p (w.outVc.getD ch) = none :=
    if_pos ((openEnd_tokenLeft take p _ _).trans nothing)
  have free : s.condFree site w = true := by
    simp only [State.condFree, links, here, List.all_cons, List.all_nil, Bool.and_true, condWord_channel word, across]
  rw [State.condWord] at word
  simp only [State.hopCond, take, word, links, here, free, List.foldl_cons, List.foldl_nil, Bool.not_true, Bool.false_or, Bool.not_eq_true', beq_eq_false_iff_ne]
  rw [← tokenLeft, across1]
  by_cases turn : s.condTurn site p = some (w.outVc.getD ch)
  · rw [if_pos turn, if_neg (not_not.mpr turn)]
  · rw [if_neg turn, if_pos turn]

/-- A token crosses a link at its turn, while the link is not down and the next router has a place for it (R330). -/
theorem hopCond_across {next : Nat} (leads : s.openEnd site p (w.outVc.getD ch) = false) (beyond : s.beyond site p = some next) :
    s.hopCond site port ch = if ((s.router next).cbuf (opposite p) (w.outVc.getD ch)).length < 4 ∧ (s.router site).linkState p ≠ .down ∧
        s.condTurn site p = some (w.outVc.getD ch) then
      let s2 := tokenLeft s1 site p (w.outVc.getD ch)
      s2.setRouter next { s2.router next with
        cins := SMap.set (s2.router next).cins (16 * opposite p + w.outVc.getD ch) ((s2.router next).cbuf (opposite p) (w.outVc.getD ch) ++ [b]) } else s := by
  obtain ⟨links, here⟩ := links_single (site := site) hp only
  have across : s.across site p (w.outVc.getD ch) = some next := by rw [State.across, leads, ← beyond]; rfl
  have across1 : (tokenLeft s1 site p (w.outVc.getD ch)).across site p (w.outVc.getD ch) = some next := by
    have variant : (tokenLeft s1 site p (w.outVc.getD ch)).variant = s.variant := by rw [takeCond_some take]; rfl
    have same : (tokenLeft s1 site p (w.outVc.getD ch)).beyond site p = s.beyond site p := beyond_congr variant site p
    rw [State.across, openEnd_tokenLeft take, leads, same, ← beyond]
    rfl
  have free : s.condFree site w =
      (decide (((s.router next).cbuf (opposite p) (w.outVc.getD ch)).length < 4) && (s.router site).linkState p != .down) := by
    simp only [State.condFree, links, here, List.all_cons, List.all_nil, Bool.and_true, condWord_channel word, across]
  rw [State.condWord] at word
  simp only [State.hopCond, take, word, links, here, free, List.foldl_cons, List.foldl_nil]
  rw [← tokenLeft, across1]
  by_cases can : ((s.router next).cbuf (opposite p) (w.outVc.getD ch)).length < 4 ∧ (s.router site).linkState p ≠ .down ∧
      s.condTurn site p = some (w.outVc.getD ch)
  · obtain ⟨room, up, turn⟩ := can
    simp only [room, up, turn, ne_eq, not_false_eq_true, and_self, if_true, decide_true, Bool.true_and, beq_self_eq_true, Bool.not_true, Bool.or_false,
      Bool.not_eq_true', bne_eq_false_iff_eq, if_false]
    rfl
  · rw [if_neg can, if_pos]
    simpa [or_iff_not_imp_left] using can

end

/-- A token comes in from the element behind those of the local port, which holds four (R330). -/
theorem exec_conditionTokenHop_injects {s : State} {site ch t c n : Nat} {b : Bool} {rest : List Bool} (inside : site < s.siteCount ∧ ch < 16)
    (element : elementAtSite site = some t) (source : condSource (s.tile t) ch = some (c, n)) (empty : (s.router site).cbuf 6 ch = [])
    (front : at4 (s.ctx t c).couts n = b :: rest) :
    exec (.conditionTokenHop site 6 ch) s = .next ((s.setRouter site { s.router site with cins := SMap.set (s.router site).cins (16 * 6 + ch) [b] }).setCtx t c
      { s.ctx t c with couts := set4 (s.ctx t c).couts n rest }) := by
  have absent : ¬ (site ≥ s.siteCount ∨ 6 ≥ 7 ∨ ch ≥ 16) := by omega
  simp only [exec, execConditionTokenHop, if_neg absent, if_true, hopCond_empty empty, State.injectCond, element, source, front, empty]
  rfl

/-! ### The obligation -/

/-- A beat that departs by the local port: it moves while the port has a place, and stays otherwise (R318). -/
theorem departs {s : State} {t c n vc : Nat} {x : Beat} {rest : List Place} (quiet : ∀ k ∈ (s.tile t).skim.toList, k.emit = none)
    (event : exec (.outputBeatDepart t c n) s = .next (s.departLocal t c n rest vc x)) :
    (((s.router (siteOfTile t)).buf 6 vc).length < 4 →
      ∃ u, exec (.outputBeatDepart t c n) s = .next u ∧ u.mem = s.mem ∧ at8 (u.ctx t c).outs n = rest ∧
        (u.router (siteOfTile t)).buf 6 vc = (s.router (siteOfTile t)).buf 6 vc ++ [x] ∧
        u.ringOut = s.ringOut ∧ (∀ k, k ≠ t → u.tile k = s.tile k) ∧ (u.ctx t c).ins = (s.ctx t c).ins ∧ (u.ctx t c).d = (s.ctx t c).d) ∧
    (4 ≤ ((s.router (siteOfTile t)).buf 6 vc).length → exec (.outputBeatDepart t c n) s = .next s) := by
  refine ⟨fun room => ⟨_, event.trans (congrArg Host.Outcome.next (departLocal_room quiet room c n rest x)), rfl, ?_, buf_pushBeat_same .., rfl,
    fun k hk => tile_setCtx_other s hk c _, ?_, ?_⟩, fun full => event.trans (congrArg Host.Outcome.next (departLocal_full full c n rest x))⟩
  all_goals simp [State.pushBeat, State.tookFront]

/-- A beat that departs by a ring port leaves the module (R26, R388). -/
theorem departs_ringPort {s : State} {t c n p : Nat} {b : Beat} {rest : List Place}
    (event : exec (.outputBeatDepart t c n) s = .next { s.tookFront t c n rest with ringOut := s.ringOut ++ [(p, b)] }) :
    ∃ u, exec (.outputBeatDepart t c n) s = .next u ∧ u.mem = s.mem ∧ u.routers = s.routers ∧ u.ringOut = s.ringOut ++ [(p, b)] ∧ at8 (u.ctx t c).outs n = rest ∧
      (u.ctx t c).ins = (s.ctx t c).ins ∧ ∀ k, k ≠ t → u.tile k = s.tile k := by
  have ctx : ({ s.tookFront t c n rest with ringOut := s.ringOut ++ [(p, b)] } : State).ctx t c = { s.ctx t c with outs := set8 (s.ctx t c).outs n rest } :=
    ctx_setCtx_same ..
  refine ⟨_, event, rfl, rfl, rfl, ?_, ?_, fun k hk => tile_setCtx_other s hk c _⟩
  all_goals rw [ctx]
  simp

/-- A miss counted at the router of a beat that has gone leaves the beats behind it, and is one more. -/
theorem buf_missed (s : State) (site port vc : Nat) (rest : List Beat) : (((s.tookBeat site port vc rest).setRouter site
    { (s.tookBeat site port vc rest).router site with miss := ((s.tookBeat site port vc rest).router site).miss + 1 }).router site).buf port vc = rest := by
  rw [router_setRouter_same]
  exact buf_tookBeat s site port vc rest

theorem miss_missed (s : State) (site port vc : Nat) (rest : List Beat) : (((s.tookBeat site port vc rest).setRouter site
    { (s.tookBeat site port vc rest).router site with miss := ((s.tookBeat site port vc rest).router site).miss + 1 }).router site).miss =
      (s.router site).miss + 1 := by
  rw [router_setRouter_same, router_tookBeat]

theorem openEnd_tookBeat (s : State) (site port vc : Nat) (rest : List Beat) (p ovc : Nat) :
    (s.tookBeat site port vc rest).openEnd site p ovc = s.openEnd site p ovc :=
  openEnd_congr (s := s) (u := s.tookBeat site port vc rest) rfl (by rw [router_tookBeat]) p ovc

section
variable {s : State} {site port vc : Nat} {b : Beat} {rest : List Beat}

/-- What the beat at a router port leaves when its copies have been made. -/
def CopiesMade (s u : State) (site port vc ovc : Nat) (rest : List Beat) (b : Beat) (outs : BitVec 7) : Prop :=
  (u.router site).buf port vc = rest ∧ ∀ p, p < 6 → (u.router site).staging p ovc =
    if outs.getLsbD p then (s.router site).staging p ovc ++ [b] else (s.router site).staging p ovc

variable (inside : site < s.siteCount ∧ port < 7 ∧ vc < 32) (head : (s.router site).buf port vc = b :: rest) {outs : BitVec 7} {ovc : Nat}
  (word : routeOf s site port vc b = some (outs, ovc))
include inside head

/-- A beat that nothing matches is dropped and counted (R59). -/
theorem routes_miss (none : routeOf s site port vc b = none) : ∃ u r, exec (.routerRoute site port vc) s = .next u ∧ u.mem = s.mem ∧ u.tiles = s.tiles ∧
    (u.router site).buf port vc = rest ∧ (u.router site).miss = (s.router site).miss + 1 ∧ u.records = s.records ++ [r] ∧ r.source = holderOf site ∧
    r.cls = 1 ∧ r.cause = 1 := by
  obtain ⟨r, eq, source, cls, cause⟩ := routeMiss_eq (s.tookBeat site port vc rest) site port vc
  refine ⟨_, r, exec_routerRoute_miss inside head none, ?_, ?_, ?_, ?_, ?_, source, cls, cause⟩
  all_goals rw [eq]
  · rfl
  · rfl
  · exact buf_missed s site port vc rest
  · exact miss_missed s site port vc rest
  · rfl

include word

theorem routes_links (leads : ∀ p ∈ outPorts outs, s.openEnd site p ovc = false) (free : ∀ p ∈ outPorts outs, s.portSpace site p ovc = true)
    (nowhere : outs.getLsbD 6 = false ∨ elementAtSite site = none) :
    ∃ u, exec (.routerRoute site port vc) s = .next u ∧ u.mem = s.mem ∧ u.tiles = s.tiles ∧ u.records = s.records ∧
      CopiesMade s u site port vc ovc rest (b.routed ovc) outs := by
  obtain ⟨u, rs, eq, only, made⟩ := copies_tookBeat (s := s) (v := s.tookBeat site port vc rest) (b.routed ovc) rfl rfl leads
  refine ⟨u, eq ▸ exec_routerRoute_links inside head word free nowhere, ?_, ?_, ?_, made⟩ <;> rw [only] <;> rfl

/-- A beat whose only port leads to nothing is dropped and counted (R321). -/
theorem routes_openEnd {p : Nat} (hp : p < 6) (only : outs = BitVec.ofNat 7 (2 ^ p)) (nothing : s.openEnd site p ovc = true) :
    ∃ u r, exec (.routerRoute site port vc) s = .next u ∧ u.mem = s.mem ∧ u.tiles = s.tiles ∧ (u.router site).buf port vc = rest ∧
      (u.router site).miss = (s.router site).miss + 1 ∧ u.records = s.records ++ [r] ∧ r.cls = 1 ∧ r.cause = 1 := by
  have ports : outPorts outs = [p] := by rw [only, outPorts_single hp]
  have free : ∀ q ∈ outPorts outs, s.portSpace site q ovc = true := by
    intro q hq
    rw [ports, List.mem_singleton] at hq
    rw [hq, State.portSpace, State.across, nothing]
    rfl
  have nowhere : outs.getLsbD 6 = false := by rw [only]; interval_cases p <;> rfl
  have still : (s.tookBeat site port vc rest).openEnd site p ovc = true := (openEnd_tookBeat ..).trans nothing
  obtain ⟨r, eq, source, cls, cause⟩ := routeMiss_eq (s.tookBeat site port vc rest) site p ovc
  have event := exec_routerRoute_links inside head word free (.inl nowhere)
  rw [only, copies_openEnd hp still, eq] at event
  exact ⟨_, r, event, rfl, rfl, buf_missed s site port vc rest, miss_missed s site port vc rest, rfl, cls, cause⟩

variable {t : Nat} (leads : ∀ p ∈ outPorts outs, s.openEnd site p ovc = false) (free : ∀ p ∈ outPorts outs, s.portSpace site p ovc = true)
  (bit : outs.getLsbD 6 = true) (element : elementAtSite site = some t)
include leads free bit element

/-- A beat that no binding of the element takes is dropped with a record (R317). -/
theorem routes_unbound (none : receiver (s.tile t) port ovc b.ring b.tag = none) : ∃ u r, exec (.routerRoute site port vc) s = .next u ∧ u.mem = s.mem ∧
    u.tiles = s.tiles ∧ u.records = s.records ++ [r] ∧ r.cls = 1 ∧ r.cause = 2 ∧ CopiesMade s u site port vc ovc rest (b.routed ovc) outs := by
  have event := exec_routerRoute_element inside head word free bit element
  have presented := present_none (s := s.tookBeat site port vc rest) (b := b.routed ovc) site none
  obtain ⟨r, eq, source, cls, cause⟩ := routeRecord_eq (s.tookBeat site port vc rest) site 2 port ovc
  rw [if_pos (localSpace_none none), presented, eq] at event
  obtain ⟨u, rs, copied, only, made⟩ := copies_tookBeat (s := s) (v := (s.tookBeat site port vc rest).send r) (b.routed ovc) rfl rfl leads
  refine ⟨u, r, copied ▸ event, ?_, ?_, ?_, cls, cause, made⟩ <;> rw [only] <;> rfl

variable {c n : Nat} (takes : receiver (s.tile t) port ovc b.ring b.tag = some (c, n))
include takes

/-- A beat for a retired context is dropped (R332). -/
theorem routes_retired (retired : (s.ctx t c).run = .retired) : ∃ u, exec (.routerRoute site port vc) s = .next u ∧ u.mem = s.mem ∧ u.tiles = s.tiles ∧
    u.records = s.records ∧ CopiesMade s u site port vc ovc rest (b.routed ovc) outs := by
  have event := exec_routerRoute_element inside head word free bit element
  have presented := present_retired (s := s.tookBeat site port vc rest) (b := b.routed ovc) site takes retired
  rw [if_pos (by rw [localSpace_some takes, retired]; rfl), presented] at event
  obtain ⟨u, rs, copied, only, made⟩ := copies_tookBeat (s := s) (v := s.tookBeat site port vc rest) (b.routed ovc) rfl rfl leads
  refine ⟨u, copied ▸ event, ?_, ?_, ?_, made⟩ <;> rw [only] <;> rfl

/-- A beat reaches the endpoint that binds it, while that has a place (R316, R317, R319). -/
theorem routes_taken (runs : (s.ctx t c).run ≠ .retired) (room : (at8 (s.ctx t c).ins n).length < 8) : ∃ u, exec (.routerRoute site port vc) s = .next u ∧
    u.mem = s.mem ∧ u.records = s.records ∧ at8 (u.ctx t c).ins n = at8 (s.ctx t c).ins n ++ [b.routed ovc] ∧ (∀ k, k ≠ t → u.tile k = s.tile k) ∧
    CopiesMade s u site port vc ovc rest (b.routed ovc) outs := by
  have event := exec_routerRoute_element inside head word free bit element
  have presented := present_taken (s := s.tookBeat site port vc rest) (b := b.routed ovc) site takes runs
  rw [if_pos (by rw [localSpace_some takes, decide_eq_true room, Bool.or_true]), presented] at event
  obtain ⟨u, rs, copied, only, made⟩ :=
    copies_tookBeat (s := s) (v := (s.tookBeat site port vc rest).gotBeat t c n (b.routed ovc)) (b.routed ovc) rfl rfl leads
  refine ⟨u, copied ▸ event, ?_, ?_, ?_, fun k hk => ?_, made⟩ <;> rw [only]
  · rfl
  · rfl
  · exact ins_gotBeat (s.tookBeat site port vc rest) t c n (b.routed ovc)
  · exact tile_setCtx_other (s.tookBeat site port vc rest) hk c _

omit leads in
theorem routes_waits (runs : (s.ctx t c).run ≠ .retired) (full : 8 ≤ (at8 (s.ctx t c).ins n).length) : exec (.routerRoute site port vc) s = .next s := by
  rw [exec_routerRoute_element inside head word free bit element, if_neg]
  rw [localSpace_some takes, beq_eq_false_iff_ne.mpr runs, decide_eq_false (not_lt.mpr full)]
  exact Bool.false_ne_true

end

/-- A link that is not down moves the beat at the head of the channel whose turn it is (R320). -/
theorem links_sends {s : State} {site port next vc : Nat} {b : Beat} {rest : List Beat} (inside : site < s.siteCount ∧ port < 6)
    (beyond : s.beyond site port = some next) (other : next ≠ site)
    (turn : (vcOrder (SMap.get (s.router site).last port 31)).find? (fun v => !((s.router site).staging port v).isEmpty) = some vc)
    (head : (s.router site).staging port vc = b :: rest) (up : (s.router site).linkState port ≠ .down) :
    ∃ u, exec (.linkBeatSend site (.link port)) s = .next u ∧ u.mem = s.mem ∧ u.tiles = s.tiles ∧ (u.router site).staging port vc = rest ∧
      SMap.get (u.router site).last port 31 = vc ∧ SMap.get (u.router site).attempts port 0 = 0 ∧
      (u.router next).buf (opposite port) vc = (s.router next).buf (opposite port) vc ++ [b] := by
  refine ⟨_, exec_linkBeatSend_sends inside beyond turn up head, rfl, rfl, ?_, ?_, ?_, ?_⟩
  · rw [router_pushBeat_other _ other.symm, router_setRouter_same, Router.staging, SMap.get_set_same]
  · rw [router_pushBeat_other _ other.symm, router_setRouter_same, SMap.get_set_same]
  · rw [router_pushBeat_other _ other.symm, router_setRouter_same, SMap.get_erase_same]
  · rw [buf_pushBeat_same, router_setRouter_other _ other]

section
variable {s s1 : State} {site port ch : Nat} {b : Bool} (inside : site < s.siteCount ∧ port < 6 ∧ ch < 16) (take : s.takeCond site port ch = some (b, s1))
  {w : RWord} (word : s.condWord site port ch = some w)

theorem cbuf_takeCond (take : s.takeCond site port ch = some (b, s1)) : (s1.router site).cbuf port ch = ((s.router site).cbuf port ch).tail := by
  rw [takeCond_some take, router_setRouter_same, Router.cbuf, SMap.get_set_same]

include inside take word

theorem hops_element {t c n : Nat} (only : w.outSet = BitVec.ofNat 7 64) (element : elementAtSite site = some t)
    (sink : condSink (s.tile t) (w.outVc.getD ch) = some (c, n)) (runs : (s.ctx t c).run ≠ .retired) :
    ((at4 (s.ctx t c).cins n).length < 8 → ∃ u, exec (.conditionTokenHop site port ch) s = .next u ∧ u.mem = s.mem ∧ u.records = s.records ∧
      at4 (u.ctx t c).cins n = at4 (s.ctx t c).cins n ++ [b] ∧ (u.router site).cbuf port ch = ((s.router site).cbuf port ch).tail) ∧
    (8 ≤ (at4 (s.ctx t c).cins n).length → exec (.conditionTokenHop site port ch) s = .next s) := by
  have event := (exec_conditionTokenHop inside).trans (congrArg Host.Outcome.next (hopCond_element take word only element sink runs))
  have left := takeCond_some take
  refine ⟨fun room => ?_, fun full => by rw [event, if_neg (not_lt.mpr full)]⟩
  rw [if_pos room] at event
  refine ⟨_, event, ?_, ?_, ?_, ?_⟩
  · rw [left]; rfl
  · rw [left]; rfl
  · rw [ctx_setCtx_same, at4_set4_same]
  · rw [router_setCtx, router_setRouter_same, cbuf_takeCond take]

variable {p : Nat} (hp : p < 6) (only : w.outSet = BitVec.ofNat 7 (2 ^ p))
include hp only

theorem hops_openEnd (nothing : s.openEnd site p (w.outVc.getD ch) = true) :
    (s.condTurn site p = some (w.outVc.getD ch) → ∃ u r, exec (.conditionTokenHop site port ch) s = .next u ∧ u.mem = s.mem ∧ u.tiles = s.tiles ∧
      (u.router site).cbuf port ch = ((s.router site).cbuf port ch).tail ∧ (u.router site).miss = (s.router site).miss + 1 ∧
      u.records = s.records ++ [r] ∧ r.cls = 1 ∧ r.cause = 1) ∧
    (s.condTurn site p ≠ some (w.outVc.getD ch) → exec (.conditionTokenHop site port ch) s = .next s) := by
  have event := (exec_conditionTokenHop inside).trans (congrArg Host.Outcome.next (hopCond_openEnd take word hp only nothing))
  have left := takeCond_some take
  refine ⟨fun turn => ?_, fun wait => by rw [event, if_neg wait]⟩
  obtain ⟨r, eq, source, cls, cause⟩ := routeMiss_eq (tokenLeft s1 site p (w.outVc.getD ch)) site p (w.outVc.getD ch)
  rw [if_pos turn, eq] at event
  refine ⟨_, r, event, ?_, ?_, ?_, ?_, ?_, cls, cause⟩
  · rw [left]; rfl
  · rw [left]; rfl
  · refine (congrArg (fun x : Router => x.cbuf port ch) (router_setRouter_same ..)).trans ?_
    refine (congrArg (fun x : Router => x.cbuf port ch) (router_setRouter_same s1 site _)).trans ?_
    exact cbuf_takeCond take
  · refine (congrArg Router.miss (router_setRouter_same ..)).trans ?_
    refine (congrArg (fun x : Router => x.miss + 1) (router_setRouter_same s1 site _)).trans ?_
    rw [left, router_setRouter_same]
  · rw [left]; rfl

theorem hops_across {next : Nat} (leads : s.openEnd site p (w.outVc.getD ch) = false) (beyond : s.beyond site p = some next) (other : next ≠ site) :
    let och := w.outVc.getD ch
    let can : Prop := ((s.router next).cbuf (opposite p) och).length < 4 ∧ (s.router site).linkState p ≠ .down ∧ s.condTurn site p = some och
    (¬ can → exec (.conditionTokenHop site port ch) s = .next s) ∧
    (can → ∃ u, exec (.conditionTokenHop site port ch) s = .next u ∧ u.mem = s.mem ∧ u.tiles = s.tiles ∧ u.records = s.records ∧
      (u.router site).cbuf port ch = ((s.router site).cbuf port ch).tail ∧ SMap.get (u.router site).clast p 15 = och ∧
      (u.router next).cbuf (opposite p) och = (s.router next).cbuf (opposite p) och ++ [b]) := by
  intro och can
  have event := (exec_conditionTokenHop inside).trans (congrArg Host.Outcome.next (hopCond_across take word hp only leads beyond))
  have left := takeCond_some take
  refine ⟨fun cannot => by rw [event, if_neg cannot], fun now => ?_⟩
  have far : (tokenLeft s1 site p och).router next = s.router next := by
    rw [tokenLeft, router_setRouter_other _ other, left, router_setRouter_other _ other]
  rw [if_pos now] at event
  refine ⟨_, event, ?_, ?_, ?_, ?_, ?_, ?_⟩
  · rw [left]; rfl
  · rw [left]; rfl
  · rw [left]; rfl
  · rw [router_setRouter_other _ other.symm, tokenLeft, router_setRouter_same]
    exact cbuf_takeCond take
  · rw [router_setRouter_other _ other.symm, tokenLeft, router_setRouter_same, SMap.get_set_same]
  · rw [router_setRouter_same, far]
    exact SMap.get_set_same ..

end

/-- Settles O56: each move of a beat or a token does what the lemma of its case says. -/
theorem fabricMovesBeats : Obligations.FabricMovesBeats := by
  unfold Obligations.FabricMovesBeats
  refine ⟨fun s t c n b rest ht _ _ front quiet => ⟨fun dir vc bind => ⟨?_, fun free => ?_⟩, fun level vc bind inner => ?_, fun level vc bind outer => ⟨?_, ?_⟩⟩,
    fun s t c n ht empty => ?_, fun s site port vc hs hp hv empty => ?_, fun s site port vc b rest hs hp hv head => ⟨?_, ?_⟩, fun s site port hs hp idle => ?_,
    fun s site port next vc b rest hs hp beyond other turn head => ⟨?_, ?_⟩, fun s site port rb hs hp => ⟨?_, ?_⟩, fun s site port ch hs hp hc empty => ?_,
    fun s site port ch b s1 hs hp hc take => ⟨?_, fun w word => ⟨?_, ?_, ?_⟩⟩, ?_⟩
  · exact exec_outputBeatDepart_held ht front bind
  · exact departs quiet (exec_outputBeatDepart_link ht front bind free)
  · exact departs quiet (exec_outputBeatDepart_innerRing ht front bind inner)
  · exact exec_outputBeatDepart_noPort ht front bind outer
  · intro p port
    obtain ⟨hp, odd, served⟩ := ringPort_some port
    exact ⟨hp, odd, served, departs_ringPort (exec_outputBeatDepart_ringPort ht front quiet bind outer port)⟩
  · exact exec_outputBeatDepart_empty ht empty
  · exact exec_routerRoute_empty ⟨hs, hp, hv⟩ empty
  · exact routes_miss ⟨hs, hp, hv⟩ head
  · intro outs ovc word _ sent copied free
    have inside : site < s.siteCount ∧ port < 7 ∧ vc < 32 := ⟨hs, hp, hv⟩
    have ports : free → (∀ p ∈ outPorts outs, s.openEnd site p ovc = false) ∧ ∀ p ∈ outPorts outs, s.portSpace site p ovc = true := fun h =>
      ⟨fun p hm => (h p (mem_outPorts.mp hm).1 (mem_outPorts.mp hm).2).2, fun p hm => (h p (mem_outPorts.mp hm).1 (mem_outPorts.mp hm).2).1⟩
    refine ⟨?_, fun h nowhere => routes_links inside head word (ports h).1 (ports h).2 nowhere, fun t h bit element => ⟨fun unbound => ?_, ?_⟩, ?_⟩
    · rintro ⟨p, hp6, bit, full⟩
      exact exec_routerRoute_blocked inside head word (mem_outPorts.mpr ⟨hp6, bit⟩) full
    · exact routes_unbound inside head word (ports h).1 (ports h).2 bit element unbound
    · exact fun c n takes _ _ => ⟨routes_retired inside head word (ports h).1 (ports h).2 bit element takes,
        routes_taken inside head word (ports h).1 (ports h).2 bit element takes, routes_waits inside head word (ports h).2 bit element takes⟩
    · exact fun p hp6 only nothing => routes_openEnd inside head word hp6 only nothing
  · exact exec_linkBeatSend_idle ⟨hs, hp⟩ idle
  · exact exec_linkBeatSend_down ⟨hs, hp⟩ beyond turn
  · exact links_sends ⟨hs, hp⟩ beyond other turn head
  · exact exec_linkBeatSend_noEntry ⟨hs, hp⟩ rb
  · intro t level c n even element served takes _ _ runs
    have event := exec_linkBeatSend_arrives ⟨hs, hp⟩ rb even element served takes runs
    refine ⟨fun room => ⟨_, event.trans (congrArg Host.Outcome.next (if_pos room)), rfl, rfl, ins_gotBeat .., fun k hk => tile_setCtx_other s hk c _⟩, fun full => ?_⟩
    rw [event, if_neg (not_lt.mpr full)]
  · rw [exec_conditionTokenHop ⟨hs, hp, hc⟩, hopCond_empty empty]
  · intro none
    rw [exec_conditionTokenHop ⟨hs, hp, hc⟩, hopCond_miss take none]
  · exact fun t c n only element sink _ _ runs => hops_element ⟨hs, hp, hc⟩ take word only element sink runs
  · exact fun p hp6 only nothing => hops_openEnd ⟨hs, hp, hc⟩ take word hp6 only nothing
  · exact fun p next hp6 only leads beyond other => hops_across ⟨hs, hp, hc⟩ take word hp6 only leads beyond other
  · intro s site ch t c n b rest hs hc element source _ _ empty front
    refine ⟨_, exec_conditionTokenHop_injects ⟨hs, hc⟩ element source empty front, rfl, rfl, ?_, ?_⟩
    · rw [router_setCtx, router_setRouter_same, Router.cbuf, SMap.get_set_same]
    · rw [ctx_setCtx_same, at4_set4_same]

end Sys2Proof.Machine
end

section
/-! SUPPORT. Commands of the engines (R286-R295): a translation warms its cache and changes no other translation's result, what an engine's reads and writes put in
flight, records, statuses, completion and permits (O36). -/

namespace Sys2Proof.Machine

open Sys2Proof

/-! ### Translation (R446, R450) -/

/-- What translating changes: the cache, and the counts of lookups (R235, R450). -/
def State.warmed (s : State) (tlb : List TlbEntry) (hits misses : SMap Nat) : State := { s with tlb := tlb, mscHits := hits, mscMisses := misses }

section
variable (s : State) (tlb : List TlbEntry) (hits misses : SMap Nat) (d : Nat)

theorem backed_warmed (pa : Nat) : (s.warmed tlb hits misses).backed pa = s.backed pa := rfl

theorem ownsPA_warmed (pa : Nat) : (s.warmed tlb hits misses).ownsPA d pa = s.ownsPA d pa := rfl

theorem readEntry_warmed (pa : Nat) : readEntry (s.warmed tlb hits misses) d pa = readEntry s d pa := rfl

theorem runPoison_warmed (table page : Nat) : runPoison (s.warmed tlb hits misses) table page = runPoison s table page := rfl

theorem keyFault_warmed (l : Leaf) : keyFault (s.warmed tlb hits misses) d l = keyFault s d l := rfl

theorem tableOk_warmed (frame : Nat) : tableOk (s.warmed tlb hits misses) d frame = tableOk s d frame := by
  simp only [tableOk, backed_warmed, ownsPA_warmed]

theorem tableFault_warmed (e : Nat) : tableFault (s.warmed tlb hits misses) d e = tableFault s d e := by
  simp only [tableFault, tableOk_warmed]

theorem runFault_warmed (table page e : Nat) : runFault (s.warmed tlb hits misses) d table page e = runFault s d table page e := by
  simp only [runFault, readEntry_warmed]

theorem leafWalk_warmed (table page e : Nat) : leafWalk (s.warmed tlb hits misses) d table page e = leafWalk s d table page e := by
  simp only [leafWalk, backed_warmed, ownsPA_warmed, runPoison_warmed, runFault_warmed, keyFault_warmed]
  rfl

theorem walkLevels_warmed : ∀ (ixs : List Nat) (table : Nat), walkLevels (s.warmed tlb hits misses) d ixs table = walkLevels s d ixs table
  | [], _ => rfl
  | [page], table => by simp only [walkLevels, readEntry_warmed, leafWalk_warmed]
  | ix :: next :: rest, table => by simp only [walkLevels, readEntry_warmed, tableFault_warmed, walkLevels_warmed (next :: rest)]

theorem domain_warmed : (s.warmed tlb hits misses).domain d = s.domain d := rfl

theorem walk_warmed (asid va : Nat) : walk (s.warmed tlb hits misses) d asid va = walk s d asid va := by
  simp only [walk, domain_warmed, readEntry_warmed, tableOk_warmed, walkLevels_warmed]

end

/-- A walk looks at the page of its address alone (R446). -/
theorem walk_samePage (s : State) (d asid : Nat) {va vb : Nat} (h : va / 2 ^ 16 = vb / 2 ^ 16) : walk s d asid va = walk s d asid vb := by
  have field (k n : Nat) : bits va (16 + k) n = bits vb (16 + k) n := by
    rw [bits, bits, pow_add, ← Nat.div_div_eq_div_mul, ← Nat.div_div_eq_div_mul, h]
  have h57 := field 41 7
  have h55 := field 39 2
  have h42 := field 26 13
  have h29 := field 13 13
  have h16 := field 0 13
  simp only [Nat.reduceAdd] at h57 h55 h42 h29 h16
  simp only [walk, h57, h55, h42, h29, h16]

theorem lookUp_warmed (gs : List Nat) : ∀ s : State, ∃ hits misses, s.lookUp gs = s.warmed s.tlb hits misses := by
  induction gs with
  | nil => exact fun s => ⟨s.mscHits, s.mscMisses, rfl⟩
  | cons g gs ih =>
    intro s
    cases slice : s.sliceOf g with
    | none =>
      obtain ⟨hits, misses, eq⟩ := ih s
      exact ⟨hits, misses, by simpa only [State.lookUp, List.foldl_cons, slice] using eq⟩
    | some sec =>
      obtain ⟨hits, misses, eq⟩ := ih (s.countLookups sec 1)
      refine ⟨hits, misses, ?_⟩
      simp only [State.lookUp, List.foldl_cons, slice] at eq ⊢
      exact eq

theorem countWalk_warmed (s : State) (d asid va : Nat) : ∃ hits misses, s.countWalk d asid va = s.warmed s.tlb hits misses := by
  unfold State.countWalk
  simp only
  split
  · exact ⟨s.mscHits, s.mscMisses, rfl⟩
  · exact lookUp_warmed _ s

/-- A state in which more translations have been made: every translation still ends as before (R450). -/
structure Warmed (s u : State) : Prop where
  rest : ∃ tlb hits misses, u = s.warmed tlb hits misses
  same : ∀ cache d asid va, (translate u cache d asid va).1 = (translate s cache d asid va).1

theorem Warmed.refl (s : State) : Warmed s s := ⟨⟨s.tlb, s.mscHits, s.mscMisses, rfl⟩, fun _ _ _ _ => rfl⟩

theorem Warmed.trans {s t u : State} (h : Warmed s t) (h' : Warmed t u) : Warmed s u := by
  obtain ⟨tlb, hits, misses, rfl⟩ := h.rest
  obtain ⟨tlb', hits', misses', rfl⟩ := h'.rest
  exact ⟨⟨tlb', hits', misses', rfl⟩, fun cache d asid va => (h'.same ..).trans (h.same ..)⟩

/-- The entry of a translation cache for a page. -/
def State.cached (s : State) (cache d asid page : Nat) : Option TlbEntry :=
  s.tlb.find? fun e => e.cache = cache ∧ e.domain = d ∧ e.asid = asid ∧ e.page = page

/-- What a translation ends in, by what the cache holds (R450). -/
theorem translate_fst (s : State) (cache d asid va : Nat) : (translate s cache d asid va).1 =
    if bits va 57 7 ≠ 0 then .fault 1 else (s.cached cache d asid (va / 2 ^ 16)).elim (walk s d asid va) fun e => .leaf e.leaf := by
  unfold translate
  split
  · rfl
  · cases hit : s.cached cache d asid (va / 2 ^ 16) with
    | some e =>
      rw [State.cached] at hit
      simp only [hit, Option.elim_some]
    | none =>
      rw [State.cached] at hit
      simp only [hit, Option.elim_none]
      cases walk s d asid va <;> rfl

/-- A cache entry gained by a walk answers as the walk does. -/
theorem translate_gained {s : State} {hits misses : SMap Nat} {cache d asid va : Nat} {l : Leaf} (walked : walk s d asid va = .leaf l) :
    Warmed s (s.warmed (s.tlb ++ [{ cache := cache, domain := d, asid := asid, page := va / 2 ^ 16, leaf := l }]) hits misses) := by
  refine ⟨⟨_, _, _, rfl⟩, fun cache' d' asid' vb => ?_⟩
  rw [translate_fst, translate_fst, walk_warmed]
  congr 1
  simp only [State.cached, State.warmed, List.find?_append]
  cases s.tlb.find? fun e => e.cache = cache' ∧ e.domain = d' ∧ e.asid = asid' ∧ e.page = vb / 2 ^ 16 with
  | some e => rfl
  | none =>
    rw [Option.none_or, List.find?_singleton]
    by_cases named : cache = cache' ∧ d = d' ∧ asid = asid' ∧ va / 2 ^ 16 = vb / 2 ^ 16
    · rw [if_pos (decide_eq_true named)]
      obtain ⟨rfl, rfl, rfl, page⟩ := named
      rw [← walk_samePage s d asid page, walked]
      rfl
    · rw [if_neg (by simpa using named)]

theorem translate_warmed (s : State) (cache d asid va : Nat) : Warmed s (translate s cache d asid va).2 := by
  obtain ⟨hits, misses, counted⟩ := countWalk_warmed s d asid va
  have plain : Warmed s (s.warmed s.tlb hits misses) := ⟨⟨_, _, _, rfl⟩, fun cache d asid va => by
    rw [translate_fst, translate_fst, walk_warmed]
    rfl⟩
  unfold translate
  split
  · exact Warmed.refl s
  · cases hit : s.cached cache d asid (va / 2 ^ 16) with
    | some e =>
      rw [State.cached] at hit
      simp only [hit]
      exact Warmed.refl s
    | none =>
      rw [State.cached] at hit
      simp only [hit, counted]
      cases walked : walk s d asid va with
      | leaf l => exact translate_gained walked
      | fault cause => exact plain
      | poison pa => exact plain

/-! ### Pages and pieces of an engine's access (R291-R293) -/

theorem enginePage_snd (s : State) (q va : Nat) (write near : Bool) :
    (enginePage s q va write near).2 = (translate s (cacheOfQueue q) ((s.queueDomain q).getD 0) (s.cmdQueue q).asid va).2 := by
  unfold enginePage
  simp only
  split
  · rfl
  · rfl
  · simp only [apply_ite Prod.snd, ite_self]

theorem enginePage_warmed (s : State) (q va : Nat) (write near : Bool) : Warmed s (enginePage s q va write near).2 := by
  rw [enginePage_snd]
  exact translate_warmed ..

/-- What an engine finds of a page, from what its translation ends in (R292). -/
theorem enginePage_fst_congr {s u : State} (h : Warmed s u) (q va : Nat) (write near : Bool) :
    (enginePage u q va write near).1 = (enginePage s q va write near).1 := by
  have same := h.same (cacheOfQueue q) ((s.queueDomain q).getD 0) (s.cmdQueue q).asid va
  obtain ⟨tlb, hits, misses, eq⟩ := h.rest
  have queue : u.cmdQueue q = s.cmdQueue q := by rw [eq]; rfl
  have domain : u.queueDomain q = s.queueDomain q := by rw [eq]; rfl
  unfold enginePage
  rw [queue, domain]
  simp only [same]
  cases (translate s (cacheOfQueue q) ((s.queueDomain q).getD 0) (s.cmdQueue q).asid va).1 with
  | fault c => rfl
  | poison pa => rfl
  | leaf l => simp only [apply_ite Prod.fst]

/-- Pieces made one after another from the pages that addresses translate to; the first page that cannot be used ends them. -/
def enginePieces {β : Type} (q : Nat) (write near : Bool) (va : β → Nat) (piece : State → β → Leaf → Piece) :
    List β → State → Except (Nat × Nat) (List Piece) × State
  | [], s => (.ok [], s)
  | x :: xs, s =>
    match enginePage s q (va x) write near with
    | (.error e, s1) => (.error e, s1)
    | (.ok l, s1) =>
      match enginePieces q write near va piece xs s1 with
      | (.error e, s2) => (.error e, s2)
      | (.ok ps, s2) => (.ok (piece s x l :: ps), s2)

section
variable {β : Type} {q : Nat} {write near : Bool} {va : β → Nat} {piece : State → β → Leaf → Piece}

theorem enginePieces_ok (xs : List β) : ∀ s : State, (∀ x ∈ xs, ∃ l, (enginePage s q (va x) write near).1 = .ok l) →
    ∃ ps u, enginePieces q write near va piece xs s = (.ok ps, u) ∧ Warmed s u ∧
      List.Forall₂ (fun x p => ∃ l v, (enginePage s q (va x) write near).1 = .ok l ∧ p = piece v x l) xs ps := by
  induction xs with
  | nil => exact fun s _ => ⟨[], s, rfl, Warmed.refl s, .nil⟩
  | cons x xs ih =>
    intro s pages
    obtain ⟨l, page⟩ := pages x (by simp)
    have warm := enginePage_warmed s q (va x) write near
    obtain ⟨ps, u, made, warm', each⟩ := ih (enginePage s q (va x) write near).2 fun y hy => by
      rw [enginePage_fst_congr warm]
      exact pages y (by simp [hy])
    refine ⟨piece s x l :: ps, u, ?_, warm.trans warm', .cons ⟨l, s, page, rfl⟩ ?_⟩
    · have pair : enginePage s q (va x) write near = (.ok l, (enginePage s q (va x) write near).2) := Prod.ext page rfl
      rw [enginePieces, pair]
      simp only [made]
    · exact each.imp fun y p ⟨l, v, page, hp⟩ => ⟨l, v, by rw [← enginePage_fst_congr warm]; exact page, hp⟩

theorem enginePieces_error {x : β} {after : List β} {e : Nat × Nat} : ∀ (before : List β) (s : State),
    (∀ y ∈ before, ∃ l, (enginePage s q (va y) write near).1 = .ok l) → (enginePage s q (va x) write near).1 = .error e →
    ∃ u, enginePieces q write near va piece (before ++ x :: after) s = (.error e, u) ∧ Warmed s u := by
  intro before
  induction before with
  | nil =>
    intro s _ page
    refine ⟨_, ?_, enginePage_warmed s q (va x) write near⟩
    have pair : enginePage s q (va x) write near = (.error e, (enginePage s q (va x) write near).2) := Prod.ext page rfl
    rw [List.nil_append, enginePieces, pair]
  | cons y before ih =>
    intro s pages page
    obtain ⟨l, first⟩ := pages y (by simp)
    have warm := enginePage_warmed s q (va y) write near
    obtain ⟨u, failed, warm'⟩ := ih (enginePage s q (va y) write near).2
      (fun z hz => by rw [enginePage_fst_congr warm]; exact pages z (by simp [hz])) (by rw [enginePage_fst_congr warm]; exact page)
    refine ⟨u, ?_, warm.trans warm'⟩
    have pair : enginePage s q (va y) write near = (.ok l, (enginePage s q (va y) write near).2) := Prod.ext first rfl
    rw [List.cons_append, enginePieces, pair]
    simp only [failed]

end

/-- A granule read whole under a result number. -/
def readPiece (s : State) (x : Nat × Nat) (l : Leaf) : Piece :=
  { gran := l.pa x.2 / 16, va := x.2, key := s.keyIdent l, mt := l.mt, op := .load [{ lane := x.1, off := 0, width := 128 }] }

/-- The bytes of a granule that lie in a range, written and set full (R293). -/
def writePiece (va len data : Nat) (s : State) (g : Nat) (l : Leaf) : Piece :=
  let lo := max va g
  let hi := min (va + len) (g + 16)
  { gran := l.pa g / 16, va := g, key := s.keyIdent l, mt := l.mt,
    op := .store (BitVec.ofNat 128 (bits data (8 * (lo - va)) (8 * (hi - lo)) * 2 ^ (8 * (lo - g))))
      (BitVec.ofNat 128 ((2 ^ (8 * (hi - lo)) - 1) * 2 ^ (8 * (lo - g)))) true false }

theorem readPieces_eq (q : Nat) (near : Bool) (ks : List (Nat × Nat)) : ∀ s, readPieces q near ks s = enginePieces q false near Prod.snd readPiece ks s := by
  induction ks with
  | nil => exact fun s => rfl
  | cons x ks ih =>
    intro s
    obtain ⟨k, va⟩ := x
    simp only [readPieces, enginePieces, ih]
    rfl

theorem writePieces_eq (q : Nat) (near : Bool) (va len data : Nat) (gs : List Nat) :
    ∀ s, writePieces q near va len data gs s = enginePieces q true near id (writePiece va len data) gs s := by
  induction gs with
  | nil => exact fun s => rfl
  | cons g gs ih =>
    intro s
    simp only [writePieces, enginePieces, ih]
    rfl

/-! ### Bytes of a piece -/

theorem testBit_bits (x lo n i : Nat) : (bits x lo n).testBit i = (decide (i < n) && x.testBit (lo + i)) := by
  rw [bits, Nat.testBit_mod_two_pow, Nat.testBit_div_two_pow, Nat.add_comm]

/-- A byte of a mask of n bytes from byte j. -/
theorem bits_byteMask {n j k : Nat} : bits ((2 ^ (8 * n) - 1) * 2 ^ (8 * j)) (8 * k) 8 = if j ≤ k ∧ k < j + n then 255 else 0 := by
  refine Nat.eq_of_testBit_eq fun i => ?_
  have full : (255 : Nat).testBit i = decide (i < 8) := Nat.testBit_two_pow_sub_one 8 i
  rw [testBit_bits, Nat.testBit_mul_two_pow, Nat.testBit_two_pow_sub_one]
  by_cases hi : i < 8
  · split
    · next inside =>
      rw [full]
      simp only [hi, decide_true, Bool.true_and, Bool.and_eq_true, decide_eq_true_eq]
      omega
    · next outside =>
      rw [Nat.zero_testBit, decide_eq_true hi, Bool.true_and, Bool.and_eq_false_iff, decide_eq_false_iff_not, decide_eq_false_iff_not]
      omega
  · rw [decide_eq_false hi, Bool.false_and]
    split
    · rw [full, decide_eq_false hi]
    · rw [Nat.zero_testBit]

/-- A byte of n bytes of data placed from byte j. -/
theorem bits_byteData {x lo n j k : Nat} (inside : j ≤ k ∧ k < j + n) : bits (bits x (8 * lo) (8 * n) * 2 ^ (8 * j)) (8 * k) 8 = bits x (8 * (lo + (k - j))) 8 := by
  refine Nat.eq_of_testBit_eq fun i => ?_
  rw [testBit_bits, testBit_bits, Nat.testBit_mul_two_pow, testBit_bits]
  by_cases hi : i < 8
  · have at' : 8 * lo + (8 * k + i - 8 * j) = 8 * (lo + (k - j)) + i := by omega
    have above : 8 * j ≤ 8 * k + i := by omega
    have below : 8 * k + i - 8 * j < 8 * n := by omega
    rw [at', decide_eq_true above, decide_eq_true below, Bool.true_and, Bool.true_and]
  · rw [decide_eq_false hi, Bool.false_and, Bool.false_and]

/-- What a piece of a write does to each byte of its granule. -/
theorem writePiece_bytes (va len data g : Nat) (s : State) (l : Leaf) : ∃ d m, (writePiece va len data s g l).op = .store d m true false ∧
    ∀ k, k < 16 → bits m.toNat (8 * k) 8 = (if va ≤ g + k ∧ g + k < va + len then 255 else 0) ∧
      (va ≤ g + k → g + k < va + len → bits d.toNat (8 * k) 8 = bits data (8 * (g + k - va)) 8) := by
  refine ⟨_, _, rfl, fun k hk => ?_⟩
  have short (x : Nat) : bits (BitVec.ofNat 128 x).toNat (8 * k) 8 = bits x (8 * k) 8 := by
    refine Nat.eq_of_testBit_eq fun i => ?_
    rw [testBit_bits, testBit_bits, BitVec.toNat_ofNat, Nat.testBit_mod_two_pow]
    by_cases hi : i < 8
    · rw [decide_eq_true (show 8 * k + i < 128 by omega), Bool.true_and]
    · rw [decide_eq_false hi, Bool.false_and, Bool.false_and]
  rw [short, short]
  refine ⟨?_, fun low high => ?_⟩
  · rw [bits_byteMask]
    congr 1
    simp only [eq_iff_iff]
    omega
  · rw [bits_byteData (by omega)]
    congr 2
    omega

/-! ### The head command and its run (R289, R290) -/

theorem commands_of_headCommand {s : State} {q : Nat} {c : Command} (h : s.headCommand q = some c) : ∃ cs, (s.cmdQueue q).commands = c :: cs := by
  unfold State.headCommand at h
  cases commands : (s.cmdQueue q).commands with
  | nil => simp only [commands, reduceCtorEq] at h
  | cons d ds =>
    simp only [commands, Option.ite_none_left_eq_some, Option.some.injEq] at h
    exact ⟨ds, by rw [h.2]⟩

@[simp] theorem cmdQueue_setCmdQueue_same (s : State) (q : Nat) (x : Queue) : (s.setCmdQueue q x).cmdQueue q = x := SMap.get_set_same ..

theorem setRun_of_cons {s : State} {q : Nat} {c : Command} {cs : List Command} (h : (s.cmdQueue q).commands = c :: cs) (r : EngineRun) :
    s.setRun q r = s.setCmdQueue q { s.cmdQueue q with commands := { c with run := some r } :: cs } := by
  simp only [State.setRun, State.setHead, h, List.tail_cons]

theorem setRun_queues (s : State) (q : Nat) (r : EngineRun) : ∃ queues, s.setRun q r = { s with queues := queues } := by
  cases h : (s.cmdQueue q).commands with
  | nil => exact ⟨s.queues, by simp only [State.setRun, h]⟩
  | cons c cs => exact ⟨_, setRun_of_cons h r⟩

theorem setRun_tiles (s : State) (q : Nat) (r : EngineRun) : (s.setRun q r).tiles = s.tiles := by
  obtain ⟨queues, h⟩ := setRun_queues s q r
  rw [h]

theorem setRun_accesses (s : State) (q : Nat) (r : EngineRun) : (s.setRun q r).accesses = s.accesses := by
  obtain ⟨queues, h⟩ := setRun_queues s q r
  rw [h]

theorem setRun_commands {s : State} {q : Nat} {c : Command} {cs : List Command} (h : (s.cmdQueue q).commands = c :: cs) (r : EngineRun) :
    ((s.setRun q r).cmdQueue q).commands = { c with run := some r } :: cs := by
  rw [setRun_of_cons h, cmdQueue_setCmdQueue_same]

/-- A command that ends at an address in a state in which more translations have been made. -/
theorem endAt_ends {s u : State} (h : Warmed s u) (q : Nat) (r : EngineRun) (st va : Nat) : CommandEnds s q r st va (u.endAt q r (st, va)) := by
  obtain ⟨tlb, hits, misses, rfl⟩ := h.rest
  exact { mem := State.setRun_mem .., tiles := setRun_tiles .., accesses := setRun_accesses ..,
          run := fun c cs commands => setRun_commands (s := s.warmed tlb hits misses) commands _ }

/-! ### Accesses put in flight (R291-R293) -/

theorem issue_eq (s : State) (a : Access) : ∃ tags writers,
    s.issue a = { s with writers := writers, accesses := s.accesses ++ [{ a with tags := tags }], nextAccess := s.nextAccess + 1 } := by
  unfold State.issue
  by_cases h : a.number = 0
  · exact ⟨a.tags, s.writers, by rw [if_pos h, if_pos h]⟩
  · refine ⟨s.tagsNow a.writer, (s.recordTag a.writer a.number).writers, ?_⟩
    rw [if_neg h, if_neg h]
    rfl

/-- An access of an engine put in flight for its head command, whose run is then another. -/
structure Issued (s : State) (q number : Nat) (r : EngineRun) (ps : List Piece) (u : State) : Prop where
  mem : u.mem = s.mem
  tiles : u.tiles = s.tiles
  access : ∃ a, u.accesses = s.accesses ++ [a] ∧ a.id = s.nextAccess ∧ a.writer = writerOfQueue q ∧ a.origin = .queue q ∧ a.number = number ∧ a.results = [] ∧
    a.poisonAt = none ∧ a.pieces = ps
  run : ∀ c cs, (s.cmdQueue q).commands = c :: cs → (u.cmdQueue q).commands = { c with run := some r } :: cs

theorem issued_of_warmed {s u : State} (h : Warmed s u) (q number : Nat) (r : EngineRun) (ps : List Piece) :
    Issued s q number r ps ((u.issue (engineAccess u q number ps)).setRun q r) := by
  obtain ⟨tlb, hits, misses, rfl⟩ := h.rest
  obtain ⟨tags, writers, issue⟩ := issue_eq (s.warmed tlb hits misses) (engineAccess (s.warmed tlb hits misses) q number ps)
  rw [issue]
  refine ⟨State.setRun_mem .., setRun_tiles .., ⟨_, setRun_accesses .., rfl, rfl, rfl, rfl, rfl, rfl, rfl⟩, fun c cs commands => setRun_commands ?_ r⟩
  exact commands

/-! ### Reads and writes of an engine (R292, R293) -/

section
variable {α β γ : Type} {R : α → β → Prop} {xs : List α} {ys : List β}

theorem exists_of_mem_forall₂ (h : List.Forall₂ R xs ys) {y : β} (hy : y ∈ ys) : ∃ x ∈ xs, R x y := by
  induction h with
  | nil => cases hy
  | @cons a b as bs hab _ ih =>
    rcases List.mem_cons.mp hy with rfl | hy
    · exact ⟨a, by simp, hab⟩
    · obtain ⟨x, hx, hxy⟩ := ih hy
      exact ⟨x, by simp [hx], hxy⟩

theorem map_eq_of_forall₂ {f : α → γ} {g : β → γ} (h : List.Forall₂ R xs ys) (eq : ∀ x y, R x y → f x = g y) : xs.map f = ys.map g := by
  induction h with
  | nil => rfl
  | cons hab _ ih => rw [List.map_cons, List.map_cons, eq _ _ hab, ih]

end

/-- The granules of ranges, each under its result number. -/
def readKeys (ranges : List (Nat × Nat)) : List (Nat × Nat) :=
  ranges.zipIdx.flatMap fun x => (granulesOf x.1.1 x.1.2).zipIdx.map fun g => (16 * x.2 + g.2, g.1)

theorem readKeys_granules (ranges : List (Nat × Nat)) : (readKeys ranges).map Prod.snd = ranges.flatMap fun x => granulesOf x.1 x.2 := by
  have granules (x : (Nat × Nat) × Nat) :
      ((granulesOf x.1.1 x.1.2).zipIdx.map fun g => (16 * x.2 + g.2, g.1)).map Prod.snd = granulesOf x.1.1 x.1.2 := by
    rw [List.map_map]
    exact List.zipIdx_map_fst 0 _
  calc (readKeys ranges).map Prod.snd
      = ranges.zipIdx.flatMap fun x => granulesOf x.1.1 x.1.2 := by simp only [readKeys, List.map_flatMap, granules]
    _ = (ranges.zipIdx.map Prod.fst).flatMap fun x => granulesOf x.1 x.2 := by rw [List.flatMap_map]
    _ = ranges.flatMap fun x => granulesOf x.1 x.2 := by rw [List.zipIdx_map_fst]

theorem engineRead_eq (s : State) (q : Nat) (near : Bool) (r : EngineRun) (ranges : List (Nat × Nat)) : s.engineRead q near r ranges =
    match enginePieces q false near Prod.snd readPiece (readKeys ranges) s with
    | (.error st, s1) => s1.endAt q r st
    | (.ok ps, s1) => (s1.issue (engineAccess s1 q 0 ps)).setRun q { r with reading := some s1.nextAccess } := by
  unfold State.engineRead
  simp only [readPieces_eq]
  rfl

theorem engineRead_reads {s : State} {q : Nat} {near : Bool} {ranges : List (Nat × Nat)} (r : EngineRun)
    (pages : ∀ va ∈ ranges.flatMap fun x => granulesOf x.1 x.2, ∃ l, (enginePage s q va false near).1 = .ok l) :
    EngineReads s q near r ranges (s.engineRead q near r ranges) := by
  rw [← readKeys_granules] at pages
  obtain ⟨ps, u, made, warm, each⟩ := enginePieces_ok (piece := readPiece) (readKeys ranges) s fun x hx => pages x.2 (List.mem_map_of_mem hx)
  have next : u.nextAccess = s.nextAccess := by
    obtain ⟨tlb, hits, misses, rfl⟩ := warm.rest
    rfl
  rw [engineRead_eq, made]
  simp only [next]
  obtain ⟨mem, tiles, ⟨a, accesses, id, writer, origin, number, results, poison, pieces⟩, run⟩ :=
    issued_of_warmed warm q 0 { r with reading := some s.nextAccess } ps
  refine ⟨mem, tiles, ⟨a, accesses, id, writer, origin, number, results, poison, ?_, fun p hp => ?_⟩, run⟩
  · rw [← readKeys_granules, pieces]
    refine (map_eq_of_forall₂ each ?_).symm
    rintro x p ⟨l, v, -, rfl⟩
    rfl
  · rw [pieces] at hp
    obtain ⟨x, -, l, v, page, rfl⟩ := exists_of_mem_forall₂ each hp
    exact ⟨l, x.1, page, rfl, rfl, rfl⟩

theorem engineRead_ends {s : State} {q : Nat} {near : Bool} {ranges : List (Nat × Nat)} {before after : List Nat} {va st at' : Nat} (r : EngineRun)
    (split : (ranges.flatMap fun x => granulesOf x.1 x.2) = before ++ va :: after)
    (pages : ∀ v ∈ before, ∃ l, (enginePage s q v false near).1 = .ok l) (page : (enginePage s q va false near).1 = .error (st, at')) :
    CommandEnds s q r st at' (s.engineRead q near r ranges) := by
  rw [← readKeys_granules, List.map_eq_append_iff] at split
  obtain ⟨ks, ks', keys, rfl, rest⟩ := split
  obtain ⟨k, ks'', rfl, rfl, rfl⟩ := List.map_eq_cons_iff.mp rest
  obtain ⟨u, failed, warm⟩ := enginePieces_error (va := Prod.snd) (piece := readPiece) (after := ks'') ks s
    (fun x hx => pages x.2 (List.mem_map_of_mem hx)) page
  rw [engineRead_eq, keys, failed]
  exact endAt_ends warm q r st at'

theorem engineWrites_of_pages {s : State} {q number : Nat} {near : Bool} {va len data : Nat} (r : EngineRun)
    (pages : ∀ g ∈ granulesOf va len, ∃ l, (enginePage s q g true near).1 = .ok l) :
    ∃ ps u, writePieces q near va len data (granulesOf va len) s = (.ok ps, u) ∧
      EngineWrites s q number near r va len data ((u.issue (engineAccess u q number ps)).setRun q r) := by
  obtain ⟨ps, u, made, warm, each⟩ := enginePieces_ok (va := id) (piece := writePiece va len data) (granulesOf va len) s pages
  refine ⟨ps, u, by rw [writePieces_eq, made], ?_⟩
  obtain ⟨mem, tiles, ⟨a, accesses, id, writer, origin, num, -, -, pieces⟩, run⟩ := issued_of_warmed warm q number r ps
  refine ⟨mem, tiles, ⟨a, accesses, id, writer, origin, num, ?_, fun p hp => ?_⟩, run⟩
  · rw [pieces, ← List.map_id (granulesOf va len)]
    refine (map_eq_of_forall₂ each ?_).symm
    rintro x p ⟨l, v, -, rfl⟩
    rfl
  · rw [pieces] at hp
    obtain ⟨g, -, l, v, page, rfl⟩ := exists_of_mem_forall₂ each hp
    obtain ⟨d, m, op, bytes⟩ := writePiece_bytes va len data g v l
    exact ⟨l, d, m, page, rfl, rfl, op, bytes⟩

/-! ### Tokens and permits delivered (R288, R302) -/

/-- A state in which tokens and permits have reached their elements: no more than elements and sequencers is another. -/
def Delivered (s u : State) : Prop := ∃ tiles seqs, u = { s with tiles := tiles, seqs := seqs }

theorem Delivered.refl (s : State) : Delivered s s := ⟨s.tiles, s.seqs, rfl⟩

theorem Delivered.trans {s t u : State} (h : Delivered s t) (h' : Delivered t u) : Delivered s u := by
  obtain ⟨tiles, seqs, rfl⟩ := h
  obtain ⟨tiles', seqs', rfl⟩ := h'
  exact ⟨tiles', seqs', rfl⟩

theorem delivered_setSequencer (s : State) (col : Nat) (sq : Sequencer) : Delivered s (s.setSequencer col sq) := ⟨s.tiles, _, rfl⟩

theorem delivered_setCtx (s : State) (t c : Nat) (cx : Ctx) : Delivered s (s.setCtx t c cx) := ⟨_, s.seqs, rfl⟩

theorem delivered_returnPermit (s : State) (q : Nat) : Delivered s (s.returnPermit q) := by
  unfold State.returnPermit
  dsimp only
  split
  · exact Delivered.refl s
  · split
    · exact delivered_setSequencer ..
    · exact ⟨_, s.seqs, rfl⟩

/-- The permit tied to a token that has gone. -/
theorem delivered_tiedPermit (s : State) (k : SeqToken) :
    Delivered s (if k.permit && k.gen == (s.cmdQueue k.queue).gen then s.returnPermit k.queue else s) := by
  split
  · exact delivered_returnPermit ..
  · exact Delivered.refl s

theorem delivered_sendToken {s u : State} {col : Nat} {k : SeqToken} (h : s.sendToken col k = some u) : Delivered s u := by
  unfold State.sendToken at h
  dsimp only at h
  split at h
  · cases h
  · cases h
    exact delivered_tiedPermit s k
  · split at h
    · cases h
      exact delivered_tiedPermit s k
    · split at h
      · cases h
        exact delivered_tiedPermit s k
      · split at h
        · cases h
        · cases h
          exact (delivered_setCtx ..).trans (delivered_tiedPermit _ k)

theorem delivered_flushList (col : Nat) (ks : List SeqToken) : ∀ (kept : List SeqToken) (s : State), Delivered s (flushList col ks kept s).2 := by
  induction ks with
  | nil => exact fun _ s => Delivered.refl s
  | cons k rest ih =>
    intro kept s
    rw [flushList]
    split
    · exact ih ..
    · split
      · next u sent => exact (delivered_sendToken sent).trans (ih ..)
      · exact ih ..

theorem delivered_flushTokens (s : State) (col : Nat) : Delivered s (s.flushTokens col) :=
  (delivered_flushList ..).trans (delivered_setSequencer ..)

theorem delivered_tell (s : State) (q : Nat) (c : Command) (it : Iteration) (status : Nat) (permit : Bool) : Delivered s (s.tell q c it status permit) :=
  (delivered_setSequencer ..).trans (delivered_flushTokens ..)

/-! ### Completion and stop (R67, R289, R294) -/

/-- A state in which a permit of a queue has been owed or tied to a token: the queue is as it was but for the permits owed, and no record has been sent. -/
structure Owes (q : Nat) (s u : State) : Prop where
  records : u.records = s.records
  queue : ∃ n, u.cmdQueue q = { s.cmdQueue q with owed := n }

theorem Owes.trans {q : Nat} {s t u : State} (h : Owes q s t) (h' : Owes q t u) : Owes q s u := by
  obtain ⟨n, hn⟩ := h.queue
  obtain ⟨m, hm⟩ := h'.queue
  exact ⟨h'.records.trans h.records, m, by rw [hm, hn]⟩

theorem Delivered.owes {s u : State} (h : Delivered s u) (q : Nat) : Owes q s u := by
  obtain ⟨tiles, seqs, rfl⟩ := h
  exact ⟨rfl, (s.cmdQueue q).owed, rfl⟩

/-- The state with one permit of a queue owed to its mirror. -/
def State.oweOne (s : State) (q : Nat) : State := s.setCmdQueue q { s.cmdQueue q with owed := (s.cmdQueue q).owed + 1 }

theorem owes_oweOne (s : State) (q : Nat) : Owes q s (s.oweOne q) := ⟨rfl, _, cmdQueue_setCmdQueue_same ..⟩

/-- The permit of a command whose owner has attached since its append. -/
theorem owes_late (s : State) (q gen : Nat) : Owes q s (if gen = (s.cmdQueue q).gen then s else s.oweOne q) := by
  split
  · exact (Delivered.refl s).owes q
  · exact owes_oweOne s q

theorem owePermit_of_iter_none {c : Command} (h : c.iter = none) (s : State) (q status : Nat) : s.owePermit q c status = s.oweOne q := by
  simp only [State.owePermit, h]
  rfl

theorem owes_owePermit (s : State) (q : Nat) (c : Command) (status : Nat) : Owes q s (s.owePermit q c status) := by
  cases iter : c.iter with
  | none =>
    rw [owePermit_of_iter_none iter]
    exact owes_oweOne s q
  | some it =>
    simp only [State.owePermit, iter]
    split
    · split
      · exact ((delivered_setSequencer ..).owes q).trans (owes_late _ q it.gen)
      · exact owes_oweOne s q
    · split
      · exact ((delivered_tell ..).owes q).trans (owes_late _ q it.gen)
      · exact owes_oweOne s q

theorem owes_commandDone (s : State) (q : Nat) (c : Command) (status : Nat) :
    Owes q (s.setCmdQueue q { s.cmdQueue q with commands := (s.cmdQueue q).commands.tail, done := c.number, status := status, stopped := false })
      (s.commandDone q c status) := by
  obtain ⟨records, queue⟩ := owes_owePermit
    (s.setCmdQueue q { s.cmdQueue q with commands := (s.cmdQueue q).commands.tail, done := c.number, status := status, stopped := false }) q c status
  exact ⟨records, queue⟩

theorem commandDone_owed {c : Command} (h : c.iter = none) (s : State) (q status : Nat) :
    ((s.commandDone q c status).cmdQueue q).owed = (s.cmdQueue q).owed + 1 := by
  unfold State.commandDone
  dsimp only
  rw [owePermit_of_iter_none h]
  change ((State.oweOne _ q).cmdQueue q).owed = _
  rw [State.oweOne, cmdQueue_setCmdQueue_same, cmdQueue_setCmdQueue_same]

/-- The record of a queue that stops at a command with a status (R67, R471). -/
def State.stopRecord (s : State) (q : Nat) (c : Command) (r : EngineRun) (status : Nat) : FaultRecord :=
  { s.unitRecord (writerOfQueue q) 10 3 r.bad (BitVec.ofNat 128 (q + status * 2 ^ 16 + c.address * 2 ^ 64)) with
    halted := true, witness := if bitAt (recWord r.record 0) 8 then recWit r.record else nullWitness }

/-- A queue that stops has sent its record, and perhaps a token. -/
theorem stopQueue_sends (s : State) (q : Nat) (c : Command) (r : EngineRun) (status : Nat) : ∃ x : FaultRecord,
    Delivered ((s.setCmdQueue q { s.cmdQueue q with stopped := true, status := status, commands := { c with told := true } :: (s.cmdQueue q).commands.tail }).send x)
      (s.stopQueue q c r status) ∧
    x.source = writerOfQueue q ∧ x.cls = 10 ∧ x.cause = 3 ∧ x.halted = true ∧ x.address = r.bad := by
  unfold State.stopQueue
  dsimp only
  refine ⟨State.stopRecord (s.setCmdQueue q
    { s.cmdQueue q with stopped := true, status := status, commands := { c with told := true } :: (s.cmdQueue q).commands.tail }) q c r status,
    ?_, rfl, rfl, rfl, rfl, rfl⟩
  split
  · split
    · exact delivered_tell ..
    · exact Delivered.refl _
  · exact Delivered.refl _

/-! ### The moves that read a record (R66, R290, R292, R295) -/

theorem statusAt_eq (c : Command) : c.statusAt = match c.source with
    | .chain (some a) _ _ => some ((a + 60) % 2 ^ 64)
    | _ => none := by
  unfold Command.statusAt
  have sum (a : Nat) : wrap 64 ((a : Int) + 60) = (a + 60) % 2 ^ 64 := by
    rw [wrap]
    omega
  cases c.source with
  | inline rec' => rfl
  | chain addr w h =>
    cases addr with
    | none => rfl
    | some a => exact congrArg some (sum a)

theorem badCmd_iff {q : Nat} {rec' : V512} (two : recCmd rec' ≠ 2) (three : recCmd rec' ≠ 3) : badCmd q rec' = false ↔
    if q < 256 then 1 ≤ recCmd rec' ∧ recCmd rec' ≤ 5 else 0x11 ≤ recCmd rec' ∧ recCmd rec' ≤ 0x14 := by
  have listed : badCmd q rec' = !cmdListed q (recCmd rec') := by
    simp only [badCmd, beq_false_of_ne two, beq_false_of_ne three, Bool.false_and, Bool.or_false]
  rw [listed, cmdListed, isNear, Bool.not_eq_false']
  by_cases near : q < 256
  · simp only [near, ↓reduceIte, show ¬ 256 ≤ q by omega, decide_false, Bool.false_eq_true, Bool.and_eq_true, decide_eq_true_eq]
  · simp only [near, ↓reduceIte, show 256 ≤ q by omega, decide_true, Bool.and_eq_true, decide_eq_true_eq]

/-- A command whose record the engine has not read. -/
structure Unread (s : State) (q : Nat) (c : Command) : Prop where
  queue : q < 272
  head : s.headCommand q = some c
  record : c.record = none

section
variable {s : State} {q : Nat} {c : Command}

theorem exec_recordRead_inline (h : Unread s q c) (run : c.run = none) {rec' : V512} (source : c.source = .inline rec') :
    exec (.engineRecordRead q) s = .next (s.haveRecord q c rec') := by
  change execEngineRecordRead q s = _
  rw [execEngineRecordRead, if_neg (by have := h.queue; omega), h.head]
  simp only [h.record, run, source]

theorem exec_recordRead_misaligned (h : Unread s q c) (run : c.run = none) {a k : Nat} {w : W64} (source : c.source = .chain (some a) w k) (align : a % 64 ≠ 0) :
    exec (.engineRecordRead q) s = .next (s.setRun q { EngineRun.start 0 with status := some 3, bad := a }) := by
  change execEngineRecordRead q s = _
  rw [execEngineRecordRead, if_neg (by have := h.queue; omega), h.head]
  simp only [h.record, run, source, if_pos align]

/-- What an engine does about an aligned record, by what the command's witness is (R66, R292). -/
def State.seekRecord (s : State) (q a : Nat) (w : W64) : Standing → State
  | .pending => s.noteLift (writerOfQueue q) w
  | .malformed => s.setRun q { EngineRun.start 0 with status := some 7 }
  | _ => s.engineRead q false (EngineRun.start 0) [(a, 64)]

theorem exec_recordRead_aligned (h : Unread s q c) (run : c.run = none) {a k : Nat} {w : W64} (source : c.source = .chain (some a) w k) (align : a % 64 = 0) :
    exec (.engineRecordRead q) s = .next (s.seekRecord q a w (s.standing (writerOfQueue q) w)) := by
  change execEngineRecordRead q s = _
  rw [execEngineRecordRead, if_neg (by have := h.queue; omega), h.head]
  simp only [h.record, run, source, align, ne_eq, not_true_eq_false, ↓reduceIte]
  cases s.standing (writerOfQueue q) w <;> rfl

theorem seekRecord_read {a : Nat} {w : W64} (standing : s.standing (writerOfQueue q) w = .satisfied ∨ s.standing (writerOfQueue q) w = .dropped) :
    s.seekRecord q a w (s.standing (writerOfQueue q) w) = s.engineRead q false (EngineRun.start 0) [(a, 64)] := by
  rcases standing with h | h <;> rw [h] <;> rfl

theorem exec_recordRead_busy (h : Unread s q c) {r : EngineRun} {id : Nat} (run : c.run = some r) (reading : r.reading = some id) (busy : s.engineBusy q = true) :
    exec (.engineRecordRead q) s = .next s := by
  change execEngineRecordRead q s = _
  rw [execEngineRecordRead, if_neg (by have := h.queue; omega), h.head]
  simp only [h.record, run, reading, busy, ↓reduceIte]

variable {r : EngineRun} {id : Nat} {a : Access}

theorem exec_recordRead_read (h : Unread s q c) (run : c.run = some r) (reading : r.reading = some id) (idle : s.engineBusy q = false)
    (found : (s.accesses.find? fun a => a.id = id) = some a) (clean : a.poisonAt = none) : exec (.engineRecordRead q) s =
      .next (State.haveRecord { s with accesses := s.accesses.filter fun a => a.id != id } q c (BitVec.ofNat 512 (passImage a))) := by
  change execEngineRecordRead q s = _
  rw [execEngineRecordRead, if_neg (by have := h.queue; omega), h.head]
  simp only [h.record, run, reading, idle, Bool.false_eq_true, ↓reduceIte, State.takeRead, found, clean]

theorem exec_recordRead_poison (h : Unread s q c) (run : c.run = some r) (reading : r.reading = some id) (idle : s.engineBusy q = false)
    (found : (s.accesses.find? fun a => a.id = id) = some a) {va : Nat} (poison : a.poisonAt = some va) : exec (.engineRecordRead q) s =
      .next (State.endAt { s with accesses := s.accesses.filter fun a => a.id != id } q r (6, va)) := by
  change execEngineRecordRead q s = _
  rw [execEngineRecordRead, if_neg (by have := h.queue; omega), h.head]
  simp only [h.record, run, reading, idle, Bool.false_eq_true, ↓reduceIte, State.takeRead, found, poison]

end

/-- The commands of a queue when the record of its head has come from a chain: the next command of the chain, if its record's place was unknown, has NEXT. -/
theorem haveRecord_chain {s : State} {q : Nat} {c : Command} {cs : List Command} {src : Option Nat} {w : W64} {h : Nat} (source : c.source = .chain src w h)
    (commands : (s.cmdQueue q).commands = c :: cs) (rec' : V512) : ∃ rest,
    ((s.haveRecord q c rec').cmdQueue q).commands = { c with record := some rec', run := some { EngineRun.start rec' with status := recordStatus q false rec' } } :: rest ∧
    rest.length = cs.length ∧
    ∀ d ds w', cs = d :: ds → d.source = .chain none w' h → rest = { d with source := .chain (some (recNext rec')) w' h } :: ds := by
  unfold State.haveRecord
  simp only [cmdQueue_setCmdQueue_same, commands, List.tail_cons, source]
  refine ⟨_, rfl, ?_, ?_⟩
  · cases cs <;> rfl
  · rintro d ds w' rfl next
    simp only [next, ↓reduceIte]

theorem haveRecord_inline {s : State} {q : Nat} {c : Command} {rec' : V512} (source : c.source = .inline rec') (commands : ∃ cs, (s.cmdQueue q).commands = c :: cs) :
    ((s.haveRecord q c rec').cmdQueue q).commands = (s.cmdQueue q).commands.set 0
      { c with record := some rec', run := some { EngineRun.start rec' with status := recordStatus q true rec' } } := by
  obtain ⟨cs, commands⟩ := commands
  unfold State.haveRecord
  simp only [cmdQueue_setCmdQueue_same, commands, List.tail_cons, source, List.set_cons_zero]
  cases cs <;> rfl

/-! ### The moves of completion (R67, R289) -/

/-- A command that has ended with a status. -/
structure Ended (s : State) (q : Nat) (c : Command) (r : EngineRun) (st : Nat) : Prop where
  queue : q < 272
  head : s.headCommand q = some c
  run : c.run = some r
  status : r.status = some st

section
variable {s : State} {q : Nat} {c : Command} {r : EngineRun} {st : Nat}

theorem exec_completion_busy (h : Ended s q c r st) (busy : s.engineBusy q = true) : exec (.engineCommandCompletion q) s = .next s := by
  change execEngineCommandCompletion q s = _
  rw [execEngineCommandCompletion, if_neg (by have := h.queue; omega), h.head]
  simp only [h.run, h.status, busy, ↓reduceIte]

theorem exec_completion_store (h : Ended s q c r st) (idle : s.engineBusy q = false) {va : Nat} (unstored : r.stored = false) (place : c.statusAt = some va)
    {ps : List Piece} {u : State} (made : writePieces q false va 2 st (granulesOf va 2) s = (.ok ps, u)) :
    exec (.engineCommandCompletion q) s = .next ((u.issue (engineAccess u q c.number ps)).setRun q { r with stored := true }) := by
  change execEngineCommandCompletion q s = _
  rw [execEngineCommandCompletion, if_neg (by have := h.queue; omega), h.head]
  simp only [h.run, h.status, idle, Bool.false_eq_true, ↓reduceIte, unstored, place, made]

theorem exec_completion_storeFails (h : Ended s q c r st) (idle : s.engineBusy q = false) {va : Nat} (unstored : r.stored = false) (place : c.statusAt = some va)
    {e : Nat × Nat} {u : State} (failed : writePieces q false va 2 st (granulesOf va 2) s = (.error e, u)) : exec (.engineCommandCompletion q) s =
      .next (u.setRun q { r with stored := true, status := some (if st = 0 then e.1 else st), bad := if st = 0 then e.2 else r.bad }) := by
  change execEngineCommandCompletion q s = _
  rw [execEngineCommandCompletion, if_neg (by have := h.queue; omega), h.head]
  simp only [h.run, h.status, idle, Bool.false_eq_true, ↓reduceIte, unstored, place, failed]

theorem exec_completion_done (h : Ended s q c r st) (idle : s.engineBusy q = false) (done : r.stored = true ∨ c.statusAt = none) :
    exec (.engineCommandCompletion q) s = .next (if st = 0 then s.commandDone q c 0 else s.stopQueue q c r st) := by
  have none' : (if r.stored then none else c.statusAt) = none := by
    rcases done with stored | nowhere
    · rw [if_pos stored]
    · rw [nowhere, ite_self]
  change execEngineCommandCompletion q s = _
  rw [execEngineCommandCompletion, if_neg (by have := h.queue; omega), h.head]
  simp only [h.run, h.status, idle, Bool.false_eq_true, ↓reduceIte, none']

end

/-! ### Permits returned (R288, R302) -/

theorem flushQueue_of_no_tokens {s : State} (h : ∀ x ∈ s.seqs, x.2.tokens = []) (q : Nat) : s.flushQueue q = s := by
  have none' : (s.seqs.filter fun x => x.2.tokens.any fun k => k.queue == q) = [] :=
    List.filter_eq_nil_iff.mpr fun x hx => by simp [h x hx]
  rw [State.flushQueue, none', List.foldl_nil]

theorem exec_permitReturn {s : State} {q : Nat} (hq : q < 272) : exec (.permitReturn q) s =
    .next (if ((s.flushQueue q).cmdQueue q).owed = 0 then s.flushQueue q else
      ((s.flushQueue q).setCmdQueue q { (s.flushQueue q).cmdQueue q with owed := ((s.flushQueue q).cmdQueue q).owed - 1 }).returnPermit q) := by
  change execPermitReturn q s = _
  rw [execPermitReturn, if_neg (by omega)]
  exact (apply_ite Host.Outcome.next _ _ _).symm

/-- A permit returned to the mirror of an element. -/
def Mirror.gain (m : Mirror) : Mirror := { m with permits := min 64 (m.permits + 1) }

theorem returnPermit_mirror {s : State} {q c : Nat} {m : Mirror} (attached : (s.cmdQueue q).attached = true) (tile : (s.cmdQueue q).seq = false)
    (h : s.mirror? (s.cmdQueue q).owner c q = some m) : (s.returnPermit q).mirror? (s.cmdQueue q).owner c q = some m.gain := by
  have own := List.find?_some (p := fun m : Mirror => m.queue == q && m.ctx == c) h
  have same : ((fun m : Mirror => m.queue == q && m.ctx == c) ∘ fun m => if m.queue == q then m.gain else m) = fun m => m.queue == q && m.ctx == c := by
    funext m
    by_cases hm : m.queue == q
    · simp only [Function.comp_apply, hm, ↓reduceIte, Mirror.gain]
    · simp only [Function.comp_apply, hm, ↓reduceIte, Bool.false_eq_true]
  unfold State.returnPermit State.mirror?
  simp only [attached, tile, Bool.not_true, Bool.false_eq_true, ↓reduceIte, tile_setTile_same]
  change (((s.tile (s.cmdQueue q).owner).mirrors.map fun m => if m.queue == q then m.gain else m).find? _) = _
  rw [List.find?_map, same]
  change Option.map _ (s.mirror? (s.cmdQueue q).owner c q) = _
  rw [h, Option.map_some, if_pos (Bool.and_eq_true_iff.mp own).1]

/-- The beat of a token (R302). -/
def SeqToken.beat (k : SeqToken) : Beat := { payload := k.payload, mask := 0xFFFF, tag := 0, vc := 0, poison := false }

theorem payload_lanes (k : SeqToken) : lane 64 k.payload 0 = (localWitness (writerOfQueue k.queue) k.number).toNat ∧ lane 64 k.payload 1 = k.index % 2 ^ 64 ∧
    lane 64 k.payload 2 = k.status % 2 ^ 64 ∧ ∀ j, 3 ≤ j → j < 8 → lane 64 k.payload j = 0 := by
  have lanes (j : Nat) (hj : j < 8) : lane 64 k.payload j = [(localWitness (writerOfQueue k.queue) k.number).toNat, k.index, k.status].getD j 0 % 2 ^ 64 :=
    lane_packLanes _ (by omega)
  refine ⟨?_, ?_, ?_, fun j low high => ?_⟩
  · rw [lanes 0 (by omega), List.getD_cons_zero]
    exact Nat.mod_eq_of_lt (BitVec.isLt _)
  · rw [lanes 1 (by omega), List.getD_cons_succ, List.getD_cons_zero]
  · rw [lanes 2 (by omega), List.getD_cons_succ, List.getD_cons_succ, List.getD_cons_zero]
  · rw [lanes j high, List.getD_eq_default _ _ (by simpa using low), Nat.zero_mod]

theorem sendToken_delivers {s : State} {col t n : Nat} {k : SeqToken} (permit : k.permit = false) (place : s.tokenPlace col k.dest = .to t)
    (endpoint : seqEndpoint (s.ctx t k.dest.ctx) = some n) (room : (at8 (s.ctx t k.dest.ctx).ins n).length < 8) (held : (s.ctx t k.dest.ctx).held = false)
    (live : (s.ctx t k.dest.ctx).run ≠ .retired) : s.sendToken col k = some (s.setCtx t k.dest.ctx
      { s.ctx t k.dest.ctx with ins := set8 (s.ctx t k.dest.ctx).ins n (at8 (s.ctx t k.dest.ctx).ins n ++ [k.beat]) }) := by
  unfold State.sendToken
  simp only [place, endpoint, beq_false_of_ne live, held, permit, show ¬ 8 ≤ (at8 (s.ctx t k.dest.ctx).ins n).length by omega, decide_false, Bool.or_false,
    Bool.false_and, Bool.false_eq_true, ↓reduceIte]
  rfl

theorem flushQueue_of_one_token {s u : State} {q col : Nat} {sq : Sequencer} {k : SeqToken} (seqs : s.seqs = [(col, sq)]) (tokens : sq.tokens = [k]) (queue : k.queue = q)
    (sent : s.sendToken col k = some u) : s.flushQueue q = u.setSequencer col { u.sequencer col with tokens := [] } := by
  have sequencer : s.sequencer col = sq := by
    rw [State.sequencer, seqs]
    exact if_pos rfl
  have named : (s.seqs.filter fun x => x.2.tokens.any fun k => k.queue == q) = [(col, sq)] := by
    simp [seqs, tokens, queue]
  have flushed : flushList col [k] [] s = ([], u) := by
    simp only [flushList, List.any_nil, Bool.false_eq_true, ↓reduceIte, sent]
  rw [State.flushQueue, named, List.foldl_cons, List.foldl_nil, State.flushTokens, sequencer, tokens, flushed]

/-! ### What a finished read, a completion and a returned permit leave -/

section
variable {s : State} {q : Nat} {c : Command} {r : EngineRun} {st : Nat}

theorem writePieces_error {va len data g e at' : Nat} {before after : List Nat} (split : granulesOf va len = before ++ g :: after)
    (pages : ∀ v ∈ before, ∃ l, (enginePage s q v true false).1 = .ok l) (page : (enginePage s q g true false).1 = .error (e, at')) :
    ∃ u, writePieces q false va len data (granulesOf va len) s = (.error (e, at'), u) ∧ Warmed s u := by
  rw [split, writePieces_eq]
  exact enginePieces_error (va := id) (piece := writePiece va len data) before s pages page

theorem completion_storeFails (h : Ended s q c r st) (idle : s.engineBusy q = false) {va : Nat} (unstored : r.stored = false) (place : c.statusAt = some va)
    {before after : List Nat} {g e : Nat} (split : granulesOf va 2 = before ++ g :: after)
    (pages : ∀ v ∈ before, ∃ l, (enginePage s q v true false).1 = .ok l) (page : (enginePage s q g true false).1 = .error (e, g)) :
    ∃ u, exec (.engineCommandCompletion q) s = .next u ∧ u.mem = s.mem ∧ u.accesses = s.accesses ∧ ∀ cs, (s.cmdQueue q).commands = c :: cs →
      (u.cmdQueue q).commands = { c with run := some { r with stored := true, status := some (if st = 0 then e else st), bad := if st = 0 then g else r.bad } } :: cs := by
  obtain ⟨u, failed, warm⟩ := writePieces_error (data := st) split pages page
  obtain ⟨tlb, hits, misses, rfl⟩ := warm.rest
  exact ⟨_, exec_completion_storeFails h idle unstored place failed, State.setRun_mem .., setRun_accesses ..,
    fun cs commands => setRun_commands (s := s.warmed tlb hits misses) commands _⟩

theorem completion_completes (h : Ended s q c r 0) (idle : s.engineBusy q = false) (done : r.stored = true ∨ c.statusAt = none) :
    ∃ u, exec (.engineCommandCompletion q) s = .next u ∧ u.mem = s.mem ∧ (u.cmdQueue q).done = c.number ∧ (u.cmdQueue q).status = 0 ∧
      (u.cmdQueue q).stopped = false ∧ (u.cmdQueue q).commands = (s.cmdQueue q).commands.tail ∧ u.records = s.records ∧
      (c.iter = none → (u.cmdQueue q).owed = (s.cmdQueue q).owed + 1) := by
  obtain ⟨records, n, queue⟩ := owes_commandDone s q c 0
  rw [cmdQueue_setCmdQueue_same] at queue
  refine ⟨_, exec_completion_done h idle done, State.commandDone_mem .., ?_, ?_, ?_, ?_, records, fun iter => commandDone_owed iter s q 0⟩
  all_goals rw [if_pos rfl, queue]

theorem completion_stops (h : Ended s q c r st) (failed : st ≠ 0) (idle : s.engineBusy q = false) (done : r.stored = true ∨ c.statusAt = none) :
    ∃ u x, exec (.engineCommandCompletion q) s = .next u ∧ u.mem = s.mem ∧ (u.cmdQueue q).stopped = true ∧ (u.cmdQueue q).status = st ∧
      (u.cmdQueue q).done = (s.cmdQueue q).done ∧ (u.cmdQueue q).commands.length = (s.cmdQueue q).commands.length ∧
      u.records = s.records ++ [x] ∧ x.source = writerOfQueue q ∧ x.cls = 10 ∧ x.cause = 3 ∧ x.halted = true ∧ x.address = r.bad := by
  obtain ⟨cs, commands⟩ := commands_of_headCommand h.head
  obtain ⟨x, sent, fields⟩ := stopQueue_sends s q c r st
  obtain ⟨tiles, seqs, eq⟩ := sent
  have queue : (s.stopQueue q c r st).cmdQueue q =
      { s.cmdQueue q with stopped := true, status := st, commands := { c with told := true } :: (s.cmdQueue q).commands.tail } := by
    rw [eq]
    exact cmdQueue_setCmdQueue_same ..
  refine ⟨s.stopQueue q c r st, x, by rw [exec_completion_done h idle done, if_neg failed], State.stopQueue_mem .., ?_, ?_, ?_, ?_, ?_, fields⟩
  · rw [queue]
  · rw [queue]
  · rw [queue]
  · rw [queue, commands, List.tail_cons, List.length_cons, List.length_cons]
  · rw [eq]
    rfl

theorem recordRead_takes (h : Unread s q c) {id h' : Nat} {src : Option Nat} {w : W64} {a : Access} (run : c.run = some r) (source : c.source = .chain src w h')
    (reading : r.reading = some id) (idle : s.engineBusy q = false) (found : (s.accesses.find? fun a => a.id = id) = some a) (clean : a.poisonAt = none) :
    let rec' : V512 := BitVec.ofNat 512 (passImage a)
    ∃ u, exec (.engineRecordRead q) s = .next u ∧ u.mem = s.mem ∧ u.tiles = s.tiles ∧ u.accesses = s.accesses.filter (fun a => a.id != id) ∧
      ∃ rest, (u.cmdQueue q).commands = { c with record := some rec', run := some { EngineRun.start rec' with status := recordStatus q false rec' } } :: rest ∧
        rest.length + 1 = (s.cmdQueue q).commands.length ∧
        ∀ d ds w', (s.cmdQueue q).commands = c :: d :: ds → d.source = .chain none w' h' → rest = { d with source := .chain (some (recNext rec')) w' h' } :: ds := by
  intro rec'
  obtain ⟨cs, commands⟩ := commands_of_headCommand h.head
  obtain ⟨rest, now, length, next⟩ := haveRecord_chain (s := { s with accesses := s.accesses.filter fun a => a.id != id }) source commands rec'
  refine ⟨_, exec_recordRead_read h run reading idle found clean, rfl, rfl, rfl, rest, now, ?_, fun d ds w' eq => next d ds w' ?_⟩
  · rw [length, commands, List.length_cons]
  · rw [commands] at eq
    exact (List.cons.inj eq).2

theorem permitReturn_returns (hq : q < 272) (tokens : ∀ x ∈ s.seqs, x.2.tokens = []) (tile : (s.cmdQueue q).seq = false) (attached : (s.cmdQueue q).attached = true)
    (owed : 0 < (s.cmdQueue q).owed) : ∃ u, exec (.permitReturn q) s = .next u ∧ u.mem = s.mem ∧ (u.cmdQueue q).owed = (s.cmdQueue q).owed - 1 ∧
      ∀ c m, s.mirror? (s.cmdQueue q).owner c q = some m → u.mirror? (s.cmdQueue q).owner c q = some { m with permits := min 64 (m.permits + 1) } := by
  refine ⟨(s.setCmdQueue q { s.cmdQueue q with owed := (s.cmdQueue q).owed - 1 }).returnPermit q, ?_, by simp, ?_, fun c m mirror => ?_⟩
  · rw [exec_permitReturn hq, flushQueue_of_no_tokens tokens, if_neg (by omega)]
  · obtain ⟨tiles, seqs, eq⟩ := delivered_returnPermit (s.setCmdQueue q { s.cmdQueue q with owed := (s.cmdQueue q).owed - 1 }) q
    rw [eq]
    exact congrArg Queue.owed (cmdQueue_setCmdQueue_same s q { s.cmdQueue q with owed := (s.cmdQueue q).owed - 1 })
  · have gained := returnPermit_mirror (s := s.setCmdQueue q { s.cmdQueue q with owed := (s.cmdQueue q).owed - 1 }) (q := q) (c := c) (m := m)
    rw [cmdQueue_setCmdQueue_same] at gained
    exact gained attached tile mirror

theorem permitReturn_sends (hq : q < 272) {col t n : Nat} {sq : Sequencer} {k : SeqToken} (owed : (s.cmdQueue q).owed = 0) (seqs : s.seqs = [(col, sq)])
    (tokens : sq.tokens = [k]) (queue : k.queue = q) (permit : k.permit = false) (place : s.tokenPlace col k.dest = .to t)
    (endpoint : seqEndpoint (s.ctx t k.dest.ctx) = some n) (room : (at8 (s.ctx t k.dest.ctx).ins n).length < 8) (held : (s.ctx t k.dest.ctx).held = false)
    (live : (s.ctx t k.dest.ctx).run ≠ .retired) : ∃ u, exec (.permitReturn q) s = .next u ∧ u.mem = s.mem ∧ (u.sequencer col).tokens = [] ∧
      at8 (u.ctx t k.dest.ctx).ins n = at8 (s.ctx t k.dest.ctx).ins n ++ [k.beat] := by
  have flushed := flushQueue_of_one_token seqs tokens queue (sendToken_delivers permit place endpoint room held live)
  refine ⟨s.flushQueue q, ?_, State.flushQueue_mem .., ?_, ?_⟩
  · have queue : (s.flushQueue q).cmdQueue q = s.cmdQueue q := by
      rw [flushed]
      rfl
    rw [exec_permitReturn hq, queue, if_pos owed]
  · rw [flushed]
    exact congrArg Sequencer.tokens (SMap.get_set_same ..)
  · rw [flushed]
    change at8 ((s.setCtx t k.dest.ctx _).ctx t k.dest.ctx).ins n = _
    rw [ctx_setCtx_same, at8_set8_same]

end

/-- Settles O36: each move of an engine's command at its own equation; a read and a write by the pieces of their pages, which the translations made before leave
as they were. -/
theorem commandsBeginAndEnd : Obligations.CommandsBeginAndEnd := by
  unfold Obligations.CommandsBeginAndEnd
  refine ⟨?_, ?_, ?_, fun _ _ _ => rfl, fun _ _ => badCmd_iff, ?_, ?_, statusAt_eq, ?_, ?_⟩
  · intro s q c rec' hq head record run source
    exact ⟨_, exec_recordRead_inline ⟨hq, head, record⟩ run source, rfl, rfl, haveRecord_inline source (commands_of_headCommand head)⟩
  · intro s q c a w h hq head record run source
    have unread : Unread s q c := ⟨hq, head, record⟩
    have range : ([(a, 64)].flatMap fun x => granulesOf x.1 x.2) = granulesOf a 64 := by
      rw [List.flatMap_cons, List.flatMap_nil, List.append_nil]
    refine ⟨?_, ?_, ?_, fun align standing pages => ?_, fun align standing before va after st split pages page => ?_⟩
    · rintro misaligned _ rfl
      exact exec_recordRead_misaligned unread run source misaligned
    · rintro align malformed _ rfl
      rw [exec_recordRead_aligned unread run source align, malformed]
      rfl
    · rintro align pending _ rfl
      rw [exec_recordRead_aligned unread run source align, pending]
      rfl
    · refine ⟨_, exec_recordRead_aligned unread run source align, ?_⟩
      rw [seekRecord_read standing]
      exact engineRead_reads _ (by rwa [range])
    · refine ⟨_, exec_recordRead_aligned unread run source align, ?_⟩
      rw [seekRecord_read standing]
      exact engineRead_ends _ (range.trans split) pages page
  · intro s q c r id a src w h hq head record run source reading
    have unread : Unread s q c := ⟨hq, head, record⟩
    refine ⟨exec_recordRead_busy unread run reading, recordRead_takes unread run source reading, fun va idle found poison => ?_⟩
    exact ⟨_, exec_recordRead_poison unread run reading idle found poison, endAt_ends (Warmed.refl _) q r 6 va⟩
  · intro s q c r st hq head run status idle
    have ended : Ended s q c r st := ⟨hq, head, run, status⟩
    refine ⟨fun va unstored place pages => ?_, fun va before g after e unstored place => completion_storeFails ended idle unstored place, fun done => ⟨?_, fun failed => ?_⟩⟩
    · obtain ⟨ps, u, made, writes⟩ := engineWrites_of_pages (number := c.number) (data := st) { r with stored := true } pages
      exact ⟨_, exec_completion_store ended idle unstored place made, writes⟩
    · rintro rfl
      exact completion_completes ended idle done
    · exact completion_stops ended failed idle done
  · intro s q c r hq head run ended busy
    obtain ⟨st, status⟩ := Option.isSome_iff_exists.mp ended
    exact exec_completion_busy ⟨hq, head, run, status⟩ busy
  · exact fun s q hq => permitReturn_returns hq
  · intro s q col sq k t n hq _ owed seqs tokens queue permit place endpoint room held live
    obtain ⟨u, next, mem, sent, beat⟩ := permitReturn_sends hq owed seqs tokens queue permit place endpoint room held live
    obtain ⟨witness, index, status, rest⟩ := payload_lanes k
    rw [queue] at witness
    exact ⟨u, k.beat, next, mem, sent, beat, rfl, rfl, rfl, rfl, witness, index, status, rest⟩

end Sys2Proof.Machine
end

section
/-! SUPPORT. A fault found at a firing: every slot instruction fires by the one shared operation, and what halting a context leaves (O8). -/

namespace Sys2Proof.Machine

open Sys2Proof

/-- An outcome is that of a firing of `i`. -/
def Fires (i : Instr) (s : State) (o : Host.Outcome State Fault Refusal) : Prop := ∃ body, o = fire i body s

theorem fire_fires (i : Instr) (body : State → Firing → Fired) (s : State) : Fires i s (fire i body s) := ⟨body, rfl⟩
theorem fireLanes_fires (i : Instr) (g : State → Firing → LaneResult) (s : State) : Fires i s (fireLanes i g s) := ⟨_, rfl⟩
theorem fireInt_fires (i : Instr) (g : Bool → Nat → Int → Int → Int → Nat × Bool) (s : State) : Fires i s (fireInt i g s) := fireLanes_fires ..
theorem fireBits_fires (i : Instr) (g : Slot → Nat → Nat → Nat → Nat) (s : State) : Fires i s (fireBits i g s) := fireLanes_fires ..
theorem fireCmp_fires (i : Instr) (g : Int → Int → Bool) (s : State) : Fires i s (fireCmp i g s) := fireInt_fires ..
theorem fireWhole_fires (i : Instr) (g : Firing → List Nat) (s : State) : Fires i s (fireWhole i g s) := fireLanes_fires ..
theorem fireReduce_fires (i : Instr) (o : Fold) (s : State) : Fires i s (fireReduce i o s) := fireWhole_fires ..
theorem fireFloat_fires (i : Instr) (g : Slot → Fmt → Nat → Nat → Nat → FRes) (s : State) : Fires i s (fireFloat i g s) := fireLanes_fires ..
theorem fireFcmp_fires (i : Instr) (which : Nat) (s : State) : Fires i s (fireFcmp i which s) := fireLanes_fires ..
theorem firePred_fires (i : Instr) (g : Firing → Mask) (s : State) : Fires i s (firePred i g s) := ⟨_, rfl⟩
theorem fireMatrix_fires (i : Instr) (body : State → Firing → RowEngine → Fired) (s : State) : Fires i s (fireMatrix i body s) := ⟨_, rfl⟩
theorem fireRequest_fires (i : Instr) (s : State) : Fires i s (fireRequest i s) := ⟨_, rfl⟩
theorem fireFrsm_fires (i : Instr) (only : Option Nat) (s : State) : Fires i s (fireFrsm i only s) := ⟨_, rfl⟩

/-- Every slot instruction fires by the one shared operation (R44, R323, R469). -/
theorem exec_fires {i : Instr} {opc sub : Nat} {f : Slot} (code : toCode i = some (opc, sub, f)) (s : State) : Fires i s (exec i s) := by
  unfold exec
  cases i with
  | add | sub | adds | subs | neg | abs | mul | mulh | mulhz | mad | divs | divz | rems | remz | min | max | minz | maxz => exact fireInt_fires ..
  | and | or | xor | not | andn | shl | shr | sra | rol | clz | popc | brev | bfx | bfi | mov | movi | lea => exact fireBits_fires ..
  | cmpeq | cmpne | cmplt | cmple | cmpltz | cmplez => exact fireCmp_fires ..
  | sel | shuf | bcst | scan => exact fireWhole_fires ..
  | idx | cvt | cbenc | cbdec | pack | unpk | fnoi => exact fireLanes_fires ..
  | redadd | redmin | redmax | redand | redor => exact fireReduce_fires ..
  | fadd | fsub | fmul | ffma | fmin | fmax | fabs | fneg | fscl | frnd | fdiv | fsqrt | frsq | frcp | fex2 | flg2 | ftnh | fsig | fgum => exact fireFloat_fires ..
  | fcmpeq | fcmplt | fcmple | fcmpun => exact fireFcmp_fires ..
  | mset | mldb | mcbt | mprd | mrow | mout | mclr | mspl | mfil => exact fireMatrix_fires ..
  | pset | pclr | pand | por | pxor | pnot | pmov | pany | pall => exact firePred_fires ..
  | creq | creqReplace => exact fireRequest_fires ..
  | frsmRetry | frsmRetire | frsmKill => exact fireFrsm_fires ..
  | fflg | chn | chnw | skq | skim | skfw | skfn | skmg | nop | retire | time | sread | trap | brkp | steer | merge | csnd | crcv | advc | advp | qstat | qpeek
  | drop | tagset | ccfg | cnxt | crst | ld | st | ldw | ldx | stx | pft | ldfeClr | ldfeKeep | stfe | aadd | amin | amax | aand | aor | axor | aswp | acas | afadd
  | wmrg | wlft | wlftH | wrdy | wwt | wnul | fenceD | hcpy | hred | ha2a | hcol | hfng | nzer | ncpy | ncmp | nfen | qapp | qfen | qseq | dtab | sqit
  | gini | gadv | gmsk | gfrk | gcmt | grbk | gsav | grst | gsta | crel | etrg | tlbir | tlbsy | ksltAssign | ksltLoad | ksltGenerate | ksltClear
  | dctlDefine | dctlQuiesce | dctlScrub | dctlSwitch | dctlReload | ecnt | frec => exact fire_fires ..
  | _ => cases code

/-- A source that cannot be read halts the context of an eligible slot, whatever the instruction would have done (R127, R139, R469). -/
theorem fire_of_source_fault {i : Instr} {opc sub : Nat} {f : Slot} {row : OpRow} {s : State} {e : SrcFault} (body : State → Firing → Fired)
    (code : toCode i = some (opc, sub, f)) (hrow : opRow opc sub = some row)
    (common : readyCommon i row f s s.cur.tile s.cur.ctx s.cur.slot = true) (own : readyOwn i s s.cur.tile s.cur.ctx s.cur.slot = true)
    (fault : readOperands i row f s s.cur.tile s.cur.ctx s.cur.slot = .error e) :
    fire i body s = .next (s.haltCtx s.cur.tile s.cur.ctx s.cur.slot e.info) := by
  simp [fire, code, hrow, common, own, fault]

section
variable (s : State) (t c slot : Nat) (fi : FaultInfo)

theorem tile_haltCtx_other {k : Nat} (h : k ≠ t) : (s.haltCtx t c slot fi).tile k = s.tile k := tile_setCtx_other s h c _

theorem tile_haltCtx_rest : { (s.haltCtx t c slot fi).tile t with ctxs := (s.tile t).ctxs } = s.tile t := by
  have halted : (s.haltCtx t c slot fi).tile t = (s.tile t).setCtx c _ := tile_setTile_same s t _
  rw [halted, Tile.setCtx]

theorem ctx_haltCtx_other {k : Nat} (h : k % 8 ≠ c % 8) : (s.haltCtx t c slot fi).ctx t k = s.ctx t k := ctx_setCtx_other s h _

theorem ctx_haltCtx_same : (s.haltCtx t c slot fi).ctx t c =
    { s.ctx t c with run := .halted, halt := some (((s.ctx t c).halt.getD HaltInfo.first).add s.nextRecord slot fi) } := ctx_setCtx_same s t c _

theorem records_haltCtx : (s.haltCtx t c slot fi).records = s.records ++ [s.contextRecord t c slot true fi] := rfl

theorem haltCtx_rest : { s.haltCtx t c slot fi with tiles := s.tiles, records := s.records, nextRecord := s.nextRecord } = s := rfl

end

/-- Settles O8: the shared operation halts the context before anything of the firing happens, and a halt changes `run`, `halt` and the records. -/
theorem faultStopsFiring : Obligations.FaultStopsFiring := by
  refine ⟨fun i opc sub f row s e code hrow common own fault => ?_, fun s t c slot fi => ?_⟩
  · obtain ⟨body, fires⟩ := exec_fires code s
    rw [fires, fire_of_source_fault body code hrow common own fault]
  · have same := ctx_haltCtx_same s t c slot fi
    exact ⟨by rw [same], by rw [same], fun _ => ctx_haltCtx_other s t c slot fi, fun _ => tile_haltCtx_other s t c slot fi, tile_haltCtx_rest s t c slot fi,
      haltCtx_rest s t c slot fi, _, records_haltCtx s t c slot fi, rfl, rfl, rfl, rfl, rfl, rfl, rfl, rfl, rfl, rfl, rfl, rfl, rfl, rfl⟩

end Sys2Proof.Machine
end

section
/-! SUPPORT. Floating-point instructions (R111, R160-R168, R178): a lane result that is given lane by lane has the effect that statements name, and the float rows
have 32-bit lanes (O14). -/

namespace Sys2Proof.Machine

open Sys2Proof

/-- A fired lane instruction has the effect of its lane result. -/
theorem fireLanes_effect {i : Instr} {s : State} {fr : Firing} {compute : State → Firing → LaneResult} {val : Nat → Nat} {c : Nat → Bool} {fl : Nat → FpFlags}
    (firing : s.firingOf i = some fr) (hw : fr.w = 32 ∨ fr.w = 64) (vals : ∀ l, l < fr.n → (compute s fr).vals.getD l 0 = val l)
    (cond : ∀ l, l < fr.n → (compute s fr).cond.getD l false = c l) (flags : flagsOver fr.w fr.e (compute s fr).flags = fr.gather fl) :
    ∃ t, fireLanes i compute s = .next t ∧ LaneEffect i s fr val c fl t := by
  obtain ⟨ht, hc, -⟩ := firingOf_place firing
  exact ⟨_, fire_of _ firing, applyLanes_effect _ val c fl ⟨ht, hc⟩ hw vals cond flags⟩

theorem getD_map_range {α : Type} (g : Nat → α) {n l : Nat} (h : l < n) (d : α) : ((List.range n).map g).getD l d = g l := by
  simp [h]

/-- Flags given for each lane of the form are gathered over E. -/
theorem flagsOver_map_range (fr : Firing) (fl : Nat → FpFlags) : flagsOver fr.w fr.e ((List.range fr.n).map fl) = fr.gather fl := by
  rw [flagsOver, Firing.gather, List.length_map, List.length_range]
  refine List.foldl_ext _ _ _ fun acc l hl => ?_
  rw [getD_map_range fl (List.mem_range.mp (List.mem_filter.mp hl).1)]

/-- A lane instruction that computes value, condition and flags of each lane of its form has the effect of these functions. -/
theorem fireLanes_effect_of_tabulated {i : Instr} {s : State} {fr : Firing} {compute : State → Firing → LaneResult} {val : Nat → Nat} {c : Nat → Bool}
    {fl : Nat → FpFlags} (firing : s.firingOf i = some fr) (hw : fr.w = 32 ∨ fr.w = 64)
    (table : compute s fr = ⟨(List.range fr.n).map val, (List.range fr.n).map c, (List.range fr.n).map fl⟩) :
    ∃ t, fireLanes i compute s = .next t ∧ LaneEffect i s fr val c fl t :=
  fireLanes_effect firing hw (fun _ h => by rw [table, getD_map_range val h]) (fun _ h => by rw [table, getD_map_range c h])
    (by rw [table, flagsOver_map_range])

/-! ### The lanes of the float rows -/

/-- Only CVT has a form whose width is not that of TYPE (R136, R170). -/
theorem formWidth_of_code {i : Instr} {opc sub : Nat} {f : Slot} (code : toCode i = some (opc, sub, f)) (other : opc ≠ 0x24) : formWidth i f = f.ty.laneWidth := by
  unfold formWidth
  split
  · cases code
    exact absurd rfl other
  · rfl

/-- The (OPC, SUB) pairs of floating-point arithmetic, functions and compares, and of FGUM (R69). -/
def isFloatCode (opc sub : Nat) : Bool := (opc == 0x20 || opc == 0x21 || opc == 0x22 || opc == 0x23) || (opc == 0x26 && sub == 2)

/-- The types of these rows have 32-bit lanes (R68, R69). -/
theorem is64_of_opRow_float {opc sub : Nat} {row : OpRow} {ty : Ty} (float : isFloatCode opc sub = true) (hrow : opRow opc sub = some row)
    (has : row.types.has ty = true) : ty.is64 = false := by
  have types : row.types = .f ∨ row.types = .f32 := by
    simp only [isFloatCode, Bool.or_eq_true, Bool.and_eq_true, beq_iff_eq] at float
    obtain block | ⟨rfl, rfl⟩ := float
    · refine .inl ?_
      obtain ((rfl | rfl) | rfl) | rfl := block
      all_goals
        simp only [opRow] at hrow
        split at hrow <;> cases hrow <;> rfl
    · cases hrow
      exact .inr rfl
  cases ty with
  | s64 | z64 => obtain h | h := types <;> simp [h, TyClass.has] at has
  | _ => rfl

section
variable {mk : Slot → Instr} {opc sub : Nat} (code : ∀ f, toCode (mk f) = some (opc, sub, f)) (float : isFloatCode opc sub = true)
include code float

theorem firing_float_width {f : Slot} {s : State} {fr : Firing} (wf : (mk f).wf = true) (firing : s.firingOf (mk f) = some fr) : fr.w = 32 := by
  obtain ⟨row, _, hrow, ok, -⟩ := (wf_of_toCode (code f)).mp wf
  obtain ⟨types, -⟩ := slotStatus_eq_ok.mp ok
  have narrow := is64_of_opRow_float float hrow (Bool.and_eq_true_iff.mp types).1
  have other : opc ≠ 0x24 := by rintro rfl; cases float
  rw [(firingOf_slot (code f) firing).2, formWidth_of_code (code f) other, Ty.laneWidth, narrow]
  rfl

theorem floatSpec_of_code {g : Slot → Fmt → Nat → Nat → Nat → FRes} (fires : ∀ f s, exec (mk f) s = fireFloat (mk f) g s) : FloatSpec mk g := by
  intro f s fr wf firing
  have width := firing_float_width code float wf firing
  rw [fires]
  refine fireLanes_effect_of_tabulated firing (.inl width) ?_
  simp only [LaneResult.ofF, List.map_map, Firing.n, width, Firing.na, Firing.nb, Firing.nc]
  rfl

/-- A compare delivers its condition as 0 or 1 and as C (R167). -/
theorem compareSpec_of_code {which : Nat} (fires : ∀ f s, exec (mk f) s = fireFcmp (mk f) which s) :
    let r (fr : Firing) (l : Nat) : Bool × FpFlags := (Fmt.ofTy fr.f.ty).compare which (fr.na l) (fr.nb l)
    LaneSpec mk (fun _ fr l => (r fr l).1.toNat) (fun _ fr l => (r fr l).1) (fun _ fr l => (r fr l).2) := by
  intro r f s fr wf firing
  have width := firing_float_width code float wf firing
  rw [fires]
  refine fireLanes_effect_of_tabulated firing (.inl width) ?_
  simp only [List.map_map, Firing.n, width, r, Firing.na, Firing.nb]
  rfl

end

/-- Settles O14: each instruction is a float row that fires its function of one element. -/
theorem floatInstructions : Obligations.FloatInstructions := by
  refine ⟨⟨?_, ?_, ?_, ?_, ?_, ?_, ?_, ?_, ?_, ?frnd, ?_, ?_, ?_, ?_⟩, ?_, ?_, ?_, ?_, ?_, ?compare⟩
  case frnd => exact floatSpec_of_code (fun _ => rfl) (by decide) fun _ _ => by simp only [← bitAt_eq_testBit]; rfl
  case compare =>
    intro p hp
    simp only [List.mem_cons, List.not_mem_nil, or_false] at hp
    obtain rfl | rfl | rfl | rfl := hp <;> exact compareSpec_of_code (fun _ => rfl) (by decide) fun _ _ => rfl
  all_goals exact floatSpec_of_code (fun _ => rfl) (by decide) fun _ _ => rfl

end Sys2Proof.Machine
end

section
/-! SUPPORT. What a reader finds a witness to be (R109, R110, R247-R250): the fields of a writer-local witness, and its standing by its level (O30). -/

namespace Sys2Proof.Machine

open Sys2Proof

theorem witLvl_eq (w : W64) : witLvl w = w.toNat / 2 ^ 60 := by
  have := w.isLt
  rw [witLvl, bits]
  omega

/-- A writer-local witness is of level 0 and holds its writer and its number (R109, R237). -/
theorem localWitness_fields {u n : Nat} (hu : u < 2 ^ 16) (hn : n < 2 ^ 43) :
    witLvl (localWitness u n) = 0 ∧ witInst (localWitness u n) = u ∧ witSeq (localWitness u n) = n := by
  have high : n / 2 ^ 40 < 2 ^ 3 := by omega
  have value : (localWitness u n).toNat = n % 2 ^ 40 + u * 2 ^ 40 + n / 2 ^ 40 * 2 ^ 56 := by
    have fits : n % 2 ^ 40 + u * 2 ^ 40 + n / 2 ^ 40 * 2 ^ 56 < 2 ^ 64 := by omega
    rw [localWitness, bits, bits, pow_zero, Nat.div_one, Nat.mod_eq_of_lt hu, Nat.mod_eq_of_lt (a := n / 2 ^ 40) (by omega), BitVec.toNat_ofNat,
      Nat.mod_eq_of_lt fits]
  have level : (localWitness u n).toNat / 2 ^ 60 = 0 := by omega
  have writer : (localWitness u n).toNat / 2 ^ 40 % 2 ^ 16 = u := by omega
  refine ⟨by rw [witLvl_eq, level], writer, ?_⟩
  simp only [witSeq, bits, value]
  omega

/-- Below the wrap of 44-bit numbers, a writer's own witness stands by comparison with PF and ISSUED (R248). -/
theorem ownStanding_eq {pf issued n : Nat} (le : pf ≤ issued) (hi : issued < 2 ^ 43) (hn : n < 2 ^ 43) :
    ownStanding pf issued n = if n ≤ pf then .satisfied else if n ≤ issued then .pending else .malformed := by
  have wraps {x : Nat} (hx : x < 2 ^ 43) : (x + 2 ^ 44 - n) % 2 ^ 44 < 2 ^ 43 ↔ n ≤ x := by omega
  simp only [ownStanding, wraps hi, wraps (lt_of_le_of_lt le hi)]

section
variable (s : State) (u : Nat) {w : W64}

theorem standing_null (lvl : witLvl w = 15) : s.standing u w = .satisfied := by
  simp [State.standing, lvl]

theorem standing_reservedLevel (low : 9 ≤ witLvl w) (high : witLvl w ≤ 14) : s.standing u w = .malformed := by
  rw [State.standing, if_neg (by omega), if_neg (by omega), if_neg (by omega)]

theorem standing_noWriter (lvl : witLvl w = 0) (absent : s.isWriter (witInst w) = false) : s.standing u w = .malformed := by
  simp [State.standing, lvl, absent]

theorem standing_own (lvl : witLvl w = 0) (own : witInst w = u) (writer : s.isWriter u = true) :
    s.standing u w = ownStanding (s.pf u) ((s.writer u).issued % 2 ^ 44) (witSeq w) := by
  simp [State.standing, lvl, own, writer]

theorem standing_outside (low : 1 ≤ witLvl w) (high : witLvl w ≤ 8) (outside : s.groupOf u (witLvl w) ≠ some (witInst w)) : s.standing u w = .dropped := by
  rw [State.standing, if_neg (by omega), if_neg (by omega), if_pos high, if_neg (by simpa using outside)]

end

/-- Settles O30: by the level of the witness, and for the reader's own one by its number. -/
theorem witnessStandings : Obligations.WitnessStandings := by
  refine ⟨fun s u w lvl => ?_, fun s u w low high => ?_, fun s u w lvl absent => ?_, fun s u n writer hu le hi hn => ?_, fun s u w low high outside => ?_⟩
  · exact standing_null s u (by rwa [witLvl_eq])
  · exact standing_reservedLevel s u (by rwa [witLvl_eq]) (by rwa [witLvl_eq])
  · exact standing_noWriter s u (by rwa [witLvl_eq]) absent
  · obtain ⟨lvl, own, seq⟩ := localWitness_fields hu hn
    rw [standing_own s u lvl own writer, seq, Nat.mod_eq_of_lt (by omega), ownStanding_eq le hi hn]
  · rw [← witLvl_eq] at low high outside
    exact standing_outside s u low high outside

end Sys2Proof.Machine
end

section
/-! SUPPORT. Integer, address and lane instructions (R135-R159): what a firing of each of their shared operations leaves behind, the lane functions that the
model and the statements write differently, and the settlements of O10 to O13. -/

namespace Sys2Proof.Machine

open Sys2Proof

/-! ### Lane results without flags -/

theorem lane_lt (w : Nat) (v : V512) (l : Nat) : lane w v l < 2 ^ w := Nat.mod_lt _ (by positivity)

theorem getD_lanesOf (w : Nat) (v : V512) {n l : Nat} (h : l < n) : (lanesOf w n v).getD l 0 = lane w v l := getD_map_range _ h 0

/-- Lanes that raise nothing gather nothing. -/
theorem gather_zero (fr : Firing) : fr.gather (fun _ => 0) = 0 :=
  List.foldlRecOn _ _ (motive := (· = 0)) rfl fun _ h _ _ => h.symm ▸ BitVec.zero_or

/-- A lane instruction that gives value and condition of each lane of its form, and raises no flag, has the effect of these. -/
theorem fireLanes_effect_of_results {i : Instr} {s : State} {fr : Firing} {compute : State → Firing → LaneResult} {rs : List (Nat × Bool)} {val : Nat → Nat}
    {c : Nat → Bool} (firing : s.firingOf i = some fr) (hw : fr.w = 32 ∨ fr.w = 64) (table : compute s fr = .of rs)
    (lanes : ∀ l, l < fr.n → rs.getD l (0, false) = (val l, c l)) :
    ∃ t, fireLanes i compute s = .next t ∧ LaneEffect i s fr val c (fun _ => 0) t := by
  refine fireLanes_effect firing hw (fun l hl => ?_) (fun l hl => ?_) (by rw [table, gather_zero]; rfl) <;> rw [table]
  · exact (List.getD_map rs (0, false) Prod.fst).trans (congrArg Prod.fst (lanes l hl))
  · exact (List.getD_map rs (0, false) Prod.snd).trans (congrArg Prod.snd (lanes l hl))

/-! ### The shared operations

A constructor with its pair of the map, CVT's aside, fires with lanes of 32 or 64 bits; each shared operation then meets the specification of its lane function. -/

section
variable {mk : Slot → Instr} {opc sub : Nat} (code : ∀ f, toCode (mk f) = some (opc, sub, f)) (other : opc ≠ 0x24)
include code other

theorem firing_laneWidth {f : Slot} {s : State} {fr : Firing} (firing : s.firingOf (mk f) = some fr) : fr.w = 32 ∨ fr.w = 64 := by
  rw [(firingOf_slot (code f) firing).2, formWidth_of_code (code f) other, Ty.laneWidth]
  split
  · exact .inr rfl
  · exact .inl rfl

theorem laneSpec_of_results {results : Firing → List (Nat × Bool)} {val : Firing → Nat → Nat} {c : Firing → Nat → Bool}
    (fires : ∀ f s, exec (mk f) s = fireLanes (mk f) (fun _ fr => .of (results fr)) s)
    (lanes : ∀ fr l, l < fr.n → (results fr).getD l (0, false) = (val fr l, c fr l)) :
    LaneSpec mk (fun _ fr l => val fr l) (fun _ fr l => c fr l) (fun _ _ _ => 0) := by
  intro f s fr _ firing
  rw [fires]
  exact fireLanes_effect_of_results firing (firing_laneWidth code other firing) rfl (lanes fr)

theorem laneSpec_of_fireInt {g : Bool → Nat → Int → Int → Int → Nat × Bool} {val : Firing → Nat → Nat} {c : Firing → Nat → Bool}
    (fires : ∀ f s, exec (mk f) s = fireInt (mk f) g s)
    (result : ∀ fr l, g fr.f.ty.signed fr.w (fr.ia l) (fr.ib l) (fr.ic l) = (val fr l, c fr l)) :
    LaneSpec mk (fun _ fr l => val fr l) (fun _ fr l => c fr l) (fun _ _ _ => 0) :=
  laneSpec_of_results code other fires fun fr l hl => (getD_map_range _ hl _).trans (result fr l)

/-- An integer result delivered modulo 2^w, with C that it is not zero (R140, R141). -/
theorem intSpec_of_fireInt {g : Bool → Nat → Int → Int → Int → Nat × Bool} {val : Firing → Nat → Int} (fires : ∀ f s, exec (mk f) s = fireInt (mk f) g s)
    (result : ∀ fr l, g fr.f.ty.signed fr.w (fr.ia l) (fr.ib l) (fr.ic l) = withC (wrap fr.w (val fr l))) : IntSpec mk val :=
  laneSpec_of_fireInt code other fires result

/-- A compare delivers its condition as 0 or 1 and as C (R149). -/
theorem compareSpec_of_fireCmp {g : Int → Int → Bool} (fires : ∀ f s, exec (mk f) s = fireCmp (mk f) g s) :
    LaneSpec mk (fun _ fr l => (g (fr.ia l) (fr.ib l)).toNat) (fun _ fr l => g (fr.ia l) (fr.ib l)) (fun _ _ _ => 0) :=
  laneSpec_of_fireInt code other fires fun _ _ => rfl

theorem plainSpec_of_fireBits {g : Slot → Nat → Nat → Nat → Nat} {val : Firing → Nat → Nat} (fires : ∀ f s, exec (mk f) s = fireBits (mk f) g s)
    (result : ∀ fr l, g fr.f fr.w (fr.na l) (fr.nb l) = val fr l) : PlainSpec mk val :=
  laneSpec_of_results code other fires fun fr l hl => (getD_map_range _ hl _).trans (congrArg withC (result fr l))

theorem plainSpec_of_fireWhole {g : Firing → List Nat} {val : Firing → Nat → Nat} (fires : ∀ f s, exec (mk f) s = fireWhole (mk f) g s)
    (result : ∀ fr l, l < fr.n → (g fr).getD l 0 = val fr l) : PlainSpec mk val :=
  laneSpec_of_results code other fires fun fr l hl => (List.getD_map (g fr) 0 withC).trans (congrArg withC (result fr l hl))

end

/-! ### Integer arithmetic (R141-R144) -/

/-- The remainder of R143 narrowed as a whole. -/
theorem iRem_eq (sg : Bool) (w : Nat) (a b : Int) : iRem sg w a b = (wrap w (if b = 0 then a else a.tmod b), divCorner sg w a b) :=
  congrArg (·, divCorner sg w a b) (apply_ite (wrap w) (b = 0) a (a.tmod b)).symm

/-- Settles O10: each row fires its lane function on the operands read as integers of the slot's type; the remainder is narrowed in both of its cases. -/
theorem integerArithmetic : Obligations.IntegerArithmetic := by
  refine ⟨⟨?_, ?_, ?_, ?_, ?adds, ?subs, ?_, ?_, ?_, ?_⟩, ?div, ?rem, ?_, ?_, ?_, ?_⟩
  case adds | subs =>
    refine laneSpec_of_fireInt (fun _ => rfl) (by decide) (fun _ _ => by unfold exec; rfl) fun fr l => ?_
    rfl
  case div =>
    intro mk hmk
    simp only [List.mem_cons, List.not_mem_nil, or_false] at hmk
    obtain rfl | rfl := hmk
    all_goals refine laneSpec_of_fireInt (fun _ => rfl) (by decide) (fun _ _ => by unfold exec; rfl) fun fr l => ?_
    all_goals rfl
  case rem =>
    intro mk hmk
    simp only [List.mem_cons, List.not_mem_nil, or_false] at hmk
    obtain rfl | rfl := hmk
    all_goals refine laneSpec_of_fireInt (fun _ => rfl) (by decide) (fun _ _ => by unfold exec; rfl) fun fr l => ?_
    all_goals exact iRem_eq ..
  all_goals refine intSpec_of_fireInt (fun _ => rfl) (by decide) (fun _ _ => by unfold exec; rfl) fun fr l => ?_
  all_goals rfl

/-! ### Bits and shifts (R145-R148) -/

theorem iNot_of_lt {w a : Nat} (h : a < 2 ^ w) : iNot w a = 2 ^ w - 1 - a := by
  rw [iNot, Nat.mod_eq_of_lt h]

/-- A shift by w and more leaves copies of the sign (R146). -/
theorem sgn_div_two_pow {w x : Nat} (h : x < 2 ^ w) : sgn w x / (2 ^ w : Int) = if sgn w x < 0 then -1 else 0 := by
  have bound : (x : Int) < 2 ^ w := mod_cast h
  have bounds : -(2 ^ w : Int) ≤ sgn w x ∧ sgn w x < 2 ^ w := by
    unfold sgn
    split <;> omega
  split
  · next negative => exact Int.ediv_eq_neg_one_of_neg_of_le negative (by omega)
  · next nonnegative => exact Int.ediv_eq_zero_of_lt (by omega) bounds.2

theorem iSra_of_lt {w a : Nat} (h : a < 2 ^ w) (k : Nat) :
    iSra w a k = wrap w (if k < w then sgn w a / (2 ^ k : Int) else if sgn w a < 0 then -1 else 0) := by
  rw [iSra]
  split
  · next inside => rw [min_eq_left inside.le]
  · next beyond => rw [min_eq_right (by omega), sgn_div_two_pow h]

theorem iPopc_eq (w a : Nat) : iPopc w a = ((List.range w).filter fun b => a.testBit b).length := by
  simp only [iPopc, funext (bitAt_eq_testBit a)]

theorem iBrev_eq (w a : Nat) : iBrev w a = packNat 1 ((List.range w).map fun b => (a.testBit (w - 1 - b)).toNat) := by
  simp only [iBrev, bitAt_eq_testBit]

/-- POS and LEN of a bit field (R148). -/
theorem bits_fieldPlace (imm : Nat) : bits imm 0 6 = imm % 64 ∧ bits imm 6 7 = imm / 64 % 128 := ⟨bits_eq_mod imm 6, rfl⟩

theorem iBfi_eq (a b pos len : Nat) : iBfi a b pos len = a - a / 2 ^ pos % 2 ^ len * 2 ^ pos + b % 2 ^ len * 2 ^ pos := by
  rw [iBfi, bits_eq_mod, bits]

/-- Settles O11: each row fires its lane function; those of NOT, ANDN and SRA by the range of a lane, those of POPC and BREV by its bits, those of
bit fields by the place of the field in IMM. -/
theorem bitsAndShifts : Obligations.BitsAndShifts := by
  refine ⟨⟨?and, ?or, ?xor, ?not, ?andn, ?shl, ?shr, ?sra, ?rol⟩, ?clz, ?popc, ?brev, ?bfx, ?bfi⟩
  all_goals refine plainSpec_of_fireBits (fun _ => rfl) (by decide) (fun _ _ => by unfold exec; rfl) fun fr l => ?_
  case not => exact iNot_of_lt (lane_lt ..)
  case andn => exact congrArg (fr.na l &&& ·) (iNot_of_lt (lane_lt ..))
  case sra => exact iSra_of_lt (lane_lt ..) _
  case popc => exact iPopc_eq ..
  case brev => exact iBrev_eq ..
  case bfx =>
    obtain ⟨pos, len⟩ := bits_fieldPlace fr.f.imm.toNat
    rw [pos, len, iBfx, bits]
  case bfi =>
    obtain ⟨pos, len⟩ := bits_fieldPlace fr.f.imm.toNat
    rw [pos, len, iBfi_eq]
  case and | or | xor | shl | shr | rol | clz => rfl

/-! ### Compares and moves (R149-R153) -/

/-- Settles O12: a compare's result is its condition; the other rows fire their lane function, SEL on the predicate's bit of the lane. -/
theorem comparesAndMoves : Obligations.ComparesAndMoves := by
  refine ⟨?compare, ?mov, ?movi, ?sel, ?lea⟩
  case compare =>
    intro p hp
    simp only [List.mem_cons, List.not_mem_nil, or_false] at hp
    obtain rfl | rfl | rfl | rfl | rfl | rfl := hp <;> exact compareSpec_of_fireCmp (fun _ => rfl) (by decide) fun _ _ => rfl
  case sel =>
    refine plainSpec_of_fireWhole (fun _ => rfl) (by decide) (fun _ _ => by unfold exec; rfl) fun fr l hl => ?_
    exact getD_map_range _ hl 0
  all_goals refine plainSpec_of_fireBits (fun _ => rfl) (by decide) (fun _ _ => by unfold exec; rfl) fun fr l => ?_
  case mov | movi => rfl
  case lea =>
    rw [bits_eq_mod, bits]
    push_cast
    rfl

/-! ### Lane movement (R154-R159) -/

/-- A lane of SHUF takes the lane of A that B names, if the form has it (R155). -/
theorem getD_shufLanes {n l : Nat} (a : List Nat) {b : List Nat} (h : l < b.length) :
    (shufLanes n a b).getD l 0 = if b.getD l 0 < n then a.getD (b.getD l 0) 0 else 0 := by
  simp [shufLanes, h]

theorem length_lanesOf (w n : Nat) (v : V512) : (lanesOf w n v).length = n := by
  simp [lanesOf]

/-- A fold over selected lanes below n reads the lanes of the operand. -/
theorem foldl_lanesOf (g : Nat → Nat → Nat) (e : Nat → Bool) (w : Nat) (v : V512) {m n : Nat} (h : m ≤ n) (init : Nat) :
    ((List.range m).filter e).foldl (fun acc k => g acc ((lanesOf w n v).getD k 0)) init =
      ((List.range m).filter e).foldl (fun acc k => g acc (lane w v k)) init := by
  refine List.foldl_ext _ _ _ fun acc k hk => ?_
  rw [getD_lanesOf w v (lt_of_lt_of_le (List.mem_range.mp (List.mem_filter.mp hk).1) h)]

/-- The values that IDX selects: the lanes of A in E whose lane of B is not zero (R157). -/
theorem idxList_lanes (fr : Firing) : idxList fr.on fr.la fr.lb = ((List.range fr.n).filter fun k => fr.on k && fr.nb k != 0).map fr.na := by
  have below {k : Nat} (hk : k ∈ List.range fr.n) : k < fr.n := List.mem_range.mp hk
  rw [idxList, Firing.la, Firing.lb, length_lanesOf,
    List.filter_congr fun k hk => by rw [getD_lanesOf fr.w fr.b.val (below hk)]]
  exact List.map_congr_left fun k hk => getD_lanesOf _ _ (below (List.mem_filter.mp hk).1)

/-- A lane reduction delivers the fold over the lanes of E to each lane (R159). -/
theorem plainSpec_of_fireReduce {mk : Slot → Instr} {opc sub : Nat} {o : Fold} (code : ∀ f, toCode (mk f) = some (opc, sub, f)) (other : opc ≠ 0x24)
    (fires : ∀ f s, exec (mk f) s = fireReduce (mk f) o s) :
    PlainSpec mk fun fr _ => ((List.range fr.n).filter fr.on).foldl (fun acc k => o.apply fr.f.ty.signed fr.w acc (fr.na k)) (o.identity fr.f.ty.signed fr.w) :=
  plainSpec_of_fireWhole code other fires fun fr l hl => by
    rw [List.getD_replicate _ hl, reduceLanes, Firing.la, length_lanesOf, foldl_lanesOf _ _ _ _ le_rfl]
    rfl

/-- Settles O13: the lists of lanes that the rows compute with hold the lanes of the operands, and SCAN and the reductions fold over lanes of the form. -/
theorem laneMovement : Obligations.LaneMovement := by
  refine ⟨?shuf, ?bcst, ?idx, ?scan, ?reduce⟩
  case reduce =>
    intro p hp
    simp only [List.mem_cons, List.not_mem_nil, or_false] at hp
    obtain rfl | rfl | rfl | rfl | rfl := hp <;> exact plainSpec_of_fireReduce (fun _ => rfl) (by decide) fun _ _ => rfl
  case idx =>
    refine laneSpec_of_results (fun _ => rfl) (by decide) (fun _ _ => by unfold exec; rfl) fun fr l hl => ?_
    rw [getD_map_range _ hl, idxList_lanes, List.length_map]
  all_goals refine plainSpec_of_fireWhole (fun _ => rfl) (by decide) (fun _ _ => by unfold exec; rfl) fun fr l hl => ?_
  case shuf =>
    rw [getD_shufLanes _ (by rwa [Firing.lb, length_lanesOf]), Firing.lb, getD_lanesOf _ _ hl]
    exact if_ctx_congr Iff.rfl (fun inside => getD_lanesOf _ _ inside) fun _ => rfl
  case bcst => exact List.getD_replicate _ hl
  case scan =>
    have inside : (if fr.f.imm.toNat.testBit 2 then l else l + 1) ≤ fr.n := by split <;> omega
    rw [getD_map_range _ hl, scanAt, bitAt_eq_testBit]
    exact foldl_lanesOf _ _ _ _ inside _

end Sys2Proof.Machine
end

section
/-! SUPPORT. A counterexample to O15: an output endpoint bound to a circular buffer that still holds a beat, on which FFLG sends another. -/

namespace Sys2Proof.Machine

open Sys2Proof

/-- FFLG into o0, clearing nothing. -/
def fflgToO0 : Slot :=
  { pmask := 0, pval := 0, quant := false, q0 := .none, q1 := .none, ty := .none, pk := false, dst := .o 0, sa := .none, sb := .none, sc := .none,
    predReg := 0, predOp := .none, adv := 0, imm := 0 }

/-- A context whose o0 is bound to circular buffer 0 and still holds a beat. -/
def beatHeldCtx : Ctx :=
  let word := { CtxWord.clean with valid := true, slots := 1, obind := set8 CtxWord.clean.obind 0 (.buffer 0) }
  let cx := Ctx.loaded word []
  { cx with outs := set8 cx.outs 0 [.full { payload := 0, mask := 0xFFFF, tag := 0, vc := 0, poison := false }] }

/-- The device ready, domain 0 the owner of the module, and that context in tile 0 beside an empty buffer of four slots of one beat. -/
def beatHeld : State :=
  let s := State.reset.setDomain 0 { State.reset.domain 0 with shape := ⟨0, 0, 4, 4⟩ }
  let tl := s.tile 0
  let buffer : Buffer := { base := 0, slots := 4, size := 64, fe := false, cp := 0, pp := 0, wc := 0 }
  { s.setTile 0 { tl.setCtx 0 beatHeldCtx with buffers := set16 tl.buffers 0 (some buffer) } with phase := 8 }

/-- Accesses in flight after an instruction. -/
def accessesAfter (i : Instr) (s : State) : Option Nat :=
  match exec i s with
  | .next t => some t.accesses.length
  | _ => none

theorem accessesAfter_of_next {i : Instr} {s t : State} (h : exec i s = .next t) : accessesAfter i s = some t.accesses.length := by
  rw [accessesAfter, h]

/-- The firing writes both beats to the buffer, each by an access of its own (R329). -/
theorem accessesAfter_beatHeld : beatHeld.accesses.length = 0 ∧ accessesAfter (.fflg fflgToO0) beatHeld = some 2 := by decide

theorem fires_beatHeld : (Instr.fflg fflgToO0).wf = true ∧ (beatHeld.firingOf (.fflg fflgToO0)).isSome = true := by decide

/-- Refutes O15: its clause on FFLG allows a firing one access more than before. Where the destination is bound to a circular buffer and its endpoint still holds
a beat, the firing writes that beat and its own to the buffer (`beatHeld`): two accesses more. -/
theorem not_conversionsFlagsNoise : ¬ Obligations.ConversionsFlagsNoise := by
  unfold Obligations.ConversionsFlagsNoise
  rintro ⟨-, -, fflg⟩
  obtain ⟨wf, fires⟩ := fires_beatHeld
  obtain ⟨fr, firing⟩ := Option.isSome_iff_exists.mp fires
  obtain ⟨t, next, -, atMostOne, -⟩ := fflg _ _ fr wf firing
  obtain ⟨before, after⟩ := accessesAfter_beatHeld
  have two : t.accesses.length = 2 := Option.some.inj ((accessesAfter_of_next next).symm.trans after)
  omega

end Sys2Proof.Machine
end

section
/-! SUPPORT. Firings that deliver one result to every lane, a witness among them, or that have no lane of E and leave the state alone (R45, R109, R237). -/

namespace Sys2Proof.Machine

open Sys2Proof

/-- A row without a type has 32-bit lanes. -/
theorem firing_untyped_width {mk : Slot → Instr} {opc sub : Nat} {f : Slot} {s : State} {fr : Firing}
    (code : ∀ f, toCode (mk f) = some (opc, sub, f)) (other : opc ≠ 0x24) (untyped : ∀ row, opRow opc sub = some row → row.types = .n) (wf : (mk f).wf = true)
    (firing : s.firingOf (mk f) = some fr) : fr.w = 32 := by
  obtain ⟨row, _, hrow, ok, -⟩ := (wf_of_toCode (code f)).mp wf
  obtain ⟨types, -⟩ := slotStatus_eq_ok.mp ok
  have none : f.ty = .none := by simpa [untyped row hrow, TyClass.has] using (Bool.and_eq_true_iff.mp types).1
  rw [(firingOf_slot (code f) firing).2, formWidth_of_code (code f) other, none]
  rfl

/-- With no lane of E it does not matter which results and conditions the lanes would have had. -/
theorem LaneEffect.of_off {i : Instr} {s : State} {fr : Firing} {val val' : Nat → Nat} {c c' : Nat → Bool} {fl : Nat → FpFlags}
    {t : State} (off : ∀ l, fr.on l = false)
    (eff : LaneEffect i s fr val c fl t) : LaneEffect i s fr val' c' fl t :=
  { eff with
    dest := by simpa [off] using eff.dest
    pred := by simpa [off] using eff.pred
    sent := by simpa [off] using eff.sent }

theorem on_of_e_zero {fr : Firing} (he : fr.e = 0) (l : Nat) : fr.on l = false := by
  simp [Firing.on, laneOn, he]

theorem packNat_lanes (w n x : Nat) : packNat w ((List.range n).map fun l => x / 2 ^ (w * l) % 2 ^ w) = x % 2 ^ (w * n) := by
  induction n generalizing x with
  | zero => simp [packNat, Nat.mod_one]
  | succ n ih =>
    have shifted (l : Nat) : x / 2 ^ (w * (l + 1)) = x / 2 ^ w / 2 ^ (w * l) := by
      rw [Nat.div_div_eq_div_mul, ← pow_add, Nat.mul_add, mul_one, Nat.add_comm]
    rw [List.range_succ_eq_map, List.map_cons, List.map_map]
    simp only [Function.comp_def, Nat.succ_eq_add_one, shifted, mul_zero, pow_zero, Nat.div_one]
    have head (y : Nat) (ys : List Nat) : packNat w (y :: ys) = y % 2 ^ w + 2 ^ w * packNat w ys := rfl
    rw [head, ih, Nat.mod_mod, Nat.mul_add, mul_one, Nat.add_comm (w * n), pow_add, Nat.mod_mul]

theorem mergeLanes_empty {w : Nat} (hw : w = 32 ∨ w = 64) (old : V512) (new : List Nat) : mergeLanes w (512 / w) 0 old new = old := by
  have off (l : Nat) : laneOn w 0 l = false := by simp [laneOn]
  have all : w * (512 / w) = 512 := by obtain rfl | rfl := hw <;> rfl
  simp only [mergeLanes, off, Bool.false_eq_true, if_false, packLanes, lane]
  rw [packNat_lanes, all, Nat.mod_eq_of_lt old.isLt, BitVec.ofNat_toNat, BitVec.setWidth_eq]

/-- With no lane of E a register or nul is written back as it was (R45). -/
theorem writeDest_empty {w : Nat} (hw : w = 32 ∨ w = 64) {dst : Opnd} (noEndpoint : ∀ k, dst ≠ .o k) (s : State) (t c slot : Nat) (vals : List Nat) :
    SameTiles s (s.writeDest t c slot dst w 0 vals) := by
  unfold State.writeDest
  split
  · simp only [mergeLanes_empty hw]
    rw [Ctx.setD, set8_at8]
    exact SameTiles.setCtx_self s t c
  · next k => exact absurd rfl (noEndpoint k)
  · exact SameTiles.refl s

/-- A firing with no lane of E that leaves the state alone has the effect of any result in a register or nul. -/
theorem idle_effect {i : Instr} {s : State} {fr : Firing} (place : fr.t = s.cur.tile ∧ fr.c = s.cur.ctx) (hw : fr.w = 32 ∨ fr.w = 64) (he : fr.e = 0)
    (noPred : ∀ k, fr.f.dst ≠ .p k) (noEndpoint : ∀ k, fr.f.dst ≠ .o k) (val : Nat → Nat) (c : Nat → Bool) :
    LaneEffect i s fr val c (fun _ => 0) (s.finished i s fr) :=
  ((writeDest_empty_effect place hw he noPred).congr ((writeDest_empty hw noEndpoint ..).finished i s fr)).of_off (on_of_e_zero he)

/-- The effect of one result and condition in every lane. -/
theorem uniform_effect {i : Instr} {s : State} {fr : Firing} (place : fr.t = s.cur.tile ∧ fr.c = s.cur.ctx) (hw : fr.w = 32 ∨ fr.w = 64) {m : Nat} (lanes : fr.n ≤ m)
    (v : Nat) (c : Bool) :
    LaneEffect i s fr (fun _ => v) (fun _ => c) (fun _ => 0) ((applyLanes s fr ⟨List.replicate m v, List.replicate m c, []⟩).finished i s fr) :=
  applyLanes_effect _ _ _ _ place hw (fun _ hl => List.getD_replicate v (hl.trans_le lanes)) (fun _ hl => List.getD_replicate c (hl.trans_le lanes))
    (by rw [gather_zero]; rfl)

theorem writePred_of_not_pred {dst : Opnd} (noPred : ∀ k, dst ≠ .p k) (s : State) (t c : Nat) (e cond : Mask) : s.writePred t c dst e cond = s := by
  unfold State.writePred
  split
  · next k => exact absurd rfl (noPred k)
  · rfl

theorem maskOfLanes_replicate (b : Bool) : maskOfLanes 64 (List.replicate 8 b) = splat b := by
  cases b <;> decide

/-- A witness delivered whole to the 64-bit lanes of E, and the predicate update from C = (witness is not zero) (R109, R237). -/
theorem deliverWitness_effect {i : Instr} {s : State} {fr : Firing} (place : fr.t = s.cur.tile ∧ fr.c = s.cur.ctx) (noPred : ∀ k, fr.f.dst ≠ .p k) (w : W64) :
    LaneEffect i s fr.as64 (fun _ => w.toNat) (fun _ => w != 0) (fun _ => 0)
      (((s.writeDest fr.t fr.c fr.slot fr.f.dst 64 fr.e (List.replicate 8 w.toNat)).updatePred fr.t fr.c fr.f.predOp fr.f.predReg (widenMask 64 fr.e)
        (splat (w != 0))).finished i s fr) := by
  have lanes : fr.as64.n = 8 := by simp [Firing.n, Firing.as64]
  have eff := uniform_effect (i := i) (s := s) (fr := fr.as64) place (.inr rfl) lanes.le w.toNat (w != 0)
  refine eff.congr (SameTiles.finished ?_ i s fr)
  show SameTiles _ ((State.updatePred (State.writePred _ fr.t fr.c fr.f.dst _ _) _ _ _ _ _ (maskOfLanes 64 (List.replicate 8 (w != 0)))).raise _ _ 0)
  rw [writePred_of_not_pred noPred, maskOfLanes_replicate]
  exact raise_zero ..

/-- An instruction whose own condition does not hold waits (R323). -/
theorem fire_of_not_ready {i : Instr} (body : State → Firing → Fired) {s : State} (own : readyOwn i s s.cur.tile s.cur.ctx s.cur.slot = false) :
    fire i body s = .next s := by
  unfold fire
  split
  · rfl
  · split
    · rfl
    · simp [own]

end Sys2Proof.Machine
end

section
/-! SUPPORT. CHN and CHNW at their firing (R179-R186, R236). -/

namespace Sys2Proof.Machine

open Sys2Proof

/-! ### CHN -/

/-- CHN's destination is a data register or nul (R179). -/
theorem chn_dst {f : Slot} (wf : (Instr.chn f).wf = true) : (∀ k, f.dst ≠ .p k) ∧ ∀ k, f.dst ≠ .o k := by
  obtain ⟨row, _, hrow, ok, -⟩ := (wf_of_toCode (i := .chn f) rfl).mp wf
  obtain ⟨-, -, operands, -⟩ := slotStatus_eq_ok.mp ok
  cases hrow
  refine ⟨fun k dst => ?_, fun k dst => ?_⟩ <;> simp [operandsOk, dst, Pos.takes] at operands

theorem chn_width {f : Slot} {s : State} {fr : Firing} (wf : (Instr.chn f).wf = true) (firing : s.firingOf (.chn f) = some fr) : fr.w = 32 :=
  firing_untyped_width (mk := .chn) (fun _ => rfl) (by decide) (by rintro _ ⟨⟩; rfl) wf firing

/-- The state and the witness that CHN leaves when its bases are aligned (R179, R183, R236). -/
theorem exec_chn_queues {f : Slot} {s : State} {fr : Firing} (firing : s.firingOf (.chn f) = some fr) (any : fr.any = true)
    (aligned : chainMisaligned (s.stages fr.t (fr.f.imm.toNat % 4)) (fr.a64 0) (fr.b64 0) (lane 64 fr.cc.val 0) = none) :
    let w := localWitness fr.t ((s.writer fr.t).issued + fr.f.imm.toNat / 16)
    exec (.chn f) s = .next ((((s.chainQueued fr).writeDest fr.t fr.c fr.slot fr.f.dst 64 fr.e (List.replicate 8 w.toNat)).updatePred fr.t fr.c fr.f.predOp
      fr.f.predReg (widenMask 64 fr.e) (splat (w != 0))).finished (.chn f) s fr) := by
  have last (n g : Nat) : n + 1 + g - 1 = n + g := by omega
  show execChn f s = _
  rw [execChn, fire_of _ firing]
  simp only [bits_eq_mod, any, Bool.not_true, Bool.false_eq_true, if_false, Nat.reducePow, aligned, State.takeNumbers, last]
  rfl

theorem exec_chn_empty {f : Slot} {s : State} {fr : Firing} (firing : s.firingOf (.chn f) = some fr) (off : fr.any = false) :
    exec (.chn f) s = .next (s.finished (.chn f) s fr) := by
  show execChn f s = _
  rw [execChn, fire_of _ firing]
  simp only [off, Bool.not_false, if_true]

theorem exec_chn_misaligned {f : Slot} {s : State} {fr : Firing} {va : Nat} (firing : s.firingOf (.chn f) = some fr) (any : fr.any = true)
    (odd : chainMisaligned (s.stages fr.t (fr.f.imm.toNat % 4)) (fr.a64 0) (fr.b64 0) (lane 64 fr.cc.val 0) = some va) :
    exec (.chn f) s = .next (s.haltCtx s.cur.tile s.cur.ctx s.cur.slot { cls := 3, cause := 1, address := va, operands := some (fr.a.val, fr.b.val) }) := by
  show execChn f s = _
  rw [execChn, fire_of _ firing]
  simp only [bits_eq_mod, any, Bool.not_true, Bool.false_eq_true, if_false, Nat.reducePow, odd]
  rfl

theorem chn_witnessSpec : WitnessSpec .chn
    (fun s fr => fr.any = false ∨ chainMisaligned (s.stages fr.t (fr.f.imm.toNat % 4)) (fr.a64 0) (fr.b64 0) (lane 64 fr.cc.val 0) = none)
    (fun s fr => if fr.any then s.chainQueued fr else s)
    (fun s fr => localWitness fr.t ((s.writer fr.t).issued + fr.f.imm.toNat / 16)) := by
  intro f s fr wf firing cond
  obtain ⟨ht, hc, -⟩ := firingOf_place firing
  have dst : fr.f.dst = f.dst := by rw [(firingOf_slot (i := .chn f) rfl firing).1]
  obtain ⟨noPred, noEndpoint⟩ := chn_dst wf
  rw [← dst] at noPred noEndpoint
  cases any : fr.any with
  | false =>
    have empty : fr.e = 0 := e_of_any_false (chn_width wf firing) any
    refine ⟨_, exec_chn_empty firing any, ?_⟩
    simp only [any, Bool.false_eq_true, if_false]
    exact idle_effect (fr := fr.as64) ⟨ht, hc⟩ (.inr rfl) empty noPred noEndpoint _ _
  | true =>
    have aligned := cond.resolve_left (by simp [any])
    refine ⟨_, exec_chn_queues firing any aligned, ?_⟩
    simp only [any, if_true]
    exact deliverWitness_effect (s := s.chainQueued fr) ⟨ht, hc⟩ noPred _

/-! ### CHNW -/

theorem chnw_width {f : Slot} {s : State} {fr : Firing} (wf : (Instr.chnw f).wf = true) (firing : s.firingOf (.chnw f) = some fr) : fr.w = 32 :=
  firing_untyped_width (mk := .chnw) (fun _ => rfl) (by decide) (by rintro _ ⟨⟩; rfl) wf firing

/-- The state in which CHNW has collected its context's chains (R186). -/
def State.chainsCollected (s : State) (t c : Nat) : State :=
  let cx := s.ctx t c
  s.setCtx t c { cx with flags := cx.flags ||| cx.chainFlags, chainsDone := 0, chainFlags := 0 }

theorem exec_chnw_delivers {f : Slot} {s : State} {fr : Firing} (firing : s.firingOf (.chnw f) = some fr) (any : fr.any = true)
    (sound : (s.ctx fr.t fr.c).chainFault = none) :
    exec (.chnw f) s = .next ((applyLanes (s.chainsCollected fr.t fr.c) fr
      ⟨List.replicate 16 (s.ctx fr.t fr.c).chainsDone, List.replicate 16 ((s.ctx fr.t fr.c).chainsDone != 0), []⟩).finished (.chnw f) s fr) := by
  show execChnw f s = _
  rw [execChnw, fire_of _ firing]
  simp only [State.chainsCollected, sound, any, Bool.not_true, Bool.false_eq_true, if_false, LaneResult.of, List.map_replicate, withC]

theorem exec_chnw_empty {f : Slot} {s : State} {fr : Firing} (firing : s.firingOf (.chnw f) = some fr) (off : fr.any = false)
    (sound : (s.ctx fr.t fr.c).chainFault = none) : exec (.chnw f) s = .next ((applyLanes s fr ⟨[], [], []⟩).finished (.chnw f) s fr) := by
  show execChnw f s = _
  rw [execChnw, fire_of _ firing]
  simp only [sound, off, Bool.not_false, if_true]

theorem exec_chnw_faulted {f : Slot} {s : State} {fr : Firing} {cls cause desc group va : Nat} (firing : s.firingOf (.chnw f) = some fr)
    (fault : (s.ctx fr.t fr.c).chainFault = some (cls, cause, desc, group, va)) :
    exec (.chnw f) s = .next (s.haltCtx s.cur.tile s.cur.ctx s.cur.slot
      { cls := cls, cause := cause, address := va, chain := true, detail := BitVec.ofNat 128 (desc + group * 2 ^ 32) }) := by
  show execChnw f s = _
  rw [execChnw, fire_of _ firing]
  simp only [fault]
  rfl

theorem chnw_laneSpecOn : LaneSpecOn .chnw (fun s fr => (s.ctx fr.t fr.c).chainFault = none)
    (fun s fr => if fr.any then s.chainsCollected fr.t fr.c else s)
    id (fun s fr _ => (s.ctx fr.t fr.c).chainsDone) (fun s fr _ => (s.ctx fr.t fr.c).chainsDone != 0) (fun _ _ _ => 0) := by
  intro f s fr wf firing sound
  obtain ⟨ht, hc, -⟩ := firingOf_place firing
  have width := chnw_width wf firing
  cases any : fr.any with
  | false =>
    refine ⟨_, exec_chnw_empty firing any sound, ?_⟩
    simp only [any, Bool.false_eq_true, if_false]
    exact (applyLanes_effect (s := s) (fr := fr) ⟨[], [], []⟩ (fun _ => 0) (fun _ => false) (fun _ => 0) ⟨ht, hc⟩ (.inl width) (fun _ _ => rfl) (fun _ _ => rfl)
      (by rw [gather_zero]; rfl)).of_off (on_of_e_zero (e_of_any_false width any))
  | true =>
    have lanes : fr.n = 16 := by rw [Firing.n, width]
    refine ⟨_, exec_chnw_delivers firing any sound, ?_⟩
    simp only [any, if_true]
    exact uniform_effect (s := s.chainsCollected fr.t fr.c) ⟨ht, hc⟩ (.inl width) lanes.le _ _

end Sys2Proof.Machine
end

section
/-! SUPPORT. The groups of streaming chains (R181-R186): a group's reads and its write put in flight, what a fault leaves, and what starts and ends a group. -/

namespace Sys2Proof.Machine

open Sys2Proof

/-! ### The group of a chain -/

/-- Translating the lanes of an access warms the element's cache (R259, R450). -/
theorem planLanes_warmed (t : Nat) (rs : List LaneReq) : ∀ s : State, Warmed s (planLanes s t rs).2 := by
  induction rs with
  | nil => exact Warmed.refl
  | cons r rest ih => exact fun s => (translate_warmed ..).trans (ih _)

section
variable (v : State) (t : Nat) (run : ChainRun) (n : Nat) (ty : Ty) (base : Nat)

/-- The lanes of a group's stream, translated (R181). -/
def State.groupPlan : List Planned × State := planLanes v t (groupLanes ty base run.next n)

/-- The fault of a group's stream (R185). -/
def State.groupFault (need : Need) : Option FaultInfo := accessFault ty need anyTier false nullWitness (v.groupPlan t run n ty base).1

/-- The granules of a group's stream. -/
def State.groupPieces (op : List Spot → PieceOp) : List Piece :=
  ascending (piecesOf (v.groupPlan t run n ty base).2 ((v.groupPlan t run n ty base).1.filterMap (Planned.spot ty)) op)

/-- The state with a group's access to a stream in flight (R183). -/
def State.groupIssued (number : Nat) (op : List Spot → PieceOp) : State :=
  (v.groupPlan t run n ty base).2.issue (chainAccess (v.groupPlan t run n ty base).2 t run number (v.groupPieces t run n ty base op))

end

/-- What a load of a group does to a granule. -/
def loadLanes (xs : List Spot) : PieceOp := .load (xs.map (·.lane))

/-- A group's access has been put in flight behind others, and beside it nothing but caches, lookup counts and store tags has changed. -/
structure GroupInFlight (s : State) (before : List Access) (t : Nat) (run : ChainRun) (number : Nat) (ps : List Piece) (a : Access) (u : State) : Prop where
  access : GroupAccess s t run number ps a
  mem : u.mem = s.mem
  accesses : u.accesses = before ++ [a]
  next : u.nextAccess = s.nextAccess + 1
  tiles : u.tiles = s.tiles
  records : u.records = s.records

theorem groupInFlight_of_warmed {s w : State} {before : List Access} (h : Warmed { s with accesses := before } w) (t : Nat)
    (run : ChainRun) (number : Nat) (ps : List Piece) :
    ∃ a, GroupInFlight s before t run number ps a (w.issue (chainAccess w t run number ps)) := by
  obtain ⟨tlb, hits, misses, rfl⟩ := h.rest
  obtain ⟨tags, writers, issue⟩ := issue_eq (State.warmed { s with accesses := before } tlb hits misses)
    (chainAccess (State.warmed { s with accesses := before } tlb hits misses) t run number ps)
  rw [issue]
  exact ⟨_, ⟨rfl, rfl, ⟨rfl, rfl, rfl, rfl, rfl⟩, ⟨rfl, rfl⟩, rfl, ⟨rfl, rfl, rfl, rfl⟩⟩, rfl, rfl, rfl, rfl, rfl⟩

theorem groupIssued_inFlight (s : State) (before : List Access) (t : Nat) (run : ChainRun) (n : Nat) (ty : Ty) (base number : Nat) (op : List Spot → PieceOp) :
    ∃ a, GroupInFlight s before t run number (State.groupPieces { s with accesses := before } t run n ty base op) a
      (State.groupIssued { s with accesses := before } t run n ty base number op) :=
  groupInFlight_of_warmed (planLanes_warmed ..) ..

theorem groupReads_inFlight (s : State) (t : Nat) (run : ChainRun) (n : Nat) (ty : Ty) (base : Nat) :
    ∃ a, GroupInFlight s s.accesses t run 0 (s.groupPieces t run n ty base loadLanes) a (s.groupIssued t run n ty base 0 loadLanes) :=
  groupIssued_inFlight s s.accesses ..

theorem groupPlan_nextAccess (s : State) (t : Nat) (run : ChainRun) (n : Nat) (ty : Ty) (base : Nat) :
    (s.groupPlan t run n ty base).2.nextAccess = s.nextAccess := by
  obtain ⟨tlb, hits, misses, eq⟩ := (planLanes_warmed t (groupLanes ty base run.next n) s).rest
  rw [State.groupPlan, eq]
  rfl

/-! ### Reads put in flight -/

section
variable {s : State} {t : Nat} {run : ChainRun} {n stream : Nat} {ty : Ty} {base : Nat} {rest : List (Nat × Ty × Nat)}

theorem issueReads_fault {fi : FaultInfo} (fault : s.groupFault t run n ty base { r := true } = some fi) :
    issueReads s t run n ((stream, ty, base) :: rest) = .error fi := by
  rw [State.groupFault, State.groupPlan] at fault
  rw [issueReads]
  simp only [fault]

theorem issueReads_cons (sound : s.groupFault t run n ty base { r := true } = none) :
    issueReads s t run n ((stream, ty, base) :: rest) =
      (issueReads (s.groupIssued t run n ty base 0 loadLanes) t run n rest).map fun x => (x.1, (stream, s.nextAccess) :: x.2) := by
  rw [← groupPlan_nextAccess s t run n ty base]
  cases later : issueReads (s.groupIssued t run n ty base 0 loadLanes) t run n rest
  all_goals
    unfold State.groupIssued State.groupPieces loadLanes at later
    simp only [State.groupFault, State.groupPlan] at sound later
    rw [issueReads]
    simp only [sound, later]
    rfl

end

/-! ### The queue of a tile -/

@[simp] theorem queue_setQueue (s : State) (t : Nat) (q : List ChainRun) : ((s.setQueue t q).tile t).queue = q := by
  simp [State.setQueue]

theorem tile_setQueue_other (s : State) {t k : Nat} (h : k ≠ t) (q : List ChainRun) : (s.setQueue t q).tile k = s.tile k := tile_setTile_other s h _

@[simp] theorem ctx_setQueue (s : State) (t : Nat) (q : List ChainRun) (c : Nat) : (s.setQueue t q).ctx t c = s.ctx t c := by
  simp [State.setQueue, State.ctx, Tile.ctx]

/-- A chain's place in the queue replaced where no tile has changed: the rest of the tile, the other tiles and the records are as they were. -/
theorem others_setQueue {s u : State} (tiles : u.tiles = s.tiles) (records : u.records = s.records) (t : Nat) (q : List ChainRun) :
    (∀ k, k ≠ t → (u.setQueue t q).tile k = s.tile k) ∧ (u.setQueue t q).records = s.records ∧ ∀ c, (u.setQueue t q).ctx t c = s.ctx t c := by
  have tile (k : Nat) : u.tile k = s.tile k := by rw [State.tile, State.tile, tiles]
  refine ⟨fun k hk => (tile_setQueue_other u hk q).trans (tile k), records, fun c => ?_⟩
  rw [ctx_setQueue, State.ctx, State.ctx, tile]

/-! ### A chain that stops -/

/-- The chain of a faulted group and the later ones of its context discarded, with the fault kept for the context's next CHNW (R185). -/
def State.chainsCut (s : State) (t : Nat) (run : ChainRun) (fi : FaultInfo) : State :=
  let cx := s.ctx t run.ctx
  (s.setQueue t ((s.tile t).queue.filter fun r => r.ctx != run.ctx)).setCtx t run.ctx
    { cx with chainFlags := cx.chainFlags ||| run.flags, chainFault := cx.chainFault.or (some (fi.cls, fi.cause, run.desc, run.next, fi.address)) }

theorem chainFaulted_eq (s : State) (t : Nat) (run : ChainRun) (fi : FaultInfo) : chainFaulted s t run fi = (s.chainsCut t run fi).report t run.ctx run.slot
    { fi with chain := true, lane := 0xFFFF, operands := none, detail := BitVec.ofNat 128 (run.desc + run.next * 2 ^ 32) } := by
  rw [State.chainsCut, ← ctx_setQueue s t ((s.tile t).queue.filter fun r => r.ctx != run.ctx) run.ctx]
  rfl

theorem ctx_chainFaulted (s : State) (t : Nat) (run : ChainRun) (fi : FaultInfo) : (chainFaulted s t run fi).ctx t run.ctx =
    { s.ctx t run.ctx with
      chainFlags := (s.ctx t run.ctx).chainFlags ||| run.flags
      chainFault := (s.ctx t run.ctx).chainFault.or (some (fi.cls, fi.cause, run.desc, run.next, fi.address)) } := by
  rw [chainFaulted_eq]
  exact ctx_setCtx_same ..

theorem queue_setCtx (s : State) (t c : Nat) (cx : Ctx) : ((s.setCtx t c cx).tile t).queue = (s.tile t).queue := by
  simp [State.setCtx, Tile.setCtx]

/-- A fault of a group ends its chain and the later ones of its context (R185). -/
theorem chainFaulted_stops (s : State) (t : Nat) (run : ChainRun) (fi : FaultInfo) :
    ChainStops s t run run.flags fi.cls fi.cause fi.address (chainFaulted s t run fi) := by
  have cx := ctx_chainFaulted s t run fi
  have tiles (k : Nat) : (chainFaulted s t run fi).tile k = (s.chainsCut t run fi).tile k := by
    rw [chainFaulted_eq]
    rfl
  refine ⟨rfl, ?_, by rw [cx], by rw [cx], ⟨by rw [cx], fun k => by rw [cx]⟩, ⟨_, rfl, rfl, rfl, rfl, rfl, rfl, rfl, rfl, rfl, rfl⟩, fun k hk => ?_⟩
  · rw [tiles]
    exact (queue_setCtx ..).trans (queue_setQueue ..)
  · rw [tiles]
    exact (tile_setCtx_other _ hk ..).trans (tile_setQueue_other _ hk _)

/-- The same of a group whose reads are no longer in flight and whose flags the chain has gathered. -/
theorem chainFaulted_stops_group (s : State) (before : List Access) (t : Nat) (run : ChainRun) (flags : FpFlags) (fi : FaultInfo) :
    ChainStops s t run flags fi.cls fi.cause fi.address (chainFaulted { s with accesses := before } t { run with flags := flags } fi) := by
  obtain ⟨mem, queue, fault, flags, goesOn, record, tiles⟩ := chainFaulted_stops { s with accesses := before } t { run with flags := flags } fi
  exact ⟨mem, queue, fault, flags, goesOn, record, tiles⟩

/-! ### A group starts -/

section
variable {s : State} {t : Nat} {run : ChainRun} {rest : List ChainRun} {sts : List Stage}

theorem startGroup_fault {fi : FaultInfo}
    (fault : issueReads s t run (groupElements sts) (chainStreams sts run) = .error fi) : startGroup s t run sts = chainFaulted s t run fi := by
  rw [startGroup]
  simp only [fault]

theorem startGroup_reads {u : State} {r : Nat × Nat} {rs : List (Nat × Nat)}
    (reads : issueReads s t run (groupElements sts) (chainStreams sts run) = .ok (u, r :: rs)) :
    startGroup s t run sts = u.setQueue t ({ run with reads := r :: rs } :: (s.tile t).queue.tail) := by
  rw [startGroup]
  simp only [reads]

theorem startGroup_noStreams (none : chainStreams sts run = []) :
    startGroup s t run sts = writeGroup s t run sts := by
  rw [startGroup, none]
  rfl

/-- A group reads one stream. -/
theorem startGroup_oneStream {stream : Nat} {ty : Ty} {base : Nat} (queue : (s.tile t).queue = run :: rest) (streams : chainStreams sts run = [(stream, ty, base)])
    (sound : s.groupFault t run (groupElements sts) ty base { r := true } = none) :
    startGroup s t run sts = (s.groupIssued t run (groupElements sts) ty base 0 loadLanes).setQueue t ({ run with reads := [(stream, s.nextAccess)] } :: rest) := by
  rw [startGroup_reads (by rw [streams, issueReads_cons sound]; rfl), queue]
  rfl

/-- A group reads two streams. -/
theorem startGroup_twoStreams {stream stream' : Nat} {ty ty' : Ty} {base base' : Nat} (queue : (s.tile t).queue = run :: rest)
    (streams : chainStreams sts run = [(stream, ty, base), (stream', ty', base')]) (sound : s.groupFault t run (groupElements sts) ty base { r := true } = none)
    (sound' : (s.groupIssued t run (groupElements sts) ty base 0 loadLanes).groupFault t run (groupElements sts) ty' base' { r := true } = none) :
    startGroup s t run sts = ((s.groupIssued t run (groupElements sts) ty base 0 loadLanes).groupIssued t run (groupElements sts) ty' base' 0 loadLanes).setQueue t
      ({ run with reads := [(stream, s.nextAccess), (stream', (s.groupIssued t run (groupElements sts) ty base 0 loadLanes).nextAccess)] } :: rest) := by
  rw [startGroup_reads (by rw [streams, issueReads_cons sound, issueReads_cons sound']; rfl), queue]
  rfl

theorem startGroup_firstFault {stream : Nat} {ty : Ty} {base : Nat} {more : List (Nat × Ty × Nat)} {fi : FaultInfo}
    (streams : chainStreams sts run = (stream, ty, base) :: more) (fault : s.groupFault t run (groupElements sts) ty base { r := true } = some fi) :
    startGroup s t run sts = chainFaulted s t run fi :=
  startGroup_fault (by rw [streams, issueReads_fault fault])

/-- The second of two streams meets a fault: nothing of the group is in flight. -/
theorem startGroup_secondFault {stream stream' : Nat} {ty ty' : Ty} {base base' : Nat} {fi : FaultInfo}
    (streams : chainStreams sts run = [(stream, ty, base), (stream', ty', base')]) (sound : s.groupFault t run (groupElements sts) ty base { r := true } = none)
    (fault : (s.groupIssued t run (groupElements sts) ty base 0 loadLanes).groupFault t run (groupElements sts) ty' base' { r := true } = some fi) :
    startGroup s t run sts = chainFaulted s t run fi :=
  startGroup_fault (by rw [streams, issueReads_cons sound, issueReads_fault fault]; rfl)

end

/-! ### A group is written -/

section
variable (s : State) (run : ChainRun)

/-- The accesses in flight without those that read for the group (R183). -/
def State.withoutReads : List Access := s.accesses.filter fun a => !(run.reads.any fun r => r.2 == a.id)

/-- What a group has read of a stream in a lane. -/
def State.streamValue (stream l : Nat) : Nat := ((s.streamAccess run stream).map fun a => a.laneValue l).getD 0

/-- An element of a group through the stages (R181). -/
def State.groupResult (t : Nat) (sts : List Stage) (l : Nat) : FRes :=
  chainElement (s.ctx t run.ctx).word (s.streamValue run 2 l) (s.streamValue run 3 l) sts ⟨0, 0⟩

/-- The flags gathered by the chain, those of a group included (R123). -/
def State.groupFlags (t : Nat) (sts : List Stage) : FpFlags :=
  (List.range (groupElements sts)).foldl (fun acc l => acc ||| (s.groupResult run t sts l).flags) run.flags

/-- What the group's write stores of the lanes of a granule. -/
def State.groupStore (t : Nat) (sts : List Stage) (xs : List Spot) : PieceOp :=
  let d := storeBits (fun l => if l < groupElements sts then (s.groupResult run t sts l).bits else 0) xs
  .store d.1 d.2 false false

end

section
variable {s : State} {t : Nat} {run : ChainRun} {sts : List Stage}

theorem bits_getD_map_range (g : Nat → FRes) (n l : Nat) : (((List.range n).map g).getD l ⟨0, 0⟩).bits = if l < n then (g l).bits else 0 := by
  split
  · next h => rw [getD_map_range g h]
  · next h => rw [List.getD_eq_default _ _ (by simpa using h)]

theorem writeGroup_fault {fi : FaultInfo}
    (fault : State.groupFault { s with accesses := s.withoutReads run } t run (groupElements sts) (outputType sts) run.z { w := true } = some fi) :
    writeGroup s t run sts = chainFaulted { s with accesses := s.withoutReads run } t { run with flags := s.groupFlags run t sts } fi := by
  simp only [State.groupFault, State.groupPlan, State.withoutReads] at fault
  rw [writeGroup]
  simp only [fault, List.foldl_map]
  rfl

theorem writeGroup_writes
    (sound : State.groupFault { s with accesses := s.withoutReads run } t run (groupElements sts) (outputType sts) run.z { w := true } = none) :
    writeGroup s t run sts =
      (State.groupIssued { s with accesses := s.withoutReads run } t run (groupElements sts) (outputType sts) run.z (run.number + run.next)
        (s.groupStore run t sts)).setQueue t ({ run with flags := s.groupFlags run t sts, next := run.next + 1, reads := [], write := some s.nextAccess } :: (s.tile t).queue.tail) := by
  have id (ps : List Piece) : (chainAccess
      (State.groupPlan { s with accesses := s.withoutReads run } t run (groupElements sts) (outputType sts) run.z).2 t run (run.number + run.next) ps).id = s.nextAccess := groupPlan_nextAccess ..
  unfold State.groupIssued State.groupPieces
  simp only [State.groupFault, State.groupPlan, State.withoutReads] at sound id ⊢
  rw [writeGroup]
  simp only [sound, id, List.foldl_map, bits_getD_map_range]
  rfl

end

/-! ### What moves a chain on -/

theorem chainCompleted_ctx (s : State) (t : Nat) (run : ChainRun) : (chainCompleted s t run).ctx t run.ctx =
    { s.ctx t run.ctx with chainsDone := min ((s.ctx t run.ctx).chainsDone + 1) 255, chainFlags := (s.ctx t run.ctx).chainFlags ||| run.flags } := by
  rw [← ctx_setQueue s t (s.tile t).queue.tail run.ctx]
  exact ctx_setCtx_same ..

theorem chainRuns_iff {s : State} {t : Nat} {run : ChainRun} :
    s.chainRuns t run = true ↔ s.elementRuns t = true ∧ ((s.ctx t run.ctx).held = false ∨ (s.tile t).draining = true) := by
  simp [State.chainRuns]

theorem pipeFree_iff {s : State} {t : Nat} : s.pipeFree t = true ↔ s.elementRuns t = true ∧ s.arbitrate t = none := by
  simp [State.pipeFree]

end Sys2Proof.Machine
end

section
/-! SUPPORT. The moves of the chain at the head of a tile's queue (R182-R186), and the settlement of O16. -/

namespace Sys2Proof.Machine

open Sys2Proof

/-! ### The moves of the chain at the head -/

theorem exec_chainGroup_noChain {s : State} {t : Nat} (none : (s.tile t).queue = []) : exec (.chainGroup t) s = .next s := by
  show execChainGroup t s = _
  simp only [execChainGroup, none]

section
variable {s : State} {t : Nat} {run : ChainRun} {rest : List ChainRun} (queue : (s.tile t).queue = run :: rest)
include queue

theorem exec_chainGroup_writing {id : Nat} (write : run.write = some id) (inFlight : ∃ a ∈ s.accesses, a.id = id) : exec (.chainGroup t) s = .next s := by
  show execChainGroup t s = _
  simp only [execChainGroup, queue, write]
  rw [if_pos (by simpa using inFlight)]

theorem exec_chainGroup_written {id : Nat} (write : run.write = some id) (performed : ∀ a ∈ s.accesses, a.id ≠ id) :
    exec (.chainGroup t) s = .next (if run.next < run.groups then s.setQueue t ({ run with write := none } :: rest) else chainCompleted s t run) := by
  show execChainGroup t s = _
  simp only [execChainGroup, queue, write]
  rw [if_neg (by simpa using performed), apply_ite Host.Outcome.next]
  rfl

section
variable (unwritten : run.write = none)
include unwritten

theorem exec_chainGroup_unread (unread : run.reads = []) : exec (.chainGroup t) s = .next
    (if s.chainRuns t run && (!(chainStreams (s.stages t run.desc) run).isEmpty || s.pipeFree t) then startGroup s t run (s.stages t run.desc) else s) := by
  show execChainGroup t s = _
  simp only [execChainGroup, queue, unwritten, unread, List.isEmpty_nil, if_true]
  rw [apply_ite Host.Outcome.next]

theorem exec_chainGroup_reading (reads : run.reads ≠ []) (waits : readsDone s run = false) : exec (.chainGroup t) s = .next s := by
  show execChainGroup t s = _
  simp only [execChainGroup, queue, unwritten, List.isEmpty_eq_false_iff.mpr reads, waits, Bool.not_false, Bool.false_eq_true, if_true, if_false]

theorem exec_chainGroup_poisoned {va : Nat} (reads : run.reads ≠ []) (done : readsDone s run = true)
    (poison : (run.reads.findSome? fun r => (s.accesses.find? fun a => a.id == r.2).bind (·.poisonAt)) = some va) :
    exec (.chainGroup t) s = .next (chainFaulted { s with accesses := s.withoutReads run } t run { cls := 6, cause := 1, address := va, performed := true }) := by
  show execChainGroup t s = _
  simp only [execChainGroup, queue, unwritten, List.isEmpty_eq_false_iff.mpr reads, done, poison, Bool.not_true, Bool.false_eq_true, if_false]
  rfl

theorem exec_chainGroup_read (reads : run.reads ≠ []) (done : readsDone s run = true)
    (sound : ∀ r ∈ run.reads, ∀ a, (s.accesses.find? fun a => a.id == r.2) = some a → a.poisonAt = none) :
    exec (.chainGroup t) s = .next (if s.pipeFree t then writeGroup s t run (s.stages t run.desc) else s) := by
  have clean : (run.reads.findSome? fun r => (s.accesses.find? fun a => a.id == r.2).bind (·.poisonAt)) = none :=
    List.findSome?_eq_none_iff.mpr fun r hr => Option.bind_eq_none_iff.mpr (sound r hr)
  show execChainGroup t s = _
  simp only [execChainGroup, queue, unwritten, List.isEmpty_eq_false_iff.mpr reads, done, clean, Bool.not_true, Bool.false_eq_true, if_false]

/-- The reads of a group start when its chain goes on, and a group that reads nothing goes through the pipeline at once (R181, R182). -/
theorem exec_chainGroup_starts (unread : run.reads = []) (goesOn : s.chainRuns t run = true)
    (free : chainStreams (s.stages t run.desc) run ≠ [] ∨ s.pipeFree t = true) : exec (.chainGroup t) s = .next (startGroup s t run (s.stages t run.desc)) := by
  rw [exec_chainGroup_unread queue unwritten unread, if_pos]
  simpa [goesOn] using free

theorem exec_chainGroup_held (unread : run.reads = []) (held : ¬ s.chainRuns t run = true) : exec (.chainGroup t) s = .next s := by
  rw [exec_chainGroup_unread queue unwritten unread, if_neg (by simp [held])]

/-- A group whose data have come in, or that reads nothing, goes through the stages in a cycle in which no slot of the element fires (R182). -/
theorem exec_chainGroup_writes
    (data : (run.reads = [] ∧ chainStreams (s.stages t run.desc) run = [] ∧ s.chainRuns t run = true) ∨ (run.reads ≠ [] ∧ readsDone s run = true))
    (free : s.pipeFree t = true) (sound : ∀ r ∈ run.reads, ∀ a, (s.accesses.find? fun a => a.id == r.2) = some a → a.poisonAt = none) :
    exec (.chainGroup t) s = .next (writeGroup s t run (s.stages t run.desc)) := by
  obtain ⟨unread, noStreams, goesOn⟩ | ⟨reads, done⟩ := data
  · rw [exec_chainGroup_starts queue unwritten unread goesOn (.inr free), startGroup_noStreams noStreams]
  · rw [exec_chainGroup_read queue unwritten reads done sound, if_pos free]

end

end

/-! ### The obligation -/

/-- Settles O16: CHN and CHNW at their firing; a group starts, waits, is written or stops as its reads, its accesses and the pipeline allow; the chain goes on or ends
when its write has been performed. -/
theorem streamingChains : Obligations.StreamingChains := by
  unfold Obligations.StreamingChains
  refine ⟨⟨chn_witnessSpec, fun va f s fr _ firing ⟨any, odd⟩ => exec_chn_misaligned firing any odd, ?full, chnw_laneSpecOn,
    fun cls cause desc group va f s fr _ firing fault => exec_chnw_faulted firing fault⟩, ?head, fun _ _ none => exec_chainGroup_noChain none⟩
  case full =>
    intro f s _ full
    have closed : readyOwn (.chn f) s s.cur.tile s.cur.ctx s.cur.slot = false := decide_eq_false (Nat.not_lt.mpr full)
    obtain ⟨body, fires⟩ := exec_fires (i := .chn f) rfl s
    rw [fires, fire_of_not_ready body closed]
  intro s t run rest queue sts n streams goesOn noneFires plan spots readFault reads others
  refine ⟨?reads, ?writes, ?poison, ?held, ?busy, ?inFlight, ?next, ?ends⟩
  case reads =>
    intro unwritten unread runs
    have starts (some : streams ≠ []) : exec (.chainGroup t) s = .next (startGroup s t run sts) :=
      exec_chainGroup_starts queue unwritten unread (chainRuns_iff.mpr runs) (.inl some)
    refine ⟨fun stream ty base one sound => ?_, fun stream ty base stream' ty' base' two sound => ?_, fun stream ty base more fi first fault => ?_⟩
    · obtain ⟨a, flight⟩ := groupReads_inFlight s t run n ty base
      have moves := (starts (by simp [one])).trans (congrArg _ (startGroup_oneStream queue one sound))
      refine ⟨_, a, moves, flight.mem, flight.accesses, flight.access, ?_, others_setQueue flight.tiles flight.records ..⟩
      rw [queue_setQueue, flight.access.id]
    · obtain ⟨a, flight⟩ := groupReads_inFlight s t run n ty base
      refine ⟨a, s.groupIssued t run n ty base 0 loadLanes, flight.mem, flight.accesses, flight.access, flight.next, flight.tiles, fun sound' => ?_, fun fi fault => ?_⟩
      · obtain ⟨b, flight'⟩ := groupReads_inFlight (s.groupIssued t run n ty base 0 loadLanes) t run n ty' base'
        have moves := (starts (by simp [two])).trans (congrArg _ (startGroup_twoStreams queue two sound sound'))
        refine ⟨_, b, moves, flight'.mem.trans flight.mem, flight'.accesses, flight'.access, ?_,
          others_setQueue (flight'.tiles.trans flight.tiles) (flight'.records.trans flight.records) ..⟩
        rw [queue_setQueue, flight.access.id, flight'.access.id]
      · exact ⟨_, (starts (by simp [two])).trans (congrArg _ (startGroup_secondFault two sound fault)), rfl, chainFaulted_stops s t run fi⟩
    · exact ⟨_, (starts (by simp [first])).trans (congrArg _ (startGroup_firstFault first fault)), rfl, chainFaulted_stops s t run fi⟩
  case writes =>
    intro unwritten data free sound v val result flags ty fault
    have writes : exec (.chainGroup t) s = .next (writeGroup s t run sts) :=
      exec_chainGroup_writes queue unwritten (data.imp_left fun ⟨unread, noStreams, runs⟩ => ⟨unread, noStreams, chainRuns_iff.mpr runs⟩)
        (pipeFree_iff.mpr free) sound
    refine ⟨fun translated => ?_, fun fi failed => ?_⟩
    · obtain ⟨a, flight⟩ := groupIssued_inFlight s (s.withoutReads run) t run n ty run.z (run.number + run.next) (s.groupStore run t sts)
      refine ⟨_, a, writes.trans (congrArg _ (writeGroup_writes translated)), flight.mem, flight.accesses, flight.access, ?_,
        others_setQueue flight.tiles flight.records ..⟩
      rw [queue_setQueue, flight.access.id, queue]
      rfl
    · exact ⟨_, writes.trans (congrArg _ (writeGroup_fault failed)), rfl, chainFaulted_stops_group ..⟩
  case poison =>
    intro va unwritten unread done poison
    refine ⟨_, exec_chainGroup_poisoned queue unwritten unread done poison, fun a ha => ?_,
      chainFaulted_stops_group s (s.withoutReads run) t run run.flags { cls := 6, cause := 1, address := va, performed := true }⟩
    obtain ⟨mem, kept⟩ := List.mem_filter.mp (show a ∈ s.withoutReads run from ha)
    exact ⟨mem, by simpa using kept⟩
  case held =>
    rintro unwritten (⟨unread, held⟩ | ⟨unread, waits⟩)
    · exact exec_chainGroup_held queue unwritten unread (mt chainRuns_iff.mp held)
    · exact exec_chainGroup_reading queue unwritten unread waits
  case busy =>
    intro unwritten unread done fires sound
    rw [exec_chainGroup_read queue unwritten unread done sound, if_neg (mt pipeFree_iff.mp fires)]
  case inFlight => exact fun id write inFlight => exec_chainGroup_writing queue write inFlight
  case next =>
    intro id write performed more
    refine ⟨_, (exec_chainGroup_written queue write performed).trans (congrArg _ (if_pos more)), queue_setQueue ..,
      ⟨fun k hk => tile_setQueue_other s hk _, rfl⟩, fun c => ctx_setQueue ..⟩
  case ends =>
    intro id write performed last
    have cx := chainCompleted_ctx s t run
    refine ⟨_, (exec_chainGroup_written queue write performed).trans (congrArg _ (if_neg (by omega))), ?_,
      ⟨fun k hk => ?_, rfl⟩, by rw [cx], by rw [cx], fun k => by rw [cx]⟩
    · refine (queue_setCtx ..).trans ((queue_setQueue ..).trans ?_)
      rw [queue]
      rfl
    · exact (tile_setCtx_other _ hk ..).trans (tile_setQueue_other _ hk _)

end Sys2Proof.Machine
end

section
/-! SUPPORT. The row engine's accumulator file (R189): what its entries and poison bits are after a row has been replaced, cleared or filled. -/

namespace Sys2Proof.Machine

open Sys2Proof

theorem SMap.get_erase_other {α : Type} (m : SMap α) {j k : Nat} (h : j ≠ k) (dflt : α) : SMap.get (SMap.erase m k) j dflt = SMap.get m j dflt := by
  rw [SMap.erase, SMap.get_filter m (· != k)]
  simp [h]

namespace RowEngine

theorem get_acc_setRow (e : RowEngine) (r k : Nat) (cols : List Nat) :
    SMap.get (e.setRow r cols).acc k 0 = if k = r then BitVec.ofNat 1024 (packNat 32 cols) else SMap.get e.acc k 0 := by
  rw [setRow]
  generalize BitVec.ofNat 1024 (packNat 32 cols) = v
  by_cases row : k = r
  · subst row
    split
    next zero => rw [SMap.get_erase_same, if_pos rfl, zero]
    next => rw [SMap.get_set_same, if_pos rfl]
  · rw [if_neg row]
    split
    · exact SMap.get_erase_other e.acc row 0
    · exact SMap.get_set_other e.acc row v 0

theorem entry_setRow (e : RowEngine) (r k : Nat) (cols : List Nat) {n : Nat} (col : n < 32) :
    (e.setRow r cols).entry k n = if k = r then cols.getD n 0 % 2 ^ 32 else e.entry k n := by
  simp only [entry, get_acc_setRow]
  by_cases row : k = r
  · have inside : 32 * n + 32 ≤ 1024 := by omega
    have width : (1024 : Nat) = 32 * n + (1024 - 32 * n) := by omega
    have wide : 32 ≤ 1024 - 32 * n := by omega
    simp only [if_pos row, bits, BitVec.toNat_ofNat]
    rw [width, pow_add, Nat.mod_mul_right_div_self, Nat.mod_mod_of_dvd _ (pow_dvd_pow 2 wide), packNat_lane]
  · rw [if_neg row, if_neg row]

@[simp] theorem poisoned_setRow (e : RowEngine) (r k : Nat) (cols : List Nat) : (e.setRow r cols).poisoned k = e.poisoned k := rfl

@[simp] theorem entry_setPoison (e : RowEngine) (r k n : Nat) (b : Bool) : (e.setPoison r b).entry k n = e.entry k n := rfl

theorem poisoned_setPoison (e : RowEngine) (r : Nat) (b : Bool) {k : Nat} (row : k < 128) :
    (e.setPoison r b).poisoned k = if k = r then b else e.poisoned k := by
  have bit : (BitVec.ofNat 128 (2 ^ r)).getLsbD k = decide (r = k) := by
    rw [BitVec.getLsbD_ofNat, Nat.testBit_two_pow]
    simp [row]
  unfold poisoned setPoison
  cases b
  · simp only [Bool.false_eq_true, if_false, BitVec.getLsbD_and, BitVec.getLsbD_not, bit, row, decide_true, Bool.true_and]
    by_cases same : k = r
    · simp [same]
    · simp [same, Ne.symm same]
  · simp only [if_true, BitVec.getLsbD_or, bit]
    by_cases same : k = r
    · simp [same]
    · simp [same, Ne.symm same]

theorem entry_lt (e : RowEngine) (r n : Nat) : e.entry r n < 2 ^ 32 := bits_lt _ _ _

end RowEngine

end Sys2Proof.Machine
end

section
/-! SUPPORT. The row engine's instructions at their firing (R188-R200): the outcomes that all of them share, the registers, panels and rows that each leaves, and the
completion of a row step. -/

namespace Sys2Proof.Machine

open Sys2Proof

/-! ### What follows every firing -/

theorem finished_keeps {i : Instr} {s : State} {fr : Firing} (place : fr.t = s.cur.tile ∧ fr.c = s.cur.ctx) (u : State) :
    Kept fr.t fr.c u (u.finished i s fr) := by
  rw [State.finished, ← place.1, ← place.2]
  exact (raise_keeps _ _ _ _).trans (afterFiring_keeps _ _ _ _)

/-- The context of a firing whose effects leave it alone. -/
theorem ctx_finished {i : Instr} {s u : State} {fr : Firing} (place : fr.t = s.cur.tile ∧ fr.c = s.cur.ctx) (same : u.ctx fr.t fr.c = s.ctx fr.t fr.c) :
    (u.finished i s fr).ctx fr.t fr.c =
      ({ s.ctx fr.t fr.c with flags := (s.ctx fr.t fr.c).flags ||| fr.decodeFlags } : Ctx).consume (advMask i (s.ctx fr.t fr.c) fr.f) := by
  rw [State.finished, ← place.1, ← place.2, afterFiring_ctx, raise_ctx, same]

/-! ### Row-engine state of a tile -/

theorem Kept.row {t c : Nat} {s u : State} (h : Kept t c s u) : (u.tile t).row = (s.tile t).row := by
  have := congrArg Tile.row h.tile
  exact this

theorem Kept.steps {t c : Nat} {s u : State} (h : Kept t c s u) : (u.tile t).steps = (s.tile t).steps := by
  have := congrArg Tile.steps h.tile
  exact this

theorem Kept.xfer {t c : Nat} {s u : State} (h : Kept t c s u) : (u.tile t).xfer = (s.tile t).xfer := by
  have := congrArg Tile.xfer h.tile
  exact this


theorem tile_setEngine (s : State) (t : Nat) (e : RowEngine) :
    (s.setEngine t e).tile t = { s.tile t with row := { e with owner := (s.tile t).inst, dirty := true } } := tile_setTile_same ..

theorem tile_setEngine_other (s : State) {t k : Nat} (h : k ≠ t) (e : RowEngine) : (s.setEngine t e).tile k = s.tile k := tile_setTile_other s h _

theorem ctx_setEngine (s : State) (t c : Nat) (e : RowEngine) : (s.setEngine t e).ctx t c = s.ctx t c := by
  rw [State.ctx, tile_setEngine]; rfl

/-! ### The outcomes of a matrix instruction -/

section
variable {mk : Slot → Instr} {sub : Nat} {body : State → Firing → RowEngine → Fired} (fires : ∀ f s, exec (mk f) s = fireMatrix (mk f) body s)
  {f : Slot} {s : State} {fr : Firing} (firing : s.firingOf (mk f) = some fr)
include fires firing

theorem exec_matrix_off (none : fr.any = false) (unused : fr.f.dst = .none) : exec (mk f) s = .next (s.finished (mk f) s fr) := by
  rw [fires, fireMatrix, fire_of _ firing]
  simp [none, unused, State.writeDest]

theorem exec_matrix_owner (any : fr.any = true) (owned : ownerFault (s.tile fr.t) = true) :
    exec (mk f) s = .next (s.haltCtx s.cur.tile s.cur.ctx s.cur.slot
      { cls := 8, cause := 4, operands := if readsSources (mk f) then some (fr.a.val, fr.b.val) else none }) := by
  rw [fires, fireMatrix, fire_of _ firing]
  simp [any, owned]

variable (any : fr.any = true) (free : ownerFault (s.tile fr.t) = false)
include any free

theorem exec_matrix_done {u : State} (done : body s fr (s.tile fr.t).engine = .done u) : exec (mk f) s = .next (u.finished (mk f) s fr) := by
  rw [fires, fireMatrix, fire_of _ firing]
  simp [any, free, done]

theorem exec_matrix_stop {fi : FaultInfo} (stop : body s fr (s.tile fr.t).engine = .stop fi) :
    exec (mk f) s = .next (s.haltCtx s.cur.tile s.cur.ctx s.cur.slot
      { fi with operands := if readsSources (mk f) then some (fr.a.val, fr.b.val) else none }) := by
  rw [fires, fireMatrix, fire_of _ firing]
  simp [any, free, stop]

end

section
variable {mk : Slot → Instr} {sub : Nat} {body : State → Firing → RowEngine → Fired} (code : ∀ f, toCode (mk f) = some (0x30, sub, f))
  (fires : ∀ f s, exec (mk f) s = fireMatrix (mk f) body s)
include code fires

omit fires in
/-- The operand that a matrix instruction other than MOUT names as its destination is none (R188). -/
theorem matrix_dst {f : Slot} (noOut : ∀ row, opRow 0x30 sub = some row → row.d = .unused) (wf : (mk f).wf = true) : f.dst = .none := by
  obtain ⟨row, _, hrow, ok, -⟩ := (wf_of_toCode (code f)).mp wf
  obtain ⟨-, -, operands, -⟩ := slotStatus_eq_ok.mp ok
  cases dst : f.dst <;> simp [operandsOk, dst, Pos.takes, noOut row hrow] at operands
  rfl

theorem matrix_off_completes (noOut : ∀ row, opRow 0x30 sub = some row → row.d = .unused) : Completes mk (fun _ fr => fr.any = false) (fun s _ => s) := by
  intro f s fr wf firing none
  refine exec_matrix_off fires firing none ?_
  rw [(firingOf_slot (code f) firing).1]
  exact matrix_dst code noOut wf

omit code in
theorem matrix_halts {cond : State → Firing → Prop} {info : State → Firing → FaultInfo} (reads : Bool) (sources : ∀ f, readsSources (mk f) = reads)
    (stop : ∀ s fr, cond s fr → fr.any = true ∧ ownerFault (s.tile fr.t) = false ∧ body s fr (s.tile fr.t).engine = .stop (info s fr)) :
    Halts mk reads cond info := by
  intro f s fr _ firing holds
  obtain ⟨any, free, stops⟩ := stop s fr holds
  rw [exec_matrix_stop fires firing any free stops, sources]

omit code in
theorem matrix_owner_halts (reads : Bool) (sources : ∀ f, readsSources (mk f) = reads) :
    Halts mk reads (fun s fr => fr.any = true ∧ ownerFault (s.tile fr.t) = true) (fun _ _ => { cls := 8, cause := 4 }) := by
  intro f s fr _ firing ⟨any, owned⟩
  rw [exec_matrix_owner fires firing any owned, sources]

theorem engineSpec_of_body {ok : RowEngine → Firing → Prop} {engine : RowEngine → Firing → RowEngine}
    (noOut : ∀ row, opRow 0x30 sub = some row → row.d = .unused)
    (done : ∀ s fr, ok (s.tile fr.t).engine fr → body s fr (s.tile fr.t).engine = .done (s.setEngine fr.t (engine (s.tile fr.t).engine fr))) :
    EngineSpec mk ok engine :=
  ⟨fun _ s fr _ firing ⟨any, free, holds⟩ => exec_matrix_done fires firing any free (done s fr holds), matrix_off_completes code fires noOut⟩

end

/-! ### MSET (R192, R197) -/

/-- The bits of MSET's A above NACT are zero exactly when A is no more than its two fields. -/
theorem msetTail_eq_zero {x : Nat} (word : x < 2 ^ 32) : bits x 13 19 = x / 2 ^ 13 := by
  rw [bits]; omega

theorem mset_engineSpec :
    let mode (fr : Firing) : MMode := { ty := fr.f.ty, prod := fr.f.imm.toNat.testBit 2, afmt := fr.f.imm.toNat % 4 }
    let x (fr : Firing) : Nat := lane 32 fr.a.val 0
    EngineSpec .mset (fun _ fr => x fr % 128 ≤ (mode fr).k ∧ x fr / 128 % 64 ≤ 32 ∧ x fr / 2 ^ 13 = 0)
      (fun e fr => { (if e.mode = some (mode fr) then e else { e with mode := some (mode fr), panel := 0, panelValid := false, shadow := 0, cursor := 0 }) with
                     kact := x fr % 128, nact := x fr / 128 % 64 }) := by
  intro mode x
  refine engineSpec_of_body (mk := .mset) (fun _ => rfl) (fun f s => .trans (b := execMset f s) rfl rfl) (by rintro _ ⟨⟩; rfl) fun s fr ⟨kact, nact, tail⟩ => ?_
  simp only [bitAt_eq_testBit, bits_eq_mod]
  have sound : ¬ ((mode fr).k < x fr % 128 ∨ 32 < bits (x fr) 7 6 ∨ bits (x fr) 13 19 ≠ 0) := by
    rw [msetTail_eq_zero (lane_lt 32 fr.a.val 0)]
    simp only [not_or, not_lt, not_not]
    exact ⟨kact, nact, tail⟩
  refine (if_neg sound).trans ?_
  by_cases same : (s.tile fr.t).engine.mode = some (mode fr)
  · rw [if_pos same]
    exact congrArg (fun e => Fired.done (s.setEngine fr.t e)) (if_pos same)
  · rw [if_neg same]
    exact congrArg (fun e => Fired.done (s.setEngine fr.t e)) (if_neg same)

theorem mset_halts :
    let mode (fr : Firing) : MMode := { ty := fr.f.ty, prod := fr.f.imm.toNat.testBit 2, afmt := fr.f.imm.toNat % 4 }
    let x (fr : Firing) : Nat := lane 32 fr.a.val 0
    Halts .mset true (fun s fr => fr.any = true ∧ ownerFault (s.tile fr.t) = false ∧ ((mode fr).k < x fr % 128 ∨ 32 < x fr / 128 % 64 ∨ x fr / 2 ^ 13 ≠ 0))
      (fun _ _ => { cls := 8, cause := 3 }) := by
  intro mode x
  refine matrix_halts (mk := .mset) (fun f s => .trans (b := execMset f s) rfl rfl) true (fun _ => rfl) fun s fr ⟨any, free, wrong⟩ => ⟨any, free, ?_⟩
  simp only [bitAt_eq_testBit, bits_eq_mod]
  have wrong' : (mode fr).k < x fr % 128 ∨ 32 < bits (x fr) 7 6 ∨ bits (x fr) 13 19 ≠ 0 := by
    rw [msetTail_eq_zero (lane_lt 32 fr.a.val 0)]
    exact wrong
  exact if_pos wrong'

/-! ### MLDB, MCBT and MPRD (R198) -/

/-- The last chunk of 64 bytes of a panel (R192, R198). -/
theorem lastChunk_iff (m : Option MMode) (k : Nat) : k + 1 = panelBytes m / 64 ↔ 64 * (k + 1) = panelBytes m := by
  have whole : 64 * (panelBytes m / 64) = panelBytes m := by
    unfold panelBytes
    repeat' split
    all_goals rfl
  omega

theorem mldb_engineSpec : EngineSpec .mldb (fun _ _ => True) (fun e fr =>
    let sh := setChunk e.shadow e.cursor (maskedBytes fr)
    if 64 * (e.cursor + 1) = panelBytes e.mode then { e with panel := sh, panelValid := true, shadow := 0, cursor := 0 }
    else { e with shadow := sh, cursor := e.cursor + 1 }) := by
  refine engineSpec_of_body (mk := .mldb) (fun _ => rfl) (fun f s => .trans (b := execMldb f s) rfl rfl) (by rintro _ ⟨⟩; rfl) fun s fr _ => ?_
  simp only [lastChunk_iff]

theorem mcbt_engineSpec : EngineSpec .mcbt (fun _ _ => True) (fun e fr => { e with codebook := BitVec.ofNat 256 (maskedBytes fr) }) :=
  engineSpec_of_body (mk := .mcbt) (fun _ => rfl) (fun f s => .trans (b := execMcbt f s) rfl rfl) (by rintro _ ⟨⟩; rfl) fun _ _ _ => rfl

theorem mprd_engineSpec : EngineSpec .mprd (fun _ _ => True) (fun e fr =>
    let sh := setChunk e.shadowProd e.prodCursor (maskedBytes fr)
    if e.prodCursor = 15 then { e with prod := sh, shadowProd := 0, prodCursor := 0 }
    else { e with shadowProd := sh, prodCursor := e.prodCursor + 1 }) :=
  engineSpec_of_body (mk := .mprd) (fun _ => rfl) (fun f s => .trans (b := execMprd f s) rfl rfl) (by rintro _ ⟨⟩; rfl) fun _ _ _ => rfl

/-! ### MCLR (R201) -/

/-- Rows cleared with their poison (R201). -/
def RowEngine.cleared (e : RowEngine) (first count : Nat) : RowEngine :=
  (List.range count).foldl (fun e k => (e.setRow (first + k) (List.replicate 32 0)).setPoison (first + k) false) e

theorem RowEngine.cleared_succ (e : RowEngine) (first count : Nat) : e.cleared first (count + 1) =
    ((e.cleared first count).setRow (first + count) (List.replicate 32 0)).setPoison (first + count) false := by
  simp [cleared, List.range_succ]

theorem RowEngine.entry_cleared (e : RowEngine) (first count r : Nat) {n : Nat} (col : n < 32) :
    (e.cleared first count).entry r n = if first ≤ r ∧ r < first + count then 0 else e.entry r n := by
  induction count with
  | zero => rw [if_neg (by omega)]; rfl
  | succ count ih =>
    rw [cleared_succ, entry_setPoison, entry_setRow _ _ _ _ col, ih, List.getD_replicate 0 col]
    by_cases last : r = first + count
    · rw [if_pos last, if_pos (by omega), Nat.zero_mod]
    · rw [if_neg last]
      exact if_congr (by omega) rfl rfl

theorem RowEngine.poisoned_cleared (e : RowEngine) (first count : Nat) {r : Nat} (row : r < 128) :
    (e.cleared first count).poisoned r = if first ≤ r ∧ r < first + count then false else e.poisoned r := by
  induction count with
  | zero => rw [if_neg (by omega)]; rfl
  | succ count ih =>
    rw [cleared_succ, poisoned_setPoison _ _ _ row, poisoned_setRow, ih]
    by_cases last : r = first + count
    · rw [if_pos last, if_pos (by omega)]
    · rw [if_neg last]
      exact if_congr (by omega) rfl rfl

/-- A firing that leaves another engine and nothing else changes one tile. -/
theorem setEngine_finished {i : Instr} {s : State} {fr : Firing} (place : fr.t = s.cur.tile ∧ fr.c = s.cur.ctx) (e : RowEngine) :
    LocalTo s ((s.setEngine fr.t e).finished i s fr) fr.t ∧
      (((s.setEngine fr.t e).finished i s fr).tile fr.t).row = { e with owner := (s.tile fr.t).inst, dirty := true } := by
  have kept := finished_keeps (i := i) place (s.setEngine fr.t e)
  refine ⟨⟨fun k other => (kept.tiles k other).trans (tile_setEngine_other s other e), ?_⟩, kept.row.trans ?_⟩
  · exact congrArg (fun u : State => { u with tiles := s.tiles }) kept.rest
  · rw [tile_setEngine]

theorem exec_mclr {f : Slot} {s : State} {fr : Firing} (firing : s.firingOf (.mclr f) = some fr) (any : fr.any = true)
    (free : ownerFault (s.tile fr.t) = false) : exec (.mclr f) s =
      .next ((s.setEngine fr.t ((s.tile fr.t).engine.cleared (f.imm.toNat % 128) (f.imm.toNat / 128 % 256))).finished (.mclr f) s fr) := by
  have slot : fr.f = f := (firingOf_slot (i := .mclr f) rfl firing).1
  have first : bits fr.f.imm.toNat 0 7 = fr.f.imm.toNat % 128 := bits_eq_mod _ 7
  subst slot
  rw [← first]
  exact exec_matrix_done (mk := .mclr) (fun f s => .trans (b := execMclr f s) rfl rfl) firing any free rfl

/-! ### MROW (R194, R195, R199) -/

/-- The value and the flags of a column of a row step (R194, R195). -/
def rowSum (m : MMode) (e : RowEngine) (on : Mask) (a r : Nat) (zero : Bool) (n : Nat) : FRes :=
  Fmt.f32.fusedSum (valTerm (Fmt.f32.decode (if zero then 0 else e.entry r n)) :: (rowPositions m e on).map fun k => rowTerm m e a k n)

section
variable (m : MMode) (e : RowEngine) (on : Mask) (a r : Nat) (zero : Bool)

/-- A column of a row step (R194, R199). -/
def rowColumn (n : Nat) : FRes :=
  if e.nact ≤ n then ⟨e.entry r n, 0⟩ else if e.kact = 0 then ⟨if zero then 0 else e.entry r n, 0⟩ else rowSum m e on a r zero n

theorem rowStep_eq_map : rowStep m e on a r zero = (List.range 32).map (rowColumn m e on a r zero) := rfl

theorem rowColumn_bits (n : Nat) : (rowColumn m e on a r zero n).bits % 2 ^ 32 =
    if n < e.nact then (if e.kact = 0 then (if zero then 0 else e.entry r n) else (rowSum m e on a r zero n).bits % 2 ^ 32) else e.entry r n := by
  have fits : e.entry r n % 2 ^ 32 = e.entry r n := Nat.mod_eq_of_lt (e.entry_lt r n)
  by_cases past : e.nact ≤ n
  · rw [rowColumn, if_pos past, if_neg (show ¬ n < e.nact by omega), fits]
  · by_cases idle : e.kact = 0
    · rw [rowColumn, if_neg past, if_pos idle, if_pos (show n < e.nact by omega), if_pos idle]
      cases zero
      · exact fits
      · rfl
    · rw [rowColumn, if_neg past, if_neg idle, if_pos (show n < e.nact by omega), if_neg idle]

theorem rowStep_bits {n : Nat} (col : n < 32) : ((rowStep m e on a r zero).map (·.bits)).getD n 0 % 2 ^ 32 =
    if n < e.nact then (if e.kact = 0 then (if zero then 0 else e.entry r n) else (rowSum m e on a r zero n).bits % 2 ^ 32) else e.entry r n := by
  rw [rowStep_eq_map, List.map_map, getD_map_range _ col, Function.comp_apply, rowColumn_bits]

theorem rowColumn_flags (n : Nat) (acc : FpFlags) : acc ||| (rowColumn m e on a r zero n).flags =
    if n < e.nact then acc ||| (if e.kact = 0 then 0 else (rowSum m e on a r zero n).flags) else acc := by
  by_cases past : e.nact ≤ n
  · rw [rowColumn, if_pos past, if_neg (show ¬ n < e.nact by omega)]
    exact BitVec.or_zero
  · by_cases idle : e.kact = 0
    · rw [rowColumn, if_neg past, if_pos idle, if_pos (show n < e.nact by omega), if_pos idle]
    · rw [rowColumn, if_neg past, if_neg idle, if_pos (show n < e.nact by omega), if_neg idle]

/-- A row step raises the flags of its sums (R195). -/
theorem rowStep_flags : (rowStep m e on a r zero).foldl (fun acc x => acc ||| x.flags) 0 =
    ((List.range 32).filter (· < e.nact)).foldl (fun acc n => acc ||| if e.kact = 0 then 0 else (rowSum m e on a r zero n).flags) 0 := by
  rw [rowStep_eq_map, List.foldl_map, List.foldl_filter]
  refine List.foldl_ext _ _ _ fun acc n _ => ?_
  rw [rowColumn_flags]
  simp only [decide_eq_true_eq]

/-- The engine after a row step: the row has the step's columns, and a step from zero leaves it without poison (R194, R199). -/
def RowEngine.stepped : RowEngine :=
  let e1 := e.setRow r ((rowStep m e on a r zero).map (·.bits))
  if zero then e1.setPoison r false else e1

theorem RowEngine.entry_stepped (k : Nat) {n : Nat} (col : n < 32) : (e.stepped m on a r zero).entry k n =
    if k = r ∧ n < e.nact then (if e.kact = 0 then (if zero then 0 else e.entry r n) else (rowSum m e on a r zero n).bits % 2 ^ 32) else e.entry k n := by
  have row : (e.stepped m on a r zero).entry k n = (e.setRow r ((rowStep m e on a r zero).map (·.bits))).entry k n := by
    rw [stepped]
    split
    · exact entry_setPoison ..
    · rfl
  rw [row, entry_setRow _ _ _ _ col, rowStep_bits m e on a r zero col]
  by_cases same : k = r
  · subst same
    rw [if_pos rfl]
    exact if_congr (by rw [eq_self, true_and]) rfl rfl
  · rw [if_neg same, if_neg fun h => same h.1]

theorem RowEngine.poisoned_stepped {k : Nat} (row : k < 128) :
    (e.stepped m on a r zero).poisoned k = (e.poisoned k && !(decide (k = r) && zero)) := by
  rw [stepped]
  generalize (rowStep m e on a r zero).map (·.bits) = cols
  cases zero
  · rw [if_neg Bool.false_ne_true, poisoned_setRow, Bool.and_false, Bool.not_false, Bool.and_true]
  · rw [if_pos rfl, poisoned_setPoison _ r false row, poisoned_setRow]
    by_cases same : k = r <;> simp [same]

theorem RowEngine.stepped_settings : let e1 := e.stepped m on a r zero
    (e1.mode, e1.kact, e1.nact, e1.panel, e1.codebook, e1.prod) = (e.mode, e.kact, e.nact, e.panel, e.codebook, e.prod) := by
  rw [stepped]
  generalize (rowStep m e on a r zero).map (·.bits) = cols
  split <;> rfl

end

/-- A row step of a tile begun: its result is in the engine, and the step waits for its completion (R199, R203). -/
def State.stepBegun (s : State) (t : Nat) (e : RowEngine) (st : RowStep) : State :=
  let s1 := s.setEngine t e
  s1.setTile t { s1.tile t with steps := (s.tile t).steps ++ [st] }

theorem tile_stepBegun (s : State) (t : Nat) (e : RowEngine) (st : RowStep) : (s.stepBegun t e st).tile t =
    { s.tile t with row := { e with owner := (s.tile t).inst, dirty := true }, steps := (s.tile t).steps ++ [st] } := by
  rw [State.stepBegun, tile_setTile_same, tile_setEngine]

theorem tile_stepBegun_other (s : State) {t k : Nat} (h : k ≠ t) (e : RowEngine) (st : RowStep) : (s.stepBegun t e st).tile k = s.tile k := by
  rw [State.stepBegun, tile_setTile_other _ h, tile_setEngine_other s h]

theorem ctx_stepBegun (s : State) (t c : Nat) (e : RowEngine) (st : RowStep) : (s.stepBegun t e st).ctx t c = s.ctx t c := by
  rw [State.ctx, tile_stepBegun]; rfl

section
variable {f : Slot} {s : State} {fr : Firing} (firing : s.firingOf (.mrow f) = some fr) (any : fr.any = true) (free : ownerFault (s.tile fr.t) = false)
include firing any free

theorem exec_mrow {m : MMode} (mode : (s.tile fr.t).engine.mode = some m) (panel : (s.tile fr.t).engine.panelValid = true) :
    let e := (s.tile fr.t).engine
    let r := f.imm.toNat % 128
    let zero := f.imm.toNat.testBit 7
    exec (.mrow f) s = .next ((s.stepBegun fr.t (e.stepped m fr.e fr.a.val.toNat r zero)
      { row := r, ctx := fr.c,
        flags := ((List.range 32).filter (· < e.nact)).foldl (fun acc n => acc ||| if e.kact = 0 then 0 else (rowSum m e fr.e fr.a.val.toNat r zero n).flags) 0 }).finished
      (.mrow f) s fr) := by
  intro e r zero
  have slot : fr.f = f := (firingOf_slot (i := .mrow f) rfl firing).1
  rw [← rowStep_flags]
  refine exec_matrix_done (mk := .mrow) (fun f s => .trans (b := execMrow f s) rfl rfl) firing any free ?_
  simp only [mode, panel, Bool.not_true, Bool.false_eq_true, if_false, bits_eq_mod, bitAt_eq_testBit, slot, tile_setEngine]
  rw [State.stepBegun, tile_setEngine]
  rfl

end

theorem mrow_noMode_halts :
    Halts .mrow true (fun s fr => fr.any = true ∧ ownerFault (s.tile fr.t) = false ∧ (s.tile fr.t).engine.mode = none) (fun _ _ => { cls := 8, cause := 1 }) :=
  matrix_halts (mk := .mrow) (fun f s => .trans (b := execMrow f s) rfl rfl) true (fun _ => rfl) fun s fr ⟨any, free, mode⟩ => ⟨any, free, by simp only [mode]⟩

theorem mrow_noPanel_halts :
    Halts .mrow true
      (fun s fr => fr.any = true ∧ ownerFault (s.tile fr.t) = false ∧ (s.tile fr.t).engine.mode ≠ none ∧ (s.tile fr.t).engine.panelValid = false)
      (fun _ _ => { cls := 8, cause := 2 }) := by
  refine matrix_halts (mk := .mrow) (fun f s => .trans (b := execMrow f s) rfl rfl) true (fun _ => rfl) fun s fr ⟨any, free, mode, panel⟩ => ⟨any, free, ?_⟩
  obtain ⟨m, mode⟩ := Option.ne_none_iff_exists'.mp mode
  simp only [mode, panel, Bool.not_false, if_true]

/-! ### The completion of a row step (R195, R203) -/

theorem exec_rowStepComplete_none {s : State} {t : Nat} (empty : (s.tile t).steps = []) : exec (.rowStepComplete t) s = .next s := by
  show execRowStepComplete t s = _
  rw [execRowStepComplete]
  simp only [empty]

theorem exec_rowStepComplete {s : State} {t : Nat} {st : RowStep} {rest : List RowStep} (steps : (s.tile t).steps = st :: rest) :
    exec (.rowStepComplete t) s = .next ((s.setTile t { s.tile t with steps := rest }).raise t st.ctx st.flags) := by
  show execRowStepComplete t s = _
  rw [execRowStepComplete]
  simp only [steps]

/-! ### MOUT (R200) -/

theorem finished_setEngine (s u : State) (i : Instr) (fr : Firing) (e : RowEngine) : u.finished i (s.setEngine fr.t e) fr = u.finished i s fr := by
  rw [State.finished, State.finished]
  have cur : (s.setEngine fr.t e).cur = s.cur := rfl
  have ctx : (s.setEngine fr.t e).ctx s.cur.tile s.cur.ctx = s.ctx s.cur.tile s.cur.ctx := by
    by_cases own : s.cur.tile = fr.t
    · rw [own, ctx_setEngine]
    · rw [State.ctx, tile_setEngine_other s own]; rfl
  rw [cur, ctx]

/-- The result of a lane of MOUT, with its C (R200). -/
def moutLane (imm : Nat) (e : RowEngine) (l : Nat) : FRes × Bool :=
  let r := imm % 128
  if moutFmt imm = .f32 then
    let x := e.entry r (16 * (imm / 128 % 2) + l)
    (⟨x, 0⟩, Fmt.f32.isNonzero x)
  else
    let lo := cvtFF .f32 (moutFmt imm) .rne false (e.entry r (2 * l))
    let hi := cvtFF .f32 (moutFmt imm) .rne false (e.entry r (2 * l + 1))
    (⟨lo.bits + hi.bits * 2 ^ 16, lo.flags ||| hi.flags⟩, (Fmt.ofTy (moutFmt imm)).isNonzero lo.bits || (Fmt.ofTy (moutFmt imm)).isNonzero hi.bits)

/-- The engine after a MOUT that clears the columns that the lanes of E read (R200). -/
def RowEngine.readOut (e : RowEngine) (fr : Firing) : RowEngine :=
  e.setRow (fr.f.imm.toNat % 128) ((List.range 32).map fun n =>
    if (List.range 16).any fun l => fr.on l && (moutCols fr.f.imm.toNat l).contains n then 0 else e.entry (fr.f.imm.toNat % 128) n)

theorem mout_width {f : Slot} {s : State} {fr : Firing} (wf : (Instr.mout f).wf = true) (firing : s.firingOf (.mout f) = some fr) : fr.w = 32 :=
  firing_untyped_width (mk := .mout) (fun _ => rfl) (by decide) (by rintro _ ⟨⟩; rfl) wf firing

section
variable {f : Slot} {s : State} {fr : Firing} (firing : s.firingOf (.mout f) = some fr) (any : fr.any = true) (free : ownerFault (s.tile fr.t) = false)
include firing any free

theorem exec_mout (sound : (s.tile fr.t).engine.poisoned (fr.f.imm.toNat % 128) = false) :
    let out := (List.range 16).map (moutLane fr.f.imm.toNat (s.tile fr.t).engine)
    exec (.mout f) s = .next ((applyLanes (if fr.f.imm.toNat.testBit 10 then s.setEngine fr.t ((s.tile fr.t).engine.readOut fr) else s) fr
      { vals := out.map (·.1.bits), cond := out.map (·.2), flags := out.map (·.1.flags) }).finished (.mout f) s fr) := by
  intro out
  refine exec_matrix_done (mk := .mout) (fun f s => .trans (b := execMout f s) rfl rfl) firing any free ?_
  simp only [bits_eq_mod, bitAt_eq_testBit, Nat.reducePow, sound, Bool.false_eq_true, if_false]
  rfl

theorem exec_mout_poisoned (bad : (s.tile fr.t).engine.poisoned (fr.f.imm.toNat % 128) = true) :
    exec (.mout f) s = .next (s.haltCtx s.cur.tile s.cur.ctx s.cur.slot { cls := 6, cause := 3 }) := by
  refine exec_matrix_stop (mk := .mout) (fun f s => .trans (b := execMout f s) rfl rfl) firing any free (fi := { cls := 6, cause := 3 }) ?_
  simp only [bits_eq_mod, Nat.reducePow, bad, if_true]

end

end Sys2Proof.Machine
end

section
/-! SUPPORT. The clauses on the row engine's firings (R194-R201): what MCLR, MROW, the completion of a row step and MOUT leave. -/

namespace Sys2Proof.Machine

open Sys2Proof

theorem mclr_clears {f : Slot} {s : State} {fr : Firing} (firing : s.firingOf (.mclr f) = some fr) (any : fr.any = true)
    (free : ownerFault (s.tile fr.t) = false) :
    ∃ t, exec (.mclr f) s = .next t ∧ LocalTo s t fr.t ∧
      ∀ r n, n < 32 →
        let first := f.imm.toNat % 128
        let count := f.imm.toNat / 128 % 256
        let e := (s.tile fr.t).engine
        let e1 := (t.tile fr.t).row
        (e1.entry r n = if first ≤ r ∧ r < first + count then 0 else e.entry r n) ∧
        (r < 128 → e1.poisoned r = if first ≤ r ∧ r < first + count then false else e.poisoned r) ∧ e1.dirty = true ∧ e1.owner = (s.tile fr.t).inst := by
  obtain ⟨ht, hc, -⟩ := firingOf_place firing
  obtain ⟨loc, row⟩ := setEngine_finished (i := .mclr f) ⟨ht, hc⟩ ((s.tile fr.t).engine.cleared (f.imm.toNat % 128) (f.imm.toNat / 128 % 256))
  refine ⟨_, exec_mclr firing any free, loc, fun r n col => ?_⟩
  intro first count e e1
  have cleared : e1 = { e.cleared first count with owner := (s.tile fr.t).inst, dirty := true } := row
  rw [cleared]
  exact ⟨RowEngine.entry_cleared _ _ _ r col, RowEngine.poisoned_cleared _ _ _, rfl, rfl⟩

theorem mrow_steps {f : Slot} {s : State} {fr : Firing} {m : MMode} (firing : s.firingOf (.mrow f) = some fr) (any : fr.any = true)
    (free : ownerFault (s.tile fr.t) = false) (mode : (s.tile fr.t).engine.mode = some m) (panel : (s.tile fr.t).engine.panelValid = true) :
    ∃ t, exec (.mrow f) s = .next t ∧
      let r0 := f.imm.toNat % 128
      let zero := f.imm.toNat.testBit 7
      let e := (s.tile fr.t).engine
      let e1 := (t.tile fr.t).row
      (∀ r n, n < 32 → e1.entry r n =
        if r = r0 ∧ n < e.nact then
          let base := if zero then 0 else e.entry r n
          if e.kact = 0 then base
          else (Fmt.f32.fusedSum (valTerm (Fmt.f32.decode base) :: (rowPositions m e fr.e).map fun k => rowTerm m e fr.a.val.toNat k n)).bits % 2 ^ 32
        else e.entry r n) ∧
      (let raised (n : Nat) : FpFlags :=
         if e.kact = 0 then 0
         else (Fmt.f32.fusedSum (valTerm (Fmt.f32.decode (if zero then 0 else e.entry r0 n)) :: (rowPositions m e fr.e).map fun k => rowTerm m e fr.a.val.toNat k n)).flags
       (t.tile fr.t).steps = (s.tile fr.t).steps ++
         [{ row := r0, ctx := fr.c, flags := ((List.range 32).filter (· < e.nact)).foldl (fun acc n => acc ||| raised n) 0 }]) ∧
      (∀ r, r < 128 → e1.poisoned r = (e.poisoned r && !(decide (r = r0) && zero))) ∧
      (e1.mode, e1.kact, e1.nact, e1.panel, e1.codebook, e1.prod) = (e.mode, e.kact, e.nact, e.panel, e.codebook, e.prod) ∧
      e1.dirty = true ∧ e1.owner = (s.tile fr.t).inst ∧ (t.ctx fr.t fr.c).flags = (s.ctx fr.t fr.c).flags ||| fr.decodeFlags ∧
      t.mem = s.mem ∧ t.accesses = s.accesses ∧ t.writers = s.writers ∧ (∀ k, k ≠ fr.t → t.tile k = s.tile k) ∧
      (∀ k, at8 (t.ctx fr.t fr.c).d k = at8 (s.ctx fr.t fr.c).d k) ∧ (∀ k, at8 (t.ctx fr.t fr.c).p k = at8 (s.ctx fr.t fr.c).p k) := by
  obtain ⟨ht, hc, -⟩ := firingOf_place firing
  refine ⟨_, exec_mrow firing any free mode panel, ?_⟩
  generalize stepped : RowEngine.stepped m (s.tile fr.t).engine fr.e fr.a.val.toNat (f.imm.toNat % 128) (f.imm.toNat.testBit 7) = e1
  intro r0 zero e
  generalize waits : ({ row := r0, ctx := fr.c, flags := _ } : RowStep) = st
  have kept := finished_keeps (i := .mrow f) ⟨ht, hc⟩ (s.stepBegun fr.t e1 st)
  have tile := tile_stepBegun s fr.t e1 st
  have row : (((s.stepBegun fr.t e1 st).finished (.mrow f) s fr).tile fr.t).row = { e1 with owner := (s.tile fr.t).inst, dirty := true } := by
    rw [kept.row, tile]
  have ctx := ctx_finished (i := .mrow f) ⟨ht, hc⟩ (ctx_stepBegun s fr.t fr.c e1 st)
  rw [row, ctx]
  refine ⟨fun r n col => ?_, ?_, fun r inFile => ?_, ?_, rfl, rfl, rfl, rfl, rfl, rfl, fun k other => ?_, fun _ => rfl, fun _ => rfl⟩
  · rw [← stepped]
    refine (RowEngine.entry_stepped m e fr.e fr.a.val.toNat r0 zero r col).trans ?_
    by_cases at0 : r = r0 ∧ n < e.nact
    · rw [if_pos at0, if_pos at0, at0.1]; rfl
    · rw [if_neg at0, if_neg at0]
  · rw [kept.steps, tile, ← waits]; rfl
  · rw [← stepped]
    exact RowEngine.poisoned_stepped m e fr.e fr.a.val.toNat r0 zero inFile
  · rw [← stepped]
    exact RowEngine.stepped_settings m e fr.e fr.a.val.toNat r0 zero
  · rw [kept.tiles k other, tile_stepBegun_other s other]

theorem rowStepComplete_raises {s : State} {t : Nat} {st : RowStep} {rest : List RowStep} (steps : (s.tile t).steps = st :: rest) :
    ∃ u, exec (.rowStepComplete t) s = .next u ∧ LocalTo s u t ∧ (u.tile t).steps = rest ∧ (u.tile t).row = (s.tile t).row ∧
      (u.ctx t st.ctx).flags = (s.ctx t st.ctx).flags ||| st.flags ∧ { u.ctx t st.ctx with flags := (s.ctx t st.ctx).flags } = s.ctx t st.ctx := by
  have kept := raise_keeps (s.setTile t { s.tile t with steps := rest }) t st.ctx st.flags
  have ctx : (s.setTile t { s.tile t with steps := rest }).ctx t st.ctx = s.ctx t st.ctx := by
    rw [State.ctx, tile_setTile_same]; rfl
  refine ⟨_, exec_rowStepComplete steps, ⟨fun k other => ?_, rfl⟩, ?_, ?_, ?_⟩
  · rw [kept.tiles k other, tile_setTile_other s other]
  · rw [kept.steps, tile_setTile_same]
  · rw [kept.row, tile_setTile_same]
  · rw [raise_ctx, ctx]
    exact ⟨rfl, rfl⟩

theorem mout_laneSpecOn :
    let half (s : State) (fr : Firing) (n : Nat) : FRes := cvtFF .f32 (moutFmt fr.f.imm.toNat) .rne false ((s.tile fr.t).engine.entry (fr.f.imm.toNat % 128) n)
    let single (s : State) (fr : Firing) (l : Nat) : Nat := (s.tile fr.t).engine.entry (fr.f.imm.toNat % 128) (16 * (fr.f.imm.toNat / 128 % 2) + l)
    let plain (fr : Firing) : Bool := moutFmt fr.f.imm.toNat == .f32
    LaneSpecOn .mout
      (fun s fr => fr.any = true ∧ ownerFault (s.tile fr.t) = false ∧ (s.tile fr.t).engine.poisoned (fr.f.imm.toNat % 128) = false)
      (fun s fr => if fr.f.imm.toNat.testBit 10 then s.setEngine fr.t ((s.tile fr.t).engine.readOut fr) else s) id
      (fun s fr l => if plain fr then single s fr l else (half s fr (2 * l)).bits + (half s fr (2 * l + 1)).bits * 2 ^ 16)
      (fun s fr l => if plain fr then Fmt.f32.isNonzero (single s fr l)
        else (Fmt.ofTy (moutFmt fr.f.imm.toNat)).isNonzero (half s fr (2 * l)).bits || (Fmt.ofTy (moutFmt fr.f.imm.toNat)).isNonzero (half s fr (2 * l + 1)).bits)
      (fun s fr l => if plain fr then 0 else (half s fr (2 * l)).flags ||| (half s fr (2 * l + 1)).flags) := by
  intro half single plain f s fr wf firing ⟨any, free, sound⟩
  obtain ⟨ht, hc, -⟩ := firingOf_place firing
  have width := mout_width wf firing
  have lanes : fr.n = 16 := by rw [Firing.n, width]
  have results (l : Nat) : ((moutLane fr.f.imm.toNat (s.tile fr.t).engine l).1.bits, (moutLane fr.f.imm.toNat (s.tile fr.t).engine l).2,
      (moutLane fr.f.imm.toNat (s.tile fr.t).engine l).1.flags) =
      (if plain fr then single s fr l else (half s fr (2 * l)).bits + (half s fr (2 * l + 1)).bits * 2 ^ 16,
       if plain fr then Fmt.f32.isNonzero (single s fr l)
        else (Fmt.ofTy (moutFmt fr.f.imm.toNat)).isNonzero (half s fr (2 * l)).bits || (Fmt.ofTy (moutFmt fr.f.imm.toNat)).isNonzero (half s fr (2 * l + 1)).bits,
       if plain fr then 0 else (half s fr (2 * l)).flags ||| (half s fr (2 * l + 1)).flags) := by
    by_cases asF32 : moutFmt fr.f.imm.toNat = .f32
    · rw [moutLane, if_pos asF32]
      simp only [plain, single, asF32, beq_self_eq_true, if_true]
    · have other : plain fr = false := beq_false_of_ne asF32
      rw [moutLane, if_neg asF32]
      simp only [other, Bool.false_eq_true, if_false]
      rfl
  simp only [Prod.mk.injEq] at results
  refine ⟨_, exec_mout firing any free sound, ?_⟩
  beta_reduce
  generalize hpre : (if fr.f.imm.toNat.testBit 10 then s.setEngine fr.t ((s.tile fr.t).engine.readOut fr) else s) = pre
  have cur : pre.cur = s.cur := by rw [← hpre]; split <;> rfl
  have follows (u : State) : u.finished (.mout f) s fr = u.finished (.mout f) pre fr := by
    rw [← hpre]
    split
    · rw [finished_setEngine]
    · rfl
  rw [follows]
  refine applyLanes_effect (s := pre) _ _ _ _ (by rw [cur]; exact ⟨ht, hc⟩) (.inl width) (fun l hl => ?_) (fun l hl => ?_) ?_
  · simp only [List.map_map]
    exact (getD_map_range _ (lanes ▸ hl) 0).trans (results l).1
  · simp only [List.map_map]
    exact (getD_map_range _ (lanes ▸ hl) false).trans (results l).2.1
  · simp only [List.map_map, ← lanes, id_eq]
    exact (flagsOver_map_range fr _).trans (congrArg fr.gather (funext fun l => (results l).2.2))

theorem mout_halts :
    Halts .mout false
      (fun s fr => fr.any = true ∧ ownerFault (s.tile fr.t) = false ∧ (s.tile fr.t).engine.poisoned (fr.f.imm.toNat % 128) = true)
      (fun _ _ => { cls := 6, cause := 3 }) :=
  fun _ _ _ _ firing ⟨any, free, bad⟩ => exec_mout_poisoned firing any free bad

/-- Dirty state of another configuration stops every matrix instruction (R191). -/
theorem matrix_owned_halts : ∀ p ∈ [(Instr.mset, true), (Instr.mldb, true), (Instr.mcbt, true), (Instr.mprd, true), (Instr.mrow, true), (Instr.mspl, true),
      (Instr.mfil, true), (Instr.mclr, false), (Instr.mout, false)],
    Halts p.1 p.2 (fun s fr => fr.any = true ∧ ownerFault (s.tile fr.t) = true) (fun _ _ => { cls := 8, cause := 4 }) := by
  intro p named
  simp only [List.mem_cons, List.not_mem_nil, or_false] at named
  obtain rfl | rfl | rfl | rfl | rfl | rfl | rfl | rfl | rfl := named
  · exact matrix_owner_halts (fun f s => .trans (b := execMset f s) rfl rfl) true fun _ => rfl
  · exact matrix_owner_halts (fun f s => .trans (b := execMldb f s) rfl rfl) true fun _ => rfl
  · exact matrix_owner_halts (fun f s => .trans (b := execMcbt f s) rfl rfl) true fun _ => rfl
  · exact matrix_owner_halts (fun f s => .trans (b := execMprd f s) rfl rfl) true fun _ => rfl
  · exact matrix_owner_halts (fun f s => .trans (b := execMrow f s) rfl rfl) true fun _ => rfl
  · exact matrix_owner_halts (fun f s => .trans (b := execMspl f s) rfl rfl) true fun _ => rfl
  · exact matrix_owner_halts (fun f s => .trans (b := execMfil f s) rfl rfl) true fun _ => rfl
  · exact matrix_owner_halts (fun f s => .trans (b := execMclr f s) rfl rfl) false fun _ => rfl
  · exact matrix_owner_halts (fun f s => .trans (b := execMout f s) rfl rfl) false fun _ => rfl

theorem mrow_off_completes : Completes .mrow (fun _ fr => fr.any = false) (fun s _ => s) :=
  matrix_off_completes (fun _ => rfl) (fun f s => .trans (b := execMrow f s) rfl rfl) (by rintro _ ⟨⟩; rfl)

end Sys2Proof.Machine
end

section
/-! SUPPORT. MSPL and MFIL at their firing (R201, R202, R236): the accesses that their rows put in flight, and what stops them. -/

namespace Sys2Proof.Machine

open Sys2Proof

/-! ### States that differ in what is in flight -/

/-- Translations have been made, and numbers and accesses put in flight. -/
def Traffic (s u : State) : Prop := ∃ tlb hits misses writers accesses next,
  u = { s with tlb := tlb, mscHits := hits, mscMisses := misses, writers := writers, accesses := accesses, nextAccess := next }

namespace Traffic

theorem refl (s : State) : Traffic s s := ⟨_, _, _, _, _, _, rfl⟩

theorem trans {s u v : State} : Traffic s u → Traffic u v → Traffic s v := by
  rintro ⟨_, _, _, _, _, _, rfl⟩ ⟨_, _, _, _, _, _, rfl⟩
  exact ⟨_, _, _, _, _, _, rfl⟩

theorem of_warmed {s u : State} (h : Warmed s u) : Traffic s u := by
  obtain ⟨_, _, _, rfl⟩ := h.rest
  exact ⟨_, _, _, _, _, _, rfl⟩

theorem issue (s : State) (a : Access) : Traffic s (s.issue a) := by
  obtain ⟨_, _, eq⟩ := issue_eq s a
  rw [eq]
  exact ⟨_, _, _, _, _, _, rfl⟩

theorem takeNumbers (s : State) (w count : Nat) : Traffic s (s.takeNumbers w count).2 := ⟨_, _, _, _, _, _, rfl⟩

variable {s u : State} (h : Traffic s u)
include h

theorem mem : u.mem = s.mem := by obtain ⟨_, _, _, _, _, _, rfl⟩ := h; rfl

theorem tile (t : Nat) : u.tile t = s.tile t := by obtain ⟨_, _, _, _, _, _, rfl⟩ := h; rfl

theorem pieces (sp : List Spot) (op : List Spot → PieceOp) : piecesOf u sp op = piecesOf s sp op := by obtain ⟨_, _, _, _, _, _, rfl⟩ := h; rfl

end Traffic

theorem writer_setWriter_same (s : State) (w : Nat) (x : Writer) : (s.setWriter w x).writer w = x := SMap.get_set_same ..

theorem issued_issue (s : State) (a : Access) (w : Nat) : ((s.issue a).writer w).issued = (s.writer w).issued := by
  by_cases load : a.number = 0
  · rw [State.issue, if_pos load, if_pos load]; rfl
  · rw [State.issue, if_neg load, if_neg load]
    show ((s.recordTag a.writer a.number).writer w).issued = _
    by_cases own : w = a.writer
    · subst own
      rw [State.recordTag, writer_setWriter_same]
    · exact congrArg Writer.issued (SMap.get_set_other _ own _ _)

theorem nextAccess_issue (s : State) (a : Access) : (s.issue a).nextAccess = s.nextAccess + 1 := by
  obtain ⟨_, _, eq⟩ := issue_eq s a
  rw [eq]

/-! ### The accesses of a range of rows -/

/-- What an access for each row of a list, put in flight one after another, leaves (R201). -/
structure RowsIssued (mk : State → Nat → Access) (rows : List Nat) (s : State) (y : List (Nat × Nat) × State) : Prop where
  traffic : Traffic s y.2
  issued : ∀ w, (y.2.writer w).issued = (s.writer w).issued
  ids : ∀ k, y.1[k]? = (rows[k]?).map fun r => (s.nextAccess + k, r)
  accesses : ∃ as, y.2.accesses = s.accesses ++ as ∧ as.length = rows.length ∧
    ∀ k r, rows[k]? = some r → ∃ v tags, Traffic s v ∧ v.nextAccess = s.nextAccess + k ∧ as[k]? = some { mk v r with tags := tags }

theorem issueRows_issued (t : Nat) {mk : State → Nat → Access} (fresh : ∀ v r, (mk v r).id = v.nextAccess) (rows : List Nat) :
    ∀ s, RowsIssued mk rows s (issueRows t mk rows s) := by
  induction rows with
  | nil => exact fun s => ⟨.refl s, fun _ => rfl, fun _ => rfl, [], (List.append_nil _).symm, rfl, fun _ _ h => by simp at h⟩
  | cons r rest ih =>
    intro s
    obtain ⟨traffic, issued, ids, as, accesses, length, each⟩ := ih (s.issue (mk s r))
    obtain ⟨tags, writers, eq⟩ := issue_eq s (mk s r)
    rw [nextAccess_issue] at ids each
    refine ⟨(Traffic.issue s _).trans traffic, fun w => (issued w).trans (issued_issue ..), fun k => ?_, { mk s r with tags := tags } :: as, ?_, ?_, fun k row h => ?_⟩
    · cases k with
      | zero => simp [issueRows, fresh]
      | succ k =>
        simp only [issueRows, List.getElem?_cons_succ]
        rw [ids k, Nat.add_right_comm, Nat.add_assoc]
    · rw [issueRows]
      refine accesses.trans ?_
      rw [eq]
      simp
    · simp [length]
    · cases k with
      | zero =>
        obtain rfl : r = row := by simpa using h
        exact ⟨s, tags, .refl s, rfl, rfl⟩
      | succ k =>
        obtain ⟨v, tags', tr, next, at'⟩ := each k row (by simpa using h)
        exact ⟨v, tags', (Traffic.issue s _).trans tr, by rw [next]; omega, by simpa using at'⟩

/-! ### A transfer begun -/

/-- What the access of a row does to a granule: MFIL reads it, MSPL stores the columns of the row with its poison (R201). -/
def rowOp (fill : Bool) (e : RowEngine) (r : Nat) (xs : List Spot) : PieceOp :=
  if fill then .load (xs.map (·.lane)) else .store (storeBits (e.entry r) xs).1 (storeBits (e.entry r) xs).2 false (e.poisoned r)

/-- The access of a row of a range from `first` at `va` on; MSPL's have consecutive store numbers (R201, R236). -/
def rowAccess (fill : Bool) (fr : Firing) (e : RowEngine) (l : Leaf) (first va number : Nat) (v : State) (r : Nat) : Access :=
  let ps := piecesOf v (rowSpots l (va + 128 * (r - first))) (rowOp fill e r)
  { Access.blank v fr.t fr.c fr.slot with
    origin := .rowXfer, number := if fill then 0 else number + (r - first), pieces := ps, stalls := anyStrong ps }

theorem rowAccess_fields (fill : Bool) (fr : Firing) (e : RowEngine) (l : Leaf) (first va number : Nat) (v : State) (r : Nat) :
    let a := rowAccess fill fr e l first va number v r
    a.id = v.nextAccess ∧ a.writer = fr.t ∧ a.origin = .rowXfer ∧ a.number = (if fill then 0 else number + (r - first)) ∧
      a.pieces = piecesOf v (rowSpots l (va + 128 * (r - first))) (rowOp fill e r) := by
  rw [rowAccess]
  exact ⟨rfl, rfl, rfl, rfl, by with_reducible rfl⟩

/-- The rows of a range in ascending order. -/
def rowsOf (first count : Nat) : List Nat := (List.range count).map (first + ·)

theorem getElem?_rowsOf (first count k : Nat) : (rowsOf first count)[k]? = if k < count then some (first + k) else none := by
  rw [rowsOf, List.getElem?_map]
  split
  next inside => rw [List.getElem?_range inside]; rfl
  next outside => rw [List.getElem?_eq_none (by simpa using outside)]; rfl

/-- The state in which a transfer is in progress. -/
def State.xferBegun (s0 : State) (fill : Bool) (fr : Firing) (e : RowEngine) (l : Leaf) (first count va number : Nat) : State :=
  let y := issueRows fr.t (rowAccess fill fr e l first va number) (rowsOf first count) s0
  y.2.setXfer fr.t { fill := fill, rows := y.1 }

section
variable {i : Instr} {s : State} {fr : Firing} (place : fr.t = s.cur.tile ∧ fr.c = s.cur.ctx) (fill : Bool) (e : RowEngine) (l : Leaf)
  (first count va number : Nat) {s0 : State} (traffic : Traffic s s0) (accesses : s0.accesses = s.accesses) (next : s0.nextAccess = s.nextAccess)
include place traffic accesses next

/-- What a transfer leaves when it has begun: one access for each row behind the others, and the transfer in progress (R201, R203). -/
theorem xferBegun_leaves : let t := (s0.xferBegun fill fr e l first count va number).finished i s fr
    t.mem = s.mem ∧ (t.writer fr.t).issued = (s0.writer fr.t).issued ∧ t.accesses.length = s.accesses.length + count ∧
      (∀ k, k < s.accesses.length → t.accesses[k]? = s.accesses[k]?) ∧
      (∀ k, k < count → ∃ a, t.accesses[s.accesses.length + k]? = some a ∧ a.id = s.nextAccess + k ∧ a.writer = fr.t ∧ a.origin = .rowXfer ∧
        a.number = (if fill then 0 else number + k) ∧ a.pieces = piecesOf s (rowSpots l (va + 128 * k)) (rowOp fill e (first + k))) ∧
      (t.tile fr.t).xfer = some { fill := fill, rows := (List.range count).map fun k => (s.nextAccess + k, first + k) } ∧
      (t.tile fr.t).row = (s.tile fr.t).row ∧ ∀ k, at8 (t.ctx fr.t fr.c).d k = at8 (s.ctx fr.t fr.c).d k := by
  intro t
  obtain ⟨tr, issued, ids, as, app, length, each⟩ :=
    issueRows_issued fr.t (mk := rowAccess fill fr e l first va number) (fun _ _ => rfl) (rowsOf first count) s0
  generalize hy : issueRows fr.t (rowAccess fill fr e l first va number) (rowsOf first count) s0 = y at tr issued ids app
  have begun : s0.xferBegun fill fr e l first count va number = y.2.setXfer fr.t { fill := fill, rows := y.1 } := by rw [State.xferBegun, hy]
  have kept := finished_keeps (i := i) place (y.2.setXfer fr.t { fill := fill, rows := y.1 })
  have tile : (y.2.setXfer fr.t { fill := fill, rows := y.1 }).tile fr.t = { s.tile fr.t with xfer := some { fill := fill, rows := y.1 } } := by
    rw [State.setXfer, tile_setTile_same, (traffic.trans tr).tile]
  have ctx := ctx_finished (i := i) place (s := s) (u := y.2.setXfer fr.t { fill := fill, rows := y.1 }) (by rw [State.ctx, tile]; rfl)
  have ht : t = (y.2.setXfer fr.t { fill := fill, rows := y.1 }).finished i s fr := by rw [← begun]
  have inFlight : t.accesses = s.accesses ++ as := by rw [ht, ← accesses, ← app]; rfl
  have rows : (rowsOf first count).length = count := by simp [rowsOf]
  rw [inFlight]
  refine ⟨?_, ?_, by rw [List.length_append, length, rows], fun k old => List.getElem?_append_left old, fun k inRange => ?_, ?_, ?_, fun k => ?_⟩
  · rw [ht]; exact (traffic.trans tr).mem
  · rw [ht]; exact issued fr.t
  · obtain ⟨v, tags, seen, at', stands⟩ := each k (first + k) (by rw [getElem?_rowsOf, if_pos inRange])
    obtain ⟨id, writer, origin, num, pieces⟩ := rowAccess_fields fill fr e l first va number v (first + k)
    generalize rowAccess fill fr e l first va number v (first + k) = a at stands id writer origin num pieces
    rw [Nat.add_sub_cancel_left] at num pieces
    refine ⟨{ a with tags := tags }, ?_, ?_, writer, origin, num, ?_⟩
    · rw [List.getElem?_append_right (Nat.le_add_right ..), Nat.add_sub_cancel_left]
      exact stands
    · rw [← next, ← at']; exact id
    · rw [← (traffic.trans seen).pieces]; exact pieces
  · rw [ht, kept.xfer, tile]
    refine congrArg (fun rows => some ({ fill := fill, rows := rows } : RowXfer)) (List.ext_getElem? fun k => ?_)
    rw [ids, rowsOf, next, List.getElem?_map, List.getElem?_map, Option.map_map]
    by_cases inside : k < count
    · rw [List.getElem?_range inside]; rfl
    · rw [List.getElem?_eq_none (by simpa using inside)]; rfl
  · rw [ht, kept.row, tile]
  · rw [ht, ctx]; rfl

end

end Sys2Proof.Machine
end

section
/-! SUPPORT. The firings of MSPL and MFIL (R188, R201, R202, R236): a transfer begins, or its range stops it. -/

namespace Sys2Proof.Machine

open Sys2Proof

theorem rowRange_eq (f : Slot) : rowRange f = (f.imm.toNat % 128, f.imm.toNat / 128 % 256) := by
  rw [rowRange, bits_eq_mod]; rfl

section
variable {f : Slot} {s : State} {fr : Firing} {l : Leaf} (any : fr.any = true) (free : ownerFault (s.tile fr.t) = false)
  (leaf : (planLanes s fr.t [{ lane := 0, va := fr.a64 0, nib := 0 }]).1.head?.bind Planned.leaf? = some l)
include any free leaf

theorem exec_mspl_begins (firing : s.firingOf (.mspl f) = some fr)
    (sound : rangeFault { w := true } (fr.a64 0) (128 * (f.imm.toNat / 128 % 256)) (planLanes s fr.t [{ lane := 0, va := fr.a64 0, nib := 0 }]).1 = none) :
    let num := (planLanes s fr.t [{ lane := 0, va := fr.a64 0, nib := 0 }]).2.takeNumbers fr.t (f.imm.toNat / 128 % 256)
    exec (.mspl f) s = .next ((num.2.xferBegun false fr (s.tile fr.t).engine l (f.imm.toNat % 128) (f.imm.toNat / 128 % 256) (fr.a64 0) num.1).finished (.mspl f) s fr) := by
  intro num
  have slot : fr.f = f := (firingOf_slot (i := .mspl f) rfl firing).1
  refine exec_matrix_done (mk := .mspl) (fun f s => .trans (b := execMspl f s) rfl rfl) firing any free ?_
  simp only [slot, rowRange_eq, sound, leaf]
  rfl

theorem exec_mfil_begins (firing : s.firingOf (.mfil f) = some fr)
    (sound : rangeFault { r := true } (fr.a64 0) (128 * (f.imm.toNat / 128 % 256)) (planLanes s fr.t [{ lane := 0, va := fr.a64 0, nib := 0 }]).1 = none) (number : Nat) :
    exec (.mfil f) s = .next (((planLanes s fr.t [{ lane := 0, va := fr.a64 0, nib := 0 }]).2.xferBegun true fr (s.tile fr.t).engine l (f.imm.toNat % 128)
      (f.imm.toNat / 128 % 256) (fr.a64 0) number).finished (.mfil f) s fr) := by
  have slot : fr.f = f := (firingOf_slot (i := .mfil f) rfl firing).1
  refine exec_matrix_done (mk := .mfil) (fun f s => .trans (b := execMfil f s) rfl rfl) firing any free ?_
  simp only [slot, rowRange_eq, sound, leaf]
  rfl

end

/-- A range that is not aligned, or leaves its page, faults before it is translated (R202). -/
theorem rangeFault_misplaced {need : Need} {va len : Nat} (odd : va % 128 ≠ 0 ∨ 2 ^ 16 < va % 2 ^ 16 + len) (ps : List Planned) :
    rangeFault need va len ps = some { cls := 3, cause := 1, address := va } := if_pos odd

/-- The fault of a transfer's range stops it (R202). -/
theorem xfer_halts : ∀ p ∈ [(Instr.mspl, ({ w := true } : Need)), (Instr.mfil, { r := true })],
    let fault (s : State) (fr : Firing) : Option FaultInfo :=
      rangeFault p.2 (fr.a64 0) (128 * (fr.f.imm.toNat / 128 % 256)) (planLanes s fr.t [{ lane := 0, va := fr.a64 0, nib := 0 }]).1
    Completes p.1 (fun _ fr => fr.any = false) (fun s _ => s) ∧
      ∀ cond : State → Firing → Prop, ∀ info : Firing → FaultInfo,
        (∀ s fr, cond s fr → fr.any = true ∧ ownerFault (s.tile fr.t) = false ∧ fault s fr = some (info fr)) → Halts p.1 true cond (fun _ => info) := by
  intro p named
  simp only [List.mem_cons, List.not_mem_nil, or_false] at named
  obtain rfl | rfl := named
  · refine ⟨matrix_off_completes (fun _ => rfl) (fun f s => .trans (b := execMspl f s) rfl rfl) (by rintro _ ⟨⟩; rfl), fun cond info holds => ?_⟩
    refine matrix_halts (mk := .mspl) (fun f s => .trans (b := execMspl f s) rfl rfl) true (fun _ => rfl) fun s fr h => ?_
    obtain ⟨any, free, fault⟩ := holds s fr h
    exact ⟨any, free, by simp only [rowRange_eq, fault]⟩
  · refine ⟨matrix_off_completes (fun _ => rfl) (fun f s => .trans (b := execMfil f s) rfl rfl) (by rintro _ ⟨⟩; rfl), fun cond info holds => ?_⟩
    refine matrix_halts (mk := .mfil) (fun f s => .trans (b := execMfil f s) rfl rfl) true (fun _ => rfl) fun s fr h => ?_
    obtain ⟨any, free, fault⟩ := holds s fr h
    exact ⟨any, free, by simp only [rowRange_eq, fault]⟩

/-- Translating a range's address leaves what a transfer starts from. -/
theorem planLanes_start (s : State) (t : Nat) (rs : List LaneReq) :
    let u := (planLanes s t rs).2
    Traffic s u ∧ u.accesses = s.accesses ∧ u.nextAccess = s.nextAccess ∧ u.writers = s.writers := by
  have warmed := planLanes_warmed t rs s
  obtain ⟨tlb, hits, misses, eq⟩ := warmed.rest
  refine ⟨.of_warmed warmed, ?_⟩
  rw [eq]
  exact ⟨rfl, rfl, rfl⟩

theorem xfer_begins (fill : Bool) (f : Slot) (s : State) (fr : Firing) (l : Leaf) : let mk := if fill then Instr.mfil else Instr.mspl
    let first := f.imm.toNat % 128
    let count := f.imm.toNat / 128 % 256
    let va := fr.a64 0
    let plan := (planLanes s fr.t [{ lane := 0, va := va, nib := 0 }]).1
    let e := (s.tile fr.t).engine
    (mk f).wf = true → s.firingOf (mk f) = some fr → fr.any = true → ownerFault (s.tile fr.t) = false →
    rangeFault { r := fill, w := !fill } va (128 * count) plan = none → plan.head?.bind Planned.leaf? = some l →
    ∃ t, exec (mk f) s = .next t ∧ t.mem = s.mem ∧ (t.writer fr.t).issued = (s.writer fr.t).issued + (if fill then 0 else count) ∧
      t.accesses.length = s.accesses.length + count ∧ (∀ k, k < s.accesses.length → t.accesses[k]? = s.accesses[k]?) ∧
      (∀ k, k < count → ∃ a, t.accesses[s.accesses.length + k]? = some a ∧ a.id = s.nextAccess + k ∧ a.writer = fr.t ∧ a.origin = .rowXfer ∧
        a.number = (if fill then 0 else (s.writer fr.t).issued + 1 + k) ∧
        a.pieces = piecesOf s (rowSpots l (va + 128 * k)) fun xs =>
          if fill then .load (xs.map (·.lane))
          else .store (storeBits (e.entry (first + k)) xs).1 (storeBits (e.entry (first + k)) xs).2 false (e.poisoned (first + k))) ∧
      (t.tile fr.t).xfer = some { fill := fill, rows := (List.range count).map fun k => (s.nextAccess + k, first + k) } ∧
      (t.tile fr.t).row = (s.tile fr.t).row ∧ (∀ k, at8 (t.ctx fr.t fr.c).d k = at8 (s.ctx fr.t fr.c).d k) := by
  intro mk first count va plan e wf firing any free sound leaf
  obtain ⟨ht, hc, -⟩ := firingOf_place firing
  obtain ⟨traffic, accesses, next, writers⟩ := planLanes_start s fr.t [{ lane := 0, va := va, nib := 0 }]
  have writer : (planLanes s fr.t [{ lane := 0, va := va, nib := 0 }]).2.writer fr.t = s.writer fr.t := by rw [State.writer, State.writer, writers]
  cases fill
  · have numbers : ((planLanes s fr.t [{ lane := 0, va := va, nib := 0 }]).2.takeNumbers fr.t count).1 = (s.writer fr.t).issued + 1 := by
      rw [State.takeNumbers, writer]
    have taken : (((planLanes s fr.t [{ lane := 0, va := va, nib := 0 }]).2.takeNumbers fr.t count).2.writer fr.t).issued = (s.writer fr.t).issued + count := by
      rw [State.takeNumbers, writer_setWriter_same, writer]
    refine ⟨_, exec_mspl_begins any free leaf firing sound, ?_⟩
    have begun := xferBegun_leaves (i := .mspl f) ⟨ht, hc⟩ false e l first count va ((s.writer fr.t).issued + 1)
      (traffic.trans (Traffic.takeNumbers _ fr.t count)) accesses next
    rw [numbers]
    rw [taken] at begun
    exact begun
  · refine ⟨_, exec_mfil_begins any free leaf firing sound 0, ?_⟩
    have begun := xferBegun_leaves (i := .mfil f) ⟨ht, hc⟩ true e l first count va 0 traffic accesses next
    rw [writer] at begun
    exact begun

end Sys2Proof.Machine
end

section
/-! SUPPORT. The last granule of an MSPL or MFIL (R201, R203, R226): the transfer ends, and MFIL's rows hold what was read. -/

namespace Sys2Proof.Machine

open Sys2Proof

/-! ### Rows filled -/

namespace RowEngine

theorem entry_fillRow (e : RowEngine) (r : Nat) (a : Access) (k : Nat) {n : Nat} (col : n < 32) : (e.fillRow r a).entry k n =
    if k = r then ((a.results.find? fun x => x.1 == n).map (·.2)).getD 0 % 2 ^ 32 else e.entry k n := by
  rw [fillRow, entry_setPoison, entry_setRow _ _ _ _ col, getD_map_range _ col]

theorem poisoned_fillRow (e : RowEngine) (r : Nat) (a : Access) {k : Nat} (row : k < 128) :
    (e.fillRow r a).poisoned k = if k = r then a.poisonAt.isSome else e.poisoned k := by
  rw [fillRow, poisoned_setPoison _ _ _ row, poisoned_setRow]

/-- Rows filled from their accesses (R201). -/
def fillRows (e : RowEngine) (rows : List (Nat × Access)) : RowEngine := rows.foldl (fun e r => e.fillRow r.1 r.2) e

theorem fillRows_cons (e : RowEngine) (x : Nat × Access) (rest : List (Nat × Access)) : e.fillRows (x :: rest) = (e.fillRow x.1 x.2).fillRows rest :=
  List.foldl_cons ..

/-- A row that is not among those filled stays. -/
theorem fillRows_other {rows : List (Nat × Access)} {k : Nat} (other : k ∉ rows.map (·.1)) (e : RowEngine) :
    (∀ n, n < 32 → (e.fillRows rows).entry k n = e.entry k n) ∧ (k < 128 → (e.fillRows rows).poisoned k = e.poisoned k) := by
  induction rows generalizing e with
  | nil => exact ⟨fun _ _ => rfl, fun _ => rfl⟩
  | cons x rest ih =>
    obtain ⟨first, later⟩ : k ≠ x.1 ∧ k ∉ rest.map (·.1) := by simpa [not_or] using other
    obtain ⟨entry, poison⟩ := ih later (e.fillRow x.1 x.2)
    rw [fillRows_cons]
    exact ⟨fun n col => by rw [entry n col, entry_fillRow _ _ _ _ col, if_neg first],
      fun row => by rw [poison row, poisoned_fillRow _ _ _ row, if_neg first]⟩

/-- A row filled once holds what its access read, with its poison. -/
theorem fillRows_own {rows : List (Nat × Access)} (once : (rows.map (·.1)).Nodup) {r : Nat} {a : Access} (own : (r, a) ∈ rows) (e : RowEngine) :
    (∀ n, n < 32 → (e.fillRows rows).entry r n = ((a.results.find? fun x => x.1 == n).map (·.2)).getD 0 % 2 ^ 32) ∧
      (r < 128 → (e.fillRows rows).poisoned r = a.poisonAt.isSome) := by
  induction rows generalizing e with
  | nil => simp at own
  | cons x rest ih =>
    obtain ⟨fresh, once⟩ := List.nodup_cons.mp once
    rw [fillRows_cons]
    obtain rfl | later := List.mem_cons.mp own
    · obtain ⟨entry, poison⟩ := fillRows_other fresh (e.fillRow r a)
      exact ⟨fun n col => by rw [entry n col, entry_fillRow _ _ _ _ col, if_pos rfl],
        fun row => by rw [poison row, poisoned_fillRow _ _ _ row, if_pos rfl]⟩
    · exact ih once later _

end RowEngine

/-! ### The end of a transfer -/

/-- An access belongs to a transfer. -/
def RowXfer.owns (x : RowXfer) (a : Access) : Bool := x.rows.any fun r => r.1 == a.id

/-- The rows of a transfer with their accesses. -/
def State.xferRows (s : State) (x : RowXfer) : List (Nat × Access) :=
  x.rows.filterMap fun r => (s.accesses.find? fun a => a.id == r.1).map fun a => (r.2, a)

/-- The state in which a transfer has ended. -/
def State.xferEnded (s : State) (t : Nat) (x : RowXfer) : State :=
  { s with accesses := s.accesses.filter fun a => !x.owns a }.setTile t { s.tile t with xfer := none }

theorem finishXfer_of_performed {s : State} {t : Nat} {x : RowXfer} (xfer : (s.tile t).xfer = some x) (done : ∀ b ∈ s.accesses, x.owns b = true → b.pieces = []) :
    s.finishXfer t = if x.fill then (s.xferEnded t x).setEngine t ((s.tile t).engine.fillRows (s.xferRows x)) else s.xferEnded t x := by
  have none : (s.accesses.any fun a => x.owns a && !a.pieces.isEmpty) = false := by
    refine List.any_eq_false.mpr fun b inFlight => ?_
    cases own : x.owns b
    · simp
    · simp [done b inFlight own]
  rw [State.finishXfer]
  simp only [xfer]
  exact (if_neg (by rw [Bool.not_eq_true]; exact none)).trans rfl

theorem xferEnded_others (s : State) (t : Nat) (x : RowXfer) : ∀ b ∈ (s.xferEnded t x).accesses, x.owns b = false :=
  fun _ h => by simpa using (List.mem_filter.mp h).2

theorem xferRows_sublist (s : State) (x : RowXfer) : ((s.xferRows x).map (·.1)).Sublist (x.rows.map (·.2)) := by
  rw [State.xferRows]
  induction x.rows with
  | nil => exact .slnil
  | cons r rest ih =>
    rw [List.filterMap_cons]
    cases s.accesses.find? fun a => a.id == r.1
    · exact ih.cons _
    · exact ih.cons_cons _

/-! ### One granule of a row performed -/

section
variable {s u : State} {a a' : Access} {p : Piece}

theorem meetPoison_rowXfer (origin : a.origin = .rowXfer) (l : Nat) : s.meetPoison a l = s := by
  unfold State.meetPoison
  split
  · rw [if_pos (by simp [origin])]
  · rfl

/-- The last granule of a row performed leaves its transfer to end (R201). -/
theorem performAll_rowXfer (perform : s.performPiece a p = (u, a')) (origin : a'.origin = .rowXfer) (left : a'.remaining = false) :
    s.performAll a [p] = (u.putAccess a').finishXfer a'.tile := by
  have settled : (u.putAccess a').settleAccess a' = (u.putAccess a').finishXfer a'.tile := by
    rw [State.settleAccess, left, origin]; rfl
  rw [State.performAll]
  simp only [List.foldl_cons, List.foldl_nil, perform, settled]
  split
  · exact meetPoison_rowXfer origin _
  · rfl

theorem mates_single (pieces : a.pieces = [p]) : a.mates p = [p] := by
  rw [Access.mates, pieces]
  split
  · simp
  · rfl

theorem exec_accessPerform_rowXfer {id : Nat} (found : (s.accesses.find? fun a => a.id = id) = some a) (origin : a.origin = .rowXfer) (pieces : a.pieces = [p])
    (free : s.mayPerform a p = true) (perform : s.performPiece a p = (u, a')) (origin' : a'.origin = .rowXfer) (left : a'.remaining = false) :
    exec (.accessPerform id p.gran) s = .next ((u.putAccess a').finishXfer a'.tile).answerRefills := by
  have slow : a.atOnce = false := by simp [Access.atOnce, origin]
  have piece : (a.pieces.find? fun q => q.gran = p.gran) = some p := by simp [pieces]
  show execAccessPerform id p.gran s = _
  rw [execAccessPerform]
  simp only [found, slow, Bool.false_eq_true, if_false, piece, free, if_true, mates_single pieces, performAll_rowXfer perform origin' left]

end

end Sys2Proof.Machine
end

section
/-! SUPPORT. The transfer ends with its last granule, and the statement on the row engine (O17). -/

namespace Sys2Proof.Machine

open Sys2Proof

theorem granule_congr {m k : Memory} {g : Nat} (h : ∀ j, j / 16 = g → m.byte j = k.byte j) : m.granule g = k.granule g := by
  rw [Memory.granule, Memory.granule, Memory.read_congr fun j low high => h j (by omega)]

/-- A granule written changes no other (R226). -/
theorem granule_writeMem_other (s : State) (p : Piece) (data mask : BitVec 128) (full poison : Bool) {h : Nat} (other : h ≠ p.gran) :
    (s.writeMem p data mask full poison).granule h = s.mem.granule h := by
  refine granule_congr fun j inside => ?_
  have bytes : (s.writeMem p data mask full poison).byte j =
      (s.mem.setGranule p.gran ((s.granuleAs p.key p.gran &&& ~~~mask) ||| (data &&& mask)) (BitVec.allOnes 128)).byte j := by
    unfold State.writeMem
    simp only
    repeat' split
    all_goals simp
  rw [bytes, Memory.setGranule]
  exact Memory.byte_write_other _ _ _ _ _ (by omega)

/-- Tables whose entries have become ready leave the tiles and what is in flight. -/
theorem noteAllReady_keeps (s : State) : s.noteAllReady.tiles = s.tiles ∧ s.noteAllReady.accesses = s.accesses :=
  List.foldlRecOn _ _ (motive := fun u : State => u.tiles = s.tiles ∧ u.accesses = s.accesses) ⟨rfl, rfl⟩ fun _ h _ _ => h

theorem writeGranule_keeps {s : State} {p : Piece} (a : Access) (data mask : BitVec 128) (full poison : Bool) (memory : tierOf (16 * p.gran) ≠ 8) :
    let u := s.writeGranule a p data mask full poison
    u.tiles = s.tiles ∧ u.accesses = s.accesses ∧ ∀ h, h ≠ p.gran → u.mem.granule h = s.mem.granule h := by
  rw [State.writeGranule, if_neg memory]
  split
  · exact ⟨rfl, rfl, fun _ _ => rfl⟩
  · split
    · obtain ⟨tiles, accesses⟩ := noteAllReady_keeps { s with mem := s.writeMem p data mask full poison }
      exact ⟨tiles, accesses, fun h other => by rw [State.noteAllReady_mem]; exact granule_writeMem_other s p data mask full poison other⟩
    · exact ⟨rfl, rfl, fun h other => granule_writeMem_other s p data mask full poison other⟩

theorem performed_keeps (s : State) (g : Nat) : (s.performed g).tiles = s.tiles ∧ (s.performed g).accesses = s.accesses ∧ (s.performed g).mem = s.mem := by
  obtain ⟨hits, misses, eq⟩ := lookUp_warmed [g] s
  rw [State.performed, eq]
  exact ⟨rfl, rfl, rfl⟩

theorem id_of_found {s : State} {id : Nat} {a : Access} (found : (s.accesses.find? fun b => b.id = id) = some a) : a.id = id := by
  simpa using List.find?_some found

section
variable {s u : State} {t id : Nat} {x : RowXfer} {a a' : Access} {p : Piece} (found : (s.accesses.find? fun b => b.id = id) = some a)
  (accesses : u.accesses = s.accesses) (same : a'.id = a.id)
include found accesses same

/-- The access of a row in the state in which one of them has been performed. -/
theorem find_putAccess (k : Nat) : ((u.putAccess a').accesses.find? fun b => b.id == k) =
    (s.accesses.find? fun b => b.id = k).map fun b => if k = id then a' else b := by
  have ida : a'.id = id := same.trans (id_of_found found)
  have key : (fun b : Access => b.id == k) ∘ (fun b => if b.id = a'.id then a' else b) = fun b => decide (b.id = k) := by
    funext b
    rw [Function.comp_apply]
    by_cases h : b.id = a'.id <;> simp [h, beq_eq_decide]
  rw [State.putAccess, accesses, List.find?_map, key]
  cases at' : s.accesses.find? fun b => decide (b.id = k) with
  | none => rfl
  | some b => simp only [Option.map_some, id_of_found at', ida]

variable (tiles : u.tiles = s.tiles) (xfer : (s.tile t).xfer = some x) (done : a'.pieces = [])
  (others : ∀ b ∈ s.accesses, b.id ≠ id → (x.rows.any fun r => r.1 == b.id) = true → b.pieces = [])
include xfer others tiles done

/-- A transfer of which the last granule has been performed ends (R201). -/
theorem putAccess_ends : (u.putAccess a').finishXfer t =
    if x.fill then ((u.putAccess a').xferEnded t x).setEngine t ((s.tile t).engine.fillRows ((u.putAccess a').xferRows x))
    else (u.putAccess a').xferEnded t x := by
  have tile : (u.putAccess a').tile t = s.tile t := by
    show SMap.get u.tiles t _ = _
    rw [tiles]; rfl
  have ida : a'.id = id := same.trans (id_of_found found)
  rw [finishXfer_of_performed (by rw [tile]; exact xfer), tile]
  intro b inFlight own
  rw [State.putAccess, accesses] at inFlight
  obtain ⟨c, hc, rfl⟩ := List.mem_map.mp inFlight
  by_cases performed : c.id = a'.id
  · rw [if_pos performed]; exact done
  · rw [if_neg performed] at own ⊢
    exact others c hc (by rw [← ida]; exact performed) own

end

section
variable {s : State} {t id : Nat} {x : RowXfer} {a : Access} {p : Piece} (xfer : (s.tile t).xfer = some x)
  (found : (s.accesses.find? fun b => b.id = id) = some a) (origin : a.origin = .rowXfer) (tile : a.tile = t) (pieces : a.pieces = [p]) (backs : a.backs = [])
  (returns : a.returns = []) (free : s.mayPerform a p = true)
  (others : ∀ b ∈ s.accesses, b.id ≠ id → (x.rows.any fun r => r.1 == b.id) = true → b.pieces = [])
include xfer found origin tile pieces backs returns free others

theorem xfer_fills (fill : x.fill = true) (once : (x.rows.map (·.2)).Nodup) {lanes : List LaneAt} (op : p.op = .load lanes) :
    ∃ u, exec (.accessPerform id p.gran) s = .next u ∧ u.mem = s.mem ∧ (u.tile t).xfer = none ∧ (∀ b ∈ u.accesses, (x.rows.any fun r => r.1 == b.id) = false) ∧
      let e1 := (u.tile t).row
      (∀ k r b, (k, r) ∈ x.rows → (s.accesses.find? fun a => a.id = k) = some b →
        let got := if k = id then a.results ++ laneValues (s.readGranule a p) lanes else b.results
        (∀ n, n < 32 → e1.entry r n = ((got.find? fun y => y.1 == n).map (·.2)).getD 0 % 2 ^ 32) ∧
        (r < 128 → e1.poisoned r = (b.poisonAt.isSome || (decide (k = id) && s.poisoned p.gran)))) ∧
      (∀ r, r ∉ x.rows.map (·.2) → (∀ n, n < 32 → e1.entry r n = (s.tile t).engine.entry r n) ∧ (r < 128 → e1.poisoned r = (s.tile t).engine.poisoned r)) ∧
      e1.dirty = true ∧ e1.owner = (s.tile t).inst := by
  let a' : Access := { a with
    pieces := a.pieces.erase p, results := a.results ++ laneValues (s.readGranule a p) lanes,
    poisonAt := a.poisonAt.or (if s.poisoned p.gran then some p.va else none) }
  have perform : s.performPiece a p = (s.performed p.gran, a') := by
    rw [State.performPiece]
    simp only [op]
    rfl
  have done : a'.pieces = [] := by simp [a', pieces]
  have left : a'.remaining = false := by
    rw [Access.remaining, done, show a'.backs = [] from backs, show a'.returns = [] from returns]
    rfl
  obtain ⟨tiles, accesses, mem⟩ := performed_keeps s p.gran
  have ends := putAccess_ends found accesses (a' := a') rfl tiles xfer done others
  rw [fill, if_pos rfl] at ends
  generalize hv : (s.performed p.gran).putAccess a' = v at ends
  have step := exec_accessPerform_rowXfer found origin pieces free perform origin left
  rw [hv, show a'.tile = t from tile, ends] at step
  have vtile : v.tile t = s.tile t := by
    rw [← hv]
    show SMap.get (s.performed p.gran).tiles t _ = _
    rw [tiles]; rfl
  have row : (((v.xferEnded t x).setEngine t ((s.tile t).engine.fillRows (v.xferRows x))).answerRefills.tile t) =
      { s.tile t with xfer := none, row := { (s.tile t).engine.fillRows (v.xferRows x) with owner := (s.tile t).inst, dirty := true } } := by
    refine (tile_setEngine (v.xferEnded t x) t _).trans ?_
    rw [State.xferEnded, tile_setTile_same, vtile]
  refine ⟨_, step, ?_, by rw [row], xferEnded_others v t x, ?_⟩
  · show v.mem = s.mem
    rw [← hv]; exact mem
  · have once' : ((v.xferRows x).map (·.1)).Nodup := (xferRows_sublist v x).nodup once
    rw [row]
    refine ⟨fun k r b named at' => ?_, fun r unnamed => ?_, rfl, rfl⟩
    · have own : (r, if k = id then a' else b) ∈ v.xferRows x := by
        refine List.mem_filterMap.mpr ⟨(k, r), named, ?_⟩
        rw [← hv, find_putAccess found accesses (a' := a') rfl, at']
        rfl
      obtain ⟨entry, poison⟩ := RowEngine.fillRows_own once' own (s.tile t).engine
      by_cases this : k = id
      · obtain rfl : b = a := by
          rw [this, found] at at'
          exact (Option.some.inj at').symm
        simp only [if_pos this] at entry poison ⊢
        refine ⟨entry, fun inFile => (poison inFile).trans ?_⟩
        cases bad : s.poisoned p.gran <;> simp [a', bad, this]
      · simp only [if_neg this] at entry poison ⊢
        exact ⟨entry, fun inFile => (poison inFile).trans (by simp [this])⟩
    · exact RowEngine.fillRows_other (fun h => unnamed ((xferRows_sublist v x).subset h)) _

theorem xfer_stores (store : x.fill = false) (memory : tierOf (16 * p.gran) ≠ 8) {data mask : BitVec 128} {full poison : Bool} (op : p.op = .store data mask full poison) :
    ∃ u, exec (.accessPerform id p.gran) s = .next u ∧ (u.tile t).xfer = none ∧ (u.tile t).row = (s.tile t).row ∧
      (∀ b ∈ u.accesses, (x.rows.any fun r => r.1 == b.id) = false) ∧ ∀ h, h ≠ p.gran → u.mem.granule h = s.mem.granule h := by
  let a' : Access := { a with pieces := a.pieces.erase p }
  let w := (s.writeGranule a p data mask full poison).performed p.gran
  have perform : s.performPiece a p = (w, a') := by
    rw [State.performPiece]
    simp only [op]
    rfl
  have done : a'.pieces = [] := by simp [a', pieces]
  have left : a'.remaining = false := by
    rw [Access.remaining, done, show a'.backs = [] from backs, show a'.returns = [] from returns]
    rfl
  obtain ⟨written, inFlight, bytes⟩ := writeGranule_keeps a data mask full poison memory (s := s)
  obtain ⟨tiles, accesses, mem⟩ := performed_keeps (s.writeGranule a p data mask full poison) p.gran
  have ends := putAccess_ends found (accesses.trans inFlight) (a' := a') rfl (tiles.trans written) xfer done others
  rw [store, if_neg Bool.false_ne_true] at ends
  have step := exec_accessPerform_rowXfer found origin pieces free perform origin left
  rw [show a'.tile = t from tile] at step
  refine ⟨_, step.trans (congrArg _ (congrArg State.answerRefills ends)), ?_, ?_, xferEnded_others _ t x, fun h other => ?_⟩
  · exact congrArg Tile.xfer (tile_setTile_same ..)
  · refine (congrArg Tile.row (tile_setTile_same ..)).trans ?_
    show (SMap.get w.tiles t _).row = _
    rw [tiles.trans written]; rfl
  · show w.mem.granule h = _
    rw [mem]; exact bytes h other

end

/-- Settles O17: each instruction has its outcomes by the shared rule of a matrix firing, a transfer's accesses are issued row by row, and its last granule ends it. -/
theorem rowEngineRuns : Obligations.RowEngineRuns := by
  unfold Obligations.RowEngineRuns
  refine ⟨⟨⟨mset_engineSpec, mset_halts⟩, mldb_engineSpec, mcbt_engineSpec, mprd_engineSpec, fun _ _ _ _ firing any free => mclr_clears firing any free,
    matrix_owned_halts⟩,
    ⟨fun _ _ _ _ _ firing any free mode panel => mrow_steps firing any free mode panel, mrow_off_completes, mrow_noMode_halts, mrow_noPanel_halts,
      fun _ _ _ _ steps => rowStepComplete_raises steps, fun _ _ empty => exec_rowStepComplete_none empty, mout_laneSpecOn, mout_halts⟩,
    xfer_begins, fun p named => ?_, ?_⟩
  · obtain ⟨off, halts⟩ := xfer_halts p named
    exact ⟨off, halts _ (fun fr => { cls := 3, cause := 1, address := fr.a64 0 }) fun s fr ⟨any, free, odd⟩ => ⟨any, free, rangeFault_misplaced odd _⟩,
      fun fi => halts _ (fun _ => fi) fun s fr ⟨any, free, fault⟩ => ⟨any, free, fault⟩⟩
  · rintro s t x id g a p xfer found - origin tile pieces rfl backs returns free others
    exact ⟨fun fill _ once lanes op => xfer_fills xfer found origin tile pieces backs returns free others fill once op,
      fun store _ memory data mask full poison op => xfer_stores xfer found origin tile pieces backs returns free others store memory op⟩

end Sys2Proof.Machine
end

section
/-! SUPPORT. What a pass of the skim unit makes of a row, of a row of a partial state and of a finished row (R206, R207, R215, R216). -/

namespace Sys2Proof.Machine

open Sys2Proof

theorem unmasked_iff (h : V512) (base count i j : Nat) : unmasked h base count i j = true ↔
    j < count ∧ base + j < 2 ^ 32 ∧ base + j ≤ hdrPos0 h + i ∧
      (base + j ≤ hdrCpos h ∨ (base + j - hdrCpos h - 1 < 16 ∧ (ancestors h 16 i).testBit (base + j - hdrCpos h - 1) = true)) := by
  simp only [unmasked, bitAt_eq_testBit, Bool.and_eq_true, Bool.or_eq_true, decide_eq_true_eq, and_assoc]

/-! ### Sums in chunks of 32 terms (R132, R207) -/

/-- A sum continued by 32 terms. -/
def fusedChunk (acc : Nat) (term : Nat → FVal × FpFlags) : Nat :=
  (Fmt.f32.fusedSum (valTerm (Fmt.f32.decode acc) :: (List.range 32).map term)).bits

theorem take_drop_map_range {α : Type} (g : Nat → α) {n c : Nat} (inside : 32 * c + 32 ≤ n) :
    ((((List.range n).map g).drop (32 * c)).take 32) = (List.range 32).map fun k => g (32 * c + k) := by
  refine List.ext_getElem (by simp; omega) fun k _ _ => ?_
  simp

/-- A sum of whole chunks of terms. -/
theorem fusedChunks_bits (start : FRes) (term : Nat → FVal × FpFlags) (chunks : Nat) :
    (fusedChunks start ((List.range (32 * chunks)).map term)).bits =
      (List.range chunks).foldl (fun acc c => fusedChunk acc fun n => term (32 * c + n)) start.bits := by
  have count : (((List.range (32 * chunks)).map term).length + 31) / 32 = chunks := by
    rw [List.length_map, List.length_range]; omega
  have each (xs : List Nat) (within : ∀ c ∈ xs, c < chunks) (acc : FRes) :
      (xs.foldl (fun acc c => (Fmt.f32.fusedSum (valTerm (Fmt.f32.decode acc.bits) ::
        ((((List.range (32 * chunks)).map term).drop (32 * c)).take 32))).after acc.flags) acc).bits =
      xs.foldl (fun acc c => fusedChunk acc fun n => term (32 * c + n)) acc.bits := by
    induction xs generalizing acc with
    | nil => rfl
    | cons c rest ih =>
      have first : c < chunks := within c List.mem_cons_self
      rw [List.foldl_cons, List.foldl_cons, ih fun k hk => within k (List.mem_cons_of_mem _ hk), take_drop_map_range term (by omega)]
      rfl
  rw [fusedChunks, count]
  exact each _ (fun _ => List.mem_range.mp) start

theorem passScore_bits (pd : PassData) (scale : Nat) {dim : Nat} (q : List Nat) (j : Nat) (whole : dim % 32 = 0) : (passScore pd scale dim q j).bits =
    (Fmt.f32.mul (Fmt.f32.mul ((List.range (dim / 32)).foldl (fun acc c =>
      fusedChunk acc fun n => mulTerm (Fmt.bf16.decode (q.getD (32 * c + n) 0)) (pd.k j (32 * c + n))) 0) pd.kScale).bits scale).bits := by
  have split : dim = 32 * (dim / 32) := by omega
  have sum := fusedChunks_bits (.plain 0) (fun d => mulTerm (Fmt.bf16.decode (q.getD d 0)) (pd.k j d)) (dim / 32)
  rw [← split] at sum
  rw [passScore, mulR, mulR]
  exact congrArg (fun x => (Fmt.f32.mul (Fmt.f32.mul x pd.kScale).bits scale).bits) sum

/-! ### A pass over a row (R207) -/

section
variable (pd : PassData) (h : V512) (dim i : Nat) (q : List Nat) (r : AttnRow)

/-- The score of a position: minus infinity where it is masked. -/
def maskedScore (j : Nat) : FRes := if unmasked h pd.base pd.count i j then passScore pd (hdrScale h) dim q j else .plain negInf

/-- The greatest score of a row. -/
def topScore : FRes := ((List.range 256).map (maskedScore pd h dim i q)).foldl maxR (.plain r.m)

/-- The weight of a position, in bf16. -/
def weight (top j : Nat) : FVal :=
  Fmt.bf16.decode (cvtFF .f32 .bf16 .rne false (Fmt.f32.exp2 (Fmt.f32.sub (maskedScore pd h dim i q j).bits top).bits).bits).bits

theorem topScore_bits : (topScore pd h dim i q r).bits =
    (List.range 256).foldl (fun m j => (Fmt.f32.minmax true m (maskedScore pd h dim i q j).bits).bits) r.m := by
  rw [topScore, List.foldl_map]
  exact (List.foldl_hom FRes.bits (g₁ := fun acc j => maxR acc (maskedScore pd h dim i q j)) fun _ _ => rfl).symm

theorem passRow_masked (none : (topScore pd h dim i q r).bits = negInf) : (passRow pd h dim i q r).1 = r := by
  have top : (((List.range 256).map fun j => if unmasked h pd.base pd.count i j then passScore pd (hdrScale h) dim q j else .plain negInf).foldl maxR (.plain r.m)).bits
      = negInf := none
  rw [passRow]
  simp only [top, if_true]

/-- The weights of a row. -/
def weights (top : Nat) : List FVal := (List.range 256).map (weight pd h dim i q top)

/-- What a row becomes that sees a position. -/
def passedRow (top : Nat) : AttnRow :=
  let al : FRes := .plain (Fmt.f32.exp2 (Fmt.f32.sub r.m top).bits).bits
  { m := top
    l := (fusedChunks (mulR (.plain r.l) al) ((weights pd h dim i q top).map valTerm)).bits
    o := (List.range dim).map fun d => (addR (mulR (.plain (r.o.getD d 0)) al)
      (mulR (fusedChunks (.plain 0) ((List.range 256).map fun j => mulTerm ((weights pd h dim i q top).getD j (.fin false 0 0)) (pd.v j d))) (.plain pd.vScale))).bits }

theorem passRow_seen (some : (topScore pd h dim i q r).bits ≠ negInf) :
    (passRow pd h dim i q r).1 = passedRow pd h dim i q r (topScore pd h dim i q r).bits := by
  rw [passRow]
  refine (congrArg Prod.fst (if_neg some)).trans ?_
  rw [passedRow, weights]
  simp only [List.map_map]
  refine (AttnRow.mk.injEq ..).mpr ⟨?_, ?_, ?_⟩
  · rfl
  · rfl
  · rfl

theorem passedRow_l (top : Nat) : (passedRow pd h dim i q r top).l =
    (List.range 8).foldl (fun acc c => fusedChunk acc fun n => valTerm (weight pd h dim i q top (32 * c + n)))
      (Fmt.f32.mul r.l (Fmt.f32.exp2 (Fmt.f32.sub r.m top).bits).bits).bits := by
  rw [passedRow, weights, List.map_map]
  exact fusedChunks_bits _ (valTerm ∘ weight pd h dim i q top) 8

theorem passedRow_o_length (top : Nat) : (passedRow pd h dim i q r top).o.length = dim := by simp [passedRow]

theorem passedRow_o (top : Nat) {d : Nat} (inRow : d < dim) : (passedRow pd h dim i q r top).o.getD d 0 =
    (Fmt.f32.add (Fmt.f32.mul (r.o.getD d 0) (Fmt.f32.exp2 (Fmt.f32.sub r.m top).bits).bits).bits
      (Fmt.f32.mul ((List.range 8).foldl (fun acc c => fusedChunk acc fun n => mulTerm (weight pd h dim i q top (32 * c + n)) (pd.v (32 * c + n) d)) 0)
        pd.vScale).bits).bits := by
  have terms : ((List.range 256).map fun j => mulTerm ((weights pd h dim i q top).getD j (.fin false 0 0)) (pd.v j d)) =
      (List.range (32 * 8)).map fun j => mulTerm (weight pd h dim i q top j) (pd.v j d) :=
    List.map_congr_left fun j hj => by rw [weights, getD_map_range _ (List.mem_range.mp hj)]
  have sum := fusedChunks_bits (.plain 0) (fun j => mulTerm (weight pd h dim i q top j) (pd.v j d)) 8
  rw [passedRow]
  refine (getD_map_range _ inRow 0).trans ?_
  rw [terms, addR, mulR, mulR]
  exact congrArg (fun x => (Fmt.f32.add (Fmt.f32.mul (r.o.getD d 0) (Fmt.f32.exp2 (Fmt.f32.sub r.m top).bits).bits).bits (Fmt.f32.mul x pd.vScale).bits).bits) sum

theorem maskedScore_bits (j : Nat) :
    (maskedScore pd h dim i q j).bits = if unmasked h pd.base pd.count i j then (passScore pd (hdrScale h) dim q j).bits else negInf :=
  apply_ite FRes.bits ..

theorem passRow_row :
    let f := Fmt.f32
    let score (j : Nat) : Nat := if unmasked h pd.base pd.count i j then (passScore pd (hdrScale h) dim q j).bits else negInf
    let top := (List.range 256).foldl (fun m j => (f.minmax true m (score j)).bits) r.m
    let alpha := (f.exp2 (f.sub r.m top).bits).bits
    let p (j : Nat) : FVal := Fmt.bf16.decode (cvtFF .f32 .bf16 .rne false (f.exp2 (f.sub (score j) top).bits).bits).bits
    let chunk (acc : Nat) (term : Nat → FVal × FpFlags) (c : Nat) : Nat :=
      (f.fusedSum (valTerm (f.decode acc) :: (List.range 32).map fun n => term (32 * c + n))).bits
    let out := (passRow pd h dim i q r).1
    (top = negInf → out = r) ∧
    (top ≠ negInf → out.m = top ∧
      out.l = (List.range 8).foldl (fun acc c => chunk acc (fun j => valTerm (p j)) c) (f.mul r.l alpha).bits ∧
      out.o.length = dim ∧ ∀ d, d < dim → out.o.getD d 0 =
        (f.add (f.mul (r.o.getD d 0) alpha).bits (f.mul ((List.range 8).foldl (fun acc c => chunk acc (fun j => mulTerm (p j) (pd.v j d)) c) 0) pd.vScale).bits).bits) := by
  intro f score top alpha p chunk out
  have greatest := topScore_bits pd h dim i q r
  have seen := passRow_seen pd h dim i q r
  have l := passedRow_l pd h dim i q r top
  have o := fun d inRow => passedRow_o pd h dim i q r top (d := d) inRow
  simp only [maskedScore_bits] at greatest
  simp only [weight, maskedScore_bits] at l o
  change (topScore pd h dim i q r).bits = top at greatest
  rw [greatest] at seen
  refine ⟨fun none => passRow_masked pd h dim i q r (by rw [greatest]; exact none), fun some => ?_⟩
  have is : out = passedRow pd h dim i q r top := seen some
  rw [is]
  refine ⟨?_, ?_, passedRow_o_length .., ?_⟩
  · rw [passedRow]
  · exact l
  · exact o

end

/-! ### A row of a partial state, and a finished row (R215, R216) -/

theorem mergeRow_row (r p : AttnRow) :
    let f := Fmt.f32
    let top := (f.minmax true r.m p.m).bits
    let a1 := (f.exp2 (f.sub r.m top).bits).bits
    let a2 := (f.exp2 (f.sub p.m top).bits).bits
    let out := (mergeRow r p).1
    (top = negInf → out = r) ∧
    (top ≠ negInf → out.m = top ∧ out.l = (f.add (f.mul r.l a1).bits (f.mul p.l a2).bits).bits ∧ out.o.length = r.o.length ∧
      ∀ d, d < r.o.length → out.o.getD d 0 = (f.add (f.mul (r.o.getD d 0) a1).bits (f.mul (p.o.getD d 0) a2).bits).bits) := by
  intro f top a1 a2 out
  have greatest : (maxR (.plain r.m) (.plain p.m)).bits = top := rfl
  refine ⟨fun none => ?_, fun some => ?_⟩
  · simp only [out, mergeRow, greatest, none, if_true]
  · simp only [out, mergeRow, greatest, some, if_false, List.map_map, List.length_map, List.length_range, true_and]
    exact ⟨rfl, fun d inRow => getD_map_range _ inRow 0⟩

theorem finishRow_bits (ty : Ty) (r : AttnRow) {d : Nat} (inRow : d < r.o.length) : ((finishRow ty r).map (·.bits)).getD d 0 =
    if r.m = negInf then 0 else ((Fmt.ofTy ty).divInto .f32 (r.o.getD d 0) r.l).bits := by
  rw [finishRow, List.map_map, List.getD_eq_getElem _ _ (by simpa using inRow), List.getD_eq_getElem _ _ inRow, List.getElem_map, Function.comp_apply]
  split <;> rfl

end Sys2Proof.Machine
end

section
/-! SUPPORT. The fields of a beat (R390): what a field that has been set reads as, the check of a token that is sent (R392), and the hops of a header sent on (R393). -/

namespace Sys2Proof.Machine

open Sys2Proof

/-! ### Fields -/

/-- A field set in a number: the bits of the field are the new ones, the others stay. -/
theorem testBit_replaceField (v off n x k : Nat) : (v - bits v off n * 2 ^ off + x % 2 ^ n * 2 ^ off).testBit k =
    if off ≤ k ∧ k < off + n then x.testBit (k - off) else v.testBit k := by
  have parts : v = 2 ^ off * (2 ^ n * (v / 2 ^ off / 2 ^ n) + bits v off n) + v % 2 ^ off := by
    rw [bits, Nat.div_add_mod, Nat.div_add_mod]
  have field : bits v off n < 2 ^ n := bits_lt ..
  have low : v % 2 ^ off < 2 ^ off := Nat.mod_lt _ (by positivity)
  have new : x % 2 ^ n < 2 ^ n := Nat.mod_lt _ (by positivity)
  generalize v / 2 ^ off / 2 ^ n = high at parts
  generalize bits v off n = old at parts field
  generalize v % 2 ^ off = rest at parts low
  have replaced : v - old * 2 ^ off + x % 2 ^ n * 2 ^ off = 2 ^ off * (2 ^ n * high + x % 2 ^ n) + rest := by
    rw [parts, Nat.mul_add, Nat.mul_add, Nat.mul_comm old, Nat.mul_comm (x % 2 ^ n)]
    omega
  rw [replaced, parts, Nat.testBit_two_pow_mul_add _ low, Nat.testBit_two_pow_mul_add _ low]
  by_cases below : k < off
  · rw [if_pos below, if_pos below, if_neg (by omega)]
  · rw [if_neg below, if_neg below, Nat.testBit_two_pow_mul_add _ new, Nat.testBit_two_pow_mul_add _ field, Nat.testBit_mod_two_pow]
    by_cases inside : k - off < n
    · rw [if_pos inside, if_pos (by omega)]
      simp [inside]
    · rw [if_neg inside, if_neg inside, if_neg (by omega)]

theorem getLsbD_setField (v : V512) (off n x : Nat) {k : Nat} (hk : k < 512) :
    (setField v off n x).getLsbD k = if off ≤ k ∧ k < off + n then x.testBit (k - off) else v.getLsbD k := by
  rw [setField, BitVec.getLsbD_ofNat, testBit_replaceField]
  simp [hk, BitVec.testBit_toNat]

/-- The field that was set last is the one that is read. -/
theorem setField_setField (v : V512) (off n x y : Nat) : setField (setField v off n x) off n y = setField v off n y := by
  refine BitVec.eq_of_getLsbD_eq fun k hk => ?_
  rw [getLsbD_setField _ _ _ _ hk, getLsbD_setField _ _ _ _ hk, getLsbD_setField _ _ _ _ hk]
  split <;> rfl

theorem bits_setField_same (v : V512) {off n : Nat} (x : Nat) (inside : off + n ≤ 512) : bits (setField v off n x).toNat off n = x % 2 ^ n := by
  refine Nat.eq_of_testBit_eq fun k => ?_
  rw [testBit_bits, Nat.testBit_mod_two_pow]
  by_cases hk : k < n
  · rw [BitVec.testBit_toNat, getLsbD_setField _ _ _ _ (by omega), if_pos (by omega), Nat.add_sub_cancel_left]
  · simp [hk]

theorem bits_setField_other (v : V512) {off n lo m : Nat} (x : Nat) (inside : lo + m ≤ 512) (apart : lo + m ≤ off ∨ off + n ≤ lo) :
    bits (setField v off n x).toNat lo m = bits v.toNat lo m := by
  refine Nat.eq_of_testBit_eq fun k => ?_
  rw [testBit_bits, testBit_bits]
  by_cases hk : k < m
  · rw [BitVec.testBit_toNat, BitVec.testBit_toNat, getLsbD_setField _ _ _ _ (by omega), if_neg (by omega)]
  · simp [hk]

/-- A byte of a beat of which another byte, or the same, has been set. -/
theorem beatField_setByte (v : V512) (m x : Nat) {k : Nat} (hk : k < 64) :
    beatField (setField v (8 * m) 8 x) k 1 = if k = m then x % 256 else beatField v k 1 := by
  unfold beatField
  by_cases same : k = m
  · subst same
    rw [if_pos rfl, Nat.mul_one, bits_setField_same v x (by omega)]
    rfl
  · rw [if_neg same, Nat.mul_one, bits_setField_other v x (by omega) (by omega)]

/-! ### The check of a token (R392) -/

theorem crcBit_lt {c : Nat} (h : c < 2 ^ 32) : crcBit c < 2 ^ 32 := by
  unfold crcBit
  split
  · exact Nat.xor_lt_two_pow (by omega) (by decide)
  · omega

theorem crcByte_lt {c b : Nat} (hc : c < 2 ^ 32) (hb : b < 2 ^ 32) : crcByte c b < 2 ^ 32 :=
  List.foldlRecOn _ _ (motive := (· < 2 ^ 32)) (Nat.xor_lt_two_pow hc hb) fun _ h _ _ => crcBit_lt h

theorem crc32c_lt {bs : List Nat} (bytes : ∀ b ∈ bs, b < 2 ^ 32) : crc32c bs < 2 ^ 32 :=
  Nat.xor_lt_two_pow (List.foldlRecOn _ _ (motive := (· < 2 ^ 32)) (by decide) fun _ h b hb => crcByte_lt h (bytes b hb)) (by decide)

theorem beatBytes_lt {v : V512} : ∀ b ∈ beatBytes v, b < 2 ^ 32 := by
  intro b hb
  obtain ⟨k, -, rfl⟩ := List.mem_map.mp hb
  exact (bits_lt _ _ 8).trans (by decide)

theorem tokenCheck_lt (beats : List V512) : tokenCheck beats < 2 ^ 32 := by
  unfold tokenCheck
  split
  · exact crc32c_lt fun _ h => absurd h List.not_mem_nil
  · refine crc32c_lt fun b hb => ?_
    obtain ⟨v, -, hv⟩ := List.mem_flatMap.mp hb
    exact beatBytes_lt b hv

/-- The check does not depend on the CHECK bytes of the header. -/
theorem tokenCheck_setCheck (h : V512) (rest : List V512) (x : Nat) : tokenCheck (setField h 416 32 x :: rest) = tokenCheck (h :: rest) := by
  rw [tokenCheck, tokenCheck, setField_setField]

/-- The check of a header that carries it. -/
theorem beatField_setCheck (h : V512) {c : Nat} (small : c < 2 ^ 32) : beatField (setField h 416 32 c) 52 4 = c := by
  have read := bits_setField_same h (off := 416) (n := 32) c (by omega)
  rw [Nat.mod_eq_of_lt small] at read
  exact read

theorem checkHolds_sealToken (h : V512) (rest : List V512) : checkHolds (sealToken (h :: rest)) = true := by
  rw [sealToken, checkHolds, tokenCheck_setCheck, beatField_setCheck h (tokenCheck_lt _)]
  exact beq_self_eq_true _

theorem sealToken_checks : ∀ beats : List V512, beats ≠ [] → checkHolds (sealToken beats) = true ∧ (sealToken beats).drop 1 = beats.drop 1 ∧
    ∀ b, beats.head? = some b → ∃ c, (sealToken beats).head? = some c ∧ ∀ k, k < 512 → (k < 416 ∨ 448 ≤ k) → c.getLsbD k = b.getLsbD k := by
  intro beats some
  obtain ⟨h, rest, rfl⟩ := List.exists_cons_of_ne_nil some
  refine ⟨checkHolds_sealToken h rest, ?_, fun b hb => ⟨setField h 416 32 (tokenCheck (h :: rest)), ?_, fun k hk outside => ?_⟩⟩
  · rw [sealToken, List.drop_succ_cons, List.drop_succ_cons]
  · rw [sealToken, List.head?_cons]
  obtain rfl : h = b := Option.some.inj hb
  rw [getLsbD_setField _ _ _ _ hk, if_neg (by omega)]

/-! ### The hops of a header sent on (R393) -/

/-- The header with the levels below one set to what is left of them. -/
def lowerHops (h h1 : V512) (n : Nat) : V512 := (List.range n).foldl (fun acc k => setField acc (8 * (42 + k)) 8 (hdrSizeN h k + 255)) h1

theorem hdrHops_lowerHops (h h1 : V512) (n : Nat) {k : Nat} (hk : k < 6) :
    hdrHops (lowerHops h h1 n) k = if k < n then (hdrSizeN h k + 255) % 256 else hdrHops h1 k := by
  induction n with
  | zero => rw [if_neg (by omega)]; rfl
  | succ n ih =>
    rw [lowerHops, List.range_succ, List.foldl_append, List.foldl_cons, List.foldl_nil, ← lowerHops, hdrHops, beatField_setByte _ _ _ (by omega)]
    by_cases last : k = n
    · rw [if_pos (by omega), if_pos (by omega), last]
    · rw [if_neg (by omega), ← hdrHops, ih]
      exact if_congr (by omega) rfl rfl

/-- The lowest level with hops left. -/
def nextLevel (h : V512) : Nat := ((List.range 6).find? fun k => decide (0 < hdrHops h k)).getD 7

theorem hopHeader_next {h : V512} (inner : beatField h 1 1 < 6) : let n := beatField h 1 1
    let h2 := lowerHops h (setField h (8 * (42 + n)) 8 (hdrHops h n + 255)) n
    hopHeader h = setField h2 8 8 (nextLevel h2) := by
  have other : beatField h 1 1 ≠ 7 := by omega
  simp only [hopHeader, other, if_false, inner, if_true, Nat.min_eq_left inner.le]
  rfl

theorem nextLevel_lt (h : V512) : nextLevel h < 256 := by
  unfold nextLevel
  cases found : (List.range 6).find? fun k => decide (0 < hdrHops h k) with
  | none => decide
  | some k =>
    have : k < 6 := List.mem_range.mp (List.mem_of_find?_eq_some found)
    exact Nat.lt_trans this (by decide)

theorem nextLevel_of_first {h : V512} {k : Nat} (hk : k < 6) (left : 0 < hdrHops h k) (below : ∀ j, j < k → hdrHops h j = 0) : nextLevel h = k := by
  have first : (List.range 6).find? (fun k => decide (0 < hdrHops h k)) = some k :=
    List.find?_range_eq_some.mpr ⟨by simpa using left, List.mem_range.mpr hk, fun j hj => by simp [below j hj]⟩
  rw [nextLevel, first]; rfl

theorem nextLevel_of_none {h : V512} (spent : ∀ k, k < 6 → hdrHops h k = 0) : nextLevel h = 7 := by
  have missing : (List.range 6).find? (fun k => decide (0 < hdrHops h k)) = none := by
    simpa [List.find?_eq_none] using spent
  rw [nextLevel, missing]; rfl

theorem hopHeader_hops : ∀ h : V512, beatField h 1 1 < 6 →
    let n := beatField h 1 1
    let g := hopHeader h
    hdrHops g n = (hdrHops h n + 255) % 256 ∧ (∀ k, k < n → hdrHops g k = (hdrSizeN h k + 255) % 256) ∧ (∀ k, n < k → k < 6 → hdrHops g k = hdrHops h k) ∧
      (∀ k, k < 6 → 0 < hdrHops g k → (∀ j, j < k → hdrHops g j = 0) → beatField g 1 1 = k) ∧ ((∀ k, k < 6 → hdrHops g k = 0) → beatField g 1 1 = 7) := by
  intro h inner n g
  have sent : g = _ := hopHeader_next inner
  generalize low : lowerHops h (setField h (8 * (42 + n)) 8 (hdrHops h n + 255)) n = h2 at sent
  have level : beatField g 1 1 = nextLevel h2 := by
    rw [sent]
    exact (beatField_setByte h2 1 (nextLevel h2) (by decide)).trans (Nat.mod_eq_of_lt (nextLevel_lt h2))
  have hops {k : Nat} (hk : k < 6) : hdrHops g k = hdrHops h2 k := by
    rw [sent]
    exact (beatField_setByte h2 1 (nextLevel h2) (k := 42 + k) (by omega)).trans (if_neg (by omega))
  have left {k : Nat} (hk : k < 6) : hdrHops h2 k = if k < n then (hdrSizeN h k + 255) % 256 else if k = n then (hdrHops h n + 255) % 256 else hdrHops h k := by
    rw [← low, hdrHops_lowerHops _ _ _ hk]
    refine if_congr Iff.rfl rfl ?_
    rw [hdrHops, beatField_setByte _ _ _ (by omega)]
    exact if_congr (by omega) rfl rfl
  refine ⟨?_, fun k below => ?_, fun k above hk => ?_, fun k hk some below => ?_, fun none => ?_⟩
  · rw [hops inner, left inner, if_neg (by omega), if_pos rfl]
  · have hk : k < 6 := by omega
    rw [hops hk, left hk, if_pos below]
  · rw [hops hk, left hk, if_neg (by omega), if_neg (by omega)]
  · rw [level]
    exact nextLevel_of_first hk (hops hk ▸ some) fun j hj => (hops (by omega)).symm.trans (below j hj)
  · rw [level]
    exact nextLevel_of_none fun k hk => (hops hk).symm.trans (none k hk)

end Sys2Proof.Machine
end

section
/-! SUPPORT. The slots of the skim unit (R204, R212): what a slot, an endpoint taken and a planned pass leave, and the firings of SKQ and SKIM. -/

namespace Sys2Proof.Machine

open Sys2Proof

/-! ### Changes of one tile -/

theorem LocalTo.of_kept {t c : Nat} {s u : State} (h : Kept t c s u) : LocalTo s u t := ⟨h.tiles, h.rest⟩

theorem LocalTo.setTile (s : State) (t : Nat) (tl : Tile) : LocalTo s (s.setTile t tl) t := ⟨fun _ other => tile_setTile_other s other tl, rfl⟩

theorem LocalTo.trans {s u v : State} {t : Nat} (h : LocalTo s u t) (h' : LocalTo u v t) : LocalTo s v t :=
  ⟨fun k other => (h'.1 k other).trans (h.1 k other),
    (congrArg (fun x : State => { x with tiles := s.tiles, accesses := s.accesses, nextAccess := s.nextAccess, writers := s.writers }) h'.2).trans h.2⟩

theorem LocalTo.mem {s u : State} {t : Nat} (h : LocalTo s u t) : u.mem = s.mem := by
  have := congrArg State.mem h.2
  exact this

/-- The context of a firing once it has ended. -/
theorem ctx_finished_eq {i : Instr} {s : State} {fr : Firing} (place : fr.t = s.cur.tile ∧ fr.c = s.cur.ctx) (u : State) :
    (u.finished i s fr).ctx fr.t fr.c =
      ({ u.ctx fr.t fr.c with flags := (u.ctx fr.t fr.c).flags ||| fr.decodeFlags } : Ctx).consume (advMask i (s.ctx fr.t fr.c) fr.f) := by
  rw [State.finished, ← place.1, ← place.2, afterFiring_ctx, raise_ctx]

/-! ### Slots -/

theorem query_eq_skim {tl tl' : Tile} (h : tl'.skim = tl.skim) (k : Nat) : tl'.query k = tl.query k := by
  rw [Tile.query, Tile.query, h]

theorem Kept.query {t c : Nat} {s u : State} (h : Kept t c s u) (k : Nat) : u.query t k = s.query t k := by
  have := congrArg Tile.skim h.tile
  exact query_eq_skim this k

theorem Kept.passes {t c : Nat} {s u : State} (h : Kept t c s u) : (u.tile t).passes = (s.tile t).passes := by
  have := congrArg Tile.passes h.tile
  exact this

theorem Kept.arrivals {t c : Nat} {s u : State} (h : Kept t c s u) : (u.tile t).arrivals = (s.tile t).arrivals := by
  have := congrArg Tile.arrivals h.tile
  exact this

theorem query_eq_getElem (tl : Tile) (k : Nat) : tl.query k = tl.skim[k % 2]'(Nat.mod_lt _ (by decide)) := by
  rw [Tile.query]
  obtain h | h := Nat.mod_two_eq_zero_or_one k <;> simp [h]

theorem query_setSlot_same (tl : Tile) (k : Nat) (q : SkimSlot) : (tl.setQuery k q).query k = q := by
  rw [query_eq_getElem]
  exact Vector.getElem_set_self _

theorem query_setSlot_other (tl : Tile) {k j : Nat} (h : j % 2 ≠ k % 2) (q : SkimSlot) : (tl.setQuery k q).query j = tl.query j := by
  rw [query_eq_getElem, query_eq_getElem]
  exact Vector.getElem_set_ne (Nat.mod_lt _ (by decide)) _ h.symm

@[simp] theorem tile_setQuery (s : State) (t k : Nat) (q : SkimSlot) : (s.setQuery t k q).tile t = (s.tile t).setQuery k q := tile_setTile_same ..

theorem tile_setQuery_other (s : State) {t j : Nat} (h : j ≠ t) (k : Nat) (q : SkimSlot) : (s.setQuery t k q).tile j = s.tile j := tile_setTile_other s h _

@[simp] theorem query_setQuery_same (s : State) (t k : Nat) (q : SkimSlot) : (s.setQuery t k q).query t k = q := by
  rw [State.query, tile_setQuery, query_setSlot_same]

@[simp] theorem ctx_setQuery (s : State) (t k c : Nat) (q : SkimSlot) : (s.setQuery t k q).ctx t c = s.ctx t c := by
  rw [State.ctx, tile_setQuery]; rfl

theorem LocalTo.setQuery (s : State) (t k : Nat) (q : SkimSlot) : LocalTo s (s.setQuery t k q) t := .setTile ..

/-! ### Endpoints taken (R212) -/

theorem setTaken_keeps (s : State) (t c n : Nat) (b : Bool) : Kept t c s (s.setTaken t c n b) := Kept.setCtx ..

theorem ctx_setTaken (s : State) (t c n : Nat) (b : Bool) : ∃ taken, (s.setTaken t c n b).ctx t c = { s.ctx t c with taken := taken } ∧
    ∀ j, j < 8 → taken.getLsbD j = if j = n then b else (s.ctx t c).taken.getLsbD j := by
  refine ⟨_, ctx_setCtx_same .., fun j hj => ?_⟩
  have bit : (BitVec.ofNat 8 (2 ^ n)).getLsbD j = decide (n = j) := by
    rw [BitVec.getLsbD_ofNat, Nat.testBit_two_pow]
    simp [hj]
  cases b
  · rw [if_neg Bool.false_ne_true, BitVec.getLsbD_and, BitVec.getLsbD_not, bit]
    by_cases same : j = n
    · simp [same]
    · simp [same, Ne.symm same, hj]
  · rw [if_pos rfl, BitVec.getLsbD_or, bit]
    by_cases same : j = n
    · simp [same]
    · simp [same, Ne.symm same]

/-! ### SKQ (R212) -/

/-- SKQ, SKIM and SKMG read a token at an input endpoint. -/
theorem token_source {i : Instr} {sub : Nat} {f : Slot} (code : toCode i = some (0x31, sub, f)) (reads : ∀ row, opRow 0x31 sub = some row → row.a = .token)
    (wf : i.wf = true) : ∃ n, f.sa = .i n := by
  obtain ⟨row, _, hrow, ok, -⟩ := (wf_of_toCode code).mp wf
  obtain ⟨-, -, operands, -⟩ := slotStatus_eq_ok.mp ok
  cases sa : f.sa
  case i n => exact ⟨n, rfl⟩
  all_goals simp [operandsOk, sa, Pos.takes, reads row hrow] at operands

/-- The state in which a slot has a token to drain, and its endpoint is taken. -/
def State.tokenTaken (s : State) (t c k : Nat) (q : SkimSlot) : State :=
  (s.setTile t { (s.tile t).setQuery k q with arrivals := (s.tile t).arrivals + 1 }).setTaken t c q.drainEp true

/-- The slot that SKQ takes for a token. -/
def Firing.takenSlot (fr : Firing) (arrivals : Nat) : SkimSlot :=
  { SkimSlot.clean with
    occupied := true, hdr := fr.a.val, fresh := fr.f.imm.toNat.testBit 1, arrival := arrivals, drainCtx := fr.c, drainEp := epOf fr.f.sa,
    work := if fr.f.imm.toNat.testBit 1 then Attn.fresh (hdrRows fr.a.val) (hdrDim fr.a.val) else .empty,
    due := queryBeats (hdrRows fr.a.val) (hdrDim fr.a.val) }

theorem exec_skq_takes {f : Slot} {s : State} {fr : Firing} (firing : s.firingOf (.skq f) = some fr) (ok : headerOk fr.a.val = true) :
    exec (.skq f) s = .next ((s.tokenTaken fr.t fr.c (fr.f.imm.toNat % 2) (fr.takenSlot (s.tile fr.t).arrivals)).finished (.skq f) s fr) := by
  show execSkq f s = _
  rw [execSkq, fire_of _ firing]
  simp only [ok, Bool.not_true, Bool.false_eq_true, if_false, bits_eq_mod, bitAt_eq_testBit]
  rfl

theorem exec_skq_refused {f : Slot} {s : State} {fr : Firing} (firing : s.firingOf (.skq f) = some fr) (bad : headerOk fr.a.val = false) :
    exec (.skq f) s = .next (s.haltCtx s.cur.tile s.cur.ctx s.cur.slot
      { skimFault 1 (fr.f.imm.toNat % 2) with operands := some (fr.a.val, fr.b.val) }) := by
  show execSkq f s = _
  rw [execSkq, fire_of _ firing]
  simp only [bad, Bool.not_false, if_true, bits_eq_mod]
  rfl

theorem skq_takes {f : Slot} {s : State} {fr : Firing} (wf : (Instr.skq f).wf = true) (firing : s.firingOf (.skq f) = some fr) (ok : headerOk fr.a.val = true) :
    ∃ t, exec (.skq f) s = .next t ∧ LocalTo s t fr.t ∧
      let k := f.imm.toNat % 2
      t.query fr.t k = { SkimSlot.clean with
        occupied := true, hdr := fr.a.val, fresh := f.imm.toNat.testBit 1, arrival := (s.tile fr.t).arrivals, drainCtx := fr.c, drainEp := epOf f.sa,
        work := if f.imm.toNat.testBit 1 then Attn.fresh (hdrRows fr.a.val) (hdrDim fr.a.val) else .empty,
        due := queryBeats (hdrRows fr.a.val) (hdrDim fr.a.val) } ∧
      t.query fr.t (1 - k) = s.query fr.t (1 - k) ∧ (t.tile fr.t).arrivals = (s.tile fr.t).arrivals + 1 ∧
      (∀ n : Fin 8, (t.ctx fr.t fr.c).taken.getLsbD n.val = ((s.ctx fr.t fr.c).taken.getLsbD n.val || decide (f.sa = .i n))) ∧
      (∀ n, at8 (t.ctx fr.t fr.c).d n = at8 (s.ctx fr.t fr.c).d n) := by
  obtain ⟨ht, hc, -⟩ := firingOf_place firing
  obtain rfl : fr.f = f := (firingOf_slot (i := .skq f) rfl firing).1
  obtain ⟨m, source⟩ := token_source (i := .skq fr.f) rfl (by rintro _ ⟨⟩; rfl) wf
  generalize slot : fr.takenSlot (s.tile fr.t).arrivals = q
  have ep : q.drainEp = m.val := by rw [← slot]; exact congrArg epOf source
  let s1 := s.setTile fr.t { (s.tile fr.t).setQuery (fr.f.imm.toNat % 2) q with arrivals := (s.tile fr.t).arrivals + 1 }
  have kept : Kept fr.t fr.c s1 ((s.tokenTaken fr.t fr.c (fr.f.imm.toNat % 2) q).finished (.skq fr.f) s fr) :=
    (setTaken_keeps s1 fr.t fr.c q.drainEp true).trans (finished_keeps ⟨ht, hc⟩ _)
  have tile : s1.tile fr.t = _ := tile_setTile_same ..
  obtain ⟨taken, ctx, bits⟩ := ctx_setTaken s1 fr.t fr.c q.drainEp true
  have same : s1.ctx fr.t fr.c = s.ctx fr.t fr.c := by rw [State.ctx, tile]; rfl
  have after := ctx_finished_eq (i := .skq fr.f) ⟨ht, hc⟩ (s1.setTaken fr.t fr.c q.drainEp true)
  rw [ctx, same] at after
  refine ⟨_, slot ▸ exec_skq_takes firing ok, (LocalTo.setTile ..).trans (.of_kept kept), ?_, ?_, ?_, fun n => ?_, fun n => ?_⟩
  · rw [kept.query, State.query, tile]
    exact (query_setSlot_same ..).trans slot.symm
  · rw [kept.query, State.query, tile]
    exact query_setSlot_other _ (by omega) q
  · rw [kept.arrivals, tile]
  · refine (congrArg (fun cx : Ctx => cx.taken.getLsbD n.val) after).trans ((bits n n.isLt).trans ?_)
    rw [ep, same, source]
    by_cases own : n = m
    · simp [own]
    · simp [Fin.val_ne_of_ne own, Ne.symm own]
  · refine (congrArg (fun cx : Ctx => at8 cx.d n) after).trans ?_
    rfl

theorem skq_halts : Halts .skq true (fun _ fr => headerOk fr.a.val = false) (fun _ fr => skimFault 1 (fr.f.imm.toNat % 2)) :=
  fun _ _ _ _ firing bad => exec_skq_refused firing bad

/-! ### A planned pass (R208, R209, R213) -/

/-- What planning a pass leaves: translations, and whether the witness lay outside the reader's groups. -/
structure PlansPass (t c : Nat) (s u : State) : Prop where
  mem : u.mem = s.mem
  accesses : u.accesses = s.accesses
  records : u.records = s.records
  tile : { u.tile t with ctxs := (s.tile t).ctxs } = s.tile t
  ctx : ∃ wscope, u.ctx t c = { s.ctx t c with wscope := wscope }

theorem PlansPass.of_warmed {s u : State} (h : Warmed s u) (t c : Nat) : PlansPass t c s u := by
  obtain ⟨tlb, hits, misses, rfl⟩ := h.rest
  exact ⟨rfl, rfl, rfl, rfl, (s.ctx t c).wscope, rfl⟩

theorem PlansPass.noteScope {s u : State} {t c : Nat} (h : PlansPass t c s u) (w : W64) : PlansPass t c s (u.noteScope t c w) := by
  unfold State.noteScope
  split
  · obtain ⟨mem, accesses, records, tile, wscope, ctx⟩ := h
    refine ⟨mem, accesses, records, ?_, true, ?_⟩
    · rw [← tile, State.setCtx, tile_setTile_same]; rfl
    · rw [ctx_setCtx_same, ctx]
  · exact h

theorem PlansPass.query {s u : State} {t c : Nat} (h : PlansPass t c s u) (k : Nat) : u.query t k = s.query t k := by
  have := congrArg Tile.skim h.tile
  exact query_eq_skim this k

theorem PlansPass.passes {s u : State} {t c : Nat} (h : PlansPass t c s u) : (u.tile t).passes = (s.tile t).passes := by
  have := congrArg Tile.passes h.tile
  exact this

section
variable {s u : State} {t c slotNo : Nat} {h a b : V512} {e : Mask}

theorem planPass_ok {acc : Access} (plan : planPass s t c slotNo h a b e = (.ok acc, u)) :
    acc.origin = .skim ∧ acc.given = hdrWitness h ∧ acc.number = 0 ∧ PlansPass t c s u := by
  unfold planPass at plan
  simp only at plan
  split at plan
  · cases plan
  · cases plan
    exact ⟨rfl, rfl, rfl, (PlansPass.of_warmed (planLanes_warmed ..) t c).noteScope _⟩

theorem planPass_error {fi : FaultInfo} (plan : planPass s t c slotNo h a b e = (.error fi, u)) : PlansPass t c s u := by
  unfold planPass at plan
  simp only at plan
  split at plan
  · cases plan
    exact PlansPass.of_warmed (planLanes_warmed ..) t c
  · cases plan

end

/-! ### SKIM (R213) -/

/-- The state in which a pass is queued with its access. -/
def State.passQueued (s : State) (fr : Firing) (k : Nat) (a : Access) : State :=
  let s2 := s.issue a
  (s2.setTile fr.t { s2.tile fr.t with passes := (s2.tile fr.t).passes ++
    [{ slot := k, a := fr.a.val, b := fr.b.val, ctx := fr.c, slotNo := fr.slot, e := fr.e, access := some a.id }] }).unpark fr.t k

section
variable {f : Slot} {s : State} {fr : Firing} (firing : s.firingOf (.skim f) = some fr)
include firing

theorem exec_skim_poisoned (poison : (s.query fr.t (fr.f.imm.toNat % 2)).poison = true) : exec (.skim f) s =
    .next (s.haltCtx s.cur.tile s.cur.ctx s.cur.slot { skimPoison (fr.f.imm.toNat % 2) with operands := some (fr.a.val, fr.b.val) }) := by
  show execSkim f s = _
  rw [execSkim, fire_of _ firing]
  simp only [bits_eq_mod, pow_one, poison, if_true]
  rfl

variable (sound : (s.query fr.t (fr.f.imm.toNat % 2)).poison = false)
include sound

theorem exec_skim_misformed (bad : passMisformed (hdrDim (s.query fr.t (fr.f.imm.toNat % 2)).hdr) fr.a.val fr.b.val = true) : exec (.skim f) s =
    .next (s.haltCtx s.cur.tile s.cur.ctx s.cur.slot { skimFault 1 (fr.f.imm.toNat % 2) with operands := some (fr.a.val, fr.b.val) }) := by
  show execSkim f s = _
  rw [execSkim, fire_of _ firing]
  simp only [bits_eq_mod, pow_one, sound, bad, if_true, Bool.false_eq_true, if_false]
  rfl

variable (formed : passMisformed (hdrDim (s.query fr.t (fr.f.imm.toNat % 2)).hdr) fr.a.val fr.b.val = false)
include formed

theorem exec_skim_faults {fi : FaultInfo} {u : State}
    (plan : planPass s fr.t fr.c fr.slot (s.query fr.t (fr.f.imm.toNat % 2)).hdr fr.a.val fr.b.val fr.e = (.error fi, u)) : exec (.skim f) s =
    .next (s.haltCtx s.cur.tile s.cur.ctx s.cur.slot { fi with operands := some (fr.a.val, fr.b.val) }) := by
  show execSkim f s = _
  rw [execSkim, fire_of _ firing]
  simp only [bits_eq_mod, pow_one, sound, formed, plan, Bool.false_eq_true, if_false]
  rfl

theorem exec_skim_queues {a : Access} {u : State}
    (plan : planPass s fr.t fr.c fr.slot (s.query fr.t (fr.f.imm.toNat % 2)).hdr fr.a.val fr.b.val fr.e = (.ok a, u)) : exec (.skim f) s =
    .next ((u.passQueued fr (fr.f.imm.toNat % 2) a).finished (.skim f) s fr) := by
  show execSkim f s = _
  rw [execSkim, fire_of _ firing]
  simp only [bits_eq_mod, pow_one, sound, formed, plan, Bool.false_eq_true, if_false]
  rfl

end

/-- An access without a store number put in flight. -/
theorem issue_load (s : State) {a : Access} (load : a.number = 0) : s.issue a = { s with accesses := s.accesses ++ [a], nextAccess := s.nextAccess + 1 } := by
  rw [State.issue, if_pos load, if_pos load]

theorem tile_passQueued (s : State) (fr : Firing) (k : Nat) {a : Access} (load : a.number = 0) : (s.passQueued fr k a).tile fr.t =
    Tile.setQuery { s.tile fr.t with passes := (s.tile fr.t).passes ++
      [{ slot := k, a := fr.a.val, b := fr.b.val, ctx := fr.c, slotNo := fr.slot, e := fr.e, access := some a.id }] } k
      { s.query fr.t k with parked := false } := by
  rw [State.passQueued, issue_load s load, State.unpark, tile_setQuery, State.query, tile_setTile_same]
  rfl

theorem skim_queues {f : Slot} {s : State} {fr : Firing} {a : Access} {s1 : State} (firing : s.firingOf (.skim f) = some fr) : let k := f.imm.toNat % 2
    let q := s.query fr.t k
    q.poison = false → passMisformed (hdrDim q.hdr) fr.a.val fr.b.val = false →
    planPass s fr.t fr.c fr.slot q.hdr fr.a.val fr.b.val fr.e = (.ok a, s1) →
    ∃ t, exec (.skim f) s = .next t ∧ t.mem = s.mem ∧ t.accesses = s.accesses ++ [a] ∧ a.origin = .skim ∧ a.given = hdrWitness q.hdr ∧ a.number = 0 ∧
      (t.tile fr.t).passes = (s.tile fr.t).passes ++
        [{ slot := k, a := fr.a.val, b := fr.b.val, ctx := fr.c, slotNo := fr.slot, e := fr.e, access := some a.id }] ∧
      t.query fr.t k = { q with parked := false } ∧ (∀ n, at8 (t.ctx fr.t fr.c).d n = at8 (s.ctx fr.t fr.c).d n) := by
  intro k q sound formed plan
  obtain ⟨ht, hc, -⟩ := firingOf_place firing
  obtain rfl : fr.f = f := (firingOf_slot (i := .skim f) rfl firing).1
  obtain ⟨origin, given, load, planned⟩ := planPass_ok plan
  have kept := finished_keeps (i := .skim fr.f) ⟨ht, hc⟩ (s1.passQueued fr k a)
  have ctx := ctx_finished_eq (i := .skim fr.f) ⟨ht, hc⟩ (s1.passQueued fr k a)
  have tile := tile_passQueued s1 fr k load
  have query : (s1.passQueued fr k a).query fr.t k = { q with parked := false } := by
    rw [State.query, tile, query_setSlot_same, planned.query]
  obtain ⟨wscope, own⟩ := planned.ctx
  have same : (s1.passQueued fr k a).ctx fr.t fr.c = s1.ctx fr.t fr.c := by rw [State.ctx, tile]; rfl
  refine ⟨_, exec_skim_queues firing sound formed plan, ?_, ?_, origin, given, load, ?_, (kept.query k).trans query, fun n => ?_⟩
  · exact ((State.issue_mem ..).trans planned.mem)
  · show (s1.issue a).accesses = _
    rw [issue_load s1 load, ← planned.accesses]
  · rw [kept.passes, tile, ← planned.passes]; rfl
  · rw [same, own] at ctx
    refine (congrArg (fun cx : Ctx => at8 cx.d n) ctx).trans ?_
    rfl

theorem skim_halts :
    Halts .skim true (fun s fr => (s.query fr.t (fr.f.imm.toNat % 2)).poison = true) (fun _ fr => skimPoison (fr.f.imm.toNat % 2)) ∧
    Halts .skim true
      (fun s fr => let q := s.query fr.t (fr.f.imm.toNat % 2)
        q.poison = false ∧ passMisformed (hdrDim q.hdr) fr.a.val fr.b.val = true)
      (fun _ fr => skimFault 1 (fr.f.imm.toNat % 2)) ∧
    ∀ fi, Halts .skim true
      (fun s fr => let q := s.query fr.t (fr.f.imm.toNat % 2)
        q.poison = false ∧ passMisformed (hdrDim q.hdr) fr.a.val fr.b.val = false ∧
          (planPass s fr.t fr.c fr.slot q.hdr fr.a.val fr.b.val fr.e).1 = .error fi)
      (fun _ _ => fi) :=
  ⟨fun _ _ _ _ firing poison => exec_skim_poisoned firing poison, fun _ _ _ _ firing ⟨sound, bad⟩ => exec_skim_misformed firing sound bad,
    fun _ _ _ _ _ firing ⟨sound, formed, plan⟩ => exec_skim_faults firing sound formed (Prod.ext plan rfl)⟩

end Sys2Proof.Machine
end

section
/-! SUPPORT. SKFW, SKFN and SKMG at their firing (R214-R217). -/

namespace Sys2Proof.Machine

open Sys2Proof

/-! ### SKFW and SKFN (R214, R215) -/

section
variable {f : Slot} {s : State} {fr : Firing} (firing : s.firingOf (.skfw f) = some fr) {k : Nat} (slot : forwardSlot (s.tile fr.t) = some k)
include firing slot

theorem exec_skfw_sends (sound : (s.query fr.t k).poison = false) :
    exec (.skfw f) s = .next ((s.startEmit fr.t k fr.c (epOf fr.f.dst) (s.query fr.t k).forward true).finished (.skfw f) s fr) := by
  show execSkfw f s = _
  rw [execSkfw, fire_of _ firing]
  simp only [slot, sound, Bool.false_eq_true, if_false]

theorem exec_skfw_poisoned (poison : (s.query fr.t k).poison = true) :
    exec (.skfw f) s = .next (s.haltCtx s.cur.tile s.cur.ctx s.cur.slot (skimPoison k)) := by
  show execSkfw f s = _
  rw [execSkfw, fire_of _ firing]
  simp only [slot, poison, if_true]
  rfl

end

section
variable {f : Slot} {s : State} {fr : Firing} (firing : s.firingOf (.skfn f) = some fr)
include firing

theorem exec_skfn_poisoned (poison : (s.query fr.t (fr.f.imm.toNat % 2)).poison = true) :
    exec (.skfn f) s = .next (s.haltCtx s.cur.tile s.cur.ctx s.cur.slot (skimPoison (fr.f.imm.toNat % 2))) := by
  show execSkfn f s = _
  rw [execSkfn, fire_of _ firing]
  simp only [bits_eq_mod, pow_one, poison, if_true]
  rfl

variable (sound : (s.query fr.t (fr.f.imm.toNat % 2)).poison = false)
include sound

theorem exec_skfn_partial (part : fr.f.imm.toNat.testBit 3 = true) :
    exec (.skfn f) s = .next ((s.startEmit fr.t (fr.f.imm.toNat % 2) fr.c (epOf fr.f.dst)
      ((s.query fr.t (fr.f.imm.toNat % 2)).partialToken (fr.f.imm.toNat / 2 ^ 16 % 2 ^ 16)) false).finished (.skfn f) s fr) := by
  show execSkfn f s = _
  rw [execSkfn, fire_of _ firing]
  simp only [bits_eq_mod, bitAt_eq_testBit, pow_one, sound, part, if_true, Bool.false_eq_true, if_false]
  rfl

theorem exec_skfn_result (whole : fr.f.imm.toNat.testBit 3 = false) : let res := (s.query fr.t (fr.f.imm.toNat % 2)).result (skfnFmt fr.f.imm.toNat)
    exec (.skfn f) s = .next (((s.startEmit fr.t (fr.f.imm.toNat % 2) fr.c (epOf fr.f.dst) res.1 true).raise fr.t fr.c res.2).finished (.skfn f) s fr) := by
  show execSkfn f s = _
  rw [execSkfn, fire_of _ firing]
  simp only [bits_eq_mod, bitAt_eq_testBit, pow_one, sound, whole, Bool.false_eq_true, if_false]

end

theorem skfn_completes : Completes .skfn (fun s fr => (s.query fr.t (fr.f.imm.toNat % 2)).poison = false)
    (fun s fr =>
      let k := fr.f.imm.toNat % 2
      let q := s.query fr.t k
      let n := epOf fr.f.dst
      let send (beats : List V512) (free : Bool) : State :=
        s.setQuery fr.t k { q with emit := some { beats := beats, tag := at8 (s.ctx fr.t fr.c).tags n, ctx := fr.c, ep := n, free := free } }
      let res := q.result (skfnFmt fr.f.imm.toNat)
      if fr.f.imm.toNat.testBit 3 then send (q.partialToken (fr.f.imm.toNat / 2 ^ 16 % 2 ^ 16)) false
      else (send res.1 true).raise fr.t fr.c res.2) := by
  intro f s fr _ firing sound
  cases part : fr.f.imm.toNat.testBit 3 with
  | true =>
    simp only [part, if_true]
    exact exec_skfn_partial firing sound part
  | false =>
    simp only [part, Bool.false_eq_true, if_false]
    exact exec_skfn_result firing sound part

/-! ### SKMG (R216) -/

/-- The state in which a slot drains a partial token, and its endpoint is taken. -/
def State.mergeBegun (s : State) (fr : Firing) (k : Nat) : State :=
  let q := s.query fr.t k
  let m : MergeRun :=
    { ctx := fr.c, ep := epOf fr.f.sa, slotNo := fr.slot, beats := [], due := partialBeats (hdrRows q.hdr) (hdrDim q.hdr), poison := false }
  (s.setQuery fr.t k { q with merge := some m }).setTaken fr.t fr.c (epOf fr.f.sa) true

section
variable {f : Slot} {s : State} {fr : Firing} {b : Beat} (firing : s.firingOf (.skmg f) = some fr)
  (sound : (s.query fr.t (lane 32 fr.b.val 0 % 2)).poison = false) (second : ((s.ctx fr.t fr.c).beats (epOf fr.f.sa))[1]? = some b) (clean : b.poison = false)
include firing sound second clean

theorem exec_skmg_outOfTurn (turn : beatField b.payload 0 4 ≠ (s.query fr.t (lane 32 fr.b.val 0 % 2)).nextShard.toNat) :
    exec (.skmg f) s = .next (s.haltCtx s.cur.tile s.cur.ctx s.cur.slot
      { skimFault 3 (lane 32 fr.b.val 0 % 2) with operands := some (fr.a.val, fr.b.val) }) := by
  show execSkmg f s = _
  rw [execSkmg, fire_of _ firing]
  simp only [second, clean, sound, turn, Bool.false_eq_true, if_false, ne_eq, not_false_eq_true, if_true]
  rfl

variable (turn : beatField b.payload 0 4 = (s.query fr.t (lane 32 fr.b.val 0 % 2)).nextShard.toNat)
include turn

theorem exec_skmg_misfit (misfit : ¬ (beatField b.payload 4 1 = hdrRows (s.query fr.t (lane 32 fr.b.val 0 % 2)).hdr ∧
      beatField b.payload 5 2 = hdrDim (s.query fr.t (lane 32 fr.b.val 0 % 2)).hdr)) :
    exec (.skmg f) s = .next (s.haltCtx s.cur.tile s.cur.ctx s.cur.slot
      { skimFault 1 (lane 32 fr.b.val 0 % 2) with operands := some (fr.a.val, fr.b.val) }) := by
  show execSkmg f s = _
  rw [execSkmg, fire_of _ firing]
  simp only [second, clean, sound, turn, Bool.false_eq_true, if_false, ne_eq, not_true_eq_false, if_pos (not_and_or.mp misfit)]
  rfl

theorem exec_skmg_begins (rows : beatField b.payload 4 1 = hdrRows (s.query fr.t (lane 32 fr.b.val 0 % 2)).hdr)
    (dim : beatField b.payload 5 2 = hdrDim (s.query fr.t (lane 32 fr.b.val 0 % 2)).hdr) : let next := (s.query fr.t (lane 32 fr.b.val 0 % 2)).nextShard + 1
    exec (.skmg f) s = .next ((applyLanes (s.mergeBegun fr (lane 32 fr.b.val 0 % 2)) fr
      ⟨List.replicate 16 next.toNat, List.replicate 16 (next != 0), []⟩).finished (.skmg f) s fr) := by
  intro next
  have value : ((s.query fr.t (lane 32 fr.b.val 0 % 2)).nextShard.toNat + 1) % 2 ^ 32 = next.toNat := by
    rw [BitVec.toNat_add]; rfl
  have nonzero : (next.toNat != 0) = (next != 0) := by
    rw [Bool.eq_iff_iff, bne_iff_ne, bne_iff_ne, ne_eq, ne_eq, BitVec.toNat_eq]
    rfl
  show execSkmg f s = _
  rw [execSkmg, fire_of _ firing]
  simp only [second, clean, sound, turn, rows, dim, Bool.false_eq_true, if_false, ne_eq, not_true_eq_false, or_self, value, nonzero, LaneResult.of,
    List.map_replicate, State.mergeBegun]

end

theorem skmg_width {f : Slot} {s : State} {fr : Firing} (wf : (Instr.skmg f).wf = true) (firing : s.firingOf (.skmg f) = some fr) : fr.w = 32 :=
  firing_untyped_width (mk := .skmg) (fun _ => rfl) (by decide) (by rintro _ ⟨⟩; rfl) wf firing

theorem skmg_laneSpecOn :
    let k (fr : Firing) : Nat := lane 32 fr.b.val 0 % 2
    let second (s : State) (fr : Firing) : Option Beat := ((s.ctx fr.t fr.c).beats (epOf fr.f.sa))[1]?
    let fits (q : SkimSlot) (b : Beat) : Prop := beatField b.payload 4 1 = hdrRows q.hdr ∧ beatField b.payload 5 2 = hdrDim q.hdr
    LaneSpecOn .skmg
      (fun s fr => let q := s.query fr.t (k fr)
        q.poison = false ∧ ∃ b, second s fr = some b ∧ b.poison = false ∧ beatField b.payload 0 4 = q.nextShard.toNat ∧ fits q b)
      (fun s fr => s.mergeBegun fr (k fr))
      id
      (fun s fr _ => ((s.query fr.t (k fr)).nextShard + 1).toNat) (fun s fr _ => (s.query fr.t (k fr)).nextShard + 1 != 0) (fun _ _ _ => 0) := by
  intro k second fits f s fr wf firing ⟨sound, b, second, clean, turn, rows, dim⟩
  obtain ⟨ht, hc, -⟩ := firingOf_place firing
  have width := skmg_width wf firing
  have lanes : fr.n = 16 := by rw [Firing.n, width]
  exact ⟨_, exec_skmg_begins firing sound second clean turn rows dim, uniform_effect (s := s.mergeBegun fr (k fr)) ⟨ht, hc⟩ (.inl width) lanes.le _ _⟩

end Sys2Proof.Machine
end

section
/-! SUPPORT. The skim unit between firings: tokens drained beat by beat, and partial tokens merged (R212, R216). -/

namespace Sys2Proof.Machine

open Sys2Proof

/-! ### Beats drained (R212, R216) -/

theorem takeBeat_cons {s : State} {t c n : Nat} {b : Beat} {rest : List Beat} (head : at8 (s.ctx t c).ins n = b :: rest) :
    takeBeat s t c n = some (b, s.setCtx t c { s.ctx t c with ins := set8 (s.ctx t c).ins n rest }) := by
  simp only [takeBeat, head]

theorem takeBeat_nil {s : State} {t c n : Nat} (empty : at8 (s.ctx t c).ins n = []) : takeBeat s t c n = none := by
  simp only [takeBeat, empty]

/-- The state in which a slot's endpoint has lost its head beat, the slot is another, and the endpoint, with the last beat, is given back. -/
def State.beatDrained (s : State) (t k c n : Nat) (rest : List Beat) (q : SkimSlot) (last : Bool) : State :=
  let s1 := s.setCtx t c { s.ctx t c with ins := set8 (s.ctx t c).ins n rest }
  let s2 := s1.setQuery t k q
  if last then s2.setTaken t c n false else s2

theorem beatDrained_leaves (s : State) (t k c n : Nat) (rest : List Beat) (q : SkimSlot) (last : Bool) : let u := s.beatDrained t k c n rest q last
    LocalTo s u t ∧ u.query t k = q ∧ at8 (u.ctx t c).ins n = rest ∧ (last = false → (u.ctx t c).taken = (s.ctx t c).taken) ∧
      (last = true → n < 8 → (u.ctx t c).taken.getLsbD n = false) := by
  let s1 := s.setCtx t c { s.ctx t c with ins := set8 (s.ctx t c).ins n rest }
  let s2 := s1.setQuery t k q
  have kept : LocalTo s s2 t := (LocalTo.of_kept (Kept.setCtx ..)).trans (.setQuery ..)
  have ctx : s2.ctx t c = { s.ctx t c with ins := set8 (s.ctx t c).ins n rest } := by rw [ctx_setQuery, ctx_setCtx_same]
  cases last with
  | false =>
    refine ⟨kept, query_setQuery_same .., ?_, fun _ => ?_, nofun⟩
    · show at8 (s2.ctx t c).ins n = rest
      rw [ctx, at8_set8_same]
    · show (s2.ctx t c).taken = _
      rw [ctx]
  | true =>
    obtain ⟨taken, own, bits⟩ := ctx_setTaken s2 t c n false
    have back := setTaken_keeps s2 t c n false
    refine ⟨kept.trans (.of_kept back), (back.query k).trans (query_setQuery_same ..), ?_, nofun, fun _ low => ?_⟩
    · show at8 ((s2.setTaken t c n false).ctx t c).ins n = rest
      rw [own, ctx, at8_set8_same]
    · show ((s2.setTaken t c n false).ctx t c).taken.getLsbD n = false
      rw [own]
      exact (bits n low).trans (if_pos rfl)

section
variable {s : State} {t k : Nat}

theorem exec_skimBeatDrain_token (merge : (s.query t k).merge = none) (due : (s.query t k).due ≠ 0) {b : Beat} {rest : List Beat}
    (head : at8 (s.ctx t (s.query t k).drainCtx).ins (s.query t k).drainEp = b :: rest) : let q := s.query t k
    let q1 := { q with drained := q.drained ++ [b.payload], due := q.due - 1, poison := q.poison || b.poison }
    exec (.skimBeatDrain t k) s = .next (s.beatDrained t k q.drainCtx q.drainEp rest (if q.due = 1 then q1.arrived else q1) (q.due = 1)) := by
  show execSkimBeatDrain t k s = _
  rw [execSkimBeatDrain]
  simp only [merge, due, if_false, takeBeat_cons head, State.beatDrained, decide_eq_true_eq]

theorem exec_skimBeatDrain_waits (merge : (s.query t k).merge = none)
    (idle : (s.query t k).due = 0 ∨ at8 (s.ctx t (s.query t k).drainCtx).ins (s.query t k).drainEp = []) : exec (.skimBeatDrain t k) s = .next s := by
  show execSkimBeatDrain t k s = _
  rw [execSkimBeatDrain]
  by_cases due : (s.query t k).due = 0
  · simp only [merge, due, if_true]
  · simp only [merge, due, if_false, takeBeat_nil (idle.resolve_left due)]

theorem exec_skimBeatDrain_partial {m : MergeRun} (merge : (s.query t k).merge = some m) (due : m.due ≠ 0) {b : Beat} {rest : List Beat}
    (head : at8 (s.ctx t m.ctx).ins m.ep = b :: rest) :
    exec (.skimBeatDrain t k) s = .next (s.beatDrained t k m.ctx m.ep rest
      { s.query t k with merge := some { m with beats := m.beats ++ [b.payload], due := m.due - 1, poison := m.poison || b.poison } } (m.due = 1)) := by
  have query := (Kept.setCtx t m.ctx s { s.ctx t m.ctx with ins := set8 (s.ctx t m.ctx).ins m.ep rest }).query k
  show execSkimBeatDrain t k s = _
  rw [execSkimBeatDrain]
  simp only [merge, due, if_false, takeBeat_cons head, State.beatDrained, decide_eq_true_eq, query]

end

theorem skimBeatDrain_token (s : State) (t k : Nat) (b : Beat) (rest : List Beat) : (s.query t k).merge = none → (s.query t k).due ≠ 0 →
    at8 (s.ctx t (s.query t k).drainCtx).ins (s.query t k).drainEp = b :: rest →
    let q := s.query t k
    let token := q.drained ++ [b.payload]
    ∃ u, exec (.skimBeatDrain t k) s = .next u ∧ LocalTo s u t ∧ at8 (u.ctx t q.drainCtx).ins q.drainEp = rest ∧ (u.query t k).due = q.due - 1 ∧
      (1 < q.due → u.query t k = { q with drained := token, due := q.due - 1, poison := q.poison || b.poison } ∧
        (u.ctx t q.drainCtx).taken = (s.ctx t q.drainCtx).taken) ∧
      (q.due = 1 → u.query t k =
          { q with drained := [], due := 0, poison := q.poison || b.poison || !checkHolds token, q := (drainedState q.hdr token).1,
                   carried := (drainedState q.hdr token).2, work := if q.fresh then q.work else (drainedState q.hdr token).2 } ∧
        (q.drainEp < 8 → (u.ctx t q.drainCtx).taken.getLsbD q.drainEp = false)) := by
  intro merge due head q token
  obtain ⟨loc, query, ins, keeps, gives⟩ := beatDrained_leaves s t k q.drainCtx q.drainEp rest
    (if q.due = 1 then SkimSlot.arrived { q with drained := token, due := q.due - 1, poison := q.poison || b.poison }
      else { q with drained := token, due := q.due - 1, poison := q.poison || b.poison }) (q.due = 1)
  refine ⟨_, exec_skimBeatDrain_token merge due head, loc, ins, ?_, fun more => ⟨?_, keeps (by simpa using more.ne')⟩, fun last => ⟨?_, fun low => gives (by simpa using last) low⟩⟩
  · refine (congrArg SkimSlot.due query).trans ?_
    split <;> rfl
  · exact query.trans (if_neg more.ne')
  · refine query.trans ((if_pos last).trans ?_)
    simp only [SkimSlot.arrived, last]

theorem skimBeatDrain_partial (s : State) (t k : Nat) (m : MergeRun) (b : Beat) (rest : List Beat) (merge : (s.query t k).merge = some m) (due : m.due ≠ 0)
    (head : at8 (s.ctx t m.ctx).ins m.ep = b :: rest) :
    ∃ u, exec (.skimBeatDrain t k) s = .next u ∧ LocalTo s u t ∧ at8 (u.ctx t m.ctx).ins m.ep = rest ∧
      (u.query t k).merge = some { m with beats := m.beats ++ [b.payload], due := m.due - 1, poison := m.poison || b.poison } ∧
      (m.due = 1 → m.ep < 8 → (u.ctx t m.ctx).taken.getLsbD m.ep = false) := by
  obtain ⟨loc, query, ins, -, gives⟩ := beatDrained_leaves s t k m.ctx m.ep rest
    { s.query t k with merge := some { m with beats := m.beats ++ [b.payload], due := m.due - 1, poison := m.poison || b.poison } } (m.due = 1)
  exact ⟨_, exec_skimBeatDrain_partial merge due head, loc, ins, congrArg SkimSlot.merge query, fun last low => gives (by simpa using last) low⟩

/-! ### Merges (R216) -/

section
variable {s : State} {t k : Nat} {m : MergeRun} (merge : (s.query t k).merge = some m) (due : m.due = 0)
include merge due

theorem exec_skimMerge_damaged (bad : (m.poison || !checkHolds m.beats) = true) :
    exec (.skimMerge t k) s = .next (s.setQuery t k { s.query t k with merge := none, poison := true }) := by
  show execSkimMerge t k s = _
  rw [execSkimMerge]
  simp only [merge, due, ne_eq, not_true_eq_false, if_false, bad, if_true]

theorem exec_skimMerge_merges (clean : m.poison = false) (whole : checkHolds m.beats = true) : let q := s.query t k
    let rs := (List.range (hdrRows q.hdr)).map fun i => mergeRow (q.work.row (hdrDim q.hdr) i) ((Attn.ofBeats (hdrRows q.hdr) (hdrDim q.hdr) (m.beats.drop 2)).row (hdrDim q.hdr) i)
    exec (.skimMerge t k) s = .next ((s.setQuery t k { q.setWork (Attn.ofRows (rs.map (·.1))) with merge := none, nextShard := q.nextShard + 1 }).raise t m.ctx
      (rs.foldl (fun acc x => acc ||| x.2) 0)) := by
  show execSkimMerge t k s = _
  rw [execSkimMerge]
  simp only [merge, due, clean, whole, ne_eq, not_true_eq_false, if_false, Bool.not_true, Bool.or_self, Bool.false_eq_true]

end

theorem setWork_work (q : SkimSlot) (a : Attn) : (q.setWork a).work = a := by
  unfold SkimSlot.setWork
  split <;> rfl

theorem skimMerge_merges (s : State) (t k : Nat) (m : MergeRun) (merge : (s.query t k).merge = some m) (due : m.due = 0) (clean : m.poison = false)
    (whole : checkHolds m.beats = true) :
    ∃ u, exec (.skimMerge t k) s = .next u ∧ LocalTo s u t ∧ (u.query t k).merge = none ∧ (u.query t k).nextShard = (s.query t k).nextShard + 1 ∧
      let dim := hdrDim (s.query t k).hdr
      let rs := (List.range (hdrRows (s.query t k).hdr)).map fun i => mergeRow ((s.query t k).work.row dim i) ((Attn.ofBeats (hdrRows (s.query t k).hdr) dim (m.beats.drop 2)).row dim i)
      (u.query t k).work = Attn.ofRows (rs.map (·.1)) ∧
      (u.ctx t m.ctx).flags = (s.ctx t m.ctx).flags ||| rs.foldl (fun acc x => acc ||| x.2) 0 := by
  refine ⟨_, exec_skimMerge_merges merge due clean whole, (LocalTo.setQuery ..).trans (.of_kept (raise_keeps ..)), ?_⟩
  rw [(raise_keeps ..).query, query_setQuery_same, raise_ctx, ctx_setQuery]
  exact ⟨rfl, rfl, setWork_work .., rfl⟩

end Sys2Proof.Machine
end

section
/-! SUPPORT. Passes that end, stop or start afresh (R207, R208, R213), tokens sent (R214, R215), and the statement on the skim unit (O18). -/

namespace Sys2Proof.Machine

open Sys2Proof

/-! ### The end of a pass -/

theorem tile_endPass (s : State) (t : Nat) (p : Pass) : (s.endPass t p).tile t = { s.tile t with passes := (s.tile t).passes.tail } := tile_setTile_same ..

theorem query_endPass (s : State) (t : Nat) (p : Pass) (k : Nat) : (s.endPass t p).query t k = s.query t k := by
  rw [State.query, tile_endPass]; rfl

theorem ctx_endPass (s : State) (t : Nat) (p : Pass) (c : Nat) : (s.endPass t p).ctx t c = s.ctx t c := by
  rw [State.ctx, tile_endPass]; rfl

theorem haltCtx_slots (s : State) (t c slot : Nat) (fi : FaultInfo) : ((s.haltCtx t c slot fi).tile t).passes = (s.tile t).passes ∧
    ∀ k, (s.haltCtx t c slot fi).query t k = s.query t k := by
  have passes := congrArg Tile.passes (tile_haltCtx_rest s t c slot fi)
  have skim := congrArg Tile.skim (tile_haltCtx_rest s t c slot fi)
  exact ⟨passes, fun k => query_eq_skim skim k⟩

/-- A slot spoiled: it cannot be used, its context has halted, and a record says why (R213, R468). -/
theorem spoil_leaves (s : State) (t k c slotNo : Nat) (fi : FaultInfo) : let u := s.spoil t k c slotNo fi
    u.mem = s.mem ∧ (u.tile t).passes = (s.tile t).passes ∧ u.query t k = { s.query t k with poison := true } ∧ (u.ctx t c).run = .halted ∧
      ∃ r, u.records = s.records ++ [r] ∧ r.source = t ∧ r.ctx = c ∧ r.cls = fi.cls ∧ r.cause = fi.cause ∧ r.address = fi.address := by
  obtain ⟨passes, query⟩ := haltCtx_slots (s.setQuery t k { s.query t k with poison := true }) t c slotNo { fi with detail := BitVec.ofNat 128 k, skimSlot := some k }
  refine ⟨rfl, ?_, ?_, ?_, _, records_haltCtx .., rfl, rfl, rfl, rfl, rfl⟩
  · exact passes.trans (by rw [tile_setQuery]; rfl)
  · exact (query k).trans (query_setQuery_same ..)
  · rw [State.spoil, ctx_haltCtx_same]

section
variable {s : State} {t : Nat} {p : Pass} {rest : List Pass} (queue : (s.tile t).passes = p :: rest)
include queue

theorem passes_endPass : ((s.endPass t p).tile t).passes = rest := by
  rw [tile_endPass, queue]; rfl

/-! ### A pass whose reads have been made (R207, R213) -/

section
variable {id : Nat} {a : Access} (access : p.access = some id) (found : (s.accesses.find? fun a => a.id = id) = some a)
include access found

theorem exec_skimPass_waits (reads : a.pieces ≠ []) : exec (.skimPass t) s = .next s := by
  have some : a.pieces.isEmpty = false := by simpa using reads
  show execSkimPass t s = _
  rw [execSkimPass]
  simp only [queue, access, found, some, Bool.not_false, if_true]

variable (read : a.pieces = [])
include read

theorem exec_skimPass_poisoned {va : Nat} (poison : a.poisonAt = some va) : exec (.skimPass t) s = .next ((s.endPass t p).spoil t p.slot p.ctx p.slotNo
    { cls := 6, cause := 4, address := va, performed := true, witness := a.given, operands := some (p.a, p.b) }) := by
  show execSkimPass t s = _
  rw [execSkimPass]
  simp only [queue, access, found, read, List.isEmpty_nil, Bool.not_true, Bool.false_eq_true, if_false, poison]

variable (clean : a.poisonAt = none)
include clean

theorem exec_skimPass_refused {cause : Nat} (bad : headerFault (passImage a) (hdrDim (s.query t p.slot).hdr) (lane 64 p.b 1) = some cause) :
    exec (.skimPass t) s = .next ((s.endPass t p).spoil t p.slot p.ctx p.slotNo { cls := 9, cause := cause, witness := a.given, operands := some (p.a, p.b) }) := by
  show execSkimPass t s = _
  rw [execSkimPass]
  simp only [queue, access, found, read, List.isEmpty_nil, Bool.not_true, Bool.false_eq_true, if_false, clean, bad]

theorem exec_skimPass_runs (ok : headerFault (passImage a) (hdrDim (s.query t p.slot).hdr) (lane 64 p.b 1) = none) : let r := runPass (s.query t p.slot) (passData (passImage a) p.b)
    exec (.skimPass t) s = .next (((s.endPass t p).setQuery t p.slot ((s.query t p.slot).setWork r.1)).raise t p.ctx r.2) := by
  show execSkimPass t s = _
  rw [execSkimPass]
  simp only [queue, access, found, read, List.isEmpty_nil, Bool.not_true, Bool.false_eq_true, if_false, clean, ok]

theorem skimPass_runs (ok : headerFault (passImage a) (hdrDim (s.query t p.slot).hdr) (lane 64 p.b 1) = none) :
    ∃ u, exec (.skimPass t) s = .next u ∧ u.mem = s.mem ∧ (u.tile t).passes = rest ∧ (∀ x ∈ u.accesses, x.id ≠ id) ∧
      u.query t p.slot = (s.query t p.slot).setWork (runPass (s.query t p.slot) (passData (passImage a) p.b)).1 ∧
      (u.ctx t p.ctx).flags = (s.ctx t p.ctx).flags ||| (runPass (s.query t p.slot) (passData (passImage a) p.b)).2 ∧
      (u.ctx t p.ctx).run = (s.ctx t p.ctx).run ∧ (∀ k, k ≠ t → u.tile k = s.tile k) := by
  have raised := raise_keeps ((s.endPass t p).setQuery t p.slot ((s.query t p.slot).setWork (runPass (s.query t p.slot) (passData (passImage a) p.b)).1)) t p.ctx
    (runPass (s.query t p.slot) (passData (passImage a) p.b)).2
  refine ⟨_, exec_skimPass_runs queue access found read clean ok, rfl, ?_, fun x hx => ?_, ?_, ?_, ?_, fun k other => ?_⟩
  · rw [raised.passes, tile_setQuery]
    exact passes_endPass queue
  · have kept := (List.mem_filter.mp hx).2
    rw [access] at kept
    simpa using kept
  · rw [raised.query, query_setQuery_same]
  · rw [raise_ctx, ctx_setQuery, ctx_endPass]
  · rw [raise_ctx, ctx_setQuery, ctx_endPass]
  · rw [raised.tiles k other, tile_setQuery_other _ other]
    exact tile_setTile_other _ other _

end

theorem spoiled_endPass (slotNo : Nat) (fi : FaultInfo) : let u := (s.endPass t p).spoil t p.slot p.ctx slotNo fi
    u.mem = s.mem ∧ (u.tile t).passes = rest ∧ u.query t p.slot = { s.query t p.slot with poison := true } ∧ (u.ctx t p.ctx).run = .halted ∧
      ∃ r, u.records = s.records ++ [r] ∧ r.source = t ∧ r.ctx = p.ctx ∧ r.cls = fi.cls ∧ r.cause = fi.cause ∧ r.address = fi.address := by
  obtain ⟨mem, passes, query, run, r, records, fields⟩ := spoil_leaves (s.endPass t p) t p.slot p.ctx slotNo fi
  exact ⟨mem, passes.trans (passes_endPass queue), query.trans (by rw [query_endPass]), run, r, records, fields⟩

/-! ### A pass that a pre-emption abandoned (R208) -/

theorem exec_skimPass_held (fresh : p.access = none) (held : (s.ctx t p.ctx).held = true) : exec (.skimPass t) s = .next s := by
  show execSkimPass t s = _
  rw [execSkimPass]
  simp only [queue, fresh, held, if_true]

section
variable (fresh : p.access = none) (free : (s.ctx t p.ctx).held = false) {u : State}
include fresh free

theorem exec_skimPass_restarts {a : Access} (plan : planPass s t p.ctx p.slotNo (s.query t p.slot).hdr p.a p.b p.e = (.ok a, u)) :
    exec (.skimPass t) s = .next ((u.issue a).setTile t { (u.issue a).tile t with passes := { p with access := some a.id } :: rest }) := by
  show execSkimPass t s = _
  rw [execSkimPass]
  simp only [queue, fresh, free, Bool.false_eq_true, if_false, plan]

theorem exec_skimPass_faults {fi : FaultInfo} (plan : planPass s t p.ctx p.slotNo (s.query t p.slot).hdr p.a p.b p.e = (.error fi, u)) :
    exec (.skimPass t) s = .next ((u.endPass t p).spoil t p.slot p.ctx p.slotNo fi) := by
  show execSkimPass t s = _
  rw [execSkimPass]
  simp only [queue, fresh, free, Bool.false_eq_true, if_false, plan]

theorem skimPass_restarts : let plan := (planPass s t p.ctx p.slotNo (s.query t p.slot).hdr p.a p.b p.e).1
    (∀ a, plan = .ok a → ∃ u, exec (.skimPass t) s = .next u ∧ u.mem = s.mem ∧ u.accesses = s.accesses ++ [a] ∧
      (u.tile t).passes = { p with access := some a.id } :: rest ∧ u.query t p.slot = s.query t p.slot) ∧
    (∀ fi, plan = .error fi → ∃ u r, exec (.skimPass t) s = .next u ∧ u.mem = s.mem ∧ (u.tile t).passes = rest ∧
      u.query t p.slot = { s.query t p.slot with poison := true } ∧ (u.ctx t p.ctx).run = .halted ∧ u.records = s.records ++ [r] ∧ r.cls = fi.cls ∧ r.cause = fi.cause) := by
  generalize hv : planPass s t p.ctx p.slotNo (s.query t p.slot).hdr p.a p.b p.e = v
  obtain ⟨plan, w⟩ := v
  refine ⟨fun a ok => ?_, fun fi bad => ?_⟩
  · obtain rfl : plan = .ok a := ok
    obtain ⟨-, -, load, planned⟩ := planPass_ok hv
    refine ⟨_, exec_skimPass_restarts queue fresh free hv, (State.issue_mem ..).trans planned.mem, ?_, ?_, ?_⟩
    · show (w.issue a).accesses = _
      rw [issue_load w load, ← planned.accesses]
    · rw [tile_setTile_same]
    · rw [State.query, tile_setTile_same, issue_load w load]
      exact planned.query p.slot
  · obtain rfl : plan = .error fi := bad
    have planned := planPass_error hv
    obtain ⟨mem, passes, query, run, r, records, -, -, cls, cause, -⟩ := spoiled_endPass (planned.passes.trans queue) p.slotNo fi
    exact ⟨_, r, exec_skimPass_faults queue fresh free hv, mem.trans planned.mem, passes, query.trans (by rw [planned.query]), run,
      records.trans (by rw [planned.records]), cls, cause⟩

end

end

/-! ### Tokens sent (R214, R215) -/

section
variable {s : State} {t k : Nat} {em : Emit} (emit : (s.query t k).emit = some em)
include emit

theorem exec_skimBeatEmit_done (sent : em.beats = []) : exec (.skimBeatEmit t k) s = .next (s.settleEmit t k) := by
  show execSkimBeatEmit t k s = _
  rw [execSkimBeatEmit]
  simp only [emit, sent]

theorem settleEmit_waits (left : em.beats ≠ [] ∨ at8 (s.ctx t em.ctx).outs em.ep ≠ []) : s.settleEmit t k = s := by
  have going : (em.beats.isEmpty && (at8 (s.ctx t em.ctx).outs em.ep).isEmpty) = false := by
    rw [Bool.and_eq_false_iff]
    exact left.imp (by simp) (by simp)
  rw [State.settleEmit]
  simp only [emit, going, Bool.false_eq_true, if_false]

theorem settleEmit_ends (sent : em.beats = []) (gone : at8 (s.ctx t em.ctx).outs em.ep = []) :
    s.settleEmit t k = if em.free then s.emptyQuery t k else s.setQuery t k { s.query t k with emit := none } := by
  rw [State.settleEmit]
  simp only [emit, sent, gone, List.isEmpty_nil, Bool.and_self, if_true]

variable {b : V512} {rest : List V512} (beats : em.beats = b :: rest)
include beats

theorem exec_skimBeatEmit_full (full : runPlace s t em.ctx em.ep = false) : exec (.skimBeatEmit t k) s = .next s := by
  show execSkimBeatEmit t k s = _
  rw [execSkimBeatEmit]
  simp only [emit, beats, full, Bool.not_false, if_true]

theorem exec_skimBeatEmit_sends (place : runPlace s t em.ctx em.ep = true) : exec (.skimBeatEmit t k) s =
    .next (((s.setQuery t k { s.query t k with emit := some { em with beats := rest } }).sendTagged t em.ctx 0xFF em.ep b 0xFFFF em.tag).settleEmit t k) := by
  show execSkimBeatEmit t k s = _
  rw [execSkimBeatEmit]
  simp only [emit, beats, place, Bool.not_true, Bool.false_eq_true, if_false]

theorem skimBeatEmit_sends (place : runPlace s t em.ctx em.ep = true) (link : (at8 (s.ctx t em.ctx).word.obind em.ep).buf? = none) :
    ∃ u x, exec (.skimBeatEmit t k) s = .next u ∧ LocalTo s u t ∧ at8 (u.ctx t em.ctx).outs em.ep = at8 (s.ctx t em.ctx).outs em.ep ++ [.full x] ∧ x.payload = b ∧
      x.mask = 0xFFFF ∧ x.tag = em.tag ∧ x.poison = false ∧ u.query t k = { s.query t k with emit := some { em with beats := rest } } := by
  let s1 := s.setQuery t k { s.query t k with emit := some { em with beats := rest } }
  let x : Beat := { payload := b, mask := 0xFFFF, tag := em.tag, vc := (at8 (s1.ctx t em.ctx).word.obind em.ep).vc, poison := false }
  have same : s1.ctx t em.ctx = s.ctx t em.ctx := ctx_setQuery ..
  have sent : s1.sendTagged t em.ctx 0xFF em.ep b 0xFFFF em.tag =
      s1.setCtx t em.ctx { s1.ctx t em.ctx with outs := set8 (s1.ctx t em.ctx).outs em.ep (at8 (s1.ctx t em.ctx).outs em.ep ++ [.full x]) } := by
    rw [State.sendTagged, State.setOuts]
    simp only [same, link, x]
  have kept := Kept.setCtx t em.ctx s1 { s1.ctx t em.ctx with outs := set8 (s1.ctx t em.ctx).outs em.ep (at8 (s1.ctx t em.ctx).outs em.ep ++ [.full x]) }
  rw [← sent] at kept
  have query : (s1.sendTagged t em.ctx 0xFF em.ep b 0xFFFF em.tag).query t k = { s.query t k with emit := some { em with beats := rest } } :=
    (kept.query k).trans (query_setQuery_same ..)
  have outs : at8 ((s1.sendTagged t em.ctx 0xFF em.ep b 0xFFFF em.tag).ctx t em.ctx).outs em.ep = at8 (s.ctx t em.ctx).outs em.ep ++ [.full x] := by
    rw [sent, ctx_setCtx_same, at8_set8_same, same]
  have waits : (s1.sendTagged t em.ctx 0xFF em.ep b 0xFFFF em.tag).settleEmit t k = s1.sendTagged t em.ctx 0xFF em.ep b 0xFFFF em.tag :=
    settleEmit_waits (em := { em with beats := rest }) (by rw [query]) (.inr (by rw [outs]; simp))
  exact ⟨_, x, (exec_skimBeatEmit_sends emit beats place).trans (congrArg _ waits), (LocalTo.setQuery ..).trans (.of_kept kept), outs, rfl, rfl, rfl, rfl, query⟩

end

theorem query_emptyQuery (s : State) (t k : Nat) : (s.emptyQuery t k).query t k = SkimSlot.clean := by
  let gone := (((s.tile t).passes.filter fun p => p.slot == k % 2).filterMap (·.access))
  let s1 := { s with accesses := s.accesses.filter fun a => !gone.contains a.id }
  let s2 := s1.setTile t { ((s1.tile t).setQuery k SkimSlot.clean) with passes := (s1.tile t).passes.filter fun p => p.slot != k % 2 }
  have emptied : s2.query t k = SkimSlot.clean := by
    rw [State.query, tile_setTile_same]
    exact query_setSlot_same ..
  have returned (c n : Nat) : (s2.setTaken t c n false).query t k = SkimSlot.clean := ((setTaken_keeps ..).query k).trans emptied
  simp only [State.emptyQuery]
  split
  · split
    · exact emptied
    · exact returned ..
  · split
    · exact emptied
    · exact returned ..

theorem skimBeatEmit_ends {s : State} {t k : Nat} {em : Emit} (emit : (s.query t k).emit = some em) (sent : em.beats = [])
    (gone : at8 (s.ctx t em.ctx).outs em.ep = []) : ∃ u, exec (.skimBeatEmit t k) s = .next u ∧ u.mem = s.mem ∧
      u.query t k = if em.free then SkimSlot.clean else { s.query t k with emit := none } := by
  refine ⟨_, exec_skimBeatEmit_done emit sent, State.settleEmit_mem .., ?_⟩
  rw [settleEmit_ends emit sent gone]
  cases em.free
  · exact query_setQuery_same ..
  · exact query_emptyQuery ..

theorem exec_skimBeatEmit_none {s : State} {t k : Nat} (idle : (s.query t k).emit = none) : exec (.skimBeatEmit t k) s = .next s := by
  show execSkimBeatEmit t k s = _
  rw [execSkimBeatEmit]
  simp only [idle]

/-! ### The statement -/

/-- Settles O18: each firing has its outcomes; a drain, a pass, a merge and an emission are each one change of a slot; and what is computed is row by row, field by
field. -/
theorem skimUnitRuns : Obligations.SkimUnitRuns := by
  unfold Obligations.SkimUnitRuns
  obtain ⟨skimPoisoned, skimMisformed, skimFaults⟩ := skim_halts
  refine ⟨⟨fun _ _ _ wf firing ok => skq_takes wf firing ok, skq_halts, fun _ _ _ _ _ _ firing => skim_queues firing, skimPoisoned, skimMisformed, skimFaults,
      fun _ _ _ _ _ firing ⟨slot, sound⟩ => exec_skfw_sends firing slot sound, fun _ _ _ _ _ firing ⟨slot, poison⟩ => exec_skfw_poisoned firing slot poison,
      skfn_completes, fun _ _ _ _ firing poison => exec_skfn_poisoned firing poison, skmg_laneSpecOn,
      fun _ _ _ _ firing ⟨sound, _, second, clean, turn⟩ => exec_skmg_outOfTurn firing sound second clean turn,
      fun _ _ _ _ firing ⟨sound, _, second, clean, turn, misfit⟩ => exec_skmg_misfit firing sound second clean turn misfit⟩,
    ⟨skimBeatDrain_token, fun _ _ _ merge idle => exec_skimBeatDrain_waits merge idle, skimBeatDrain_partial,
      fun _ _ _ _ _ _ queue access found read clean ok => skimPass_runs queue access found read clean ok, ?poisoned, ?refused, ?waits,
      fun _ _ _ _ queue fresh free => skimPass_restarts queue fresh free,
      fun s t k m merge due => ⟨fun bad u same => ?damaged, fun clean whole => skimMerge_merges s t k m merge due clean whole⟩,
      fun s t k em emit => ⟨fun _ _ beats full => exec_skimBeatEmit_full emit beats full, fun _ _ beats place _ link => skimBeatEmit_sends emit beats place link,
        fun sent left => ?unsent, fun sent gone => skimBeatEmit_ends emit sent gone⟩,
      fun _ _ _ idle => exec_skimBeatEmit_none idle⟩,
    unmasked_iff, passRow_row, fun pd scale _ q j whole => passScore_bits pd scale q j whole, mergeRow_row, fun ty r _ inRow => finishRow_bits ty r inRow, sealToken_checks,
    fun _ last => if_pos last, hopHeader_hops⟩
  case poisoned =>
    intro s t p rest id a va queue access found read poison
    obtain ⟨mem, passes, query, run, r, records, fields⟩ := spoiled_endPass queue p.slotNo
      { cls := 6, cause := 4, address := va, performed := true, witness := a.given, operands := some (p.a, p.b) }
    exact ⟨_, r, exec_skimPass_poisoned queue access found read poison, mem, passes, query, run, records, fields⟩
  case refused =>
    intro s t p rest id a cause queue access found read clean bad
    obtain ⟨mem, passes, query, run, r, records, source, ctx, cls, cause', -⟩ := spoiled_endPass queue p.slotNo
      { cls := 9, cause := cause, witness := a.given, operands := some (p.a, p.b) }
    exact ⟨_, r, exec_skimPass_refused queue access found read clean bad, mem, passes, query, run, records, source, ctx, cls, cause'⟩
  case waits =>
    rintro s t p rest queue (⟨id, a, access, found, reads⟩ | ⟨fresh, held⟩)
    · exact exec_skimPass_waits queue access found reads
    · exact exec_skimPass_held queue fresh held
  case damaged =>
    obtain rfl : u = s := same
    exact exec_skimMerge_damaged merge due bad
  case unsent => exact (exec_skimBeatEmit_done emit sent).trans (congrArg _ (settleEmit_waits emit (.inr left)))

end Sys2Proof.Machine
end

section
/-! SUPPORT. Moves of the engines' commands (R292, R303-R309): addresses, the messages taken from an inbox, and what a move of the head command leaves (O37). -/

namespace Sys2Proof.Machine

open Sys2Proof

/-! ### Addresses and sums -/

theorem wrap_add {w : Nat} (a b : Nat) : wrap w ((a : Int) + b) = (a + b) % 2 ^ w := by
  rw [wrap, ← Nat.cast_add]
  norm_cast

theorem foldl_add_eq_sum (xs : List Nat) : ∀ n, xs.foldl (· + ·) n = n + xs.sum := by
  induction xs with
  | nil => exact fun n => rfl
  | cons x xs ih =>
    intro n
    rw [List.foldl_cons, ih, List.sum_cons, Nat.add_assoc]

theorem prefixSum_zero (xs : List Nat) : prefixSum xs 0 = 0 := rfl

theorem prefixSum_succ (xs : List Nat) (k : Nat) : prefixSum xs (k + 1) = prefixSum xs k + xs.getD k 0 := by
  simp only [prefixSum, foldl_add_eq_sum, Nat.zero_add, List.take_add_one, List.sum_append, List.getD_eq_getElem?_getD]
  cases xs[k]? <;> simp

/-- The sum of the first k of a list of counts, one by one. -/
theorem prefixSum_eq (xs : List Nat) (k : Nat) : prefixSum xs k = ((List.range k).map fun i => xs.getD i 0).sum := by
  induction k with
  | zero => rfl
  | succ k ih => rw [prefixSum_succ, ih, List.range_succ, List.map_append, List.sum_append, List.map_singleton, List.sum_singleton]

/-! ### The first of a list that a test accepts -/

section
variable {α : Type} {p : α → Bool}

theorem takeFirst_cons {x : α} (h : p x = true) (xs : List α) : takeFirst p (x :: xs) = some (x, xs) := if_pos h

theorem takeFirst_eq_none {xs : List α} (h : ∀ x ∈ xs, p x = false) : takeFirst p xs = none := by
  induction xs with
  | nil => rfl
  | cons x xs ih =>
    rw [takeFirst, h x List.mem_cons_self, ih fun y hy => h y (List.mem_cons_of_mem x hy)]
    rfl

theorem takeFirst_mem {xs rest : List α} {x : α} (h : takeFirst p xs = some (x, rest)) : rest ⊆ xs := by
  induction xs generalizing rest with
  | nil => cases h
  | cons y ys ih =>
    rw [takeFirst] at h
    split at h
    · cases h
      exact List.subset_cons_self _ _
    · cases found : takeFirst p ys with
      | none => simp [found] at h
      | some r =>
        obtain ⟨z, zs⟩ := r
        simp only [found, Option.map_some, Option.some.injEq, Prod.mk.injEq] at h
        obtain ⟨rfl, rfl⟩ := h
        exact List.cons_subset_cons y (ih found)

end

section
variable {r : EngineRun} {kind : PeerBody → Option Nat}

/-- Messages of every rank cannot be taken while those of one are missing. -/
theorem takeFrom_eq_none {k : Nat} {ks : List Nat} (hk : k ∈ ks) : ∀ {box : List PeerMsg},
    (∀ m ∈ box, fromRank r k m = true → kind m.body = none) → takeFrom r kind ks box = none := by
  induction ks with
  | nil => cases hk
  | cons j js ih =>
    intro box missing
    rw [takeFrom]
    cases found : takeFirst (fun m => fromRank r j m && (kind m.body).isSome) box with
    | none => rfl
    | some x =>
      obtain ⟨m, rest⟩ := x
      rcases List.mem_cons.mp hk with rfl | hk
      · rw [takeFirst_eq_none] at found
        · cases found
        · intro m hm
          rw [Bool.and_eq_false_iff]
          by_cases own : fromRank r k m = true
          · exact .inr (by rw [missing m hm own]; rfl)
          · exact .inl (Bool.eq_false_iff.mpr own)
      · simp only [ih hk fun m hm => missing m (takeFirst_mem found hm), Option.map_none]

theorem takeFrom_one {k n : Nat} {m : PeerMsg} (from' : fromRank r k m = true) (said : kind m.body = some n) (box : List PeerMsg) :
    takeFrom r kind [k] (m :: box) = some ([(k, n)], box) := by
  rw [takeFrom, takeFirst_cons (by rw [from', said]; rfl)]
  simp only [takeFrom, Option.map_some, said, Option.getD_some]

end

/-! ### What replacing a run and an inbox leaves (R289, R306) -/

section
variable {s : State} {q : Nat} {c : Command} {cs : List Command}

theorem setInbox_commands (s : State) (q : Nat) (box : List PeerMsg) : ((s.setInbox q box).cmdQueue q).commands = (s.cmdQueue q).commands := by
  rw [State.setInbox, cmdQueue_setCmdQueue_same]

theorem setInbox_inbox (s : State) (q : Nat) (box : List PeerMsg) : ((s.setInbox q box).cmdQueue q).inbox = box := by
  rw [State.setInbox, cmdQueue_setCmdQueue_same]

theorem setRun_inbox (s : State) (q : Nat) (r : EngineRun) : ((s.setRun q r).cmdQueue q).inbox = (s.cmdQueue q).inbox := by
  cases h : (s.cmdQueue q).commands with
  | nil => simp only [State.setRun, h]
  | cons c cs => rw [setRun_of_cons h, cmdQueue_setCmdQueue_same]

/-- A move that takes messages and sets the run of the head command. -/
structure Takes (s : State) (q : Nat) (box : List PeerMsg) (r : EngineRun) (u : State) : Prop where
  mem : u.mem = s.mem
  tiles : u.tiles = s.tiles
  inbox : (u.cmdQueue q).inbox = box
  run : ∀ c cs, (s.cmdQueue q).commands = c :: cs → (u.cmdQueue q).commands = { c with run := some r } :: cs

theorem takes_setInbox (s : State) (q : Nat) (box : List PeerMsg) (r : EngineRun) : Takes s q box r ((s.setInbox q box).setRun q r) where
  mem := State.setRun_mem ..
  tiles := setRun_tiles ..
  inbox := by rw [setRun_inbox, setInbox_inbox]
  run _ _ commands := setRun_commands (by rw [setInbox_commands, commands]) r

end

/-! ### Messages sent and held (R306, R307) -/

theorem exec_peerMessage_arrives {s : State} {q : Nat} {m : PeerMsg} (hq : q < 256) (away : m.module' ≠ s.moduleIndex) :
    exec (.enginePeerMessage q (some m)) s = .next (s.hold q m) := by
  change execEnginePeerMessage q (some m) s = _
  rw [execEnginePeerMessage, if_neg (by omega)]
  exact if_neg away

theorem exec_peerMessage_within {s : State} {q : Nat} (hq : q < 256) : exec (.enginePeerMessage q none) s =
    match takeFirst (fun x : Nat × PeerMsg => x.1 == q) s.messages with
    | none => .next s
    | some (x, rest) => .next ({ s with messages := rest }.hold q x.2) := by
  change execEnginePeerMessage q none s = _
  rw [execEnginePeerMessage, if_neg (by omega)] <;> rfl

theorem hold_inbox (s : State) (q : Nat) (m : PeerMsg) : ((s.hold q m).cmdQueue q).inbox = (s.cmdQueue q).inbox ++ [m] := by
  rw [State.hold, cmdQueue_setCmdQueue_same]

/-- Messages sent change no more than what is on its way. -/
def Sent (s u : State) : Prop := ∃ messages out, u = { s with messages := messages, peerOut := out }

theorem sendPeer_sent (s : State) (q index e gen : Nat) (body : PeerBody) : Sent s (s.sendPeer q index e gen body) := by
  unfold State.sendPeer
  split
  · exact ⟨_, s.peerOut, rfl⟩
  · exact ⟨s.messages, _, rfl⟩

/-- A message of a queue's engine with what it says. -/
def peerMsg (s : State) (q gen : Nat) (body : PeerBody) : PeerMsg := { module' := s.moduleIndex, engine := q, gen := gen, body := body }

/-- Messages sent to one rank after another: those to engines of the module are on their way within it, the others leave it. -/
theorem sendRank_foldl (q : Nat) (r : EngineRun) (body : Nat → PeerBody) (ks : List Nat) : ∀ s : State,
    ks.foldl (fun s k => s.sendRank q r k (body k)) s = { s with
      messages := s.messages ++ (ks.filter fun k => a2aModule r.table k == s.moduleIndex).map fun k => (a2aEngine r.table k, peerMsg s q (a2aGen r) (body k)),
      peerOut := s.peerOut ++ (ks.filter fun k => a2aModule r.table k != s.moduleIndex).map fun k =>
        (a2aModule r.table k, a2aEngine r.table k, peerMsg s q (a2aGen r) (body k)) } := by
  induction ks with
  | nil =>
    intro s
    simp only [List.foldl_nil, List.filter_nil, List.map_nil, List.append_nil]
  | cons k ks ih =>
    intro s
    rw [List.foldl_cons, ih]
    by_cases here : a2aModule r.table k = s.moduleIndex
    · simp only [State.sendRank, State.sendPeer, if_pos here]
      rw [List.filter_cons_of_pos (by simpa using here), List.filter_cons_of_neg (by simpa using here), List.map_cons, List.append_assoc]
      rfl
    · simp only [State.sendRank, State.sendPeer, if_neg here]
      rw [List.filter_cons_of_neg (by simpa using here), List.filter_cons_of_pos (by simpa using here), List.map_cons, List.append_assoc]
      rfl

/-! ### One move of a head command (R289, R290, R292) -/

section
variable {s : State} {q cmd : Nat} {c : Command} {rec' : V512} {r : EngineRun}

theorem engineMove_of_moving (h : Moving s q cmd c rec' r) (body : State → Nat → EngineRun → State) : engineMove q cmd body s =
    if r.started = true then .next (body s c.number r)
    else match (if bitAt (recWord rec' 0) 8 then s.standing (writerOfQueue q) (recWit rec') else .satisfied) with
      | .pending => .next (s.noteLift (writerOfQueue q) (recWit rec'))
      | .malformed => .next (s.endWith q r 7)
      | _ => .next (s.setRun q { r with started := true }) := by
  unfold engineMove
  rw [if_neg (by have := h.queue; omega), h.head]
  simp only [h.record, h.run, h.open', h.kind, h.idle, bne_self_eq_false, Option.isSome_none, Bool.or_self, Bool.false_eq_true, ↓reduceIte]
  cases r.started <;> rfl

/-- An event that is the move of a kind of command waits for its witness, and then does what each move does. -/
theorem moveSpec_of_engineMove {ev : Nat → Instr} {body spec : Nat → State → Nat → EngineRun → State}
    (event : ∀ q s, exec (ev q) s = engineMove q cmd (body q) s) (same : ∀ q s n r, body q s n r = spec q s n r) : MoveSpec ev cmd spec := by
  intro s q c rec' r h
  rw [event, engineMove_of_moving h]
  refine ⟨fun started => by rw [if_pos started, same], fun idle bit => ?_, fun idle bit => ?_⟩
  · rw [idle, bitAt_eq_testBit, bit]
    rfl
  · rw [idle, bitAt_eq_testBit, bit]
    simp only [Bool.false_eq_true, ↓reduceIte]
    cases s.standing (writerOfQueue q) (recWit rec') <;> rfl

end

end Sys2Proof.Machine
end

section
/-! SUPPORT. Block-wise moves of the engines: jobs, gathering reads, the digest, the comparison and the fence (R292, R304, R305, R308, R309; O37). -/

namespace Sys2Proof.Machine

open Sys2Proof

/-! ### Jobs and gathering reads (R304) -/

section
variable {s : State} {q n : Nat} {near : Bool} {r : EngineRun} {j : Job}

theorem jobMove_done (h : j.len ≤ j.pos) : s.jobMove q n near r j = s.setRun q { r with job := none, phase := j.next } := if_pos h

theorem jobMove_read {id : Nat} (more : j.pos < j.len) (reading : r.reading = some id) : s.jobMove q n near r j = match s.takeRead id with
    | (.error st, s1) => s1.endAt q r st
    | (.ok x, s1) => s1.engineWrite q n near { r with reading := none, job := some { j with pos := j.pos + min 256 (j.len - j.pos) } }
        ((j.dst + j.pos) % 2 ^ 64) (min 256 (j.len - j.pos)) (j.out (min 256 (j.len - j.pos)) x) := by
  rw [State.jobMove, if_neg (by omega)]
  simp only [reading, wrap_add] <;> rfl

/-- The range of a block of an operand in memory. -/
theorem range_mem (va pos n : Nat) : (Bytes'.mem va).range pos n = ((va + pos) % 2 ^ 64, n) := by
  rw [Bytes'.range, wrap_add]

theorem jobMove_reads {va : Nat} (more : j.pos < j.len) (reading : r.reading = none) (mem : j.a = .mem va) : s.jobMove q n near r j =
    s.engineRead q near r [((va + j.pos) % 2 ^ 64, min 256 (j.len - j.pos)), j.b.range j.pos (min 256 (j.len - j.pos))] := by
  rw [State.jobMove, if_neg (by omega)]
  simp only [reading, mem, range_mem]
  refine if_neg ?_
  rw [List.all_cons, beq_eq_false_iff_ne.mpr (by omega), Bool.false_and]
  nofun

theorem jobMove_values {x y : Nat} (more : j.pos < j.len) (reading : r.reading = none) (a : j.a = .val x) (b : j.b = .val y) : s.jobMove q n near r j =
    s.engineWrite q n near { r with reading := none, job := some { j with pos := j.pos + min 256 (j.len - j.pos) } } ((j.dst + j.pos) % 2 ^ 64)
      (min 256 (j.len - j.pos)) (j.out (min 256 (j.len - j.pos)) 0) := by
  rw [State.jobMove, if_neg (by omega)]
  simp only [reading, a, b, wrap_add]
  rfl

theorem jobCommand_eq (job : EngineRun → Job) : jobCommand q near job s n r = match r.job with
    | some k => s.jobMove q n near r k
    | none => if r.phase = 0 then s.setRun q { r with job := some (job r) } else s.endWith q r 0 := by
  unfold jobCommand
  cases r.job <;> rfl

theorem gather_next {va len m next : Nat} (done : min m (len - r.pos) = 0) (reading : r.reading = none) :
    s.gather q r va len m next = s.setRun q { r with phase := next } := by
  simp only [State.gather, reading]
  exact if_pos done

theorem gather_reads {va len m next : Nat} (more : min m (len - r.pos) ≠ 0) (reading : r.reading = none) :
    s.gather q r va len m next = s.engineRead q false r [((va + r.pos) % 2 ^ 64, min m (len - r.pos))] := by
  simp only [State.gather, reading, wrap_add]
  exact if_neg more

theorem gather_takes {va len m next id : Nat} (reading : r.reading = some id) : s.gather q r va len m next = match s.takeRead id with
    | (.error st, s1) => s1.endAt q r st
    | (.ok x, s1) => s1.setRun q { r with
        reading := none, data := r.data + x % 2 ^ (8 * min m (len - r.pos)) * 2 ^ (8 * r.pos), pos := r.pos + min m (len - r.pos) } := by
  simp only [State.gather, reading, bits_eq_mod] <;> rfl

end

/-! ### What a finished read brought (R292) -/

section
variable {s : State} {id : Nat} {a : Access}

theorem takeRead_state (s : State) (id : Nat) : (s.takeRead id).2 = { s with accesses := s.accesses.filter fun a => a.id != id } := by
  unfold State.takeRead
  dsimp only
  split
  · rfl
  · split <;> rfl

theorem takeRead_ok (found : (s.accesses.find? fun a => a.id = id) = some a) (clean : a.poisonAt = none) : (s.takeRead id).1 = .ok (passImage a) := by
  simp only [State.takeRead, found, clean]

theorem takeRead_poison {va : Nat} (found : (s.accesses.find? fun a => a.id = id) = some a) (poison : a.poisonAt = some va) :
    (s.takeRead id).1 = .error (6, va) := by
  simp only [State.takeRead, found, poison]

end

/-! ### Reads, writes and pages (R292, R293, R308) -/

theorem engineWrite_writes {s : State} {q n : Nat} {near : Bool} {va len data : Nat} (r : EngineRun)
    (pages : ∀ g ∈ granulesOf va len, ∃ l, (enginePage s q g true near).1 = .ok l) :
    EngineWrites s q n near r va len data (s.engineWrite q n near r va len data) := by
  obtain ⟨ps, u, made, writes⟩ := engineWrites_of_pages (number := n) (data := data) r pages
  rw [State.engineWrite, made]
  exact writes

theorem engineWrite_ends {s : State} {q n : Nat} {near : Bool} {va len data g st : Nat} {before after : List Nat} (r : EngineRun)
    (split : granulesOf va len = before ++ g :: after) (pages : ∀ v ∈ before, ∃ l, (enginePage s q v true near).1 = .ok l)
    (page : (enginePage s q g true near).1 = .error (st, g)) : CommandEnds s q r st g (s.engineWrite q n near r va len data) := by
  obtain ⟨u, failed, warm⟩ := enginePieces_error (va := id) (piece := writePiece va len data) (after := after) before s pages page
  rw [State.engineWrite, writePieces_eq, split, failed]
  exact endAt_ends warm q r st g

/-- What an engine finds of a page whose leaf is known (R292, R308). -/
theorem enginePage_of_leaf {s : State} {q va : Nat} {l : Leaf} (write near : Bool)
    (leaf : (translate s (cacheOfQueue q) ((s.queueDomain q).getD 0) (s.cmdQueue q).asid va).1 = .leaf l) :
    (enginePage s q va write near).1 =
      if near = true ∧ ¬ (l.tier = 2 ∧ l.pa va / 2 ^ 33 % 16 = q - 256) then .error (4, va)
      else if l.e = false ∨ (write = true ∧ l.w = false) ∨ (write = false ∧ l.r = false) ∨ l.tier = 8 ∨ l.tier = 9 then .error (5, va)
      else .ok l := by
  have outside : (near && !(l.tier == 2 && bits (l.pa va) 33 4 == q - 256)) = true ↔ near = true ∧ ¬ (l.tier = 2 ∧ l.pa va / 2 ^ 33 % 16 = q - 256) := by
    simp only [bits, Bool.and_eq_true, Bool.not_eq_true', Bool.and_eq_false_iff, beq_eq_false_iff_ne, Nat.reducePow, not_and_or, ne_eq]
  have denied : ((!l.e || (if write then !l.w else !l.r) || l.tier == 8 || l.tier == 9) = true) ↔
      (l.e = false ∨ (write = true ∧ l.w = false) ∨ (write = false ∧ l.r = false) ∨ l.tier = 8 ∨ l.tier = 9) := by
    cases write <;> simp [or_assoc]
  unfold enginePage
  simp only [leaf, ← outside, ← denied, apply_ite Prod.fst]

theorem enginePage_cases (s : State) (q va : Nat) (write near : Bool) :
    match (translate s (cacheOfQueue q) ((s.queueDomain q).getD 0) (s.cmdQueue q).asid va).1 with
    | .fault _ => (enginePage s q va write near).1 = .error (4, va)
    | .poison _ => (enginePage s q va write near).1 = .error (6, va)
    | .leaf l =>
      let outside : Prop := near = true ∧ ¬ (l.tier = 2 ∧ l.pa va / 2 ^ 33 % 16 = q - 256)
      let denied : Prop := l.e = false ∨ (write = true ∧ l.w = false) ∨ (write = false ∧ l.r = false) ∨ l.tier = 8 ∨ l.tier = 9
      (outside → (enginePage s q va write near).1 = .error (4, va)) ∧ (¬ outside → denied → (enginePage s q va write near).1 = .error (5, va)) ∧
      (¬ outside → ¬ denied → (enginePage s q va write near).1 = .ok l) := by
  cases found : (translate s (cacheOfQueue q) ((s.queueDomain q).getD 0) (s.cmdQueue q).asid va).1 with
  | fault cause => simp only [enginePage, found]
  | poison pa => simp only [enginePage, found]
  | leaf l =>
    refine ⟨fun outside => ?_, fun inside denied => ?_, fun inside allowed => ?_⟩
    · rw [enginePage_of_leaf write near found, if_pos outside]
    · rw [enginePage_of_leaf write near found, if_neg inside, if_pos denied]
    · rw [enginePage_of_leaf write near found, if_neg inside, if_neg allowed]

/-! ### The moves of copies, the digest, the comparison and the fence -/

/-- The first byte at which two granules that were read differ (R308). -/
theorem firstDiff_read (x : Nat) : firstDiff (bits x 0 128) (bits x 2048 128) =
    (List.range 16).find? fun k => bits x (8 * k) 8 != bits x (2048 + 8 * k) 8 := by
  have byte (lo k : Nat) (hk : k < 16) : bits (bits x lo 128) (8 * k) 8 = bits x (lo + 8 * k) 8 := by
    refine Nat.eq_of_testBit_eq fun i => ?_
    simp only [testBit_bits]
    by_cases hi : i < 8
    · rw [decide_eq_true (show 8 * k + i < 128 by omega), Bool.true_and, Nat.add_assoc]
    · rw [decide_eq_false hi, Bool.false_and, Bool.false_and]
  unfold firstDiff
  refine List.find?_congr fun k hk => ?_
  rw [byte 0 k (List.mem_range.mp hk), byte 2048 k (List.mem_range.mp hk), Nat.zero_add]

theorem moveSpec_copy : MoveSpec .hawkCopy 1 (fun q s n r => jobCommand q false copyJob s n r) :=
  moveSpec_of_engineMove (fun _ _ => rfl) fun _ _ _ _ => rfl

theorem moveSpec_reduce : MoveSpec .hawkReduce 2 (fun q s n r => jobCommand q false (fun r =>
    { copyJob r with op := some (recWord r.record 0 / 2 ^ 16 % 16, (Ty.ofCode (recWord r.record 0 / 2 ^ 20 % 16)).getD .none), b := .mem (recAux r.record) }) s n r) :=
  moveSpec_of_engineMove (fun _ _ => rfl) fun _ _ _ _ => rfl

theorem moveSpec_zero : MoveSpec .nearDramZero 0x11 (fun q s n r => jobCommand q true (fun r => { copyJob r with a := .val 0 }) s n r) :=
  moveSpec_of_engineMove (fun _ _ => rfl) fun _ _ _ _ => rfl

theorem moveSpec_nearCopy : MoveSpec .nearDramCopy 0x12 (fun q s n r => jobCommand q true copyJob s n r) :=
  moveSpec_of_engineMove (fun _ _ => rfl) fun _ _ _ _ => rfl

theorem moveSpec_fingerprint : MoveSpec .hawkFingerprint 5 (fun q s n r =>
    if r.phase = 0 then s.gather q r (recSrc r.record) (recLen r.record) 16 1
    else if r.phase = 1 ∧ recLen r.record ≠ 0 then s.engineWrite q n false { r with phase := 2 } (recAux r.record) 32
      (shakeBytes ((List.range (recLen r.record)).map fun k => bits r.data (8 * k) 8) 32)
    else s.endWith q r 0) := by
  refine moveSpec_of_engineMove (fun q s => .trans (b := execHawkFingerprint q s) rfl rfl) fun q s n r => ?_
  dsimp only
  match phase : r.phase with
  | 0 => rfl
  | 1 =>
    by_cases empty : recLen r.record = 0
    · simp only [empty, ↓reduceIte, Nat.one_ne_zero, ne_eq, not_true_eq_false, and_false]
    · simp only [empty, ↓reduceIte, Nat.one_ne_zero, ne_eq, not_false_eq_true, and_self]
  | p + 2 => simp only [Nat.add_eq_zero_iff, OfNat.ofNat_ne_zero, and_false, ↓reduceIte, Nat.reduceEqDiff, false_and]

theorem moveSpec_compare : MoveSpec .nearDramCompare 0x13 (fun q s n r =>
    if r.phase ≠ 0 then s.endWith q r 0
    else match r.reading with
      | some id => (match s.takeRead id with
        | (.error e, s1) => s1.endAt q r e
        | (.ok x, s1) => s1.setRun q { r with
            reading := none, pos := r.pos + 16,
            counts := if r.counts = [] then ((List.range 16).find? fun k => bits x (8 * k) 8 != bits x (2048 + 8 * k) 8).toList.map (· + r.pos) else r.counts })
      | none =>
        if r.pos < recLen r.record then
          s.engineRead q true r [((recSrc r.record + r.pos) % 2 ^ 64, 16), ((recDst r.record + r.pos) % 2 ^ 64, 16)]
        else s.engineWrite q n false { r with phase := 1 } (recAux r.record) 8 (match r.counts with
          | [] => recLen r.record + 2 ^ 63
          | k :: _ => k)) := by
  refine moveSpec_of_engineMove (fun q s => .trans (b := execNearDramCompare q s) rfl rfl) fun q s n r => ?_
  dsimp only
  refine if_congr Iff.rfl rfl ?_
  cases reading : r.reading with
  | none =>
    simp only [wrap_add]
    rfl
  | some id =>
    dsimp only
    simp only [firstDiff_read, List.isEmpty_iff, Option.toList_map] <;> rfl

theorem moveSpec_fence : MoveSpec .nearDramFence 0x14 (fun q s _ r =>
    if r.phase = 0 then s.setRun q { r with phase := 1, fence := (s.accesses.filter fun a => a.writer != writerOfQueue q && (a.pieces.any fun p => p.nearSector (q - 256)) &&
      (a.origin != .skim || s.standing a.writer a.given != .pending)).map (·.id) }
    else if s.accesses.any fun a => r.fence.contains a.id && a.pieces.any fun p => p.nearSector (q - 256) then s
    else s.endWith q r 0) :=
  moveSpec_of_engineMove (fun _ _ => rfl) fun _ _ _ _ => rfl

end Sys2Proof.Machine
end

section
/-! SUPPORT. The all-to-all, phase by phase (R306; O37). -/

namespace Sys2Proof.Machine

open Sys2Proof

/-- The run set in a state in which messages have been sent. -/
theorem setRun_of_sent (s : State) (q : Nat) (r : EngineRun) (messages : List (Nat × PeerMsg)) (out : List (Nat × Nat × PeerMsg)) :
    (({ s with messages := messages, peerOut := out } : State).setRun q r).mem = s.mem ∧
    (({ s with messages := messages, peerOut := out } : State).setRun q r).tiles = s.tiles ∧
    (({ s with messages := messages, peerOut := out } : State).setRun q r).accesses = s.accesses ∧
    (({ s with messages := messages, peerOut := out } : State).setRun q r).messages = messages ∧
    (({ s with messages := messages, peerOut := out } : State).setRun q r).peerOut = out ∧
    ∀ c cs, (s.cmdQueue q).commands = c :: cs →
      ((({ s with messages := messages, peerOut := out } : State).setRun q r).cmdQueue q).commands = { c with run := some r } :: cs := by
  obtain ⟨queues, eq⟩ := setRun_queues { s with messages := messages, peerOut := out } q r
  refine ⟨State.setRun_mem .., setRun_tiles .., setRun_accesses .., by rw [eq], by rw [eq],
    fun c cs commands => setRun_commands (s := { s with messages := messages, peerOut := out }) commands r⟩

theorem a2aPeers_eq (r : EngineRun) : a2aPeers r = recWord r.record 3 % 2 ^ 16 := bits_eq_mod ..

/-- A table that an all-to-all cannot use: a reserved bit is set, or the engine's own rank names another engine (R306). -/
def A2aBad (s : State) (q : Nat) (r : EngineRun) (table : Nat) : Prop :=
  (∃ k ∈ List.range (a2aPeers r), bits table (64 * k + 27) 37 ≠ 0) ∨ a2aEngine table (a2aRank r) ≠ q ∨ a2aModule table (a2aRank r) ≠ s.moduleIndex

theorem sends_getD (r : EngineRun) {p k : Nat} (hk : k < p) : ((List.range p).map (a2aSend r.table p)).getD k 0 = a2aSend r.table p k := by
  rw [List.getD_eq_getElem?_getD, List.getElem?_map, List.getElem?_range hk]
  rfl

/-- Where a block that is sent starts (R306). -/
theorem sendPlace_eq (r : EngineRun) : wrap 64 ((recSrc r.record : Int) + prefixSum ((List.range (a2aPeers r)).map (a2aSend r.table (a2aPeers r))) r.step) =
    (recSrc r.record + ((List.range r.step).map fun i => ((List.range (a2aPeers r)).map (a2aSend r.table (a2aPeers r))).getD i 0).sum) % 2 ^ 64 := by
  rw [wrap_add, prefixSum_eq]

section
variable {s : State} {q n : Nat} {r : EngineRun} {table : Nat}

theorem a2aStatus_bad (bad : A2aBad s q r table) : a2aStatus s q r table = some 1 := by
  unfold a2aStatus
  dsimp only
  rcases bad with ⟨k, hk, reserved⟩ | place
  · exact if_pos (List.any_eq_true.mpr ⟨k, hk, by simpa using reserved⟩)
  · rw [if_pos place, ite_self]

theorem a2aStatus_of_good (good : ¬ A2aBad s q r table) : a2aStatus s q r table =
    if (List.range (a2aPeers r)).any fun k => a2aSend table (a2aPeers r) k % 16 != 0 then some 3 else none := by
  obtain ⟨fields, place⟩ := not_or.mp good
  unfold a2aStatus
  dsimp only
  rw [if_neg, if_neg place]
  simpa only [List.any_eq_true, bne_iff_ne] using fields

theorem a2aStatus_unaligned (good : ¬ A2aBad s q r table) {k : Nat} (hk : k ∈ List.range (a2aPeers r)) (odd : a2aSend table (a2aPeers r) k % 16 ≠ 0) :
    a2aStatus s q r table = some 3 := by
  rw [a2aStatus_of_good good]
  exact if_pos (List.any_eq_true.mpr ⟨k, hk, by simpa using odd⟩)

theorem a2aStatus_good (good : ¬ A2aBad s q r table) (even : ∀ k ∈ List.range (a2aPeers r), a2aSend table (a2aPeers r) k % 16 = 0) :
    a2aStatus s q r table = none := by
  rw [a2aStatus_of_good good]
  refine if_neg fun any => ?_
  obtain ⟨k, hk, odd⟩ := List.any_eq_true.mp any
  exact bne_iff_ne.mp odd (even k hk)

theorem allToAllMove_job {j : Job} (job : r.job = some j) : allToAllMove q s n r = s.jobMove q n false r j := by
  simp only [allToAllMove, job]

section
variable (job : r.job = none)
include job

theorem allToAll_reads (phase : r.phase = 0) : allToAllMove q s n r = s.gather q r (recAux r.record) (16 * a2aPeers r) 256 1 := by
  simp only [allToAllMove, job, phase]

/-! ### Counts (phases 1, 2 and 3) -/

theorem allToAll_ends {st : Nat} (phase : r.phase = 1) (bad : a2aStatus s q r r.data = some st) : allToAllMove q s n r = s.endWith q r st := by
  simp only [allToAllMove, job, phase, bad]

theorem allToAll_counts (phase : r.phase = 1) (good : a2aStatus s q r r.data = none) : allToAllMove q s n r =
    ((otherRanks r).foldl (fun s k => s.sendRank q { r with table := r.data, data := 0, pos := 0, phase := 2 } k (.count (a2aSend r.data (a2aPeers r) k))) s).setRun q
      { r with table := r.data, data := 0, pos := 0, phase := 2 } := by
  simp only [allToAllMove, job, phase, good]
  rfl

/-- The counts sent to the other ranks (R306). -/
theorem allToAll_sends_counts (phase : r.phase = 1) (good : a2aStatus s q r r.data = none) :
    (allToAllMove q s n r).mem = s.mem ∧ (allToAllMove q s n r).tiles = s.tiles ∧ (allToAllMove q s n r).accesses = s.accesses ∧
    (allToAllMove q s n r).messages = s.messages ++ ((otherRanks r).filter fun k => a2aModule r.data k == s.moduleIndex).map
      (fun k => (a2aEngine r.data k, peerMsg s q (a2aGen r) (.count (a2aSend r.data (a2aPeers r) k)))) ∧
    (allToAllMove q s n r).peerOut = s.peerOut ++ ((otherRanks r).filter fun k => a2aModule r.data k != s.moduleIndex).map
      (fun k => (a2aModule r.data k, a2aEngine r.data k, peerMsg s q (a2aGen r) (.count (a2aSend r.data (a2aPeers r) k)))) ∧
    ∀ c cs, (s.cmdQueue q).commands = c :: cs →
      ((allToAllMove q s n r).cmdQueue q).commands = { c with run := some { r with table := r.data, data := 0, pos := 0, phase := 2 } } :: cs := by
  rw [allToAll_counts job phase good, sendRank_foldl]
  exact setRun_of_sent ..

theorem allToAll_awaits_counts (phase : r.phase = 2) {k : Nat} (hk : k ∈ otherRanks r)
    (missing : ∀ m ∈ (s.cmdQueue q).inbox, fromRank r k m = true → ∀ x, m.body ≠ .count x) : allToAllMove q s n r = s := by
  simp only [allToAllMove, job, phase]
  rw [takeFrom_eq_none hk]
  intro m hm from'
  have body := missing m hm from'
  cases said : m.body with
  | count x => exact absurd said (body x)
  | block | written | ready | chunk => rfl

theorem allToAll_takes_count (phase : r.phase = 2) {k x : Nat} {m : PeerMsg} (others : otherRanks r = [k]) (inbox : (s.cmdQueue q).inbox = [m])
    (from' : fromRank r k m = true) (body : m.body = .count x) : Takes s q [] { r with
      phase := 3, counts := (List.range (a2aPeers r)).map fun j => if j = a2aRank r then a2aSend r.table (a2aPeers r) j else x } (allToAllMove q s n r) := by
  have counts : ((List.range (a2aPeers r)).map fun j => if j = a2aRank r then a2aSend r.table (a2aPeers r) j else x) =
      (List.range (a2aPeers r)).map fun j => if j = a2aRank r then a2aSend r.table (a2aPeers r) j else
        (([(k, x)].find? fun y => y.1 == j).map (·.2)).getD 0 := by
    refine List.map_congr_left fun j hj => ?_
    by_cases own : j = a2aRank r
    · rw [if_pos own, if_pos own]
    · have other : j ∈ otherRanks r := List.mem_filter.mpr ⟨hj, bne_iff_ne.mpr own⟩
      rw [others, List.mem_singleton] at other
      subst other
      simp only [own, ↓reduceIte, List.find?_singleton, beq_self_eq_true, Option.map_some, Option.getD_some]
  rw [counts]
  simp only [allToAllMove, job, phase]
  rw [others, inbox, takeFrom_one from' (by rw [body])]
  exact takes_setInbox ..

theorem allToAll_writes_counts (phase : r.phase = 3) : allToAllMove q s n r =
    s.engineWrite q n false { r with phase := 4, step := 0 } ((recAux r.record + 16 * a2aPeers r) % 2 ^ 64) (16 * a2aPeers r)
      (packNat 64 (r.counts ++ (List.range r.counts.length).map fun k => ((List.range k).map fun i => r.counts.getD i 0).sum)) := by
  have received : a2aReceived r.counts =
      packNat 64 (r.counts ++ (List.range r.counts.length).map fun k => ((List.range k).map fun i => r.counts.getD i 0).sum) := by
    rw [a2aReceived]
    congr 2
    exact List.map_congr_left fun k _ => prefixSum_eq r.counts k
  have place : wrap 64 ((recAux r.record : Int) + 16 * a2aPeers r) = (recAux r.record + 16 * a2aPeers r) % 2 ^ 64 := by
    rw [← wrap_add]
    norm_cast
  simp only [allToAllMove, job, phase, received, place]

/-! ### Blocks out (phases 4 and 8) -/

theorem allToAll_sent (phase : r.phase = 4) (last : a2aPeers r ≤ r.step) : allToAllMove q s n r = s.setRun q { r with phase := 5, step := 0 } := by
  simp only [allToAllMove, job, phase, a2aSendMove, last, ↓reduceIte]

theorem allToAll_sends_nothing (phase : r.phase = 4) (more : r.step < a2aPeers r) (empty : a2aSend r.table (a2aPeers r) r.step = 0) :
    allToAllMove q s n r = s.setRun q { r with step := r.step + 1 } := by
  simp only [allToAllMove, job, phase, a2aSendMove, show ¬ a2aPeers r ≤ r.step by omega, ↓reduceIte, sends_getD r more, empty]

theorem allToAll_copies (phase : r.phase = 4) (more : r.step < a2aPeers r) (some' : a2aSend r.table (a2aPeers r) r.step ≠ 0) (own : r.step = a2aRank r) :
    allToAllMove q s n r = s.setRun q { r with
      step := r.step + 1,
      job := some (mkJob none (.mem ((recSrc r.record + ((List.range r.step).map fun i => ((List.range (a2aPeers r)).map (a2aSend r.table (a2aPeers r))).getD i 0).sum) % 2 ^ 64))
        (.val 0) ((recDst r.record + ((List.range r.step).map fun i => r.counts.getD i 0).sum) % 2 ^ 64) (a2aSend r.table (a2aPeers r) r.step) 4) } := by
  rw [← sendPlace_eq, ← prefixSum_eq, ← wrap_add]
  simp only [allToAllMove, job, phase, a2aSendMove, show ¬ a2aPeers r ≤ r.step by omega, ↓reduceIte, sends_getD r more, some', if_pos own]

theorem allToAll_gathers (phase : r.phase = 4) (more : r.step < a2aPeers r) (some' : a2aSend r.table (a2aPeers r) r.step ≠ 0) (other : r.step ≠ a2aRank r) :
    allToAllMove q s n r = s.gather q r ((recSrc r.record + ((List.range r.step).map fun i => ((List.range (a2aPeers r)).map (a2aSend r.table (a2aPeers r))).getD i 0).sum) % 2 ^ 64)
      (a2aSend r.table (a2aPeers r) r.step) 256 8 := by
  rw [← sendPlace_eq]
  simp only [allToAllMove, job, phase, a2aSendMove, show ¬ a2aPeers r ≤ r.step by omega, ↓reduceIte, sends_getD r more, some', other]

theorem allToAll_sends_block (phase : r.phase = 8) : allToAllMove q s n r = (s.sendRank q r r.step (.block r.data)).setRun q
    { r with phase := 4, step := r.step + 1, data := 0, pos := 0 } := by
  simp only [allToAllMove, job, phase]

/-! ### Blocks in (phases 5 and 7) -/

omit job

/-- The ranks whose blocks have not come. -/
def a2aDue (r : EngineRun) : List Nat := (otherRanks r).filter fun k => r.counts.getD k 0 != 0 && !r.fence.contains k

/-- The rank and the bytes of a message that is a block awaited. -/
def a2aBlock (r : EngineRun) (due : List Nat) (m : PeerMsg) : Option (Nat × Nat) :=
  match m.body with
  | .block data => (due.find? fun k => fromRank r k m).map fun k => (k, data)
  | _ => none

theorem a2aReceiveMove_eq (s : State) (q : Nat) (r : EngineRun) : a2aReceiveMove s q r =
    if (a2aDue r).isEmpty then s.setRun q { r with phase := 6 }
    else match takeFirst (fun m => (a2aBlock r (a2aDue r) m).isSome) (s.cmdQueue q).inbox with
      | none => s
      | some (m, rest) => (s.setInbox q rest).setRun q { r with
          fence := ((a2aBlock r (a2aDue r) m).getD (0, 0)).1 :: r.fence, peer := ((a2aBlock r (a2aDue r) m).getD (0, 0)).1,
          job := some (mkJob none (.val ((a2aBlock r (a2aDue r) m).getD (0, 0)).2) (.val 0)
            (wrap 64 ((recDst r.record : Int) + prefixSum r.counts ((a2aBlock r (a2aDue r) m).getD (0, 0)).1))
            (r.counts.getD ((a2aBlock r (a2aDue r) m).getD (0, 0)).1 0) 7) } := rfl

include job

theorem allToAll_received (phase : r.phase = 5) (all : a2aDue r = []) : allToAllMove q s n r = s.setRun q { r with phase := 6 } := by
  simp only [allToAllMove, job, phase, a2aReceiveMove_eq, all, List.isEmpty_nil, ↓reduceIte]

theorem allToAll_awaits_block (phase : r.phase = 5) (due : a2aDue r ≠ [])
    (missing : ∀ m ∈ (s.cmdQueue q).inbox, ∀ k ∈ a2aDue r, fromRank r k m = true → ∀ x, m.body ≠ .block x) : allToAllMove q s n r = s := by
  have none' (m : PeerMsg) (hm : m ∈ (s.cmdQueue q).inbox) : (a2aBlock r (a2aDue r) m).isSome = false := by
    unfold a2aBlock
    cases body : m.body with
    | block x =>
      dsimp only
      rw [List.find?_eq_none.mpr fun k hk from' => missing m hm k hk from' x body]
      rfl
    | count | written | ready | chunk => rfl
  simp only [allToAllMove, job, phase, a2aReceiveMove_eq, List.isEmpty_iff, due, ↓reduceIte]
  rw [takeFirst_eq_none none']

theorem allToAll_takes_block (phase : r.phase = 5) {m : PeerMsg} {rest : List PeerMsg} {k x : Nat} (due : a2aDue r = [k])
    (inbox : (s.cmdQueue q).inbox = m :: rest) (from' : fromRank r k m = true) (body : m.body = .block x) : Takes s q rest { r with
      fence := k :: r.fence, peer := k,
      job := some (mkJob none (.val x) (.val 0) ((recDst r.record + ((List.range k).map fun i => r.counts.getD i 0).sum) % 2 ^ 64) (r.counts.getD k 0) 7) }
      (allToAllMove q s n r) := by
  have block : a2aBlock r [k] m = some (k, x) := by
    simp only [a2aBlock, body, List.find?_singleton, from', ↓reduceIte, Option.map_some]
  simp only [allToAllMove, job, phase, a2aReceiveMove_eq, due, List.isEmpty_cons, Bool.false_eq_true, ↓reduceIte, inbox]
  rw [takeFirst_cons (by rw [block]; rfl)]
  simp only [block, Option.getD_some, wrap_add, prefixSum_eq]
  exact takes_setInbox ..

theorem allToAll_acknowledges (phase : r.phase = 7) : allToAllMove q s n r = (s.sendRank q r r.peer .written).setRun q { r with phase := 5 } := by
  simp only [allToAllMove, job, phase]

/-! ### The end (phase 6) -/

theorem allToAll_awaits_written (phase : r.phase = 6) {k : Nat} (hk : k ∈ otherRanks r) (sent : a2aSend r.table (a2aPeers r) k ≠ 0)
    (missing : ∀ m ∈ (s.cmdQueue q).inbox, fromRank r k m = true → m.body ≠ .written) : allToAllMove q s n r = s := by
  have served : k ∈ (otherRanks r).filter fun k => a2aSend r.table (a2aPeers r) k != 0 := List.mem_filter.mpr ⟨hk, by simpa using sent⟩
  simp only [allToAllMove, job, phase]
  rw [takeFrom_eq_none served]
  intro m hm from'
  have body := missing m hm from'
  cases said : m.body with
  | written => exact absurd said body
  | block | count | ready | chunk => rfl

theorem allToAll_ends_alone (phase : r.phase = 6) (nothing : ∀ k ∈ otherRanks r, a2aSend r.table (a2aPeers r) k = 0) :
    allToAllMove q s n r = (s.setInbox q (s.cmdQueue q).inbox).endWith q r 0 := by
  have empty : ((otherRanks r).filter fun k => a2aSend r.table (a2aPeers r) k != 0) = [] :=
    List.filter_eq_nil_iff.mpr fun k hk => by simpa using nothing k hk
  simp only [allToAllMove, job, phase, empty, takeFrom]

theorem allToAll_takes_written (phase : r.phase = 6) {k : Nat} {m : PeerMsg} {rest : List PeerMsg}
    (served : ((otherRanks r).filter fun k => a2aSend r.table (a2aPeers r) k != 0) = [k]) (inbox : (s.cmdQueue q).inbox = m :: rest)
    (from' : fromRank r k m = true) (body : m.body = .written) :
    Takes s q rest { r with status := some 0, reading := none, job := none } (allToAllMove q s n r) := by
  have eq : allToAllMove q s n r = (s.setInbox q rest).endWith q r 0 := by
    simp only [allToAllMove, job, phase]
    rw [served, inbox, takeFrom_one from' (n := 0) (by rw [body])]
  rw [eq]
  exact takes_setInbox ..

end

end

end Sys2Proof.Machine
end

section
/-! SUPPORT. The replay of a graph, phase by phase, and the status of a step (R307; O37). -/

namespace Sys2Proof.Machine

open Sys2Proof

/-! ### Headers and steps -/

theorem headerStatus_reserved {h : Nat} (reserved : h / 2 ^ 16 % 2 ^ 48 ≠ 0 ∨ h / 2 ^ 192 % 2 ^ 320 ≠ 0) : headerStatus h = some 2 := if_pos reserved

theorem headerStatus_eq {h : Nat} (low : h / 2 ^ 16 % 2 ^ 48 = 0) (high : h / 2 ^ 192 % 2 ^ 320 = 0) :
    headerStatus h = if h % 2 ^ 16 < 1 ∨ 4096 < h % 2 ^ 16 then some 3 else none := by
  have unset : ¬ (bits h 16 48 ≠ 0 ∨ bits h 192 320 ≠ 0) := not_or.mpr ⟨not_not.mpr low, not_not.mpr high⟩
  rw [headerStatus, if_neg unset, graphSteps, bits_eq_mod]

/-- A step's operation is outside the table of R304. -/
def stepUnlisted (x : Nat) : Bool :=
  (stepKind x == 2 || stepKind x == 5) && !(match stepTy x with | some ty => reducePair (stepOp x) ty | none => false)

/-- A reserved or unused field of a step is not zero. -/
def stepReserved (x : Nat) : Bool :=
  bits x 12 4 != 0 || bits x 59 5 != 0 || bits x 232 24 != 0 || (!(stepKind x == 2 || stepKind x == 5) && bits x 4 8 != 0) ||
    (decide (stepKind x ≤ 2) && bits x 32 27 != 0)

/-- A chunk of a step is not aligned, or passes its span. -/
def stepOutside (h x : Nat) : Bool :=
  stepSrc x % 16 != 0 || stepDst x % 16 != 0 || stepLen x % 16 != 0 ||
    ((stepKind x == 1 || stepKind x == 2 || stepKind x == 3) && passesSpan (graphSrcSpan h) (stepSrc x) (stepLen x)) ||
    (stepKind x != 3 && passesSpan (graphDstSpan h) (stepDst x) (stepLen x))

theorem stepStatus_eq (h x : Nat) : stepStatus h x =
    if stepKind x = 0 ∨ 5 < stepKind x then some 1 else if stepUnlisted x then some 1 else if stepReserved x then some 2
    else if stepOutside h x then some 3 else none := rfl

theorem stepKind_eq (x : Nat) : stepKind x = x % 16 := bits_eq_mod x 4

theorem stepUnlisted_iff (x : Nat) : stepUnlisted x = true ↔
    (x % 16 = 2 ∨ x % 16 = 5) ∧ ∀ ty, Ty.ofCode (x / 2 ^ 8 % 16) = some ty → reducePair (x / 2 ^ 4 % 16) ty = false := by
  have op : stepOp x = x / 2 ^ 4 % 16 := rfl
  have ty : stepTy x = Ty.ofCode (x / 2 ^ 8 % 16) := rfl
  rw [stepUnlisted, stepKind_eq, op, ty]
  cases Ty.ofCode (x / 2 ^ 8 % 16) with
  | none => simp
  | some ty => simp

theorem stepStatus_one_iff (h x : Nat) : stepStatus h x = some 1 ↔
    x % 16 = 0 ∨ 5 < x % 16 ∨ ((x % 16 = 2 ∨ x % 16 = 5) ∧ ∀ ty, Ty.ofCode (x / 2 ^ 8 % 16) = some ty → reducePair (x / 2 ^ 4 % 16) ty = false) := by
  rw [← stepUnlisted_iff, ← or_assoc, stepStatus_eq, stepKind_eq]
  by_cases kind : x % 16 = 0 ∨ 5 < x % 16
  · simp only [kind, ↓reduceIte, true_or]
  · cases listed : stepUnlisted x
    · simp only [kind, ↓reduceIte, Bool.false_eq_true, or_false, iff_false]
      cases stepReserved x <;> cases stepOutside h x <;> simp
    · simp only [kind, ↓reduceIte, or_true]

theorem passesSpan_eq_false {span off len : Nat} : passesSpan span off len = false ↔ off < span ∧ off + len ≤ span := by
  simp [passesSpan]

theorem mod_two_pow_mod_16 (x : Nat) {n : Nat} (h : 4 ≤ n) : x % 2 ^ n % 16 = x % 16 :=
  Nat.mod_mod_of_dvd x (Nat.pow_dvd_pow 2 h)

theorem stepStatus_none {h x : Nat} (fine : stepStatus h x = none) : (1 ≤ x % 16 ∧ x % 16 ≤ 5) ∧
    x / 2 ^ 64 % 16 = 0 ∧ x / 2 ^ 128 % 16 = 0 ∧ x / 2 ^ 192 % 16 = 0 ∧
    (x % 16 ≤ 3 → x / 2 ^ 64 % 2 ^ 64 < h / 2 ^ 64 % 2 ^ 64 ∧ x / 2 ^ 64 % 2 ^ 64 + x / 2 ^ 192 % 2 ^ 40 ≤ h / 2 ^ 64 % 2 ^ 64) ∧
    (x % 16 ≠ 3 → x / 2 ^ 128 % 2 ^ 64 < h / 2 ^ 128 % 2 ^ 64 ∧ x / 2 ^ 128 % 2 ^ 64 + x / 2 ^ 192 % 2 ^ 40 ≤ h / 2 ^ 128 % 2 ^ 64) := by
  rw [stepStatus_eq, stepKind_eq] at fine
  split_ifs at fine with kind listed reserved outside
  rw [Bool.not_eq_true, stepOutside, stepKind_eq] at outside
  simp only [Bool.or_eq_false_iff, Bool.and_eq_false_iff, bne_eq_false_iff_eq, beq_eq_false_iff_ne, passesSpan_eq_false] at outside
  obtain ⟨⟨⟨⟨src, dst⟩, len⟩, usesSrc⟩, usesDst⟩ := outside
  refine ⟨by omega, ?_, ?_, ?_, fun kind => ?_, fun kind => ?_⟩
  · exact (mod_two_pow_mod_16 _ (by omega)).symm.trans src
  · exact (mod_two_pow_mod_16 _ (by omega)).symm.trans dst
  · exact (mod_two_pow_mod_16 _ (by omega)).symm.trans len
  · exact usesSrc.resolve_left (by omega)
  · exact usesDst.resolve_left kind

/-! ### Phases -/

/-- The chunk of a step in SRC, and in DST (R307). -/
theorem srcChunk_eq (r : EngineRun) : srcChunk r = (recSrc r.record + r.item / 2 ^ 64 % 2 ^ 64) % 2 ^ 64 := wrap_add ..

theorem dstChunk_eq (r : EngineRun) : dstChunk r = (recDst r.record + r.item / 2 ^ 128 % 2 ^ 64) % 2 ^ 64 := wrap_add ..

section
variable {s : State} {q n : Nat} {r : EngineRun}

theorem replayMove_job {j : Job} (job : r.job = some j) : replayMove q s n r = s.jobMove q n false r j := by
  simp only [replayMove, job]

section
variable (job : r.job = none)
include job

theorem replay_reads (phase : r.phase = 0) : replayMove q s n r = s.gather q r (recAux r.record) 64 64 7 := by
  simp only [replayMove, job, phase]

theorem replay_header_ends {st : Nat} (phase : r.phase = 7) (bad : headerStatus r.data = some st) : replayMove q s n r = s.endWith q r st := by
  simp only [replayMove, job, phase, bad]

theorem replay_header (phase : r.phase = 7) (good : headerStatus r.data = none) :
    replayMove q s n r = s.setRun q { r with table := r.data, data := 0, pos := 0, phase := 1, step := 0 } := by
  simp only [replayMove, job, phase, good]

theorem replay_last (phase : r.phase = 1) (last : r.table % 2 ^ 16 ≤ r.step) : replayMove q s n r = s.endWith q r 0 := by
  rw [← bits_eq_mod] at last
  simp only [replayMove, job, phase, graphSteps, last, ↓reduceIte]

theorem replay_reads_step (phase : r.phase = 1) (more : r.step < r.table % 2 ^ 16) :
    replayMove q s n r = s.gather q r ((recAux r.record + 64 + 32 * r.step) % 2 ^ 64) 32 32 8 := by
  have place : wrap 64 ((recAux r.record : Int) + 64 + 32 * r.step) = (recAux r.record + 64 + 32 * r.step) % 2 ^ 64 := by
    rw [← wrap_add]
    norm_cast
  rw [← bits_eq_mod] at more
  simp only [replayMove, job, phase, graphSteps, Nat.not_le.mpr more, ↓reduceIte, place]

theorem replay_step_read (phase : r.phase = 8) : replayMove q s n r = s.setRun q { r with item := r.data, data := 0, pos := 0, phase := 2 } := by
  simp only [replayMove, job, phase]

theorem replay_step_ends {st : Nat} (phase : r.phase = 2) (bad : stepStatus r.table r.item = some st) : replayMove q s n r = s.endWith q r st := by
  simp only [replayMove, job, phase, graphStep, bad]


/-! ### Steps that start (phase 2) -/

theorem replay_copies (phase : r.phase = 2) (fine : stepStatus r.table r.item = none) (kind : stepKind r.item = 1) :
    replayMove q s n r = s.setRun q { r with job := some (mkJob none (.mem (srcChunk r)) (.val 0) (dstChunk r) (stepLen r.item) 6) } := by
  simp only [replayMove, job, phase, graphStep, fine, kind]

theorem replay_reduces (phase : r.phase = 2) (fine : stepStatus r.table r.item = none) (kind : stepKind r.item = 2) : replayMove q s n r =
    s.setRun q { r with job := some (mkJob (some (stepOp r.item, (stepTy r.item).getD .none)) (.mem (dstChunk r)) (.mem (srcChunk r)) (dstChunk r) (stepLen r.item) 6) } := by
  simp only [replayMove, job, phase, graphStep, fine, kind]

theorem replay_awaits_ready (phase : r.phase = 2) (fine : stepStatus r.table r.item = none) (kind : stepKind r.item = 3)
    (missing : ∀ m ∈ (s.cmdQueue q).inbox, fromPeer r m = true → m.body ≠ .ready (stepTag r.item)) : replayMove q s n r = s := by
  simp only [replayMove, job, phase, graphStep, fine, kind]
  rw [takeFirst_eq_none]
  intro m hm
  rw [Bool.and_eq_false_imp]
  exact fun from' => beq_eq_false_iff_ne.mpr (missing m hm from')

theorem replay_takes_ready (phase : r.phase = 2) (fine : stepStatus r.table r.item = none) (kind : stepKind r.item = 3) {m : PeerMsg} {rest : List PeerMsg}
    (inbox : (s.cmdQueue q).inbox = m :: rest) (from' : fromPeer r m = true) (body : m.body = .ready (stepTag r.item)) :
    Takes s q rest { r with phase := 3 } (replayMove q s n r) := by
  simp only [replayMove, job, phase, graphStep, fine, kind]
  rw [inbox, takeFirst_cons (by rw [from', body, beq_self_eq_true]; rfl)]
  exact takes_setInbox ..

theorem replay_is_ready (phase : r.phase = 2) (fine : stepStatus r.table r.item = none) (kind : 4 ≤ stepKind r.item) : replayMove q s n r =
    (s.sendPeer q (stepModule r.item) (stepEngine r.item) (graphGen r) (.ready (stepTag r.item))).setRun q { r with phase := 5 } := by
  obtain ⟨⟨-, most⟩, -⟩ := stepStatus_none fine
  rw [← stepKind_eq] at most
  have cases' : stepKind r.item = 4 ∨ stepKind r.item = 5 := by omega
  rcases cases' with kind | kind
  all_goals simp only [replayMove, job, phase, graphStep, fine, kind]

/-! ### Chunks (phases 3 to 6) -/

theorem replay_reads_chunk (phase : r.phase = 3) : replayMove q s n r = s.gather q r (srcChunk r) (stepLen r.item) 256 4 := by
  simp only [replayMove, job, phase]

theorem replay_sends_chunk (phase : r.phase = 4) : replayMove q s n r =
    (s.sendPeer q (stepModule r.item) (stepEngine r.item) (graphGen r) (.chunk (stepTag r.item) (stepLen r.item) r.data)).setRun q (nextStep r) := by
  simp only [replayMove, job, phase]

theorem replay_step_done (phase : r.phase = 6) : replayMove q s n r = s.setRun q (nextStep r) := by
  simp only [replayMove, job, phase]

omit job

/-- The length and the bytes of a message that is the chunk awaited. -/
def graphChunk (r : EngineRun) (m : PeerMsg) : Option (Nat × Nat) :=
  match m.body with
  | .chunk tag len data => if fromPeer r m && tag == stepTag r.item then some (len, data) else none
  | _ => none

/-- The job that stores a chunk received, or combines it with what is there. -/
def chunkJob (r : EngineRun) (data : Nat) : Job :=
  mkJob (if stepKind r.item = 5 then some (stepOp r.item, (stepTy r.item).getD .none) else none) (if stepKind r.item = 5 then .mem (dstChunk r) else .val data)
    (.val data) (dstChunk r) (stepLen r.item) 6

theorem graphReceive_eq (s : State) (q : Nat) (r : EngineRun) : graphReceive s q r =
    match takeFirst (fun m => (graphChunk r m).isSome) (s.cmdQueue q).inbox with
    | none => s
    | some (m, box) =>
      if ((graphChunk r m).getD (0, 0)).1 ≠ stepLen r.item then (s.setInbox q box).endWith q r 3
      else (s.setInbox q box).setRun q { r with job := some (chunkJob r ((graphChunk r m).getD (0, 0)).2) } := rfl

include job

theorem replay_awaits_chunk (phase : r.phase = 5)
    (missing : ∀ m ∈ (s.cmdQueue q).inbox, fromPeer r m = true → ∀ k y, m.body ≠ .chunk (stepTag r.item) k y) : replayMove q s n r = s := by
  have none' (m : PeerMsg) (hm : m ∈ (s.cmdQueue q).inbox) : (graphChunk r m).isSome = false := by
    unfold graphChunk
    cases body : m.body with
    | chunk tag k y =>
      dsimp only
      rw [if_neg]
      · rfl
      · rw [Bool.and_eq_true, beq_iff_eq]
        rintro ⟨from', rfl⟩
        exact missing m hm from' k y body
    | count | written | ready | block => rfl
  simp only [replayMove, job, phase, graphReceive_eq]
  rw [takeFirst_eq_none none']

omit job in
theorem graphReceive_takes {m : PeerMsg} {rest : List PeerMsg} {k y : Nat} (inbox : (s.cmdQueue q).inbox = m :: rest)
    (from' : fromPeer r m = true) (body : m.body = .chunk (stepTag r.item) k y) : graphReceive s q r =
      if k ≠ stepLen r.item then (s.setInbox q rest).endWith q r 3 else (s.setInbox q rest).setRun q { r with job := some (chunkJob r y) } := by
  have chunk : graphChunk r m = some (k, y) := by
    simp only [graphChunk, body, from', beq_self_eq_true, Bool.and_self, ↓reduceIte]
  rw [graphReceive_eq, inbox, takeFirst_cons (by rw [chunk]; rfl)]
  simp only [chunk, Option.getD_some]

theorem replayMove_receives (phase : r.phase = 5) : replayMove q s n r = graphReceive s q r := by
  simp only [replayMove, job, phase]

theorem replay_takes_short (phase : r.phase = 5) {m : PeerMsg} {rest : List PeerMsg} {k y : Nat} (inbox : (s.cmdQueue q).inbox = m :: rest)
    (from' : fromPeer r m = true) (body : m.body = .chunk (stepTag r.item) k y) (short : k ≠ stepLen r.item) :
    Takes s q rest { r with status := some 3, reading := none, job := none } (replayMove q s n r) := by
  rw [replayMove_receives job phase, graphReceive_takes inbox from' body, if_pos short]
  exact takes_setInbox ..

theorem replay_takes_chunk (phase : r.phase = 5) {m : PeerMsg} {rest : List PeerMsg} {y : Nat} (inbox : (s.cmdQueue q).inbox = m :: rest)
    (from' : fromPeer r m = true) (body : m.body = .chunk (stepTag r.item) (stepLen r.item) y) :
    Takes s q rest { r with job := some (chunkJob r y) } (replayMove q s n r) := by
  rw [replayMove_receives job phase, graphReceive_takes inbox from' body, if_neg (not_not.mpr rfl)]
  exact takes_setInbox ..

end

end

end Sys2Proof.Machine
end

section
/-! SUPPORT. What a block of a job writes, and the combination of two elements (R218, R304; O37). -/

namespace Sys2Proof.Machine

open Sys2Proof

/-! ### Blocks (R304) -/

theorem out_copy {j : Job} {n read va : Nat} (op : j.op = none) (a : j.a = .mem va) (hn : n ≤ 256) : j.out n read = read % 2 ^ (8 * n) := by
  simp only [Job.out, op, a, Bytes'.block, bits_eq_mod]
  exact Nat.mod_mod_of_dvd _ (Nat.pow_dvd_pow 2 (by omega))

theorem out_value {j : Job} {n read x : Nat} (op : j.op = none) (a : j.a = .val x) : j.out n read = x / 2 ^ (8 * j.pos) % 2 ^ (8 * n) := by
  simp only [Job.out, op, a, Bytes'.block, bits_eq_mod]
  exact Nat.mod_mod ..

theorem out_combined {j : Job} {n read op a : Nat} {ty : Ty} (jop : j.op = some (op, ty)) (ja : j.a = .mem a) :
    j.out n read = reduceBytes op ty n (read % 2 ^ 2048) (match j.b with
      | .mem _ => read / 2 ^ 2048
      | .val y => y / 2 ^ (8 * j.pos) % 2 ^ (8 * n)) := by
  simp only [Job.out, jop, ja, Bytes'.block, bits_eq_mod]
  cases j.b <;> rfl

theorem reduceBytes_lane (op : Nat) (ty : Ty) {n k : Nat} (a b : Nat) (hk : k < 8 * n / ty.width) :
    reduceBytes op ty n a b / 2 ^ (ty.width * k) % 2 ^ ty.width =
      reduceElement op ty (a / 2 ^ (ty.width * k) % 2 ^ ty.width) (b / 2 ^ (ty.width * k) % 2 ^ ty.width) % 2 ^ ty.width := by
  rw [reduceBytes, packNat_lane, List.getD_eq_getElem?_getD, List.getElem?_map, List.getElem?_range hk]
  rfl

/-! ### Elements (R304) -/

theorem wrap_intOf {sg : Bool} {w x : Nat} (h : x < 2 ^ w) : wrap w (intOf sg w x) = x := by
  have self : wrap w x = x := by
    rw [wrap]
    norm_cast
    exact Nat.mod_eq_of_lt h
  cases sg with
  | false => exact self
  | true =>
    rw [intOf, if_pos rfl, sgn]
    split
    · exact self
    · rw [wrap, Int.sub_emod_right]
      exact self

theorem intOf_wrap_min {sg : Bool} {w a b : Nat} (ha : a < 2 ^ w) (hb : b < 2 ^ w) :
    intOf sg w (wrap w (min (intOf sg w a) (intOf sg w b))) = min (intOf sg w a) (intOf sg w b) := by
  rcases min_choice (intOf sg w a) (intOf sg w b) with eq | eq
  · rw [eq, wrap_intOf ha]
  · rw [eq, wrap_intOf hb]

theorem intOf_wrap_max {sg : Bool} {w a b : Nat} (ha : a < 2 ^ w) (hb : b < 2 ^ w) :
    intOf sg w (wrap w (max (intOf sg w a) (intOf sg w b))) = max (intOf sg w a) (intOf sg w b) := by
  rcases max_choice (intOf sg w a) (intOf sg w b) with eq | eq
  · rw [eq, wrap_intOf ha]
  · rw [eq, wrap_intOf hb]

theorem reduceElement_int {ty : Ty} (int : ty.isFloat = false) {a b : Nat} (ha : a < 2 ^ ty.width) (hb : b < 2 ^ ty.width) :
    reduceElement 1 ty a b = (a + b) % 2 ^ ty.width ∧ reduceElement 4 ty a b = a &&& b ∧ reduceElement 5 ty a b = a ||| b ∧ reduceElement 6 ty a b = a ^^^ b ∧
    intOf ty.signed ty.width (reduceElement 2 ty a b) = min (intOf ty.signed ty.width a) (intOf ty.signed ty.width b) ∧
    intOf ty.signed ty.width (reduceElement 3 ty a b) = max (intOf ty.signed ty.width a) (intOf ty.signed ty.width b) := by
  refine ⟨?_, rfl, rfl, rfl, ?_, ?_⟩
  · rw [reduceElement, int]
    exact wrap_add a b
  · rw [reduceElement, int]
    exact intOf_wrap_min ha hb
  · rw [reduceElement, int]
    exact intOf_wrap_max ha hb

theorem reduceElement_float {ty : Ty} (float : ty.isFloat = true) (a b : Nat) : reduceElement 1 ty a b = ((Fmt.ofTy ty).add a b).bits ∧
    reduceElement 2 ty a b = ((Fmt.ofTy ty).minmax false a b).bits ∧ reduceElement 3 ty a b = ((Fmt.ofTy ty).minmax true a b).bits :=
  ⟨if_pos float, if_pos float, if_pos float⟩

theorem reducePair_iff (op : Nat) (ty : Ty) : reducePair op ty = true ↔
    (op = 7 ∧ ty = .z64) ∨ (1 ≤ op ∧ op ≤ 3 ∧ ty ∈ [Ty.f32, .bf16, .f16, .s32, .z32, .s64, .z64]) ∨ (4 ≤ op ∧ op ≤ 6 ∧ ty ∈ [Ty.s32, .z32, .s64, .z64]) := by
  have word : (ty == .s32 || ty == .z32 || ty == .s64 || ty == .z64) = true ↔ ty ∈ [Ty.s32, .z32, .s64, .z64] := by simp [or_assoc]
  have number : (ty == .s32 || ty == .z32 || ty == .s64 || ty == .z64 || ty == .f32 || ty == .bf16 || ty == .f16) = true ↔
      ty ∈ [Ty.f32, .bf16, .f16, .s32, .z32, .s64, .z64] := by
    cases ty <;> decide
  unfold reducePair
  dsimp only
  split_ifs with seven zero three six
  · simp only [seven, beq_iff_eq, true_and, Nat.reduceLeDiff, false_and, and_false, or_false]
  · subst zero
    simp
  · rw [number]
    simp only [seven, false_and, three, show 1 ≤ op by omega, show ¬ 4 ≤ op by omega, true_and, or_false, false_or]
  · rw [word]
    simp only [seven, false_and, three, six, show 4 ≤ op by omega, true_and, and_false, false_or]
  · simp only [seven, three, six, false_and, and_false, or_self]

/-! ### Sampling pairs (R218) -/

/-- The sum of two terms is negative exactly when that of their negatives is positive. -/
theorem exactSum_swap (na nb : Bool) (ma mb : Nat) (ea eb : Int) : (exactSum [(nb, mb, eb), (!na, ma, ea)]).1 = -(exactSum [(na, ma, ea), (!nb, mb, eb)]).1 := by
  simp only [exactSum, List.foldl_cons, List.foldl_nil, List.headD_cons, min_self, min_comm eb ea]
  cases na <;> cases nb
  all_goals
    simp only [Bool.not_true, Bool.not_false, Bool.false_eq_true, ↓reduceIte]
    omega

theorem lt_asymm {a b : FVal} (h : a.lt b = true) : b.lt a = false := by
  match a, b with
  | .inf na, .inf nb =>
    simp only [FVal.lt, Bool.and_eq_true, Bool.not_eq_true'] at h ⊢
    rw [h.1, h.2]
    rfl
  | .inf na, .fin nb mb eb =>
    simp only [FVal.lt] at h ⊢
    rw [h]
    rfl
  | .fin na ma ea, .inf nb =>
    simp only [FVal.lt, Bool.not_eq_true'] at h ⊢
    exact h
  | .fin na ma ea, .fin nb mb eb =>
    simp only [FVal.lt, decide_eq_true_eq, decide_eq_false_iff_not] at h ⊢
    rw [exactSum_swap]
    omega

theorem pairBelow_asymm {a b : Nat} (h : pairBelow a b = true) : pairBelow b a = false := by
  unfold pairBelow at h ⊢
  dsimp only at h ⊢
  by_cases nb : (Fmt.f32.decode b).isNan = true
  · simp only [nb, ↓reduceIte, Bool.false_eq_true] at h
  · by_cases na : (Fmt.f32.decode a).isNan = true
    · rw [if_pos na]
    · rw [if_neg nb, if_neg na] at h
      rw [if_neg na, if_neg nb, lt_asymm h]

theorem pairValue_lt (x : Nat) : pairValue x < 2 ^ 32 := by
  unfold pairValue
  dsimp only
  split_ifs
  · decide
  · decide
  · exact Nat.mod_lt _ (by decide)

theorem gumbelPair_left {x y : Nat} (h : pairBelow (pairValue y) (pairValue x) = true) : gumbelPair x y = pairValue x + x / 2 ^ 32 % 2 ^ 32 * 2 ^ 32 := if_pos h

theorem gumbelPair_right {x y : Nat} (h : pairBelow (pairValue x) (pairValue y) = true) : gumbelPair x y = pairValue y + y / 2 ^ 32 % 2 ^ 32 * 2 ^ 32 := by
  unfold gumbelPair
  dsimp only
  rw [if_neg (by rw [pairBelow_asymm h]; nofun), if_pos h]
  rfl

theorem gumbelPair_tie {x y : Nat} (left : pairBelow (pairValue x) (pairValue y) = false) (right : pairBelow (pairValue y) (pairValue x) = false) :
    gumbelPair x y / 2 ^ 32 % 2 ^ 32 = min (x / 2 ^ 32 % 2 ^ 32) (y / 2 ^ 32 % 2 ^ 32) := by
  have index {v i : Nat} (hv : v < 2 ^ 32) (hi : i < 2 ^ 32) : (v + i * 2 ^ 32) / 2 ^ 32 % 2 ^ 32 = i := by omega
  unfold gumbelPair
  dsimp only
  rw [right, left]
  simp only [Bool.false_eq_true, ↓reduceIte]
  split
  · next below =>
    rw [index (pairValue_lt y) (bits_lt ..)]
    exact (Nat.min_eq_right (Nat.le_of_lt below)).symm
  · next above =>
    rw [index (pairValue_lt x) (bits_lt ..)]
    exact (Nat.min_eq_left (Nat.not_lt.mp above)).symm

end Sys2Proof.Machine
end

section
/-! SUPPORT. The moves of the engines settled (R292, R303-R309; O37). -/

namespace Sys2Proof.Machine

open Sys2Proof

/-- A message of a peer that a step of a graph names, field by field (R307). -/
theorem fromPeer_iff (r : EngineRun) (m : PeerMsg) : fromPeer r m = true ↔
    m.gen = recWord r.record 3 % 2 ^ 32 ∧ m.engine = r.item / 2 ^ 32 % 2 ^ 8 ∧ m.module' = r.item / 2 ^ 40 % 2 ^ 19 := by
  simp only [fromPeer, graphGen, stepEngine, stepModule, bits_eq_mod, Bool.and_eq_true, beq_iff_eq, and_assoc]
  rfl

theorem peerMessage_takes_first {s : State} {q : Nat} {m : PeerMsg} {rest : List (Nat × PeerMsg)} (hq : q < 256) (messages : s.messages = (q, m) :: rest) :
    exec (.enginePeerMessage q none) s = .next ({ s with messages := rest }.hold q m) := by
  rw [exec_peerMessage_within hq, messages, takeFirst_cons (p := fun x : Nat × PeerMsg => x.1 == q) (beq_self_eq_true q)]

theorem peerMessage_none {s : State} {q : Nat} (hq : q < 256) (away : ∀ x ∈ s.messages, x.1 ≠ q) : exec (.enginePeerMessage q none) s = .next s := by
  rw [exec_peerMessage_within hq, takeFirst_eq_none fun x hx => beq_eq_false_iff_ne.mpr (away x hx)]

/-- Settles O37, command by command and phase by phase. -/
theorem enginesMove : Obligations.EnginesMove := by
  unfold Obligations.EnginesMove
  refine ⟨⟨moveSpec_copy, moveSpec_reduce, moveSpec_zero, moveSpec_nearCopy, fun s q near j n r => jobCommand_eq j, fun s q n near r j =>
      ⟨jobMove_done, fun id => jobMove_read, fun va => jobMove_reads, fun x y => jobMove_values⟩⟩,
    ⟨moveSpec_fingerprint, moveSpec_compare, moveSpec_fence⟩, ⟨moveSpec_of_engineMove (fun _ _ => rfl) fun _ _ _ _ => rfl, fun s q n r j => allToAllMove_job, ?a2a⟩,
    ⟨moveSpec_of_engineMove (fun _ _ => rfl) fun _ _ _ _ => rfl, fun s q n r j => replayMove_job, ?replay, ?steps⟩, ?messages, ?accesses, ?blocks⟩
  case a2a =>
    intro s q n r job p
    have peers : p = a2aPeers r := (a2aPeers_eq r).symm
    clear_value p
    subst peers
    refine ⟨allToAll_reads job, fun phase => ⟨fun bad => allToAll_ends job phase (a2aStatus_bad bad),
        fun good ⟨k, hk, odd⟩ => allToAll_ends job phase (a2aStatus_unaligned good hk odd), fun good even => allToAll_sends_counts job phase (a2aStatus_good good even)⟩,
      fun phase ⟨k, hk, missing⟩ => allToAll_awaits_counts job phase hk missing, ?_, allToAll_writes_counts job, fun phase =>
        ⟨allToAll_sent job phase, allToAll_sends_nothing job phase, allToAll_copies job phase, allToAll_gathers job phase⟩,
      allToAll_sends_block job, fun phase => ⟨allToAll_received job phase, allToAll_awaits_block job phase, ?_⟩, allToAll_acknowledges job,
      fun phase => ⟨fun ⟨k, hk, sent, missing⟩ => allToAll_awaits_written job phase hk sent missing, fun nothing => ?_, ?_⟩⟩
    · intro phase k m x _ others inbox from' body
      have takes := allToAll_takes_count (n := n) job phase others inbox from' body
      exact ⟨takes.mem, takes.inbox, takes.run⟩
    · intro m rest k x due inbox from' body
      have takes := allToAll_takes_block (n := n) job phase due inbox from' body
      exact ⟨takes.mem, takes.inbox, takes.run⟩
    · exact ⟨_, allToAll_ends_alone job phase nothing, rfl, cmdQueue_setCmdQueue_same ..⟩
    · intro k m rest served inbox from' body
      have takes := allToAll_takes_written (n := n) job phase served inbox from' body
      exact ⟨takes.mem, takes.inbox, takes.run⟩
  case replay =>
    intro s q n r job gen x src dst len tag peer op go
    have gen' : gen = graphGen r := (bits_eq_mod ..).symm
    have src' : src = srcChunk r := (srcChunk_eq r).symm
    have dst' : dst = dstChunk r := (dstChunk_eq r).symm
    have peer' (m : PeerMsg) : peer m ↔ fromPeer r m = true := (fromPeer_iff r m).symm
    have kind : stepKind r.item = x % 16 := stepKind_eq x
    clear_value peer gen src dst
    subst gen' src' dst'
    refine ⟨replay_reads job, fun phase => ⟨fun reserved => replay_header_ends job phase (headerStatus_reserved reserved), fun low high steps =>
        replay_header_ends job phase ((headerStatus_eq low high).trans (if_pos steps)), fun low high least most =>
        replay_header job phase ((headerStatus_eq low high).trans (if_neg (by omega)))⟩,
      replay_last job, replay_reads_step job, replay_step_read job, fun phase st => replay_step_ends job phase, fun phase fine =>
        ⟨fun one => replay_copies job phase fine (kind.trans one), fun two => replay_reduces job phase fine (kind.trans two), fun three missing =>
          replay_awaits_ready job phase fine (kind.trans three) fun m hm from' => missing m hm ((peer' m).mpr from'), ?_, fun four =>
          replay_is_ready job phase fine (kind ▸ four)⟩,
      replay_reads_chunk job, replay_sends_chunk job, fun phase missing => replay_awaits_chunk job phase fun m hm from' => missing m hm ((peer' m).mpr from'),
      ?_, replay_step_done job⟩
    · intro m rest three inbox from' body
      have takes := replay_takes_ready (n := n) job phase fine (kind.trans three) inbox ((peer' m).mp from') body
      exact ⟨⟨takes.mem, takes.tiles, takes.run⟩, takes.inbox⟩
    · intro m rest k y phase inbox from' body
      have from'' := (peer' m).mp from'
      refine ⟨?_, fun short => ?_, fun whole other => ?_, fun whole five => ?_⟩
      · by_cases whole : k = len
        · subst whole
          exact (replay_takes_chunk (n := n) job phase inbox from'' body).inbox
        · exact (replay_takes_short (n := n) job phase inbox from'' body whole).inbox
      · have takes := replay_takes_short (n := n) job phase inbox from'' body short
        exact ⟨takes.mem, takes.tiles, takes.run⟩
      · have takes := replay_takes_chunk (n := n) job phase inbox from'' (whole ▸ body)
        rw [chunkJob, if_neg (kind ▸ other), if_neg (kind ▸ other)] at takes
        exact ⟨takes.mem, takes.tiles, takes.run⟩
      · have takes := replay_takes_chunk (n := n) job phase inbox from'' (whole ▸ body)
        rw [chunkJob, if_pos (kind.trans five), if_pos (kind.trans five)] at takes
        exact ⟨takes.mem, takes.tiles, takes.run⟩
  case steps =>
    intro h x kind
    exact ⟨stepStatus_one_iff h x, fun fine => (stepStatus_none fine).2⟩
  case messages =>
    refine ⟨fun s q m hq away => ⟨_, exec_peerMessage_arrives hq away, rfl, hold_inbox s q m, rfl⟩, fun s q m rest hq messages =>
      ⟨_, peerMessage_takes_first hq messages, rfl, hold_inbox _ q m, rfl⟩, fun s q => peerMessage_none, fun s q index e gen body => rfl⟩
  case accesses =>
    exact ⟨fun s q near r ranges pages => engineRead_reads r (List.forall_mem_flatMap.mpr pages), fun s q near r ranges before va after st => engineRead_ends r,
      fun s q n near r va len data => engineWrite_writes r, fun s q n near r va len data before g after st => engineWrite_ends r, enginePage_cases,
      fun s id a found => ⟨takeRead_state s id, takeRead_ok found, fun va => takeRead_poison found⟩,
      fun s q r va len n next => ⟨gather_next, gather_reads, fun id => gather_takes⟩⟩
  case blocks =>
    refine ⟨fun j n read op ⟨va, a⟩ => out_copy op a, fun j n x read => out_value, fun j n read op ty a => out_combined,
      fun op ty n a b k _ => reduceBytes_lane op ty a b, fun ty hty a b => reduceElement_int ?_, fun ty hty => reduceElement_float ?_, reducePair_iff,
      fun x y => rfl, fun x y => gumbelPair_left, fun x y => gumbelPair_right, fun x y => gumbelPair_tie⟩
    · revert ty
      decide
    · revert ty
      decide

end Sys2Proof.Machine
end

section
/-! SUPPORT. Where instances stand and what their contexts hold while they are halted, saved and restored (R376-R386): what the operations of the lath leave of them (O46). -/

namespace Sys2Proof.Machine

open Sys2Proof

/-! ### Instances -/

/-- Where an instance stands. -/
def Inst.place (x : Inst) : Phase × List Nat × Nat × Nat × Nat × W64 := (x.phase, x.region, x.ox, x.oy, x.oz, x.entryWit)

theorem key_of_inst? {s : State} {d n : Nat} {x : Inst} (h : s.inst? d n = some x) : x.domain = d ∧ x.number = n := by
  have key := List.find?_some h
  rw [Bool.and_eq_true, beq_iff_eq, beq_iff_eq] at key
  exact key

/-- An instance found after one has been replaced. -/
theorem inst?_setInst (s : State) (y : Inst) (d n : Nat) :
    (s.setInst y).inst? d n = if y.domain = d ∧ y.number = n then (s.inst? d n).map fun _ => y else s.inst? d n := by
  have found (xs : List Inst) : (xs.map fun i => if i.domain == y.domain && i.number == y.number then y else i).find? (fun i => i.domain == d && i.number == n) =
      if y.domain = d ∧ y.number = n then (xs.find? fun i => i.domain == d && i.number == n).map fun _ => y else xs.find? fun i => i.domain == d && i.number == n := by
    induction xs with
    | nil => simp
    | cons i rest ih =>
      rw [List.map_cons, List.find?_cons, ih, List.find?_cons]
      by_cases replaced : i.domain = y.domain ∧ i.number = y.number
      · rw [if_pos (by simpa using replaced), replaced.1, replaced.2]
        by_cases named : y.domain = d ∧ y.number = n
        · simp [named]
        · have other : (y.domain == d && y.number == n) = false := by simpa using named
          simp only [other, if_neg named]
      · rw [if_neg (by simpa using replaced)]
        by_cases own : i.domain = d ∧ i.number = n
        · have other : ¬ (y.domain = d ∧ y.number = n) := fun h => replaced ⟨own.1.trans h.1.symm, own.2.trans h.2.symm⟩
          simp only [if_neg other]
        · have mine : (i.domain == d && i.number == n) = false := by simpa using own
          simp only [mine]
  exact found s.insts

theorem inst?_setInst_same {s : State} {d n : Nat} {x y : Inst} (h : s.inst? d n = some x) (domain : y.domain = d) (number : y.number = n) :
    (s.setInst y).inst? d n = some y := by
  rw [inst?_setInst, if_pos ⟨domain, number⟩, h]
  rfl

theorem inst?_congr {s u : State} (h : u.insts = s.insts) (d n : Nat) : u.inst? d n = s.inst? d n := by
  rw [State.inst?, h]
  rfl

/-- A fold of operations that each keep a relation to the state before keeps it. -/
theorem foldl_rel {α : Type} {R : State → State → Prop} (refl : ∀ s, R s s) (trans : ∀ {s t u}, R s t → R t u → R s u) {f : State → α → State}
    (hf : ∀ s x, R s (f s x)) (xs : List α) (s : State) : R s (xs.foldl f s) :=
  List.foldlRecOn xs f (motive := fun u => R s u) (refl s) fun u hu x _ => trans hu (hf u x)

/-- The same of a fold that carries a value beside the state. -/
theorem foldl_fst_rel {α β : Type} {R : State → State → Prop} (refl : ∀ s, R s s) (trans : ∀ {s t u}, R s t → R t u → R s u) {f : State × β → α → State × β}
    (hf : ∀ p x, R p.1 (f p x).1) (xs : List α) (p : State × β) : R p.1 (xs.foldl f p).1 :=
  List.foldlRecOn xs f (motive := fun q => R p.1 q.1) (refl p.1) fun q hq x _ => trans hq (hf q x)

/-! ### Places kept -/

/-- The instance that a tile holds, and the registers and words of its contexts. -/
def Tile.holds (tl : Tile) : Nat × (Nat → Vector V512 8 × CtxWord) := (tl.inst, fun c => ((tl.ctx c).d, (tl.ctx c).word))

/-- A step that moves no instance and writes no data register or context word. -/
structure KeepsPlaces (s u : State) : Prop where
  place : ∀ d n, (u.inst? d n).map Inst.place = (s.inst? d n).map Inst.place
  tile : ∀ t, (u.tile t).holds = (s.tile t).holds

theorem KeepsPlaces.refl (s : State) : KeepsPlaces s s := ⟨fun _ _ => rfl, fun _ => rfl⟩

theorem KeepsPlaces.trans {s t u : State} (h : KeepsPlaces s t) (h' : KeepsPlaces t u) : KeepsPlaces s u :=
  ⟨fun d n => (h'.place d n).trans (h.place d n), fun k => (h'.tile k).trans (h.tile k)⟩

theorem KeepsPlaces.foldl {α : Type} {f : State → α → State} (hf : ∀ s x, KeepsPlaces s (f s x)) (xs : List α) (s : State) : KeepsPlaces s (xs.foldl f s) :=
  foldl_rel .refl .trans hf xs s

theorem KeepsPlaces.of_eq {s u : State} (tiles : u.tiles = s.tiles) (insts : u.insts = s.insts) : KeepsPlaces s u :=
  ⟨fun d n => by rw [inst?_congr insts], fun t => by rw [State.tile, tiles]; rfl⟩

theorem KeepsPlaces.setTile {s : State} {t : Nat} {tl : Tile} (h : tl.holds = (s.tile t).holds) : KeepsPlaces s (s.setTile t tl) := by
  refine ⟨fun _ _ => rfl, fun k => ?_⟩
  by_cases hk : k = t
  · subst hk
    rw [tile_setTile_same, h]
  · rw [tile_setTile_other s hk]

theorem KeepsPlaces.setCtx {s : State} {t c : Nat} {cx : Ctx} (d : cx.d = (s.ctx t c).d) (word : cx.word = (s.ctx t c).word) : KeepsPlaces s (s.setCtx t c cx) := by
  refine .setTile (Prod.ext rfl (funext fun k => ?_))
  change ((at8 (set8 (s.tile t).ctxs c cx) k).d, (at8 (set8 (s.tile t).ctxs c cx) k).word) = _
  rw [at8_set8]
  split
  · next same =>
    have own : (s.tile t).ctx k = s.ctx t c := by
      simp only [State.ctx, Tile.ctx, at8, same]
    rw [d, word, ← own]
    rfl
  · rfl

/-- An instance replaced by one that stands where it stood. -/
theorem KeepsPlaces.setInst {s : State} {y : Inst} (h : ∀ x, s.inst? y.domain y.number = some x → y.place = x.place) : KeepsPlaces s (s.setInst y) := by
  refine ⟨fun d n => ?_, fun _ => rfl⟩
  rw [inst?_setInst]
  split
  · next named =>
    obtain ⟨rfl, rfl⟩ := named
    cases found : s.inst? y.domain y.number with
    | none => rfl
    | some x => exact congrArg some (h x found)
  · rfl

theorem KeepsPlaces.inst {s u : State} (h : KeepsPlaces s u) (t : Nat) : (u.tile t).inst = (s.tile t).inst := congrArg Prod.fst (h.tile t)

theorem KeepsPlaces.ctx {s u : State} (h : KeepsPlaces s u) (t c : Nat) : (u.ctx t c).d = (s.ctx t c).d ∧ (u.ctx t c).word = (s.ctx t c).word :=
  Prod.ext_iff.mp (congrFun (congrArg Prod.snd (h.tile t)) c)

/-! ### Loads issued again keep places (R265, R266) -/

section
variable (s : State) (t c slot : Nat)

theorem KeepsPlaces.issue (a : Access) : KeepsPlaces s (s.issue a) := by
  obtain ⟨tags, writers, eq⟩ := issue_eq s a
  rw [eq]
  exact .of_eq rfl rfl

theorem KeepsPlaces.warmed {u : State} (h : Warmed s u) : KeepsPlaces s u := by
  obtain ⟨tlb, hits, misses, rfl⟩ := h.rest
  exact .of_eq rfl rfl

theorem KeepsPlaces.writeBuffer (k : Nat) (v : V512) : KeepsPlaces s (Machine.writeBuffer s t c slot k v) := by
  have issued (a : Access) : KeepsPlaces s ((s.takeNumber t).2.issue a) :=
    .trans (t := (s.takeNumber t).2) (.of_eq rfl rfl) (.issue ..)
  unfold Machine.writeBuffer
  split
  · exact .refl s
  · refine (issued _).trans (.setTile ?_)
    rfl

theorem KeepsPlaces.drainBuffer (n k : Nat) (ps : List Place) : KeepsPlaces s (Machine.drainBuffer t c slot n k ps s) := by
  induction ps generalizing s with
  | nil => exact .setCtx rfl rfl
  | cons p rest ih =>
    cases p with
    | held id tag => exact .setCtx rfl rfl
    | full b => exact (KeepsPlaces.writeBuffer s t c slot k b.payload).trans (ih _)

theorem KeepsPlaces.setOuts (n : Nat) (ps : List Place) : KeepsPlaces s (s.setOuts t c slot n ps) := by
  unfold State.setOuts
  split
  · exact .drainBuffer ..
  · exact .setCtx rfl rfl

theorem KeepsPlaces.noteScope (w : W64) : KeepsPlaces s (s.noteScope t c w) := by
  unfold State.noteScope
  split
  · exact .setCtx rfl rfl
  · exact .refl s

theorem KeepsPlaces.expect (o : Outstanding) : KeepsPlaces s (s.expect t c slot o) := by
  unfold State.expect
  dsimp only
  split
  · exact (KeepsPlaces.setOuts ..).trans (.of_eq rfl rfl)
  · exact .of_eq rfl rfl

theorem KeepsPlaces.haltCtx (fi : FaultInfo) : KeepsPlaces s (s.haltCtx t c slot fi) :=
  .trans (t := s.setCtx t c { s.ctx t c with
    run := .halted, halt := some (((s.ctx t c).halt.getD HaltInfo.first).add (s.contextRecord t c slot true fi).number slot fi) }) (.setCtx rfl rfl) (.of_eq rfl rfl)

theorem off_zero (w l : Nat) (_ : l < 512 / w) : laneOn w 0 l = false := by
  simp [laneOn]

theorem mergeLanes_off {w : Nat} (hw : w = 32 ∨ w = 64) {e : Mask} (off : ∀ l < 512 / w, laneOn w e l = false) (old : V512) (new : List Nat) :
    mergeLanes w (512 / w) e old new = old := by
  have none' : mergeLanes w (512 / w) e old new = mergeLanes w (512 / w) 0 old new := by
    refine congrArg (packLanes w) (List.map_congr_left fun l hl => ?_)
    rw [off l (List.mem_range.mp hl), off_zero w l (List.mem_range.mp hl)]
  rw [none', mergeLanes_empty hw]

/-- A result written in no lane leaves the registers. -/
theorem KeepsPlaces.writeDest {w : Nat} (hw : w = 32 ∨ w = 64) {e : Mask} (off : ∀ l < 512 / w, laneOn w e l = false) (dst : Opnd) (vals : List Nat) :
    KeepsPlaces s (s.writeDest t c slot dst w e vals) := by
  unfold State.writeDest
  split
  · dsimp only
    rw [mergeLanes_off hw off, Ctx.setD, set8_at8]
    exact .setCtx rfl rfl
  · exact .setOuts ..
  · exact .refl s

end

/-- What holds of the state that a firing's body leaves; nothing of one that stops or does nothing. -/
def Fired.Keeps (s : State) : Fired → Prop
  | .done u => KeepsPlaces s u
  | .doneThen u _ => KeepsPlaces s u
  | .stop _ => True
  | .idle => True

theorem Fired.Keeps.of_done {s u : State} {b : Fired} (h : b.Keeps s) (eq : b = .done u) : KeepsPlaces s u := by
  rw [eq] at h
  exact h

theorem off_of_any {fr : Firing} (h : ¬ fr.any = true) : ∀ l < 512 / fr.w, laneOn fr.w fr.e l = false := by
  intro l hl
  rw [Firing.any, List.any_eq_true] at h
  exact Bool.eq_false_iff.mpr fun on => h ⟨l, List.mem_range.mpr hl, on⟩

theorem loadBody_keeps (s : State) {fr : Firing} (hw : fr.w = 32 ∨ fr.w = 64) (lf : LoadForm) : (loadBody s fr lf).Keeps s := by
  unfold loadBody
  dsimp only
  split
  · next h => exact .writeDest _ _ _ _ hw (off_of_any (by simpa using h)) ..
  · split
    · split
      · exact KeepsPlaces.setCtx rfl rfl
      · trivial
    · exact (((KeepsPlaces.warmed s (planLanes_warmed ..)).trans (.noteScope ..)).trans (.issue ..)).trans (.expect ..)

theorem KeepsPlaces.request (s : State) (fr : Firing) (kind : RequestKind) : KeepsPlaces s (s.request fr kind) :=
  (KeepsPlaces.expect ..).trans (.of_eq rfl rfl)

theorem qseqBody_keeps (s : State) (fr : Firing) : (qseqBody s fr).Keeps s := by
  unfold qseqBody
  dsimp only
  split
  · exact .writeDest _ _ _ _ (.inr rfl) (off_zero 64) ..
  · split
    · trivial
    · exact .request ..

theorem qfenBody_keeps (s : State) (fr : Firing) : (qfenBody s fr).Keeps s := by
  unfold qfenBody
  dsimp only
  split
  · exact .writeDest _ _ _ _ (.inr rfl) (off_zero 64) ..
  · split
    · trivial
    · have requested := KeepsPlaces.request s fr (.qfen (bitAt fr.f.imm.toNat 0) (fenceQueues fr.a.val) [])
      change KeepsPlaces s (if _ then _ else _)
      split
      · exact requested.trans (.of_eq rfl rfl)
      · exact requested

theorem stencilBody_keeps (sub : Nat) (s : State) (fr : Firing) : (stencilBody sub s fr).Keeps s := by
  unfold stencilBody
  dsimp only
  split
  · exact .writeDest _ _ _ _ (.inr rfl) (off_zero 64) ..
  · split
    · trivial
    · split
      · trivial
      · split
        · exact KeepsPlaces.of_eq rfl rfl
        · exact (KeepsPlaces.expect s fr.t fr.c fr.slot _).trans (.of_eq rfl rfl)

theorem requestBody_keeps (i : Instr) (s : State) (fr : Firing) : (requestBody i s fr).Keeps s := by
  unfold requestBody
  split
  · exact qseqBody_keeps s fr
  · exact qfenBody_keeps s fr
  · exact stencilBody_keeps 0 s fr
  · exact stencilBody_keeps 1 s fr
  · exact stencilBody_keeps 2 s fr
  · exact stencilBody_keeps 3 s fr
  · exact stencilBody_keeps 4 s fr
  · exact stencilBody_keeps 5 s fr
  · exact stencilBody_keeps 6 s fr
  · exact stencilBody_keeps 7 s fr
  · exact stencilBody_keeps 8 s fr
  · trivial

theorem formWidth_cases (i : Instr) (f : Slot) : formWidth i f = 32 ∨ formWidth i f = 64 := by
  have lane (ty : Ty) : ty.laneWidth = 32 ∨ ty.laneWidth = 64 := by
    rw [Ty.laneWidth]
    split
    · exact .inr rfl
    · exact .inl rfl
  unfold formWidth
  split
  · split
    · exact .inr rfl
    · exact .inl rfl
  · exact lane f.ty

section
variable (s : State) (t c : Nat) (dst : Opnd) (r : Reissue)

theorem KeepsPlaces.rehold (id : Nat) : KeepsPlaces s (s.rehold t c id dst r) := by
  unfold State.rehold
  split
  · exact .setOuts ..
  · exact .refl s

theorem KeepsPlaces.unhold : KeepsPlaces s (s.unhold t c dst r) := by
  unfold State.unhold
  split
  · exact .setOuts ..
  · exact .refl s

/-- A load or request issued again writes no register (R265, R385). -/
theorem KeepsPlaces.reissue : KeepsPlaces s (s.reissue t c r) := by
  unfold State.reissue
  dsimp only
  split
  · exact .refl s
  · split
    · exact .refl s
    · split
      · split
        · next done => exact ((requestBody_keeps ..).of_done done).trans (.rehold ..)
        · exact (KeepsPlaces.unhold ..).trans (.haltCtx ..)
        · exact .refl s
      · split
        · next done => exact ((loadBody_keeps s (formWidth_cases ..) _).of_done done).trans (.rehold ..)
        · exact (KeepsPlaces.unhold ..).trans (.haltCtx ..)
        · exact .refl s

end

theorem KeepsPlaces.reissueAll (s : State) (x : Inst) : KeepsPlaces s (s.reissueAll x) := by
  unfold State.reissueAll
  refine .foldl (fun s t => .foldl (fun s c => ?_) _ s) _ s
  dsimp only
  exact .trans (t := s.setCtx t c { s.ctx t c with cancelled := [], halt := (s.ctx t c).halt.map fun h => { h with reissue := [] } }) (.setCtx rfl rfl)
    (.foldl (fun s r => .reissue s t c r) _ _)

theorem KeepsPlaces.noteReady (s : State) (col : Nat) : KeepsPlaces s (s.noteReady col) := .of_eq rfl rfl

theorem KeepsPlaces.noteAllReady (s : State) : KeepsPlaces s s.noteAllReady := by
  unfold State.noteAllReady
  exact .foldl (fun s (x : Nat × Sequencer) => .noteReady s x.1) _ s

/-- A context changed beside its registers, and a record number taken. -/
theorem KeepsPlaces.setCtx_record {s : State} {t c : Nat} {cx : Ctx} (n : Nat) (d : cx.d = (s.ctx t c).d) (word : cx.word = (s.ctx t c).word) :
    KeepsPlaces s { s.setCtx t c cx with nextRecord := n } :=
  (KeepsPlaces.setCtx d word).trans (.of_eq rfl rfl)

theorem KeepsPlaces.renewHalts (s : State) (t : Nat) : KeepsPlaces s (s.renewHalts t) := by
  unfold State.renewHalts
  refine .foldl (fun s c => ?_) _ s
  dsimp only
  split
  · exact .refl s
  · exact .setCtx_record _ rfl rfl

theorem noteAllReady_insts (s : State) : s.noteAllReady.insts = s.insts := by
  unfold State.noteAllReady
  exact List.foldlRecOn _ _ (motive := fun u : State => u.insts = s.insts) rfl fun _ hu _ _ => hu

end Sys2Proof.Machine
end

section
/-! SUPPORT. The halt of a region, and its drain into its endpoints (R376-R378; O46). -/

namespace Sys2Proof.Machine

open Sys2Proof

/-- What holds of each element of a list once an operation has run over it, when each run establishes it and none takes it back. -/
theorem foldl_establishes {α : Type} {R : State → State → Prop} {Q : α → State → Prop} {f : State → α → State} (step : ∀ s x, R s (f s x))
    (establish : ∀ s x, Q x (f s x)) (stable : ∀ {s u x}, R s u → Q x s → Q x u) {x : α} : ∀ {xs : List α} (s : State), x ∈ xs → Q x (xs.foldl f s) := by
  intro xs
  induction xs with
  | nil => intro s h; cases h
  | cons y ys ih =>
    intro s h
    rw [List.foldl_cons]
    rcases List.mem_cons.mp h with rfl | h
    · exact List.foldlRecOn ys f (motive := fun u => Q x u) (establish s x) fun u hu z _ => stable (step u z) hu
    · exact ih _ h

theorem ctx_setTile_same (s : State) (t c : Nat) (tl : Tile) : (s.setTile t tl).ctx t c = tl.ctx c := by
  rw [State.ctx, tile_setTile_same]

theorem at8_ofFn {α : Type} (f : Fin 8 → α) (c : Nat) : at8 (Vector.ofFn f) c = f ⟨c % 8, Nat.mod_lt _ (by decide)⟩ := by
  simp [at8]

/-! ### The halt (R376, R377) -/

/-- What a halt leaves of a context. -/
def Ctx.still (cx : Ctx) : CtxWord × Vector V512 8 × Vector Mask 8 × FpFlags × Vector (List Beat) 8 × RunState := (cx.word, cx.d, cx.p, cx.flags, cx.ins, cx.run)

/-- A step of a halt: instances stay, and each context keeps its registers, endpoints and state; one that is held stays held. -/
structure HaltStep (s u : State) : Prop where
  insts : u.insts = s.insts
  still : ∀ t c, (u.ctx t c).still = (s.ctx t c).still
  held : ∀ t c, (s.ctx t c).held = (s.ctx t c).word.valid → (u.ctx t c).held = (u.ctx t c).word.valid

theorem HaltStep.refl (s : State) : HaltStep s s := ⟨rfl, fun _ _ => rfl, fun _ _ h => h⟩

theorem HaltStep.trans {s t u : State} (h : HaltStep s t) (h' : HaltStep t u) : HaltStep s u :=
  ⟨h'.insts.trans h.insts, fun t c => (h'.still t c).trans (h.still t c), fun t c held => h'.held t c (h.held t c held)⟩

theorem HaltStep.of_eq {s u : State} (tiles : u.tiles = s.tiles) (insts : u.insts = s.insts) : HaltStep s u := by
  have ctx (t c : Nat) : u.ctx t c = s.ctx t c := by
    rw [State.ctx, State.tile, tiles]
    rfl
  exact ⟨insts, fun t c => by rw [ctx], fun t c h => by rw [ctx, h]⟩

theorem cancelLoad_kept (s : State) (o : Outstanding) : (s.cancelLoad o true).2.tiles = s.tiles ∧ (s.cancelLoad o true).2.insts = s.insts := ⟨rfl, rfl⟩

theorem HaltStep.setCancelled (s : State) (t c : Nat) (rs : List Reissue) : HaltStep s (s.setCtx t c { s.ctx t c with cancelled := rs }) := by
  have ctx (k j : Nat) : ∃ rs', (s.setCtx t c { s.ctx t c with cancelled := rs }).ctx k j = { s.ctx k j with cancelled := rs' } := by
    by_cases hk : k = t
    · subst hk
      rw [State.setCtx, ctx_setTile_same, Tile.setCtx, Tile.ctx, at8_set8]
      split
      · next same =>
        have own : s.ctx k j = s.ctx k c := by
          simp only [State.ctx, Tile.ctx, at8, same]
        exact ⟨rs, by rw [own]⟩
      · exact ⟨(s.ctx k j).cancelled, rfl⟩
    · exact ⟨(s.ctx k j).cancelled, by rw [State.ctx, tile_setCtx_other s hk]; rfl⟩
  refine ⟨rfl, fun k j => ?_, fun k j h => ?_⟩
  · obtain ⟨rs', eq⟩ := ctx k j
    rw [eq]
    rfl
  · obtain ⟨rs', eq⟩ := ctx k j
    rw [eq]
    exact h

theorem HaltStep.cancelLoads (s : State) (t : Nat) : HaltStep s (s.cancelLoads t) := by
  unfold State.cancelLoads
  refine foldl_rel .refl .trans (fun s o => ?_) _ s
  obtain ⟨tiles, insts⟩ := cancelLoad_kept s o
  exact (HaltStep.of_eq tiles insts).trans (.setCancelled ..)

/-- A tile whose contexts are held and whose skim passes are abandoned. -/
def Tile.heldTile (tl : Tile) : Tile :=
  { tl with ctxs := Vector.ofFn fun k => { tl.ctxs[k] with held := tl.ctxs[k].word.valid }, passes := tl.passes.map fun p => { p with access := none } }

theorem ctx_heldTile (tl : Tile) (c : Nat) : tl.heldTile.ctx c = { tl.ctx c with held := (tl.ctx c).word.valid } := at8_ofFn ..

theorem haltTile_steps (s : State) (t : Nat) : HaltStep (s.setTile t (s.tile t).heldTile) (s.haltTile t) :=
  .trans (t := { s.setTile t (s.tile t).heldTile with accesses := (s.setTile t (s.tile t).heldTile).accesses.filter fun a =>
    !((s.tile t).passes.filterMap (·.access)).contains a.id }) (.of_eq rfl rfl) (.cancelLoads ..)

theorem HaltStep.haltTile (s : State) (t : Nat) : HaltStep s (s.haltTile t) := by
  refine .trans (t := s.setTile t (s.tile t).heldTile) ⟨rfl, fun k c => ?_, fun k c h => ?_⟩ (haltTile_steps s t)
  all_goals by_cases hk : k = t
  · rw [hk, ctx_setTile_same, ctx_heldTile]
    rfl
  · rw [State.ctx, tile_setTile_other s hk]
    rfl
  · rw [hk, ctx_setTile_same, ctx_heldTile]
  · rw [State.ctx, tile_setTile_other s hk]
    exact h

theorem haltTile_held (s : State) (t c : Nat) : ((s.haltTile t).ctx t c).held = ((s.haltTile t).ctx t c).word.valid :=
  (haltTile_steps s t).held t c (by rw [ctx_setTile_same, ctx_heldTile])

theorem HaltStep.tiles (ts : List Nat) (s : State) : HaltStep s (ts.foldl State.haltTile s) := foldl_rel .refl .trans .haltTile ts s

theorem haltInst_held {s : State} {x : Inst} {t : Nat} (ht : t ∈ s.instTiles x) (c : Nat) :
    ((s.haltInst x).ctx t c).held = ((s.haltInst x).ctx t c).word.valid :=
  foldl_establishes (Q := fun t u => ∀ c, (u.ctx t c).held = (u.ctx t c).word.valid) HaltStep.haltTile haltTile_held
    (fun step held c => step.held _ c (held c)) (s.setInst { x with phase := .halting }) ht c

/-- A running instance halted (R377). -/
theorem haltInst_halts {s : State} {d n : Nat} {x : Inst} (found : s.inst? d n = some x) :
    ((s.haltInst x).inst? d x.number).map (·.phase) = some .halting ∧
    ∀ t ∈ s.instTiles x, ∀ c, c < 8 → ((s.haltInst x).ctx t c).held = (s.ctx t c).word.valid ∧ ((s.haltInst x).ctx t c).d = (s.ctx t c).d ∧
      ((s.haltInst x).ctx t c).p = (s.ctx t c).p ∧ ((s.haltInst x).ctx t c).flags = (s.ctx t c).flags ∧ ((s.haltInst x).ctx t c).ins = (s.ctx t c).ins ∧
      ((s.haltInst x).ctx t c).run = (s.ctx t c).run := by
  obtain ⟨rfl, rfl⟩ := key_of_inst? found
  have steps : HaltStep (s.setInst { x with phase := .halting }) (s.haltInst x) := .tiles _ _
  refine ⟨?_, fun t ht c _ => ?_⟩
  · rw [inst?_congr steps.insts, inst?_setInst_same (y := { x with phase := .halting }) found rfl rfl]
    rfl
  · have still := steps.still t c
    simp only [Ctx.still, Prod.mk.injEq] at still
    obtain ⟨word, regs⟩ := still
    rw [haltInst_held ht, word]
    exact ⟨rfl, regs⟩

theorem exec_preemption {d : Nat} (hd : d < 16) (s : State) : exec (.preemption d) s = match s.inst? d (SMap.get s.halts d 0) with
    | none => .next { s with halts := SMap.erase s.halts d }
    | some x => if x.phase == .running then .next (s.haltInst x) else if x.phase == .halting then .next s else .next { s with halts := SMap.erase s.halts d } := by
  change execPreemption d s = _
  rw [execPreemption, if_neg (by omega)] <;> rfl

theorem preemption_forgets (s : State) (d : Nat) : SMap.get (SMap.erase s.halts d) d 0 = 0 := SMap.get_erase_same ..

/-! ### The drain (R378) -/

/-- A step of a drain: only beats and tokens of endpoints, routers, and the mark of a draining tile are others. -/
structure DrainStep (s u : State) : Prop where
  ctx : ∀ t c, u.ctx t c = { s.ctx t c with ins := (u.ctx t c).ins, cins := (u.ctx t c).cins }
  tile : ∀ t, { u.tile t with ctxs := (s.tile t).ctxs, draining := (s.tile t).draining } = s.tile t
  rest : { u with tiles := s.tiles, routers := s.routers } = s

theorem DrainStep.refl (s : State) : DrainStep s s := ⟨fun _ _ => rfl, fun _ => rfl, rfl⟩

theorem DrainStep.trans {s t u : State} (h : DrainStep s t) (h' : DrainStep t u) : DrainStep s u where
  ctx k c := by
    rw [h'.ctx k c, h.ctx k c]
  tile k := by
    have := congrArg (fun x : Tile => { x with ctxs := (s.tile k).ctxs, draining := (s.tile k).draining }) (h'.tile k)
    exact this.trans (h.tile k)
  rest := by
    have := congrArg (fun x : State => { x with tiles := s.tiles, routers := s.routers }) h'.rest
    exact this.trans h.rest

theorem DrainStep.setRouter (s : State) (site : Nat) (r : Router) : DrainStep s (s.setRouter site r) := ⟨fun _ _ => rfl, fun _ => rfl, rfl⟩

theorem DrainStep.setEndpoints (s : State) (t c : Nat) (ins : Vector (List Beat) 8) (cins : Vector (List Bool) 4) :
    DrainStep s (s.setCtx t c { s.ctx t c with ins := ins, cins := cins }) := by
  refine ⟨fun k j => ?_, fun k => ?_, rfl⟩
  all_goals by_cases hk : k = t
  · subst hk
    rw [State.setCtx, ctx_setTile_same, Tile.setCtx, Tile.ctx, at8_set8]
    split
    · next same =>
      have own : s.ctx k j = s.ctx k c := by
        simp only [State.ctx, Tile.ctx, at8, same]
      rw [own]
    · rfl
  · rw [State.ctx, tile_setCtx_other s hk]
    rfl
  · rw [hk, State.setCtx, tile_setTile_same]
    rfl
  · rw [tile_setCtx_other s hk]

theorem DrainStep.setDraining (s : State) (t : Nat) : DrainStep s (s.setTile t { s.tile t with draining := false }) := by
  refine ⟨fun k j => ?_, fun k => ?_, rfl⟩
  all_goals by_cases hk : k = t
  · rw [hk, ctx_setTile_same]
    rfl
  · rw [State.ctx, tile_setTile_other s hk]
    rfl
  · rw [hk, tile_setTile_same]
  · rw [tile_setTile_other s hk]

theorem DrainStep.arrive (s : State) (g : Straggler) : DrainStep s (s.arrive g) := by
  unfold State.arrive
  refine .trans ?_ (foldl_rel .refl .trans (fun s a => .setEndpoints s a.1 a.2.1 _ _) _ _)
  split
  · exact .setRouter ..
  · exact .setRouter ..

theorem DrainStep.drainBeats (s : State) (x : Inst) : DrainStep s (s.drainBeats x) := by
  unfold State.drainBeats
  refine foldl_fst_rel .refl .trans (fun p g => ?_) _ (s, [])
  dsimp only
  split
  · exact .refl _
  · exact .arrive ..

theorem DrainStep.drainConds (s : State) (x : Inst) : DrainStep s (s.drainConds x) := by
  unfold State.drainConds
  refine foldl_fst_rel .refl .trans (fun p g => ?_) _ (s, [])
  dsimp only
  split
  · exact .refl _
  · exact (DrainStep.setRouter ..).trans (foldl_rel .refl .trans (fun s a => .setEndpoints s a.1 a.2.1 _ _) _ _)

theorem DrainStep.drainRegion (s : State) (x : Inst) : DrainStep s (s.drainRegion x) := (DrainStep.drainBeats s x).trans (.drainConds ..)

theorem DrainStep.endDrain (s : State) (x : Inst) : DrainStep s (s.endDrain x) := foldl_rel .refl .trans .setDraining _ s

section
variable {s u : State} (h : DrainStep s u)
include h

theorem DrainStep.insts : u.insts = s.insts := (congrArg State.insts h.rest :)

theorem DrainStep.accesses : u.accesses = s.accesses := (congrArg State.accesses h.rest :)

theorem DrainStep.mem : u.mem = s.mem := (congrArg State.mem h.rest :)

theorem DrainStep.tileInst (t : Nat) : (u.tile t).inst = (s.tile t).inst := (congrArg Tile.inst (h.tile t) :)

theorem DrainStep.row (t : Nat) : (u.tile t).row = (s.tile t).row := (congrArg Tile.row (h.tile t) :)

end

end Sys2Proof.Machine
end

section
/-! SUPPORT. What a save image's blobs and sections do to memory: the bytes written, the bytes left, and the key of a granule (R379, R384, R455; O46). -/

namespace Sys2Proof.Machine

open Sys2Proof

/-! ### Bytes -/

/-- A byte that a write of n bytes covers (R7). -/
theorem Memory.byte_write_same (m : Memory) (a n x : Nat) {j : Nat} (h : j < n) : (m.write a n x).byte (a + j) = BitVec.ofNat 8 (x / 256 ^ j) := by
  induction n with
  | zero => omega
  | succ n ih =>
    rw [Memory.write_succ, Memory.byte_setByte]
    by_cases last : j = n
    · rw [if_pos (by omega), last]
    · rw [if_neg (by omega), ih (by omega)]

theorem Memory.byte_putBlob_same (m : Memory) (key lo : Nat) (b : Blob) {j : Nat} (h : j < b.len) :
    ((m.putBlob key lo b).byte (lo + j)).toNat = b.val / 2 ^ (8 * j) % 2 ^ 8 := by
  rw [Memory.putBlob, Memory.byte_cleanRange, Memory.byte_write_same _ _ _ _ h, BitVec.toNat_ofNat, pow_mul]
  rfl

theorem Memory.byte_putCells_other {lo k : Nat} {cs : List Host.Cell} (h : ∀ c ∈ cs, k ≠ lo + c.1) (m : Memory) : (m.putCells lo cs).byte k = m.byte k :=
  List.foldlRecOn cs _ (motive := fun u : Memory => u.byte k = m.byte k) rfl fun u hu c hc => by
    rw [Memory.byte_setByte, if_neg (h c hc), hu]

theorem Memory.byte_cleared (m : Memory) {lo n k : Nat} (h : k < lo ∨ lo + n ≤ k) :
    ({ m with cells := m.cells.filter fun c => !(decide (lo ≤ c.1) && decide (c.1 < lo + n)) } : Memory).byte k = m.byte k := by
  refine (cellRead_filter m.cells (fun c => !(decide (lo ≤ c) && decide (c < lo + n))) k).trans (if_pos ?_)
  simp only [Bool.not_eq_true', Bool.and_eq_false_iff, decide_eq_false_iff_not]
  omega

/-- Bytes of a range replaced under a key leave every byte outside its granules. -/
theorem Memory.byte_putRange_other (m : Memory) (key : Nat) {lo n k : Nat} {cs : List Host.Cell} (inside : ∀ c ∈ cs, c.1 < n)
    (h : k / 16 < lo / 16 ∨ lo + n ≤ k / 16 * 16) : (m.putRange key lo n cs).byte k = m.byte k := by
  rw [Memory.putRange, Memory.byte_cleanRange, Memory.byte_putCells_other fun c hc => by have := inside c hc; omega,
    Memory.byte_cleared _ (by omega), Memory.byte_underKey_other _ _ _ _ _ h]

/-- A saved pad or vault of n bytes with its marks leaves every byte outside its granules. -/
theorem Memory.byte_putSection_other (m : Memory) (key : Nat) {at' n k : Nat} {cs : List Host.Cell} (full : NSet) (inside : ∀ c ∈ cs, c.1 < n)
    (h : k / 16 < at' / 16 ∨ at' + n + n / 128 ≤ k / 16 * 16) : (m.putSection key at' n cs full).byte k = m.byte k := by
  have marks : k / 16 < (at' + n) / 16 ∨ at' + n + n / 128 ≤ k / 16 * 16 := by omega
  rw [Memory.putSection, Memory.byte_putBlob_other _ _ _ _ _ marks, Memory.byte_putRange_other _ _ inside (by omega)]

/-! ### Keys (R455) -/

theorem Memory.keyOf_setKey (m : Memory) (g key h : Nat) : (m.setKey g key).keyOf h = if h = g then key else m.keyOf h := by
  by_cases zero : key = 0
  · rw [zero, Memory.keyOf_setKey_zero]
  · rw [Memory.setKey, if_neg zero]
    by_cases own : h = g
    · rw [if_pos own, own]
      exact SMap.get_set_same ..
    · rw [if_neg own]
      exact SMap.get_set_other _ own ..

theorem Memory.keyOf_setKeys (m : Memory) (g n key h : Nat) : (m.setKeys g n key).keyOf h = if g ≤ h ∧ h < g + n then key else m.keyOf h := by
  by_cases zero : key = 0
  · rw [zero, Memory.keyOf_setKeys_zero]
  · rw [Memory.setKeys, if_neg zero]
    have keyed (xs : List Nat) : (xs.foldr (fun i m => m.setKey (g + i) key) m).keyOf h = if ∃ i ∈ xs, h = g + i then key else m.keyOf h := by
      induction xs with
      | nil => simp
      | cons i rest ih =>
        rw [List.foldr_cons, Memory.keyOf_setKey, ih]
        by_cases own : h = g + i
        · rw [if_pos own, if_pos ⟨i, List.mem_cons_self, own⟩]
        · simp only [own, ↓reduceIte, List.mem_cons, exists_eq_or_imp, false_or]
    rw [keyed]
    refine if_congr ⟨fun ⟨i, hi, eq⟩ => ?_, fun ⟨low, high⟩ => ⟨h - g, ?_, ?_⟩⟩ rfl rfl
    · have := List.mem_range.mp hi
      omega
    · exact List.mem_range.mpr (by omega)
    · omega

/-- A granule under a key stays under it when a range is made ready under the same key. -/
theorem Memory.keyOf_underKey_stays {m : Memory} {key g : Nat} (h : m.keyOf g = key) (lo n : Nat) : (m.underKey key lo n).keyOf g = key := by
  have one : ∀ (m : Memory) (k : Nat), m.keyOf g = key → (if m.keyOf k = key then m else (m.write (16 * k) 16 (m.readAs key k).toNat).setKey k key).keyOf g = key := by
    intro m k h
    split
    · exact h
    · rw [Memory.keyOf_setKey]
      split
      · rfl
      · rw [Memory.keyOf, Memory.write_keys]
        exact h
  unfold Memory.underKey
  dsimp only
  split
  · exact h
  · rw [Memory.keyOf_setKeys, List.foldl_cons, List.foldl_cons, List.foldl_nil, one _ _ (one _ _ h), ite_self]

theorem Memory.keyOf_underKey_range (m : Memory) {key lo n g : Nat} (low : lo / 16 ≤ g) (high : 16 * g < lo + n) (some' : n ≠ 0) : (m.underKey key lo n).keyOf g = key := by
  unfold Memory.underKey
  dsimp only
  rw [if_neg some', Memory.keyOf_setKeys, if_pos (by omega)]

theorem Memory.putCells_keys (m : Memory) (lo : Nat) (cs : List Host.Cell) : (m.putCells lo cs).keys = m.keys :=
  List.foldlRecOn cs _ (motive := fun u : Memory => u.keys = m.keys) rfl fun _ hu _ _ => by exact hu

theorem Memory.keyOf_putBlob (m : Memory) (key lo g : Nat) (b : Blob) : (m.putBlob key lo b).keyOf g = (m.underKey key lo b.len).keyOf g := by
  exact congrArg (SMap.get · g 0) (Memory.write_keys (m.underKey key lo b.len) lo b.len b.val)

theorem Memory.keyOf_putSection_stays {m : Memory} {key g : Nat} (h : m.keyOf g = key) (at' n : Nat) (cs : List Host.Cell) (full : NSet) :
    (m.putSection key at' n cs full).keyOf g = key := by
  have range : (m.putRange key at' n cs).keyOf g = key := by
    refine Eq.trans ?_ (Memory.keyOf_underKey_stays h at' n)
    exact congrArg (SMap.get · g 0) (Memory.putCells_keys _ at' cs)
  rw [Memory.putSection, Memory.keyOf_putBlob, Memory.keyOf_underKey_stays range]

/-! ### A save image in memory (R379) -/

theorem saveBlob_len (x : Inst) (im : SaveImage) : (saveBlob x im).len = 128 + im.records.len := rfl

theorem SaveImage.len_eq (im : SaveImage) : im.len =
    128 + im.records.len + 22584 * im.dirty.length + if im.evicted then im.tiles.length * 0x40800 + im.vaults.length * 0x2040000 else 0 := by
  rw [SaveImage.len, SaveImage.padsAt, SaveImage.sectionsAt]
  omega

/-- The pads and vaults of an image as they were read: no byte lies beyond its section. -/
structure SaveImage.Bounded (im : SaveImage) : Prop where
  pads : ∀ st ∈ im.tiles, ∀ c ∈ st.pad, c.1 < 0x40000
  vaults : ∀ v ∈ im.vaults, ∀ c ∈ v.1, c.1 < 0x2000000

theorem cellsIn_lt {m : Memory} {lo n : Nat} {c : Host.Cell} (h : c ∈ m.cellsIn lo n) : c.1 < n := by
  obtain ⟨d, hd, rfl⟩ := List.mem_map.mp h
  simp only [List.mem_filter, Bool.and_eq_true, decide_eq_true_eq] at hd
  simp only
  omega

theorem saveInst_bounded (s : State) (x : Inst) (evict : Bool) (address key : Nat) (fence : W64) : (saveInst s x evict address key fence).Bounded where
  pads st hst c hc := by
    obtain ⟨t, -, rfl⟩ := List.mem_map.mp hst
    cases evict with
    | false => cases hc
    | true => exact cellsIn_lt hc
  vaults v hv c hc := by
    cases both : evict && decide (2 ≤ x.level) with
    | false =>
      simp only [saveInst, both, Bool.false_eq_true, ↓reduceIte, List.not_mem_nil] at hv
    | true =>
      simp only [saveInst, both, ↓reduceIte, List.mem_map] at hv
      obtain ⟨k, -, rfl⟩ := hv
      exact cellsIn_lt hc

/-- Sections of one size written one after another leave every byte outside their granules, and keep a granule under their key. -/
theorem putSections {α : Type} {key base size n : Nat} {cells : α → List Host.Cell} {full : α → NSet} (hn : n + n / 128 = size) {xs : List α}
    (inside : ∀ x ∈ xs, ∀ c ∈ cells x, c.1 < n) (m : Memory) :
    let u := xs.zipIdx.foldl (fun m r => m.putSection key (base + r.2 * size) n (cells r.1) (full r.1)) m
    (∀ k, k / 16 < base / 16 ∨ base + xs.length * size ≤ k / 16 * 16 → u.byte k = m.byte k) ∧ ∀ g, m.keyOf g = key → u.keyOf g = key := by
  refine ⟨fun k outside => ?_, fun g keyed => ?_⟩
  · refine List.foldlRecOn xs.zipIdx _ (motive := fun u : Memory => u.byte k = m.byte k) rfl fun u hu r hr => ?_
    obtain ⟨-, index, eq⟩ := List.mem_zipIdx hr
    have below : (r.2 + 1) * size ≤ xs.length * size := Nat.mul_le_mul_right _ (by omega)
    rw [Nat.succ_mul] at below
    rw [Memory.byte_putSection_other _ _ _ (inside r.1 (eq ▸ List.getElem_mem _)) (by omega), hu]
  · exact List.foldlRecOn xs.zipIdx _ (motive := fun u : Memory => u.keyOf g = key) keyed fun u hu r _ => Memory.keyOf_putSection_stays hu ..

/-- An image written leaves every byte outside its granules, and its first granule is under its key. -/
theorem writeSave_memory {im : SaveImage} (bounded : im.Bounded) (s : State) (x : Inst) :
    (∀ k, k / 16 < im.address / 16 ∨ im.address + im.len ≤ k / 16 * 16 → (s.writeSave x im).mem.byte k = s.mem.byte k) ∧
    (im.address % 16 = 0 → (s.writeSave x im).mem.keyOf (im.address / 16) = im.key) := by
  have header (k : Nat) (h : k / 16 < im.address / 16 ∨ im.address + im.len ≤ k / 16 * 16) :
      (s.mem.putBlob im.key im.address (saveBlob x im)).byte k = s.mem.byte k :=
    Memory.byte_putBlob_other _ _ _ _ _ (by rw [saveBlob_len]; have := im.len_eq; omega)
  have key (h : im.address % 16 = 0) : (s.mem.putBlob im.key im.address (saveBlob x im)).keyOf (im.address / 16) = im.key := by
    rw [Memory.keyOf_putBlob]
    exact Memory.keyOf_underKey_range _ (Nat.le_refl _) (by rw [saveBlob_len]; omega) (by rw [saveBlob_len]; omega)
  unfold State.writeSave
  dsimp only
  cases evicted : im.evicted with
  | false => exact ⟨header, key⟩
  | true =>
    have len := im.len_eq
    rw [evicted, if_pos rfl] at len
    have pads : im.padsAt = im.address + 128 + im.records.len + 22584 * im.dirty.length := rfl
    obtain ⟨padBytes, padKeys⟩ := putSections (key := im.key) (base := im.padsAt) (size := 0x40800) (full := SavedTile.padFull) rfl bounded.pads
      (s.mem.putBlob im.key im.address (saveBlob x im))
    obtain ⟨vaultBytes, vaultKeys⟩ := putSections (key := im.key) (base := im.padsAt + im.tiles.length * 0x40800) (size := 0x2040000)
      (full := fun v => v.2.1) rfl bounded.vaults
      (im.tiles.zipIdx.foldl (fun m r => m.putSection im.key (im.padsAt + r.2 * 0x40800) 0x40000 r.1.pad r.1.padFull)
        (s.mem.putBlob im.key im.address (saveBlob x im)))
    refine ⟨fun k outside => ?_, fun aligned => vaultKeys _ (padKeys _ (key aligned))⟩
    exact ((vaultBytes k (by omega)).trans (padBytes k (by omega))).trans (header k outside)

theorem writeSave_rest (s : State) (x : Inst) (im : SaveImage) : s.writeSave x im = { s with mem := (s.writeSave x im).mem } := by
  unfold State.writeSave
  dsimp only
  split <;> rfl

end Sys2Proof.Machine
end

section
/-! SUPPORT. A quiesced region: its image closed and written, its tiles given up, and what the lath asks of keys and fences before (R311, R377-R379, R455; O46). -/

namespace Sys2Proof.Machine

open Sys2Proof

/-! ### A region given up (R378, R385) -/

/-- A step that gives up tiles of an instance: row engines stay, and a tile either holds what it held or has been given up. -/
structure VacateStep (n : Nat) (s u : State) : Prop where
  rest : ∃ tiles, u = { s with tiles := tiles }
  row : ∀ t, (u.tile t).row = (s.tile t).row
  inst : ∀ t, (u.tile t).inst = (s.tile t).inst ∨ ((s.tile t).inst = n ∧ (u.tile t).inst = 0)

theorem VacateStep.refl (n : Nat) (s : State) : VacateStep n s s := ⟨⟨s.tiles, rfl⟩, fun _ => rfl, fun _ => .inl rfl⟩

theorem VacateStep.trans {n : Nat} {s t u : State} (h : VacateStep n s t) (h' : VacateStep n t u) : VacateStep n s u where
  rest := by
    obtain ⟨tiles, rfl⟩ := h.rest
    obtain ⟨tiles', rfl⟩ := h'.rest
    exact ⟨tiles', rfl⟩
  row k := (h'.row k).trans (h.row k)
  inst k := by
    rcases h'.inst k with same | ⟨own, gone⟩
    · rw [same]
      exact h.inst k
    · rcases h.inst k with same | ⟨own', -⟩
      · exact .inr ⟨same.symm.trans own, gone⟩
      · exact .inr ⟨own', gone⟩

/-- A tile given up when it holds the instance. -/
def State.vacateOwn (n : Nat) (s : State) (t : Nat) : State := if (s.tile t).inst = n then s.vacateTile t else s

theorem VacateStep.vacateOwn (n : Nat) (s : State) (t : Nat) : VacateStep n s (s.vacateOwn n t) := by
  unfold State.vacateOwn
  split
  · next own =>
    refine ⟨⟨_, rfl⟩, fun k => ?_, fun k => ?_⟩
    all_goals by_cases hk : k = t
    · rw [hk, State.vacateTile, tile_setTile_same]
    · rw [State.vacateTile, tile_setTile_other s hk]
    · rw [hk, State.vacateTile, tile_setTile_same]
      exact .inr ⟨own, rfl⟩
    · rw [State.vacateTile, tile_setTile_other s hk]
      exact .inl rfl
  · exact .refl n s

theorem vacateOwn_gone {n : Nat} (hn : n ≠ 0) (s : State) (t : Nat) : ((s.vacateOwn n t).tile t).inst ≠ n := by
  unfold State.vacateOwn
  split
  · rw [State.vacateTile, tile_setTile_same]
    exact hn.symm
  · assumption

theorem vacate_eq (s : State) (x : Inst) : ∃ routers, s.vacate x = { x.region.foldl (State.vacateOwn x.number) s with routers := routers } := ⟨_, rfl⟩

theorem vacate_steps (s : State) (x : Inst) : VacateStep x.number s (x.region.foldl (State.vacateOwn x.number) s) :=
  foldl_rel (.refl _) .trans (.vacateOwn x.number) _ s

theorem vacate_rest (s : State) (x : Inst) : (s.vacate x).insts = s.insts ∧ (s.vacate x).accesses = s.accesses ∧ (s.vacate x).halts = s.halts := by
  obtain ⟨routers, eq⟩ := vacate_eq s x
  obtain ⟨tiles, eq'⟩ := (vacate_steps s x).rest
  rw [eq, eq']
  exact ⟨rfl, rfl, rfl⟩

/-- A tile of the region is given up, and its row engine stays in place (R191). -/
theorem vacate_tile {s : State} {x : Inst} {t : Nat} (ht : t ∈ x.region) (own : (s.tile t).inst = x.number) (hn : x.number ≠ 0) :
    ((s.vacate x).tile t).inst = 0 ∧ ((s.vacate x).tile t).row = (s.tile t).row := by
  obtain ⟨routers, eq⟩ := vacate_eq s x
  have tile : (s.vacate x).tile t = (x.region.foldl (State.vacateOwn x.number) s).tile t := by
    rw [eq]
    rfl
  have gone : ((x.region.foldl (State.vacateOwn x.number) s).tile t).inst ≠ x.number :=
    foldl_establishes (R := VacateStep x.number) (Q := fun t u => (u.tile t).inst ≠ x.number) (.vacateOwn x.number) (vacateOwn_gone hn)
      (fun step away => by
        rcases step.inst _ with same | ⟨own, -⟩
        · rwa [same]
        · exact absurd own away) s ht
  rw [tile]
  refine ⟨?_, (vacate_steps s x).row t⟩
  rcases (vacate_steps s x).inst t with same | ⟨-, free⟩
  · exact absurd (same.trans own) gone
  · exact free

/-! ### The image of a quiesced region closed (R377-R379) -/

/-- An instance's region drained. -/
def State.drainedRegion (s : State) (x : Inst) : State := (s.endDrain x).drainRegion x

theorem DrainStep.drainedRegion (s : State) (x : Inst) : DrainStep s (s.drainedRegion x) := (DrainStep.endDrain s x).trans (.drainRegion ..)

/-- An instance whose image is closed. -/
def Inst.saved (x : Inst) (evict : Bool) (im : SaveImage) : Inst := { x with phase := .saved, save := some im, region := if evict then [] else x.region }

/-- The image of a drained region written and closed. -/
def State.imageClosed (s : State) (d : Nat) (x : Inst) (evict : Bool) (im : SaveImage) : State :=
  { (((s.drainedRegion x).writeSave x im).setInst (x.saved evict im)) with halts := SMap.erase s.halts d }

section
variable {s : State} {d : Nat} {evict : Bool} {dest : SaveAt} {x : Inst}

theorem exec_regionQuiesced (hd : d < 16) (found : s.inst? d (SMap.get s.halts d 0) = some x) : exec (.regionQuiesced d evict dest) s =
    if x.phase != .halting || !((s.instTiles x).all s.tileSettled) then .next s
    else if evict && !((s.drainedRegion x).mayEvict x && (s.drainedRegion x).fenceHolds x dest.fence) then .next s
    else if ((s.drainedRegion x).keyAt d dest).isNone ||
        !(s.drainedRegion x).holdsImage d (saveInst (s.drainedRegion x) x evict dest.address (((s.drainedRegion x).keyAt d dest).getD 0) dest.fence) then .next s
    else .next (if evict then (s.imageClosed d x evict (saveInst (s.drainedRegion x) x evict dest.address (((s.drainedRegion x).keyAt d dest).getD 0) dest.fence)).vacate x
      else s.imageClosed d x evict (saveInst (s.drainedRegion x) x evict dest.address (((s.drainedRegion x).keyAt d dest).getD 0) dest.fence)) := by
  change execRegionQuiesced d evict dest s = _
  rw [execRegionQuiesced, if_neg (by omega), found]
  rfl

/-- Nothing fired by a halted region is unfinished. -/
def State.settledRegion (s : State) (x : Inst) : Prop := x.phase = .halting ∧ ∀ t ∈ s.instTiles x, s.tileSettled t = true

theorem unsettled_eq_false : (x.phase != .halting || !((s.instTiles x).all s.tileSettled)) = true ↔ ¬ s.settledRegion x := by
  rw [State.settledRegion, ← List.all_eq_true, not_and_or, Bool.or_eq_true, bne_iff_ne, Bool.not_eq_true', Bool.not_eq_true]

section
variable (hd : d < 16) (found : s.inst? d (SMap.get s.halts d 0) = some x)
include hd found

theorem regionQuiesced_unsettled (h : ¬ s.settledRegion x) : exec (.regionQuiesced d evict dest) s = .next s := by
  rw [exec_regionQuiesced hd found, if_pos (unsettled_eq_false.mpr h)]

variable (settled : s.settledRegion x)
include settled

theorem exec_regionQuiesced_settled : exec (.regionQuiesced d evict dest) s =
    if evict && !((s.drainedRegion x).mayEvict x && (s.drainedRegion x).fenceHolds x dest.fence) then .next s
    else if ((s.drainedRegion x).keyAt d dest).isNone ||
        !(s.drainedRegion x).holdsImage d (saveInst (s.drainedRegion x) x evict dest.address (((s.drainedRegion x).keyAt d dest).getD 0) dest.fence) then .next s
    else .next (if evict then (s.imageClosed d x evict (saveInst (s.drainedRegion x) x evict dest.address (((s.drainedRegion x).keyAt d dest).getD 0) dest.fence)).vacate x
      else s.imageClosed d x evict (saveInst (s.drainedRegion x) x evict dest.address (((s.drainedRegion x).keyAt d dest).getD 0) dest.fence)) := by
  rw [exec_regionQuiesced hd found, if_neg fun h => unsettled_eq_false.mp h settled]

theorem regionQuiesced_keyless (h : (s.drainedRegion x).keyAt d dest = none) : exec (.regionQuiesced d evict dest) s = .next s := by
  rw [exec_regionQuiesced_settled hd found settled, h, if_pos (show (Option.none.isNone || _) = true from rfl), ite_self]

theorem regionQuiesced_outside {key : Nat} (keyed : (s.drainedRegion x).keyAt d dest = some key)
    (h : (s.drainedRegion x).holdsImage d (saveInst (s.drainedRegion x) x evict dest.address key dest.fence) = false) : exec (.regionQuiesced d evict dest) s = .next s := by
  rw [exec_regionQuiesced_settled hd found settled, keyed, Option.getD_some, h, if_pos (show (_ || !false) = true from Bool.or_true _), ite_self]

theorem regionQuiesced_waits (h : (s.drainedRegion x).mayEvict x = false ∨ (s.drainedRegion x).fenceHolds x dest.fence = false) :
    exec (.regionQuiesced d true dest) s = .next s := by
  rw [exec_regionQuiesced_settled hd found settled, if_pos]
  rcases h with h | h
  · rw [h]
    rfl
  · rw [h, Bool.and_false]
    rfl

theorem regionQuiesced_closes {key : Nat} (keyed : (s.drainedRegion x).keyAt d dest = some key)
    (holds : (s.drainedRegion x).holdsImage d (saveInst (s.drainedRegion x) x evict dest.address key dest.fence) = true)
    (may : evict = true → (s.drainedRegion x).mayEvict x = true ∧ (s.drainedRegion x).fenceHolds x dest.fence = true) : exec (.regionQuiesced d evict dest) s =
      .next (if evict then (s.imageClosed d x evict (saveInst (s.drainedRegion x) x evict dest.address key dest.fence)).vacate x
        else s.imageClosed d x evict (saveInst (s.drainedRegion x) x evict dest.address key dest.fence)) := by
  rw [exec_regionQuiesced_settled hd found settled, keyed, Option.getD_some, holds, if_neg, if_neg (show ¬ ((some key).isNone || !true) = true from nofun)]
  cases evict with
  | false => nofun
  | true =>
    rw [(may rfl).1, (may rfl).2]
    nofun

end

theorem writeSave_kept (s : State) (x : Inst) (im : SaveImage) :
    (s.writeSave x im).insts = s.insts ∧ (s.writeSave x im).accesses = s.accesses ∧ (s.writeSave x im).tiles = s.tiles := by
  rw [writeSave_rest]
  exact ⟨rfl, rfl, rfl⟩

/-- A closed image: what has been written, and what stands. -/
theorem imageClosed_leaves (found : s.inst? x.domain x.number = some x) (evict : Bool) (address key : Nat) (fence : W64) :
    let im := saveInst (s.drainedRegion x) x evict address key fence
    let u := s.imageClosed x.domain x evict im
    u.accesses = s.accesses ∧ SMap.get u.halts x.domain 0 = 0 ∧ u.inst? x.domain x.number = some (x.saved evict im) ∧
    (∀ a, a / 16 < address / 16 ∨ address + im.len ≤ a / 16 * 16 → u.mem.byte a = s.mem.byte a) ∧
    (address % 16 = 0 → u.mem.keyOf (address / 16) = key) ∧ u.tiles = (s.drainedRegion x).tiles := by
  intro im u
  have drain := DrainStep.drainedRegion s x
  have bounded : im.Bounded := saveInst_bounded ..
  have start : im.address = address := rfl
  have under : im.key = key := rfl
  obtain ⟨bytes, keys⟩ := writeSave_memory bounded (s.drainedRegion x) x
  obtain ⟨insts, accesses, tiles⟩ := writeSave_kept (s.drainedRegion x) x im
  rw [start, under] at keys
  rw [start] at bytes
  clear_value im
  have standing : ((s.drainedRegion x).writeSave x im).inst? x.domain x.number = some x := by
    rw [inst?_congr (insts.trans drain.insts), found]
  have memory : u.mem = ((s.drainedRegion x).writeSave x im).mem := rfl
  refine ⟨accesses.trans drain.accesses, SMap.get_erase_same .., ?_, fun a outside => ?_, ?_, tiles⟩
  · exact inst?_setInst_same (y := x.saved evict im) standing rfl rfl
  · rw [memory, bytes a outside, drain.mem]
  · rw [memory]
    exact keys

end

/-- The records of an image are those of the tiles of the region. -/
theorem saveInst_tiles (s : State) (x : Inst) (evict : Bool) (address key : Nat) (fence : W64) :
    (saveInst (s.drainedRegion x) x evict address key fence).tiles.map (fun st => st.from') = x.region.filter (fun t => (s.tile t).inst == x.number) ∧
    ∀ st ∈ (saveInst (s.drainedRegion x) x evict address key fence).tiles, st.tile = (s.drainedRegion x).tile st.from' := by
  have same : (fun t => ((s.drainedRegion x).tile t).inst == x.number) = fun t => (s.tile t).inst == x.number :=
    funext fun t => by rw [(DrainStep.drainedRegion s x).tileInst]
  refine ⟨?_, fun st hst => ?_⟩
  · rw [saveInst, ← same, List.map_map]
    exact List.map_id _
  · obtain ⟨t, -, rfl⟩ := List.mem_map.mp hst
    rfl

/-! ### Keys and fences (R22, R311, R455) -/

theorem encryptedTier_iff (t : Nat) : encryptedTier t = true ↔ t ∈ [2, 3, 4, 5] := by
  simp [encryptedTier, or_assoc]

theorem keyAt_eq (s : State) (d : Nat) (dest : SaveAt) : s.keyAt d dest =
    if tierOf dest.address ∈ [2, 3, 4, 5] then
      if (s.keySlot dest.slot).state = .loaded ∧ (s.keySlot dest.slot).domain = d then some (s.keySlot dest.slot).ident else none
    else some 0 := by
  unfold State.keyAt
  dsimp only
  by_cases tier : tierOf dest.address ∈ [2, 3, 4, 5]
  · rw [if_pos tier, (encryptedTier_iff _).mpr tier, if_neg nofun]
    exact if_congr (by simp) rfl rfl
  · rw [if_neg tier, Bool.eq_false_iff.mpr fun h => tier ((encryptedTier_iff _).mp h)]
    rfl

theorem fenceHolds_iff (s : State) (x : Inst) (fence : W64) : s.fenceHolds x fence = true ↔
    if witNull fence then x.level < 2 ∨ s.targeting x = []
    else s.standing (s.lathTile x.domain) fence = .satisfied ∧
      ∃ f ∈ s.fences, f.domain = x.domain ∧ f.wit = fence ∧ ∀ q ∈ s.targeting x, localWitness (writerOfQueue q) (s.tail q) ∈ f.covers := by
  unfold State.fenceHolds State.fenced
  cases witNull fence with
  | true => simp
  | false =>
    simp only [Bool.false_eq_true, ↓reduceIte, Bool.and_eq_true, List.any_eq_true, List.all_eq_true, beq_iff_eq, List.contains_iff_mem, and_assoc]
    exact and_comm

theorem mem_targeting (s : State) (x : Inst) (q : Nat) : q ∈ s.targeting x ↔ q < 272 ∧ s.queueDomain q = some x.domain ∧ s.tail q ≠ 0 ∧
    ((s.cmdQueue q).asid = x.asid ∨ (q < 256 ∧ ∃ t ∈ x.region, columnOf t = q / 4)) := by
  simp only [State.targeting, List.mem_filter, List.mem_range, Bool.and_eq_true, Bool.or_eq_true, beq_iff_eq, bne_iff_ne, decide_eq_true_eq, List.any_eq_true,
    and_assoc, ne_eq]

end Sys2Proof.Machine
end

section
/-! SUPPORT. A saved instance restored in place: its contexts released, its replaced requests answered, its loads issued again (R385, R387; O46). -/

namespace Sys2Proof.Machine

open Sys2Proof

/-! ### Contexts kept -/

/-- A step that leaves every context. -/
def KeepsCtxs (s u : State) : Prop := ∀ t c, u.ctx t c = s.ctx t c

theorem KeepsCtxs.of_tiles {s u : State} (h : u.tiles = s.tiles) : KeepsCtxs s u := fun t c => by
  rw [State.ctx, State.tile, h]
  rfl

/-! ### Contexts released (R375, R385 step 7) -/

/-- A context released. -/
def Ctx.released (cx : Ctx) : Ctx := if cx.word.valid then { cx with held := false, restored := true } else cx

theorem Ctx.released_released (cx : Ctx) : cx.released.released = cx.released := by
  unfold Ctx.released
  cases valid : cx.word.valid with
  | false => simp [valid]
  | true => simp [valid]

/-- A step that releases contexts, and changes nothing else of an instance. -/
structure ReleaseStep (s u : State) : Prop where
  insts : u.insts = s.insts
  pool : u.pool = s.pool
  ctx : ∀ t c, u.ctx t c = s.ctx t c ∨ u.ctx t c = (s.ctx t c).released

theorem ReleaseStep.refl (s : State) : ReleaseStep s s := ⟨rfl, rfl, fun _ _ => .inl rfl⟩

theorem ReleaseStep.trans {s t u : State} (h : ReleaseStep s t) (h' : ReleaseStep t u) : ReleaseStep s u := by
  refine ⟨h'.insts.trans h.insts, h'.pool.trans h.pool, fun k c => ?_⟩
  rcases h'.ctx k c with same | released
  · rw [same]
    exact h.ctx k c
  · right
    rcases h.ctx k c with same | released'
    · rw [released, same]
    · rw [released, released', Ctx.released_released]

/-- A tile with its contexts released. -/
def State.releaseTile (s : State) (t : Nat) : State := s.setTile t { s.tile t with ctxs := Vector.ofFn fun k => (s.tile t).ctxs[k].released }

theorem ctx_releaseTile (s : State) (t c : Nat) : (s.releaseTile t).ctx t c = (s.ctx t c).released := by
  rw [State.releaseTile, ctx_setTile_same]
  exact at8_ofFn ..

theorem ReleaseStep.releaseTile (s : State) (t : Nat) : ReleaseStep s (s.releaseTile t) := by
  refine ⟨rfl, rfl, fun k c => ?_⟩
  by_cases hk : k = t
  · subst hk
    exact .inr (ctx_releaseTile ..)
  · left
    rw [State.releaseTile, State.ctx, tile_setTile_other s hk]
    rfl

theorem releaseCtxs_eq (s : State) (x : Inst) : s.releaseCtxs x = (s.instTiles x).foldl State.releaseTile s := rfl

theorem ReleaseStep.releaseCtxs (s : State) (x : Inst) : ReleaseStep s (s.releaseCtxs x) := foldl_rel .refl .trans .releaseTile _ s

theorem ctx_releaseCtxs {s : State} {x : Inst} {t : Nat} (ht : t ∈ s.instTiles x) (c : Nat) : (s.releaseCtxs x).ctx t c = (s.ctx t c).released := by
  have fixed : ∀ c, ((s.releaseCtxs x).ctx t c).released = (s.releaseCtxs x).ctx t c :=
    foldl_establishes (R := ReleaseStep) (Q := fun t u => ∀ c, (u.ctx t c).released = u.ctx t c) .releaseTile
      (fun s t c => by rw [ctx_releaseTile, Ctx.released_released])
      (fun step fixed c => by
        rcases step.ctx _ c with same | released
        · rw [same, fixed]
        · rw [released, Ctx.released_released])
      s ht
  rcases (ReleaseStep.releaseCtxs s x).ctx t c with same | released
  · rw [← fixed c, same]
  · exact released

/-! ### Replaced requests answered (R365, R387) -/

/-- A step that answers requests: instances and tiles stay, and an answer given stays. -/
structure AnswerStep (s u : State) : Prop where
  insts : u.insts = s.insts
  tiles : u.tiles = s.tiles
  kept : s.resolved ⊆ u.resolved

theorem AnswerStep.refl (s : State) : AnswerStep s s := ⟨rfl, rfl, fun _ h => h⟩

theorem AnswerStep.trans {s t u : State} (h : AnswerStep s t) (h' : AnswerStep t u) : AnswerStep s u :=
  ⟨h'.insts.trans h.insts, h'.tiles.trans h.tiles, fun _ in' => h'.kept (h.kept in')⟩

/-- A request whose replacement has been taken, answered. -/
def State.answerEntry (number : Nat) (s : State) (e : PoolEntry) : State := (s.dropEntry e).resolve e 0 number s.ns false noFail

theorem AnswerStep.answerEntry (number : Nat) (s : State) (e : PoolEntry) : AnswerStep s (s.answerEntry number e) := by
  unfold State.answerEntry State.resolve
  split
  · exact ⟨rfl, rfl, fun _ h => h⟩
  · exact ⟨rfl, rfl, fun _ h => List.mem_append_left _ h⟩

/-- A request has its answer. -/
def State.answered (e : PoolEntry) (s : State) : Prop := ∀ id, e.request = some id → ∃ vs, (id, vs) ∈ s.resolved

theorem answerEntry_answers (number : Nat) (s : State) (e : PoolEntry) : (s.answerEntry number e).answered e := by
  intro id named
  rw [State.answerEntry, State.resolve, named]
  exact ⟨_, List.mem_append_right _ List.mem_cons_self⟩

theorem AnswerStep.answerReplaced (s : State) (x : Inst) : AnswerStep s (s.answerReplaced x) := foldl_rel .refl .trans (.answerEntry x.number) _ s

theorem answerReplaced_answers {s : State} {x : Inst} {e : PoolEntry} (he : e ∈ s.pool) (taken : e.taken = true) (domain : e.domain = x.domain)
    (parent : e.parent = x.number) : (s.answerReplaced x).answered e := by
  have mine : e ∈ s.pool.filter fun e => e.taken && e.domain == x.domain && e.parent == x.number :=
    List.mem_filter.mpr ⟨he, by rw [taken, domain, parent, beq_self_eq_true, beq_self_eq_true]; rfl⟩
  exact foldl_establishes (R := AnswerStep) (Q := State.answered) (.answerEntry x.number) (answerEntry_answers x.number)
    (fun step answered id named => (answered id named).imp fun _ in' => step.kept in') s mine

/-! ### The event (R385) -/

/-- An instance that runs again. -/
def Inst.resumed (x : Inst) : Inst := { x with phase := .running, save := none }

/-- A placed instance released. -/
def State.resumeInst (s : State) (x : Inst) : State := ((s.setInst x.resumed).releaseCtxs x.resumed).answerReplaced x.resumed

section
variable {s : State} {d n : Nat} {move : Bool} {fence : W64} {x : Inst} {im : SaveImage}

theorem exec_saveImageRestore (hd : d < 16) (found : s.inst? d n = some x) (saved : x.save = some im) : exec (.saveImageRestore d n move fence) s =
    if x.phase == .restoring then
      if im.tiles.all fun st => s.standing (s.lathTile d) st.haltWit == .satisfied || witNull st.haltWit then
        .next (s.resumeInst x)
      else .next s
    else if x.phase != .saved then .next s
    else match s.image? d x.config with
      | some st => .next (s.restoreInst x st.parse.1 im move fence).noteAllReady
      | none => .next s := by
  change execSaveImageRestore d n move fence s = _
  rw [execSaveImageRestore, if_neg (by omega), found]
  dsimp only
  rw [saved] <;> rfl

/-- The contexts of a placed instance run once every HALT_WIT is satisfied; a null witness is. -/
theorem haltWits_iff : (im.tiles.all fun st => s.standing (s.lathTile d) st.haltWit == .satisfied || witNull st.haltWit) = true ↔
    ∀ st ∈ im.tiles, s.standing (s.lathTile d) st.haltWit = .satisfied := by
  rw [List.all_eq_true]
  refine forall₂_congr fun st _ => ?_
  rw [Bool.or_eq_true, beq_iff_eq]
  exact ⟨fun h => h.elim id fun null => standing_null s _ (by simpa [witNull] using null), .inl⟩

section
variable (hd : d < 16) (found : s.inst? d n = some x) (saved : x.save = some im)
include hd found saved

/-- The last step of a restore: the instance runs, its contexts go on with RESTORED, its replaced requests are answered (R375, R385, R387). -/
theorem restore_releases (restoring : x.phase = .restoring) (satisfied : ∀ st ∈ im.tiles, s.standing (s.lathTile d) st.haltWit = .satisfied) :
    ∃ u, exec (.saveImageRestore d n move fence) s = .next u ∧ u.mem = s.mem ∧ u.inst? d n = some { x with phase := .running, save := none } ∧
      (∀ e ∈ s.pool, e.taken = true → e.domain = d → e.parent = n → ∀ id, e.request = some id → ∃ vs, (id, vs) ∈ u.resolved) ∧
      ∀ t ∈ s.instTiles x, ∀ c, c < 8 → (s.ctx t c).word.valid = true → u.ctx t c = { s.ctx t c with held := false, restored := true } := by
  obtain ⟨rfl, rfl⟩ := key_of_inst? found
  have released := ReleaseStep.releaseCtxs (s.setInst x.resumed) x.resumed
  have answered := AnswerStep.answerReplaced ((s.setInst x.resumed).releaseCtxs x.resumed) x.resumed
  refine ⟨s.resumeInst x, ?_, ?_, ?_, fun e he taken domain parent => ?_, fun t ht c _ valid => ?_⟩
  · rw [exec_saveImageRestore hd found saved, if_pos (beq_iff_eq.mpr restoring), if_pos (haltWits_iff.mpr satisfied)]
  · rw [State.resumeInst, State.answerReplaced_mem, State.releaseCtxs_mem]
    rfl
  · rw [State.resumeInst, inst?_congr (answered.insts.trans released.insts)]
    exact inst?_setInst_same (y := x.resumed) found rfl rfl
  · exact answerReplaced_answers (x := x.resumed) (by rw [released.pool]; exact he) taken domain parent
  · have same : (s.resumeInst x).ctx t c = ((s.setInst x.resumed).releaseCtxs x.resumed).ctx t c := KeepsCtxs.of_tiles answered.tiles t c
    rw [same, ctx_releaseCtxs (s := s.setInst x.resumed) (x := x.resumed) ht]
    exact if_pos valid

theorem restore_waits (restoring : x.phase = .restoring) (unsatisfied : ∃ st ∈ im.tiles, s.standing (s.lathTile d) st.haltWit ≠ .satisfied) :
    exec (.saveImageRestore d n move fence) s = .next s := by
  obtain ⟨st, hst, open'⟩ := unsatisfied
  rw [exec_saveImageRestore hd found saved, if_pos (beq_iff_eq.mpr restoring), if_neg fun h => open' (haltWits_iff.mp h st hst)]

/-- A saved instance whose image is known takes its next step. -/
theorem exec_restoreInst (phase : x.phase = .saved) {st : StoredImage} (image : s.image? d x.config = some st) :
    exec (.saveImageRestore d n move fence) s = .next (s.restoreInst x st.parse.1 im move fence).noteAllReady := by
  rw [exec_saveImageRestore hd found saved, phase, if_neg nofun, if_neg nofun, image]

end

/-! ### In place (R385) -/

theorem setCtx_same (s : State) (t c k j : Nat) : (s.setCtx t c (s.ctx t c)).ctx k j = s.ctx k j := by
  have whole : (s.tile t).setCtx c (s.ctx t c) = s.tile t := by
    rw [Tile.setCtx, State.ctx, Tile.ctx, set8_at8]
  rw [State.setCtx, whole]
  by_cases hk : k = t
  · rw [hk, ctx_setTile_same]
    rfl
  · rw [State.ctx, tile_setTile_other s hk]
    rfl

/-- A fold over elements whose contexts are all quiet leaves every context, when a quiet element does. -/
theorem foldl_quiet {α : Type} {P : State → α → Prop} {f : State → α → State} (congr : ∀ {s u : State} {a}, KeepsCtxs s u → P s a → P u a)
    (step : ∀ s a, P s a → KeepsCtxs s (f s a)) : ∀ {xs : List α} {s : State}, (∀ a ∈ xs, P s a) → KeepsCtxs s (xs.foldl f s) := by
  intro xs
  induction xs with
  | nil => exact fun _ _ _ => rfl
  | cons a rest ih =>
    intro s quiet t c
    have first := step s a (quiet a List.mem_cons_self)
    rw [List.foldl_cons, ih (fun b hb => congr first (quiet b (List.mem_cons_of_mem a hb))) t c, first]

/-- A context that no restore changes: no load to issue again, and no record of a halt. -/
def State.quietCtx (s : State) (t c : Nat) : Prop := (s.ctx t c).reissues = [] ∧ (s.ctx t c).halt = none

theorem State.quietCtx.congr {s u : State} {t c : Nat} (h : KeepsCtxs s u) (quiet : s.quietCtx t c) : u.quietCtx t c := by
  rw [State.quietCtx, h]
  exact quiet

/-- A tile whose contexts are quiet. -/
def State.quietTile (s : State) (t : Nat) : Prop := ∀ c, c < 8 → s.quietCtx t c

theorem State.quietTile.congr {s u : State} {t : Nat} (h : KeepsCtxs s u) (quiet : s.quietTile t) : u.quietTile t := fun c hc => (quiet c hc).congr h

theorem renewHalts_quiet {s : State} {t : Nat} (quiet : s.quietTile t) : KeepsCtxs s (s.renewHalts t) := by
  unfold State.renewHalts
  refine foldl_quiet (P := fun s c => s.quietCtx t c) State.quietCtx.congr (fun s c quiet => ?_) fun c hc => quiet c (List.mem_range.mp hc)
  obtain ⟨-, unhalted⟩ := quiet
  dsimp only
  rw [unhalted]
  exact fun _ _ => rfl

/-- The loads of a context issued again. -/
def State.reissueCtx (t : Nat) (s : State) (c : Nat) : State :=
  (s.ctx t c).reissues.foldl (fun s r => s.reissue t c r)
    (s.setCtx t c { s.ctx t c with cancelled := [], halt := (s.ctx t c).halt.map fun h => { h with reissue := [] } })

theorem reissueCtx_quiet {s : State} {t c : Nat} (quiet : s.quietCtx t c) : KeepsCtxs s (s.reissueCtx t c) := by
  obtain ⟨none', unhalted⟩ := quiet
  have uncancelled : (s.ctx t c).cancelled = [] := (List.append_eq_nil_iff.mp none').1
  have same : { s.ctx t c with cancelled := [], halt := (s.ctx t c).halt.map fun h => { h with reissue := [] } } = s.ctx t c := by
    rw [unhalted, ← uncancelled, Option.map_none, ← unhalted]
  rw [State.reissueCtx, none', List.foldl_nil, same]
  exact setCtx_same s t c

theorem reissueAll_quiet {s : State} {x : Inst} (quiet : ∀ t ∈ s.instTiles x, s.quietTile t) : KeepsCtxs s (s.reissueAll x) :=
  foldl_quiet (P := State.quietTile) (f := fun s t => (List.range 8).foldl (State.reissueCtx t) s) State.quietTile.congr
    (fun _ t quiet => foldl_quiet (P := fun s c => s.quietCtx t c) State.quietCtx.congr (fun _ _ => reissueCtx_quiet)
      fun c hc => quiet c (List.mem_range.mp hc))
    quiet

/-- A saved instance that kept its region goes on in it. -/
def State.restoreInPlace (s : State) (x : Inst) : State :=
  ((s.instTiles x).foldl State.renewHalts (s.setInst { x with phase := .restoring })).reissueAll { x with phase := .restoring }

theorem restoreInPlace_mem (s : State) (x : Inst) : (s.restoreInPlace x).mem = s.mem := by
  rw [State.restoreInPlace, State.reissueAll_mem, foldl_mem fun s t => s.renewHalts_mem t]
  rfl

theorem restoreInPlace_keeps (s : State) (x : Inst) : KeepsPlaces (s.setInst { x with phase := .restoring }) (s.restoreInPlace x) :=
  (KeepsPlaces.foldl .renewHalts _ _).trans (.reissueAll ..)

theorem restoreInPlace_quiet {s : State} {x : Inst} (quiet : ∀ t ∈ s.instTiles x, s.quietTile t) : KeepsCtxs s (s.restoreInPlace x) := by
  have renewed : KeepsCtxs (s.setInst { x with phase := .restoring }) ((s.instTiles x).foldl State.renewHalts (s.setInst { x with phase := .restoring })) :=
    foldl_quiet (P := State.quietTile) State.quietTile.congr (fun _ _ => renewHalts_quiet) quiet
  have tiles : ∀ t, (((s.instTiles x).foldl State.renewHalts (s.setInst { x with phase := .restoring })).tile t).inst = (s.tile t).inst :=
    fun t => (KeepsPlaces.foldl .renewHalts _ _).inst t
  intro t c
  refine (reissueAll_quiet (x := { x with phase := .restoring }) (fun k hk => ?_) t c).trans (renewed t c)
  refine (quiet k ?_ : s.quietTile k).congr renewed
  rw [State.instTiles, List.mem_filter, tiles] at hk
  exact List.mem_filter.mpr hk

theorem restore_inPlace (hd : d < 16) (found : s.inst? d n = some x) (saved : x.save = some im) (phase : x.phase = .saved) (kept : im.evicted = false)
    {st : StoredImage} (image : s.image? d x.config = some st) :
    ∃ u, exec (.saveImageRestore d n false fence) s = .next u ∧ u.mem = s.mem ∧ ((u.inst? d n).map fun x : Inst => x.phase) = some .restoring ∧
      ((∀ t ∈ s.instTiles x, ∀ c, c < 8 → (s.ctx t c).reissues = [] ∧ (s.ctx t c).halt = none) → ∀ t ∈ s.instTiles x, ∀ c, c < 8 → u.ctx t c = s.ctx t c) := by
  have here : s.restoreInst x st.parse.1 im false fence = s.restoreInPlace x := by
    rw [State.restoreInst, kept]
    rfl
  refine ⟨(s.restoreInPlace x).noteAllReady, ?_, ?_, ?_, fun quiet t _ c _ => ?_⟩
  · rw [exec_restoreInst hd found saved phase image, here]
  · rw [State.noteAllReady_mem, restoreInPlace_mem]
  · obtain ⟨rfl, rfl⟩ := key_of_inst? found
    have place := ((restoreInPlace_keeps s x).trans (.noteAllReady _)).place x.domain x.number
    rw [inst?_setInst_same (y := { x with phase := .restoring }) found rfl rfl] at place
    have phase := congrArg (Option.map Prod.fst) place
    rw [Option.map_map] at phase
    exact phase
  · exact (KeepsCtxs.of_tiles (noteAllReady_keeps _).1 t c).trans (restoreInPlace_quiet quiet t c)

end

end Sys2Proof.Machine
end

section
/-! SUPPORT. What the loading of an image's paths, and the record of an element written back, leave of instances and tiles (R288, R385, R386; O46). -/

namespace Sys2Proof.Machine

open Sys2Proof

/-! ### Paths laid change routers only (R367) -/

/-- A step that changes nothing but routers. -/
def OnlyRouters (s u : State) : Prop := ∃ routers, u = { s with routers := routers }

theorem OnlyRouters.refl (s : State) : OnlyRouters s s := ⟨s.routers, rfl⟩

theorem OnlyRouters.trans {s t u : State} (h : OnlyRouters s t) (h' : OnlyRouters t u) : OnlyRouters s u := by
  obtain ⟨_, rfl⟩ := h
  obtain ⟨routers, rfl⟩ := h'
  exact ⟨routers, rfl⟩

theorem OnlyRouters.setRouter (s : State) (site : Nat) (r : Router) : OnlyRouters s (s.setRouter site r) := ⟨_, rfl⟩

theorem OnlyRouters.insts {s u : State} (h : OnlyRouters s u) : u.insts = s.insts := by
  obtain ⟨_, rfl⟩ := h
  rfl

section
variable {s u : State} {d inst vc : Nat}

theorem OnlyRouters.addWord {x y z : Nat} {w : RWord} (h : s.addWord x y z w = some u) : OnlyRouters s u := by
  unfold State.addWord at h
  dsimp only at h
  split at h
  · cases h
  · split at h
    · cases h
      exact .refl _
    · split at h
      · cases h
      · cases h
        exact .setRouter ..

theorem OnlyRouters.addPath {want : Nat} {hs : List Hop} (h : s.addPath d inst vc want hs = some u) : OnlyRouters s u := by
  induction hs generalizing s vc with
  | nil =>
    unfold State.addPath at h
    split at h
    · cases h
      exact .refl _
    · cases h
  | cons hop rest ih =>
    unfold State.addPath at h
    dsimp only at h
    split at h
    · cases h
    · split at h
      · cases h
      · next word => exact (OnlyRouters.addWord word).trans (ih h)

theorem OnlyRouters.layPath {want x y z p tx ty tz dir : Nat} (h : s.layPath d inst vc want x y z p tx ty tz dir = some u) : OnlyRouters s u := by
  obtain ⟨way, -, laid⟩ := List.exists_of_findSome?_eq_some h
  split at laid
  · cases laid
  · exact .addPath laid

theorem OnlyRouters.linkIn {t dir tx ty tz tdir tvc : Nat} (h : s.linkIn d inst t dir vc tx ty tz tdir tvc = some u) : OnlyRouters s u := by
  unfold State.linkIn at h
  dsimp only at h
  split at h
  · cases h
  · split at h
    · split at h
      · cases h
        exact .refl s
      · exact .addPath h
    · exact .layPath h

theorem OnlyRouters.linkOut {sx sy sz sdir svc t dir : Nat} (h : s.linkOut d inst sx sy sz sdir svc t dir vc = some u) : OnlyRouters s u := by
  unfold State.linkOut at h
  dsimp only at h
  split at h
  · cases h
  · split at h
    · split at h
      · cases h
        exact .refl s
      · exact .addWord h
    · exact .layPath h

theorem OnlyRouters.lendPort (s : State) (inst site dir vc : Nat) : OnlyRouters s (s.lendPort inst site dir vc) := by
  unfold State.lendPort
  dsimp only
  split
  · exact .setRouter ..
  · exact .refl s

theorem OnlyRouters.markUnlinked (s : State) (x y z dir vc : Nat) : OnlyRouters s (s.markUnlinked x y z dir vc) := by
  unfold State.markUnlinked
  dsimp only
  split
  · exact .refl s
  · exact .setRouter ..

theorem OnlyRouters.linkRequestPort {rg : Region} {t c : Nat} {p : PortRec} (h : s.linkRequestPort d inst rg t c p = some u) : OnlyRouters s u := by
  unfold State.linkRequestPort at h
  dsimp only at h
  split at h
  all_goals split at h
  · exact (OnlyRouters.lendPort ..).trans (.linkIn h)
  · cases h
    exact .refl _
  · exact (OnlyRouters.lendPort ..).trans (.linkOut h)
  · cases h
    exact .refl _

theorem OnlyRouters.linkRequest {rg : Region} {t c : Nat} {ps : List PortRec} (h : s.linkRequest d inst rg t c ps = some u) : OnlyRouters s u := by
  induction ps generalizing s with
  | nil =>
    cases h
    exact .refl _
  | cons p rest ih =>
    unfold State.linkRequest at h
    split at h
    · cases h
    · next port => exact (OnlyRouters.linkRequestPort port).trans (ih h)

end

theorem OnlyRouters.openPorts (s : State) (rg : Region) (ports : List PortRec) : OnlyRouters s (s.openPorts rg ports) :=
  foldl_rel .refl .trans (fun s p => .markUnlinked s _ _ _ p.dir p.vc) _ s

theorem OnlyRouters.dropQuietFeeds (s : State) (d : Nat) : OnlyRouters s (s.dropQuietFeeds d) := by
  refine foldl_rel .refl .trans (fun s port => ?_) _ s
  split
  · exact ⟨_, rfl⟩
  · exact .refl s

/-- An image loaded again around its saved tiles leaves the instances (R385 step 2). -/
theorem reload_insts {s u : State} {x : Inst} {g : Image} {rg : Region} (h : s.reload x g rg = some u) : u.insts = s.insts := by
  have opened (s : State) : (State.openPorts (g.routers.foldl (fun s r => s.loadRouter r rg.ox rg.oy x.number)
      (rg.tiles.foldl (fun s t => s.setTile t { s.tile t with inst := x.number, asid := x.asid }) s)) rg g.ports).insts = s.insts :=
    calc _ = (g.routers.foldl (fun s r => s.loadRouter r rg.ox rg.oy x.number)
        (rg.tiles.foldl (fun s t => s.setTile t { s.tile t with inst := x.number, asid := x.asid }) s)).insts := (OnlyRouters.openPorts ..).insts
      _ = (rg.tiles.foldl (fun s t => s.setTile t { s.tile t with inst := x.number, asid := x.asid }) s).insts :=
        List.foldlRecOn g.routers _ (motive := fun u : State => u.insts = _) rfl fun _ hu _ _ => hu
      _ = s.insts := List.foldlRecOn rg.tiles _ (motive := fun u : State => u.insts = s.insts) rfl fun _ hu _ _ => hu
  unfold State.reload at h
  dsimp only at h
  split at h
  · cases h
    exact (opened _).trans (OnlyRouters.dropQuietFeeds ..).insts
  · exact (OnlyRouters.linkRequest h).insts.trans ((opened _).trans (OnlyRouters.dropQuietFeeds ..).insts)

/-! ### Queues attached again (R288, R310) -/

theorem KeepsPlaces.setMirrors (s : State) (t : Nat) (ms : List Mirror) : KeepsPlaces s (s.setTile t { s.tile t with mirrors := ms }) := .setTile rfl

theorem KeepsPlaces.detach (s : State) (q : Nat) : KeepsPlaces s (s.detach q) := by
  unfold State.detach
  dsimp only
  split
  · exact .of_eq rfl rfl
  · split
    · exact .of_eq rfl rfl
    · exact .trans (t := s.setCmdQueue q { s.cmdQueue q with attached := false }) (.of_eq rfl rfl) (.setMirrors ..)

theorem KeepsPlaces.attach (s : State) (q v : Nat) : KeepsPlaces s (s.attach q v) := by
  unfold State.attach
  dsimp only
  refine (KeepsPlaces.detach s q).trans ?_
  split
  · exact .of_eq rfl rfl
  · split
    · exact .of_eq rfl rfl
    · exact .trans (t := (s.detach q).setCmdQueue q _) (.of_eq rfl rfl) (.setMirrors ..)

theorem KeepsPlaces.reattach (s : State) (old t : Nat) (ms : List Mirror) : KeepsPlaces s (s.reattach old t ms) := by
  unfold State.reattach
  refine .foldl (fun s m => ?_) _ s
  dsimp only
  split
  · exact .attach ..
  · exact .refl s

/-! ### The record of an element written back (R187, R191, R385) -/

/-- A row engine spilled moves no instance. -/
theorem KeepsPlaces.spillEngine (s : State) (t : Nat) : KeepsPlaces s (s.spillEngine t) := by
  unfold State.spillEngine
  dsimp only
  refine KeepsPlaces.trans ?_ (.setTile rfl)
  split
  · exact .refl s
  · next x found =>
    split
    · exact .refl s
    · next im saved =>
      refine .trans (t := s.setInst { x with save := some (im.spill t (s.tile t).row) }) (.setInst fun y hy => ?_) (.of_eq rfl rfl)
      obtain ⟨d, -, found⟩ := Option.bind_eq_some_iff.mp found
      obtain ⟨domain, number⟩ := key_of_inst? found
      have same : s.inst? x.domain x.number = some y := hy
      rw [domain, number, found] at same
      rw [← Option.some.inj same]
      rfl

theorem KeepsPlaces.restoreEngine (s : State) (x : Inst) (st : SavedTile) (t : Nat) : KeepsPlaces s (s.restoreEngine x st t) := by
  have spilled (s : State) (b : Bool) (k : Nat) : KeepsPlaces s (if b then s.spillEngine k else s) := by
    cases b with
    | false => exact .refl s
    | true => exact .spillEngine ..
  have filled (s : State) : KeepsPlaces s (match s.sectionOf x st with
      | none => s
      | some e => s.setTile t { s.tile t with row := { e with owner := x.number } }) := by
    split
    · exact .refl s
    · exact .setTile rfl
  unfold State.restoreEngine
  dsimp only
  split
  · exact .refl s
  · exact ((spilled s _ st.from').trans (spilled _ _ t)).trans (filled _)

/-- What a chain resumed on another element takes: store numbers and a place in the firing order. -/
theorem renumber_rest (t : Nat) (f : List ChainRun → State → ChainRun → ChainRun) (queue : List ChainRun) (s : State) :
    KeepsPlaces s (queue.foldl (fun (acc : List ChainRun × State) r =>
      (acc.1 ++ [f acc.1 acc.2 r], { (acc.2.takeNumbers t (r.groups - r.next)).2 with nextAccess := (acc.2.takeNumbers t (r.groups - r.next)).2.nextAccess + 1 }))
      ([], s)).2 :=
  List.foldlRecOn queue _ (motive := fun p : List ChainRun × State => KeepsPlaces s p.2) (.refl s) fun _ hp _ _ => hp.trans (.of_eq rfl rfl)

theorem KeepsPlaces.renumberChains (s : State) (t : Nat) : KeepsPlaces s (s.renumberChains t) := by
  unfold State.renumberChains
  exact (renumber_rest t (fun _ u r => { r with number := (u.takeNumbers t (r.groups - r.next)).1 - r.next, order := u.nextAccess, fence := (s.tile t).fences })
    _ s).trans (.setTile rfl)

/-- The tile of an element record as it is written back, with what belongs to the new tile. -/
def SavedTile.placed (st : SavedTile) (x : Inst) (now : Tile) : Tile :=
  { st.tile with row := now.row, fences := now.fences, health := now.health, inst := x.number, asid := x.asid, mirrors := now.mirrors }

/-- The site of an element record in a region. -/
def SavedTile.site (st : SavedTile) (rg : Region) : Nat := tileAt (rg.ox + st.x) (rg.oy + st.y) (rg.oz + st.z)

/-- A record written back into its new tile: its pad, and the requests that its element made. -/
def State.writeRecord (s : State) (x : Inst) (rg : Region) (st : SavedTile) : State :=
  ({ s.setTile (st.site rg) (st.placed x (s.tile (st.site rg))) with
    mem := s.mem.putPad (padPA (st.site rg) 0) st.pad st.padFull st.padPoison }).moveCreqs st (st.site rg)

theorem restoreTile_eq {s : State} {x : Inst} {rg : Region} {st : SavedTile} (free : isLathTile (st.site rg) = false) : s.restoreTile x rg st =
    ((((if st.site rg = st.from' then s.writeRecord x rg st else (s.writeRecord x rg st).renumberChains (st.site rg)).restoreEngine x st (st.site rg)).reattach
      st.from' (st.site rg) st.tile.mirrors).renewHalts (st.site rg)) := if_neg (Bool.eq_false_iff.mp free)

/-- A record written back into a tile that no lath has: the tile holds it, and every instance stands where it stood (R385 step 3). -/
theorem restoreTile_keeps {s : State} {x : Inst} {rg : Region} {st : SavedTile} (free : isLathTile (st.site rg) = false) :
    KeepsPlaces (s.setTile (st.site rg) (st.placed x (s.tile (st.site rg)))) (s.restoreTile x rg st) := by
  have written : KeepsPlaces (s.setTile (st.site rg) (st.placed x (s.tile (st.site rg)))) (s.writeRecord x rg st) := .of_eq rfl rfl
  rw [restoreTile_eq free]
  refine KeepsPlaces.trans (KeepsPlaces.trans (KeepsPlaces.trans ?_ (.restoreEngine ..)) (.reattach ..)) (.renewHalts ..)
  split
  · exact written
  · exact written.trans (.renumberChains ..)

theorem restoreTile_lath {s : State} {x : Inst} {rg : Region} {st : SavedTile} (lath : isLathTile (st.site rg) = true) :
    s.restoreTile x rg st = s := if_pos lath

/-- No record written back moves an instance. -/
theorem restoreTile_place (s : State) (x : Inst) (rg : Region) (st : SavedTile) (d n : Nat) :
    ((s.restoreTile x rg st).inst? d n).map Inst.place = (s.inst? d n).map Inst.place := by
  cases lath : isLathTile (st.site rg) with
  | false => exact (restoreTile_keeps lath).place d n
  | true => rw [restoreTile_lath lath]

theorem KeepsPlaces.restoreRouters (s : State) (rg : Region) (rs : List (Nat × Nat × Nat × Router)) : KeepsPlaces s (s.restoreRouters rg rs) := by
  unfold State.restoreRouters
  refine .foldl (fun _ _ => ?_) _ s
  exact .of_eq rfl rfl

theorem KeepsPlaces.restoreVaults (s : State) (rg : Region) (vs : List (List Host.Cell × NSet × NSet)) : KeepsPlaces s (s.restoreVaults rg vs) := by
  unfold State.restoreVaults
  refine .foldl (fun _ _ => ?_) _ s
  exact .of_eq rfl rfl

theorem KeepsPlaces.remapPages (s : State) (x : Inst) (rg : Region) (im : SaveImage) : KeepsPlaces s (s.remapPages x rg im) := by
  unfold State.remapPages
  dsimp only
  split
  · exact .refl s
  · exact .of_eq rfl rfl

end Sys2Proof.Machine
end

section
/-! SUPPORT. A saved instance placed in a region, and one that gives up its region for a move (R311, R385, R386; O46). -/

namespace Sys2Proof.Machine

open Sys2Proof

/-! ### Placed (R385) -/

/-- A restore places an instance under a changed entry witness: it is moved, or it comes into other columns (R386). -/
def Inst.displaced (x : Inst) (rg : Region) (move : Bool) : Bool := move || (decide (2 ≤ x.level) && (rg.ox != x.ox || rg.oy != x.oy))

/-- The entry witness with which a restore places an instance (R311, R386). -/
def State.placeWitness (s : State) (x : Inst) (im : SaveImage) (rg : Region) (move : Bool) : Lift :=
  if x.displaced rg move then moveWitness s x im.fence (im.tiles.map (·.haltWit)) else .done x.entryWit

/-- An instance as it is placed. -/
def Inst.placed (x : Inst) (g : Image) (rg : Region) (wit : W64) : Inst :=
  { x with ox := rg.ox, oy := rg.oy, oz := rg.oz, tiles := g.placedTiles rg, region := rg.tiles, reserve := rg.reserve, phase := .restoring, entryWit := wit }

/-- The records of an image written back. -/
def State.restoreTiles (s : State) (x : Inst) (g : Image) (im : SaveImage) (rg : Region) (wit : W64) : State :=
  im.tiles.foldl (fun s st => s.restoreTile x rg st) (s.setInst (x.placed g rg wit))

/-- An instance as it is placed, with the save image that the spills of its restore have left. -/
def State.placedNow (s : State) (x : Inst) (g : Image) (rg : Region) (wit : W64) : Inst :=
  ((s.inst? x.domain x.number).map fun y => { x.placed g rg wit with save := y.save }).getD (x.placed g rg wit)

/-- What is left of a restore once the records are written back. -/
def State.finishRestore (s : State) (x : Inst) (g : Image) (im : SaveImage) (rg : Region) (wit : W64) : State :=
  ((((s.restoreRouters rg im.routers).restoreVaults rg im.vaults).remapPages x rg im).setInst (s.placedNow x g rg wit)).reissueAll (s.placedNow x g rg wit)

theorem placeSaved_eq (s : State) (x : Inst) (g : Image) (im : SaveImage) (move : Bool) : s.placeSaved x g im move =
    match s.restoreRegion x g im move with
    | none => none
    | some rg => match s.placeWitness x im rg move, s.reload x g rg with
      | .done wit, some s1 => some ((s1.restoreTiles x g im rg wit).finishRestore x g im rg wit)
      | _, _ => none := by
  rw [State.placeSaved] <;> rfl

section
variable {s : State} {x : Inst} {g : Image} {im : SaveImage} {rg : Region} {move : Bool} {wit : W64}

theorem placeSaved_crowded (h : s.restoreRegion x g im move = none) : s.placeSaved x g im move = none := by
  rw [placeSaved_eq, h]

theorem placeSaved_waits (region : s.restoreRegion x g im move = some rg) (waiting : s.placeWitness x im rg move = .waiting) : s.placeSaved x g im move = none := by
  rw [placeSaved_eq, region]
  dsimp only
  rw [waiting]

theorem placeSaved_placed {s1 : State} (region : s.restoreRegion x g im move = some rg) (done : s.placeWitness x im rg move = .done wit)
    (loaded : s.reload x g rg = some s1) : s.placeSaved x g im move = some ((s1.restoreTiles x g im rg wit).finishRestore x g im rg wit) := by
  rw [placeSaved_eq, region]
  dsimp only
  rw [done, loaded]

end

theorem placedNow_is (s : State) (x : Inst) (g : Image) (rg : Region) (wit : W64) :
    ∃ save, s.placedNow x g rg wit = { x.placed g rg wit with save := save } := by
  unfold State.placedNow
  cases s.inst? x.domain x.number with
  | none => exact ⟨(x.placed g rg wit).save, rfl⟩
  | some y => exact ⟨y.save, rfl⟩

section
variable {s : State} {x y : Inst} {g : Image} {im : SaveImage} {rg : Region} {wit : W64} {st : SavedTile}

/-- What follows the records moves no instance. -/
theorem finishRestore_keeps (standing : (s.inst? x.domain x.number).map Inst.place = some (x.placed g rg wit).place) :
    KeepsPlaces s (s.finishRestore x g im rg wit) := by
  have before : KeepsPlaces s (((s.restoreRouters rg im.routers).restoreVaults rg im.vaults).remapPages x rg im) :=
    ((KeepsPlaces.restoreRouters ..).trans (.restoreVaults ..)).trans (.remapPages ..)
  obtain ⟨save, now⟩ := placedNow_is s x g rg wit
  refine (before.trans (.setInst fun z found => ?_)).trans (.reissueAll ..)
  rw [now] at found ⊢
  have place := before.place x.domain x.number
  rw [standing] at place
  have mine : (((s.restoreRouters rg im.routers).restoreVaults rg im.vaults).remapPages x rg im).inst? x.domain x.number = some z := found
  rw [mine] at place
  exact (Option.some.inj place).symm

/-- An instance of one record placed: where it stands, and what its tile holds (R385). -/
theorem placed_leaves (found : s.inst? x.domain x.number = some y) (one : im.tiles = [st]) :
    let u := ((s.restoreTiles x g im rg wit).finishRestore x g im rg wit).noteAllReady
    ((u.inst? x.domain x.number).map fun x : Inst => (x.phase, x.region, x.ox, x.oy, x.oz, x.entryWit)) =
      some (.restoring, rg.tiles, rg.ox, rg.oy, rg.oz, wit) ∧
    (isLathTile (st.site rg) = false → (u.tile (st.site rg)).inst = x.number ∧
      ∀ c, c < 8 → (u.ctx (st.site rg) c).d = (at8 st.tile.ctxs c).d ∧ (u.ctx (st.site rg) c).word = (at8 st.tile.ctxs c).word) := by
  intro u
  have written : s.restoreTiles x g im rg wit = (s.setInst (x.placed g rg wit)).restoreTile x rg st := by
    rw [State.restoreTiles, one]
    rfl
  have standing : ((s.restoreTiles x g im rg wit).inst? x.domain x.number).map Inst.place = some (x.placed g rg wit).place := by
    rw [written, restoreTile_place, inst?_setInst_same (y := x.placed g rg wit) found rfl rfl]
    rfl
  have kept : KeepsPlaces (s.restoreTiles x g im rg wit) u := (finishRestore_keeps standing).trans (.noteAllReady _)
  refine ⟨(kept.place x.domain x.number).trans standing, fun free => ?_⟩
  have holds := kept.tile (st.site rg)
  rw [written, (restoreTile_keeps free).tile, tile_setTile_same] at holds
  exact ⟨congrArg Prod.fst holds, fun c _ => Prod.ext_iff.mp (congrFun (congrArg Prod.snd holds) c)⟩

end

/-! ### Not placed yet -/

/-- A state that only the readiness of tables tells from another. -/
def State.stays (s u : State) : Prop := u.mem = s.mem ∧ u.insts = s.insts ∧ u.tiles = s.tiles

theorem stays_noteAllReady (s : State) : s.stays s.noteAllReady := ⟨State.noteAllReady_mem s, noteAllReady_insts s, (noteAllReady_keeps s).1⟩

/-- An instance's place and its tile after a restore. -/
def State.placedAt (x : Inst) (rg : Region) (st : SavedTile) (wit : W64) (u : State) : Prop :=
  ((u.inst? x.domain x.number).map fun x : Inst => (x.phase, x.region, x.ox, x.oy, x.oz, x.entryWit)) =
    some (.restoring, rg.tiles, rg.ox, rg.oy, rg.oz, wit) ∧
  (isLathTile (st.site rg) = false → (u.tile (st.site rg)).inst = x.number ∧
    ∀ c, c < 8 → (u.ctx (st.site rg) c).d = (at8 st.tile.ctxs c).d ∧ (u.ctx (st.site rg) c).word = (at8 st.tile.ctxs c).word)

section
variable {s : State} {d n : Nat} {move : Bool} {fence : W64} {x : Inst} {im : SaveImage} {st : StoredImage} (hd : d < 16) (found : s.inst? d n = some x)
  (saved : x.save = some im) (phase : x.phase = .saved) (image : s.image? d x.config = some st)
include hd found saved phase image

/-- An instance that is not placed leaves the state as it was. -/
theorem restore_still (h : s.restoreInst x st.parse.1 im move fence = s) : ∃ u, exec (.saveImageRestore d n move fence) s = .next u ∧ s.stays u :=
  ⟨s.noteAllReady, by rw [exec_restoreInst hd found saved phase image, h], stays_noteAllReady s⟩

section
variable (evicted : im.evicted = true)
include evicted

theorem restoreEvicted_still (h : s.placeSaved x st.parse.1 im move = none) : ∃ u, exec (.saveImageRestore d n move fence) s = .next u ∧ s.stays u :=
  restore_still hd found saved phase image (by rw [State.restoreInst, if_pos evicted, h, Option.getD_none])

/-- An evicted instance placed (R385). -/
theorem restoreEvicted_placed {rg : Region} {wit : W64} {s1 : State} {r : SavedTile} (region : s.restoreRegion x st.parse.1 im move = some rg)
    (done : s.placeWitness x im rg move = .done wit) (loaded : s.reload x st.parse.1 rg = some s1) (one : im.tiles = [r]) :
    ∃ u, exec (.saveImageRestore d n move fence) s = .next u ∧ State.placedAt x rg r wit u := by
  obtain ⟨rfl, rfl⟩ := key_of_inst? found
  refine ⟨((s1.restoreTiles x st.parse.1 im rg wit).finishRestore x st.parse.1 im rg wit).noteAllReady, ?_,
    placed_leaves ((inst?_congr (reload_insts loaded) _ _).trans found) one⟩
  rw [exec_restoreInst hd found saved phase image, State.restoreInst, if_pos evicted, placeSaved_placed region done loaded, Option.getD_some]

end

/-! ### A region given up for a move (R311, R386) -/

omit hd found saved phase image in
theorem liftRegion_none : s.liftRegion x im fence = none ↔ (s.drainRegion x).mayEvict x = false ∨ (s.drainRegion x).fenceHolds x fence = false := by
  unfold State.liftRegion
  dsimp only
  rw [← Bool.and_eq_false_iff, ← Bool.not_eq_true']
  split
  · next h => exact iff_of_true rfl h
  · next h => exact iff_of_false nofun h

omit hd found saved phase image in
theorem liftRegion_some {s1 : State} {y : Inst} {im1 : SaveImage} (h : s.liftRegion x im fence = some (s1, y, im1)) :
    im1.fence = fence ∧ y = { x with save := some im1, region := [] } ∧ s1 = ((s.drainRegion x).setInst y).vacate x := by
  unfold State.liftRegion at h
  dsimp only at h
  split at h
  · cases h
  · cases h
    exact ⟨rfl, rfl, rfl⟩

section
variable (stays : im.evicted = false)
include stays

omit found hd saved phase image in
theorem restoreInst_lifted : s.restoreInst x st.parse.1 im true fence = match s.liftRegion x im fence with
    | none => s
    | some r => (r.1.placeSaved r.2.1 st.parse.1 r.2.2 true).getD s := by
  rw [State.restoreInst, stays] <;> rfl

theorem restoreLifted_waits (h : s.liftRegion x im fence = none) : ∃ u, exec (.saveImageRestore d n true fence) s = .next u ∧ s.stays u :=
  restore_still hd found saved phase image (by rw [restoreInst_lifted stays, h])

variable {s1 : State} {y : Inst} {im1 : SaveImage} (lifted : s.liftRegion x im fence = some (s1, y, im1))
include lifted

theorem restoreLifted_crowded (h : s1.restoreRegion y st.parse.1 im1 true = none) : ∃ u, exec (.saveImageRestore d n true fence) s = .next u ∧ s.stays u := by
  refine restore_still hd found saved phase image ?_
  rw [restoreInst_lifted stays, lifted]
  exact congrArg (Option.getD · s) (placeSaved_crowded h)

/-- An instance moved: it leaves its region and is placed in another (R386). -/
theorem restoreLifted_placed {rg : Region} {wit : W64} {s2 : State} {r : SavedTile} (region : s1.restoreRegion y st.parse.1 im1 true = some rg)
    (done : s1.placeWitness y im1 rg true = .done wit) (loaded : s1.reload y st.parse.1 rg = some s2) (one : im1.tiles = [r]) :
    ∃ u, exec (.saveImageRestore d n true fence) s = .next u ∧ State.placedAt y rg r wit u := by
  obtain ⟨rfl, rfl⟩ := key_of_inst? found
  obtain ⟨-, rfl, rfl⟩ := liftRegion_some lifted
  have standing : s2.inst? x.domain x.number = some { x with save := some im1, region := [] } := by
    rw [inst?_congr ((reload_insts loaded).trans (vacate_rest ..).1)]
    refine inst?_setInst_same (x := x) (y := { x with save := some im1, region := [] }) ?_ rfl rfl
    rw [inst?_congr (DrainStep.drainRegion s x).insts, found]
  refine ⟨((s2.restoreTiles { x with save := some im1, region := [] } st.parse.1 im1 rg wit).finishRestore { x with save := some im1, region := [] }
    st.parse.1 im1 rg wit).noteAllReady, ?_, placed_leaves standing one⟩
  rw [exec_restoreInst hd found saved phase image, restoreInst_lifted stays, lifted]
  exact congrArg (fun o : Option State => Host.Outcome.next (o.getD s).noteAllReady) (placeSaved_placed region done loaded)

end

end

end Sys2Proof.Machine
end

section
/-! SUPPORT. The lath's services of a tile: the spill of a row engine and the refill of a parked token's page (R191, R384, R403, R214; O46). -/

namespace Sys2Proof.Machine

open Sys2Proof

/-! ### The spill (R191, R384) -/

theorem blobOf_len (fs : List (Nat × Nat)) : (blobOf fs).len = (fs.map (·.1)).sum := by
  induction fs with
  | nil => rfl
  | cons f rest ih => rw [List.map_cons, List.sum_cons, ← ih]; rfl

theorem Blob.concat_len (bs : List Blob) : (Blob.concat bs).len = (bs.map (·.len)).sum := by
  induction bs with
  | nil => rfl
  | cons b rest ih => rw [List.map_cons, List.sum_cons, ← ih]; rfl

theorem matrixBlob_len (row : RowEngine) : (matrixBlob row).len = 22584 := by
  rw [matrixBlob, Blob.concat_len]
  simp only [List.map_cons, List.map_nil, List.sum_cons, List.sum_nil, blobOf_len, Nat.reduceAdd]

/-- A section written into an image in memory: its bytes, the bytes left, and the FLAGS (R384). -/
theorem putMatrix_bytes (m : Memory) {im : SaveImage} {t k : Nat} (row : RowEngine) (slot : (im.dirty.findIdx? fun st => st.from' == t) = some k) :
    (∀ j, j < 22584 → (im.sectionsAt + 22584 * k + j) / 16 ≠ (im.address + 6) / 16 →
      ((m.putMatrix im t row).byte (im.sectionsAt + 22584 * k + j)).toNat = (matrixBlob row).val / 2 ^ (8 * j) % 2 ^ 8) ∧
    (∀ a, (a / 16 < (im.sectionsAt + 22584 * k) / 16 ∨ im.sectionsAt + 22584 * k + 22584 ≤ a / 16 * 16) → a / 16 ≠ (im.address + 6) / 16 →
      (m.putMatrix im t row).byte a = m.byte a) ∧
    ((m.putMatrix im t row).byte (im.address + 6)).toNat = im.evicted.toNat + 2 := by
  have written : m.putMatrix im t row =
      (m.putBlob im.key (im.sectionsAt + 22584 * k) (matrixBlob row)).putBlob im.key (im.address + 6) ⟨1, im.evicted.toNat + 2⟩ := by
    rw [Memory.putMatrix, slot]
  have flags (a : Nat) (h : a / 16 ≠ (im.address + 6) / 16) :
      (m.putMatrix im t row).byte a = (m.putBlob im.key (im.sectionsAt + 22584 * k) (matrixBlob row)).byte a := by
    rw [written]
    exact Memory.byte_putBlob_other _ _ _ _ _ (by dsimp only; omega)
  refine ⟨fun j hj away => ?_, fun a outside away => ?_, ?_⟩
  · rw [flags _ away]
    exact Memory.byte_putBlob_same _ _ _ _ (by rw [matrixBlob_len]; exact hj)
  · rw [flags a away]
    exact Memory.byte_putBlob_other _ _ _ _ _ (by rw [matrixBlob_len]; exact outside)
  · have byte := Memory.byte_putBlob_same (m.putBlob im.key (im.sectionsAt + 22584 * k) (matrixBlob row)) im.key (im.address + 6)
      ⟨1, im.evicted.toNat + 2⟩ (j := 0) Nat.one_pos
    rw [written]
    refine byte.trans ?_
    cases im.evicted <;> rfl

section
variable {s : State} {t d : Nat} {x : Inst} {im : SaveImage}

theorem spillEngine_eq (s : State) (t : Nat) : ∃ insts mem,
    s.spillEngine t = State.setTile { s with insts := insts, mem := mem } t { s.tile t with row := RowEngine.clean (s.tile t).inst } := by
  unfold State.spillEngine
  dsimp only
  split
  · exact ⟨s.insts, s.mem, rfl⟩
  · split
    · exact ⟨s.insts, s.mem, rfl⟩
    · exact ⟨_, _, rfl⟩

/-- The engine of a tile is clean once it is spilled; those of other tiles stay. -/
theorem tile_spillEngine (s : State) (t : Nat) : (s.spillEngine t).tile t = { s.tile t with row := RowEngine.clean (s.tile t).inst } ∧
    ∀ k, k ≠ t → (s.spillEngine t).tile k = s.tile k := by
  obtain ⟨insts, mem, eq⟩ := spillEngine_eq s t
  rw [eq]
  exact ⟨tile_setTile_same .., fun k hk => tile_setTile_other { s with insts := insts, mem := mem } hk _⟩

/-- An engine whose owner has gone is only cleaned. -/
theorem spillEngine_gone (domain : s.tileDomain t = some d) (gone : s.inst? d (s.tile t).row.owner = none) :
    (s.spillEngine t).mem = s.mem ∧ (s.spillEngine t).insts = s.insts := by
  have cleaned : s.spillEngine t = s.setTile t { s.tile t with row := RowEngine.clean (s.tile t).inst } := by
    rw [State.spillEngine, domain, Option.bind_some, gone]
  rw [cleaned]
  exact ⟨rfl, rfl⟩

theorem spillEngine_owner (domain : s.tileDomain t = some d) (owner : s.inst? d (s.tile t).row.owner = some x) (saved : x.save = some im) :
    (s.spillEngine t).inst? d x.number = some { x with save := some (im.spill t (s.tile t).row) } ∧
    (s.spillEngine t).mem = s.mem.putMatrix im t (s.tile t).row := by
  obtain ⟨rfl, number⟩ := key_of_inst? owner
  have spilled : s.spillEngine t = State.setTile { s.setInst { x with save := some (im.spill t (s.tile t).row) } with
      mem := s.mem.putMatrix im t (s.tile t).row } t { s.tile t with row := RowEngine.clean (s.tile t).inst } := by
    rw [State.spillEngine, domain, Option.bind_some, owner]
    dsimp only
    rw [saved]
    rfl
  rw [spilled]
  refine ⟨inst?_setInst_same (x := x) (y := { x with save := some (im.spill t (s.tile t).row) }) ?_ rfl rfl, rfl⟩
  rw [number, owner]

end

theorem exec_matrixOwnerSpill {s : State} {t : Nat} (ht : t < s.tileCount) :
    exec (.matrixOwnerSpill t) s = .next (if ownerFault (s.tile t) && ownerHalted (s.tile t) then s.spillEngine t else s) := by
  change execMatrixOwnerSpill t s = _
  rw [execMatrixOwnerSpill, if_neg (by omega)]

/-! ### Refills (R403) -/

section
variable {s : State} {t entry k : Nat}

theorem exec_refillRequest (ht : t < s.tileCount) (aligned : entry % 64 = 0) (hk : k < 2) : exec (.refillRequest t (entry + k)) s =
    if !(s.query t k).occupied then .next s
    else match s.shardState t entry with
    | some 3 => .next ((if s.refills.contains (t, entry) then s else { s with refills := s.refills ++ [(t, entry)] }).park t k)
    | some 4 => .next (s.answerRefills.park t k)
    | _ => .next (s.answerRefills.unpark t k) := by
  have named : (entry + k) / 64 * 64 = entry := by omega
  have slot : (entry + k) % 2 = k := by omega
  change execRefillRequest t (entry + k) s = _
  unfold execRefillRequest
  dsimp only
  rw [named, slot, if_neg (by omega)] <;> rfl

variable (ht : t < s.tileCount) (aligned : entry % 64 = 0) (hk : k < 2)
include ht aligned hk

theorem refillRequest_vacant (h : ¬ (s.query t k).occupied = true) : exec (.refillRequest t (entry + k)) s = .next s := by
  rw [exec_refillRequest ht aligned hk, if_pos (by simpa using h)]

variable (held : (s.query t k).occupied = true)
include held

theorem exec_refillRequest_held : exec (.refillRequest t (entry + k)) s = match s.shardState t entry with
    | some 3 => .next ((if s.refills.contains (t, entry) then s else { s with refills := s.refills ++ [(t, entry)] }).park t k)
    | some 4 => .next (s.answerRefills.park t k)
    | _ => .next (s.answerRefills.unpark t k) := by
  rw [exec_refillRequest ht aligned hk, held] <;> rfl

theorem refillRequest_asks (evicted : s.shardState t entry = some 3) (new : (t, entry) ∉ s.refills) : exec (.refillRequest t (entry + k)) s =
    .next (State.setQuery { s with refills := s.refills ++ [(t, entry)] } t k { s.query t k with parked := true }) := by
  rw [exec_refillRequest_held ht aligned hk held, evicted]
  dsimp only
  rw [if_neg (by simpa using new)]
  rfl

theorem refillRequest_asked (evicted : s.shardState t entry = some 3) (asked : (t, entry) ∈ s.refills) : exec (.refillRequest t (entry + k)) s =
    .next (s.setQuery t k { s.query t k with parked := true }) := by
  rw [exec_refillRequest_held ht aligned hk held, evicted]
  dsimp only
  rw [if_pos (by simpa using asked)]
  rfl

theorem refillRequest_answered (refilling : s.shardState t entry = some 4) : exec (.refillRequest t (entry + k)) s =
    .next (s.answerRefills.setQuery t k { s.query t k with parked := true }) := by
  rw [exec_refillRequest_held ht aligned hk held, refilling]
  rfl

theorem refillRequest_ends (standing : s.shardState t entry ≠ some 3) (unfilled : s.shardState t entry ≠ some 4) : exec (.refillRequest t (entry + k)) s =
    .next (s.answerRefills.setQuery t k { s.query t k with parked := false }) := by
  rw [exec_refillRequest_held ht aligned hk held]
  split
  · next h => exact absurd h standing
  · next h => exact absurd h unfilled
  · rfl

end

theorem refillStands_iff (s : State) (r : Nat × Nat) : s.refillStands r = true ↔
    s.shardState r.1 r.2 = some 3 ∧ ∀ x ∈ s.refills, s.shardState x.1 x.2 = some 4 → s.pageNamed x ≠ s.pageNamed r := by
  simp only [State.refillStands, Bool.and_eq_true, beq_iff_eq, List.all_eq_true, Bool.not_eq_true', Bool.and_eq_false_imp, beq_eq_false_iff_ne]

/-- SKFW forwards an occupied slot that parks no token and sends none (R214, R403). -/
theorem forwardSlot_free {tl : Tile} {k : Nat} (h : forwardSlot tl = some k) :
    k < 2 ∧ (tl.query k).occupied = true ∧ (tl.query k).parked = false ∧ (tl.query k).emit = none := by
  have free (j : Nat) (h : ((tl.query j).occupied && !(tl.query j).parked && (tl.query j).emit.isNone) = true) :
      (tl.query j).occupied = true ∧ (tl.query j).parked = false ∧ (tl.query j).emit = none := by
    simpa [and_assoc] using h
  unfold forwardSlot at h
  dsimp only at h
  split at h
  · next h0 h1 =>
    split at h
    · cases h
      exact ⟨by decide, free 0 h0⟩
    · cases h
      exact ⟨by decide, free 1 h1⟩
  · next h0 _ =>
    cases h
    exact ⟨by decide, free 0 h0⟩
  · next _ h1 =>
    cases h
    exact ⟨by decide, free 1 h1⟩
  · cases h

end Sys2Proof.Machine
end

section
/-! SUPPORT. O46 settled: instances halted, their regions saved and restored, row engines spilled, and parked tokens (R376-R386, R191, R403). -/

namespace Sys2Proof.Machine

open Sys2Proof

/-- What a closed image leaves, in place or with the region given up (R378, R379). -/
theorem regionQuiesced_leaves {s : State} {d key : Nat} {evict : Bool} {dest : SaveAt} {x : Inst} (hd : d < 16)
    (found : s.inst? d (SMap.get s.halts d 0) = some x) (settled : s.settledRegion x) (keyed : (s.drainedRegion x).keyAt d dest = some key)
    (holds : (s.drainedRegion x).holdsImage d (saveInst (s.drainedRegion x) x evict dest.address key dest.fence) = true)
    (may : evict = true → (s.drainedRegion x).mayEvict x = true ∧ (s.drainedRegion x).fenceHolds x dest.fence = true) :
    let im := saveInst (s.drainedRegion x) x evict dest.address key dest.fence
    ∃ u, exec (.regionQuiesced d evict dest) s = .next u ∧ u.accesses = s.accesses ∧ SMap.get u.halts d 0 = 0 ∧
      u.inst? d x.number = some { x with phase := .saved, save := some im, region := if evict then [] else x.region } ∧
      (∀ a, a / 16 < dest.address / 16 ∨ dest.address + im.len ≤ a / 16 * 16 → u.mem.byte a = s.mem.byte a) ∧
      (dest.address % 16 = 0 → u.mem.keyOf (dest.address / 16) = key) ∧
      (evict = false → u.tiles = (s.drainedRegion x).tiles) ∧
      (evict = true → ∀ t ∈ x.region, (s.tile t).inst = x.number → x.number ≠ 0 → (u.tile t).inst = 0 ∧ (u.tile t).row = (s.tile t).row) := by
  intro im
  obtain ⟨domain, number⟩ := key_of_inst? found
  have known : s.inst? x.domain x.number = some x := by rw [domain, number, found]
  have step := regionQuiesced_closes hd found settled keyed holds may
  obtain ⟨accesses, halts, inst, bytes, keys, tiles⟩ := imageClosed_leaves known evict dest.address key dest.fence
  rw [domain] at halts inst accesses bytes keys tiles
  cases evict with
  | false => exact ⟨_, step, accesses, halts, inst, bytes, keys, fun _ => tiles, nofun⟩
  | true =>
    obtain ⟨insts', accesses', halts'⟩ := vacate_rest (s.imageClosed d x true im) x
    have drain := DrainStep.drainedRegion s x
    have tile (t : Nat) : (s.imageClosed d x true im).tile t = (s.drainedRegion x).tile t := by
      rw [State.tile, tiles]
      rfl
    refine ⟨_, step, accesses'.trans accesses, ?_, ?_, fun a outside => ?_, fun aligned => ?_, nofun, fun _ t ht own hn => ?_⟩
    · rw [if_pos rfl, halts', halts]
    · rw [if_pos rfl, inst?_congr insts', inst]
      rfl
    · rw [if_pos rfl, State.vacate_mem, bytes a outside]
    · rw [if_pos rfl, State.vacate_mem, keys aligned]
    · obtain ⟨gone, row⟩ := vacate_tile (s := s.imageClosed d x true im) ht (by rw [tile, drain.tileInst, own]) hn
      rw [tile, drain.row] at row
      exact ⟨gone, row⟩

/-- Settles O46: each event is taken apart once (`exec_preemption`, `exec_regionQuiesced`, `exec_saveImageRestore`, `exec_refillRequest`); a halt is a fold of
`HaltStep`s, a drain one of `DrainStep`s, and a restore moves no instance after it has been placed (`KeepsPlaces`). -/
theorem preemptionAndRestore : Obligations.PreemptionAndRestore := by
  unfold Obligations.PreemptionAndRestore
  refine ⟨fun s d x hd found => ⟨fun running => ?_, fun halting => ?_, fun other other' => ?_⟩, fun s d hd gone => ?_,
    fun s d evict dest x hd found => ⟨fun h => regionQuiesced_unsettled hd found h, fun settled h => regionQuiesced_keyless hd found settled h,
      fun key settled keyed h => regionQuiesced_outside hd found settled keyed h, fun settled evicted h => ?_,
      fun key settled keyed holds may => ?_⟩,
    keyAt_eq, fenceHolds_iff, mem_targeting,
    fun s d n move fence x im hd found saved restoring => ⟨restore_releases hd found saved restoring, restore_waits hd found saved restoring⟩,
    fun s d n fence x im st hd found saved phase kept image => restore_inPlace hd found saved phase kept image,
    ⟨fun s d n move fence x im st hd found saved phase evicted image => ⟨fun crowded => ?_, fun rg region => ⟨fun waiting => ?_, fun wit s1 r done loaded one => ?_⟩⟩,
      fun s d n fence x im st hd found saved phase kept image => ⟨liftRegion_none, fun h => ?_, fun s1 y im1 lifted => ?_⟩⟩,
    fun s t ht => ⟨fun h => ?_, fun ⟨fault, halted⟩ => ?_⟩,
    fun s t entry k ht aligned hk => ⟨refillRequest_vacant ht aligned hk, refillRequest_asks ht aligned hk, refillRequest_asked ht aligned hk,
      refillRequest_answered ht aligned hk, refillRequest_ends ht aligned hk⟩,
    refillStands_iff, fun _ _ => forwardSlot_free⟩
  · obtain ⟨phase, ctxs⟩ := haltInst_halts found
    refine ⟨s.haltInst x, ?_, State.haltInst_mem s x, phase, ctxs⟩
    rw [exec_preemption hd, found]
    exact if_pos (beq_iff_eq.mpr running)
  · rw [exec_preemption hd, found]
    dsimp only
    rw [halting]
    rfl
  · refine ⟨{ s with halts := SMap.erase s.halts d }, ?_, preemption_forgets s d, rfl, rfl⟩
    rw [exec_preemption hd, found]
    dsimp only
    rw [if_neg (by simpa using other), if_neg (by simpa using other')]
  · refine ⟨{ s with halts := SMap.erase s.halts d }, ?_, preemption_forgets s d, rfl, rfl⟩
    rw [exec_preemption hd, gone]
  · rw [evicted]
    exact regionQuiesced_waits hd found settled h
  · obtain ⟨u, step, accesses, halts, inst, bytes, keys, inPlace, away⟩ := regionQuiesced_leaves hd found settled keyed holds may
    obtain ⟨sites, tiles⟩ := saveInst_tiles s x evict dest.address key dest.fence
    exact ⟨u, step, accesses, halts, inst, bytes, keys, sites, tiles, fun t c _ => (DrainStep.drainedRegion s x).ctx t c, inPlace, away⟩
  · exact restoreEvicted_still hd found saved phase image evicted (placeSaved_crowded crowded)
  · exact restoreEvicted_still hd found saved phase image evicted (placeSaved_waits region waiting)
  · exact restoreEvicted_placed hd found saved phase image evicted region done loaded one
  · exact restoreLifted_waits hd found saved phase image kept h
  · obtain ⟨covered, lifted', -⟩ := liftRegion_some lifted
    exact ⟨covered, lifted', restoreLifted_crowded hd found saved phase image kept lifted,
      fun rg wit s2 r region done loaded one => restoreLifted_placed hd found saved phase image kept lifted region done loaded one⟩
  · rw [exec_matrixOwnerSpill ht, if_neg (by simpa using h)]
  · obtain ⟨own, others⟩ := tile_spillEngine s t
    refine ⟨s.spillEngine t, ?_, own, others, fun d domain gone => spillEngine_gone domain gone, fun d x im domain owner saved => ?_⟩
    · rw [exec_matrixOwnerSpill ht, fault, halted]
      rfl
    · obtain ⟨inst, memory⟩ := spillEngine_owner domain owner saved
      refine ⟨_, _, inst, rfl, rfl, fun k slot => ?_⟩
      rw [memory]
      exact putMatrix_bytes s.mem (s.tile t).row slot

end Sys2Proof.Machine
end

section
/-! SUPPORT. Epochs (R239-R244): when a group opens or closes an epoch, and what an acknowledgement and a closure pulse leave of a member (O57). -/

namespace Sys2Proof.Machine

open Sys2Proof

theorem writer_setWriter_other (s : State) {w k : Nat} (h : k ≠ w) (x : Writer) : (s.setWriter w x).writer k = s.writer k :=
  SMap.get_set_other _ h _ _

/-- A group's next opening is due: hastened, or its period has passed; a level 1 group follows its column (R243). -/
def State.openingDue (s : State) (lvl g : Nat) : Bool :=
  (s.group lvl g).hasten || (if lvl = 1 then decide ((s.group lvl g).lastOpen < (s.group 2 (columnOf g)).lastOpen)
    else s.passed (s.group lvl g).lastOpen (s.runningPeriod lvl g))

theorem openingDue_iff (s : State) (lvl g : Nat) : s.openingDue lvl g = true ↔ (s.group lvl g).hasten = true ∨
    (if lvl = 1 then (s.group 1 g).lastOpen < (s.group 2 (columnOf g)).lastOpen else
      (s.group lvl g).lastOpen * 5 + ((s.group lvl g).period.getD (if lvl ≤ 5 then at9 State.reset.periods lvl else at9 s.periods lvl)) * 24 ≤ s.ticks * 5) := by
  rw [State.openingDue, Bool.or_eq_true]
  refine or_congr_right ?_
  split
  · next one => rw [decide_eq_true_eq, one]
  · rw [State.passed, decide_eq_true_eq, State.runningPeriod, State.bootPeriod]

theorem allAcknowledged_iff (s : State) (lvl g : Nat) : s.allAcknowledged lvl g = true ↔ ∀ w ∈ s.members lvl g, s.view w lvl = (s.group lvl g).opened := by
  simp [State.allAcknowledged]

/-- An epoch can close when it is not the open one, every member sees a later one, and no store of a member tagged with it or an earlier one is owed (R241). -/
theorem canClose_iff (s : State) (lvl g k : Nat) : s.canClose lvl g k = true ↔
    k < (s.group lvl g).opened ∧ (∀ w ∈ s.members lvl g, k < s.view w lvl) ∧
      ∀ a ∈ s.accesses, a.writer ∈ s.members lvl g → a.owes = true → ∀ e, (lvl, e) ∈ a.tags → k < e := by
  have holds (a : Access) : a.holds lvl k = true ↔ a.owes = true ∧ ∃ e, (lvl, e) ∈ a.tags ∧ e ≤ k := by
    simp [Access.holds]
  simp only [State.canClose, Bool.and_eq_true, decide_eq_true_eq, List.all_eq_true, Bool.not_eq_true', Bool.eq_false_iff, ne_eq, List.contains_iff_mem,
    holds, and_assoc]
  simp

section
variable {s : State} {lvl g w : Nat} (exists' : groupExists lvl g = true)
include exists'

theorem epochOpen_eq : exec (.epochOpen lvl g) s = .next (if s.phase = 8 ∧ s.openingDue lvl g = true ∧ s.allAcknowledged lvl g = true then
    s.setGroup lvl g { s.group lvl g with opened := (s.group lvl g).opened + 1, hasten := false, lastOpen := s.ticks, period := some (at9 s.periods lvl) }
    else s) := by
  show execEpochOpen lvl g s = _
  simp only [execEpochOpen, exists', Bool.not_true, Bool.false_eq_true, if_false]
  by_cases ready : s.phase = 8 ∧ s.openingDue lvl g = true ∧ s.allAcknowledged lvl g = true
  · obtain ⟨phase, due, acknowledged⟩ := ready
    rw [State.openingDue] at due
    simp [phase, due, acknowledged, State.openingDue]
  · rw [if_neg ready, if_pos]
    simp only [← State.openingDue.eq_def]
    simpa [or_assoc, Classical.or_iff_not_imp_left] using ready

theorem epochClose_eq : exec (.epochClose lvl g) s = .next (if s.phase = 8 ∧ s.canClose lvl g ((s.group lvl g).closed + 1) = true then
    s.setGroup lvl g { s.group lvl g with closed := (s.group lvl g).closed + 1 } else s) := by
  show execEpochClose lvl g s = _
  simp only [execEpochClose, exists', Bool.not_true, Bool.false_eq_true, if_false]
  by_cases ready : s.phase = 8 ∧ s.canClose lvl g ((s.group lvl g).closed + 1) = true
  · simp [ready.1, ready.2]
  · rw [if_neg ready, if_pos (by simpa [Classical.or_iff_not_imp_left] using ready)]

theorem epochOpen_waits (early : ¬ (s.openingDue lvl g = true ∧ s.allAcknowledged lvl g = true)) : exec (.epochOpen lvl g) s = .next s := by
  rw [epochOpen_eq exists', if_neg fun h => early h.2]

theorem epochClose_waits (early : s.canClose lvl g ((s.group lvl g).closed + 1) ≠ true) : exec (.epochClose lvl g) s = .next s := by
  rw [epochClose_eq exists', if_neg fun h => early h.2]

theorem epochOpen_of_phase (phase : s.phase ≠ 8) : exec (.epochOpen lvl g) s = .next s := by
  rw [epochOpen_eq exists', if_neg fun h => phase h.1]

theorem epochClose_of_phase (phase : s.phase ≠ 8) : exec (.epochClose lvl g) s = .next s := by
  rw [epochClose_eq exists', if_neg fun h => phase h.1]

variable (writer : s.isWriter w = true)
include writer

theorem epochAcknowledge_eq : exec (.epochAcknowledge lvl g w) s =
    .next (if s.phase = 8 ∧ s.groupOf w lvl = some g ∧ s.view w lvl ≠ (s.group lvl g).opened then
      s.setWriter w { (s.writer w).see lvl (s.group lvl g).opened with sent := s.tagged w } else s) := by
  show execEpochAcknowledge lvl g w s = _
  simp only [execEpochAcknowledge, exists', writer, Bool.not_true, Bool.false_eq_true, if_false]
  by_cases ready : s.phase = 8 ∧ s.groupOf w lvl = some g ∧ s.view w lvl ≠ (s.group lvl g).opened
  · obtain ⟨phase, group, unseen⟩ := ready
    simp [phase, group, unseen]
  · rw [if_neg ready, if_pos (by simpa [or_assoc, Classical.or_iff_not_imp_left] using ready)]

theorem epochAcknowledge_waits (early : ¬ (s.phase = 8 ∧ s.groupOf w lvl = some g ∧ s.view w lvl ≠ (s.group lvl g).opened)) :
    exec (.epochAcknowledge lvl g w) s = .next s := by
  rw [epochAcknowledge_eq exists' writer, if_neg early]

/-- A member that acknowledges sees the open epoch and sends what it has tagged (R240, R244). -/
theorem epochAcknowledge_sees (phase : s.phase = 8) (group : s.groupOf w lvl = some g) (unseen : s.view w lvl ≠ (s.group lvl g).opened) :
    ∃ u, exec (.epochAcknowledge lvl g w) s = .next u ∧ u.mem = s.mem ∧ u.tiles = s.tiles ∧ u.groups = s.groups ∧
      u.view w lvl = (s.group lvl g).opened ∧ (u.writer w).sent = s.tagged w ∧ (u.writer w).issued = (s.writer w).issued ∧ ∀ x, x ≠ w → u.writer x = s.writer x := by
  refine ⟨_, epochAcknowledge_eq exists' writer, ?_⟩
  rw [if_pos ⟨phase, group, unseen⟩]
  refine ⟨rfl, rfl, rfl, ?_, ?_, ?_, fun x other => writer_setWriter_other s other _⟩
  · rw [State.view, writer_setWriter_same]
    exact (at9_set9 ..).trans (if_pos rfl)
  · rw [writer_setWriter_same]
  · rw [writer_setWriter_same]; rfl

theorem closurePulseReceipt_waits (outside : s.groupOf w lvl ≠ some g) : exec (.closurePulseReceipt lvl g w) s = .next s := by
  show execClosurePulseReceipt lvl g w s = _
  simp [execClosurePulseReceipt, exists', writer, outside]

/-- The pulse tells a member the latest epoch that its group has closed (R241). -/
theorem closurePulseReceipt_tells (group : s.groupOf w lvl = some g) :
    ∃ u, exec (.closurePulseReceipt lvl g w) s = .next u ∧ u.mem = s.mem ∧ u.tiles = s.tiles ∧ u.groups = s.groups ∧ at9 (u.writer w).closed lvl = (s.group lvl g).closed ∧
      (u.writer w).views = (s.writer w).views ∧ ∀ x, x ≠ w → u.writer x = s.writer x := by
  have next : exec (.closurePulseReceipt lvl g w) s = .next (s.setWriter w { s.writer w with
      closed := set9 (s.writer w).closed lvl (s.group lvl g).closed,
      lifts := (s.writer w).lifts.filter fun e => witLvl e.2 != lvl || liftKept (s.group lvl g).closed (witSeq e.2) }) := by
    show execClosurePulseReceipt lvl g w s = _
    simp [execClosurePulseReceipt, exists', writer, group]
  refine ⟨_, next, rfl, rfl, rfl, ?_, ?_, fun x other => writer_setWriter_other s other _⟩
  · rw [writer_setWriter_same]
    exact (at9_set9 ..).trans (if_pos rfl)
  · rw [writer_setWriter_same]

end

/-- Settles O57: each event is one conditional update of its group or of its member, and its condition is the one that the statement gives. -/
theorem epochsCloseInOrder : Obligations.EpochsCloseInOrder := by
  unfold Obligations.EpochsCloseInOrder
  simp only [← openingDue_iff]
  refine ⟨fun s lvl g exists' phase => ⟨fun due acknowledged => ?_, fun early => ?_, fun seen opened performed => ?_, ?_, fun early => ?_⟩,
    fun s lvl g w exists' writer phase => ?_, fun s lvl g w exists' writer phase group => ?_,
    fun s lvl g w exists' writer group => closurePulseReceipt_tells exists' writer group, fun s lvl g w exists' writer outside => ?_⟩
  · rw [epochOpen_eq exists', if_pos ⟨phase, due, (allAcknowledged_iff ..).mpr acknowledged⟩]
  · refine epochOpen_waits exists' fun ⟨due, acknowledged⟩ => ?_
    obtain notDue | ⟨w, member, unseen⟩ := early
    · exact notDue due
    · exact unseen ((allAcknowledged_iff ..).mp acknowledged w member)
  · rw [epochClose_eq exists', if_pos ⟨phase, (canClose_iff ..).mpr ⟨opened, seen, performed⟩⟩]
  · rintro ⟨a, inFlight, member, owes, e, tag, old⟩
    refine epochClose_waits exists' fun close => ?_
    obtain ⟨-, -, performed⟩ := (canClose_iff ..).mp close
    exact absurd (performed a inFlight member owes e tag) (Nat.not_lt.mpr old)
  · refine epochClose_waits exists' fun close => ?_
    obtain ⟨opened, seen, -⟩ := (canClose_iff ..).mp close
    obtain ⟨w, member, behind⟩ | behind := early
    · exact absurd (seen w member) (Nat.not_lt.mpr behind)
    · exact absurd opened (Nat.not_lt.mpr behind)
  · exact ⟨epochOpen_of_phase exists' phase, epochClose_of_phase exists' phase, epochAcknowledge_waits exists' writer fun h => phase h.1⟩
  · exact ⟨epochAcknowledge_sees exists' writer phase group, fun seen => epochAcknowledge_waits exists' writer fun h => h.2.2 seen⟩
  · exact ⟨epochAcknowledge_waits exists' writer fun h => outside h.2.1, closurePulseReceipt_waits exists' writer outside⟩

end Sys2Proof.Machine
end

section
/-! SUPPORT. The witness instructions at their firing (R243-R250, R281, R282): witnesses delivered, malformed ones that stop the slot, a hasten request, and what FENCE.D
leaves (R283) (O29). -/

namespace Sys2Proof.Machine

open Sys2Proof

/-! ### Outcomes of a firing -/

theorem fire_done {i : Instr} {body : State → Firing → Fired} {s u : State} {fr : Firing} (firing : s.firingOf i = some fr) (done : body s fr = .done u) :
    fire i body s = .next (u.finished i s fr) := by
  rw [fire_of body firing, done]

theorem fire_stop {i : Instr} {body : State → Firing → Fired} {s : State} {fr : Firing} {fi : FaultInfo} (firing : s.firingOf i = some fr)
    (stop : body s fr = .stop fi) :
    fire i body s = .next (s.haltCtx s.cur.tile s.cur.ctx s.cur.slot { fi with operands := if readsSources i then some (fr.a.val, fr.b.val) else none }) := by
  rw [fire_of body firing, stop]

/-- The destination of a row that takes no predicate register is none. -/
theorem firing_dst_ne_pred {mk : Slot → Instr} {opc sub : Nat} {f : Slot} {s : State} {fr : Firing} (code : ∀ f, toCode (mk f) = some (opc, sub, f))
    (takes : ∀ row, opRow opc sub = some row → ∀ k, row.d.takes (.p k) = false) (wf : (mk f).wf = true) (firing : s.firingOf (mk f) = some fr) :
    ∀ k, fr.f.dst ≠ .p k := by
  obtain ⟨row, _, hrow, ok, -⟩ := (wf_of_toCode (code f)).mp wf
  obtain ⟨-, -, operands, -⟩ := slotStatus_eq_ok.mp ok
  intro k dst
  rw [(firingOf_slot (code f) firing).1] at dst
  simp [operandsOk, dst, takes row hrow] at operands

section
variable {mk : Slot → Instr} {body : State → Firing → Fired} (fires : ∀ f s, exec (mk f) s = fire (mk f) body s)
include fires

theorem completes_of_body {cond : State → Firing → Prop} {effect : State → Firing → State} (done : ∀ s fr, cond s fr → body s fr = .done (effect s fr)) :
    Completes mk cond effect :=
  fun f s fr _ firing holds => by rw [fires, fire_done firing (done s fr holds)]

theorem halts_of_body {cond : State → Firing → Prop} {info : State → Firing → FaultInfo} {reads : Bool} (sources : ∀ f, readsSources (mk f) = reads)
    (stop : ∀ s fr, cond s fr → body s fr = .stop (info s fr)) : Halts mk reads cond info :=
  fun f s fr _ firing holds => by rw [fires, fire_stop firing (stop s fr holds), sources]

end

/-! ### Witnesses delivered -/

/-- A firing with no lane of E is the same with E cleared. -/
theorem deliverWitness_off {s : State} {fr : Firing} {w : W64} (he : fr.e = 0) : deliverWitness s { fr with e := 0 } w = deliverWitness s fr w := by
  rw [← he]

/-- An instruction of opcode 0x53 with a destination. -/
structure WitnessRow (mk : Slot → Instr) (sub : Nat) : Prop where
  code : ∀ f, toCode (mk f) = some (0x53, sub, f)
  row : ∀ row, opRow 0x53 sub = some row → row.types = .n ∧ row.d = .dest
  adv : ∀ f cx cx' g, advMask (mk f) cx g = advMask (mk f) cx' g

theorem witnessRow_wmrg : WitnessRow .wmrg 0 := ⟨fun _ => rfl, by rintro _ ⟨⟩; exact ⟨rfl, rfl⟩, fun _ _ _ _ => rfl⟩
theorem witnessRow_wlft : WitnessRow .wlft 1 := ⟨fun _ => rfl, by rintro _ ⟨⟩; exact ⟨rfl, rfl⟩, fun _ _ _ _ => rfl⟩
theorem witnessRow_wlftH : WitnessRow .wlftH 2 := ⟨fun _ => rfl, by rintro _ ⟨⟩; exact ⟨rfl, rfl⟩, fun _ _ _ _ => rfl⟩
theorem witnessRow_wrdy : WitnessRow .wrdy 3 := ⟨fun _ => rfl, by rintro _ ⟨⟩; exact ⟨rfl, rfl⟩, fun _ _ _ _ => rfl⟩
theorem witnessRow_wnul : WitnessRow .wnul 5 := ⟨fun _ => rfl, by rintro _ ⟨⟩; exact ⟨rfl, rfl⟩, fun _ _ _ _ => rfl⟩

section
variable {mk : Slot → Instr} {sub : Nat} (row : WitnessRow mk sub) {body : State → Firing → Fired}
include row

theorem WitnessRow.slot {f : Slot} {s : State} {fr : Firing} (wf : (mk f).wf = true) (firing : s.firingOf (mk f) = some fr) :
    (fr.any = false → fr.e = 0) ∧ ∀ k, fr.f.dst ≠ .p k :=
  ⟨e_of_any_false (firing_untyped_width row.code (by decide) (fun r h => (row.row r h).1) wf firing),
    firing_dst_ne_pred row.code (fun r h k => by rw [(row.row r h).2]; rfl) wf firing⟩

/-- Such an instruction, whose body delivers a witness on top of a state at the same cursor. -/
theorem WitnessRow.delivers (fires : ∀ f s, exec (mk f) s = fire (mk f) body s) {cond : State → Firing → Prop} {pre : State → Firing → State}
    {wit : State → Firing → W64} (cur : ∀ s fr, (pre s fr).cur = s.cur)
    (done : ∀ s fr, (fr.any = false → fr.e = 0) → cond s fr → body s fr = .done (deliverWitness (pre s fr) fr (wit s fr))) : WitnessSpec mk cond pre wit := by
  intro f s fr wf firing holds
  obtain ⟨ht, hc, -⟩ := firingOf_place firing
  obtain ⟨off, noPred⟩ := row.slot wf firing
  refine ⟨_, by rw [fires, fire_done firing (done s fr off holds)], ?_⟩
  have eff := deliverWitness_effect (i := mk f) (s := pre s fr) (fr := fr) (by rw [cur]; exact ⟨ht, hc⟩) noPred (wit s fr)
  rw [State.finished, cur, row.adv f _ (s.ctx s.cur.tile s.cur.ctx)] at eff
  exact eff

/-- With no lane of E it delivers nothing (R45). -/
theorem WitnessRow.empty (fires : ∀ f s, exec (mk f) s = fire (mk f) body s)
    (off : ∀ s fr, fr.any = false → body s fr = .done (deliverWitness s { fr with e := 0 } 0)) :
    WitnessSpec mk (fun _ fr => fr.any = false) (fun s _ => s) (fun _ _ => 0) :=
  row.delivers fires (fun _ _ => rfl) fun s fr empty none => by rw [off s fr none, deliverWitness_off (empty none)]

end

section
variable {s : State} {fr : Firing} {w : W64}

theorem isMalformed_of_standing {t : Nat} (bad : s.standing t w = .malformed) : s.isMalformed t w = true := by
  rw [State.isMalformed, bad]; rfl

theorem isMalformed_of_fine {t : Nat} (fine : s.standing t w ≠ .malformed) : s.isMalformed t w = false := by
  simpa [State.isMalformed] using fine

end

/-! ### WMRG, WRDY, WWT and WNUL (R245, R281, R282) -/

theorem exec_wmrg_eq (f : Slot) (s : State) : exec (.wmrg f) s = execWmrg f s := rfl
theorem exec_wrdy_eq (f : Slot) (s : State) : exec (.wrdy f) s = execWrdy f s := rfl
theorem exec_wwt_eq (f : Slot) (s : State) : exec (.wwt f) s = execWwt f s := rfl

theorem wmrg_empty : WitnessSpec .wmrg (fun _ fr => fr.any = false) (fun s _ => s) (fun _ _ => 0) :=
  witnessRow_wmrg.empty exec_wmrg_eq fun _ _ none => by simp [none]

theorem wmrg_merges (w : W64) : WitnessSpec .wmrg (fun s fr => fr.any = true ∧ s.standing fr.t (BitVec.ofNat 64 (fr.a64 0)) ≠ .malformed ∧
    s.standing fr.t (BitVec.ofNat 64 (fr.b64 0)) ≠ .malformed ∧ merge s fr.t (BitVec.ofNat 64 (fr.a64 0)) (BitVec.ofNat 64 (fr.b64 0)) = .done w)
    (fun s _ => s) (fun _ _ => w) :=
  witnessRow_wmrg.delivers exec_wmrg_eq (fun _ _ => rfl) fun s fr _ ⟨any, fineA, fineB, merged⟩ => by
    simp [any, isMalformed_of_fine fineA, isMalformed_of_fine fineB, merged]

theorem wrdy_empty : WitnessSpec .wrdy (fun _ fr => fr.any = false) (fun s _ => s) (fun _ _ => 0) :=
  witnessRow_wrdy.empty exec_wrdy_eq fun _ _ none => by simp [none]

/-- Only a witness dropped for its group notes that in the context (R250). -/
theorem noteScope_eq (s : State) (t c : Nat) (w : W64) :
    s.noteScope t c w = if s.standing t w = .dropped then s.setCtx t c { s.ctx t c with wscope := true } else s := by
  rw [State.noteScope]
  simp only [beq_iff_eq]

theorem wrdy_tells (st : Standing) : WitnessSpec .wrdy (fun s fr => fr.any = true ∧ s.standing fr.t (BitVec.ofNat 64 (fr.a64 0)) = st ∧ st ≠ .malformed)
    (fun s fr => if st = .dropped then let cx := s.ctx fr.t fr.c; s.setCtx fr.t fr.c { cx with wscope := true } else s)
    (fun _ _ => if st = .pending then 0 else BitVec.allOnes 64) := by
  refine witnessRow_wrdy.delivers exec_wrdy_eq (fun s fr => by dsimp only; split <;> rfl) fun s fr _ ⟨any, standing, sound⟩ => ?_
  cases st with
  | malformed => exact absurd rfl sound
  | satisfied => simp [any, standing, noteScope_eq]
  | pending => simp [any, standing]
  | dropped => simp [any, standing, noteScope_eq]

theorem wwt_completes : Completes .wwt (fun s fr => fr.any = true ∧ s.standing fr.t (BitVec.ofNat 64 (fr.a64 0)) ≠ .malformed)
    (fun s fr => s.noteScope fr.t fr.c (BitVec.ofNat 64 (fr.a64 0))) :=
  completes_of_body exec_wwt_eq fun _ _ ⟨any, fine⟩ => by simp [any, isMalformed_of_fine fine]

theorem wwt_empty : Completes .wwt (fun _ fr => fr.any = false) (fun s _ => s) :=
  completes_of_body exec_wwt_eq fun _ _ none => by simp [none]

/-- WNUL delivers the null witness (R110, R281). -/
theorem wnul_delivers : WitnessSpec .wnul (fun _ _ => True) (fun s _ => s) (fun _ _ => 0xF000000000000000) :=
  witnessRow_wnul.delivers (fun f s => .trans (b := execWnul f s) rfl rfl) (fun _ _ => rfl) fun _ _ _ _ => rfl

/-! ### WLFT and WLFT.h (R243, R244, R281) -/

/-- The state in which a group whose witness has been lifted is asked to hasten, where the instruction is WLFT.h and the witness a scope witness (R243). -/
def State.hastened (s : State) (hasten : Bool) (w : W64) : State :=
  if hasten && decide (1 ≤ witLvl w) && decide (witLvl w ≤ 8) then
    s.setGroup (witLvl w) (witInst w) { s.group (witLvl w) (witInst w) with hasten := true }
  else s

theorem exec_wlft_eq (f : Slot) (s : State) : exec (.wlft f) s = fire (.wlft f) (liftBody false) s := rfl
theorem exec_wlftH_eq (f : Slot) (s : State) : exec (.wlftH f) s = fire (.wlftH f) (liftBody true) s := rfl

section
variable {hasten : Bool} {s : State} {fr : Firing}

theorem liftBody_empty (none : fr.any = false) : liftBody hasten s fr = .done (deliverWitness s { fr with e := 0 } 0) := by
  simp [liftBody, none]

variable (any : fr.any = true)
include any

theorem liftBody_malformed (bad : s.standing fr.t (BitVec.ofNat 64 (fr.a64 0)) = .malformed) :
    liftBody hasten s fr = .stop { cls := 7, cause := 1, witness := BitVec.ofNat 64 (fr.a64 0) } := by
  simp [liftBody, any, isMalformed_of_standing bad, malformed]

variable (fine : s.standing fr.t (BitVec.ofNat 64 (fr.a64 0)) ≠ .malformed)
include fine

theorem liftBody_badLevel (level : fr.a64 1 % 16 = 0 ∨ 8 < fr.a64 1 % 16) :
    liftBody hasten s fr = .stop { cls := 7, cause := 2, witness := BitVec.ofNat 64 (fr.a64 0) } := by
  simp [liftBody, any, isMalformed_of_fine fine, bits_eq_mod, level]

theorem liftBody_lifts {w : W64} (low : 1 ≤ fr.a64 1 % 16) (high : fr.a64 1 % 16 ≤ 8)
    (lifted : lift s fr.t (BitVec.ofNat 64 (fr.a64 0)) (fr.a64 1 % 16) = .done w) : liftBody hasten s fr = .done ((deliverWitness s fr w).hastened hasten w) := by
  have level : ¬ (fr.a64 1 % 16 < 1 ∨ 8 < fr.a64 1 % 16) := by omega
  simp only [liftBody, any, isMalformed_of_fine fine, bits_eq_mod, Nat.reducePow, level, lifted, Bool.not_true, Bool.false_eq_true, if_false,
    State.hastened]
  split <;> rfl

end

theorem wlft_lifts (w : W64) : WitnessSpec .wlft (fun s fr => fr.any = true ∧ s.standing fr.t (BitVec.ofNat 64 (fr.a64 0)) ≠ .malformed ∧ 1 ≤ fr.a64 1 % 16 ∧
    fr.a64 1 % 16 ≤ 8 ∧ lift s fr.t (BitVec.ofNat 64 (fr.a64 0)) (fr.a64 1 % 16) = .done w) (fun s _ => s) (fun _ _ => w) :=
  witnessRow_wlft.delivers exec_wlft_eq (fun _ _ => rfl) fun _ _ _ ⟨any, fine, low, high, lifted⟩ => liftBody_lifts any fine low high lifted

theorem groupKey_inj {l g l' g' : Nat} (hg : g < 65536) (hg' : g' < 65536) : groupKey l g = groupKey l' g' ↔ l = l' ∧ g = g' := by
  simp only [groupKey]
  omega

theorem group_setGroup (s : State) {l g l' g' : Nat} (hg : g < 65536) (hg' : g' < 65536) (x : Group) :
    (s.setGroup l' g' x).group l g = if l = l' ∧ g = g' then x else s.group l g := by
  rw [State.group, State.setGroup]
  by_cases same : l = l' ∧ g = g'
  · obtain ⟨rfl, rfl⟩ := same
    rw [if_pos ⟨rfl, rfl⟩, SMap.get_set_same]
  · rw [if_neg same, SMap.get_set_other _ fun key => same ((groupKey_inj hg hg').mp key)]
    rfl

theorem witInst_lt (w : W64) : witInst w < 65536 := Nat.mod_lt _ (by decide)

theorem group_hastened (s : State) (w : W64) {l g : Nat} (hg : g < 65536) : (s.hastened true w).group l g =
    if 1 ≤ witLvl w ∧ witLvl w ≤ 8 ∧ l = witLvl w ∧ g = witInst w then { s.group l g with hasten := true } else s.group l g := by
  rw [State.hastened]
  by_cases scope : 1 ≤ witLvl w ∧ witLvl w ≤ 8
  · rw [if_pos (by simp [scope]), group_setGroup _ hg (witInst_lt w)]
    by_cases own : l = witLvl w ∧ g = witInst w
    · rw [if_pos own, if_pos ⟨scope.1, scope.2, own⟩, own.1, own.2]
    · rw [if_neg own, if_neg fun h => own h.2.2]
  · rw [if_neg (by simpa using scope), if_neg fun h => scope ⟨h.1, h.2.1⟩]

/-- A hasten request is all that WLFT.h does beside WLFT. -/
theorem finished_hastened (u s : State) (i : Instr) (fr : Firing) (hasten : Bool) (w : W64) :
    (u.hastened hasten w).finished i s fr = { u.finished i s fr with groups := (u.hastened hasten w).groups } := by
  rw [State.hastened]
  split <;> rfl

theorem wlftH_lifts {f : Slot} {s : State} {fr : Firing} {w : W64} (wf : (Instr.wlftH f).wf = true) (firing : s.firingOf (.wlftH f) = some fr)
    (any : fr.any = true) (fine : s.standing fr.t (BitVec.ofNat 64 (fr.a64 0)) ≠ .malformed) (low : 1 ≤ fr.a64 1 % 16) (high : fr.a64 1 % 16 ≤ 8)
    (lifted : lift s fr.t (BitVec.ofNat 64 (fr.a64 0)) (fr.a64 1 % 16) = .done w) :
    ∃ t1 t, exec (.wlftH f) s = .next t ∧ LaneEffect (.wlftH f) s fr.as64 (fun _ => w.toNat) (fun _ => w != 0) (fun _ => 0) t1 ∧ { t with groups := s.groups } = t1 ∧
      ∀ l g, l < 9 → g < 65536 → t.group l g =
        if 1 ≤ witLvl w ∧ witLvl w ≤ 8 ∧ l = witLvl w ∧ g = witInst w then { s.group l g with hasten := true } else s.group l g := by
  obtain ⟨ht, hc, -⟩ := firingOf_place firing
  have eff := deliverWitness_effect (i := .wlftH f) (s := s) (fr := fr) ⟨ht, hc⟩ (witnessRow_wlftH.slot wf firing).2 w
  have groups : (deliverWitness s fr w).groups = s.groups := by
    have := congrArg State.groups eff.rest
    exact this
  refine ⟨_, _, by rw [exec_wlftH_eq, fire_done firing (liftBody_lifts any fine low high lifted)], eff, ?_, fun l g _ hg => ?_⟩
  · rw [finished_hastened]
    exact congrArg (fun x => { (deliverWitness s fr w).finished (.wlftH f) s fr with groups := x }) groups.symm
  · have at' (x : State) (h : x.groups = s.groups) : x.group l g = s.group l g := by rw [State.group, h, State.group]
    rw [finished_hastened]
    exact (group_hastened (deliverWitness s fr w) w hg).trans (by rw [at' _ groups])

/-! ### Malformed witnesses (R110, R249, R280) -/

theorem witness_halts : ∀ mk ∈ [Instr.wmrg, Instr.wlft, Instr.wlftH, Instr.wrdy, Instr.wwt],
    Halts mk true (fun s fr => fr.any = true ∧ s.standing fr.t (BitVec.ofNat 64 (fr.a64 0)) = .malformed)
      (fun _ fr => { cls := 7, cause := 1, witness := BitVec.ofNat 64 (fr.a64 0) }) := by
  simp only [List.forall_mem_cons]
  refine ⟨halts_of_body exec_wmrg_eq (fun _ => rfl) fun _ _ ⟨any, bad⟩ => ?_, halts_of_body exec_wlft_eq (fun _ => rfl) fun _ _ ⟨any, bad⟩ => liftBody_malformed any bad,
    halts_of_body exec_wlftH_eq (fun _ => rfl) fun _ _ ⟨any, bad⟩ => liftBody_malformed any bad, halts_of_body exec_wrdy_eq (fun _ => rfl) fun _ _ ⟨any, bad⟩ => ?_,
    halts_of_body exec_wwt_eq (fun _ => rfl) fun _ _ ⟨any, bad⟩ => ?_, fun _ h => by simp at h⟩
  · simp [any, isMalformed_of_standing bad, malformed]
  · simp [any, bad, malformed]
  · simp [any, isMalformed_of_standing bad, malformed]

theorem lift_halts : ∀ mk ∈ [Instr.wlft, Instr.wlftH],
    Halts mk true (fun s fr => fr.any = true ∧ s.standing fr.t (BitVec.ofNat 64 (fr.a64 0)) ≠ .malformed ∧ (fr.a64 1 % 16 = 0 ∨ 8 < fr.a64 1 % 16))
      (fun _ fr => { cls := 7, cause := 2, witness := BitVec.ofNat 64 (fr.a64 0) }) := by
  simp only [List.forall_mem_cons]
  exact ⟨halts_of_body exec_wlft_eq (fun _ => rfl) fun _ _ ⟨any, fine, level⟩ => liftBody_badLevel any fine level,
    halts_of_body exec_wlftH_eq (fun _ => rfl) fun _ _ ⟨any, fine, level⟩ => liftBody_badLevel any fine level, fun _ h => by simp at h⟩

/-- With no lane of E no witness instruction delivers anything, or looks at its operands (R45). -/
theorem witness_empty : ∀ mk ∈ [Instr.wmrg, Instr.wlft, Instr.wlftH, Instr.wrdy], WitnessSpec mk (fun _ fr => fr.any = false) (fun s _ => s) (fun _ _ => 0) := by
  simp only [List.forall_mem_cons]
  exact ⟨wmrg_empty, witnessRow_wlft.empty exec_wlft_eq fun _ _ => liftBody_empty, witnessRow_wlftH.empty exec_wlftH_eq fun _ _ => liftBody_empty, wrdy_empty,
    fun _ h => by simp at h⟩

/-! ### FENCE.D (R283) -/

theorem Kept.fences {t c : Nat} {s u : State} (h : Kept t c s u) : (u.tile t).fences = (s.tile t).fences := by
  have := congrArg Tile.fences h.tile
  exact this

section
variable (s : State) (t c slot : Nat)

theorem d_writeDest_same (k : Fin 8) (w : Nat) (e : Mask) (vals : List Nat) :
    at8 ((s.writeDest t c slot (.d k) w e vals).ctx t c).d k.val = mergeLanes w (512 / w) e (at8 (s.ctx t c).d k.val) vals := by
  obtain ⟨outs, eq, -⟩ := writeDest_ctx s t c slot (.d k) w e vals
  rw [eq]
  exact at8_set8_same ..

theorem d_writeDest_other {dst : Opnd} {k : Fin 8} (h : dst ≠ .d k) (w : Nat) (e : Mask) (vals : List Nat) :
    at8 ((s.writeDest t c slot dst w e vals).ctx t c).d k.val = at8 (s.ctx t c).d k.val := by
  obtain ⟨outs, eq, -⟩ := writeDest_ctx s t c slot dst w e vals
  rw [eq]
  dsimp only
  split
  · next j => exact at8_set8_other _ (fun same => h (congrArg Opnd.d (by ext; omega))) _
  · rfl

/-- A witness written whole to the 64-bit lanes of E of a register (R109). -/
theorem lane_writeDest_witness (k : Fin 8) (e : Mask) (w : W64) {j : Nat} (h : j < 8) :
    lane 64 (at8 ((s.writeDest t c slot (.d k) 64 e (List.replicate 8 w.toNat)).ctx t c).d k.val) j =
      if laneOn 64 e j then w.toNat else lane 64 (at8 (s.ctx t c).d k.val) j := by
  rw [d_writeDest_same, mergeLanes_lane _ _ _ _ (by omega) (by omega), List.getD_replicate _ h, Nat.mod_eq_of_lt w.isLt]

theorem p_writeDest (dst : Opnd) (w : Nat) (e : Mask) (vals : List Nat) : ((s.writeDest t c slot dst w e vals).ctx t c).p = (s.ctx t c).p := by
  obtain ⟨outs, eq, -⟩ := writeDest_ctx s t c slot dst w e vals
  rw [eq]

theorem flags_writeDest (dst : Opnd) (w : Nat) (e : Mask) (vals : List Nat) : ((s.writeDest t c slot dst w e vals).ctx t c).flags = (s.ctx t c).flags := by
  obtain ⟨outs, eq, -⟩ := writeDest_ctx s t c slot dst w e vals
  rw [eq]

theorem d_updatePred (op : PredOp) (reg : Fin 8) (e cond : Mask) : ((s.updatePred t c op reg e cond).ctx t c).d = (s.ctx t c).d := by
  rw [updatePred_ctx]

theorem flags_updatePred (op : PredOp) (reg : Fin 8) (e cond : Mask) : ((s.updatePred t c op reg e cond).ctx t c).flags = (s.ctx t c).flags := by
  rw [updatePred_ctx]

end

/-- A predicate bit after an update: only bits of E of the register named change (R48). -/
theorem bit_updatePred (s : State) (t c : Nat) (op : PredOp) (reg k : Fin 8) (e cond : Mask) {b : Nat} (h : b < 16) :
    (at8 ((s.updatePred t c op reg e cond).ctx t c).p k.val).getLsbD b =
      if e.getLsbD b && decide (reg = k) then PredOp.bit op ((at8 (s.ctx t c).p k.val).getLsbD b) (cond.getLsbD b) else (at8 (s.ctx t c).p k.val).getLsbD b := by
  have set : (at8 (set8 (s.ctx t c).p reg.val (PredOp.apply op e cond (at8 (s.ctx t c).p reg.val))) k.val).getLsbD b =
      if e.getLsbD b && decide (reg = k) then PredOp.bit op ((at8 (s.ctx t c).p k.val).getLsbD b) (cond.getLsbD b) else (at8 (s.ctx t c).p k.val).getLsbD b := by
    by_cases same : reg = k
    · subst same
      rw [at8_set8_same, predOp_bit _ _ _ _ h]
      simp
    · rw [at8_set8_other _ fun eq => same (by ext; omega)]
      simp [same]
  rw [updatePred_ctx]
  cases op with
  | none => simp [PredOp.bit]
  | set | setn | and | or | xor | andn => exact set

/-- The state in which FENCE.D has delivered its witness and taken its fence (R283). -/
def State.fenceTaken (s : State) (fr : Firing) : State :=
  let s1 := (s.writeDest fr.t fr.c fr.slot fr.f.dst 64 fr.e (List.replicate 8 (s.lastWitness fr.t).toNat)).updatePred fr.t fr.c fr.f.predOp fr.f.predReg fr.e fr.e
  s1.setTile fr.t { s1.tile fr.t with fences := (s1.tile fr.t).fences + 1 }

section
variable {f : Slot} {s : State} {fr : Firing} (wf : (Instr.fenceD f).wf = true) (firing : s.firingOf (.fenceD f) = some fr)
include firing

theorem exec_fenceD_fences (any : fr.any = true) : exec (.fenceD f) s = .next ((s.fenceTaken fr).finished (.fenceD f) s fr) := by
  show execFenceD f s = _
  rw [execFenceD, fire_done firing (by rw [any]; rfl)]
  rfl

theorem exec_fenceD_empty (off : fr.any = false) : exec (.fenceD f) s = .next ((deliverWitness s { fr with e := 0 } 0).finished (.fenceD f) s fr) := by
  show execFenceD f s = _
  rw [execFenceD, fire_done firing (by rw [off]; rfl)]

end

/-- What FENCE.D leaves (R283): its tile alone changes; one more fence, and the witness in the lanes of E. -/
structure Fences (i : Instr) (s : State) (fr : Firing) (t : State) : Prop where
  localTo : LocalTo s t fr.t
  fences : (t.tile fr.t).fences = (s.tile fr.t).fences + fr.any.toNat
  dest : ∀ k, fr.f.dst = .d k → ∀ j, j < 8 → lane 64 (at8 (t.ctx fr.t fr.c).d k.val) j =
    if fr.as64.on j then (s.lastWitness fr.t).toNat else lane 64 (at8 (s.ctx fr.t fr.c).d k.val) j
  keeps : ∀ k : Fin 8, fr.f.dst ≠ .d k → at8 (t.ctx fr.t fr.c).d k.val = at8 (s.ctx fr.t fr.c).d k.val
  pred : ∀ (k : Fin 8) (b : Nat), b < 16 → (at8 (t.ctx fr.t fr.c).p k.val).getLsbD b =
    if fr.on b && decide (fr.f.predReg = k) then PredOp.bit fr.f.predOp ((at8 (s.ctx fr.t fr.c).p k.val).getLsbD b) true else (at8 (s.ctx fr.t fr.c).p k.val).getLsbD b

theorem ctx_fenceTaken (s : State) (fr : Firing) : (s.fenceTaken fr).ctx fr.t fr.c =
    ((s.writeDest fr.t fr.c fr.slot fr.f.dst 64 fr.e (List.replicate 8 (s.lastWitness fr.t).toNat)).updatePred fr.t fr.c fr.f.predOp fr.f.predReg fr.e fr.e).ctx
      fr.t fr.c := by
  rw [State.fenceTaken, State.ctx, tile_setTile_same]
  rfl

theorem fenceTaken_fences {f : Slot} {s : State} {fr : Firing} (place : fr.t = s.cur.tile ∧ fr.c = s.cur.ctx) (width : fr.w = 32) (any : fr.any = true) :
    Fences (.fenceD f) s fr ((s.fenceTaken fr).finished (.fenceD f) s fr) := by
  have delivered := (writeDest_keeps s fr.t fr.c fr.slot fr.f.dst 64 fr.e (List.replicate 8 (s.lastWitness fr.t).toNat)).trans
    (updatePred_keeps _ fr.t fr.c fr.f.predOp fr.f.predReg fr.e fr.e)
  have last := finished_keeps (i := .fenceD f) place (s.fenceTaken fr)
  refine ⟨((LocalTo.of_kept delivered).trans (.setTile ..)).trans (.of_kept last), ?_, fun k dst j hj => ?_, fun k dst => ?_, fun k b hb => ?_⟩
  · rw [last.fences, State.fenceTaken, tile_setTile_same, delivered.fences, any]
    rfl
  · rw [ctx_finished_eq place, Ctx.consume, ctx_fenceTaken, d_updatePred, dst]
    exact lane_writeDest_witness s fr.t fr.c fr.slot k fr.e _ hj
  · rw [ctx_finished_eq place, Ctx.consume, ctx_fenceTaken, d_updatePred]
    exact d_writeDest_other s fr.t fr.c fr.slot dst ..
  · rw [ctx_finished_eq place, Ctx.consume, ctx_fenceTaken]
    refine (bit_updatePred _ _ _ _ _ _ _ _ hb).trans ?_
    rw [p_writeDest]
    have on : fr.on b = fr.e.getLsbD b := by simp [Firing.on, laneOn, width]
    rw [on]
    cases fr.e.getLsbD b <;> rfl

theorem fenceD_fences {f : Slot} {s : State} {fr : Firing} (wf : (Instr.fenceD f).wf = true) (firing : s.firingOf (.fenceD f) = some fr) :
    ∃ t, exec (.fenceD f) s = .next t ∧ Fences (.fenceD f) s fr t := by
  obtain ⟨ht, hc, -⟩ := firingOf_place firing
  have width : fr.w = 32 := firing_untyped_width (mk := .fenceD) (fun _ => rfl) (by decide) (by rintro _ ⟨⟩; rfl) wf firing
  cases any : fr.any with
  | true => exact ⟨_, exec_fenceD_fences firing any, fenceTaken_fences ⟨ht, hc⟩ width any⟩
  | false =>
    have empty := e_of_any_false width any
    have noPred := firing_dst_ne_pred (mk := .fenceD) (fun _ => rfl) (by rintro _ ⟨⟩ _; rfl) wf firing
    have eff := deliverWitness_effect (i := .fenceD f) (s := s) (fr := fr) ⟨ht, hc⟩ noPred 0
    have off : ∀ j, fr.as64.on j = false := on_of_e_zero empty
    have off32 : ∀ j, fr.on j = false := on_of_e_zero empty
    have lanes : fr.as64.n = 8 := by simp [Firing.n, Firing.as64]
    refine ⟨_, (exec_fenceD_empty firing any).trans (by rw [deliverWitness_off empty]; rfl), ⟨eff.tiles, eff.rest⟩, ?_, fun k dst j hj => ?_, eff.keeps, fun k b hb => ?_⟩
    · have := congrArg Tile.fences eff.tile
      rw [any]
      exact this
    · refine (eff.dest k dst j (lanes ▸ hj)).trans ?_
      rw [off, if_neg Bool.false_ne_true, if_neg Bool.false_ne_true]
      rfl
    · refine (eff.pred k b hb).trans ?_
      simp only [off, off32, Bool.not_false, if_true, Bool.false_and, Bool.false_eq_true, if_false]
      rfl

/-- Settles O29: each witness row delivers its witness, stops at a malformed one or at a level that does not exist, as its body says; WLFT.h asks the group to hasten,
and FENCE.D takes one more fence. -/
theorem witnessInstructions : Obligations.WitnessInstructions := by
  refine ⟨⟨witness_empty, wmrg_merges, wlft_lifts, fun _ _ _ _ wf firing any fine low high lifted => wlftH_lifts wf firing any fine low high lifted, wrdy_tells,
    wwt_completes, wwt_empty, witness_halts, lift_halts⟩, wnul_delivers, fun f s fr wf firing => ?_⟩
  obtain ⟨t, next, effect⟩ := fenceD_fences wf firing
  obtain rfl := (firingOf_slot (i := .fenceD f) rfl firing).1
  exact ⟨t, next, effect.localTo, effect.fences, effect.dest, effect.keeps, effect.pred⟩

end Sys2Proof.Machine
end

section
/-! SUPPORT. Stores at their firing (R236, R237, R259-R261, R268, R272, R273, R276): what is put in flight, and the witness or the waiting destination that a firing
leaves (O25). -/

namespace Sys2Proof.Machine

open Sys2Proof

/-! ### Accesses in flight are only added to -/

theorem prefix_issue (s : State) (a : Access) : s.accesses <+: (s.issue a).accesses := by
  obtain ⟨_, _, eq⟩ := issue_eq s a
  rw [eq]
  exact List.prefix_append ..

theorem prefix_writeBuffer (s : State) (t c slot k : Nat) (v : V512) : s.accesses <+: (writeBuffer s t c slot k v).accesses := by
  unfold writeBuffer
  split
  · exact List.prefix_rfl
  · exact prefix_issue (s.takeNumber t).2 _

theorem prefix_drainBuffer (t c slot n k : Nat) (ps : List Place) (s : State) : s.accesses <+: (drainBuffer t c slot n k ps s).accesses := by
  induction ps generalizing s with
  | nil => exact List.prefix_rfl
  | cons p rest ih =>
    cases p with
    | full b => exact (prefix_writeBuffer s t c slot k b.payload).trans (ih _)
    | held id tag => exact List.prefix_rfl

theorem prefix_setOuts (s : State) (t c slot n : Nat) (ps : List Place) : s.accesses <+: (s.setOuts t c slot n ps).accesses := by
  unfold State.setOuts
  split
  · exact prefix_drainBuffer ..
  · exact List.prefix_rfl

theorem prefix_writeDest (s : State) (t c slot : Nat) (dst : Opnd) (w : Nat) (e : Mask) (vals : List Nat) :
    s.accesses <+: (s.writeDest t c slot dst w e vals).accesses := by
  unfold State.writeDest
  split
  · exact List.prefix_rfl
  · exact prefix_setOuts ..
  · exact List.prefix_rfl

theorem prefix_expect (s : State) (t c slot : Nat) (o : Outstanding) : s.accesses <+: (s.expect t c slot o).accesses := by
  unfold State.expect
  split
  · exact prefix_setOuts ..
  · exact List.prefix_rfl

theorem updatePred_inFlight (s : State) (t c : Nat) (op : PredOp) (reg : Fin 8) (e cond : Mask) :
    (s.updatePred t c op reg e cond).accesses = s.accesses ∧ (s.updatePred t c op reg e cond).writers = s.writers := by
  unfold State.updatePred
  cases op <;> exact ⟨rfl, rfl⟩

/-- Only a destination that is an output endpoint can take numbers: those of a circular buffer's beats (R329). -/
theorem writers_writeDest {dst : Opnd} (noEndpoint : ∀ k, dst ≠ .o k) (s : State) (t c slot w : Nat) (e : Mask) (vals : List Nat) :
    (s.writeDest t c slot dst w e vals).writers = s.writers := by
  unfold State.writeDest
  split
  · rfl
  · next k => exact absurd rfl (noEndpoint k)
  · rfl

theorem writers_expect {o : Outstanding} (noEndpoint : ∀ k, o.dst ≠ .o k) (s : State) (t c slot : Nat) : (s.expect t c slot o).writers = s.writers := by
  unfold State.expect
  split
  · next k dst => exact absurd dst (noEndpoint k)
  · rfl

/-! ### The state in which a store is put in flight -/

/-- Lanes have been translated, and a dropped witness noted in the context (R250, R450). -/
structure StoreStart (s : State) (t c : Nat) (u : State) : Prop where
  rest : ∃ tlb hits misses, { u with tiles := s.tiles } = s.warmed tlb hits misses
  tiles : ∀ k, k ≠ t → u.tile k = s.tile k
  ctx : ∃ dropped, u.ctx t c = { s.ctx t c with wscope := dropped }

theorem storeStart_of_plan (s : State) (t c : Nat) (rs : List LaneReq) (w : W64) : StoreStart s t c ((planLanes s t rs).2.noteScope t c w) := by
  obtain ⟨tlb, hits, misses, eq⟩ := (planLanes_warmed t rs s).rest
  rw [eq, noteScope_eq]
  split
  · exact ⟨⟨tlb, hits, misses, rfl⟩, fun k other => tile_setCtx_other (s.warmed tlb hits misses) other c _, true, ctx_setCtx_same ..⟩
  · exact ⟨⟨tlb, hits, misses, rfl⟩, fun _ _ => rfl, _, rfl⟩

section
variable {s u : State} {t c : Nat} (start : StoreStart s t c u)
include start

theorem StoreStart.inFlight : u.mem = s.mem ∧ u.accesses = s.accesses ∧ u.nextAccess = s.nextAccess ∧ u.writers = s.writers ∧ u.outstanding = s.outstanding ∧
    u.keySlots = s.keySlots := by
  obtain ⟨_, _, _, eq⟩ := start.rest
  have field {α : Type} (f : State → α) := congrArg f eq
  exact ⟨field State.mem, field State.accesses, field State.nextAccess, field State.writers, field State.outstanding, field State.keySlots⟩

theorem StoreStart.keyIdent (l : Leaf) : u.keyIdent l = s.keyIdent l := by
  obtain ⟨-, -, -, -, -, keySlots⟩ := start.inFlight
  rw [State.keyIdent, State.keySlot, keySlots]
  rfl

theorem StoreStart.piecesOf (sp : List Spot) (op : List Spot → PieceOp) : piecesOf u sp op = Machine.piecesOf s sp op := by
  simp only [Machine.piecesOf, start.keyIdent]

theorem StoreStart.scatterPieces (sp : List Spot) (op : List Spot → PieceOp) : scatterPieces u sp op = Machine.scatterPieces s sp op := by
  simp only [Machine.scatterPieces, start.keyIdent]

end

/-! ### A store put in flight -/

/-- Some granule or return granule of a store or atomic lies on a strongly ordered page (R268). -/
def strongIn (ps : List Piece) (bs : List Back) : Bool := anyStrong ps || bs.any fun k => k.mt == .strong

/-- The access of a store or atomic under the element's next number (R236). -/
def Firing.storeAccess (fr : Firing) (u : State) (ps : List Piece) (bs : List Back) : Access :=
  { Access.blank (u.takeNumber fr.t).2 fr.t fr.c fr.slot with
    number := (u.writer fr.t).issued + 1, e := fr.e, a := fr.a.val, b := fr.b.val, pieces := ps, backs := bs, stalls := strongIn ps bs }

/-- The witness of that number (R237). -/
def Firing.storeWitness (fr : Firing) (u : State) : W64 := localWitness fr.t ((u.writer fr.t).issued + 1)

/-- The destination that waits for a store on a strongly ordered page (R268). -/
def Firing.storeResult (fr : Firing) (u : State) : Outstanding :=
  { id := u.nextAccess, tile := fr.t, ctx := fr.c, slot := fr.slot, dst := fr.f.dst, e := fr.e, w := fr.w, n := fr.n,
    predReg := fr.f.predReg, predOp := fr.f.predOp, witness := some (fr.storeWitness u), quiet := false }

/-- The store in flight, its destination not written yet. -/
def State.storeIssued (u : State) (fr : Firing) (ps : List Piece) (bs : List Back) : State := (u.takeNumber fr.t).2.issue (fr.storeAccess u ps bs)

theorem startStore_eq (u : State) (fr : Firing) (ps : List Piece) (bs : List Back) :
    startStore u fr (fun a => { a with pieces := ps, backs := bs }) =
      if strongIn ps bs then (u.storeIssued fr ps bs).expect fr.t fr.c fr.slot (fr.storeResult u)
      else ((u.storeIssued fr ps bs).writeDest fr.t fr.c fr.slot fr.f.dst 64 fr.e (List.replicate 8 (fr.storeWitness u).toNat)).updatePred
        fr.t fr.c fr.f.predOp fr.f.predReg (widenMask fr.w fr.e) (widenMask fr.w fr.e) := by
  have owes (a : Access) : ({ a with pieces := ps, backs := bs, returns := [] } : Access).owesOn (fun m => m == .strong) = strongIn ps bs := by
    simp [Access.owesOn, strongIn, anyStrong]
  have access := owes (Access.blank (u.takeNumber fr.t).2 fr.t fr.c fr.slot)
  unfold startStore
  simp only [State.storeIssued, Firing.storeAccess, ← access]
  rfl

/-- What the store in flight leaves otherwise (R236, R241). -/
theorem storeIssued_leaves (u : State) (fr : Firing) (ps : List Piece) (bs : List Back) : let v := u.storeIssued fr ps bs
    v.mem = u.mem ∧ v.tiles = u.tiles ∧ v.outstanding = u.outstanding ∧ (v.writer fr.t).issued = (u.writer fr.t).issued + 1 ∧
      ∃ tags, v.accesses = u.accesses ++ [{ fr.storeAccess u ps bs with tags := tags }] := by
  obtain ⟨tags, writers, eq⟩ := issue_eq (u.takeNumber fr.t).2 (fr.storeAccess u ps bs)
  have issued : ((u.storeIssued fr ps bs).writer fr.t).issued = (u.writer fr.t).issued + 1 := by
    rw [State.storeIssued, issued_issue]
    exact congrArg Writer.issued (writer_setWriter_same ..)
  refine ⟨?_, ?_, ?_, issued, tags, ?_⟩ <;> rw [State.storeIssued, eq] <;> rfl

/-- What a store leaves of the firing's context before the firing ends: registers and predicates as a firing without a result, or with its witness delivered. -/
theorem ctx_startStore (u : State) (fr : Firing) (ps : List Piece) (bs : List Back) (k : Fin 8) :
    let cx := (startStore u fr fun a => { a with pieces := ps, backs := bs }).ctx fr.t fr.c
    cx.flags = (u.ctx fr.t fr.c).flags ∧
    (strongIn ps bs = false → fr.f.dst = .d k → ∀ j, j < 8 → lane 64 (at8 cx.d k.val) j =
      if fr.as64.on j then (fr.storeWitness u).toNat else lane 64 (at8 (u.ctx fr.t fr.c).d k.val) j) ∧
    (fr.f.dst ≠ .d k ∨ strongIn ps bs = true → at8 cx.d k.val = at8 (u.ctx fr.t fr.c).d k.val) ∧
    ∀ b, b < 16 → (at8 cx.p k.val).getLsbD b =
      if fr.on (b / (fr.w / 32)) && decide (fr.f.predReg = k) && !strongIn ps bs
      then PredOp.bit fr.f.predOp ((at8 (u.ctx fr.t fr.c).p k.val).getLsbD b) true else (at8 (u.ctx fr.t fr.c).p k.val).getLsbD b := by
  have same : (u.storeIssued fr ps bs).ctx fr.t fr.c = u.ctx fr.t fr.c := by
    obtain ⟨-, tiles, -⟩ := storeIssued_leaves u fr ps bs
    rw [State.ctx, State.tile, tiles]; rfl
  dsimp only
  rw [startStore_eq]
  cases strong : strongIn ps bs with
  | true =>
    obtain ⟨v, outs, eq, kept, hctx⟩ := expect_keeps (u.storeIssued fr ps bs) fr.t fr.c fr.slot (fr.storeResult u)
    have ctx : ((u.storeIssued fr ps bs).expect fr.t fr.c fr.slot (fr.storeResult u)).ctx fr.t fr.c = { u.ctx fr.t fr.c with outs := outs } := by
      rw [eq, ← same]; exact hctx
    rw [if_pos rfl, ctx]
    refine ⟨rfl, fun no => absurd no.symm Bool.false_ne_true, fun _ => rfl, fun b _ => ?_⟩
    rw [Bool.not_true, Bool.and_false, if_neg Bool.false_ne_true]
  | false =>
    rw [if_neg Bool.false_ne_true, d_updatePred, flags_updatePred, flags_writeDest]
    refine ⟨by rw [same], fun _ dst j hj => ?_, fun other => ?_, fun b hb => ?_⟩
    · rw [dst, lane_writeDest_witness _ _ _ _ _ _ _ hj, same]
      rfl
    · rw [d_writeDest_other _ _ _ _ (other.resolve_right Bool.false_ne_true), same]
    · have on : (widenMask fr.w fr.e).getLsbD b = fr.on (b / (fr.w / 32)) := by rw [widenMask, maskOf_bit _ hb]; rfl
      rw [bit_updatePred _ _ _ _ _ _ _ _ hb, p_writeDest, same, on]
      cases fr.on (b / (fr.w / 32)) <;> simp

/-- What a store leaves outside its context before the firing ends. -/
theorem startStore_leaves (u : State) (fr : Firing) (ps : List Piece) (bs : List Back) : let v := startStore u fr fun a => { a with pieces := ps, backs := bs }
    v.mem = u.mem ∧ (∀ k, k ≠ fr.t → v.tile k = u.tile k) ∧ (∃ tags, u.accesses ++ [{ fr.storeAccess u ps bs with tags := tags }] <+: v.accesses) ∧
      ((∀ k : Fin 8, fr.f.dst ≠ .o k) → (v.writer fr.t).issued = (u.writer fr.t).issued + 1) ∧
      v.outstanding = if strongIn ps bs then u.outstanding ++ [fr.storeResult u] else u.outstanding := by
  obtain ⟨mem, tiles, outstanding, issued, tags, accesses⟩ := storeIssued_leaves u fr ps bs
  have tile (k : Nat) : (u.storeIssued fr ps bs).tile k = u.tile k := by rw [State.tile, tiles]; rfl
  dsimp only
  rw [startStore_eq]
  cases strong : strongIn ps bs with
  | true =>
    obtain ⟨v, outs, eq, kept, -⟩ := expect_keeps (u.storeIssued fr ps bs) fr.t fr.c fr.slot (fr.storeResult u)
    have added := prefix_expect (u.storeIssued fr ps bs) fr.t fr.c fr.slot (fr.storeResult u)
    have writers (no : ∀ k : Fin 8, fr.f.dst ≠ .o k) := writers_expect (o := fr.storeResult u) no (u.storeIssued fr ps bs) fr.t fr.c fr.slot
    rw [if_pos rfl, if_pos rfl, eq] at *
    refine ⟨kept.mem.trans mem, fun k other => (kept.tiles k other).trans (tile k), ⟨tags, accesses ▸ added⟩, fun no => ?_, ?_⟩
    · rw [← issued, State.writer, writers no]; rfl
    · rw [kept.outstanding, outstanding]
  | false =>
    have kept := (writeDest_keeps (u.storeIssued fr ps bs) fr.t fr.c fr.slot fr.f.dst 64 fr.e (List.replicate 8 (fr.storeWitness u).toNat)).trans
      (updatePred_keeps _ fr.t fr.c fr.f.predOp fr.f.predReg (widenMask fr.w fr.e) (widenMask fr.w fr.e))
    rw [if_neg Bool.false_ne_true, if_neg Bool.false_ne_true]
    refine ⟨kept.mem.trans mem, fun k other => (kept.tiles k other).trans (tile k), ⟨tags, ?_⟩, fun no => ?_, kept.outstanding.trans outstanding⟩
    · rw [(updatePred_inFlight ..).1, ← accesses]
      exact prefix_writeDest ..
    · rw [← issued, State.writer, (updatePred_inFlight ..).2, writers_writeDest no]; rfl

/-- A store or atomic that finds no fault has the effect that statements name (R236, R237, R260, R261, R268). -/
theorem startStore_effect {i : Instr} {s u : State} {fr : Firing} (place : fr.t = s.cur.tile ∧ fr.c = s.cur.ctx) (start : StoreStart s fr.t fr.c u)
    (ps : List Piece) (bs : List Back) : let t := (startStore u fr fun a => { a with pieces := ps, backs := bs }).finished i s fr
    StoreEffect i s fr ps (strongIn ps bs) t ∧ ∀ a, t.accesses[s.accesses.length]? = some a → a.backs = bs ∧ a.returns = [] := by
  obtain ⟨mem, tiles, ⟨tags, suffix, accesses⟩, issued, outstanding⟩ := startStore_leaves u fr ps bs
  obtain ⟨mem0, accesses0, next0, writers0, outstanding0, -⟩ := start.inFlight
  obtain ⟨dropped, ctx0⟩ := start.ctx
  have writer0 : u.writer fr.t = s.writer fr.t := by rw [State.writer, writers0]; rfl
  generalize hv : (startStore u fr fun a => { a with pieces := ps, backs := bs }) = v at *
  have ctx := fun k => ctx_startStore u fr ps bs k
  rw [hv] at ctx
  have last := finished_keeps (i := i) place v
  have inFlight : (v.finished i s fr).accesses = s.accesses ++ { fr.storeAccess u ps bs with tags := tags } :: suffix := by
    rw [← accesses0, List.append_cons]
    exact accesses.symm
  have own : (v.finished i s fr).accesses[s.accesses.length]? = some { fr.storeAccess u ps bs with tags := tags } := by
    rw [inFlight, List.getElem?_append_right (Nat.le_refl _), Nat.sub_self]; rfl
  refine ⟨⟨last.mem.trans (mem.trans mem0), fun k other => (last.tiles k other).trans ((tiles k other).trans (start.tiles k other)), fun k hk => ?_,
    ⟨_, own, next0, rfl, rfl, ?_, rfl, rfl⟩, fun no => ?_, fun weak k dst j hj => ?_, fun k other => ?_, fun k b hb => ?_, ?_, ?_⟩, fun a at' => ?_⟩
  · rw [inFlight, List.getElem?_append_left hk]
  · exact congrArg (·.issued + 1) writer0
  · rw [← writer0, ← issued no]; rfl
  · rw [ctx_finished_eq place, Ctx.consume]
    obtain ⟨-, dest, -⟩ := ctx k
    refine (dest weak dst j hj).trans ?_
    rw [Firing.storeWitness, writer0, ctx0]
  · rw [ctx_finished_eq place, Ctx.consume]
    obtain ⟨-, -, keeps, -⟩ := ctx k
    refine (keeps other).trans ?_
    rw [ctx0]
  · rw [ctx_finished_eq place, Ctx.consume]
    obtain ⟨-, -, -, pred⟩ := ctx k
    refine (pred b hb).trans ?_
    rw [ctx0]
  · have out : (v.finished i s fr).outstanding = _ := last.outstanding.trans outstanding
    rw [out, outstanding0]
    split
    · exact ⟨_, rfl, next0, rfl, rfl, by rw [Firing.storeResult, Firing.storeWitness, writer0]⟩
    · rfl
  · rw [ctx_finished_eq place, Ctx.consume]
    obtain ⟨flags, -⟩ := ctx 0
    refine (congrArg (· ||| fr.decodeFlags) flags).trans ?_
    rw [ctx0]
  · rw [own] at at'
    cases at'
    exact ⟨rfl, rfl⟩

/-! ### No lane of E (R45) -/

theorem packNat_zeros (w n : Nat) : packNat w (List.replicate n 0) = 0 := by
  induction n with
  | zero => rfl
  | succ n ih =>
    rw [List.replicate_succ]
    show 0 % 2 ^ w + 2 ^ w * packNat w (List.replicate n 0) = 0
    rw [ih, Nat.zero_mod, Nat.mul_zero]

section
variable {w : Nat} {e : Mask} (off : ∀ l < 512 / w, laneOn w e l = false)
include off

theorem tokenLanes_off (new : List Nat) : tokenLanes w (512 / w) e new = 0 := by
  have zeros : (List.range (512 / w)).map (fun l => if laneOn w e l then new.getD l 0 else 0) = List.replicate (512 / w) 0 := by
    refine List.eq_replicate_iff.mpr ⟨by simp, fun x hx => ?_⟩
    obtain ⟨l, hl, rfl⟩ := List.mem_map.mp hx
    simp [off l (List.mem_range.mp hl)]
  rw [tokenLanes, zeros, packLanes, packNat_zeros]
  rfl

variable (hw : w = 32 ∨ w = 64)
include hw

theorem widenMask_off : widenMask w e = 0 := by
  refine BitVec.eq_of_getLsbD_eq fun b hb => ?_
  have lane : b / (w / 32) < 512 / w := by obtain rfl | rfl := hw <;> omega
  rw [widenMask, maskOf_bit _ hb, off _ lane]
  exact BitVec.getLsbD_zero.symm

/-- With no lane of E every form writes the same: a register as it was, or a beat of no lanes. -/
theorem writeDest_off (s : State) (t c slot : Nat) (dst : Opnd) : s.writeDest t c slot dst w e [] = s.writeDest t c slot dst 64 0 [] := by
  unfold State.writeDest
  split
  · simp only [mergeLanes_off hw off, mergeLanes_off (.inr rfl) (off_zero 64)]
  · rw [tokenLanes_off off, tokenLanes_off (off_zero 64), widenMask_off off hw, widenMask_off (off_zero 64) (.inr rfl)]
  · rfl

end

/-- A firing with no lane of E that sends no result has the effect of one of no lanes (R45, R51). -/
theorem off_effect {i : Instr} {s : State} {fr : Firing} (place : fr.t = s.cur.tile ∧ fr.c = s.cur.ctx) (hw : fr.w = 32 ∨ fr.w = 64) (none : fr.any = false)
    (noPred : ∀ k, fr.f.dst ≠ .p k) :
    LaneEffect i s fr (fun _ => 0) (fun _ => false) (fun _ => 0) ((s.writeDest fr.t fr.c fr.slot fr.f.dst 64 0 []).finished i s fr) := by
  have off := off_of_any (fr := fr) (by simp [none])
  have eff := applyLanes_effect (i := i) (s := s) ⟨[], [], []⟩ (fun _ => 0) (fun _ => false) (fun _ => 0) place hw (fun _ _ => rfl) (fun _ _ => rfl)
    (by rw [gather_zero]; rfl)
  refine eff.congr (SameTiles.finished ?_ i s fr)
  rw [applyLanes, writePred_of_not_pred noPred, writeDest_off off hw, widenMask_off off hw, ← widenMask_off (off_zero 64) (.inr rfl)]
  exact (updatePred_empty ..).trans (raise_zero ..)

/-! ### The store instructions -/

/-- An instruction that makes the store of a form. -/
structure IsStore (mk : Slot → Instr) (opc sub : Nat) (form : State → Firing → StoreForm) : Prop where
  fires : ∀ f s, exec (mk f) s = fire (mk f) (fun s fr => storeBody s fr (form s fr)) s
  code : ∀ f, toCode (mk f) = some (opc, sub, f)
  narrow : opc ≠ 0x24
  dest : ∀ row, opRow opc sub = some row → row.d = .dest
  sources : ∀ f, readsSources (mk f) = true

/-- A store whose lanes meet no fault has its access in flight (R260, R272, R273, R276). -/
theorem storeBody_starts {s : State} {fr : Firing} {form : StoreForm} (any : fr.any = true)
    (sound : accessFault fr.f.ty { w := true } form.tier (s.standing fr.t form.wit == .malformed) form.wit (planLanes s fr.t form.lanes).1 = none) :
    let spots := (planLanes s fr.t form.lanes).1.filterMap (Planned.spot fr.f.ty)
    let op (xs : List Spot) : PieceOp := .store (storeBits form.val xs).1 (storeBits form.val xs).2 form.setFull false
    storeBody s fr form = .done (startStore ((planLanes s fr.t form.lanes).2.noteScope fr.t fr.c form.wit) fr fun a =>
      { a with pieces := if form.scatter then scatterPieces s spots op else ascending (piecesOf s spots op), backs := [] }) := by
  have start := storeStart_of_plan s fr.t fr.c form.lanes form.wit
  dsimp only
  rw [← start.scatterPieces, ← start.piecesOf]
  unfold storeBody
  simp only [any, Bool.not_true, Bool.false_eq_true, if_false, sound]
  rfl

theorem IsStore.spec {mk : Slot → Instr} {opc sub : Nat} {form : State → Firing → StoreForm} (store : IsStore mk opc sub form) : StoreSpec mk form := by
  refine ⟨fun f s fr wf firing none => ?_, fun fi => halts_of_body store.fires store.sources fun s fr ⟨any, fault⟩ => ?_, fun f s fr _ firing any sound => ?_⟩
  · obtain ⟨ht, hc, -⟩ := firingOf_place firing
    have noPred := firing_dst_ne_pred store.code (fun row h k => by rw [store.dest row h]; rfl) wf firing
    refine ⟨_, by rw [store.fires, fire_done firing (by rw [storeBody, none]; rfl)], ?_⟩
    exact off_effect ⟨ht, hc⟩ (firing_laneWidth store.code store.narrow firing) none noPred
  · simp only [storeBody, any, Bool.not_true, Bool.false_eq_true, if_false, fault]
  · obtain ⟨ht, hc, -⟩ := firingOf_place firing
    have strong (ps : List Piece) : strongIn ps [] = anyStrong ps := Bool.or_false _
    refine ⟨_, by rw [store.fires, fire_done firing (storeBody_starts any sound)], ?_⟩
    obtain ⟨effect, -⟩ := startStore_effect (i := mk f) ⟨ht, hc⟩ (storeStart_of_plan s fr.t fr.c (form s fr).lanes (form s fr).wit) _ []
    rw [strong] at effect
    exact effect

/-- Settles O25: ST, STX and STFE are stores of their forms, and PFT leaves nothing but what follows every firing. -/
theorem storesFire : Obligations.StoresFire := by
  refine ⟨IsStore.spec (opc := 0x50) (sub := 1) ⟨fun f s => .trans (b := execSt f s) rfl rfl, fun _ => rfl, by decide, by rintro _ ⟨⟩; rfl, fun _ => rfl⟩,
    IsStore.spec (opc := 0x50) (sub := 4) ⟨fun f s => .trans (b := execStx f s) rfl rfl, fun _ => rfl, by decide, by rintro _ ⟨⟩; rfl, fun _ => rfl⟩,
    IsStore.spec (opc := 0x51) (sub := 2) ⟨fun f s => .trans (b := execStfe f s) rfl rfl, fun _ => rfl, by decide, by rintro _ ⟨⟩; rfl, fun _ => rfl⟩,
    completes_of_body (fun f s => .trans (b := execPft f s) rfl rfl) fun _ _ _ => rfl⟩

end Sys2Proof.Machine
end

section
/-! SUPPORT. When an access in flight may perform a granule (R228, R231, R267, R268, R283), and which store a link that is down cuts off (R480) (O27). -/

namespace Sys2Proof.Machine

open Sys2Proof

/-! ### Order -/

section
variable {s : State} {a b : Access} {p q : Piece}

/-- What lets a granule be performed. -/
structure MayPerform (s : State) (a : Access) (p : Piece) : Prop where
  granule : s.granuleFree a p = true
  device : s.deviceFree a p = true
  strong : s.strongFree a p = true
  fence : s.fenceFree a p = true
  pass : s.passTurn a = true
  given : s.givenFree a = true
  tail : a.tailFree p = true
  full : ∀ clear lanes, p.op = .loadFull clear lanes → s.mem.isFull p.gran = true

theorem mayPerform_iff : s.mayPerform a p = true ↔ MayPerform s a p := by
  constructor
  · intro may
    simp only [State.mayPerform, Bool.and_eq_true] at may
    obtain ⟨⟨⟨⟨⟨⟨⟨granule, device⟩, strong⟩, fence⟩, pass⟩, given⟩, tail⟩, full⟩ := may
    exact ⟨granule, device, strong, fence, pass, given, tail, fun clear lanes op => by simpa only [op] using full⟩
  · rintro ⟨granule, device, strong, fence, pass, given, tail, full⟩
    simp only [State.mayPerform, granule, device, strong, fence, pass, given, tail, Bool.true_and]
    split
    · next clear lanes op => exact full clear lanes op
    · rfl

theorem mayPerform_of_not (h : ¬ MayPerform s a p) : s.mayPerform a p = false :=
  Bool.eq_false_iff.mpr fun may => h (mayPerform_iff.mp may)

theorem remaining_of_piece (piece : q ∈ b.pieces) : b.remaining = true := by
  have some' : b.pieces.isEmpty = false := by simpa using List.ne_nil_of_mem piece
  simp [Access.remaining, some']

theorem owesOn_of_piece {kind : MemType → Bool} (piece : q ∈ b.pieces) (of_kind : kind q.mt = true) : b.owesOn kind = true := by
  have some' : b.pieces.any (fun p => kind p.mt) = true := List.any_eq_true.mpr ⟨q, piece, of_kind⟩
  simp [Access.owesOn, some']

theorem touches_of_piece (piece : q ∈ b.pieces) (same : q.gran = p.gran) (plain : ∀ clear lanes, q.op ≠ .loadFull clear lanes) : s.touches b p = true := by
  simp only [State.touches, Bool.or_eq_true]
  refine .inl (.inl (List.any_eq_true.mpr ⟨q, piece, ?_⟩))
  cases op : q.op with
  | loadFull clear lanes => exact absurd op (plain clear lanes)
  | load | store | atomic => simp [same]

/-- An access waits for every earlier one of its writer that still has something to do at its granule (R228). -/
theorem waits_of_granule (inFlight : b ∈ s.accesses) (writer : b.writer = a.writer) (earlier : b.before a = true) (touches : s.touches b p = true) :
    s.mayPerform a p = false := by
  refine mayPerform_of_not fun may => ?_
  have free := may.granule
  rw [State.granuleFree, Bool.and_eq_true, List.all_eq_true] at free
  simpa [writer, earlier, touches] using free.1 b inFlight

/-- An element's accesses to device pages wait for its earlier ones (R225, R228). -/
theorem waits_of_device (inFlight : b ∈ s.accesses) (writer : b.writer = a.writer) (earlier : b.before a = true) (piece : q ∈ b.pieces) (theirs : q.mt = .device)
    (ours : p.mt = .device) (element : a.writer < 4608) : s.mayPerform a p = false := by
  refine mayPerform_of_not fun may => ?_
  have free := may.device
  have owes : b.owesOn (fun m => m == .device) = true := owesOn_of_piece piece (by simp [theirs])
  simp only [State.deviceFree, ours, MemType.ordered, Bool.not_true, Bool.false_or, bne_self_eq_false, ge_iff_le, decide_eq_false (Nat.not_le.mpr element),
    Bool.and_eq_true, List.all_eq_true] at free
  obtain ⟨-, others, -⟩ := free
  simpa [writer, earlier, owes] using others b inFlight

/-- An access to a strongly ordered page waits for every earlier one of its context (R228, R268). -/
theorem waits_of_strong (inFlight : b ∈ s.accesses) (writer : b.writer = a.writer) (earlier : b.before a = true) (piece : q ∈ b.pieces) (ours : p.mt = .strong)
    (ctx : b.ctx = a.ctx) : s.mayPerform a p = false := by
  refine mayPerform_of_not fun may => ?_
  have free := may.strong
  simp only [State.strongFree, ours, bne_self_eq_false, Bool.false_or, Bool.and_eq_true, List.all_eq_true] at free
  simpa [writer, ctx, earlier, remaining_of_piece piece] using free.1 b inFlight

/-- Behind a FENCE.D an access waits where its page or a page still owed before the fence is device or strongly ordered (R283). -/
theorem waits_of_fence (inFlight : b ∈ s.accesses) (writer : b.writer = a.writer) (behind : b.fence < a.fence) (piece : q ∈ b.pieces)
    (ordered : p.mt = .device ∨ p.mt = .strong ∨ q.mt = .device ∨ q.mt = .strong) : s.mayPerform a p = false := by
  refine mayPerform_of_not fun may => ?_
  have free := may.fence
  have orders : (p.mt.ordered || b.owesOn MemType.ordered) = true := by
    obtain ours | ours | theirs | theirs := ordered
    · rw [ours]; rfl
    · rw [ours]; rfl
    · rw [owesOn_of_piece piece (by rw [theirs]; rfl), Bool.or_true]
    · rw [owesOn_of_piece piece (by rw [theirs]; rfl), Bool.or_true]
  rw [State.fenceFree, Bool.and_eq_true, List.all_eq_true] at free
  simpa [writer, behind, remaining_of_piece piece, orders] using free.1 b inFlight

theorem before_self (a : Access) : a.before a = false := by simp [Access.before]

/-- An access alone in flight, with no chain of its element to come, performs a granule of a normal page at once. -/
theorem mayPerform_alone (alone : ∀ b ∈ s.accesses, b = a) (chains : ∀ r ∈ s.chainsOf a, r.groups ≤ r.next) (origin : a.origin = .slot) (normal : p.mt = .normal)
    (plain : ∀ clear lanes, p.op ≠ .loadFull clear lanes) : s.mayPerform a p = true := by
  have past (r : ChainRun) (h : r ∈ s.chainsOf a) : decide (r.next < r.groups) = false := decide_eq_false (Nat.not_lt.mpr (chains r h))
  have ahead (r : ChainRun) (h : r ∈ s.chainsOf a) : r.ahead a = false := by rw [ChainRun.ahead, past r h, Bool.and_false]
  refine mayPerform_iff.mpr ⟨?_, ?_, ?_, ?_, ?_, ?_, ?_, fun clear lanes op => absurd op (plain clear lanes)⟩
  · rw [State.granuleFree, Bool.and_eq_true, List.all_eq_true, List.all_eq_true]
    refine ⟨fun b inFlight => ?_, fun r h => ?_⟩
    · rw [alone b inFlight, before_self]
      simp
    · rw [ahead r h]
      rfl
  · simp [State.deviceFree, normal, MemType.ordered]
  · simp [State.strongFree, normal]
  · rw [State.fenceFree, Bool.and_eq_true, List.all_eq_true, List.all_eq_true]
    refine ⟨fun b inFlight => ?_, fun r h => ?_⟩
    · rw [alone b inFlight]
      simp
    · rw [past r h]
      simp
  · simp [State.passTurn, origin]
  · simp [State.givenFree, origin]
  · simp [Access.tailFree, origin]

/-- An LDFE waits until its granule is full (R231). -/
theorem waits_of_empty {clear : Bool} {lanes : List LaneAt} (op : p.op = .loadFull clear lanes) (empty : s.mem.isFull p.gran = false) :
    s.mayPerform a p = false :=
  mayPerform_of_not fun may => by simpa [empty] using may.full clear lanes op

end

/-! ### Links that are down (R18, R22, R480) -/

theorem downLink_iff (s : State) (d : Nat) : s.downLink d = true ↔
    ∃ r ∈ s.routers, s.siteDomain r.1 = some d ∧ ∃ l ∈ r.2.link, l.2 = .down ∧ ∃ next, s.beyond r.1 l.1 = some next ∧ s.siteDomain next = some d := by
  simp only [State.downLink, List.any_eq_true, Bool.and_eq_true, beq_iff_eq]
  refine exists_congr fun r => and_congr_right fun _ => and_congr_right fun _ => exists_congr fun l => and_congr_right fun _ => and_congr_right fun _ => ?_
  cases s.beyond r.1 l.1 <;> simp

theorem cutOff_iff (s : State) (a : Access) (p : Piece) : s.cutOff a p = true ↔ ∃ t d, padTile p.gran = some t ∧ t ≠ a.tile ∧ s.tileDomain t = some d ∧
    ∃ r ∈ s.routers, s.siteDomain r.1 = some d ∧ ∃ l ∈ r.2.link, l.2 = .down ∧ ∃ next, s.beyond r.1 l.1 = some next ∧ s.siteDomain next = some d := by
  simp only [← downLink_iff]
  rw [State.cutOff]
  cases pad : padTile p.gran with
  | none => simp
  | some t => cases domain : s.tileDomain t <;> simp [domain]

/-! ### The operations of the atomics (R277) -/

theorem atomicLess_iff (ty : Ty) (w x y : Nat) : (if ty.signed then decide (sgn w x < sgn w y) else decide (x < y)) = true ↔
    intOf ty.signed w x < intOf ty.signed w y := by
  unfold intOf
  split <;> simp

theorem atomicMin_eq (ty : Ty) (w m b c : Nat) : intOf ty.signed w (AtomicOp.apply .min ty w m b c) = min (intOf ty.signed w m) (intOf ty.signed w b) := by
  show intOf ty.signed w (if (if ty.signed then decide (sgn w b < sgn w m) else decide (b < m)) = true then b else m) = _
  by_cases less : intOf ty.signed w b < intOf ty.signed w m
  · rw [if_pos ((atomicLess_iff ..).mpr less), min_eq_right less.le]
  · rw [if_neg fun h => less ((atomicLess_iff ..).mp h), min_eq_left (not_lt.mp less)]

theorem atomicMax_eq (ty : Ty) (w m b c : Nat) : intOf ty.signed w (AtomicOp.apply .max ty w m b c) = max (intOf ty.signed w m) (intOf ty.signed w b) := by
  show intOf ty.signed w (if (if ty.signed then decide (sgn w m < sgn w b) else decide (m < b)) = true then b else m) = _
  by_cases less : intOf ty.signed w m < intOf ty.signed w b
  · rw [if_pos ((atomicLess_iff ..).mpr less), max_eq_right less.le]
  · rw [if_neg fun h => less ((atomicLess_iff ..).mp h), max_eq_left (not_lt.mp less)]

theorem testBit_toNat_bits (x : BitVec 128) (off w i : Nat) :
    (bits x.toNat off w).testBit i = (decide (i < w) && x.getLsbD (off + i)) := by
  rw [testBit_bits]
  rfl

/-- The bits of the field of a lane, and of a value placed there. -/
theorem getLsbD_fieldMask {off w i : Nat} (i_lt : i < w) (inside : off + w ≤ 128) : (BitVec.ofNat 128 ((2 ^ w - 1) * 2 ^ off)).getLsbD (off + i) = true := by
  rw [BitVec.getLsbD_ofNat, Nat.testBit_mul_two_pow, Nat.add_sub_cancel_left, Nat.testBit_two_pow_sub_one]
  simp only [i_lt, Nat.le_add_right, decide_true, Bool.and_true, decide_eq_true_eq]
  omega

theorem getLsbD_fieldValue (v : Nat) {off w i : Nat} (i_lt : i < w) (inside : off + w ≤ 128) : (BitVec.ofNat 128 (v * 2 ^ off)).getLsbD (off + i) = v.testBit i := by
  rw [BitVec.getLsbD_ofNat, Nat.testBit_mul_two_pow, Nat.add_sub_cancel_left, decide_eq_true (show off + i < 128 by omega)]
  simp

/-- A value masked to a field reads back there. -/
theorem bits_field {y : BitVec 128} {v off w : Nat} (placed : ∀ i, i < w → y.getLsbD (off + i) = v.testBit i) :
    bits y.toNat off w = v % 2 ^ w := by
  refine Nat.eq_of_testBit_eq fun i => ?_
  rw [testBit_toNat_bits, Nat.testBit_mod_two_pow]
  by_cases hi : i < w
  · rw [placed i hi]
  · simp [hi]

/-- A lane of an atomic holds what its operation gives (R277). -/
theorem bits_combineLanes (op : AtomicOp) (ty : Ty) (x : BitVec 128) (l : AtomicLane) (inside : l.at'.off + l.at'.width ≤ 128) :
    bits (combineLanes op ty x [l]).toNat l.at'.off l.at'.width = op.apply ty l.at'.width (bits x.toNat l.at'.off l.at'.width) l.b l.c % 2 ^ l.at'.width := by
  rw [← Nat.mod_mod (op.apply ..)]
  refine bits_field fun i hi => ?_
  simp only [combineLanes, List.foldl_cons, List.foldl_nil, BitVec.getLsbD_or, BitVec.getLsbD_and, BitVec.getLsbD_not, getLsbD_fieldMask hi inside,
    getLsbD_fieldValue _ hi inside]
  simp

end Sys2Proof.Machine
end

section
/-! SUPPORT. What performing a granule of memory leaves (R226, R230, R231, R262, R265, R272, R277, R278, R481): the granule written, the access with what is left of it,
and the record of a load that has read poison (O27). -/

namespace Sys2Proof.Machine

open Sys2Proof

/-! ### A granule written (R226, R230, R272, R481) -/

theorem Memory.write_full (m : Memory) (a n x : Nat) : (m.write a n x).full = m.full :=
  List.foldlRecOn _ _ (motive := fun u : Memory => u.full = m.full) rfl fun _ hu _ _ => by exact hu

theorem Memory.granule_setGranule_whole (m : Memory) (g : Nat) (data : BitVec 128) : (m.setGranule g data (BitVec.allOnes 128)).granule g = data := by
  rw [Memory.granule, Memory.setGranule, Memory.read_write_same, BitVec.and_allOnes, BitVec.not_allOnes, BitVec.and_zero, BitVec.zero_or]
  exact (congrArg _ (Nat.mod_eq_of_lt data.isLt)).trans ((BitVec.ofNat_toNat ..).trans (BitVec.setWidth_eq data))

/-- A granule that holds the bits of a mask as written under a piece's key, with its marks; the other granules are as they were. -/
def Written (s u : State) (p : Piece) (data mask : BitVec 128) (full poison : Bool) : Prop :=
  u.mem.granule p.gran = (s.granuleAs p.key p.gran &&& ~~~mask) ||| (data &&& mask) ∧ u.mem.keyOf p.gran = p.key ∧
  u.mem.isFull p.gran = (s.mem.isFull p.gran || (full && decide (tierOf (16 * p.gran) ≤ 1))) ∧
  u.mem.isPoison p.gran = (poison || (s.mem.isPoison p.gran && mask != BitVec.allOnes 128)) ∧
  ∀ h, h ≠ p.gran → u.mem.granule h = s.mem.granule h ∧ u.mem.isFull h = s.mem.isFull h ∧ u.mem.isPoison h = s.mem.isPoison h ∧ u.mem.keyOf h = s.mem.keyOf h

/-- Memory after its bytes and its key have been written, before its marks. -/
def State.writeBytes (s : State) (p : Piece) (data mask : BitVec 128) : Memory :=
  (s.mem.setGranule p.gran ((s.granuleAs p.key p.gran &&& ~~~mask) ||| (data &&& mask)) (BitVec.allOnes 128)).setKey p.gran p.key

section
variable (s : State) (p : Piece) (data mask : BitVec 128) (full poison : Bool)

theorem writeBytes_marks : (s.writeBytes p data mask).full = s.mem.full ∧ (s.writeBytes p data mask).poison = s.mem.poison :=
  ⟨Memory.write_full .., Memory.write_poison ..⟩

theorem keyOf_writeBytes (h : Nat) : (s.writeBytes p data mask).keyOf h = if h = p.gran then p.key else s.mem.keyOf h := by
  rw [State.writeBytes, Memory.keyOf_setKey]
  exact if_congr Iff.rfl rfl (congrArg (SMap.get · h 0) (Memory.write_keys ..))

theorem granule_writeBytes : (s.writeBytes p data mask).granule p.gran = (s.granuleAs p.key p.gran &&& ~~~mask) ||| (data &&& mask) :=
  Memory.granule_setGranule_whole ..

theorem writeMem_eq : s.writeMem p data mask full poison =
    (let m := if poison then (s.writeBytes p data mask).setPoison p.gran true
      else if mask = BitVec.allOnes 128 then (s.writeBytes p data mask).setPoison p.gran false else s.writeBytes p data mask
     if full && decide (tierOf (16 * p.gran) ≤ 1) then m.setFull p.gran true else m) := rfl

theorem writeMem_bytes : (s.writeMem p data mask full poison).granule p.gran = (s.writeBytes p data mask).granule p.gran ∧
    (s.writeMem p data mask full poison).keys = (s.writeBytes p data mask).keys := by
  rw [writeMem_eq]
  dsimp only
  repeat' split
  all_goals exact ⟨rfl, rfl⟩

theorem isPoison_writeMem (h : Nat) : (s.writeMem p data mask full poison).isPoison h =
    if h = p.gran then poison || (s.mem.isPoison h && mask != BitVec.allOnes 128) else s.mem.isPoison h := by
  have before : (s.writeBytes p data mask).isPoison h = s.mem.isPoison h := by rw [Memory.isPoison, (writeBytes_marks ..).2, Memory.isPoison]
  have marked (m : Memory) : (if full && decide (tierOf (16 * p.gran) ≤ 1) then m.setFull p.gran true else m).isPoison h = m.isPoison h := by split <;> rfl
  rw [writeMem_eq, marked, ← before]
  cases poison with
  | true =>
    rw [if_pos rfl, Memory.isPoison_setPoison, Bool.true_or]
  | false =>
    rw [if_neg Bool.false_ne_true, Bool.false_or]
    by_cases whole : mask = BitVec.allOnes 128
    · rw [if_pos whole, Memory.isPoison_setPoison, bne_eq_false_iff_eq.mpr whole, Bool.and_false]
    · rw [if_neg whole, bne_iff_ne.mpr whole, Bool.and_true, ite_self]

theorem isFull_writeMem (h : Nat) : (s.writeMem p data mask full poison).isFull h =
    if h = p.gran then s.mem.isFull h || (full && decide (tierOf (16 * p.gran) ≤ 1)) else s.mem.isFull h := by
  have before : (s.writeBytes p data mask).isFull h = s.mem.isFull h := by rw [Memory.isFull, (writeBytes_marks ..).1, Memory.isFull]
  have marked : (if poison then (s.writeBytes p data mask).setPoison p.gran true
      else if mask = BitVec.allOnes 128 then (s.writeBytes p data mask).setPoison p.gran false else s.writeBytes p data mask).isFull h = s.mem.isFull h := by
    rw [← before]
    repeat' split
    all_goals rfl
  rw [writeMem_eq]
  dsimp only
  cases fills : full && decide (tierOf (16 * p.gran) ≤ 1) with
  | true => rw [if_pos rfl, Memory.isFull_setFull, marked, Bool.or_true]
  | false => rw [if_neg Bool.false_ne_true, marked, Bool.or_false, ite_self]

theorem written_of_mem {u : State} (mem : u.mem = s.writeMem p data mask full poison) : Written s u p data mask full poison := by
  obtain ⟨granule, keys⟩ := writeMem_bytes s p data mask full poison
  have keyOf (h : Nat) : u.mem.keyOf h = if h = p.gran then p.key else s.mem.keyOf h := by
    rw [mem, Memory.keyOf, keys]
    exact keyOf_writeBytes ..
  refine ⟨?_, ?_, ?_, ?_, fun h other => ⟨?_, ?_, ?_, ?_⟩⟩
  · rw [mem, granule, granule_writeBytes]
  · rw [keyOf, if_pos rfl]
  · rw [mem, isFull_writeMem, if_pos rfl]
  · rw [mem, isPoison_writeMem, if_pos rfl]
  · rw [mem, granule_writeMem_other _ _ _ _ _ _ other]
  · rw [mem, isFull_writeMem, if_neg other]
  · rw [mem, isPoison_writeMem, if_neg other]
  · rw [keyOf, if_neg other]

end

end Sys2Proof.Machine
end

section
/-! SUPPORT. An access of which a granule has been performed: what is left of it, its end, and the halt of a load that has read poison (R231, R265, R277, R278) (O27). -/

namespace Sys2Proof.Machine

open Sys2Proof

/-! ### The instant at which a granule is performed -/

/-- Nothing but memory, the marks of the dependency tables, the counters of the lookups and the free values differ. -/
def Instant (s : State) (mem : Memory) (u : State) : Prop :=
  ∃ seqs hits misses free, u = { s with mem := mem, seqs := seqs, mscHits := hits, mscMisses := misses, free := free }

theorem Instant.trans {s u v : State} {m k : Memory} (h : Instant s m u) (h' : Instant u k v) : Instant s k v := by
  obtain ⟨_, _, _, _, rfl⟩ := h
  obtain ⟨seqs, hits, misses, free, rfl⟩ := h'
  exact ⟨seqs, hits, misses, free, rfl⟩

theorem instant_performed (s : State) (g : Nat) : Instant s s.mem (s.performed g) := by
  obtain ⟨hits, misses, eq⟩ := lookUp_warmed [g] s
  rw [State.performed, eq]
  exact ⟨_, hits, misses, _, rfl⟩

theorem noteAllReady_seqs (s : State) : s.noteAllReady = { s with seqs := s.noteAllReady.seqs } := by
  have rest : { s.noteAllReady with seqs := s.seqs } = s :=
    List.foldlRecOn _ _ (motive := fun u : State => { u with seqs := s.seqs } = s) rfl fun _ h _ _ => h
  exact congrArg (fun x : State => { x with seqs := s.noteAllReady.seqs }) rest

/-- A piece of memory with the rules of memory (R225-R231). -/
def Piece.InMemory (p : Piece) : Prop := tierOf (16 * p.gran) ≠ 8 ∧ ingressGranule p.gran = false

section
variable {s : State} {a : Access} {p : Piece} (memory : p.InMemory)
include memory

theorem instant_writeGranule (data mask : BitVec 128) (full poison : Bool) :
    Instant s (s.writeMem p data mask full poison) (s.writeGranule a p data mask full poison) := by
  rw [State.writeGranule, if_neg memory.1, if_neg (Bool.eq_false_iff.mp memory.2)]
  split
  · exact ⟨_, _, _, _, noteAllReady_seqs _⟩
  · exact ⟨_, _, _, _, rfl⟩

theorem instant_stored (data mask : BitVec 128) (full poison : Bool) :
    Instant s (s.writeMem p data mask full poison) ((s.writeGranule a p data mask full poison).performed p.gran) := by
  have stored := instant_writeGranule (s := s) (a := a) memory data mask full poison
  have mem : (s.writeGranule a p data mask full poison).mem = s.writeMem p data mask full poison := by
    obtain ⟨_, _, _, _, eq⟩ := stored
    rw [eq]
  exact stored.trans (mem ▸ instant_performed ..)

theorem readGranule_clean (clean : s.mem.isPoison p.gran = false) : s.readGranule a p = s.granuleAs p.key p.gran := by
  rw [State.readGranule]
  simp only [if_neg memory.1, memory.2, clean, Bool.or_self, Bool.false_eq_true, if_false]

theorem poisoned_eq : s.poisoned p.gran = s.mem.isPoison p.gran := by
  rw [State.poisoned, bne_iff_ne.mpr memory.1, Bool.true_and]

end

/-! ### What is left of an access -/

section
variable {s u : State} {a a' : Access} {p : Piece} {id : Nat}

/-- A load keeps what it has read until its data return (R262). -/
theorem settleAccess_of_load (origin : a.origin ≠ .rowXfer) (number : a.number = 0) : s.settleAccess a = s := by
  rw [State.settleAccess, if_neg origin, if_pos number, ite_self]

theorem settleAccess_of_remaining (left : a.remaining = true) : s.settleAccess a = s := by
  rw [State.settleAccess, if_pos left]

/-- A store of which nothing is left is in flight no longer (R237). -/
theorem settleAccess_of_store (pieces : a.pieces = []) (backs : a.backs = []) (returns : a.returns = []) (origin : a.origin ≠ .rowXfer) (number : a.number ≠ 0)
    (quiet : (s.outstanding.find? fun o => o.id = a.id) = none) : s.settleAccess a = { s with accesses := s.accesses.filter fun b => b.id != a.id } := by
  have left : a.remaining = false := by rw [Access.remaining, pieces, backs, returns]; rfl
  rw [State.settleAccess, left, if_neg Bool.false_ne_true, if_neg origin, if_neg number, State.deliverStore]
  simp only [quiet]

theorem filter_putAccess (s : State) (a : Access) : ((s.putAccess a).accesses.filter fun b => b.id != a.id) = s.accesses.filter fun b => b.id != a.id := by
  rw [State.putAccess, List.filter_map]
  have ids : (fun b : Access => b.id != a.id) ∘ (fun b => if b.id = a.id then a else b) = fun b => b.id != a.id := by
    funext b
    by_cases same : b.id = a.id <;> simp [same]
  rw [ids]
  refine (List.map_congr_left fun b other => ?_).trans (List.map_id _)
  rw [if_neg (by simpa using (List.mem_filter.mp other).2), id]

/-- A store of which the last granule has been performed is in flight no longer. -/
theorem store_ends (accesses : u.accesses = s.accesses) (outstanding : u.outstanding = s.outstanding) (ident : a'.id = id) (pieces : a'.pieces = [])
    (backs : a'.backs = []) (returns : a'.returns = []) (origin : a'.origin ≠ .rowXfer) (number : a'.number ≠ 0)
    (quiet : (s.outstanding.find? fun o => o.id = id) = none) :
    ((u.putAccess a').settleAccess a').accesses = s.accesses.filter fun b => b.id != id := by
  subst ident
  rw [settleAccess_of_store pieces backs returns origin number (by rw [State.putAccess, outstanding]; exact quiet)]
  exact (filter_putAccess u a').trans (by rw [accesses])

theorem find_put (found : (s.accesses.find? fun b => b.id = id) = some a) (accesses : u.accesses = s.accesses) (same : a'.id = a.id) :
    ((u.putAccess a').accesses.find? fun b => b.id = id) = some a' := by
  have put := find_putAccess found accesses same id
  rw [found, Option.map_some, if_pos rfl] at put
  simpa only [beq_eq_decide] using put

/-- An access into no slot's destination meets no poison: it goes on (R264). -/
theorem meetPoison_of_none (none : (s.outstanding.find? fun o => o.id = a.id) = none) (lane : Nat) : s.meetPoison a lane = s := by
  unfold State.meetPoison
  split
  · next here => rw [none] at here; cases here
  · rfl

theorem performAll_single (perform : s.performPiece a p = (u, a')) : s.performAll a [p] =
    if s.poisoned p.gran = true then ((u.putAccess a').settleAccess a').meetPoison a' p.lowLane else (u.putAccess a').settleAccess a' := by
  rw [State.performAll]
  simp only [List.foldl_cons, List.foldl_nil, perform, List.find?_cons, List.find?_nil]
  cases s.poisoned p.gran with
  | true => rfl
  | false => rfl

theorem performAll_mem (s : State) (a : Access) (ps : List Piece) :
    (s.performAll a ps).mem = (ps.foldl (fun acc p => acc.1.performPiece acc.2 p) (s, a)).1.mem := by
  rw [State.performAll]
  split
  · rw [State.meetPoison_mem, State.settleAccess_mem, State.putAccess_mem]
  · rw [State.settleAccess_mem, State.putAccess_mem]

end

/-! ### One granule of each kind performed -/

section
variable {s : State} {a : Access} {p : Piece}

/-- A load with the lanes of a granule read. -/
def Access.read (a : Access) (p : Piece) (x : BitVec 128) (bad : Bool) (lanes : List LaneAt) : Access :=
  { a with pieces := a.pieces.erase p, results := a.results ++ laneValues x lanes, poisonAt := a.poisonAt.or (if bad then some p.va else none) }

/-- An atomic with a granule's lanes combined. -/
def Access.combined (a : Access) (p : Piece) (x : BitVec 128) (bad : Bool) (lanes : List AtomicLane) : Access :=
  { a with
    pieces := a.pieces.erase p, backs := a.backs.filter fun k => k.target != p.gran,
    returns := a.returns ++ returnPieces x bad lanes (a.backs.filter fun k => k.target == p.gran) }

/-- The bits that the lanes of an atomic take in their granule. -/
def laneMask (lanes : List AtomicLane) : BitVec 128 := lanes.foldl (fun acc l => acc ||| BitVec.ofNat 128 ((2 ^ l.at'.width - 1) * 2 ^ l.at'.off)) 0

theorem performPiece_load {lanes : List LaneAt} (op : p.op = .load lanes) :
    s.performPiece a p = (s.performed p.gran, a.read p (s.readGranule a p) (s.poisoned p.gran) lanes) := by
  rw [State.performPiece]
  simp only [op]
  rfl

theorem performPiece_loadFull {clear : Bool} {lanes : List LaneAt} (op : p.op = .loadFull clear lanes) :
    s.performPiece a p = (if clear then { s.performed p.gran with mem := (s.performed p.gran).mem.setFull p.gran false } else s.performed p.gran,
      a.read p (s.readGranule a p) (s.poisoned p.gran) lanes) := by
  rw [State.performPiece]
  simp only [op]
  rfl

theorem performPiece_store {data mask : BitVec 128} {full poison : Bool} (op : p.op = .store data mask full poison) :
    s.performPiece a p = ((s.writeGranule a p data mask full poison).performed p.gran, { a with pieces := a.pieces.erase p }) := by
  rw [State.performPiece]
  simp only [op]

theorem performPiece_atomic {op : AtomicOp} {ty : Ty} {lanes : List AtomicLane} (kind : p.op = .atomic op ty lanes) (clean : s.poisoned p.gran = false) :
    s.performPiece a p = ((s.writeGranule a p (combineLanes op ty (s.readGranule a p) lanes) (laneMask lanes) false false).performed p.gran,
      a.combined p (s.readGranule a p) false lanes) := by
  rw [State.performPiece]
  simp only [kind, clean]
  rfl

/-- An atomic that meets poison leaves memory as it is (R482). -/
theorem performPiece_atomic_mem {op : AtomicOp} {ty : Ty} {lanes : List AtomicLane} (kind : p.op = .atomic op ty lanes) (bad : s.poisoned p.gran = true) :
    (s.performPiece a p).1.mem = s.mem := by
  rw [State.performPiece]
  simp only [kind, bad, if_true]
  split
  · exact (performed_keeps s p.gran).2.2
  · exact (performed_keeps s p.gran).2.2

end

/-! ### A granule that no other move shares -/

section
variable {s : State} {a : Access} {p : Piece} {id g : Nat} (found : (s.accesses.find? fun b => b.id = id) = some a) (slow : a.atOnce = false)
  (piece : (a.pieces.find? fun q => q.gran = g) = some p)
include found slow piece

theorem exec_accessPerform_waits (waits : s.mayPerform a p = false) : exec (.accessPerform id g) s = .next s := by
  show execAccessPerform id g s = _
  rw [execAccessPerform]
  simp only [found, slow, Bool.false_eq_true, if_false, piece, waits]

theorem exec_accessPerform_one (memory : p.InMemory) (free : s.mayPerform a p = true) :
    exec (.accessPerform id g) s = .next (s.performAll a [p]).answerRefills := by
  have mates : a.mates p = [p] := by rw [Access.mates, if_neg fun h => memory.1 h.1]
  show execAccessPerform id g s = _
  rw [execAccessPerform]
  simp only [found, slow, Bool.false_eq_true, if_false, piece, free, if_true, mates]

end

end Sys2Proof.Machine
end

section
/-! SUPPORT. A load that has read poison halts its context (R265), and the granules of an LDFE are performed at one instant (R231, R275) (O27). -/

namespace Sys2Proof.Machine

open Sys2Proof

/-! ### A load that has read poison (R265) -/

section
variable (s : State) (o : Outstanding)

/-- A place given back is of an output endpoint. -/
theorem releasePlace_keeps : Kept o.tile o.ctx s (s.releasePlace o).2 ∧ ∃ outs, (s.releasePlace o).2.ctx o.tile o.ctx = { s.ctx o.tile o.ctx with outs := outs } := by
  unfold State.releasePlace
  split
  · obtain ⟨kept, _, here⟩ := setOuts_keeps s o.tile o.ctx o.slot _ _
    exact ⟨kept, _, here⟩
  · exact ⟨.refl .., _, rfl⟩

theorem releasePlace_d (t c : Nat) : ((s.releasePlace o).2.ctx t c).d = (s.ctx t c).d := by
  obtain ⟨kept, outs, here⟩ := releasePlace_keeps s o
  by_cases tile : t = o.tile
  · subst tile
    by_cases own : c % 8 = o.ctx % 8
    · have same (u : State) : u.ctx o.tile c = u.ctx o.tile o.ctx := by simp only [State.ctx, Tile.ctx, at8, own]
      rw [same, same, here]
    · rw [kept.siblings c own]
  · rw [State.ctx, kept.tiles t tile, State.ctx]

theorem cancelLoad_d (t c : Nat) : ((s.cancelLoad o).2.ctx t c).d = (s.ctx t c).d := releasePlace_d s o t c

theorem cancelLoad_records : (s.cancelLoad o).2.records = s.records := by
  have kept := congrArg State.records (releasePlace_keeps s o).1.rest
  exact kept

theorem cancelLoad_outstanding : ∀ x ∈ (s.cancelLoad o).2.outstanding, x.id ≠ o.id := fun _ h => by simpa using (List.mem_filter.mp h).2

end

/-- A load of a slot that has read poison halts its context, with the record of R265. -/
theorem meetPoison_halts {s : State} {a : Access} {o : Outstanding} {id va : Nat} (ident : a.id = id) (poison : a.poisonAt = some va) (origin : a.origin = .slot)
    (number : a.number = 0) (waits : (s.outstanding.find? fun o => o.id = id) = some o) (loud : o.quiet = false) (lane : Nat) :
    ∃ r, ((s.meetPoison a lane).ctx a.tile a.ctx).run = .halted ∧
      (∀ k, at8 ((s.meetPoison a lane).ctx a.tile a.ctx).d k = at8 (s.ctx a.tile a.ctx).d k) ∧ (s.meetPoison a lane).records = s.records ++ [r] ∧
      r.source = a.tile ∧ r.ctx = a.ctx ∧ r.slot = a.slot ∧ r.cls = 6 ∧ r.cause = 1 ∧ r.address = va ∧ r.operands = some (a.a, a.b) ∧
      ∀ x ∈ (s.meetPoison a lane).outstanding, x.id ≠ id := by
  subst ident
  have ido : o.id = a.id := by simpa using List.find?_some waits
  let fi : FaultInfo := { cls := 6, cause := 1, address := va, witness := a.given, lane := lane, operands := some (a.a, a.b), performed := true, reissue := (s.cancelLoad o).1 }
  have halts : s.meetPoison a lane = (s.cancelLoad o).2.haltCtx a.tile a.ctx a.slot fi := by
    rw [State.meetPoison]
    simp only [poison, waits]
    rw [if_neg (by simp [origin, number, loud])]
  rw [halts]
  refine ⟨(s.cancelLoad o).2.contextRecord a.tile a.ctx a.slot true fi, ?_, fun k => ?_, ?_, rfl, rfl, rfl, rfl, rfl, rfl, rfl, ?_⟩
  · rw [ctx_haltCtx_same]
  · rw [ctx_haltCtx_same]
    exact congrArg (at8 · k) (cancelLoad_d s o a.tile a.ctx)
  · rw [records_haltCtx, cancelLoad_records]
  · rw [State.haltCtx_outstanding, ← ido]
    exact cancelLoad_outstanding s o

/-! ### An LDFE (R231, R275) -/

/-- A granule that an LDFE loads. -/
def Piece.loadsFull (p : Piece) (clear : Bool) : Prop := ∃ lanes, p.op = .loadFull clear lanes

/-- The lanes of a granule that an LDFE loads, with what it holds. -/
def State.fullValues (s : State) (p : Piece) : List (Nat × Nat) :=
  match p.op with
  | .loadFull _ lanes => laneValues (s.granuleAs p.key p.gran) lanes
  | _ => []

/-- Memory in which an LDFE has cleared the marks of a granule. -/
def Memory.unfill (clear : Bool) (m : Memory) (p : Piece) : Memory := if clear then m.setFull p.gran false else m

section
variable {clear : Bool}

/-- Clearing marks leaves bytes, keys and poison. -/
theorem unfill_keeps (m : Memory) (p : Piece) : m.unfill clear p = { m with full := (m.unfill clear p).full } := by
  unfold Memory.unfill
  split <;> rfl

theorem unfillAll_keeps (m : Memory) (ps : List Piece) : ps.foldl (Memory.unfill clear) m = { m with full := (ps.foldl (Memory.unfill clear) m).full } := by
  have rest : { ps.foldl (Memory.unfill clear) m with full := m.full } = m :=
    List.foldlRecOn _ _ (motive := fun k : Memory => { k with full := m.full } = m) rfl fun k h p _ => by rw [unfill_keeps]; exact h
  exact congrArg (fun k : Memory => { k with full := (ps.foldl (Memory.unfill clear) m).full }) rest

theorem isFull_unfillAll (m : Memory) (ps : List Piece) (h : Nat) :
    (ps.foldl (Memory.unfill clear) m).isFull h = (m.isFull h && !(clear && ps.any fun p => p.gran == h)) := by
  induction ps generalizing m with
  | nil => simp
  | cons p rest ih =>
    rw [List.foldl_cons, ih, Memory.unfill]
    cases clear with
    | false => simp
    | true =>
      rw [if_pos rfl, Memory.isFull_setFull, List.any_cons]
      by_cases own : p.gran = h
      · simp [own]
      · rw [if_neg (Ne.symm own), beq_eq_false_iff_ne.mpr own, Bool.false_or]

/-- A granule of an LDFE performed: the instant, and the access. -/
theorem performPiece_full {s : State} {a : Access} {p : Piece} (loads : p.loadsFull clear) :
    Instant s (s.mem.unfill clear p) (s.performPiece a p).1 := by
  obtain ⟨lanes, op⟩ := loads
  rw [performPiece_loadFull op, Memory.unfill]
  cases clear with
  | false => exact instant_performed ..
  | true =>
    obtain ⟨seqs, hits, misses, free, eq⟩ := instant_performed s p.gran
    exact ⟨seqs, hits, misses, free, by rw [if_pos rfl, eq]; rfl⟩

theorem performPiece_full_mem {s : State} {a : Access} {p : Piece} (loads : p.loadsFull clear) : (s.performPiece a p).1.mem = s.mem.unfill clear p := by
  obtain ⟨_, _, _, _, eq⟩ := performPiece_full (s := s) (a := a) loads
  rw [eq]

theorem performPieces_full {s : State} {a : Access} {ps : List Piece} (loads : ∀ p ∈ ps, p.loadsFull clear) :
    Instant s (ps.foldl (Memory.unfill clear) s.mem) (ps.foldl (fun acc p => acc.1.performPiece acc.2 p) (s, a)).1 := by
  induction ps generalizing s a with
  | nil => exact ⟨_, _, _, _, rfl⟩
  | cons p rest ih =>
    have first := loads p (.head _)
    refine (performPiece_full (a := a) first).trans ?_
    rw [List.foldl_cons, List.foldl_cons, ← performPiece_full_mem (a := a) first]
    exact ih fun q h => loads q (.tail _ h)

theorem fullValues_unfill {s u : State} {p : Piece} (mem : u.mem = s.mem.unfill clear p) : u.fullValues = s.fullValues := by
  funext q
  rw [unfill_keeps] at mem
  rw [State.fullValues, State.granuleAs, mem]
  rfl

theorem performPiece_fullValues {s : State} {a : Access} {p : Piece} (memory : p.InMemory) (loads : p.loadsFull clear) (clean : s.mem.isPoison p.gran = false) :
    (s.performPiece a p).2 = { a with pieces := a.pieces.erase p, results := a.results ++ s.fullValues p } := by
  obtain ⟨lanes, op⟩ := loads
  rw [performPiece_loadFull op, readGranule_clean memory clean, poisoned_eq memory, clean, State.fullValues]
  simp only [op, Access.read, Bool.false_eq_true, if_false, Option.or_none]

/-- What an LDFE has read once its granules have been performed. -/
theorem performPieces_fullValues {s : State} {a : Access} {ps : List Piece} (memory : ∀ p ∈ ps, p.InMemory) (loads : ∀ p ∈ ps, p.loadsFull clear)
    (clean : ∀ p ∈ ps, s.mem.isPoison p.gran = false) : (ps.foldl (fun acc p => acc.1.performPiece acc.2 p) (s, a)).2 =
      { a with pieces := ps.foldl List.erase a.pieces, results := a.results ++ ps.flatMap s.fullValues } := by
  induction ps generalizing s a with
  | nil => simp
  | cons p rest ih =>
    have mem : (s.performPiece a p).1.mem = s.mem.unfill clear p := performPiece_full_mem (loads p (.head _))
    have clean' (q : Piece) (h : q ∈ rest) : (s.performPiece a p).1.mem.isPoison q.gran = false := by
      rw [mem, unfill_keeps]
      exact clean q (.tail _ h)
    refine (ih (s := (s.performPiece a p).1) (a := (s.performPiece a p).2) (fun q h => memory q (.tail _ h)) (fun q h => loads q (.tail _ h)) clean').trans ?_
    rw [performPiece_fullValues (memory p (.head _)) (loads p (.head _)) (clean p (.head _)), fullValues_unfill mem, List.foldl_cons, List.flatMap_cons,
      List.append_assoc]

theorem foldl_erase_self (ps : List Piece) : ps.foldl List.erase ps = [] := by
  induction ps with
  | nil => rfl
  | cons p rest ih => rw [List.foldl_cons, List.erase_cons_head, ih]

end

end Sys2Proof.Machine
end

section
/-! SUPPORT. What the performing of a granule of memory does, by the kind of the access (R226, R230, R231, R262, R265, R272, R277, R278) (O27). -/

namespace Sys2Proof.Machine

open Sys2Proof

/-! ### One granule -/

section
variable {s : State} {a : Access} {p : Piece} {id : Nat}

/-- A load changes nothing in memory. -/
theorem load_mem {lanes : List LaneAt} (op : p.op = .load lanes) : (s.performAll a [p]).mem = s.mem := by
  rw [performAll_mem, List.foldl_cons, List.foldl_nil, performPiece_load op]
  exact (performed_keeps s p.gran).2.2

section
variable (found : (s.accesses.find? fun b => b.id = id) = some a) (memory : p.InMemory)
include found memory

/-- A load keeps the lanes of the granule. -/
theorem load_reads {lanes : List LaneAt} (op : p.op = .load lanes) (clean : s.mem.isPoison p.gran = false) (origin : a.origin ≠ .rowXfer) (number : a.number = 0) :
    ((s.performAll a [p]).accesses.find? fun b => b.id = id) =
      some { a with pieces := a.pieces.erase p, results := a.results ++ laneValues (s.granuleAs p.key p.gran) lanes } := by
  rw [performAll_single (performPiece_load op), poisoned_eq memory, clean, if_neg Bool.false_ne_true,
    settleAccess_of_load (a := a.read p _ _ _) origin number, find_put (a' := a.read p _ _ _) found (performed_keeps s p.gran).2.1 rfl, readGranule_clean memory clean]
  simp only [Access.read, Bool.false_eq_true, if_false, Option.or_none]

/-- A load that reads poison halts its context with its record (R265). -/
theorem load_halts {lanes : List LaneAt} {o : Outstanding} (op : p.op = .load lanes) (bad : s.mem.isPoison p.gran = true) (first : a.poisonAt = none)
    (origin : a.origin = .slot) (number : a.number = 0) (waits : (s.outstanding.find? fun o => o.id = id) = some o) (loud : o.quiet = false) :
    ∃ r, ((s.performAll a [p]).ctx a.tile a.ctx).run = .halted ∧ (∀ k, at8 ((s.performAll a [p]).ctx a.tile a.ctx).d k = at8 (s.ctx a.tile a.ctx).d k) ∧
      (s.performAll a [p]).records = s.records ++ [r] ∧ r.source = a.tile ∧ r.ctx = a.ctx ∧ r.slot = a.slot ∧ r.cls = 6 ∧ r.cause = 1 ∧ r.address = p.va ∧
      r.operands = some (a.a, a.b) ∧ ∀ x ∈ (s.performAll a [p]).outstanding, x.id ≠ id := by
  have slot : a.origin ≠ .rowXfer := by rw [origin]; exact Origin.noConfusion
  let a' := a.read p (s.readGranule a p) true lanes
  have poison : a'.poisonAt = some p.va := by simp only [a', Access.read, first, if_true, Option.none_or]
  rw [performAll_single (performPiece_load op), poisoned_eq memory, bad, if_pos rfl, settleAccess_of_load (a := a') slot number]
  obtain ⟨seqs, hits, misses, free, instant⟩ := instant_performed s p.gran
  rw [instant]
  let u : State := { s with seqs := seqs, mscHits := hits, mscMisses := misses, free := free }
  have ident : a.id = id := id_of_found found
  exact meetPoison_halts (s := u.putAccess a') (a := a') ident poison origin number waits loud p.lowLane

end

section
variable {data mask : BitVec 128} {full poison : Bool} (memory : p.InMemory)
include memory

/-- A store writes its granule. -/
theorem store_writes (op : p.op = .store data mask full poison) : Written s (s.performAll a [p]) p data mask full poison := by
  obtain ⟨_, _, _, _, instant⟩ := instant_stored (s := s) (a := a) memory data mask full poison
  refine written_of_mem s p data mask full poison ?_
  rw [performAll_mem, List.foldl_cons, List.foldl_nil, performPiece_store op, instant]

/-- A store of which nothing is left is in flight no longer. -/
theorem store_finishes (found : (s.accesses.find? fun b => b.id = id) = some a) (op : p.op = .store data mask full poison) (pieces : a.pieces = [p])
    (backs : a.backs = []) (returns : a.returns = []) (number : a.number ≠ 0) (origin : a.origin ≠ .rowXfer)
    (quiet : (s.outstanding.find? fun o => o.id = id) = none) : (s.performAll a [p]).accesses = s.accesses.filter fun b => b.id != id := by
  let a' : Access := { a with pieces := a.pieces.erase p }
  have done : a'.pieces = [] := by simp [a', pieces]
  have ident : a.id = id := id_of_found found
  obtain ⟨_, _, _, _, instant⟩ := instant_stored (s := s) (a := a) memory data mask full poison
  rw [performAll_single (performPiece_store op), instant]
  have unmet (v : State) (outstanding : v.outstanding = s.outstanding) : v.meetPoison a' p.lowLane = v :=
    meetPoison_of_none (by rw [outstanding, show a'.id = id from ident]; exact quiet) _
  split
  · rw [unmet _ ?_]
    · exact store_ends rfl rfl ident done backs returns origin number quiet
    · rw [settleAccess_of_store (a := a') done backs returns origin number (by rw [show a'.id = id from ident]; exact quiet)]
      rfl
  · exact store_ends rfl rfl ident done backs returns origin number quiet

end

section
variable {op : AtomicOp} {ty : Ty} {lanes : List AtomicLane} (memory : p.InMemory) (kind : p.op = .atomic op ty lanes)
include memory kind

/-- An atomic combines its lanes with what the granule holds (R277). -/
theorem atomic_writes (clean : s.mem.isPoison p.gran = false) :
    Written s (s.performAll a [p]) p (combineLanes op ty (s.granuleAs p.key p.gran) lanes) (laneMask lanes) false false := by
  obtain ⟨_, _, _, _, instant⟩ :=
    instant_stored (s := s) (a := a) memory (combineLanes op ty (s.granuleAs p.key p.gran) lanes) (laneMask lanes) false false
  refine written_of_mem s p _ _ false false ?_
  rw [performAll_mem, List.foldl_cons, List.foldl_nil, performPiece_atomic kind ((poisoned_eq memory).trans clean), readGranule_clean memory clean, instant]

theorem atomic_mem (bad : s.mem.isPoison p.gran = true) : (s.performAll a [p]).mem = s.mem := by
  rw [performAll_mem]
  exact performPiece_atomic_mem kind ((poisoned_eq memory).trans bad)

end

/-- The write that brings the old value of one lane to its place in the return array (R278). -/
def Back.write (k : Back) (x : BitVec 128) (l : AtomicLane) : Piece :=
  { gran := k.gran, va := k.va, key := k.key, mt := k.mt,
    op := .store (BitVec.ofNat 128 (bits x.toNat l.at'.off l.at'.width * 2 ^ k.off) &&& BitVec.ofNat 128 ((2 ^ k.width - 1) * 2 ^ k.off))
      (BitVec.ofNat 128 ((2 ^ k.width - 1) * 2 ^ k.off)) true false }

theorem returnPieces_single (x : BitVec 128) {l : AtomicLane} {k : Back} (lane : l.at'.lane = k.lane) : returnPieces x false [l] [k] = [k.write x l] := by
  simp [returnPieces, Back.write, lane, List.eraseDups_cons]

theorem bits_backWrite (x : BitVec 128) {l : AtomicLane} {k : Back} (inside : k.off + k.width ≤ 128) (width : l.at'.width = k.width) :
    bits (BitVec.ofNat 128 (bits x.toNat l.at'.off l.at'.width * 2 ^ k.off) &&& BitVec.ofNat 128 ((2 ^ k.width - 1) * 2 ^ k.off)).toNat k.off k.width =
      bits x.toNat l.at'.off l.at'.width := by
  have small : bits x.toNat l.at'.off l.at'.width < 2 ^ k.width := by rw [← width]; exact bits_lt ..
  rw [← Nat.mod_eq_of_lt small]
  refine bits_field fun i hi => ?_
  rw [BitVec.getLsbD_and, getLsbD_fieldMask hi inside, Bool.and_true, getLsbD_fieldValue _ hi inside, Nat.mod_eq_of_lt small]

/-- An atomic leaves the old value of its lane as a return write that fills (R278). -/
theorem atomic_returns {op : AtomicOp} {ty : Ty} {l : AtomicLane} {k : Back} (memory : p.InMemory) (kind : p.op = .atomic op ty [l])
    (found : (s.accesses.find? fun b => b.id = id) = some a) (backs : a.backs = [k]) (target : k.target = p.gran) (lane : l.at'.lane = k.lane)
    (inside : k.off + k.width ≤ 128) (width : l.at'.width = k.width) (returns : a.returns = []) (clean : s.mem.isPoison p.gran = false) :
    ∃ b r data, ((s.performAll a [p]).accesses.find? fun b => b.id = id) = some b ∧ b.pieces = a.pieces.erase p ∧ b.backs = [] ∧ b.returns = [r] ∧
      r.gran = k.gran ∧ r.key = k.key ∧ r.op = .store data (BitVec.ofNat 128 ((2 ^ k.width - 1) * 2 ^ k.off)) true false ∧
      bits data.toNat k.off k.width = bits (s.granuleAs p.key p.gran).toNat l.at'.off l.at'.width := by
  let a' := a.combined p (s.granuleAs p.key p.gran) false [l]
  have due : a'.returns = [k.write (s.granuleAs p.key p.gran) l] := by
    simp only [a', Access.combined, backs, returns, List.filter_cons, target, beq_self_eq_true, if_true, List.filter_nil, List.nil_append,
      returnPieces_single _ lane]
  have left : a'.remaining = true := by
    rw [Access.remaining, due]
    exact Bool.or_true _
  have accesses : (s.performPiece a p).1.accesses = s.accesses := by
    rw [performPiece_atomic kind ((poisoned_eq memory).trans clean)]
    exact (performed_keeps _ _).2.1.trans (writeGranule_keeps a _ _ _ _ memory.1).2.1
  have perform : s.performPiece a p = ((s.performPiece a p).1, a') := by
    rw [performPiece_atomic kind ((poisoned_eq memory).trans clean), readGranule_clean memory clean]
  rw [performAll_single perform, poisoned_eq memory, clean, if_neg Bool.false_ne_true, settleAccess_of_remaining left]
  exact ⟨a', _, _, find_put found accesses rfl, rfl, by simp [a', Access.combined, backs, target], due, rfl, rfl, rfl, bits_backWrite _ inside width⟩

end

/-! ### An LDFE -/

section
variable {s : State} {a : Access} {id g : Nat} {clear : Bool} (found : (s.accesses.find? fun b => b.id = id) = some a)
  (origin : a.origin = .slot) (owed : a.pieces ≠ []) (loads : ∀ p ∈ a.pieces, p.loadsFull clear)
include found origin owed loads

theorem exec_accessPerform_full : exec (.accessPerform id g) s =
    if a.pieces.all (fun p => s.mayPerform a p) then .next (s.performAll a a.pieces).answerRefills else .next s := by
  have once : a.atOnce = true := by
    obtain ⟨p, own⟩ := List.exists_mem_of_ne_nil _ owed
    obtain ⟨lanes, op⟩ := loads p own
    rw [Access.atOnce, origin, beq_self_eq_true, Bool.true_and, List.any_eq_true]
    exact ⟨p, own, by rw [op]⟩
  show execAccessPerform id g s = _
  rw [execAccessPerform]
  simp only [found, once, if_true]

theorem exec_accessPerform_full_waits (waits : ∃ p ∈ a.pieces, s.mayPerform a p = false) : exec (.accessPerform id g) s = .next s := by
  obtain ⟨p, own, waits⟩ := waits
  rw [exec_accessPerform_full found origin owed loads, if_neg]
  intro all
  rw [List.all_eq_true.mp all p own] at waits
  cases waits

omit found owed origin in
theorem full_mem : (s.performAll a a.pieces).mem = a.pieces.foldl (Memory.unfill clear) s.mem := by
  obtain ⟨_, _, _, _, instant⟩ := performPieces_full (s := s) (a := a) loads
  rw [performAll_mem, instant]

omit owed in
theorem full_reads (memory : ∀ p ∈ a.pieces, p.InMemory) (clean : ∀ p ∈ a.pieces, s.mem.isPoison p.gran = false) (number : a.number = 0) :
    ((s.performAll a a.pieces).accesses.find? fun b => b.id = id) = some { a with pieces := [], results := a.results ++ a.pieces.flatMap s.fullValues } := by
  have slot : a.origin ≠ .rowXfer := by rw [origin]; exact Origin.noConfusion
  have unspoiled : (a.pieces.find? fun p => s.poisoned p.gran) = none :=
    List.find?_eq_none.mpr fun p own => by rw [poisoned_eq (memory p own), clean p own]; exact Bool.false_ne_true
  obtain ⟨_, _, _, _, instant⟩ := performPieces_full (s := s) (a := a) loads
  have values := performPieces_fullValues (a := a) memory loads clean
  rw [foldl_erase_self] at values
  rw [State.performAll]
  simp only [unspoiled]
  rw [values, settleAccess_of_load (a := { a with pieces := [], results := a.results ++ a.pieces.flatMap s.fullValues }) slot number]
  exact find_put found (by rw [instant]) rfl

end

end Sys2Proof.Machine
end

section
/-! SUPPORT. Return writes, data that return, stores that a down link cuts off, and the statement on accesses in flight (R262, R265, R278, R480) (O27). -/

namespace Sys2Proof.Machine

open Sys2Proof

/-! ### The other moves of an access -/

section
variable {s : State} {a : Access} {p : Piece} {id g : Nat} {data mask : BitVec 128} {full poison : Bool}
  (found : (s.accesses.find? fun b => b.id = id) = some a)
include found

section
variable (back : (a.returns.find? fun q => q.gran = g) = some p) (op : p.op = .store data mask full poison)
include back

theorem exec_atomicReturnWrite_waits (waits : s.mayPerform a p = false) : exec (.atomicReturnWrite id g) s = .next s := by
  show execAtomicReturnWrite id g s = _
  rw [execAtomicReturnWrite]
  simp only [found, back, waits, Bool.not_false, if_true]

include op

theorem exec_atomicReturnWrite (free : s.mayPerform a p = true) : exec (.atomicReturnWrite id g) s =
    .next ((((s.writeGranule a p data mask full poison).performed p.gran).putAccess { a with returns := a.returns.erase p }).settleAccess
      { a with returns := a.returns.erase p }) := by
  show execAtomicReturnWrite id g s = _
  rw [execAtomicReturnWrite]
  simp only [found, back, free, op, Bool.not_true, Bool.false_eq_true, if_false]

end

section
variable (piece : (a.pieces.find? fun q => q.gran = g) = some p) (op : p.op = .store data mask full poison)
include piece op

theorem exec_poisonNotice_cutOff (cut : s.cutOff a p = true) (free : s.mayPerform a p = true) : exec (.poisonNotice id g) s =
    .next ((((s.writeGranule a p data mask full true).performed p.gran).putAccess { a with pieces := a.pieces.erase p }).settleAccess
      { a with pieces := a.pieces.erase p }) := by
  show execPoisonNotice id g s = _
  rw [execPoisonNotice]
  simp only [found, piece, op, cut, free, Bool.not_true, Bool.or_self, Bool.false_eq_true, if_false]

theorem exec_poisonNotice_other (whole : s.cutOff a p = false) : exec (.poisonNotice id g) s = .next s := by
  show execPoisonNotice id g s = _
  rw [execPoisonNotice]
  simp only [found, piece, op, whole, Bool.not_false, Bool.true_or, if_true]

end

theorem exec_loadDataReturn {o : Outstanding} (waits : (s.outstanding.find? fun o => o.id = id) = some o) (number : a.number = 0) (origin : a.origin = .slot)
    (done : a.pieces = []) : exec (.loadDataReturn id) s =
      let s1 : State := { s with accesses := s.accesses.filter fun b => b.id != id }
      if a.poisonAt.isSome then .next { s1 with outstanding := s1.outstanding.filter fun x => x.id != id }
      else .next (s1.deliver o ((List.range o.n).map a.laneValue)) := by
  show execLoadDataReturn id s = _
  rw [execLoadDataReturn]
  simp only [found, waits]
  rw [if_neg (by simp [number, origin, done])]

/-- Nothing returns to a load that has granules still to be performed. -/
theorem exec_loadDataReturn_early (owed : a.pieces ≠ []) : exec (.loadDataReturn id) s = .next s := by
  show execLoadDataReturn id s = _
  rw [execLoadDataReturn]
  cases waits : s.outstanding.find? fun o => o.id = id with
  | none => simp only [found]
  | some o =>
    simp only [found]
    rw [if_pos (.inr (.inr (by simpa using owed)))]

end

/-- A granule written, and what follows, leave the granule as written. -/
theorem written_after {s : State} {a a' : Access} {p : Piece} {data mask : BitVec 128} {full poison : Bool} (memory : p.InMemory) :
    Written s ((((s.writeGranule a p data mask full poison).performed p.gran).putAccess a').settleAccess a') p data mask full poison := by
  obtain ⟨_, _, _, _, instant⟩ := instant_stored (s := s) (a := a) memory data mask full poison
  refine written_of_mem s p data mask full poison ?_
  rw [State.settleAccess_mem, State.putAccess_mem, instant]

/-! ### The statement -/

/-- An LDFE is performed as a whole (R231, R275). -/
theorem fullPerforms (s : State) (id g : Nat) (a : Access) (clear : Bool) (found : (s.accesses.find? fun a => a.id = id) = some a) (origin : a.origin = .slot)
    (owed : a.pieces ≠ []) (pieces : ∀ p ∈ a.pieces, p.InMemory ∧ p.loadsFull clear) (free : ∀ p ∈ a.pieces, s.mayPerform a p = true) :
    ∃ u, exec (.accessPerform id g) s = .next u ∧ u.mem.cells = s.mem.cells ∧ (∀ h, u.mem.isPoison h = s.mem.isPoison h) ∧
      (∀ h, u.mem.isFull h = (s.mem.isFull h && !(clear && a.pieces.any fun p => p.gran == h))) ∧
      ((∀ p ∈ a.pieces, s.mem.isPoison p.gran = false) → a.number = 0 →
        ∃ b, (u.accesses.find? fun b => b.id = id) = some b ∧ b.pieces = [] ∧ b.results = a.results ++ a.pieces.flatMap s.fullValues) := by
  have loads (p : Piece) (own : p ∈ a.pieces) := (pieces p own).2
  have mem : (s.performAll a a.pieces).answerRefills.mem = a.pieces.foldl (Memory.unfill clear) s.mem := full_mem loads
  refine ⟨(s.performAll a a.pieces).answerRefills, ?_, ?_, fun h => ?_, fun h => ?_, fun clean number => ?_⟩
  · rw [exec_accessPerform_full found origin owed loads, if_pos (List.all_eq_true.mpr free)]
  · rw [mem, unfillAll_keeps]
  · rw [mem, unfillAll_keeps]
    rfl
  · rw [mem, isFull_unfillAll]
  · exact ⟨_, full_reads found origin loads (fun p own => (pieces p own).1) clean number, rfl, rfl⟩

/-- Settles O27: each move of an access is one of its granules performed, in the order that `MayPerform` says. -/
theorem accessesPerform : Obligations.AccessesPerform := by
  refine ⟨?granule, ?ldfe, ⟨?earlier, ?fence, ?alone, ?empty⟩, ⟨?table, ?lanes⟩, ?returns, ?data, ?early, ?poison, ?cutOff⟩
  case granule =>
    intro s id g a p found slow piece
    obtain rfl : p.gran = g := by simpa using List.find?_some piece
    refine ⟨exec_accessPerform_waits found slow piece, fun free memory => ⟨_, exec_accessPerform_one found slow piece memory free, ?load, ?store, ?atomic⟩⟩
    case load =>
      exact fun lanes op => ⟨load_mem op, fun _ clean _ origin number => load_reads found memory op clean origin number,
        fun o bad first origin number waits loud => load_halts found memory op bad first origin number waits loud⟩
    case store => exact fun data mask full poison op => ⟨store_writes memory op, store_finishes memory found op⟩
    case atomic =>
      intro op ty lanes kind
      refine ⟨atomic_writes memory kind, atomic_mem memory kind, ?_⟩
      rintro k l backs target rfl lane inside width _ returns _ clean
      exact atomic_returns memory kind found backs target lane inside width returns clean
  case ldfe =>
    intro s id g a clear found origin owed pieces
    have loads (p : Piece) (own : p ∈ a.pieces) : p.loadsFull clear := (pieces p own).2
    refine ⟨exec_accessPerform_full_waits found origin owed loads, ?_, ?_⟩
    · rintro ⟨p, own, empty⟩
      obtain ⟨_, op⟩ := loads p own
      exact exec_accessPerform_full_waits found origin owed loads ⟨p, own, waits_of_empty op empty⟩
    · intro free
      obtain ⟨u, step, cells, poison, full, reads⟩ := fullPerforms s id g a clear found origin owed pieces free
      exact ⟨u, step, cells, poison, full, fun _ clean _ number => reads clean number⟩
  case earlier =>
    intro s a b p q inFlight writer earlier piece
    exact ⟨fun same plain => waits_of_granule inFlight writer earlier (touches_of_piece piece same plain),
      fun theirs ours element => waits_of_device inFlight writer earlier piece theirs ours element,
      fun ours ctx => waits_of_strong inFlight writer earlier piece ours ctx⟩
  case fence => exact fun s a b p q inFlight writer behind piece ordered => waits_of_fence inFlight writer behind piece ordered
  case alone => exact fun s a p alone chains origin _ normal plain => mayPerform_alone alone chains origin normal plain
  case empty => exact fun s a p clear lanes op empty => waits_of_empty op empty
  case table => exact fun ty w m b c => ⟨rfl, rfl, rfl, rfl, rfl, rfl, rfl, atomicMin_eq ty w m b c, atomicMax_eq ty w m b c⟩
  case lanes => exact fun op ty x l inside => bits_combineLanes op ty x l inside
  case returns =>
    intro s id g a p data mask full poison found back op memory
    refine ⟨exec_atomicReturnWrite_waits found back, fun free => ⟨_, exec_atomicReturnWrite found back op free, written_after memory, ?_⟩⟩
    intro pieces backs returns number origin quiet
    obtain ⟨_, _, _, _, instant⟩ := instant_stored (s := s) (a := a) memory data mask full poison
    rw [instant]
    have ident : a.id = id := id_of_found found
    exact store_ends rfl rfl ident pieces backs (by simp [returns]) (by rw [origin]; exact Origin.noConfusion) number quiet
  case data =>
    intro s id a o found waits number origin done
    have step := exec_loadDataReturn found waits number origin done
    refine ⟨fun clean => ?_, fun bad => ?_⟩
    · rw [step, clean]
      rfl
    · rw [step, bad]
      rfl
  case early => exact fun s id a found owed => exec_loadDataReturn_early found owed
  case poison =>
    intro s id g a p data mask full poison found piece op memory free
    exact ⟨fun cut => ⟨_, exec_poisonNotice_cutOff found piece op cut free, written_after memory⟩, exec_poisonNotice_other found piece op⟩
  case cutOff => exact fun s a p => cutOff_iff s a p

end Sys2Proof.Machine
end
